-- ==== Sys2Proof/Word.lean ====
section
/-! DEFINITION. The word types of the device and their plainest arithmetic (00_scope R3, R9). -/
namespace Sys2Proof

/-- A 64-bit register, op word or device address (R29, R114). -/
abbrev Word := BitVec 64
/-- One byte of memory. -/
abbrev Byte := BitVec 8
/-- A band: tenant in bits 7:4, level in bits 1:0 (R373). -/
abbrev Band := BitVec 8
/-- A front-end ID: core ID × 2 + front end (R11). -/
abbrev FeId := BitVec 9
/-- A core ID: die × 64 + cluster × 8 + core (R11). -/
abbrev CoreId := BitVec 8

/-- `SignExt` of R9 to 64 bits. -/
abbrev sext64 {n : Nat} (x : BitVec n) : Word := x.signExtend 64
/-- `ZeroExt` of R9 to 64 bits. -/
abbrev zext64 {n : Nat} (x : BitVec n) : Word := x.setWidth 64

end Sys2Proof
end

