-- ==== Sys2Proof/Syntax.lean ====
section
/-! DEFINITION. The instructions: the op words of the eight slots, the Milliner, block-store and Trimmer words, and
the device's events (spec/opcode_table.json), one constructor for each row. Each operand has the exact width of its
field (02_encoding). -/
namespace Sys2Proof

/-- What every op word carries beside its operands (R29): STOP, MARK, STAGE and the guard G. -/
structure OpHdr where
  stop : Bool
  mark : Bool
  stage : BitVec 3
  g : BitVec 4
deriving DecidableEq, Repr

/-- The vector types (R31). -/
inductive VTy where
  | i8 | u8 | i16 | u16 | i32 | u32 | bf16 | f16 | f32
deriving DecidableEq, Repr

/-- The integer vector types (R152). -/
inductive ITy where
  | i8 | u8 | i16 | u16 | i32 | u32
deriving DecidableEq, Repr

/-- The floating-point vector types (R152). -/
inductive FTy where
  | bf16 | f16 | f32
deriving DecidableEq, Repr

/-- The types of `vdot4` (R152). -/
inductive BTy where
  | i8 | u8
deriving DecidableEq, Repr

/-- A vector source: a register, or a stream register named through QA or QB (R143). -/
inductive VSrc where
  | v (n : BitVec 6)
  | q (n : BitVec 3)
deriving DecidableEq, Repr

/-- The RMS field (R143): `FMT.RM`, or a mode of its own. -/
inductive Rms where
  | fmt
  | mode (m : BitVec 2)
deriving DecidableEq, Repr

/-- Who writes an MMIO register: the Crown of a cluster (R15), Headwater, a host (R7, R28, R395, R401). -/
inductive Agent where
  | crown (cluster : BitVec 5)
  | headwater | host0 | host1
deriving DecidableEq, Repr

/-- The translation cache that a fill, a PRI response or an invalidation concerns (R226, R277). -/
inductive XUnit where
  | core | gen | chan (c : Bool)
deriving DecidableEq, Repr

/-- The completion of an ATS request (R227): no page, or a page with its size code, permissions and address. -/
inductive AtsReply where
  | absent
  | page (pa : BitVec 64) (sz : BitVec 4) (r w : Bool)
deriving DecidableEq, Repr

/-- A firmware image (R414): its bytes from the start of a bank, and whether its XMSS signature verifies under the fused key. -/
structure FwImage where
  bytes : List (BitVec 8)
  signed : Bool
deriving DecidableEq, Repr

/-- The instructions and events of the opcode table, one constructor for each row. -/
inductive Instr where
  | nop (h : OpHdr) (slot : BitVec 3)
  | add (h : OpHdr) (d : BitVec 6) (a : BitVec 6) (b : BitVec 6)
  | sub (h : OpHdr) (d : BitVec 6) (a : BitVec 6) (b : BitVec 6)
  | and (h : OpHdr) (d : BitVec 6) (a : BitVec 6) (b : BitVec 6)
  | or (h : OpHdr) (d : BitVec 6) (a : BitVec 6) (b : BitVec 6)
  | xor (h : OpHdr) (d : BitVec 6) (a : BitVec 6) (b : BitVec 6)
  | andn (h : OpHdr) (d : BitVec 6) (a : BitVec 6) (b : BitVec 6)
  | shl (h : OpHdr) (d : BitVec 6) (a : BitVec 6) (b : BitVec 6)
  | shr (h : OpHdr) (d : BitVec 6) (a : BitVec 6) (b : BitVec 6)
  | sra (h : OpHdr) (d : BitVec 6) (a : BitVec 6) (b : BitVec 6)
  | rot (h : OpHdr) (d : BitVec 6) (a : BitVec 6) (b : BitVec 6)
  | min (h : OpHdr) (d : BitVec 6) (a : BitVec 6) (b : BitVec 6)
  | max (h : OpHdr) (d : BitVec 6) (a : BitVec 6) (b : BitVec 6)
  | minu (h : OpHdr) (d : BitVec 6) (a : BitVec 6) (b : BitVec 6)
  | maxu (h : OpHdr) (d : BitVec 6) (a : BitVec 6) (b : BitVec 6)
  | mul (h : OpHdr) (d : BitVec 6) (a : BitVec 6) (b : BitVec 6)
  | mulh (h : OpHdr) (d : BitVec 6) (a : BitVec 6) (b : BitVec 6)
  | mulhu (h : OpHdr) (d : BitVec 6) (a : BitVec 6) (b : BitVec 6)
  | div (h : OpHdr) (d : BitVec 6) (a : BitVec 6) (b : BitVec 6)
  | divu (h : OpHdr) (d : BitVec 6) (a : BitVec 6) (b : BitVec 6)
  | rem (h : OpHdr) (d : BitVec 6) (a : BitVec 6) (b : BitVec 6)
  | remu (h : OpHdr) (d : BitVec 6) (a : BitVec 6) (b : BitVec 6)
  | clz (h : OpHdr) (d : BitVec 6) (a : BitVec 6)
  | ctz (h : OpHdr) (d : BitVec 6) (a : BitVec 6)
  | popc (h : OpHdr) (d : BitVec 6) (a : BitVec 6)
  | bfx (h : OpHdr) (d : BitVec 6) (a : BitVec 6) (sx : Bool) (lenm1 : BitVec 6) (pos : BitVec 6)
  | bfi (h : OpHdr) (d : BitVec 6) (a : BitVec 6) (b : BitVec 6) (lenm1 : BitVec 6) (pos : BitVec 6)
  | sel (h : OpHdr) (d : BitVec 6) (a : BitVec 6) (b : BitVec 6) (c : BitVec 4)
  | addi (h : OpHdr) (d : BitVec 6) (a : BitVec 6) (imm : BitVec 32)
  | andi (h : OpHdr) (d : BitVec 6) (a : BitVec 6) (imm : BitVec 32)
  | ori (h : OpHdr) (d : BitVec 6) (a : BitVec 6) (imm : BitVec 32)
  | xori (h : OpHdr) (d : BitVec 6) (a : BitVec 6) (imm : BitVec 32)
  | shli (h : OpHdr) (d : BitVec 6) (a : BitVec 6) (n : BitVec 32)
  | shri (h : OpHdr) (d : BitVec 6) (a : BitVec 6) (n : BitVec 32)
  | srai (h : OpHdr) (d : BitVec 6) (a : BitVec 6) (n : BitVec 32)
  | li (h : OpHdr) (d : BitVec 6) (imm : BitVec 32)
  | lih (h : OpHdr) (d : BitVec 6) (a : BitVec 6) (imm : BitVec 32)
  | muli (h : OpHdr) (d : BitVec 6) (a : BitVec 6) (imm : BitVec 32)
  | ceq (h : OpHdr) (d : BitVec 4) (a : BitVec 6) (b : BitVec 6)
  | cne (h : OpHdr) (d : BitVec 4) (a : BitVec 6) (b : BitVec 6)
  | clt (h : OpHdr) (d : BitVec 4) (a : BitVec 6) (b : BitVec 6)
  | cltu (h : OpHdr) (d : BitVec 4) (a : BitVec 6) (b : BitVec 6)
  | cle (h : OpHdr) (d : BitVec 4) (a : BitVec 6) (b : BitVec 6)
  | cleu (h : OpHdr) (d : BitVec 4) (a : BitVec 6) (b : BitVec 6)
  | ceqi (h : OpHdr) (d : BitVec 4) (a : BitVec 6) (imm : BitVec 32)
  | clti (h : OpHdr) (d : BitVec 4) (a : BitVec 6) (imm : BitVec 32)
  | pand (h : OpHdr) (d : BitVec 4) (a : BitVec 4) (b : BitVec 4)
  | por (h : OpHdr) (d : BitVec 4) (a : BitVec 4) (b : BitVec 4)
  | pxor (h : OpHdr) (d : BitVec 4) (a : BitVec 4) (b : BitVec 4)
  | pnot (h : OpHdr) (d : BitVec 4) (a : BitVec 4)
  | pset (h : OpHdr) (d : BitVec 4) (a : BitVec 6) (t : VTy)
  | skip (h : OpHdr) (a : BitVec 4) (n : BitVec 32)
  | eskip (h : OpHdr) (a : BitVec 4) (hint : Bool) (n : BitVec 5)
  | post (h : OpHdr) (a : BitVec 6)
  | rdsr (h : OpHdr) (d : BitVec 6) (n : BitVec 32)
  | wrsr (h : OpHdr) (a : BitVec 6) (n : BitVec 32)
  | endq (h : OpHdr)
  | lset (h : OpHdr) (a : BitVec 6) (k : BitVec 32)
  | lbody (h : OpHdr) (n : BitVec 32)
  | lstage (h : OpHdr) (n : BitVec 32)
  | lgo (h : OpHdr) (n : BitVec 3)
  | lbrk (h : OpHdr)
  | lidx (h : OpHdr) (d : BitVec 6) (k : BitVec 3)
  | vadd (h : OpHdr) (vb : Bool) (t : ITy) (d : BitVec 6) (a : VSrc) (b : VSrc)
  | vsub (h : OpHdr) (vb : Bool) (t : ITy) (d : BitVec 6) (a : VSrc) (b : VSrc)
  | vmul (h : OpHdr) (vb : Bool) (t : ITy) (d : BitVec 6) (a : VSrc) (b : VSrc)
  | vmac (h : OpHdr) (vb : Bool) (t : ITy) (d : BitVec 6) (a : VSrc) (b : VSrc) (c : BitVec 6)
  | vadds (h : OpHdr) (vb : Bool) (t : ITy) (d : BitVec 6) (a : VSrc) (b : VSrc)
  | vsubs (h : OpHdr) (vb : Bool) (t : ITy) (d : BitVec 6) (a : VSrc) (b : VSrc)
  | vmin (h : OpHdr) (vb : Bool) (t : ITy) (d : BitVec 6) (a : VSrc) (b : VSrc)
  | vmax (h : OpHdr) (vb : Bool) (t : ITy) (d : BitVec 6) (a : VSrc) (b : VSrc)
  | vabs (h : OpHdr) (vb : Bool) (t : ITy) (d : BitVec 6) (a : VSrc)
  | vshl (h : OpHdr) (vb : Bool) (t : ITy) (d : BitVec 6) (a : VSrc) (b : VSrc)
  | vshr (h : OpHdr) (vb : Bool) (t : ITy) (d : BitVec 6) (a : VSrc) (b : VSrc)
  | vsra (h : OpHdr) (vb : Bool) (t : ITy) (d : BitVec 6) (a : VSrc) (b : VSrc)
  | vand (h : OpHdr) (vb : Bool) (t : ITy) (d : BitVec 6) (a : VSrc) (b : VSrc)
  | vor (h : OpHdr) (vb : Bool) (t : ITy) (d : BitVec 6) (a : VSrc) (b : VSrc)
  | vxor (h : OpHdr) (vb : Bool) (t : ITy) (d : BitVec 6) (a : VSrc) (b : VSrc)
  | vmulhr (h : OpHdr) (vb : Bool) (t : ITy) (d : BitVec 6) (a : VSrc) (b : VSrc)
  | vdot4 (h : OpHdr) (vb : Bool) (t : BTy) (d : BitVec 6) (a : VSrc) (b : VSrc) (c : BitVec 6) (mixb : Bool)
  | vsel (h : OpHdr) (vb : Bool) (t : VTy) (d : BitVec 6) (a : VSrc) (b : VSrc) (c : BitVec 4)
  | vfadd (h : OpHdr) (vb : Bool) (t : FTy) (d : BitVec 6) (a : VSrc) (b : VSrc) (rms : Rms)
  | vfsub (h : OpHdr) (vb : Bool) (t : FTy) (d : BitVec 6) (a : VSrc) (b : VSrc) (rms : Rms)
  | vfmul (h : OpHdr) (vb : Bool) (t : FTy) (d : BitVec 6) (a : VSrc) (b : VSrc) (rms : Rms)
  | vfma (h : OpHdr) (vb : Bool) (t : FTy) (d : BitVec 6) (a : VSrc) (b : VSrc) (c : BitVec 6) (rms : Rms)
  | vfmin (h : OpHdr) (vb : Bool) (t : FTy) (d : BitVec 6) (a : VSrc) (b : VSrc)
  | vfmax (h : OpHdr) (vb : Bool) (t : FTy) (d : BitVec 6) (a : VSrc) (b : VSrc)
  | vfabs (h : OpHdr) (vb : Bool) (t : FTy) (d : BitVec 6) (a : VSrc)
  | vfneg (h : OpHdr) (vb : Bool) (t : FTy) (d : BitVec 6) (a : VSrc)
  | vrcp (h : OpHdr) (vb : Bool) (t : FTy) (d : BitVec 6) (a : VSrc) (rms : Rms)
  | vrsqrt (h : OpHdr) (vb : Bool) (t : FTy) (d : BitVec 6) (a : VSrc) (rms : Rms)
  | vexp2 (h : OpHdr) (vb : Bool) (t : FTy) (d : BitVec 6) (a : VSrc) (rms : Rms)
  | vlog2 (h : OpHdr) (vb : Bool) (t : FTy) (d : BitVec 6) (a : VSrc) (rms : Rms)
  | vfcmp (h : OpHdr) (vb : Bool) (t : FTy) (d : BitVec 4) (a : VSrc) (b : VSrc) (cond : BitVec 3)
  | vcmp (h : OpHdr) (vb : Bool) (t : ITy) (d : BitVec 4) (a : VSrc) (b : VSrc) (cond : BitVec 3)
  | vcvt (h : OpHdr) (vb : Bool) (t : VTy) (d : BitVec 6) (a : VSrc) (sat : Bool) (nfmt : BitVec 4) (nsrc : Bool) (narrow : Bool) (dtype : BitVec 4) (rms : Rms)
  | vquant (h : OpHdr) (vb : Bool) (t : FTy) (d : BitVec 6) (a : VSrc) (sat : Bool) (qfmt : BitVec 4) (rms : Rms)
  | vdequant (h : OpHdr) (vb : Bool) (t : FTy) (d : BitVec 6) (a : VSrc) (qfmt : BitVec 4) (rms : Rms)
  | vscale2 (h : OpHdr) (vb : Bool) (t : FTy) (d : BitVec 6) (a : VSrc) (b : VSrc) (rms : Rms)
  | vrsum (h : OpHdr) (vb : Bool) (t : VTy) (d : BitVec 6) (a : VSrc) (lseg : BitVec 4) (rms : Rms)
  | vrmax (h : OpHdr) (vb : Bool) (t : VTy) (d : BitVec 6) (a : VSrc) (lseg : BitVec 4)
  | vramax (h : OpHdr) (vb : Bool) (t : VTy) (d : BitVec 6) (a : VSrc) (lseg : BitVec 4)
  | vrmin (h : OpHdr) (vb : Bool) (t : VTy) (d : BitVec 6) (a : VSrc) (lseg : BitVec 4)
  | vperm (h : OpHdr) (vb : Bool) (t : VTy) (d : BitVec 6) (a : VSrc) (b : VSrc) (c : BitVec 6) (two : Bool)
  | vbcast (h : OpHdr) (vb : Bool) (t : VTy) (d : BitVec 6) (a : VSrc) (lane : BitVec 8)
  | vext (h : OpHdr) (vb : Bool) (t : VTy) (d : BitVec 6) (a : VSrc) (lane : BitVec 8)
  | vins (h : OpHdr) (vb : Bool) (t : VTy) (d : BitVec 6) (a : BitVec 6) (lane : BitVec 8)
  | vslide (h : OpHdr) (vb : Bool) (t : VTy) (d : BitVec 6) (a : VSrc) (b : VSrc) (lane : BitVec 8)
  | vzip (h : OpHdr) (vb : Bool) (t : VTy) (d : BitVec 6) (a : VSrc) (b : VSrc) (half : Bool)
  | vunzip (h : OpHdr) (vb : Bool) (t : VTy) (d : BitVec 6) (a : VSrc) (b : VSrc) (odd : Bool)
  | vmov (h : OpHdr) (vb : Bool) (t : VTy) (d : BitVec 6) (a : VSrc)
  | vsplat (h : OpHdr) (vb : Bool) (t : VTy) (d : BitVec 6) (a : BitVec 6)
  | vamul (h : OpHdr) (vb : Bool) (t : FTy) (d : BitVec 6) (a : VSrc) (b : VSrc) (swap : Bool) (rms : Rms)
  | vamac (h : OpHdr) (vb : Bool) (t : FTy) (d : BitVec 6) (a : VSrc) (b : VSrc) (c : BitVec 6) (swap : Bool) (rms : Rms)
  | vconj (h : OpHdr) (vb : Bool) (t : FTy) (d : BitVec 6) (a : VSrc)
  | vnorm (h : OpHdr) (vb : Bool) (t : FTy) (d : BitVec 6) (a : VSrc) (rms : Rms)
  | sminit (h : OpHdr) (n : BitVec 5) (row : BitVec 6)
  | smstep (h : OpHdr) (d : BitVec 6) (a : VSrc) (row : BitVec 6) (rms : Rms)
  | smrsc (h : OpHdr) (d : BitVec 6) (row : BitVec 6)
  | smfin (h : OpHdr) (d : BitVec 6) (a : VSrc) (row : BitVec 6) (rms : Rms)
  | smget (h : OpHdr) (d : BitVec 6) (row : BitVec 6)
  | mcall (h : OpHdr) (a : BitVec 6) (rsc : Bool) (dr : Bool) (zi : Bool) (swap : Bool) (rout : BitVec 6)
  | mset (h : OpHdr) (d : BitVec 3) (a : BitVec 6)
  | msetRs (h : OpHdr) (a : BitVec 6) (k : BitVec 5)
  | mget (h : OpHdr) (d : BitVec 6) (a : BitVec 3)
  | mgetRs (h : OpHdr) (d : BitVec 6) (k : BitVec 5)
  | malg (h : OpHdr) (d : BitVec 2) (a : BitVec 6)
  | mdrain (h : OpHdr)
  | mdrainRaw (h : OpHdr) (a : BitVec 6)
  | mfill (h : OpHdr) (a : BitVec 6)
  | mfreeze (h : OpHdr)
  | mthaw (h : OpHdr)
  | mstat (h : OpHdr) (d : BitVec 6) (clr : Bool)
  | mload (h : OpHdr) (base : BitVec 6) (size : BitVec 3) (kind : Bool) (scope : BitVec 2) (off : BitVec 24)
  | tload (h : OpHdr) (d : BitVec 6) (base : BitVec 6) (size : BitVec 3) (off : BitVec 24)
  | mzero (h : OpHdr)
  | ld (h : OpHdr) (d : BitVec 6) (base : BitVec 6) (size : BitVec 3) (kind : Bool) (scope : BitVec 2) (off : BitVec 24)
  | vld (h : OpHdr) (d : BitVec 6) (base : BitVec 6) (size : BitVec 3) (kind : Bool) (scope : BitVec 2) (off : BitVec 24)
  | vldc (h : OpHdr) (d : BitVec 6) (base : BitVec 6) (size : BitVec 3) (off : BitVec 24)
  | vldr (h : OpHdr) (d : BitVec 6) (a : BitVec 4) (b : BitVec 6) (tile : BitVec 8)
  | vldg (h : OpHdr) (t : VTy) (d : BitVec 6) (a : BitVec 6) (b : BitVec 6)
  | vlds (h : OpHdr) (t : VTy) (d : BitVec 6) (a : BitVec 6) (b : BitVec 6)
  | lsq (h : OpHdr) (base : BitVec 6) (size : BitVec 3) (kind : Bool) (scope : BitVec 2) (off : BitVec 24)
  | qset (h : OpHdr) (d : BitVec 3) (base : BitVec 6) (size : BitVec 3) (kind : Bool) (scope : BitVec 2) (off : BitVec 24)
  | qclr (h : OpHdr) (d : BitVec 3)
  | pref (h : OpHdr) (d : BitVec 6) (base : BitVec 6) (size : BitVec 3) (off : BitVec 24)
  | amo (h : OpHdr) (d : BitVec 6) (a : BitVec 6) (b : BitVec 6) (c : BitVec 6) (rel : Bool) (acq : Bool) (scope : BitVec 2) (sz : BitVec 2) (fn : BitVec 4)
  | st (h : OpHdr) (d : BitVec 6) (base : BitVec 6) (size : BitVec 3) (kind : Bool) (scope : BitVec 2) (off : BitVec 24)
  | vst (h : OpHdr) (d : BitVec 6) (base : BitVec 6) (size : BitVec 3) (kind : Bool) (scope : BitVec 2) (off : BitVec 24)
  | vstm (h : OpHdr) (d : BitVec 6) (base : BitVec 6) (size : BitVec 3) (kind : Bool) (scope : BitVec 2) (off : BitVec 24)
  | vstr (h : OpHdr) (d : BitVec 6) (a : BitVec 4) (b : BitVec 6) (tile : BitVec 8)
  | vsts (h : OpHdr) (t : VTy) (d : BitVec 6) (a : BitVec 6) (b : BitVec 6)
  | cflush (h : OpHdr) (base : BitVec 6) (size : BitVec 3) (scope : BitVec 2) (off : BitVec 24)
  | cinval (h : OpHdr) (base : BitVec 6) (size : BitVec 3) (scope : BitVec 2) (off : BitVec 24)
  | cclean (h : OpHdr) (base : BitVec 6) (size : BitVec 3) (scope : BitVec 2) (off : BitVec 24)
  | radv (h : OpHdr) (a : BitVec 4) (n : BitVec 9)
  | cpy (h : OpHdr) (a : BitVec 6) (b : BitVec 6) (c : BitVec 6) (sig : Bool) (chg : Bool) (addm : BitVec 3) (ch : Bool)
  | cnl (h : OpHdr) (a : BitVec 6) (b : BitVec 6) (c : BitVec 6) (lvl : BitVec 3) (ch : Bool)
  | cnb (h : OpHdr) (a : BitVec 6) (b : BitVec 6) (c : BitVec 6) (ch : Bool)
  | cgo (h : OpHdr) (lv : BitVec 3) (sig : Bool) (chg : Bool) (addm : BitVec 3) (ch : Bool)
  | cdrain (h : OpHdr) (ch : Bool)
  | cmode (h : OpHdr) (len : Bool) (ch : Bool)
  | cstat (h : OpHdr) (d : BitVec 6) (ch : Bool)
  | ckv (h : OpHdr) (a : BitVec 6) (b : BitVec 6) (c : BitVec 6) (dir : Bool) (sig : Bool) (chg : Bool) (ch : Bool)
  | cred (h : OpHdr) (a : BitVec 6) (b : BitVec 6) (ch : Bool)
  | fence (h : OpHdr) (scope : BitVec 2) (ftype : BitVec 2)
  | tfence (h : OpHdr) (scope : BitVec 2)
  | twait (h : OpHdr) (tl : BitVec 2) (b : BitVec 6) (imm11 : BitVec 11) (i : Bool) (scope : BitVec 2)
  | tget (h : OpHdr) (d : BitVec 6) (tl : BitVec 2) (done : Bool)
  | barv (h : OpHdr) (a : BitVec 6)
  | bexp (h : OpHdr) (a : BitVec 6) (b : BitVec 6)
  | bwait (h : OpHdr) (a : BitVec 6) (b : BitVec 6)
  | sigdec (h : OpHdr) (a : BitVec 6) (b : BitVec 6) (fail : Bool)
  | sigwait (h : OpHdr) (d : BitVec 6) (a : BitVec 6)
  | mwait (h : OpHdr) (d : BitVec 6) (a : BitVec 6) (b : BitVec 6) (tmo : BitVec 16)
  | launch (h : OpHdr) (d : BitVec 6) (a : BitVec 6)
  | exit (h : OpHdr) (fail : Bool)
  | trap (h : OpHdr) (code : BitVec 16)
  | fmt (h : OpHdr) (covf : Bool) (cnan : Bool) (walg : Bool) (wrm : Bool) (alg : BitVec 2) (rm : BitVec 2)
  | bandup (h : OpHdr) (a : BitVec 6)
  | seal_ (h : OpHdr) (a : BitVec 6) (b : BitVec 6) (c : BitVec 6) (k : BitVec 2)
  | open_ (h : OpHdr) (a : BitVec 6) (b : BitVec 6) (c : BitVec 6) (k : BitVec 2)
  | wld (h : OpHdr) (a : BitVec 6) (b : BitVec 6) (seg : BitVec 4)
  | wlock (h : OpHdr) (seg : BitVec 4)
  | wunlk (h : OpHdr) (seg : BitVec 4)
  | wx (h : OpHdr) (d : BitVec 6) (a : BitVec 6) (mode : BitVec 2)
  | yield (h : OpHdr)
  | rdtime (h : OpHdr) (d : BitVec 6)
  | gadd (d : BitVec 5) (a : BitVec 5) (b : BitVec 5)
  | gsub (d : BitVec 5) (a : BitVec 5) (b : BitVec 5)
  | gand (d : BitVec 5) (a : BitVec 5) (b : BitVec 5)
  | gor (d : BitVec 5) (a : BitVec 5) (b : BitVec 5)
  | gxor (d : BitVec 5) (a : BitVec 5) (b : BitVec 5)
  | gshl (d : BitVec 5) (a : BitVec 5) (b : BitVec 5)
  | gshr (d : BitVec 5) (a : BitVec 5) (b : BitVec 5)
  | gsra (d : BitVec 5) (a : BitVec 5) (b : BitVec 5)
  | gmul (d : BitVec 5) (a : BitVec 5) (b : BitVec 5)
  | gaddi (d : BitVec 5) (a : BitVec 5) (i : BitVec 16)
  | gandi (d : BitVec 5) (a : BitVec 5) (i : BitVec 16)
  | gori (d : BitVec 5) (a : BitVec 5) (i : BitVec 16)
  | gshli (d : BitVec 5) (a : BitVec 5) (n : BitVec 6)
  | gshri (d : BitVec 5) (a : BitVec 5) (n : BitVec 6)
  | gli (d : BitVec 5) (i : BitVec 16)
  | glih (d : BitVec 5) (a : BitVec 5) (i : BitVec 16)
  | gslt (d : BitVec 5) (a : BitVec 5) (b : BitVec 5)
  | gsltu (d : BitVec 5) (a : BitVec 5) (b : BitVec 5)
  | gbeq (a : BitVec 5) (b : BitVec 5) (o : BitVec 16)
  | gbne (a : BitVec 5) (b : BitVec 5) (o : BitVec 16)
  | gblt (a : BitVec 5) (b : BitVec 5) (o : BitVec 16)
  | gbge (a : BitVec 5) (b : BitVec 5) (o : BitVec 16)
  | gbltu (a : BitVec 5) (b : BitVec 5) (o : BitVec 16)
  | gbgeu (a : BitVec 5) (b : BitVec 5) (o : BitVec 16)
  | gj (o : BitVec 21)
  | gjal (d : BitVec 5) (o : BitVec 21)
  | gjr (d : BitVec 5) (a : BitVec 5)
  | gld (d : BitVec 5) (a : BitVec 5) (i : BitVec 16)
  | gst (d : BitVec 5) (a : BitVec 5) (i : BitVec 16)
  | tld (b : BitVec 3) (a : BitVec 5) (i : BitVec 11)
  | tpat (b : BitVec 3) (slot : BitVec 3) (fsel : BitVec 4) (a : BitVec 5) (i : BitVec 11)
  | tpati (b : BitVec 3) (slot : BitVec 3) (fsel : BitVec 4) (i : BitVec 11)
  | tclr (b : BitVec 3) (slot : BitVec 3)
  | tclrAll (b : BitVec 3)
  | emit (b : BitVec 3)
  | emitm (b : BitVec 3)
  | emitr (d : BitVec 5) (a : BitVec 5) (b : BitVec 5)
  | gwait (d : BitVec 5) (a : BitVec 5)
  | grecv (d : BitVec 5)
  | grds (d : BitVec 5) (n : BitVec 16)
  | gwrs (a : BitVec 5) (n : BitVec 16)
  | gtrap (code : BitVec 16)
  | gend
  | pulla (ts : BitVec 3) (bs : BitVec 3)
  | pullb (ts : BitVec 3) (bs : BitVec 3)
  | pullm (ts : BitVec 3) (bs : BitVec 3)
  | step (ms : BitVec 3) (ns : BitVec 3)
  | stepk (ms : BitVec 3) (ns : BitVec 3) (ats : BitVec 3) (bts : BitVec 3)
  | zacc (ms : BitVec 3) (ns : BitVec 3)
  | sqpop
  | drain (ms : BitVec 3) (ns : BitVec 3)
  | loop (lvl : BitVec 3) (cs : BitVec 3) (i : BitVec 16)
  | endl
  | syncc
  | waitr (ring : BitVec 2) (n : BitVec 9)
  | swap
  | ret
  | trimTld (src : Bool) (k : BitVec 6)
  | tbias (k : BitVec 6)
  | tmul (k : BitVec 6)
  | tts
  | tact (sh : BitVec 5) (fn : BitVec 4)
  | trnd
  | tcvt (sat : Bool) (fc : BitVec 4)
  | tsat (kl : BitVec 6) (kh : BitVec 6)
  | trmax
  | trsum (sq : Bool)
  | tqnt (sat : Bool) (fc : BitVec 4)
  | tadd (fc : BitVec 4)
  | tmulr (epse : BitVec 8) (sh : BitVec 6) (f : BitVec 2)
  | tst (w : Bool)
  | tsts
  | tend
  | mergeStageIssue (core : CoreId)
  | starvationBreak (core : CoreId)
  | pendingTrapRecordWrite (fe : FeId)
  | registerLanding (fe : FeId)
  | loadDataArrival (fe : FeId) (idx : (BitVec 6))
  | amoResultReturn (fe : FeId) (idx : (BitVec 6))
  | storePerform (fe : FeId) (idx : (BitVec 8))
  | cacheMaintenanceComplete (fe : FeId) (idx : (BitVec 6))
  | eskipResolve (fe : FeId)
  | eskipEntryEnter (fe : FeId)
  | quietPoint (fe : FeId)
  | asyncStopTake (fe : FeId)
  | runnelSpaceRelease (fe : FeId)
  | millinerWaitEnd (fe : FeId)
  | spoutRead (fe : FeId) (q : (BitVec 3))
  | lsqPairArrival (fe : FeId)
  | translationFill (fe : FeId) (unit : XUnit) (va : Word) (reply : AtsReply)
  | priResponse (fe : FeId) (unit : XUnit) (code : (BitVec 16))
  | atsInvalidation (tenant : (BitVec 4)) (va : Word) (size : (BitVec 64))
  | cisternRefresh
  | matrixCommandStart (core : CoreId)
  | matrixCommandComplete (core : CoreId)
  | ringWaitRelease (fe : FeId)
  | scaleQueueWaitRelease (fe : FeId)
  | synccRelease (fe : FeId)
  | cooperativeTimeout (fe : FeId)
  | freezePointReached (fe : FeId)
  | blockStoreWriteApply (core : CoreId)
  | copyDataBeat (fe : FeId) (ch : Bool) (ecc : Bool)
  | copyComplete (fe : FeId) (ch : Bool)
  | basinArrival (idx : (BitVec 16))
  | basinExpectation (idx : (BitVec 16))
  | basinCharge (idx : (BitVec 16))
  | basinEvaluate (fe : FeId) (off : (BitVec 21))
  | bwaitRelease (fe : FeId)
  | twaitRelease (fe : FeId)
  | sigwaitRelease (fe : FeId)
  | mwaitEnd (fe : FeId)
  | mwaitTimeout (fe : FeId)
  | cdrainRelease (fe : FeId)
  | fenceComplete (fe : FeId)
  | tfenceComplete (fe : FeId)
  | tfenceTimeout (fe : FeId)
  | launchAccept (fe : FeId)
  | contextExitComplete (fe : FeId)
  | taskFailedRetire (task : (BitVec 32))
  | rinseComplete (fe : FeId)
  | commandEntryTake (win : (BitVec 6)) (q : (BitVec 6))
  | dispatcherScan
  | taskEligible (task : (BitVec 32))
  | taskAbandon (task : (BitVec 32))
  | taskAging
  | dispatcherSelect (task : (BitVec 32)) (place : (List FeId)) (victims : (List (BitVec 32)))
  | gangRestore (task : (BitVec 32))
  | fillHoldFill (die : (BitVec 2))
  | kernelRegister (handle : (BitVec 32)) (desc : (List Word))
  | resume (fe : FeId)
  | kill (fe : FeId)
  | stop (fe : FeId) (arg : (BitVec 4))
  | intr (fe : FeId)
  | save (fe : FeId)
  | restore (fe : FeId)
  | imagePortDone (fe : FeId)
  | relch (fe : FeId) (ch : Bool)
  | unbind (fe : FeId)
  | mmioWrite (who : Agent) (addr : Word) (data : Word)
  | regionEntryValidate (who : Agent) (n : (BitVec 6)) (word0 : Word)
  | crownWeirWrite (fe : FeId) (off : (BitVec 16)) (data : Word)
  | fillGo (die : (BitVec 2)) (data : Word)
  | fillComplete (die : (BitVec 2))
  | fillMediaError (die : (BitVec 2))
  | fabricPlanWrite (plan : (List Byte))
  | fabricFrameBoundary
  | hostMemAccess (port : Bool) (hpa : Word) (write : (Option (List Byte))) (len : (BitVec 8)) (poison : Bool)
  | doorbell (port : Bool) (win : (BitVec 6)) (q : (BitVec 6))
  | doorbellRead (port : Bool) (win : (BitVec 6)) (q : (BitVec 6))
  | queueEnable (win : (BitVec 6)) (q : (BitVec 6))
  | queueTeardown (win : (BitVec 6)) (q : (BitVec 6))
  | queueReset (win : (BitVec 6)) (q : (BitVec 6))
  | teardownDone (win : (BitVec 6)) (q : (BitVec 6))
  | biasGoToH (blk : (BitVec 2))
  | biasGoToD (blk : (BitVec 2))
  | biasFlipToHDone (page : (BitVec 40))
  | biasFlipToDDone (page : (BitVec 40))
  | poolBackInvalidate (addr : Word)
  | poolHeadLoss (head : (BitVec 2))
  | poolRequestTimeout (head : (BitVec 2))
  | ideMacFailure (port : (BitVec 3))
  | ideRekeyComplete (port : (BitVec 3))
  | ideRekeyTimeout (port : (BitVec 3))
  | hostLoss (port : Bool)
  | hostRequestTimeout (port : Bool)
  | hostAcknowledge (port : Bool) (n : (BitVec 6)) (data : Word)
  | dynamicCapacityAdd (n : (BitVec 6)) (base : Word) (limit : Word) (attr : Word) (extent : (BitVec 16))
  | dynamicCapacityRelease (extent : (BitVec 16)) (forced : Bool)
  | resyncGo (blk : (BitVec 2))
  | redfishResync (pdisc : Bool)
  | deviceReset
  | bootWatchdogExpiry
  | healthyWrite
  | liveActivation (img : FwImage)
  | activationTimeout
  | getMeasurements (blk : (BitVec 8))
  | redfishComponentIntegrity
  | redfishFirmwareUpdate (img : FwImage)
  | redfishTaskAction (win : (BitVec 6)) (entry : (List Word))
  | agentTableWrite (tenant : (BitVec 4)) (data : Word)
  | traceEvent (w0 : Word) (w1 : Word)
  | traceUnfreeze
  | thermalThrottle (die : (BitVec 4)) (hot : Bool)
  | thermalTrip (die : (BitVec 4))
  | internalParity (touched : (List FeId))
  | fabricTimeout (touched : (List FeId))
  | illegalMillinerWord (fe : FeId) (w : (BitVec 32))
  | generatorFetchFault (fe : FeId)
  | illegalMicroWord (fe : FeId) (w : (BitVec 32))
  | illegalTrimmerWord (fe : FeId) (w : (BitVec 32))
  | cipherCommandComplete (core : CoreId)
  | linkTrained (port : (BitVec 3))
  | ideKmKeyProgramming (port : (BitVec 3)) (skid : Bool) (selective : Bool)
  | uncertainWriteLogClear
deriving DecidableEq, Repr

end Sys2Proof
end

