-- ==== Sys2Proof/WellFormed.lean ====
section
/-! DEFINITION. The checks on an instruction's fields (P00 of R31, R32, R35, R52, R141, R165). -/
namespace Sys2Proof

/-- Element width in bytes (R142). -/
def VTy.bytes : VTy → Nat
  | .i8 | .u8 => 1
  | .i16 | .u16 | .bf16 | .f16 => 2
  | .i32 | .u32 | .f32 => 4
/-- Lanes of a register (R142). -/
def VTy.lanes (t : VTy) : Nat := 256 / t.bytes
/-- log2 of the lanes (R162). -/
def VTy.logLanes (t : VTy) : Nat := if t.bytes = 1 then 8 else if t.bytes = 2 then 7 else 6
def VTy.isFp : VTy → Bool
  | .bf16 | .f16 | .f32 => true
  | .i8 | .u8 | .i16 | .u16 | .i32 | .u32 => false

/-- The special registers that a write may name (R44). -/
def srWritable (n : Nat) : Bool := n == 0 || n == 4 || n == 5 || n == 6

/-- The format codes of `vquant`, `vdequant` and `tqnt` (R159, R207). -/
def wfQfmt (c : BitVec 4) : Bool := decide (c.toNat ≤ 2) || decide (5 ≤ c.toNat ∧ c.toNat ≤ 9)

/-- The field combinations of `vcvt` (R158). -/
def wfCvt (narrow nsrc : Bool) (nfmt dtype : BitVec 4) : Bool :=
  if narrow then dtype == 0#4 && (decide (5 ≤ nfmt.toNat ∧ nfmt.toNat ≤ 9) || nfmt == 13#4)
  else decide (dtype.toNat ≤ 8) && !nsrc && nfmt == 0#4

/-- The combinations of `amo` (R239); `cz` says that C is 0. -/
def wfAmo (fn : BitVec 4) (sz : BitVec 2) (cz : Bool) : Bool :=
  if fn == 11#4 || fn == 12#4 then sz == 1#2 && cz
  else if fn == 10#4 then sz == 2#2 && cz
  else if fn == 9#4 then sz == 2#2 || sz == 3#2
  else decide (fn.toNat ≤ 8) && (sz == 2#2 || sz == 3#2) && cz

/-- The field checks of an instruction beyond the shape that its constructor fixes: a refused term is one that
raises P00 (R31, R35, R52 and the rule of each instruction). -/
def Instr.wf : Instr → Bool
  | .nop h _ => h.g == 0#4
  | .bfx _ _ _ _ lenm1 pos => decide (pos.toNat + lenm1.toNat ≤ 63)
  | .bfi _ _ _ _ lenm1 pos => decide (pos.toNat + lenm1.toNat ≤ 63)
  | .shli _ _ _ n => decide (n.toNat ≤ 63)
  | .shri _ _ _ n => decide (n.toNat ≤ 63)
  | .srai _ _ _ n => decide (n.toNat ≤ 63)
  | .ceq _ d _ _ => d != 0#4
  | .cne _ d _ _ => d != 0#4
  | .clt _ d _ _ => d != 0#4
  | .cltu _ d _ _ => d != 0#4
  | .cle _ d _ _ => d != 0#4
  | .cleu _ d _ _ => d != 0#4
  | .ceqi _ d _ _ => d != 0#4
  | .clti _ d _ _ => d != 0#4
  | .pand _ d _ _ => d != 0#4
  | .por _ d _ _ => d != 0#4
  | .pxor _ d _ _ => d != 0#4
  | .pnot _ d _ => d != 0#4
  | .pset _ d _ _ => d != 0#4
  | .skip _ _ n => decide (1 ≤ n.toNat ∧ n.toNat ≤ 64)
  | .eskip _ _ _ n => decide (1 ≤ n.toNat ∧ n.toNat ≤ 16)
  | .rdsr _ _ n => decide (n.toNat ≤ 9)
  | .wrsr _ _ n => srWritable n.toNat
  | .lset _ _ k => decide (k.toNat ≤ 5)
  | .lbody _ n => decide (1 ≤ n.toNat ∧ n.toNat ≤ 32)
  | .lstage _ n => decide (n.toNat ≤ 7)
  | .lgo _ n => decide (1 ≤ n.toNat ∧ n.toNat ≤ 6)
  | .lidx _ _ k => decide (k.toNat ≤ 5)
  | .vfcmp _ _ _ d _ _ _ => d != 0#4
  | .vcmp _ _ _ d _ _ cond => d != 0#4 && decide (cond.toNat ≤ 5)
  | .vcvt _ _ _ _ _ _ nfmt nsrc narrow dtype _ => wfCvt narrow nsrc nfmt dtype
  | .vquant _ _ _ _ _ _ qfmt _ => wfQfmt qfmt
  | .vdequant _ _ _ _ _ qfmt _ => wfQfmt qfmt
  | .vrsum _ _ t _ _ lseg rms => decide (lseg.toNat ≤ t.logLanes) && (rms == .fmt || t.isFp)
  | .vrmax _ _ t _ _ lseg => decide (lseg.toNat ≤ t.logLanes)
  | .vramax _ _ t _ _ lseg => decide (lseg.toNat ≤ t.logLanes)
  | .vrmin _ _ t _ _ lseg => decide (lseg.toNat ≤ t.logLanes)
  | .vperm _ _ t _ _ _ c two => if two then t.bytes != 1 else c == 0#6
  | .vbcast _ _ t _ _ lane => decide (lane.toNat < t.lanes)
  | .vext _ _ t _ _ lane => decide (lane.toNat < t.lanes)
  | .vins _ _ t _ _ lane => decide (lane.toNat < t.lanes)
  | .vslide _ _ t _ _ _ lane => decide (lane.toNat < t.lanes)
  | .sminit _ n row => decide (row.toNat + n.toNat ≤ 63)
  | .mcall _ a rsc _ zi _ _ => (rsc || a == 0#6) && !(zi && rsc)
  | .msetRs _ _ k => decide (k.toNat ≤ 17)
  | .mgetRs _ _ k => decide (k.toNat ≤ 17)
  | .mload _ _ size _ _ _ => size == 6#3
  | .tload _ _ _ size _ => size == 7#3
  | .ld _ _ _ size _ _ _ => decide (size.toNat ≤ 3)
  | .vld _ _ _ size _ _ _ => decide (4 ≤ size.toNat)
  | .vldc _ _ _ size _ => decide (6 ≤ size.toNat)
  | .lsq _ _ size _ _ _ => size != 0#3
  | .qset _ _ _ size _ _ _ => size == 6#3
  | .pref _ d _ size _ => decide (6 ≤ size.toNat) && decide (d.toNat ≤ 1)
  | .amo _ _ _ _ c _ _ _ sz fn => wfAmo fn sz (c == 0#6)
  | .st _ _ _ size _ _ _ => decide (size.toNat ≤ 3)
  | .vst _ _ _ size _ _ _ => decide (4 ≤ size.toNat)
  | .vstm _ _ _ size _ _ _ => decide (4 ≤ size.toNat)
  | .cflush _ _ size _ _ => decide (6 ≤ size.toNat)
  | .cinval _ _ size _ _ => decide (6 ≤ size.toNat)
  | .cclean _ _ size _ _ => decide (6 ≤ size.toNat)
  | .radv _ _ n => decide (1 ≤ n.toNat ∧ n.toNat ≤ 256)
  | .cpy _ _ _ _ _ _ addm _ => decide (addm.toNat ≤ 3)
  | .cnl _ _ _ _ lvl _ => decide (lvl.toNat ≤ 5)
  | .cgo _ lv _ _ addm _ => decide (addm.toNat ≤ 3) && decide (lv.toNat ≤ 6)
  | .fence _ _ ftype => ftype != 0#2
  | .twait _ _ b imm11 i _ => if i then b == 0#6 else imm11 == 0#11
  | .wx _ _ _ mode => mode != 3#2
  | .tpat _ _ fsel _ _ => decide (fsel.toNat ≤ 12)
  | .tpati _ _ fsel _ => decide (fsel.toNat ≤ 12)
  | .grds _ n => decide (n.toNat ≤ 9)
  | .gwrs _ n => srWritable n.toNat
  | .pulla ts bs => ts != 7#3 && bs != 7#3
  | .pullb ts bs => ts != 7#3 && bs != 7#3
  | .pullm ts bs => ts != 7#3 && bs != 7#3
  | .step ms ns => ms != 7#3 && ns != 7#3
  | .stepk ms ns ats bts => ms != 7#3 && ns != 7#3 && ats != 7#3 && bts != 7#3
  | .zacc ms ns => ms != 7#3 && ns != 7#3
  | .drain ms ns => ms != 7#3 && ns != 7#3
  | .loop _ cs _ => decide (cs.toNat ≤ 5)
  | .waitr ring _ => ring != 3#2
  | .trimTld src k => src || k == 0#6
  | .tact sh fn => decide (fn.toNat ≤ 5) && (if fn == 1#4 then decide (1 ≤ sh.toNat ∧ sh.toNat ≤ 16) else sh == 0#5)
  | .tcvt _ fc => decide (3 ≤ fc.toNat ∧ fc.toNat ≤ 12)
  | .tqnt _ fc => wfQfmt fc
  | .tadd fc => fc == 3#4 || fc == 4#4 || fc == 10#4 || fc == 11#4 || fc == 12#4
  | .tmulr epse sh f => f != 3#2 && (f == 2#2 || (sh == 0#6 && epse == 0#8))
  | _ => true

end Sys2Proof
end

