-- ==== Sys2Proof/Decode.lean ====
section
/-! DEFINITION. Decoding of op words, Milliner words, micro-words and Trimmer words, and the encoder of each, both
written from 02_encoding (R29 to R52) and the encoding tables of the instruction chapters. -/
namespace Sys2Proof

def VTy.ofBits : BitVec 4 → Option VTy
  | 0#4 => some .i8
  | 1#4 => some .u8
  | 2#4 => some .i16
  | 3#4 => some .u16
  | 4#4 => some .i32
  | 5#4 => some .u32
  | 6#4 => some .bf16
  | 7#4 => some .f16
  | 8#4 => some .f32
  | _ => none
def VTy.bits : VTy → BitVec 4
  | .i8 => 0#4 | .u8 => 1#4 | .i16 => 2#4 | .u16 => 3#4 | .i32 => 4#4 | .u32 => 5#4
  | .bf16 => 6#4 | .f16 => 7#4 | .f32 => 8#4
def ITy.ofBits : BitVec 4 → Option ITy
  | 0#4 => some .i8
  | 1#4 => some .u8
  | 2#4 => some .i16
  | 3#4 => some .u16
  | 4#4 => some .i32
  | 5#4 => some .u32
  | _ => none
def ITy.bits : ITy → BitVec 4
  | .i8 => 0#4 | .u8 => 1#4 | .i16 => 2#4 | .u16 => 3#4 | .i32 => 4#4 | .u32 => 5#4
def FTy.ofBits : BitVec 4 → Option FTy
  | 6#4 => some .bf16
  | 7#4 => some .f16
  | 8#4 => some .f32
  | _ => none
def FTy.bits : FTy → BitVec 4
  | .bf16 => 6#4 | .f16 => 7#4 | .f32 => 8#4
def BTy.ofBits : BitVec 4 → Option BTy
  | 0#4 => some .i8
  | 1#4 => some .u8
  | _ => none
def BTy.bits : BTy → BitVec 4
  | .i8 => 0#4 | .u8 => 1#4
def Rms.ofBits (b : BitVec 3) : Option Rms :=
  if b = 0#3 then some .fmt else if b.getLsbD 2 then some (.mode (b.setWidth 2)) else none
def Rms.bits : Rms → BitVec 3
  | .fmt => 0#3
  | .mode m => 1#1 ++ m
def VSrc.ofBits (q : Bool) (n : BitVec 6) : VSrc := if q then .q (n.setWidth 3) else .v n
def VSrc.num : VSrc → BitVec 6
  | .v n => n
  | .q n => n.setWidth 6
def VSrc.isQ : VSrc → Bool
  | .v _ => false
  | .q _ => true

/-- The fields of an op word (R29, R30). -/
abbrev fOpc (w : BitVec 64) : BitVec 8 := w.extractLsb' 48 8
abbrev fSlot (w : BitVec 64) : BitVec 3 := w.extractLsb' 61 3
abbrev fD (w : BitVec 64) : BitVec 6 := w.extractLsb' 42 6
abbrev fA (w : BitVec 64) : BitVec 6 := w.extractLsb' 36 6
abbrev fB (w : BitVec 64) : BitVec 6 := w.extractLsb' 30 6
abbrev fC (w : BitVec 64) : BitVec 6 := w.extractLsb' 24 6
abbrev fT (w : BitVec 64) : BitVec 4 := w.extractLsb' 16 4
/-- The header of a format R word: G in bits 23:20. -/
abbrev hdrR (w : BitVec 64) : OpHdr :=
  ⟨w.getLsbD 60, w.getLsbD 59, w.extractLsb' 56 3, w.extractLsb' 20 4⟩
/-- The header of a format I word: G in bits 35:32. -/
abbrev hdrI (w : BitVec 64) : OpHdr :=
  ⟨w.getLsbD 60, w.getLsbD 59, w.extractLsb' 56 3, w.extractLsb' 32 4⟩
/-- The header of a format M word: G in bits 35:32. -/
abbrev hdrM (w : BitVec 64) : OpHdr := hdrI w
/-- The slot of a vector pipe: VA is 1, VB is 2. -/
def vslot (vb : Bool) : BitVec 3 := if vb then 2#3 else 1#3

/-- A format R word (R30). -/
def packR (slot : BitVec 3) (h : OpHdr) (opc : BitVec 8) (d a b c : BitVec 6) (t : BitVec 4) (aux : BitVec 16) : BitVec 64 :=
  slot ++ BitVec.ofBool h.stop ++ BitVec.ofBool h.mark ++ h.stage ++ opc ++ d ++ a ++ b ++ c ++ h.g ++ t ++ aux
/-- A format I word (R30). -/
def packI (slot : BitVec 3) (h : OpHdr) (opc : BitVec 8) (d a : BitVec 6) (imm : BitVec 32) : BitVec 64 :=
  slot ++ BitVec.ofBool h.stop ++ BitVec.ofBool h.mark ++ h.stage ++ opc ++ d ++ a ++ h.g ++ imm
/-- A format M word (R30). -/
def packM (slot : BitVec 3) (h : OpHdr) (opc : BitVec 8) (d base : BitVec 6) (size : BitVec 3) (kind : BitVec 1)
    (scope : BitVec 2) (off : BitVec 24) : BitVec 64 :=
  slot ++ BitVec.ofBool h.stop ++ BitVec.ofBool h.mark ++ h.stage ++ opc ++ d ++ base ++ h.g ++ size ++ kind ++ scope
    ++ 0#2 ++ off

/-- The opcode map of the S slot (R43). -/
def decodeS (w : BitVec 64) : Option Instr :=
  match fOpc w with
  | 0x00#8 => some (.nop (hdrR w) 0#3)
  | 0x01#8 => some (.add (hdrR w) (fD w) (fA w) (fB w))
  | 0x02#8 => some (.sub (hdrR w) (fD w) (fA w) (fB w))
  | 0x03#8 => some (.and (hdrR w) (fD w) (fA w) (fB w))
  | 0x04#8 => some (.or (hdrR w) (fD w) (fA w) (fB w))
  | 0x05#8 => some (.xor (hdrR w) (fD w) (fA w) (fB w))
  | 0x06#8 => some (.andn (hdrR w) (fD w) (fA w) (fB w))
  | 0x07#8 => some (.shl (hdrR w) (fD w) (fA w) (fB w))
  | 0x08#8 => some (.shr (hdrR w) (fD w) (fA w) (fB w))
  | 0x09#8 => some (.sra (hdrR w) (fD w) (fA w) (fB w))
  | 0x0A#8 => some (.rot (hdrR w) (fD w) (fA w) (fB w))
  | 0x0B#8 => some (.min (hdrR w) (fD w) (fA w) (fB w))
  | 0x0C#8 => some (.max (hdrR w) (fD w) (fA w) (fB w))
  | 0x0D#8 => some (.minu (hdrR w) (fD w) (fA w) (fB w))
  | 0x0E#8 => some (.maxu (hdrR w) (fD w) (fA w) (fB w))
  | 0x0F#8 => some (.mul (hdrR w) (fD w) (fA w) (fB w))
  | 0x10#8 => some (.mulh (hdrR w) (fD w) (fA w) (fB w))
  | 0x11#8 => some (.mulhu (hdrR w) (fD w) (fA w) (fB w))
  | 0x12#8 => some (.div (hdrR w) (fD w) (fA w) (fB w))
  | 0x13#8 => some (.divu (hdrR w) (fD w) (fA w) (fB w))
  | 0x14#8 => some (.rem (hdrR w) (fD w) (fA w) (fB w))
  | 0x15#8 => some (.remu (hdrR w) (fD w) (fA w) (fB w))
  | 0x16#8 => some (.clz (hdrR w) (fD w) (fA w))
  | 0x17#8 => some (.ctz (hdrR w) (fD w) (fA w))
  | 0x18#8 => some (.popc (hdrR w) (fD w) (fA w))
  | 0x19#8 => some (.bfx (hdrR w) (fD w) (fA w) (w.getLsbD 12) (w.extractLsb' 6 6) (w.extractLsb' 0 6))
  | 0x1A#8 => some (.bfi (hdrR w) (fD w) (fA w) (fB w) (w.extractLsb' 6 6) (w.extractLsb' 0 6))
  | 0x1B#8 => some (.sel (hdrR w) (fD w) (fA w) (fB w) ((fC w).setWidth 4))
  | 0x20#8 => some (.addi (hdrI w) (fD w) (fA w) (w.extractLsb' 0 32))
  | 0x21#8 => some (.andi (hdrI w) (fD w) (fA w) (w.extractLsb' 0 32))
  | 0x22#8 => some (.ori (hdrI w) (fD w) (fA w) (w.extractLsb' 0 32))
  | 0x23#8 => some (.xori (hdrI w) (fD w) (fA w) (w.extractLsb' 0 32))
  | 0x24#8 => some (.shli (hdrI w) (fD w) (fA w) (w.extractLsb' 0 32))
  | 0x25#8 => some (.shri (hdrI w) (fD w) (fA w) (w.extractLsb' 0 32))
  | 0x26#8 => some (.srai (hdrI w) (fD w) (fA w) (w.extractLsb' 0 32))
  | 0x27#8 => some (.li (hdrI w) (fD w) (w.extractLsb' 0 32))
  | 0x28#8 => some (.lih (hdrI w) (fD w) (fA w) (w.extractLsb' 0 32))
  | 0x29#8 => some (.muli (hdrI w) (fD w) (fA w) (w.extractLsb' 0 32))
  | 0x30#8 => some (.ceq (hdrR w) ((fD w).setWidth 4) (fA w) (fB w))
  | 0x31#8 => some (.cne (hdrR w) ((fD w).setWidth 4) (fA w) (fB w))
  | 0x32#8 => some (.clt (hdrR w) ((fD w).setWidth 4) (fA w) (fB w))
  | 0x33#8 => some (.cltu (hdrR w) ((fD w).setWidth 4) (fA w) (fB w))
  | 0x34#8 => some (.cle (hdrR w) ((fD w).setWidth 4) (fA w) (fB w))
  | 0x35#8 => some (.cleu (hdrR w) ((fD w).setWidth 4) (fA w) (fB w))
  | 0x36#8 => some (.ceqi (hdrI w) ((fD w).setWidth 4) (fA w) (w.extractLsb' 0 32))
  | 0x37#8 => some (.clti (hdrI w) ((fD w).setWidth 4) (fA w) (w.extractLsb' 0 32))
  | 0x38#8 => some (.pand (hdrR w) ((fD w).setWidth 4) ((fA w).setWidth 4) ((fB w).setWidth 4))
  | 0x39#8 => some (.por (hdrR w) ((fD w).setWidth 4) ((fA w).setWidth 4) ((fB w).setWidth 4))
  | 0x3A#8 => some (.pxor (hdrR w) ((fD w).setWidth 4) ((fA w).setWidth 4) ((fB w).setWidth 4))
  | 0x3B#8 => some (.pnot (hdrR w) ((fD w).setWidth 4) ((fA w).setWidth 4))
  | 0x3C#8 => do let t ← VTy.ofBits (fT w); some (.pset (hdrR w) ((fD w).setWidth 4) (fA w) t)
  | 0x40#8 => some (.skip (hdrI w) ((fA w).setWidth 4) (w.extractLsb' 0 32))
  | 0x41#8 => some (.eskip (hdrI w) ((fA w).setWidth 4) (w.getLsbD 8) (w.extractLsb' 0 5))
  | 0x42#8 => some (.post (hdrR w) (fA w))
  | 0x43#8 => some (.rdsr (hdrI w) (fD w) (w.extractLsb' 0 32))
  | 0x44#8 => some (.wrsr (hdrI w) (fA w) (w.extractLsb' 0 32))
  | 0x45#8 => some (.endq (hdrR w))
  | 0x50#8 => some (.lset (hdrI w) (fA w) (w.extractLsb' 0 32))
  | 0x51#8 => some (.lbody (hdrI w) (w.extractLsb' 0 32))
  | 0x52#8 => some (.lgo (hdrR w) (w.extractLsb' 0 3))
  | 0x53#8 => some (.lbrk (hdrR w))
  | 0x54#8 => some (.lidx (hdrR w) (fD w) (w.extractLsb' 0 3))
  | 0x55#8 => some (.lstage (hdrI w) (w.extractLsb' 0 32))
  | _ => none

/-- The opcode map of the VA and VB slot (R45). -/
def decodeV (vb : Bool) (w : BitVec 64) : Option Instr :=
  match fOpc w with
  | 0x00#8 => some (.nop (hdrR w) (vslot vb))
  | 0x01#8 => do let t ← ITy.ofBits (fT w); some (.vadd (hdrR w) vb t (fD w) (VSrc.ofBits (w.getLsbD 15) (fA w)) (VSrc.ofBits (w.getLsbD 14) (fB w)))
  | 0x02#8 => do let t ← ITy.ofBits (fT w); some (.vsub (hdrR w) vb t (fD w) (VSrc.ofBits (w.getLsbD 15) (fA w)) (VSrc.ofBits (w.getLsbD 14) (fB w)))
  | 0x03#8 => do let t ← ITy.ofBits (fT w); some (.vmul (hdrR w) vb t (fD w) (VSrc.ofBits (w.getLsbD 15) (fA w)) (VSrc.ofBits (w.getLsbD 14) (fB w)))
  | 0x04#8 => do let t ← ITy.ofBits (fT w); some (.vmac (hdrR w) vb t (fD w) (VSrc.ofBits (w.getLsbD 15) (fA w)) (VSrc.ofBits (w.getLsbD 14) (fB w)) (fC w))
  | 0x05#8 => do let t ← ITy.ofBits (fT w); some (.vadds (hdrR w) vb t (fD w) (VSrc.ofBits (w.getLsbD 15) (fA w)) (VSrc.ofBits (w.getLsbD 14) (fB w)))
  | 0x06#8 => do let t ← ITy.ofBits (fT w); some (.vsubs (hdrR w) vb t (fD w) (VSrc.ofBits (w.getLsbD 15) (fA w)) (VSrc.ofBits (w.getLsbD 14) (fB w)))
  | 0x07#8 => do let t ← ITy.ofBits (fT w); some (.vmin (hdrR w) vb t (fD w) (VSrc.ofBits (w.getLsbD 15) (fA w)) (VSrc.ofBits (w.getLsbD 14) (fB w)))
  | 0x08#8 => do let t ← ITy.ofBits (fT w); some (.vmax (hdrR w) vb t (fD w) (VSrc.ofBits (w.getLsbD 15) (fA w)) (VSrc.ofBits (w.getLsbD 14) (fB w)))
  | 0x09#8 => do let t ← ITy.ofBits (fT w); some (.vabs (hdrR w) vb t (fD w) (VSrc.ofBits (w.getLsbD 15) (fA w)))
  | 0x0A#8 => do let t ← ITy.ofBits (fT w); some (.vshl (hdrR w) vb t (fD w) (VSrc.ofBits (w.getLsbD 15) (fA w)) (VSrc.ofBits (w.getLsbD 14) (fB w)))
  | 0x0B#8 => do let t ← ITy.ofBits (fT w); some (.vshr (hdrR w) vb t (fD w) (VSrc.ofBits (w.getLsbD 15) (fA w)) (VSrc.ofBits (w.getLsbD 14) (fB w)))
  | 0x0C#8 => do let t ← ITy.ofBits (fT w); some (.vsra (hdrR w) vb t (fD w) (VSrc.ofBits (w.getLsbD 15) (fA w)) (VSrc.ofBits (w.getLsbD 14) (fB w)))
  | 0x0D#8 => do let t ← ITy.ofBits (fT w); some (.vand (hdrR w) vb t (fD w) (VSrc.ofBits (w.getLsbD 15) (fA w)) (VSrc.ofBits (w.getLsbD 14) (fB w)))
  | 0x0E#8 => do let t ← ITy.ofBits (fT w); some (.vor (hdrR w) vb t (fD w) (VSrc.ofBits (w.getLsbD 15) (fA w)) (VSrc.ofBits (w.getLsbD 14) (fB w)))
  | 0x0F#8 => do let t ← ITy.ofBits (fT w); some (.vxor (hdrR w) vb t (fD w) (VSrc.ofBits (w.getLsbD 15) (fA w)) (VSrc.ofBits (w.getLsbD 14) (fB w)))
  | 0x10#8 => do let t ← ITy.ofBits (fT w); some (.vmulhr (hdrR w) vb t (fD w) (VSrc.ofBits (w.getLsbD 15) (fA w)) (VSrc.ofBits (w.getLsbD 14) (fB w)))
  | 0x11#8 => do let t ← BTy.ofBits (fT w); some (.vdot4 (hdrR w) vb t (fD w) (VSrc.ofBits (w.getLsbD 15) (fA w)) (VSrc.ofBits (w.getLsbD 14) (fB w)) (fC w) (w.getLsbD 0))
  | 0x12#8 => do let t ← VTy.ofBits (fT w); some (.vsel (hdrR w) vb t (fD w) (VSrc.ofBits (w.getLsbD 15) (fA w)) (VSrc.ofBits (w.getLsbD 14) (fB w)) ((fC w).setWidth 4))
  | 0x20#8 => do let t ← FTy.ofBits (fT w); let rms ← Rms.ofBits (w.extractLsb' 11 3); some (.vfadd (hdrR w) vb t (fD w) (VSrc.ofBits (w.getLsbD 15) (fA w)) (VSrc.ofBits (w.getLsbD 14) (fB w)) rms)
  | 0x21#8 => do let t ← FTy.ofBits (fT w); let rms ← Rms.ofBits (w.extractLsb' 11 3); some (.vfsub (hdrR w) vb t (fD w) (VSrc.ofBits (w.getLsbD 15) (fA w)) (VSrc.ofBits (w.getLsbD 14) (fB w)) rms)
  | 0x22#8 => do let t ← FTy.ofBits (fT w); let rms ← Rms.ofBits (w.extractLsb' 11 3); some (.vfmul (hdrR w) vb t (fD w) (VSrc.ofBits (w.getLsbD 15) (fA w)) (VSrc.ofBits (w.getLsbD 14) (fB w)) rms)
  | 0x23#8 => do let t ← FTy.ofBits (fT w); let rms ← Rms.ofBits (w.extractLsb' 11 3); some (.vfma (hdrR w) vb t (fD w) (VSrc.ofBits (w.getLsbD 15) (fA w)) (VSrc.ofBits (w.getLsbD 14) (fB w)) (fC w) rms)
  | 0x24#8 => do let t ← FTy.ofBits (fT w); some (.vfmin (hdrR w) vb t (fD w) (VSrc.ofBits (w.getLsbD 15) (fA w)) (VSrc.ofBits (w.getLsbD 14) (fB w)))
  | 0x25#8 => do let t ← FTy.ofBits (fT w); some (.vfmax (hdrR w) vb t (fD w) (VSrc.ofBits (w.getLsbD 15) (fA w)) (VSrc.ofBits (w.getLsbD 14) (fB w)))
  | 0x26#8 => do let t ← FTy.ofBits (fT w); some (.vfabs (hdrR w) vb t (fD w) (VSrc.ofBits (w.getLsbD 15) (fA w)))
  | 0x27#8 => do let t ← FTy.ofBits (fT w); some (.vfneg (hdrR w) vb t (fD w) (VSrc.ofBits (w.getLsbD 15) (fA w)))
  | 0x28#8 => do let t ← FTy.ofBits (fT w); let rms ← Rms.ofBits (w.extractLsb' 11 3); some (.vrcp (hdrR w) vb t (fD w) (VSrc.ofBits (w.getLsbD 15) (fA w)) rms)
  | 0x29#8 => do let t ← FTy.ofBits (fT w); let rms ← Rms.ofBits (w.extractLsb' 11 3); some (.vrsqrt (hdrR w) vb t (fD w) (VSrc.ofBits (w.getLsbD 15) (fA w)) rms)
  | 0x2A#8 => do let t ← FTy.ofBits (fT w); let rms ← Rms.ofBits (w.extractLsb' 11 3); some (.vexp2 (hdrR w) vb t (fD w) (VSrc.ofBits (w.getLsbD 15) (fA w)) rms)
  | 0x2B#8 => do let t ← FTy.ofBits (fT w); let rms ← Rms.ofBits (w.extractLsb' 11 3); some (.vlog2 (hdrR w) vb t (fD w) (VSrc.ofBits (w.getLsbD 15) (fA w)) rms)
  | 0x2C#8 => do let t ← FTy.ofBits (fT w); some (.vfcmp (hdrR w) vb t ((fD w).setWidth 4) (VSrc.ofBits (w.getLsbD 15) (fA w)) (VSrc.ofBits (w.getLsbD 14) (fB w)) (w.extractLsb' 0 3))
  | 0x2E#8 => do let t ← ITy.ofBits (fT w); some (.vcmp (hdrR w) vb t ((fD w).setWidth 4) (VSrc.ofBits (w.getLsbD 15) (fA w)) (VSrc.ofBits (w.getLsbD 14) (fB w)) (w.extractLsb' 0 3))
  | 0x30#8 => do let t ← VTy.ofBits (fT w); let rms ← Rms.ofBits (w.extractLsb' 11 3); some (.vcvt (hdrR w) vb t (fD w) (VSrc.ofBits (w.getLsbD 15) (fA w)) (w.getLsbD 10) (w.extractLsb' 6 4) (w.getLsbD 5) (w.getLsbD 4) (w.extractLsb' 0 4) rms)
  | 0x31#8 => do let t ← FTy.ofBits (fT w); let rms ← Rms.ofBits (w.extractLsb' 11 3); some (.vquant (hdrR w) vb t (fD w) (VSrc.ofBits (w.getLsbD 15) (fA w)) (w.getLsbD 10) (w.extractLsb' 0 4) rms)
  | 0x32#8 => do let t ← FTy.ofBits (fT w); let rms ← Rms.ofBits (w.extractLsb' 11 3); some (.vdequant (hdrR w) vb t (fD w) (VSrc.ofBits (w.getLsbD 15) (fA w)) (w.extractLsb' 0 4) rms)
  | 0x33#8 => do let t ← FTy.ofBits (fT w); let rms ← Rms.ofBits (w.extractLsb' 11 3); some (.vscale2 (hdrR w) vb t (fD w) (VSrc.ofBits (w.getLsbD 15) (fA w)) (VSrc.ofBits (w.getLsbD 14) (fB w)) rms)
  | 0x38#8 => do let t ← VTy.ofBits (fT w); let rms ← Rms.ofBits (w.extractLsb' 11 3); some (.vrsum (hdrR w) vb t (fD w) (VSrc.ofBits (w.getLsbD 15) (fA w)) (w.extractLsb' 0 4) rms)
  | 0x39#8 => do let t ← VTy.ofBits (fT w); some (.vrmax (hdrR w) vb t (fD w) (VSrc.ofBits (w.getLsbD 15) (fA w)) (w.extractLsb' 0 4))
  | 0x3A#8 => do let t ← VTy.ofBits (fT w); some (.vramax (hdrR w) vb t (fD w) (VSrc.ofBits (w.getLsbD 15) (fA w)) (w.extractLsb' 0 4))
  | 0x3B#8 => do let t ← VTy.ofBits (fT w); some (.vrmin (hdrR w) vb t (fD w) (VSrc.ofBits (w.getLsbD 15) (fA w)) (w.extractLsb' 0 4))
  | 0x40#8 => do let t ← VTy.ofBits (fT w); some (.vperm (hdrR w) vb t (fD w) (VSrc.ofBits (w.getLsbD 15) (fA w)) (VSrc.ofBits (w.getLsbD 14) (fB w)) (fC w) (w.getLsbD 0))
  | 0x41#8 => do let t ← VTy.ofBits (fT w); some (.vbcast (hdrR w) vb t (fD w) (VSrc.ofBits (w.getLsbD 15) (fA w)) (w.extractLsb' 0 8))
  | 0x42#8 => do let t ← VTy.ofBits (fT w); some (.vext (hdrR w) vb t (fD w) (VSrc.ofBits (w.getLsbD 15) (fA w)) (w.extractLsb' 0 8))
  | 0x43#8 => do let t ← VTy.ofBits (fT w); some (.vins (hdrR w) vb t (fD w) (fA w) (w.extractLsb' 0 8))
  | 0x44#8 => do let t ← VTy.ofBits (fT w); some (.vslide (hdrR w) vb t (fD w) (VSrc.ofBits (w.getLsbD 15) (fA w)) (VSrc.ofBits (w.getLsbD 14) (fB w)) (w.extractLsb' 0 8))
  | 0x45#8 => do let t ← VTy.ofBits (fT w); some (.vzip (hdrR w) vb t (fD w) (VSrc.ofBits (w.getLsbD 15) (fA w)) (VSrc.ofBits (w.getLsbD 14) (fB w)) (w.getLsbD 0))
  | 0x46#8 => do let t ← VTy.ofBits (fT w); some (.vunzip (hdrR w) vb t (fD w) (VSrc.ofBits (w.getLsbD 15) (fA w)) (VSrc.ofBits (w.getLsbD 14) (fB w)) (w.getLsbD 0))
  | 0x47#8 => do let t ← VTy.ofBits (fT w); some (.vmov (hdrR w) vb t (fD w) (VSrc.ofBits (w.getLsbD 15) (fA w)))
  | 0x48#8 => do let t ← VTy.ofBits (fT w); some (.vsplat (hdrR w) vb t (fD w) (fA w))
  | 0x50#8 => do let t ← FTy.ofBits (fT w); let rms ← Rms.ofBits (w.extractLsb' 11 3); some (.vamul (hdrR w) vb t (fD w) (VSrc.ofBits (w.getLsbD 15) (fA w)) (VSrc.ofBits (w.getLsbD 14) (fB w)) (w.getLsbD 0) rms)
  | 0x51#8 => do let t ← FTy.ofBits (fT w); let rms ← Rms.ofBits (w.extractLsb' 11 3); some (.vamac (hdrR w) vb t (fD w) (VSrc.ofBits (w.getLsbD 15) (fA w)) (VSrc.ofBits (w.getLsbD 14) (fB w)) (fC w) (w.getLsbD 0) rms)
  | 0x52#8 => do let t ← FTy.ofBits (fT w); some (.vconj (hdrR w) vb t (fD w) (VSrc.ofBits (w.getLsbD 15) (fA w)))
  | 0x53#8 => do let t ← FTy.ofBits (fT w); let rms ← Rms.ofBits (w.extractLsb' 11 3); some (.vnorm (hdrR w) vb t (fD w) (VSrc.ofBits (w.getLsbD 15) (fA w)) rms)
  | 0x60#8 => if vb then none else some (.sminit (hdrR w) (w.extractLsb' 6 5) (w.extractLsb' 0 6))
  | 0x61#8 => if vb then none else do let rms ← Rms.ofBits (w.extractLsb' 11 3); if fT w == 8#4 then some (.smstep (hdrR w) (fD w) (VSrc.ofBits (w.getLsbD 15) (fA w)) (w.extractLsb' 0 6) rms) else none
  | 0x62#8 => if vb then none else some (.smrsc (hdrR w) (fD w) (w.extractLsb' 0 6))
  | 0x63#8 => if vb then none else do let rms ← Rms.ofBits (w.extractLsb' 11 3); if fT w == 8#4 then some (.smfin (hdrR w) (fD w) (VSrc.ofBits (w.getLsbD 15) (fA w)) (w.extractLsb' 0 6) rms) else none
  | 0x64#8 => if vb then none else some (.smget (hdrR w) (fD w) (w.extractLsb' 0 6))
  | _ => none

/-- The opcode map of the M slot (R46). -/
def decodeM (w : BitVec 64) : Option Instr :=
  match fOpc w with
  | 0x00#8 => some (.nop (hdrR w) 3#3)
  | 0x01#8 => some (.mcall (hdrI w) (fA w) (w.getLsbD 9) (w.getLsbD 8) (w.getLsbD 7) (w.getLsbD 6) (w.extractLsb' 0 6))
  | 0x02#8 => if w.getLsbD 5 then some (.msetRs (hdrR w) (fA w) (w.extractLsb' 0 5)) else some (.mset (hdrR w) ((fD w).setWidth 3) (fA w))
  | 0x03#8 => if w.getLsbD 5 then some (.mgetRs (hdrR w) (fD w) (w.extractLsb' 0 5)) else some (.mget (hdrR w) (fD w) ((fA w).setWidth 3))
  | 0x04#8 => some (.malg (hdrR w) ((fD w).setWidth 2) (fA w))
  | 0x05#8 => if w.getLsbD 0 then some (.mdrainRaw (hdrR w) (fA w)) else some (.mdrain (hdrR w))
  | 0x06#8 => some (.mfill (hdrR w) (fA w))
  | 0x07#8 => some (.mfreeze (hdrR w))
  | 0x08#8 => some (.mthaw (hdrR w))
  | 0x09#8 => some (.mstat (hdrR w) (fD w) (w.getLsbD 0))
  | 0x0A#8 => some (.mload (hdrM w) (fA w) (w.extractLsb' 29 3) (w.getLsbD 28) (w.extractLsb' 26 2) (w.extractLsb' 0 24))
  | 0x0B#8 => some (.tload (hdrM w) (fD w) (fA w) (w.extractLsb' 29 3) (w.extractLsb' 0 24))
  | 0x0C#8 => some (.mzero (hdrR w))
  | _ => none

/-- The opcode map of the L slot (R46). -/
def decodeL (w : BitVec 64) : Option Instr :=
  match fOpc w with
  | 0x00#8 => some (.nop (hdrR w) 4#3)
  | 0x01#8 => some (.ld (hdrM w) (fD w) (fA w) (w.extractLsb' 29 3) (w.getLsbD 28) (w.extractLsb' 26 2) (w.extractLsb' 0 24))
  | 0x02#8 => some (.vld (hdrM w) (fD w) (fA w) (w.extractLsb' 29 3) (w.getLsbD 28) (w.extractLsb' 26 2) (w.extractLsb' 0 24))
  | 0x03#8 => some (.vldr (hdrR w) (fD w) ((fA w).setWidth 4) (fB w) (w.extractLsb' 0 8))
  | 0x04#8 => do let t ← VTy.ofBits (fT w); some (.vldg (hdrR w) t (fD w) (fA w) (fB w))
  | 0x05#8 => do let t ← VTy.ofBits (fT w); some (.vlds (hdrR w) t (fD w) (fA w) (fB w))
  | 0x06#8 => some (.lsq (hdrM w) (fA w) (w.extractLsb' 29 3) (w.getLsbD 28) (w.extractLsb' 26 2) (w.extractLsb' 0 24))
  | 0x07#8 => some (.qset (hdrM w) ((fD w).setWidth 3) (fA w) (w.extractLsb' 29 3) (w.getLsbD 28) (w.extractLsb' 26 2) (w.extractLsb' 0 24))
  | 0x08#8 => some (.qclr (hdrR w) ((fD w).setWidth 3))
  | 0x09#8 => some (.pref (hdrM w) (fD w) (fA w) (w.extractLsb' 29 3) (w.extractLsb' 0 24))
  | 0x0A#8 => some (.amo (hdrR w) (fD w) (fA w) (fB w) (fC w) (w.getLsbD 9) (w.getLsbD 8) (w.extractLsb' 6 2) (w.extractLsb' 4 2) (w.extractLsb' 0 4))
  | 0x0B#8 => some (.vldc (hdrM w) (fD w) (fA w) (w.extractLsb' 29 3) (w.extractLsb' 0 24))
  | _ => none

/-- The opcode map of the ST slot (R46). -/
def decodeSt (w : BitVec 64) : Option Instr :=
  match fOpc w with
  | 0x00#8 => some (.nop (hdrR w) 5#3)
  | 0x01#8 => some (.st (hdrM w) (fD w) (fA w) (w.extractLsb' 29 3) (w.getLsbD 28) (w.extractLsb' 26 2) (w.extractLsb' 0 24))
  | 0x02#8 => some (.vst (hdrM w) (fD w) (fA w) (w.extractLsb' 29 3) (w.getLsbD 28) (w.extractLsb' 26 2) (w.extractLsb' 0 24))
  | 0x03#8 => some (.vstr (hdrR w) (fD w) ((fA w).setWidth 4) (fB w) (w.extractLsb' 0 8))
  | 0x04#8 => do let t ← VTy.ofBits (fT w); some (.vsts (hdrR w) t (fD w) (fA w) (fB w))
  | 0x05#8 => some (.vstm (hdrM w) (fD w) (fA w) (w.extractLsb' 29 3) (w.getLsbD 28) (w.extractLsb' 26 2) (w.extractLsb' 0 24))
  | 0x06#8 => some (.cflush (hdrM w) (fA w) (w.extractLsb' 29 3) (w.extractLsb' 26 2) (w.extractLsb' 0 24))
  | 0x07#8 => some (.cinval (hdrM w) (fA w) (w.extractLsb' 29 3) (w.extractLsb' 26 2) (w.extractLsb' 0 24))
  | 0x08#8 => some (.cclean (hdrM w) (fA w) (w.extractLsb' 29 3) (w.extractLsb' 26 2) (w.extractLsb' 0 24))
  | 0x09#8 => some (.radv (hdrR w) ((fA w).setWidth 4) (w.extractLsb' 0 9))
  | _ => none

/-- The opcode map of the C slot (R46). -/
def decodeC (w : BitVec 64) : Option Instr :=
  match fOpc w with
  | 0x00#8 => some (.nop (hdrR w) 6#3)
  | 0x01#8 => some (.cpy (hdrR w) (fA w) (fB w) (fC w) (w.getLsbD 5) (w.getLsbD 4) (w.extractLsb' 1 3) (w.getLsbD 0))
  | 0x02#8 => some (.cnl (hdrR w) (fA w) (fB w) (fC w) (w.extractLsb' 1 3) (w.getLsbD 0))
  | 0x03#8 => some (.cnb (hdrR w) (fA w) (fB w) (fC w) (w.getLsbD 0))
  | 0x04#8 => some (.cgo (hdrR w) (w.extractLsb' 6 3) (w.getLsbD 5) (w.getLsbD 4) (w.extractLsb' 1 3) (w.getLsbD 0))
  | 0x05#8 => some (.cdrain (hdrR w) (w.getLsbD 0))
  | 0x06#8 => some (.cmode (hdrI w) (w.getLsbD 1) (w.getLsbD 0))
  | 0x07#8 => some (.cstat (hdrR w) (fD w) (w.getLsbD 0))
  | 0x08#8 => some (.ckv (hdrR w) (fA w) (fB w) (fC w) (w.getLsbD 6) (w.getLsbD 5) (w.getLsbD 4) (w.getLsbD 0))
  | 0x09#8 => some (.cred (hdrR w) (fA w) (fB w) (w.getLsbD 0))
  | _ => none

/-- The opcode map of the X slot (R46). -/
def decodeX (w : BitVec 64) : Option Instr :=
  match fOpc w with
  | 0x00#8 => some (.nop (hdrR w) 7#3)
  | 0x01#8 => some (.fence (hdrR w) (w.extractLsb' 2 2) (w.extractLsb' 0 2))
  | 0x02#8 => some (.tfence (hdrR w) (w.extractLsb' 2 2))
  | 0x03#8 => some (.twait (hdrR w) ((fA w).setWidth 2) (fB w) (w.extractLsb' 5 11) (w.getLsbD 4) (w.extractLsb' 2 2))
  | 0x04#8 => some (.tget (hdrR w) (fD w) ((fA w).setWidth 2) (w.getLsbD 0))
  | 0x05#8 => some (.barv (hdrR w) (fA w))
  | 0x06#8 => some (.bexp (hdrR w) (fA w) (fB w))
  | 0x07#8 => some (.bwait (hdrR w) (fA w) (fB w))
  | 0x08#8 => some (.sigdec (hdrR w) (fA w) (fB w) (w.getLsbD 0))
  | 0x09#8 => some (.sigwait (hdrR w) (fD w) (fA w))
  | 0x0A#8 => some (.mwait (hdrR w) (fD w) (fA w) (fB w) (w.extractLsb' 0 16))
  | 0x0B#8 => some (.launch (hdrR w) (fD w) (fA w))
  | 0x0C#8 => some (.exit (hdrR w) (w.getLsbD 0))
  | 0x0D#8 => some (.trap (hdrI w) (w.extractLsb' 0 16))
  | 0x0E#8 => some (.fmt (hdrI w) (w.getLsbD 7) (w.getLsbD 6) (w.getLsbD 5) (w.getLsbD 4) (w.extractLsb' 2 2) (w.extractLsb' 0 2))
  | 0x0F#8 => some (.bandup (hdrR w) (fA w))
  | 0x10#8 => some (.seal_ (hdrR w) (fA w) (fB w) (fC w) (w.extractLsb' 0 2))
  | 0x11#8 => some (.open_ (hdrR w) (fA w) (fB w) (fC w) (w.extractLsb' 0 2))
  | 0x12#8 => some (.wld (hdrR w) (fA w) (fB w) (w.extractLsb' 0 4))
  | 0x13#8 => some (.wlock (hdrR w) (w.extractLsb' 0 4))
  | 0x14#8 => some (.wunlk (hdrR w) (w.extractLsb' 0 4))
  | 0x15#8 => some (.wx (hdrR w) (fD w) (fA w) (w.extractLsb' 0 2))
  | 0x16#8 => some (.yield (hdrR w))
  | 0x17#8 => some (.rdtime (hdrR w) (fD w))
  | _ => none

/-- The op word map by slot (R29, R47), before the reserved bits are checked. -/
def decodeOpRaw (w : BitVec 64) : Option Instr :=
  match fSlot w with
  | 0#3 => decodeS w
  | 1#3 => decodeV false w
  | 2#3 => decodeV true w
  | 3#3 => decodeM w
  | 4#3 => decodeL w
  | 5#3 => decodeSt w
  | 6#3 => decodeC w
  | _ => decodeX w

/-- The op word of an instruction (R29, R30); none for what is no op word. -/
def encodeOp : Instr → Option (BitVec 64)
  | .nop h slot => some (packR slot h 0x00#8 0#6 0#6 0#6 0#6 0#4 0#16)
  | .add h d a b => some (packR 0#3 h 0x01#8 d a b 0#6 0#4 (0#16))
  | .sub h d a b => some (packR 0#3 h 0x02#8 d a b 0#6 0#4 (0#16))
  | .and h d a b => some (packR 0#3 h 0x03#8 d a b 0#6 0#4 (0#16))
  | .or h d a b => some (packR 0#3 h 0x04#8 d a b 0#6 0#4 (0#16))
  | .xor h d a b => some (packR 0#3 h 0x05#8 d a b 0#6 0#4 (0#16))
  | .andn h d a b => some (packR 0#3 h 0x06#8 d a b 0#6 0#4 (0#16))
  | .shl h d a b => some (packR 0#3 h 0x07#8 d a b 0#6 0#4 (0#16))
  | .shr h d a b => some (packR 0#3 h 0x08#8 d a b 0#6 0#4 (0#16))
  | .sra h d a b => some (packR 0#3 h 0x09#8 d a b 0#6 0#4 (0#16))
  | .rot h d a b => some (packR 0#3 h 0x0A#8 d a b 0#6 0#4 (0#16))
  | .min h d a b => some (packR 0#3 h 0x0B#8 d a b 0#6 0#4 (0#16))
  | .max h d a b => some (packR 0#3 h 0x0C#8 d a b 0#6 0#4 (0#16))
  | .minu h d a b => some (packR 0#3 h 0x0D#8 d a b 0#6 0#4 (0#16))
  | .maxu h d a b => some (packR 0#3 h 0x0E#8 d a b 0#6 0#4 (0#16))
  | .mul h d a b => some (packR 0#3 h 0x0F#8 d a b 0#6 0#4 (0#16))
  | .mulh h d a b => some (packR 0#3 h 0x10#8 d a b 0#6 0#4 (0#16))
  | .mulhu h d a b => some (packR 0#3 h 0x11#8 d a b 0#6 0#4 (0#16))
  | .div h d a b => some (packR 0#3 h 0x12#8 d a b 0#6 0#4 (0#16))
  | .divu h d a b => some (packR 0#3 h 0x13#8 d a b 0#6 0#4 (0#16))
  | .rem h d a b => some (packR 0#3 h 0x14#8 d a b 0#6 0#4 (0#16))
  | .remu h d a b => some (packR 0#3 h 0x15#8 d a b 0#6 0#4 (0#16))
  | .clz h d a => some (packR 0#3 h 0x16#8 d a 0#6 0#6 0#4 (0#16))
  | .ctz h d a => some (packR 0#3 h 0x17#8 d a 0#6 0#6 0#4 (0#16))
  | .popc h d a => some (packR 0#3 h 0x18#8 d a 0#6 0#6 0#4 (0#16))
  | .bfx h d a sx lenm1 pos => some (packR 0#3 h 0x19#8 d a 0#6 0#6 0#4 (0#3 ++ BitVec.ofBool sx ++ lenm1 ++ pos))
  | .bfi h d a b lenm1 pos => some (packR 0#3 h 0x1A#8 d a b 0#6 0#4 (0#4 ++ lenm1 ++ pos))
  | .sel h d a b c => some (packR 0#3 h 0x1B#8 d a b (c.setWidth 6) 0#4 (0#16))
  | .addi h d a imm => some (packI 0#3 h 0x20#8 d a (imm))
  | .andi h d a imm => some (packI 0#3 h 0x21#8 d a (imm))
  | .ori h d a imm => some (packI 0#3 h 0x22#8 d a (imm))
  | .xori h d a imm => some (packI 0#3 h 0x23#8 d a (imm))
  | .shli h d a n => some (packI 0#3 h 0x24#8 d a (n))
  | .shri h d a n => some (packI 0#3 h 0x25#8 d a (n))
  | .srai h d a n => some (packI 0#3 h 0x26#8 d a (n))
  | .li h d imm => some (packI 0#3 h 0x27#8 d 0#6 (imm))
  | .lih h d a imm => some (packI 0#3 h 0x28#8 d a (imm))
  | .muli h d a imm => some (packI 0#3 h 0x29#8 d a (imm))
  | .ceq h d a b => some (packR 0#3 h 0x30#8 (d.setWidth 6) a b 0#6 0#4 (0#16))
  | .cne h d a b => some (packR 0#3 h 0x31#8 (d.setWidth 6) a b 0#6 0#4 (0#16))
  | .clt h d a b => some (packR 0#3 h 0x32#8 (d.setWidth 6) a b 0#6 0#4 (0#16))
  | .cltu h d a b => some (packR 0#3 h 0x33#8 (d.setWidth 6) a b 0#6 0#4 (0#16))
  | .cle h d a b => some (packR 0#3 h 0x34#8 (d.setWidth 6) a b 0#6 0#4 (0#16))
  | .cleu h d a b => some (packR 0#3 h 0x35#8 (d.setWidth 6) a b 0#6 0#4 (0#16))
  | .ceqi h d a imm => some (packI 0#3 h 0x36#8 (d.setWidth 6) a (imm))
  | .clti h d a imm => some (packI 0#3 h 0x37#8 (d.setWidth 6) a (imm))
  | .pand h d a b => some (packR 0#3 h 0x38#8 (d.setWidth 6) (a.setWidth 6) (b.setWidth 6) 0#6 0#4 (0#16))
  | .por h d a b => some (packR 0#3 h 0x39#8 (d.setWidth 6) (a.setWidth 6) (b.setWidth 6) 0#6 0#4 (0#16))
  | .pxor h d a b => some (packR 0#3 h 0x3A#8 (d.setWidth 6) (a.setWidth 6) (b.setWidth 6) 0#6 0#4 (0#16))
  | .pnot h d a => some (packR 0#3 h 0x3B#8 (d.setWidth 6) (a.setWidth 6) 0#6 0#6 0#4 (0#16))
  | .pset h d a t => some (packR 0#3 h 0x3C#8 (d.setWidth 6) a 0#6 0#6 t.bits (0#16))
  | .skip h a n => some (packI 0#3 h 0x40#8 0#6 (a.setWidth 6) (n))
  | .eskip h a hint n => some (packI 0#3 h 0x41#8 0#6 (a.setWidth 6) (0#23 ++ BitVec.ofBool hint ++ 0#3 ++ n))
  | .post h a => some (packR 0#3 h 0x42#8 0#6 a 0#6 0#6 0#4 (0#16))
  | .rdsr h d n => some (packI 0#3 h 0x43#8 d 0#6 (n))
  | .wrsr h a n => some (packI 0#3 h 0x44#8 0#6 a (n))
  | .endq h => some (packR 0#3 h 0x45#8 0#6 0#6 0#6 0#6 0#4 (0#16))
  | .lset h a k => some (packI 0#3 h 0x50#8 0#6 a (k))
  | .lbody h n => some (packI 0#3 h 0x51#8 0#6 0#6 (n))
  | .lgo h n => some (packR 0#3 h 0x52#8 0#6 0#6 0#6 0#6 0#4 (0#13 ++ n))
  | .lbrk h => some (packR 0#3 h 0x53#8 0#6 0#6 0#6 0#6 0#4 (0#16))
  | .lidx h d k => some (packR 0#3 h 0x54#8 d 0#6 0#6 0#6 0#4 (0#13 ++ k))
  | .lstage h n => some (packI 0#3 h 0x55#8 0#6 0#6 (n))
  | .vadd h vb t d a b => some (packR (vslot vb) h 0x01#8 d a.num b.num 0#6 t.bits (BitVec.ofBool a.isQ ++ BitVec.ofBool b.isQ ++ 0#14))
  | .vsub h vb t d a b => some (packR (vslot vb) h 0x02#8 d a.num b.num 0#6 t.bits (BitVec.ofBool a.isQ ++ BitVec.ofBool b.isQ ++ 0#14))
  | .vmul h vb t d a b => some (packR (vslot vb) h 0x03#8 d a.num b.num 0#6 t.bits (BitVec.ofBool a.isQ ++ BitVec.ofBool b.isQ ++ 0#14))
  | .vmac h vb t d a b c => some (packR (vslot vb) h 0x04#8 d a.num b.num c t.bits (BitVec.ofBool a.isQ ++ BitVec.ofBool b.isQ ++ 0#14))
  | .vadds h vb t d a b => some (packR (vslot vb) h 0x05#8 d a.num b.num 0#6 t.bits (BitVec.ofBool a.isQ ++ BitVec.ofBool b.isQ ++ 0#14))
  | .vsubs h vb t d a b => some (packR (vslot vb) h 0x06#8 d a.num b.num 0#6 t.bits (BitVec.ofBool a.isQ ++ BitVec.ofBool b.isQ ++ 0#14))
  | .vmin h vb t d a b => some (packR (vslot vb) h 0x07#8 d a.num b.num 0#6 t.bits (BitVec.ofBool a.isQ ++ BitVec.ofBool b.isQ ++ 0#14))
  | .vmax h vb t d a b => some (packR (vslot vb) h 0x08#8 d a.num b.num 0#6 t.bits (BitVec.ofBool a.isQ ++ BitVec.ofBool b.isQ ++ 0#14))
  | .vabs h vb t d a => some (packR (vslot vb) h 0x09#8 d a.num 0#6 0#6 t.bits (BitVec.ofBool a.isQ ++ 0#15))
  | .vshl h vb t d a b => some (packR (vslot vb) h 0x0A#8 d a.num b.num 0#6 t.bits (BitVec.ofBool a.isQ ++ BitVec.ofBool b.isQ ++ 0#14))
  | .vshr h vb t d a b => some (packR (vslot vb) h 0x0B#8 d a.num b.num 0#6 t.bits (BitVec.ofBool a.isQ ++ BitVec.ofBool b.isQ ++ 0#14))
  | .vsra h vb t d a b => some (packR (vslot vb) h 0x0C#8 d a.num b.num 0#6 t.bits (BitVec.ofBool a.isQ ++ BitVec.ofBool b.isQ ++ 0#14))
  | .vand h vb t d a b => some (packR (vslot vb) h 0x0D#8 d a.num b.num 0#6 t.bits (BitVec.ofBool a.isQ ++ BitVec.ofBool b.isQ ++ 0#14))
  | .vor h vb t d a b => some (packR (vslot vb) h 0x0E#8 d a.num b.num 0#6 t.bits (BitVec.ofBool a.isQ ++ BitVec.ofBool b.isQ ++ 0#14))
  | .vxor h vb t d a b => some (packR (vslot vb) h 0x0F#8 d a.num b.num 0#6 t.bits (BitVec.ofBool a.isQ ++ BitVec.ofBool b.isQ ++ 0#14))
  | .vmulhr h vb t d a b => some (packR (vslot vb) h 0x10#8 d a.num b.num 0#6 t.bits (BitVec.ofBool a.isQ ++ BitVec.ofBool b.isQ ++ 0#14))
  | .vdot4 h vb t d a b c mixb => some (packR (vslot vb) h 0x11#8 d a.num b.num c t.bits (BitVec.ofBool a.isQ ++ BitVec.ofBool b.isQ ++ 0#13 ++ BitVec.ofBool mixb))
  | .vsel h vb t d a b c => some (packR (vslot vb) h 0x12#8 d a.num b.num (c.setWidth 6) t.bits (BitVec.ofBool a.isQ ++ BitVec.ofBool b.isQ ++ 0#14))
  | .vfadd h vb t d a b rms => some (packR (vslot vb) h 0x20#8 d a.num b.num 0#6 t.bits (BitVec.ofBool a.isQ ++ BitVec.ofBool b.isQ ++ rms.bits ++ 0#11))
  | .vfsub h vb t d a b rms => some (packR (vslot vb) h 0x21#8 d a.num b.num 0#6 t.bits (BitVec.ofBool a.isQ ++ BitVec.ofBool b.isQ ++ rms.bits ++ 0#11))
  | .vfmul h vb t d a b rms => some (packR (vslot vb) h 0x22#8 d a.num b.num 0#6 t.bits (BitVec.ofBool a.isQ ++ BitVec.ofBool b.isQ ++ rms.bits ++ 0#11))
  | .vfma h vb t d a b c rms => some (packR (vslot vb) h 0x23#8 d a.num b.num c t.bits (BitVec.ofBool a.isQ ++ BitVec.ofBool b.isQ ++ rms.bits ++ 0#11))
  | .vfmin h vb t d a b => some (packR (vslot vb) h 0x24#8 d a.num b.num 0#6 t.bits (BitVec.ofBool a.isQ ++ BitVec.ofBool b.isQ ++ 0#14))
  | .vfmax h vb t d a b => some (packR (vslot vb) h 0x25#8 d a.num b.num 0#6 t.bits (BitVec.ofBool a.isQ ++ BitVec.ofBool b.isQ ++ 0#14))
  | .vfabs h vb t d a => some (packR (vslot vb) h 0x26#8 d a.num 0#6 0#6 t.bits (BitVec.ofBool a.isQ ++ 0#15))
  | .vfneg h vb t d a => some (packR (vslot vb) h 0x27#8 d a.num 0#6 0#6 t.bits (BitVec.ofBool a.isQ ++ 0#15))
  | .vrcp h vb t d a rms => some (packR (vslot vb) h 0x28#8 d a.num 0#6 0#6 t.bits (BitVec.ofBool a.isQ ++ 0#1 ++ rms.bits ++ 0#11))
  | .vrsqrt h vb t d a rms => some (packR (vslot vb) h 0x29#8 d a.num 0#6 0#6 t.bits (BitVec.ofBool a.isQ ++ 0#1 ++ rms.bits ++ 0#11))
  | .vexp2 h vb t d a rms => some (packR (vslot vb) h 0x2A#8 d a.num 0#6 0#6 t.bits (BitVec.ofBool a.isQ ++ 0#1 ++ rms.bits ++ 0#11))
  | .vlog2 h vb t d a rms => some (packR (vslot vb) h 0x2B#8 d a.num 0#6 0#6 t.bits (BitVec.ofBool a.isQ ++ 0#1 ++ rms.bits ++ 0#11))
  | .vfcmp h vb t d a b cond => some (packR (vslot vb) h 0x2C#8 (d.setWidth 6) a.num b.num 0#6 t.bits (BitVec.ofBool a.isQ ++ BitVec.ofBool b.isQ ++ 0#11 ++ cond))
  | .vcmp h vb t d a b cond => some (packR (vslot vb) h 0x2E#8 (d.setWidth 6) a.num b.num 0#6 t.bits (BitVec.ofBool a.isQ ++ BitVec.ofBool b.isQ ++ 0#11 ++ cond))
  | .vcvt h vb t d a sat nfmt nsrc narrow dtype rms => some (packR (vslot vb) h 0x30#8 d a.num 0#6 0#6 t.bits (BitVec.ofBool a.isQ ++ 0#1 ++ rms.bits ++ BitVec.ofBool sat ++ nfmt ++ BitVec.ofBool nsrc ++ BitVec.ofBool narrow ++ dtype))
  | .vquant h vb t d a sat qfmt rms => some (packR (vslot vb) h 0x31#8 d a.num 0#6 0#6 t.bits (BitVec.ofBool a.isQ ++ 0#1 ++ rms.bits ++ BitVec.ofBool sat ++ 0#6 ++ qfmt))
  | .vdequant h vb t d a qfmt rms => some (packR (vslot vb) h 0x32#8 d a.num 0#6 0#6 t.bits (BitVec.ofBool a.isQ ++ 0#1 ++ rms.bits ++ 0#7 ++ qfmt))
  | .vscale2 h vb t d a b rms => some (packR (vslot vb) h 0x33#8 d a.num b.num 0#6 t.bits (BitVec.ofBool a.isQ ++ BitVec.ofBool b.isQ ++ rms.bits ++ 0#11))
  | .vrsum h vb t d a lseg rms => some (packR (vslot vb) h 0x38#8 d a.num 0#6 0#6 t.bits (BitVec.ofBool a.isQ ++ 0#1 ++ rms.bits ++ 0#7 ++ lseg))
  | .vrmax h vb t d a lseg => some (packR (vslot vb) h 0x39#8 d a.num 0#6 0#6 t.bits (BitVec.ofBool a.isQ ++ 0#11 ++ lseg))
  | .vramax h vb t d a lseg => some (packR (vslot vb) h 0x3A#8 d a.num 0#6 0#6 t.bits (BitVec.ofBool a.isQ ++ 0#11 ++ lseg))
  | .vrmin h vb t d a lseg => some (packR (vslot vb) h 0x3B#8 d a.num 0#6 0#6 t.bits (BitVec.ofBool a.isQ ++ 0#11 ++ lseg))
  | .vperm h vb t d a b c two => some (packR (vslot vb) h 0x40#8 d a.num b.num c t.bits (BitVec.ofBool a.isQ ++ BitVec.ofBool b.isQ ++ 0#13 ++ BitVec.ofBool two))
  | .vbcast h vb t d a lane => some (packR (vslot vb) h 0x41#8 d a.num 0#6 0#6 t.bits (BitVec.ofBool a.isQ ++ 0#7 ++ lane))
  | .vext h vb t d a lane => some (packR (vslot vb) h 0x42#8 d a.num 0#6 0#6 t.bits (BitVec.ofBool a.isQ ++ 0#7 ++ lane))
  | .vins h vb t d a lane => some (packR (vslot vb) h 0x43#8 d a 0#6 0#6 t.bits (0#8 ++ lane))
  | .vslide h vb t d a b lane => some (packR (vslot vb) h 0x44#8 d a.num b.num 0#6 t.bits (BitVec.ofBool a.isQ ++ BitVec.ofBool b.isQ ++ 0#6 ++ lane))
  | .vzip h vb t d a b half => some (packR (vslot vb) h 0x45#8 d a.num b.num 0#6 t.bits (BitVec.ofBool a.isQ ++ BitVec.ofBool b.isQ ++ 0#13 ++ BitVec.ofBool half))
  | .vunzip h vb t d a b odd => some (packR (vslot vb) h 0x46#8 d a.num b.num 0#6 t.bits (BitVec.ofBool a.isQ ++ BitVec.ofBool b.isQ ++ 0#13 ++ BitVec.ofBool odd))
  | .vmov h vb t d a => some (packR (vslot vb) h 0x47#8 d a.num 0#6 0#6 t.bits (BitVec.ofBool a.isQ ++ 0#15))
  | .vsplat h vb t d a => some (packR (vslot vb) h 0x48#8 d a 0#6 0#6 t.bits (0#16))
  | .vamul h vb t d a b swap rms => some (packR (vslot vb) h 0x50#8 d a.num b.num 0#6 t.bits (BitVec.ofBool a.isQ ++ BitVec.ofBool b.isQ ++ rms.bits ++ 0#10 ++ BitVec.ofBool swap))
  | .vamac h vb t d a b c swap rms => some (packR (vslot vb) h 0x51#8 d a.num b.num c t.bits (BitVec.ofBool a.isQ ++ BitVec.ofBool b.isQ ++ rms.bits ++ 0#10 ++ BitVec.ofBool swap))
  | .vconj h vb t d a => some (packR (vslot vb) h 0x52#8 d a.num 0#6 0#6 t.bits (BitVec.ofBool a.isQ ++ 0#15))
  | .vnorm h vb t d a rms => some (packR (vslot vb) h 0x53#8 d a.num 0#6 0#6 t.bits (BitVec.ofBool a.isQ ++ 0#1 ++ rms.bits ++ 0#11))
  | .sminit h n row => some (packR 1#3 h 0x60#8 0#6 0#6 0#6 0#6 0#4 (0#5 ++ n ++ row))
  | .smstep h d a row rms => some (packR 1#3 h 0x61#8 d a.num 0#6 0#6 8#4 (BitVec.ofBool a.isQ ++ 0#1 ++ rms.bits ++ 0#5 ++ row))
  | .smrsc h d row => some (packR 1#3 h 0x62#8 d 0#6 0#6 0#6 0#4 (0#10 ++ row))
  | .smfin h d a row rms => some (packR 1#3 h 0x63#8 d a.num 0#6 0#6 8#4 (BitVec.ofBool a.isQ ++ 0#1 ++ rms.bits ++ 0#5 ++ row))
  | .smget h d row => some (packR 1#3 h 0x64#8 d 0#6 0#6 0#6 0#4 (0#10 ++ row))
  | .mcall h a rsc dr zi swap rout => some (packI 3#3 h 0x01#8 0#6 a (0#22 ++ BitVec.ofBool rsc ++ BitVec.ofBool dr ++ BitVec.ofBool zi ++ BitVec.ofBool swap ++ rout))
  | .mset h d a => some (packR 3#3 h 0x02#8 (d.setWidth 6) a 0#6 0#6 0#4 (0#16))
  | .msetRs h a k => some (packR 3#3 h 0x02#8 0#6 a 0#6 0#6 0#4 (0#10 ++ 1#1 ++ k))
  | .mget h d a => some (packR 3#3 h 0x03#8 d (a.setWidth 6) 0#6 0#6 0#4 (0#16))
  | .mgetRs h d k => some (packR 3#3 h 0x03#8 d 0#6 0#6 0#6 0#4 (0#10 ++ 1#1 ++ k))
  | .malg h d a => some (packR 3#3 h 0x04#8 (d.setWidth 6) a 0#6 0#6 0#4 (0#16))
  | .mdrain h => some (packR 3#3 h 0x05#8 0#6 0#6 0#6 0#6 0#4 (0#16))
  | .mdrainRaw h a => some (packR 3#3 h 0x05#8 0#6 a 0#6 0#6 0#4 (0#15 ++ 1#1))
  | .mfill h a => some (packR 3#3 h 0x06#8 0#6 a 0#6 0#6 0#4 (0#16))
  | .mfreeze h => some (packR 3#3 h 0x07#8 0#6 0#6 0#6 0#6 0#4 (0#16))
  | .mthaw h => some (packR 3#3 h 0x08#8 0#6 0#6 0#6 0#6 0#4 (0#16))
  | .mstat h d clr => some (packR 3#3 h 0x09#8 d 0#6 0#6 0#6 0#4 (0#15 ++ BitVec.ofBool clr))
  | .mload h base size kind scope off => some (packM 3#3 h 0x0A#8 0#6 base size (BitVec.ofBool kind) scope off)
  | .tload h d base size off => some (packM 3#3 h 0x0B#8 d base size 0#1 0#2 off)
  | .mzero h => some (packR 3#3 h 0x0C#8 0#6 0#6 0#6 0#6 0#4 (0#16))
  | .ld h d base size kind scope off => some (packM 4#3 h 0x01#8 d base size (BitVec.ofBool kind) scope off)
  | .vld h d base size kind scope off => some (packM 4#3 h 0x02#8 d base size (BitVec.ofBool kind) scope off)
  | .vldr h d a b tile => some (packR 4#3 h 0x03#8 d (a.setWidth 6) b 0#6 0#4 (0#8 ++ tile))
  | .vldg h t d a b => some (packR 4#3 h 0x04#8 d a b 0#6 t.bits (0#16))
  | .vlds h t d a b => some (packR 4#3 h 0x05#8 d a b 0#6 t.bits (0#16))
  | .lsq h base size kind scope off => some (packM 4#3 h 0x06#8 0#6 base size (BitVec.ofBool kind) scope off)
  | .qset h d base size kind scope off => some (packM 4#3 h 0x07#8 (d.setWidth 6) base size (BitVec.ofBool kind) scope off)
  | .qclr h d => some (packR 4#3 h 0x08#8 (d.setWidth 6) 0#6 0#6 0#6 0#4 (0#16))
  | .pref h d base size off => some (packM 4#3 h 0x09#8 d base size 0#1 0#2 off)
  | .amo h d a b c rel acq scope sz fn => some (packR 4#3 h 0x0A#8 d a b c 0#4 (0#6 ++ BitVec.ofBool rel ++ BitVec.ofBool acq ++ scope ++ sz ++ fn))
  | .vldc h d base size off => some (packM 4#3 h 0x0B#8 d base size 0#1 0#2 off)
  | .st h d base size kind scope off => some (packM 5#3 h 0x01#8 d base size (BitVec.ofBool kind) scope off)
  | .vst h d base size kind scope off => some (packM 5#3 h 0x02#8 d base size (BitVec.ofBool kind) scope off)
  | .vstr h d a b tile => some (packR 5#3 h 0x03#8 d (a.setWidth 6) b 0#6 0#4 (0#8 ++ tile))
  | .vsts h t d a b => some (packR 5#3 h 0x04#8 d a b 0#6 t.bits (0#16))
  | .vstm h d base size kind scope off => some (packM 5#3 h 0x05#8 d base size (BitVec.ofBool kind) scope off)
  | .cflush h base size scope off => some (packM 5#3 h 0x06#8 0#6 base size 0#1 scope off)
  | .cinval h base size scope off => some (packM 5#3 h 0x07#8 0#6 base size 0#1 scope off)
  | .cclean h base size scope off => some (packM 5#3 h 0x08#8 0#6 base size 0#1 scope off)
  | .radv h a n => some (packR 5#3 h 0x09#8 0#6 (a.setWidth 6) 0#6 0#6 0#4 (0#7 ++ n))
  | .cpy h a b c sig chg addm ch => some (packR 6#3 h 0x01#8 0#6 a b c 0#4 (0#10 ++ BitVec.ofBool sig ++ BitVec.ofBool chg ++ addm ++ BitVec.ofBool ch))
  | .cnl h a b c lvl ch => some (packR 6#3 h 0x02#8 0#6 a b c 0#4 (0#12 ++ lvl ++ BitVec.ofBool ch))
  | .cnb h a b c ch => some (packR 6#3 h 0x03#8 0#6 a b c 0#4 (0#15 ++ BitVec.ofBool ch))
  | .cgo h lv sig chg addm ch => some (packR 6#3 h 0x04#8 0#6 0#6 0#6 0#6 0#4 (0#7 ++ lv ++ BitVec.ofBool sig ++ BitVec.ofBool chg ++ addm ++ BitVec.ofBool ch))
  | .cdrain h ch => some (packR 6#3 h 0x05#8 0#6 0#6 0#6 0#6 0#4 (0#15 ++ BitVec.ofBool ch))
  | .cmode h len ch => some (packI 6#3 h 0x06#8 0#6 0#6 (0#30 ++ BitVec.ofBool len ++ BitVec.ofBool ch))
  | .cstat h d ch => some (packR 6#3 h 0x07#8 d 0#6 0#6 0#6 0#4 (0#15 ++ BitVec.ofBool ch))
  | .ckv h a b c dir sig chg ch => some (packR 6#3 h 0x08#8 0#6 a b c 0#4 (0#9 ++ BitVec.ofBool dir ++ BitVec.ofBool sig ++ BitVec.ofBool chg ++ 0#3 ++ BitVec.ofBool ch))
  | .cred h a b ch => some (packR 6#3 h 0x09#8 0#6 a b 0#6 0#4 (0#15 ++ BitVec.ofBool ch))
  | .fence h scope ftype => some (packR 7#3 h 0x01#8 0#6 0#6 0#6 0#6 0#4 (0#12 ++ scope ++ ftype))
  | .tfence h scope => some (packR 7#3 h 0x02#8 0#6 0#6 0#6 0#6 0#4 (0#12 ++ scope ++ 0#2))
  | .twait h tl b imm11 i scope => some (packR 7#3 h 0x03#8 0#6 (tl.setWidth 6) b 0#6 0#4 (imm11 ++ BitVec.ofBool i ++ scope ++ 0#2))
  | .tget h d tl done => some (packR 7#3 h 0x04#8 d (tl.setWidth 6) 0#6 0#6 0#4 (0#15 ++ BitVec.ofBool done))
  | .barv h a => some (packR 7#3 h 0x05#8 0#6 a 0#6 0#6 0#4 (0#16))
  | .bexp h a b => some (packR 7#3 h 0x06#8 0#6 a b 0#6 0#4 (0#16))
  | .bwait h a b => some (packR 7#3 h 0x07#8 0#6 a b 0#6 0#4 (0#16))
  | .sigdec h a b fail => some (packR 7#3 h 0x08#8 0#6 a b 0#6 0#4 (0#15 ++ BitVec.ofBool fail))
  | .sigwait h d a => some (packR 7#3 h 0x09#8 d a 0#6 0#6 0#4 (0#16))
  | .mwait h d a b tmo => some (packR 7#3 h 0x0A#8 d a b 0#6 0#4 (tmo))
  | .launch h d a => some (packR 7#3 h 0x0B#8 d a 0#6 0#6 0#4 (0#16))
  | .exit h fail => some (packR 7#3 h 0x0C#8 0#6 0#6 0#6 0#6 0#4 (0#15 ++ BitVec.ofBool fail))
  | .trap h code => some (packI 7#3 h 0x0D#8 0#6 0#6 (0#16 ++ code))
  | .fmt h covf cnan walg wrm alg rm => some (packI 7#3 h 0x0E#8 0#6 0#6 (0#24 ++ BitVec.ofBool covf ++ BitVec.ofBool cnan ++ BitVec.ofBool walg ++ BitVec.ofBool wrm ++ alg ++ rm))
  | .bandup h a => some (packR 7#3 h 0x0F#8 0#6 a 0#6 0#6 0#4 (0#16))
  | .seal_ h a b c k => some (packR 7#3 h 0x10#8 0#6 a b c 0#4 (0#14 ++ k))
  | .open_ h a b c k => some (packR 7#3 h 0x11#8 0#6 a b c 0#4 (0#14 ++ k))
  | .wld h a b seg => some (packR 7#3 h 0x12#8 0#6 a b 0#6 0#4 (0#12 ++ seg))
  | .wlock h seg => some (packR 7#3 h 0x13#8 0#6 0#6 0#6 0#6 0#4 (0#12 ++ seg))
  | .wunlk h seg => some (packR 7#3 h 0x14#8 0#6 0#6 0#6 0#6 0#4 (0#12 ++ seg))
  | .wx h d a mode => some (packR 7#3 h 0x15#8 d a 0#6 0#6 0#4 (0#14 ++ mode))
  | .yield h => some (packR 7#3 h 0x16#8 0#6 0#6 0#6 0#6 0#4 (0#16))
  | .rdtime h d => some (packR 7#3 h 0x17#8 d 0#6 0#6 0#6 0#4 (0#16))
  | _ => none

/-- The Milliner word map (R48, R49, R87), before the reserved bits are checked. -/
def decodeMillinerRaw (w : BitVec 32) : Option Instr :=
  match w.extractLsb' 26 6 with
  | 0x01#6 => some (.gadd (w.extractLsb' 21 5) (w.extractLsb' 16 5) (w.extractLsb' 11 5))
  | 0x02#6 => some (.gsub (w.extractLsb' 21 5) (w.extractLsb' 16 5) (w.extractLsb' 11 5))
  | 0x03#6 => some (.gand (w.extractLsb' 21 5) (w.extractLsb' 16 5) (w.extractLsb' 11 5))
  | 0x04#6 => some (.gor (w.extractLsb' 21 5) (w.extractLsb' 16 5) (w.extractLsb' 11 5))
  | 0x05#6 => some (.gxor (w.extractLsb' 21 5) (w.extractLsb' 16 5) (w.extractLsb' 11 5))
  | 0x06#6 => some (.gshl (w.extractLsb' 21 5) (w.extractLsb' 16 5) (w.extractLsb' 11 5))
  | 0x07#6 => some (.gshr (w.extractLsb' 21 5) (w.extractLsb' 16 5) (w.extractLsb' 11 5))
  | 0x08#6 => some (.gsra (w.extractLsb' 21 5) (w.extractLsb' 16 5) (w.extractLsb' 11 5))
  | 0x09#6 => some (.gmul (w.extractLsb' 21 5) (w.extractLsb' 16 5) (w.extractLsb' 11 5))
  | 0x0A#6 => some (.gaddi (w.extractLsb' 21 5) (w.extractLsb' 16 5) (w.extractLsb' 0 16))
  | 0x0B#6 => some (.gandi (w.extractLsb' 21 5) (w.extractLsb' 16 5) (w.extractLsb' 0 16))
  | 0x0C#6 => some (.gori (w.extractLsb' 21 5) (w.extractLsb' 16 5) (w.extractLsb' 0 16))
  | 0x0D#6 => some (.gshli (w.extractLsb' 21 5) (w.extractLsb' 16 5) (w.extractLsb' 0 6))
  | 0x0E#6 => some (.gshri (w.extractLsb' 21 5) (w.extractLsb' 16 5) (w.extractLsb' 0 6))
  | 0x0F#6 => some (.gli (w.extractLsb' 21 5) (w.extractLsb' 0 16))
  | 0x10#6 => some (.glih (w.extractLsb' 21 5) (w.extractLsb' 16 5) (w.extractLsb' 0 16))
  | 0x11#6 => some (.gslt (w.extractLsb' 21 5) (w.extractLsb' 16 5) (w.extractLsb' 11 5))
  | 0x12#6 => some (.gsltu (w.extractLsb' 21 5) (w.extractLsb' 16 5) (w.extractLsb' 11 5))
  | 0x13#6 => some (.gbeq (w.extractLsb' 21 5) (w.extractLsb' 16 5) (w.extractLsb' 0 16))
  | 0x14#6 => some (.gbne (w.extractLsb' 21 5) (w.extractLsb' 16 5) (w.extractLsb' 0 16))
  | 0x15#6 => some (.gblt (w.extractLsb' 21 5) (w.extractLsb' 16 5) (w.extractLsb' 0 16))
  | 0x16#6 => some (.gbge (w.extractLsb' 21 5) (w.extractLsb' 16 5) (w.extractLsb' 0 16))
  | 0x17#6 => some (.gbltu (w.extractLsb' 21 5) (w.extractLsb' 16 5) (w.extractLsb' 0 16))
  | 0x18#6 => some (.gbgeu (w.extractLsb' 21 5) (w.extractLsb' 16 5) (w.extractLsb' 0 16))
  | 0x19#6 => some (.gj (w.extractLsb' 0 21))
  | 0x1A#6 => some (.gjal (w.extractLsb' 21 5) (w.extractLsb' 0 21))
  | 0x1B#6 => some (.gjr (w.extractLsb' 21 5) (w.extractLsb' 16 5))
  | 0x1C#6 => some (.gld (w.extractLsb' 21 5) (w.extractLsb' 16 5) (w.extractLsb' 0 16))
  | 0x1D#6 => some (.gst (w.extractLsb' 21 5) (w.extractLsb' 16 5) (w.extractLsb' 0 16))
  | 0x20#6 => some (.tld (w.extractLsb' 23 3) (w.extractLsb' 11 5) (w.extractLsb' 0 11))
  | 0x21#6 => some (.tpat (w.extractLsb' 23 3) (w.extractLsb' 20 3) (w.extractLsb' 16 4) (w.extractLsb' 11 5) (w.extractLsb' 0 11))
  | 0x22#6 => some (.tpati (w.extractLsb' 23 3) (w.extractLsb' 20 3) (w.extractLsb' 16 4) (w.extractLsb' 0 11))
  | 0x23#6 => if w.getLsbD 16 then some (.tclrAll (w.extractLsb' 23 3)) else some (.tclr (w.extractLsb' 23 3) (w.extractLsb' 20 3))
  | 0x24#6 => some (.emit (w.extractLsb' 23 3))
  | 0x25#6 => some (.emitm (w.extractLsb' 23 3))
  | 0x26#6 => some (.emitr (w.extractLsb' 21 5) (w.extractLsb' 16 5) (w.extractLsb' 11 5))
  | 0x28#6 => some (.gwait (w.extractLsb' 21 5) (w.extractLsb' 16 5))
  | 0x29#6 => some (.grecv (w.extractLsb' 21 5))
  | 0x2A#6 => some (.grds (w.extractLsb' 21 5) (w.extractLsb' 0 16))
  | 0x2B#6 => some (.gwrs (w.extractLsb' 16 5) (w.extractLsb' 0 16))
  | 0x2C#6 => some (.gtrap (w.extractLsb' 0 16))
  | 0x2D#6 => some .gend
  | _ => none

/-- The Milliner word of an instruction; none for another set. -/
def encodeMilliner : Instr → Option (BitVec 32)
  | .gadd d a b => some (0x01#6 ++ d ++ a ++ b ++ 0#11)
  | .gsub d a b => some (0x02#6 ++ d ++ a ++ b ++ 0#11)
  | .gand d a b => some (0x03#6 ++ d ++ a ++ b ++ 0#11)
  | .gor d a b => some (0x04#6 ++ d ++ a ++ b ++ 0#11)
  | .gxor d a b => some (0x05#6 ++ d ++ a ++ b ++ 0#11)
  | .gshl d a b => some (0x06#6 ++ d ++ a ++ b ++ 0#11)
  | .gshr d a b => some (0x07#6 ++ d ++ a ++ b ++ 0#11)
  | .gsra d a b => some (0x08#6 ++ d ++ a ++ b ++ 0#11)
  | .gmul d a b => some (0x09#6 ++ d ++ a ++ b ++ 0#11)
  | .gaddi d a i => some (0x0A#6 ++ d ++ a ++ i)
  | .gandi d a i => some (0x0B#6 ++ d ++ a ++ i)
  | .gori d a i => some (0x0C#6 ++ d ++ a ++ i)
  | .gshli d a n => some (0x0D#6 ++ d ++ a ++ 0#10 ++ n)
  | .gshri d a n => some (0x0E#6 ++ d ++ a ++ 0#10 ++ n)
  | .gli d i => some (0x0F#6 ++ d ++ 0#5 ++ i)
  | .glih d a i => some (0x10#6 ++ d ++ a ++ i)
  | .gslt d a b => some (0x11#6 ++ d ++ a ++ b ++ 0#11)
  | .gsltu d a b => some (0x12#6 ++ d ++ a ++ b ++ 0#11)
  | .gbeq a b o => some (0x13#6 ++ a ++ b ++ o)
  | .gbne a b o => some (0x14#6 ++ a ++ b ++ o)
  | .gblt a b o => some (0x15#6 ++ a ++ b ++ o)
  | .gbge a b o => some (0x16#6 ++ a ++ b ++ o)
  | .gbltu a b o => some (0x17#6 ++ a ++ b ++ o)
  | .gbgeu a b o => some (0x18#6 ++ a ++ b ++ o)
  | .gj o => some (0x19#6 ++ 0#5 ++ o)
  | .gjal d o => some (0x1A#6 ++ d ++ o)
  | .gjr d a => some (0x1B#6 ++ d ++ a ++ 0#16)
  | .gld d a i => some (0x1C#6 ++ d ++ a ++ i)
  | .gst d a i => some (0x1D#6 ++ d ++ a ++ i)
  | .tld b a i => some (0x20#6 ++ b ++ 0#7 ++ a ++ i)
  | .tpat b slot fsel a i => some (0x21#6 ++ b ++ slot ++ fsel ++ a ++ i)
  | .tpati b slot fsel i => some (0x22#6 ++ b ++ slot ++ fsel ++ 0#5 ++ i)
  | .tclr b slot => some (0x23#6 ++ b ++ slot ++ 0#20)
  | .tclrAll b => some (0x23#6 ++ b ++ 0#6 ++ 1#1 ++ 0#16)
  | .emit b => some (0x24#6 ++ b ++ 0#23)
  | .emitm b => some (0x25#6 ++ b ++ 0#23)
  | .emitr d a b => some (0x26#6 ++ d ++ a ++ b ++ 0#11)
  | .gwait d a => some (0x28#6 ++ d ++ a ++ 0#16)
  | .grecv d => some (0x29#6 ++ d ++ 0#21)
  | .grds d n => some (0x2A#6 ++ d ++ 0#5 ++ n)
  | .gwrs a n => some (0x2B#6 ++ 0#5 ++ a ++ n)
  | .gtrap code => some (0x2C#6 ++ 0#10 ++ code)
  | .gend => some (0x2D#6 ++ 0#26)
  | _ => none

/-- The Micro word map (R50, R195), before the reserved bits are checked. -/
noncomputable def decodeMicroRaw (w : BitVec 32) : Option Instr :=
  match w.extractLsb' 27 5 with
  | 0x01#5 => some (.pulla (w.extractLsb' 24 3) (w.extractLsb' 21 3))
  | 0x02#5 => some (.pullb (w.extractLsb' 24 3) (w.extractLsb' 21 3))
  | 0x03#5 => some (.pullm (w.extractLsb' 24 3) (w.extractLsb' 21 3))
  | 0x04#5 => some (.step (w.extractLsb' 24 3) (w.extractLsb' 21 3))
  | 0x05#5 => some (.stepk (w.extractLsb' 24 3) (w.extractLsb' 21 3) (w.extractLsb' 18 3) (w.extractLsb' 15 3))
  | 0x06#5 => some (.zacc (w.extractLsb' 24 3) (w.extractLsb' 21 3))
  | 0x07#5 => some .sqpop
  | 0x08#5 => some (.drain (w.extractLsb' 24 3) (w.extractLsb' 21 3))
  | 0x09#5 => some (.loop (w.extractLsb' 24 3) (w.extractLsb' 21 3) (w.extractLsb' 0 16))
  | 0x0A#5 => some .endl
  | 0x0B#5 => some .syncc
  | 0x0C#5 => some (.waitr (w.extractLsb' 25 2) (w.extractLsb' 16 9))
  | 0x0D#5 => some .swap
  | 0x0E#5 => some .ret
  | _ => none

/-- The Micro word of an instruction; none for another set. -/
def encodeMicro : Instr → Option (BitVec 32)
  | .pulla ts bs => some (0x01#5 ++ ts ++ bs ++ 0#21)
  | .pullb ts bs => some (0x02#5 ++ ts ++ bs ++ 0#21)
  | .pullm ts bs => some (0x03#5 ++ ts ++ bs ++ 0#21)
  | .step ms ns => some (0x04#5 ++ ms ++ ns ++ 0#21)
  | .stepk ms ns ats bts => some (0x05#5 ++ ms ++ ns ++ ats ++ bts ++ 0#15)
  | .zacc ms ns => some (0x06#5 ++ ms ++ ns ++ 0#21)
  | .sqpop => some (0x07#5 ++ 0#27)
  | .drain ms ns => some (0x08#5 ++ ms ++ ns ++ 0#21)
  | .loop lvl cs i => some (0x09#5 ++ lvl ++ cs ++ 0#5 ++ i)
  | .endl => some (0x0A#5 ++ 0#27)
  | .syncc => some (0x0B#5 ++ 0#27)
  | .waitr ring n => some (0x0C#5 ++ ring ++ n ++ 0#16)
  | .swap => some (0x0D#5 ++ 0#27)
  | .ret => some (0x0E#5 ++ 0#27)
  | _ => none

/-- The Trimmer word map (R51, R207), before the reserved bits are checked. -/
noncomputable def decodeTrimmerRaw (w : BitVec 32) : Option Instr :=
  match w.extractLsb' 27 5 with
  | 0x01#5 => some (.trimTld (w.getLsbD 26) (w.extractLsb' 20 6))
  | 0x02#5 => some (.tbias (w.extractLsb' 20 6))
  | 0x03#5 => some (.tmul (w.extractLsb' 20 6))
  | 0x04#5 => some .tts
  | 0x05#5 => some (.tact (w.extractLsb' 4 5) (w.extractLsb' 0 4))
  | 0x06#5 => some .trnd
  | 0x07#5 => some (.tcvt (w.getLsbD 4) (w.extractLsb' 0 4))
  | 0x08#5 => some (.tsat (w.extractLsb' 20 6) (w.extractLsb' 14 6))
  | 0x09#5 => some .trmax
  | 0x0A#5 => some (.trsum (w.getLsbD 0))
  | 0x0B#5 => some (.tqnt (w.getLsbD 4) (w.extractLsb' 0 4))
  | 0x0C#5 => some (.tadd (w.extractLsb' 0 4))
  | 0x0D#5 => some (.tmulr (w.extractLsb' 8 8) (w.extractLsb' 2 6) (w.extractLsb' 0 2))
  | 0x0E#5 => some (.tst (w.getLsbD 0))
  | 0x0F#5 => some .tsts
  | 0x10#5 => some .tend
  | _ => none

/-- The Trimmer word of an instruction; none for another set. -/
def encodeTrimmer : Instr → Option (BitVec 32)
  | .trimTld src k => some (0x01#5 ++ BitVec.ofBool src ++ k ++ 0#20)
  | .tbias k => some (0x02#5 ++ 0#1 ++ k ++ 0#20)
  | .tmul k => some (0x03#5 ++ 0#1 ++ k ++ 0#20)
  | .tts => some (0x04#5 ++ 0#27)
  | .tact sh fn => some (0x05#5 ++ 0#18 ++ sh ++ fn)
  | .trnd => some (0x06#5 ++ 0#27)
  | .tcvt sat fc => some (0x07#5 ++ 0#22 ++ BitVec.ofBool sat ++ fc)
  | .tsat kl kh => some (0x08#5 ++ 0#1 ++ kl ++ kh ++ 0#14)
  | .trmax => some (0x09#5 ++ 0#27)
  | .trsum sq => some (0x0A#5 ++ 0#26 ++ BitVec.ofBool sq)
  | .tqnt sat fc => some (0x0B#5 ++ 0#22 ++ BitVec.ofBool sat ++ fc)
  | .tadd fc => some (0x0C#5 ++ 0#23 ++ fc)
  | .tmulr epse sh f => some (0x0D#5 ++ 0#11 ++ epse ++ sh ++ f)
  | .tst w => some (0x0E#5 ++ 0#26 ++ BitVec.ofBool w)
  | .tsts => some (0x0F#5 ++ 0#27)
  | .tend => some (0x10#5 ++ 0#27)
  | _ => none

/-- Why a word is refused; every refusal is P00 (R32, R35, R47, R52). -/
inductive DecodeError where
  /-- An unassigned opcode or type code. -/
  | unassigned
  /-- A nonzero reserved bit, or a register number outside its file. -/
  | reserved
deriving DecidableEq, Repr

/-- Accepts a raw decoding only if the instruction encodes to the same word: no bit is ignored (R32). -/
def checkWord {n : Nat} (enc : Instr → Option (BitVec n)) (w : BitVec n) (raw : Option Instr) : Except DecodeError Instr :=
  match raw with
  | none => .error .unassigned
  | some i => if enc i = some w then .ok i else .error .reserved

/-- Decodes an op word. -/
def decodeOp (w : BitVec 64) : Except DecodeError Instr := checkWord encodeOp w (decodeOpRaw w)
/-- Decodes a Milliner word. -/
def decodeMilliner (w : BitVec 32) : Except DecodeError Instr := checkWord encodeMilliner w (decodeMillinerRaw w)
/-- Decodes a micro-word. -/
noncomputable def decodeMicro (w : BitVec 32) : Except DecodeError Instr := checkWord encodeMicro w (decodeMicroRaw w)
/-- Decodes a Trimmer word. -/
noncomputable def decodeTrimmer (w : BitVec 32) : Except DecodeError Instr := checkWord encodeTrimmer w (decodeTrimmerRaw w)

/-- Which unit reads a 32-bit word in `decodeTableWord`: the Milliner if it accepts the word, else the block store,
else the Trimmer (assumption log 6). -/
inductive SideSet where
  | milliner | micro | trimmer
deriving DecidableEq, Repr

/-- The side set that accepts a 32-bit word, with its instruction. -/
noncomputable def decodeSide (w : BitVec 32) : Option (SideSet × Instr) :=
  match decodeMilliner w with
  | .ok i => some (.milliner, i)
  | .error _ =>
    match decodeMicro w with
    | .ok i => some (.micro, i)
    | .error _ =>
      match decodeTrimmer w with
      | .ok i => some (.trimmer, i)
      | .error _ => none

/-- The instruction that the decoders read from an opcode-table word. -/
noncomputable def decodeTableWord (nbits w : Nat) : Option Instr :=
  if nbits = 64 then (decodeOp (BitVec.ofNat 64 w)).toOption
  else if nbits = 32 then (decodeSide (BitVec.ofNat 32 w)).map (·.2)
  else none

end Sys2Proof
end

