-- ==== Sys2Proof/Config.lean ====
section
/-! DEFINITION. What a part or its fuses fix, and the free values: constants without a body, so that no proof can see
what they are (assumption log 7, 8, 9, 36, 55, 61, 69, 82, 86). -/
namespace Sys2Proof.Config

/-- The cores whose VB pipe is fused off: at most 16 (R1). -/
opaque narrowCores : Vector (Option CoreId) 16
/-- The cores that are disabled: at most 8 (R1, R11). -/
opaque disabledCores : Vector (Option CoreId) 8
/-- A core's VB pipe is fused off (R1, R13). -/
def narrow (c : CoreId) : Bool := narrowCores.toList.contains (some c)
/-- A core is disabled (R1, R11). -/
def disabled (c : CoreId) : Bool := disabledCores.toList.contains (some c)
/-- Key k of a tenant in Headwater's key store, if the tenant holds it (R376). -/
opaque key : BitVec 4 → BitVec 2 → Option (BitVec 256)
/-- The image key that Headwater derives from the device-reset secret, the tenant and BID (R388), by reset count. -/
opaque imageKey : Nat → BitVec 4 → BitVec 32 → BitVec 256
/-- The fresh base of a save-counter entry: bits 63:40 of it, by reset count and index (R388). -/
opaque saveBase : Nat → BitVec 16 → BitVec 24
/-- The value at which the binding counter starts, by reset count (R370). -/
opaque bidBase : Nat → BitVec 32
/-- The fused minimum security version of a firmware image (R414). -/
opaque minSvn : BitVec 32
/-- The error that the media of a 64-byte line hold when a read reaches it in a cycle, by cycle and line: whether copy A and
copy B of a header fail their CRC; of payload no error, a single error or an uncorrectable one in bits 7:2; the groups with a
parity error (R321, R322). -/
opaque mediaError : Nat → Nat → Option (Bool × Bool × Option Bool × Byte)
/-- How far back among the values that a unit of memory may still give a weak load reads (R255), by cycle, front end, the load's
place in the issue order and the unit. -/
opaque age : Nat → Nat → Nat → Nat → Nat
/-- An uncorrectable error that strikes in a cycle (R217): its kind, a front end or a cluster, and a line. -/
opaque eccStrike : Nat → Option (BitVec 2 × Nat × Nat)
/-- A line that a cluster's caches give up in a cycle, by cluster and line (R218). -/
opaque evict : Nat → Option (Nat × Nat)
/-- A store that a processor outside the device makes in a cycle to pool memory or to a host's own memory, as the key of its first byte
and its bytes (R258). -/
opaque foreign : Nat → Option (Nat × List Byte)
/-- An engine finds a byte of a scratchpad store that is not visible yet (R265), by binding, beat, the beat at which the store becomes
visible, and the byte's offset. -/
opaque spmEarly : Nat → Nat → Nat → Nat → Bool
/-- A value that the manual leaves open, fresh for each use. -/
opaque freeByte : Nat → Byte
/-- A 64-bit value that the manual leaves open, fresh for each use. -/
opaque freeWord : Nat → Word

end Sys2Proof.Config
end

