-- ==== Sys2Proof/Machine/Num.lean ====
section
/-! DEFINITION. Number formats, exact values, rounding, conversion and summation (03_numbers). -/
namespace Sys2Proof.Machine

/-- Rounding modes (R66). -/
inductive Rm where
  | rne | rtz | rdn | rup
deriving DecidableEq, Repr

/-- The rounding code of R66. -/
def Rm.ofBits (b : BitVec 2) : Rm :=
  if b = 0#2 then .rne else if b = 1#2 then .rtz else if b = 2#2 then .rdn else .rup

/-- The special encodings of a floating-point format (R61): `ieee` has infinities and NaN,
`fn` (E4M3) only NaN, `plain` neither. -/
inductive Special where
  | ieee | fn | plain
deriving DecidableEq, Repr

/-- A number format: floating point with its field widths and bias (R60, R61), a two's-complement or
unsigned integer of `w` bits scaled by 2^-fb (R63), or an E8M0 scale (R64). -/
inductive Fmt where
  | fp (eb mb bias : Nat) (sp : Special)
  | int (signed : Bool) (w fb : Nat)
  | e8m0
deriving DecidableEq, Repr

/-- Width of a format in bits. -/
def Fmt.width : Fmt → Nat
  | .fp eb mb _ _ => 1 + eb + mb
  | .int _ w _ => w
  | .e8m0 => 8

def fmtF32 : Fmt := .fp 8 23 127 .ieee
def fmtBF16 : Fmt := .fp 8 7 127 .ieee
def fmtF16 : Fmt := .fp 5 10 15 .ieee
def fmtE4M3 : Fmt := .fp 4 3 7 .fn
def fmtE5M2 : Fmt := .fp 5 2 15 .ieee

/-- The format that a format code names (R59); none for the reserved codes 14 and 15. -/
def Fmt.ofCode (c : BitVec 4) : Option Fmt :=
  match c.toNat with
  | 0 => some (.int true 4 2)
  | 1 => some (.int true 6 4)
  | 2 => some (.int true 8 6)
  | 3 => some (.int true 8 0)
  | 4 => some (.int true 16 0)
  | 5 => some (.fp 2 1 1 .plain)
  | 6 => some (.fp 2 3 1 .plain)
  | 7 => some (.fp 3 2 3 .plain)
  | 8 => some fmtE4M3
  | 9 => some fmtE5M2
  | 10 => some fmtBF16
  | 11 => some fmtF16
  | 12 => some fmtF32
  | 13 => some .e8m0
  | _ => none

/-- Formats 0–2 and 5–9 are block-scaled (R70). -/
def blockScaled (c : BitVec 4) : Bool := decide (c.toNat ≤ 2) || (decide (5 ≤ c.toNat) && decide (c.toNat ≤ 9))

/-- An exact extended value: NaN, an infinity, or ±mag × 2^exp. With `stk` the exact magnitude lies strictly
between mag × 2^exp and (mag + 1) × 2^exp. -/
inductive XV where
  | nan
  | inf (neg : Bool)
  | fin (neg : Bool) (mag : Nat) (exp : Int) (stk : Bool)
deriving DecidableEq, Repr

def XV.zero (neg : Bool) : XV := .fin neg 0 0 false
def XV.ofNat (n : Nat) : XV := .fin false n 0 false
def XV.ofInt (i : Int) : XV := .fin (decide (i < 0)) i.natAbs 0 false
def XV.isNan : XV → Bool
  | .nan => true
  | _ => false
def XV.isInf : XV → Bool
  | .inf _ => true
  | _ => false
def XV.isZero : XV → Bool
  | .fin _ 0 _ false => true
  | _ => false
def XV.sign : XV → Bool
  | .nan => false
  | .inf n => n
  | .fin n _ _ _ => n
def XV.negate : XV → XV
  | .nan => .nan
  | .inf n => .inf (!n)
  | .fin n m e k => .fin (!n) m e k
def XV.abs : XV → XV
  | .nan => .nan
  | .inf _ => .inf false
  | .fin _ m e k => .fin false m e k
/-- Multiplication by 2^k, exact. -/
def XV.scale (x : XV) (k : Int) : XV :=
  match x with
  | .fin n m e s => .fin n m (e + k) s
  | y => y

/-- The value of an encoding (R60, R61, R63, R64). -/
def Fmt.value (f : Fmt) (bits : Nat) : XV :=
  match f with
  | .fp eb mb bias sp =>
    let m := bits % 2 ^ mb
    let e := (bits / 2 ^ mb) % 2 ^ eb
    let neg := (bits / 2 ^ (mb + eb)) % 2 == 1
    let top := e == 2 ^ eb - 1
    if sp = .ieee ∧ top = true then (if m = 0 then .inf neg else .nan)
    else if sp = .fn ∧ top = true ∧ m = 2 ^ mb - 1 then .nan
    else if e = 0 then .fin neg m (1 - (bias : Int) - mb) false
    else .fin neg (2 ^ mb + m) ((e : Int) - bias - mb) false
  | .int signed w fb =>
    let u := bits % 2 ^ w
    if signed && decide (2 ^ (w - 1) ≤ u) then .fin true (2 ^ w - u) (-(fb : Int)) false
    else .fin false u (-(fb : Int)) false
  | .e8m0 => if bits % 256 = 255 then .nan else .fin false 1 ((bits % 256 : Nat) - 127 : Int) false

/-- Rounds mag × 2^exp (with its sticky mark) to an integer multiple of 2^ulp (R66). -/
def roundMag (rm : Rm) (neg : Bool) (mag : Nat) (exp : Int) (stk : Bool) (ulp : Int) : Nat :=
  let sh := (ulp - exp).toNat
  let up := (exp - ulp).toNat
  let q := (mag <<< up) >>> sh
  let r2 := 2 * ((mag <<< up) - (q <<< sh))
  let one := 1 <<< sh
  let inexact := r2 != 0 || stk
  let inc := match rm with
    | .rne => decide (one < r2) || (r2 == one && (stk || q % 2 == 1))
    | .rtz => false
    | .rdn => neg && inexact
    | .rup => !neg && inexact
  if inc then q + 1 else q

/-- The lowest and highest q of an integer format (R63). -/
def intRange (signed : Bool) (w : Nat) : Int × Int :=
  if signed then (-(2 ^ (w - 1) : Nat), (2 ^ (w - 1) : Nat) - 1) else (0, (2 ^ w : Nat) - 1)

/-- `Sat` of R9. -/
def satInt (x lo hi : Int) : Int := if x < lo then lo else if hi < x then hi else x

/-- The two's-complement bits of an integer, modulo 2^w. -/
def wrapInt (w : Nat) (x : Int) : Nat := (x % (2 ^ w : Nat)).toNat

/-- The canonical NaN of a format that has one (R62). -/
def fpNan (eb mb : Nat) (sp : Special) : Nat :=
  match sp with
  | .ieee => (2 ^ eb - 1) * 2 ^ mb + 2 ^ (mb - 1)
  | .fn => (2 ^ eb - 1) * 2 ^ mb + (2 ^ mb - 1)
  | .plain => 0

/-- The largest finite encoding, without sign (R61). -/
def fpMaxBits (eb mb : Nat) (sp : Special) : Nat :=
  match sp with
  | .ieee => (2 ^ eb - 1) * 2 ^ mb - 1
  | .fn => 2 ^ (eb + mb) - 2
  | .plain => 2 ^ (eb + mb) - 1

/-- The result of a conversion: the bits, whether a NaN was read, whether the target overflowed (R69). -/
structure Cv where
  bits : Nat
  cvnan : Bool
  cvovf : Bool
deriving DecidableEq, Repr

/-- The overflow outcome of a floating-point target (R69): the encoding without sign. -/
def fpOverflow (eb mb : Nat) (sp : Special) (rm : Rm) (sat neg : Bool) : Nat :=
  let maxb := fpMaxBits eb mb sp
  let infb := (2 ^ eb - 1) * 2 ^ mb
  match sp with
  | .plain => maxb
  | .fn => if sat then maxb else fpNan eb mb sp
  | .ieee =>
    if sat then maxb else
    match rm with
    | .rne => infb
    | .rtz => maxb
    | .rdn => if neg then infb else maxb
    | .rup => if neg then maxb else infb

/-- Rounds a finite value to a floating-point format (R68, R69). -/
def fpRound (eb mb bias : Nat) (sp : Special) (rm : Rm) (sat neg : Bool) (mag : Nat) (exp : Int) (stk : Bool) : Cv :=
  let emin : Int := 1 - (bias : Int) - mb
  let ulp : Int := if mag = 0 then emin else max emin ((Nat.log2 mag : Int) + exp - mb)
  let q0 := roundMag rm neg mag exp stk ulp
  let carry := decide (2 ^ (mb + 1) ≤ q0)
  let q := if carry then q0 / 2 else q0
  let u := if carry then ulp + 1 else ulp
  let code : Nat := if q < 2 ^ mb then q else ((u - emin).toNat + 1) * 2 ^ mb + (q - 2 ^ mb)
  let sgn := if neg then 2 ^ (eb + mb) else 0
  if fpMaxBits eb mb sp < code then
    let o := fpOverflow eb mb sp rm sat neg
    let s := if sp = .fn ∧ sat = false then 0 else sgn
    ⟨o + s, false, true⟩
  else ⟨code + sgn, false, false⟩

/-- floor(log2) of a nonzero finite magnitude. -/
def floorLog2 (mag : Nat) (exp : Int) : Int := (Nat.log2 mag : Int) + exp

/-- The conversion to E8M0 (R69): the exponent k of the power of two that the mode gives. -/
def e8m0Exp (rm : Rm) (mag : Nat) (exp : Int) (stk : Bool) : Int :=
  let l := Nat.log2 mag
  let k := (l : Int) + exp
  let exact := mag == 2 ^ l && !stk
  match rm with
  | .rtz | .rdn => k
  | .rup => if exact then k else k + 1
  | .rne =>
    if 2 * mag < 3 * 2 ^ l then k
    else if 3 * 2 ^ l < 2 * mag || stk then k + 1
    else if k % 2 = 0 then k else k + 1

/-- `Convert` of R68 and R69. -/
def convert (f : Fmt) (rm : Rm) (sat : Bool) (x : XV) : Cv :=
  match f with
  | .fp eb mb bias sp =>
    let sgnOf (neg : Bool) := if neg then 2 ^ (eb + mb) else 0
    match x with
    | .nan => ⟨fpNan eb mb sp, true, false⟩
    | .inf neg =>
      match sp with
      | .ieee => ⟨(2 ^ eb - 1) * 2 ^ mb + sgnOf neg, false, false⟩
      | .fn => if sat then ⟨fpMaxBits eb mb sp + sgnOf neg, false, true⟩ else ⟨fpNan eb mb sp, false, true⟩
      | .plain => ⟨fpMaxBits eb mb sp + sgnOf neg, false, true⟩
    | .fin neg mag exp stk => fpRound eb mb bias sp rm sat neg mag exp stk
  | .int signed w fb =>
    let (lo, hi) := intRange signed w
    match x with
    | .nan => ⟨0, true, false⟩
    | .inf neg => ⟨wrapInt w (if sat && !neg then hi else lo), false, true⟩
    | .fin neg mag exp stk =>
      let m := roundMag rm neg mag exp stk (-(fb : Int))
      let q : Int := if neg then -(m : Int) else m
      if q < lo ∨ hi < q then ⟨wrapInt w (if sat then satInt q lo hi else q), false, true⟩
      else ⟨wrapInt w q, false, false⟩
  | .e8m0 =>
    match x with
    | .nan => ⟨255, true, false⟩
    | .inf _ => ⟨if sat then 254 else 255, false, true⟩
    | .fin _ mag exp stk =>
      if mag = 0 then ⟨0, false, false⟩ else
      let k := e8m0Exp rm mag exp stk
      if k < -127 then ⟨0, false, false⟩
      else if 127 < k then ⟨if sat then 254 else 255, false, true⟩
      else ⟨(k + 127).toNat, false, false⟩

/-- The bits of a value rounded once to a format without saturation (R150, `RoundFP32` of R9). -/
def roundTo (f : Fmt) (rm : Rm) (x : XV) : Nat := (convert f rm false x).bits

/-- The signed integer ±mag × 2^(exp - e0), for e0 not above exp. -/
def alignInt (neg : Bool) (mag : Nat) (exp e0 : Int) : Int :=
  let m : Nat := mag <<< (exp - e0).toNat
  if neg then -(m : Int) else m

/-- The least exponent among the finite nonzero terms. -/
def minExp : List XV → Int → Int
  | [], acc => acc
  | .fin _ m e _ :: l, acc => minExp l (if m = 0 then acc else min acc e)
  | _ :: l, acc => minExp l acc

/-- The exact integer sum of the finite terms in units of 2^e0. -/
def sumInt (e0 : Int) : List XV → Int → Int
  | [], acc => acc
  | .fin n m e _ :: l, acc => sumInt e0 l (acc + if m = 0 then 0 else alignInt n m e e0)
  | _ :: l, acc => sumInt e0 l acc

/-- The sign of an exact zero sum (R150). -/
def zeroSumSign (rm : Rm) (l : List XV) : Bool :=
  if l.all (fun t => t.sign) && !l.isEmpty && l.all (fun t => t.isZero) then true
  else if l.all (fun t => t.isZero && !t.sign) then false
  else decide (rm = .rdn)

/-- The exact sum of terms under R150: NaN for a NaN term or opposite infinities. -/
def sumXV (rm : Rm) (l : List XV) : XV :=
  if l.any XV.isNan then .nan
  else
    let pos := l.any (fun t => t.isInf && !t.sign)
    let neg := l.any (fun t => t.isInf && t.sign)
    if pos && neg then .nan
    else if pos then .inf false
    else if neg then .inf true
    else
      let e0 := minExp l 1000000
      let s := sumInt e0 l 0
      if s = 0 then XV.zero (zeroSumSign rm l) else .fin (decide (s < 0)) s.natAbs e0 false

/-- The exact product, NaN for ∞ × 0 (R150). -/
def mulXV (a b : XV) : XV :=
  match a, b with
  | .nan, _ => .nan
  | _, .nan => .nan
  | .inf n, y => if y.isZero then .nan else .inf (n != y.sign)
  | x, .inf n => if x.isZero then .nan else .inf (n != x.sign)
  | .fin n m e _, .fin n' m' e' _ => .fin (n != n') (m * m') (e + e') false

/-- The order of two values that are no NaN, with -0 = +0: less, equal or greater. -/
def cmpXV (a b : XV) : Ordering :=
  match a, b with
  | .inf true, .inf true => .eq
  | .inf false, .inf false => .eq
  | .inf true, _ => .lt
  | .inf false, _ => .gt
  | _, .inf true => .gt
  | _, .inf false => .lt
  | .fin n m e _, .fin n' m' e' _ =>
    let e0 := min e e'
    compare (alignInt n m e e0) (alignInt n' m' e' e0)
  | .nan, _ => .eq
  | _, .nan => .eq

/-- The order of R155 for minima and maxima: -0 below +0. -/
def ltXV (a b : XV) : Bool :=
  match cmpXV a b with
  | .lt => true
  | .gt => false
  | .eq => a.sign && !b.sign

/-- The FP32 constants of R62 and R61. -/
def nan32 : BitVec 32 := 0x7FC00000#32
def max32 : BitVec 32 := 0x7F7FFFFF#32

/-- An FP32 word as an exact value. -/
def val32 (x : BitVec 32) : XV := fmtF32.value x.toNat
/-- Rounds once to FP32 (R9). -/
def round32 (rm : Rm) (x : XV) : BitVec 32 := BitVec.ofNat 32 (roundTo fmtF32 rm x)

/-- floor(|x| / w) × w with the sign of x, as an integer number of w = 2^ew (R75). -/
def truncTerm (ew : Int) (x : XV) : Int :=
  match x with
  | .fin n m e _ =>
    let t : Nat := (m <<< (e - ew).toNat) >>> (ew - e).toNat
    if n then -(t : Int) else t
  | _ => 0

/-- The largest floor(log2 |x|) over the nonzero terms, if there is one. -/
def maxLog : List XV → Option Int → Option Int
  | [], acc => acc
  | .fin _ m e _ :: l, acc =>
    maxLog l (if m = 0 then acc else match acc with
      | none => some (floorLog2 m e)
      | some a => some (max a (floorLog2 m e)))
  | _ :: l, acc => maxLog l acc

/-- `GroupRound` of R75: the FP32 result and whether OVF is set. -/
def groupRound (rm : Rm) (t : List XV) : BitVec 32 × Bool :=
  if t.any XV.isNan then (nan32, false)
  else
    let pos := t.any (fun x => x.isInf && !x.sign)
    let neg := t.any (fun x => x.isInf && x.sign)
    if pos && neg then (nan32, false)
    else if pos then (max32, true)
    else if neg then (max32 ||| 0x80000000#32, true)
    else match maxLog t none with
      | none => (0#32, false)
      | some emax =>
        let ew := emax - 52
        let s := (t.map (truncTerm ew)).foldl (· + ·) 0
        if s = 0 then (0#32, false)
        else
          let c := fpRound 8 23 127 .ieee rm true (decide (s < 0)) s.natAbs ew false
          (BitVec.ofNat 32 c.bits, c.cvovf)

/-- The scale byte of R73 from the largest magnitude of a block. -/
def scaleByte (amax : XV) (emax : Int) : Nat :=
  match amax with
  | .nan => 255
  | .inf _ => 255
  | .fin _ m e _ => if m = 0 then 127 else (satInt (floorLog2 m e - emax + 127) 0 254).toNat

/-- emax of R73 by format code. -/
def fmtEmax (c : BitVec 4) : Int :=
  match c.toNat with
  | 8 => 8
  | 9 => 15
  | 7 => 4
  | 6 => 2
  | 5 => 2
  | _ => 0

/-- The largest magnitude of a list: NaN if one is NaN, else an infinity if one is there (R73, R159). -/
def amaxXV : List XV → XV → XV
  | [], acc => acc
  | x :: l, acc =>
    amaxXV l (if acc.isNan || x.isNan then .nan else if ltXV acc x.abs then x.abs else acc)

/-- One entry of an algebra table: none for zero, else the sign and the target component (R78). -/
def algEntry (t : BitVec 128) (i l : Nat) : Option (Bool × Nat) :=
  let e := (t.toNat / 2 ^ (16 * i + 4 * l)) % 16
  if e / 4 = 1 then some (false, e % 4) else if e / 4 = 3 then some (true, e % 4) else none

/-- The dimension d of an algebra table (R78). -/
def algDim (t : BitVec 128) : Nat :=
  match (t.toNat / 2 ^ 68) % 4 with
  | 0 => 1
  | 1 => 2
  | _ => 4

/-- CONJ bit c (R78). -/
def algConj (t : BitVec 128) (c : Nat) : Bool := t.getLsbD (64 + c)

/-- Legality of one entry for dimension d (R79). -/
def algEntryLegal (t : BitVec 128) (d i l : Nat) : Bool :=
  let e := (t.toNat / 2 ^ (16 * i + 4 * l)) % 16
  if e = 0 then true
  else (e / 4 == 1 || e / 4 == 3) && decide (e % 4 < d) && decide (i < d) && decide (l < d)

/-- Legality of an algebra descriptor (R79). -/
def algLegal (t : BitVec 128) : Bool :=
  let d := algDim t
  decide ((t.toNat / 2 ^ 68) % 4 < 3)
  && (List.range 4).all (fun i => (List.range 4).all (fun l => algEntryLegal t d i l))
  && (List.range 4).all (fun c => decide (c < d) || !(algConj t c))
  && decide (t.toNat / 2 ^ 70 = 0)

/-- The real algebra (R83). -/
def realAlgebra : BitVec 128 := 0x4#128

/-- The exact signed product terms of component t of x ⊗ y (R81). -/
def algTerms (tab : BitVec 128) (t : Nat) (x y : List XV) : List XV :=
  let d := algDim tab
  (List.range d).flatMap fun i => (List.range d).filterMap fun l =>
    match algEntry tab i l with
    | some (sg, tgt) =>
      if tgt = t then
        let p := mulXV (x.getD i (.zero false)) (y.getD l (.zero false))
        some (if sg then p.negate else p)
      else none
    | none => none

end Sys2Proof.Machine
end

