-- ==== Sys2Proof/Machine/Sparse.lean ====
section
/-! DEFINITION. Sparse maps from natural numbers: key and value pairs, in canonical form with strictly rising keys and no
entry equal to what an unlisted key reads as, so that equal maps are equal lists. -/
namespace Sys2Proof.Machine

/-- The value at a key; `d` for an unlisted key. -/
def mget {α : Type} (d : α) : List (Nat × α) → Nat → α
  | [], _ => d
  | (k', v) :: t, k => if k = k' then v else mget d t k

/-- The value at a key of a partial map. -/
def pget {α : Type} : List (Nat × α) → Nat → Option α
  | [], _ => none
  | (k', v) :: t, k => if k = k' then some v else pget t k

/-- Writes a value at a key of a partial map with rising keys. -/
def pset {α : Type} : List (Nat × α) → Nat → α → List (Nat × α)
  | [], k, v => [(k, v)]
  | (k', v') :: t, k, v =>
    if k < k' then (k, v) :: (k', v') :: t
    else if k = k' then (k, v) :: t
    else (k', v') :: pset t k v

/-- Writes a value at a key; writing `d` removes the entry. -/
def mset {α : Type} [DecidableEq α] (d : α) (l : List (Nat × α)) (k : Nat) (v : α) : List (Nat × α) :=
  if v = d then l.filter (fun p => p.1 != k) else pset l k v

/-- The canonical form: strictly rising keys, no value equal to the default. -/
abbrev mwf {α : Type} (d : α) (l : List (Nat × α)) : Prop :=
  l.Pairwise (fun a b => a.1 < b.1) ∧ ∀ p ∈ l, p.2 ≠ d

/-- Removes the keys of a range from a partial map. -/
def pdelRange {α : Type} (l : List (Nat × α)) (k n : Nat) : List (Nat × α) :=
  l.filter (fun p => !(decide (k ≤ p.1 ∧ p.1 < k + n)))

/-- Sets element i of a vector. -/
def vset {α : Type} {n w : Nat} (v : Vector α n) (i : BitVec w) (x : α) : Vector α n := v.setIfInBounds i.toNat x

/-- Element i of a vector, `d` beyond its end. -/
def vget {α : Type} {n w : Nat} (d : α) (v : Vector α n) (i : BitVec w) : α := v[i.toNat]?.getD d

/-- Replaces element i of a list. -/
def lset {α : Type} : List α → Nat → α → List α
  | [], _, _ => []
  | _ :: t, 0, x => x :: t
  | a :: t, i + 1, x => a :: lset t i x

/-- Removes element i of a list. -/
def ldel {α : Type} : List α → Nat → List α
  | [], _ => []
  | _ :: t, 0 => t
  | a :: t, i + 1 => a :: ldel t i

end Sys2Proof.Machine
end

