-- ==== Sys2Proof/Machine/Types.lean ====
section
/-! DEFINITION. The pieces of a context's state: registers, generator, loop engine, eskip window, pending landings,
streams, store gate, matrix unit and faults (01_machine R26 and the chapters it names). -/
namespace Sys2Proof.Machine

/-- The cause codes (R364). -/
inductive Cause where
  | p00 | p01 | p02 | p03 | p04 | p05 | p06 | p07 | p08 | p09 | p10 | p11 | p12
  | t20 | t21 | t22 | t23
  | d40 | d41 | d42 | d43
  | a60 | a61 | a62 | a63
  | e80 | e81 | e82 | e83
deriving DecidableEq, Repr

/-- The cause classes (R8). -/
inductive CauseClass where
  | p | t | d | a | e
deriving DecidableEq, Repr

/-- The 8-bit code of a cause: the class in bits 7:5, as P00 = 0x00, T20 = 0x20 … (R8). -/
def Cause.code : Cause → BitVec 8
  | .p00 => 0x00#8 | .p01 => 0x01#8 | .p02 => 0x02#8 | .p03 => 0x03#8 | .p04 => 0x04#8 | .p05 => 0x05#8
  | .p06 => 0x06#8 | .p07 => 0x07#8 | .p08 => 0x08#8 | .p09 => 0x09#8 | .p10 => 0x10#8 | .p11 => 0x11#8
  | .p12 => 0x12#8
  | .t20 => 0x20#8 | .t21 => 0x21#8 | .t22 => 0x22#8 | .t23 => 0x23#8
  | .d40 => 0x40#8 | .d41 => 0x41#8 | .d42 => 0x42#8 | .d43 => 0x43#8
  | .a60 => 0x60#8 | .a61 => 0x61#8 | .a62 => 0x62#8 | .a63 => 0x63#8
  | .e80 => 0x80#8 | .e81 => 0x81#8 | .e82 => 0x82#8 | .e83 => 0x83#8

/-- The class of a cause (R8, R364). -/
def Cause.cls : Cause → CauseClass
  | .p00 | .p01 | .p02 | .p03 | .p04 | .p05 | .p06 | .p07 | .p08 | .p09 | .p10 | .p11 | .p12 => .p
  | .t20 | .t21 | .t22 | .t23 => .t
  | .d40 | .d41 | .d42 | .d43 => .d
  | .a60 | .a61 | .a62 | .a63 => .a
  | .e80 | .e81 | .e82 | .e83 => .e

/-- A scalar or generator register: value, band and poison mark (R84, R114). -/
structure SReg where
  val : Word
  band : Band
  poison : Bool
deriving DecidableEq, Repr

/-- A predicate register (R114). -/
structure PReg where
  bits : BitVec 256
  band : Band
  poison : Bool
deriving DecidableEq, Repr

/-- A vector register: 256 bytes, one band, four poison marks by 64-byte granule (R142). -/
structure VReg where
  bits : BitVec 2048
  band : Band
  poison : BitVec 4
deriving DecidableEq, Repr

/-- A template register: a canonical group and a band (R84). -/
structure TReg where
  bits : BitVec 512
  band : Band
deriving DecidableEq, Repr

/-- A matrix parameter register (R172). -/
structure MReg where
  val : Word
  band : Band
deriving DecidableEq, Repr

/-- EPROG (R84). -/
structure EProg where
  active : Bool
  count : BitVec 16
  next : BitVec 18
deriving DecidableEq, Repr

/-- A value posted to the generator, with its band (R102). -/
structure FifoEntry where
  val : Word
  band : Band
  /-- The group that posted it issued after the current checkpoint (R109). -/
  fresh : Bool
deriving DecidableEq, Repr

/-- A generator snapshot (R108): registers, templates, GPC, EPROG, ESEQ and the FIFO read position, held as the
number of entries popped since the context bound. -/
structure GenSnap where
  g : Vector SReg 32
  b : Vector TReg 8
  gpc : BitVec 16
  eprog : EProg
  eseq : BitVec 20
  fifoPos : Nat
deriving DecidableEq, Repr

/-- A group in the Runnel or the loop buffer: canonical words, provenance, the band of the template it came from, and
the generator snapshot that a mark group carries (R99, R101, R108, R95). -/
structure RGroup where
  words : BitVec 512
  prov : Word
  band : Band
  snap : Option GenSnap
  /-- The stored form begins with an all-zero word, which the canonical form does not keep (R33, R37). -/
  lead : Bool
deriving DecidableEq, Repr

/-- What the Milliner is doing (R99, R102, R104, R106, R107). -/
inductive GenStat where
  | running
  | pushStall      -- a push waits for Runnel space or for a mark group to leave (R99)
  | waitStall      -- `grecv`, `gwait`, `gwrs`, `gld` or `gst` waits
  | parked (c : Cause)
  | halted
deriving DecidableEq, Repr

/-- The Milliner of a context (R84). `popped` holds the FIFO entries popped since the current snapshot, oldest first. -/
structure Gen where
  g : Vector SReg 32
  b : Vector TReg 8
  gpc : BitVec 16
  eprog : EProg
  eseq : BitVec 20
  fifo : List FifoEntry
  popped : List FifoEntry
  popCount : Nat
  runnel : List RGroup
  snap : GenSnap
  runbp : Word
  stat : GenStat
deriving DecidableEq, Repr

/-- The loop engine (R132). -/
structure Loop where
  bnd : Vector (BitVec 32) 6
  len : BitVec 6
  stg : BitVec 3
  active : Bool
  depth : BitVec 3
  cap : BitVec 6
  pos : BitVec 5
  e : BitVec 48
  i0 : BitVec 48
  nend : BitVec 48
  ntot : BitVec 48
  stopreq : Bool
  idx : Vector (BitVec 32) 6
  buf : List RGroup
  /-- Stage predicates SP1 to SP7 in bits 0 to 6 (R135). -/
  sp : BitVec 7
  /-- Groups still to be removed after an `lgo` with NTOT = 0 (R134). -/
  drop : BitVec 6
  /-- `lbrk` has ended the running nest: no later iteration starts (R137). -/
  brk : Bool
deriving DecidableEq, Repr

/-- An engine op held in the commit buffer (R127): its word, the operand values read at issue, and the group's
provenance and slot. -/
structure EngOp where
  slot : BitVec 3
  word : Word
  prov : Word
  a : SReg
  b : SReg
  c : SReg
  m : Vector MReg 8
  fmt : Word
deriving DecidableEq, Repr

/-- The eskip window (R126 to R128). `committed` says that the predicate landed as 0. -/
structure EWin where
  opened : Bool
  pred : BitVec 4
  hint : Bool
  left : BitVec 5
  count : BitVec 5
  committed : Bool
  resolved : Bool
  entries : List EngOp
  /-- The place in the issue order of the newest write to pA issued before the eskip, and the eskip's provenance and word. -/
  seq : Nat
  prov : Word
  word : Word
deriving DecidableEq, Repr

/-- A vector that the Spout has made ready: its flags of CVT, the fault that its pop raises, and the rounding mode that CVT
used (R247, R248). -/
structure SpoutVec where
  v : VReg
  nan : Bool
  ovf : Bool
  fault : Option (Cause × Word)
  rm : BitVec 2
deriving DecidableEq, Repr

/-- A stream descriptor bound to a register, with its position (R246 to R248). -/
structure Stream where
  bound : Bool
  desc : BitVec 512
  delivered : Nat
  pops : Nat
  /-- The next vector that the Spout has produced. -/
  ready : Option SpoutVec
  /-- The vector of scale bytes that a stream with DEQ popped last from this one (R247). -/
  scales : Option VReg
deriving DecidableEq, Repr

/-- One slot of the softmax state unit and one group's state (R311). -/
structure SmRow where
  m : BitVec 32
  l : BitVec 32
  grp : BitVec 6
  e : BitVec 32
  k : BitVec 16
  new : Bool
  poison : Bool
deriving DecidableEq, Repr

/-- The softmax state unit (R311). -/
structure Softmax where
  rows : Vector SmRow 64
  band : Band
deriving DecidableEq, Repr

/-- The register snapshot of a checkpoint (R355): registers, FMT and KVPOL, the skip counter, the loop engine, the
softmax unit, streams and the eskip window. -/
structure Regs where
  s : Vector SReg 64
  p : Vector PReg 16
  v : Vector VReg 64
  m : Vector MReg 8
  fmt : Word
  kvpol : Word
  skip : BitVec 7
  loop : Loop
  softmax : Softmax
  streams : Vector Stream 8
  win : EWin
deriving DecidableEq, Repr

/-- A register write that a landing performs. A vector write carries the mask of bytes it writes; a special-register
write its number (R44). -/
inductive RegW where
  | s (n : BitVec 6) (r : SReg)
  | p (n : BitVec 4) (r : PReg)
  | v (n : BitVec 6) (r : VReg) (mask : BitVec 256)
  | m (n : BitVec 3) (r : MReg)
  | fmt (rm alg : Option (BitVec 2)) (clrNan clrOvf : Bool)
  | flags (nan ovf : Bool)
  | sr (n : BitVec 4) (v : Word)
  | band (b : Band)
  | stream (q : BitVec 3) (desc : Option (BitVec 512))
deriving DecidableEq, Repr

/-- One contiguous piece of a memory read: `len` bytes at `ea` go to byte `off` of the destination. -/
structure Piece where
  off : Nat
  ea : Word
  len : Nat
deriving DecidableEq, Repr

/-- What a load writes (R235 to R237, R185, R245, R246, R307). -/
inductive LoadDst where
  | s (n : BitVec 6)
  | v (n : BitVec 6) (mask : BitVec 256) (bands : List Band)
  | mregs
  | scale
  | stream (q : BitVec 3)
  | weir (seg : BitVec 4) (tag : Word)
deriving DecidableEq, Repr

/-- A memory read that lands later. -/
structure LoadReq where
  dst : LoadDst
  pieces : List Piece
  strong : Bool
  scope : BitVec 2
  cistern : Bool
  /-- The fault that the encoding and the address decide, raised at the landing beat (R231). -/
  pre : Option (Cause × Word)
deriving DecidableEq, Repr

/-- An atomic (R239): its operands and the gate it passed. -/
structure AmoReq where
  d : BitVec 6
  ea : Word
  b : SReg
  c : SReg
  rel : Bool
  acq : Bool
  scope : BitVec 2
  sz : BitVec 2
  fn : BitVec 4
  pre : Option (Cause × Word)
deriving DecidableEq, Repr

/-- Why a context is frozen (R10, R111, R340 to R350, R189). -/
inductive Frz where
  | none
  /-- At the landing beat of a load or an atomic. -/
  | load
  /-- Before a group, for a leaf. -/
  | translate (ea : Word) (write : Bool)
  /-- Before a group, for another condition of R111. -/
  | group
  /-- Before a group, for an entry of a full copy queue in lenient mode (R272). -/
  | copyFull (ch : Bool)
  /-- Before a group, for a stream vector that the Spout cannot read: a translation fault (R53, R165). -/
  | spout (c : Cause) (ea : Word)
  | fence (ty scope : BitVec 2)
  | tfence (scope : BitVec 2) (since : Nat)
  | twait (tl : BitVec 2) (n : Word) (scope : BitVec 2)
  | bwait (ea : Word) (phase : BitVec 32)
  | sigwait (ea : Word) (d : BitVec 6)
  | mwait (ea : Word) (d : BitVec 6) (b : SReg) (tmo : BitVec 16) (since : Nat)
  | cdrain (ch : Bool) (n : Word)
  | launch (d : BitVec 6)
  | mfreeze
  | mfrozenCmd
deriving DecidableEq, Repr

/-- What a pending landing waits for. `done` holds its result; `spm` and `load` read when they land or when the data
arrives; `amo` performs once; `launch` writes sD once the dispatcher has accepted the command; `wait` is a wait of the context,
which a resumption begins again (R53, R348, R356). -/
inductive PendKind where
  | done (w : List RegW)
  | spm (r : LoadReq) (w : List RegW)
  | load (r : LoadReq)
  | amo (r : AmoReq)
  | launch (d : BitVec 6)
  | wait (f : Frz)
deriving DecidableEq, Repr

/-- The value of one register as an op read it at issue, with band and poison (R356). -/
inductive RegVal where
  | s (r : SReg)
  | p (r : PReg)
  | v (r : VReg)
  | m (r : MReg)
  | w (x : Word)
deriving DecidableEq, Repr

/-- An op whose register result has not landed: the beat at which it lands, what identifies its group, and its result
or request (R53, R356). `seq` orders the ops of a context by issue. -/
structure Pend where
  due : Nat
  seq : Nat
  slot : BitVec 3
  word : Word
  prov : Word
  kind : PendKind
  /-- The fault that the op raises at its landing beat, once known (R231, R324). -/
  fault : Option (Cause × Word)
  /-- The op issued at or before the current checkpoint: it stands in the landing record (R356). -/
  recorded : Bool
  /-- SRC of the landing record: what the op read at issue, its guard first (R356); filled in when its group has issued. -/
  src : List RegVal
deriving DecidableEq, Repr

/-- Why a context spends idle beats (R10). -/
inductive Idle where
  | none | endOp | exitOp (fail : Bool) | quiet
deriving DecidableEq, Repr

/-- A store that waits in the gate, or a released or strong store that has not performed (R232, R233, R255): its bytes by
physical key, the 64-byte lines that take poison, and its place in the issue order. -/
structure StoreEnt where
  seq : Nat
  ea : Word
  data : List (Nat × Byte)
  plines : List Nat
  band : Band
  strong : Bool
  scope : BitVec 2
  cls : BitVec 2
  /-- A `gst`, for whose completion the Milliner's later accesses wait (R86). -/
  gst : Bool
  /-- The virtual address of its 256-byte block, and an ATS invalidation has removed the leaf that it was translated by (R268). -/
  va : Word
  stale : Bool
deriving DecidableEq, Repr

/-- One 256-byte SPM line: bytes, band, form bit and four poison marks (R216). -/
structure SpmLine where
  bits : BitVec 2048
  band : Band
  form : Bool
  poison : BitVec 4
deriving DecidableEq, Repr

/-- An SPM store not yet visible (R53, R216): the beat at which it becomes visible, its line, the bytes by offset in the
line, its band and the quarters written with poisoned data. -/
structure SpmStore where
  due : Nat
  line : Nat
  data : List (Nat × Byte)
  band : Band
  poison : BitVec 4
deriving DecidableEq, Repr

/-- A ring handle (R170). -/
structure Ring where
  count : BitVec 9
  tsz : BitVec 11
  base : BitVec 21
  valid : Bool
  fill : BitVec 9
  tail : BitVec 8
  head : BitVec 8
deriving DecidableEq, Repr

/-- A scale-queue entry: the pair once it has arrived (R201, R245). -/
structure ScalePair where
  ready : Bool
  ea : Byte
  eb : Byte
  band : Band
  poison : Bool
deriving DecidableEq, Repr

/-- A queued matrix command (R180, R182 to R188). -/
inductive MKind where
  | call (flags : BitVec 4) (rout : BitVec 6) (k : BitVec 16)
  | alg (t : BitVec 2)
  | zero
  | drain
  | drainRaw
  | fill
  | tload (row : BitVec 6)
deriving DecidableEq, Repr

/-- A matrix command with what it copied at issue: m0 to m7, the algebra table, the rounding mode, its SPM offset and
its band (R182). -/
structure MCmd where
  fe : FeId
  num : Word
  kind : MKind
  m : Vector MReg 8
  tab : BitVec 128
  /-- FMT.ALG at issue: a `malg` of this table that stands before the command in the queue gives it its table (R186). -/
  ai : BitVec 2
  rm : BitVec 2
  off : Word
  band : Band
  /-- The bands that it copied name two tenants: P06 at its start (R210, R212). -/
  mixed : Bool
  prov : Word
  /-- The op word, for the trap record (R362). -/
  word : Word
deriving DecidableEq, Repr

/-- What a started matrix command does next (R182, R189, R191, R206). -/
inductive MPhase where
  | words      -- executes micro-words
  | drainLoop  -- drains a patch, started by `drain`, `mdrain` or DR
  | finished   -- every write has landed
deriving DecidableEq, Repr

/-- A Trimmer run (R206): the word index, the registers W, Q, S, O and OF, and its length so far. -/
structure TRun where
  pc : BitVec 9
  w : Vector (BitVec 32) 64
  wPoison : Bool
  q : BitVec 32
  s : BitVec 8
  o : Option (BitVec 4 × List Nat)
  steps : Nat
  band : Band
  active : Bool
deriving DecidableEq, Repr

/-- An operand block in a latch (R196): the bit string of each row, and the rows whose lines carry poison. -/
structure Latch where
  rows : List Nat
  poison : List Bool
deriving DecidableEq, Repr

/-- A multicast block that a member has received and not taken (R205): of M or of B, with the sender's tag and routine. -/
structure McBlock where
  isM : Bool
  tag : Byte
  rout : BitVec 6
  block : Latch
  band : Band
deriving DecidableEq, Repr

/-- What a started routine waits for (R171, R201, R205): a ring to hold more than `t` tiles, a scale pair, the other
members at `syncc`, or a multicast of B or M. -/
inductive MWait where
  | none
  | ring (k : BitVec 2) (t : Nat)
  | scale
  | sync
  | mcast (isM : Bool)
deriving DecidableEq, Repr

/-- A started matrix command: its frozen state of 18 words (R190) beside the command, and what the words do not hold. -/
structure MRun where
  cmd : MCmd
  w : Vector Word 18
  phase : MPhase
  trun : TRun
  /-- The result band so far (R210), and the accumulator units written so far. -/
  band : Band
  written : BitVec 16
  pairPoison : Bool
  wait : MWait
  /-- Cycles waited with no member frozen (R205). -/
  waited : Nat
  latA : Option Latch
  latB : Option Latch
  latM : Option Latch
  /-- The routine has gone on from its frozen state: it first pulls its valid latches again (R190). -/
  repull : Bool
  /-- The SPM lines written so far, which take the final result band (R210). -/
  outLines : List Nat
  /-- The fault that ends a command of a frozen context (R189, R212). -/
  fail : Option (Cause × Word)
  /-- A freeze point has been asked for and reached (R189, R191). -/
  frozen : Bool
deriving DecidableEq, Repr

/-- The matrix state that a context owns (R168, R169, R186, R192). The accumulator share is held by word and by row. -/
structure Mat where
  acc : List (Nat × BitVec 32)
  accPoison : List (Nat × Bool)
  accBand : List (Nat × Band)
  units : Nat
  alg : Vector (BitVec 128) 4
  algNew : List (Nat × BitVec 2 × BitVec 128)
  rings : Vector Ring 16
  radv : List (Nat × BitVec 4 × BitVec 9)
  scale : List ScalePair
  ovf : Bool
  tovf : Bool
  tnan : Bool
  frozen : Bool
  run : Option MRun
  /-- An `mdrain` that runs while the context is frozen (R189). -/
  bypass : Option MRun
  mc : List McBlock
  /-- Commands that a save took out of the queue (R191). -/
  saved : List MCmd
  /-- Frozen-state words that `mset.rs` wrote while no routine was held (R184). -/
  rs : List (Nat × MReg)
deriving DecidableEq, Repr

end Sys2Proof.Machine
end

