-- ==== Sys2Proof/Machine/CtxTypes.lean ====
section
/-! DEFINITION. The context and the core as data: copy channels, weir, cipher commands, checkpoint, context, core
(01_machine R26, 10_copy, 11_attention, 13_system). -/
namespace Sys2Proof.Machine

/-- The staging registers of a channel, or what an entry copied of them (R282, R283, R296). -/
structure Staging where
  sbase : Word
  dbase : Word
  chunk : BitVec 32
  cnt : Vector (BitVec 32) 6
  sstr : Vector Word 6
  dstr : Vector Word 6
  rbasin : Word
  rsig : Word
deriving DecidableEq, Repr

/-- A copy command in its queue (R272, R285, R296). `opc` is 1 `cpy`, 4 `cgo`, 8 `ckv`. -/
structure CopyEnt where
  opc : BitVec 8
  num : Word
  add : BitVec 3
  chg : Bool
  sig : Bool
  dir : Bool
  lv : BitVec 3
  st : Staging
  /-- Page addresses found by `ckv`, one for each token (R285). -/
  pages : List Word
  tok : BitVec 21
  prov : Word
  word : Word
  /-- The command's place in the issue order of its context: it observes the accesses before it (R265). -/
  seq : Nat
deriving DecidableEq, Repr

/-- A 256-byte SPM line that a command is writing (R290): the bytes written so far, the one SPM line that they came from, none when
they came from several, and whether every source line carried the form bit. -/
structure LineBuild where
  home : FeId
  line : Nat
  mask : BitVec 256
  src : Option (FeId × Nat)
  form : Bool
deriving DecidableEq, Repr

/-- The spaces of a copy (R276). -/
inductive CSpace where
  | spm | hbm | cistern | pool | host | other
deriving DecidableEq, Repr

/-- A copy channel (R271, R293, R296). -/
structure Chan where
  queue : List CopyEnt
  st : Staging
  lenient : Bool
  /-- `cmode` writes that take effect 1 beat later (R274): beat, mode. -/
  modeNew : List (Nat × Bool)
  parked : Option Cause
  idx : Vector (BitVec 32) 6
  off : BitVec 32
  /-- Every data beat of the head command has landed (R288). -/
  headDone : Bool
  /-- The spaces of the first bytes of the current chunk (R276). -/
  csp : Option (CSpace × CSpace)
  /-- The aligned 8-byte unit of the source in which the last data beat ended, as it was read (R253). -/
  carry : Option (Word × List Byte)
  /-- The SPM lines that the head command has written in part (R290). -/
  built : List LineBuild
deriving DecidableEq, Repr

/-- A timeline: numbers committed, and the highest number below which all are complete (R264). -/
structure Timeline where
  count : Word
  done : Word
deriving DecidableEq, Repr

/-- A weir segment (R304). Entries are held by index; `ep` are their poison marks. -/
structure WeirSeg where
  ents : List (Nat × Word)
  ep : List (Nat × Bool)
  slot : Byte
  blkh : Byte
  valid : Bool
  locked : Bool
  band : Band
deriving DecidableEq, Repr

/-- A cipher command (R377, R381); `since` is the cycle of its commit. -/
structure CipherCmd where
  num : Word
  isSeal : Bool
  src : BitVec 21
  dst : BitVec 21
  n : BitVec 17
  k : BitVec 2
  ctr : Word
  prov : Word
  word : Word
  since : Nat
deriving DecidableEq, Repr

/-- The checkpoint (R355): registers, generator snapshot, landing record, the beat count at which it was taken, and the
provenance and first word of its group. -/
structure Snapshot where
  regs : Regs
  gen : GenSnap
  record : List Pend
  beat : Nat
  prov : Word
  word : Word
  /-- The group holds an `end`, whose wait begins again after a rollback (R131). -/
  endq : Bool
deriving DecidableEq, Repr

/-- A trap record held by its front end (R362, R363), as its eight words. -/
structure TrapRec where
  w : Vector Word 8
deriving DecidableEq, Repr

/-- Pending asynchronous stops (R360): A60 with its software code, A61, A62. `silent` is a stop of R352 that writes no
trap record. -/
structure Stops where
  a60 : Option (BitVec 16)
  a61 : Bool
  a62 : Bool
  silent : Bool
  engine : List (Cause × Word)
deriving DecidableEq, Repr

/-- The states of R22 and R367. -/
inductive Life where
  | unbound | bound | running | stopped | rinsing
deriving DecidableEq, Repr

/-- What the task gives a context (R19, R20, R370, R385). -/
structure Ident where
  task : BitVec 32
  kern : BitVec 32
  bid : BitVec 32
  feid : FeId
  tenant : BitVec 4
  prio : Byte
  chans : BitVec 8
  scidx : Option (BitVec 16)
deriving DecidableEq, Repr

/-- The image port of a front end (R365, R387): IMGBUSY, IMGST, IMGADDR, IMGLEN. -/
structure ImgPort where
  busy : Bool
  st : BitVec 4
  pendSt : BitVec 4
  addr : Word
  len : BitVec 32
  saved : Bool
deriving DecidableEq, Repr

/-- The scratchpad share of a context with what is not yet visible, and its undo log (R213, R216, R234). -/
structure Spm where
  size : Nat
  lines : List (Nat × SpmLine)
  stores : List SpmStore
  undo : List (Nat × SpmLine)
deriving DecidableEq, Repr

/-- A cache maintenance op that has not completed (R243): 0 `cflush`, 1 `cinval`, 2 `cclean`; its scope, the key of its
first byte, its length, and the region's class. -/
structure Maint where
  seq : Nat
  op : BitVec 2
  scope : BitVec 2
  key : Nat
  len : Nat
  cls : BitVec 2
  /-- The virtual address of its range, and an ATS invalidation has removed the leaf that it was translated by (R268). -/
  va : Word
  stale : Bool
deriving DecidableEq, Repr

/-- For each agent the stamp up to which its stores happen before a point (R260); agents are numbered by `agentCtx` and its
companions. -/
abbrev Clock := List (Nat × Nat)

/-- Where a context stands in happens-before (R254, R259, R260): the stores that happen before its next access; what its last
release at each scope covers; what its reads may acquire, by the scope that the acquire needs; and for each 8-byte unit the
newest store that it read strongly, and the newest that it read at all. -/
structure Order where
  now : Clock
  rel : Vector Clock 4
  acq : Vector Clock 4
  seen : List (Nat × Nat)
  met : List (Nat × Nat)
deriving DecidableEq, Repr

/-- Store gate, stores on their way, and cache maintenance outstanding (R232, R233, R243, R255). -/
structure Stq where
  gate : List StoreEnt
  sb : List StoreEnt
  maint : List Maint
deriving DecidableEq, Repr

/-- Engines of a context: matrix state, channels, timelines, weir, cipher commands (R264, R304, R380). -/
structure Engines where
  mat : Mat
  ch : Vector Chan 2
  tl : Vector Timeline 4
  /-- The segments of the context's share, the first `weirSegs` of them (R303, R304). -/
  weir : Vector WeirSeg 16
  weirSegs : Nat
  cipher : List CipherCmd
  cipherRun : Bool
deriving DecidableEq, Repr

/-- A context (R26), with its front end's control registers (R365, R366). -/
structure Ctx where
  life : Life
  ident : Ident
  band : Band
  regs : Regs
  gen : Gen
  spm : Spm
  stq : Stq
  eng : Engines
  pend : List Pend
  beat : Nat
  nextSeq : Nat
  /-- For each predicate the place in the issue order of the newest op that writes it (R124). -/
  predSeq : Vector Nat 16
  chk : Snapshot
  /-- Interlocked scoreboard mode (R359): the entries with a place below this number are replayed. -/
  interlocked : Option Nat
  frz : Frz
  idle : Idle
  stops : Stops
  /-- Trap records that wait for space in the ring, oldest first (R363). -/
  held : List TrapRec
  parkB : Option Cause
  denial : BitVec 9
  keys : Vector (Option (BitVec 256)) 4
  sealcnt : Word
  stallc : Vector Word 2
  prot : Bool
  pages : List (Nat × BitVec 7)
  dbg : Bool
  img : ImgPort
  exiting : Option Bool
  /-- No group has issued since the checkpoint. -/
  clean : Bool
  /-- Translations that were refused and whose accesses have not faulted yet (R227): unit, first address, cause. -/
  deny : List (XUnit × Word × Cause)
  /-- A page request for the T20 that the context is parked at has succeeded, and the context cannot resume yet (R227). -/
  priOk : Bool
  /-- Translations that were asked for and have not been answered (R226): unit and 4 KiB page. -/
  asked : List (XUnit × Nat)
  /-- An entry of the store gate or of the undo log has an uncorrectable error (R217). -/
  eccErr : Bool
  ord : Order
deriving DecidableEq, Repr

/-- A leaf of a translation cache (R227). `va` and `pa` are the first address of the page, `sz` its size code. -/
structure Leaf where
  fe : FeId
  va : Nat
  sz : BitVec 4
  pa : Nat
  band : Band
  w : Bool
  r : Bool
  guard : Bool
  poolk : BitVec 2
  cls : BitVec 2
  space : BitVec 2
deriving DecidableEq, Repr

/-- A core (R13): stores, matrix queue, translation caches and the second cycle of a vector group. -/
structure Core where
  istore : List (Nat × BitVec 32)
  bstore : List (Nat × BitVec 32)
  rtab : List (Nat × BitVec 13)
  tstore : List (Nat × BitVec 32)
  ptab : List (Nat × BitVec 10)
  held : List (Nat × BitVec 32)
  mq : List MCmd
  leaves : List Leaf
  gleaves : List Leaf
  cleaves : List (BitVec 2 × Leaf)
  /-- The front end whose vector group is in its second cycle on a narrow core (R13). -/
  second : Option FeId
  /-- The tenant of the last holder of each SPM bank, and the lines that it left there (R384). -/
  bankTen : List (Nat × BitVec 4)
  left : List (Nat × SpmLine)
  /-- The physical weir segments, for those that stand in no bound context's share (R304, R305). -/
  segs : Vector WeirSeg 16
deriving DecidableEq, Repr

end Sys2Proof.Machine
end

