-- ==== Sys2Proof/Machine/DevTypes.lean ====
section
/-! DEFINITION. The device outside the tile cores as data: clusters, regions, dispatcher, hosts, pool, firmware and
flight trace (12_tasks to 15_platform). -/
namespace Sys2Proof.Machine

/-- A store that has performed, or a line held, in the caches of one cluster (R218, R243, R262): dirty bytes of its
L1s, dirty bytes of its cluster cache, and clean copies, each by physical key, with the poison marks that go with each by line
(R230); and the lines whose L1 tag or state has an uncorrectable error while they hold dirty data (R217). -/
structure Cluster where
  l1d : List Host.Cell
  ccd : List Host.Cell
  copies : List (Nat × Nat)
  l1p : List (Nat × Bool)
  ccp : List (Nat × Bool)
  cpp : List (Nat × Bool)
  badTags : List Nat
  trbase : Word
  trctl : BitVec 6
  trhead : BitVec 32
  trtail : BitVec 32
deriving DecidableEq, Repr

/-- An error in the media of one 64-byte line of a guarded frame (R321, R322): the copies of a header that fail their CRC; a
single (false) or an uncorrectable (true) error in bits 7:2 of payload; the groups with a parity error; and the bytes
written since, with which the error has ended while the other bytes of its groups have lost bits 1:0. -/
structure MediaErr where
  badA : Bool
  badB : Bool
  ecc : Option Bool
  par : Byte
  written : BitVec 64
deriving DecidableEq, Repr

/-- A store that has performed at an aligned 8-byte unit of memory (R252 to R255): the cluster whose caches keep it, for class NC;
its stamp in the order of all performed stores; its agent and scope; what the unit held before it; and what the agent's last
releases covered. -/
structure Version where
  unit : Nat
  place : Option Nat
  stamp : Nat
  agent : Nat
  scope : BitVec 2
  old : Word
  rel : Vector Clock 4
deriving DecidableEq, Repr

/-- A line with an error that a cluster's caches hold as it was delivered (R322, R324), poisoned or not. -/
structure Filled where
  cluster : Nat
  line : Nat
  poison : Bool
deriving DecidableEq, Repr

/-- A region-table entry: its four words (R223). -/
structure Region where
  base : Word
  limit : Word
  attr : Word
  ext : Word
deriving DecidableEq, Repr

/-- A die's fill port (R222) with its progress in granules and its fill hold (R328). -/
structure FillPort where
  src : Word
  dst : Word
  len : Word
  busy : Bool
  done : Bool
  err : Bool
  tag : BitVec 32
  /-- The task and the kernel that the die is held for. -/
  hold : Option (BitVec 32 × BitVec 32)
  /-- Fills of this hold that ended with ERR (R328). -/
  tries : Nat
deriving DecidableEq, Repr

/-- The states of a task (R330). -/
inductive TaskSt where
  | waiting | eligible | running | failed
deriving DecidableEq, Repr

/-- A task (R20, R329, R330, R332). -/
structure Task where
  id : BitVec 32
  st : TaskSt
  argp : Word
  sigc : Word
  deps : Vector Word 4
  kern : BitVec 32
  prio : Byte
  tenant : BitVec 4
  age : Nat
  /-- TIME at which the task became eligible and unbound, or aged last (R23). -/
  since : Nat
  /-- Window × 64 + queue it was accepted from (R422); none for a launched task. -/
  queue : Option Nat
  /-- The queue that the task, or the task that launched it, transitively, came from (R353). -/
  origin : Option Nat
  place : List FeId
  live : List FeId
  images : Bool
  /-- The saved places with their images' addresses (R387, R390). -/
  saved : List (FeId × Word)
  /-- The save-counter indexes of its contexts (R388). -/
  scidx : List (BitVec 16)
  boundAt : Nat
  failExit : Bool
  /-- A stop of the whole gang has been asked for: pre-emption or tear-down (R332, R352, R353). -/
  preempt : Bool
  torn : Bool
  /-- What its binding acquires, and what the exits of its contexts release (R259, R334, R350). -/
  sync : Clock
  left : Clock
deriving DecidableEq, Repr

/-- A command in the launch queue (R349). -/
structure LaunchCmd where
  fe : FeId
  cmd : BitVec 512
  bid : BitVec 32
  tenant : BitVec 4
  prio : Byte
  origin : Option Nat
  /-- What the release of the `launch` covers (R349). -/
  clock : Clock
deriving DecidableEq, Repr

/-- A command-window queue as the dispatcher holds it (R397, R401). -/
structure CwQueue where
  en : Bool
  isOn : Bool
  rbase : BitVec 12
  qszl : BitVec 4
  cons : Word
  nref : BitVec 32
  tdone : Bool
  badcfg : Bool
  bell : Bool
  resetting : Bool
  /-- A teardown or reset has begun and TDONE is 0. -/
  tearing : Bool
  /-- The host has written TEAR = 1, or RST = 1, since the last request was taken. -/
  tearReq : Bool
  rstReq : Bool
deriving DecidableEq, Repr

/-- A store in a park buffer (R423): the front end and the tenant that it is from, and what it brings into the order of memory. -/
structure Parked where
  fe : FeId
  tenant : BitVec 4
  agent : Nat
  rel : Vector Clock 4
  ent : StoreEnt
deriving DecidableEq, Repr

/-- A host-link block (R394, R395) with its bias command's position and what host loss leaves (R422, R423). -/
structure HostLink where
  lup : Bool
  hevbase : Word
  hevctl : BitVec 6
  hevhead : BitVec 32
  hevtail : BitVec 32
  bpage : Word
  bcnt : BitVec 16
  bdir : Bool
  /-- The direction and the page count of the command that runs. -/
  brdir : Bool
  btot : BitVec 16
  bbusy : Bool
  berr : Bool
  bdone : BitVec 16
  bnext : BitVec 40
  /-- The place of the command among those that wait at a page which another one flips; 0 for one that does not wait (R404). -/
  bwait : Nat
  aper : Vector (Word × Word) 16
  lost : Bool
  resyncDue : Bool
  parkBuf : List Parked
deriving DecidableEq, Repr

/-- A host request that waits (R400, R403, R412): an HDM access, the flushing read of a doorbell, or its write (with no bytes). -/
structure HostReq where
  port : Bool
  hpa : Nat
  write : Option (List Byte)
  len : Nat
  poison : Bool
  bell : Option Nat
deriving DecidableEq, Repr

/-- A RESYNC block (R427). -/
structure ResyncBlk where
  addr : Word
  len : BitVec 32
  pdisc : Bool
  busy : Bool
  done : Bool
  short : Bool
  bytes : BitVec 32
deriving DecidableEq, Repr

/-- An entry of the interrupt owner table (R368). -/
structure Owner where
  vec : BitVec 16
  port : Bool
  locb : Bool
  host : Bool
deriving DecidableEq, Repr

/-- A basin update on its way to its home core (R337, R339, R344). -/
inductive BasinUp where
  | arrive
  | expect (n : BitVec 32)
  | charge (n : BitVec 32)
deriving DecidableEq, Repr

/-- A basin update with its home, offset and issuer. -/
structure BasinMsg where
  home : FeId
  off : BitVec 21
  up : BasinUp
  src : FeId
  prov : Word
  word : Word
  /-- The channel of a charge (R293). -/
  ch : Option Bool
deriving DecidableEq, Repr

/-- Firmware banks, boot and activation (R414 to R417). -/
structure Firmware where
  sel : Bool
  run : Bool
  act : Bool
  healthy : Bool
  fback : Bool
  recov : Bool
  att : Vector (BitVec 2) 2
  banks : Vector FwImage 2
  watchdog : Bool
  /-- TIME at which the activation window opened (R417). -/
  actAt : Word
deriving DecidableEq, Repr

/-- An event of the flight trace (R424): the class, the code, the source and the data words. -/
structure TraceEv where
  cls : Byte
  code : Byte
  src : BitVec 16
  w0 : Word
  w1 : Word
deriving DecidableEq, Repr

/-- The flight trace (R424, R425). -/
structure Trace where
  en : Bool
  frozen : Bool
  fcause : Byte
  drops : BitVec 32
  wptr : BitVec 26
  seq : BitVec 32
deriving DecidableEq, Repr

/-- What leaves the device: interrupts, messages and answers. -/
inductive Output where
  | crownTrap (cluster : Nat)
  | toHeadwater (source : BitVec 6) (rec : List Word)
  | msi (port : Bool) (vec : BitVec 16)
  | atsRequest (tenant : BitVec 4) (va : Word)
  | priRequest (tenant : BitVec 4) (va : Word)
  | atsInvalidate (tenant : BitVec 4)
  | hostData (port : Bool) (data : List Byte) (poison : Bool)
  | doorbellValue (port : Bool) (cons : Word)
  | extentAnswer (tag : BitVec 16) (granted : Bool)
  | poolAnswer (addr : Word) (data : List Byte)
  | measurement (blk : BitVec 8) (bank : Bool) (svn : BitVec 32) (data : List Byte)
  | busy (retry : Nat)
  | http503 (retry : Nat)
  | resync (body : List Byte)
  | keyRefused (port : BitVec 3)
deriving DecidableEq, Repr

/-- What the next steps execute: an op word, a Milliner word, a micro-word or a Trimmer word of a front end, the end
of a group, or an event (assumption log 5). -/
inductive Act where
  | op (fe : FeId) (w : BitVec 64)
  | gen (fe : FeId) (w : BitVec 32)
  | micro (fe : FeId) (w : BitVec 32)
  | trim (fe : FeId) (w : BitVec 32)
  | fin (fe : FeId)
  | ev (i : Instr)
deriving DecidableEq, Repr

/-- The group being issued (R35, R357): the context before it, its core's matrix queue, the group, whether it came from
the loop buffer or under a skip, and the faults found so far by slot. -/
structure Issue where
  fe : FeId
  saved : Ctx
  savedMq : List MCmd
  grp : RGroup
  mark : Bool
  skipped : Bool
  capture : Bool
  replay : Bool
  immBand : Band
  faults : List (BitVec 3 × Cause × Word × Word)
  /-- The other context's front end when the two groups issue in one cycle (R113). -/
  pair : Option FeId
  /-- The other context's front end when it was ready and lost, so that it may issue should this group freeze (R111). -/
  rival : Option FeId
  /-- The entry being committed, when the op comes from the commit buffer (R127). -/
  commit : Option EngOp
  /-- The group cannot issue yet: why its context freezes before it (R111). -/
  retry : Option Frz
deriving DecidableEq, Repr

/-- The tables that Headwater keeps (R325, R388, R370, R320, R28, R405, R411). -/
structure Headwater where
  kernels : List (Nat × Vector Word 16)
  savecnt : List (Nat × Word)
  /-- Bindings since device reset (R370). -/
  bid : BitVec 32
  pins : List Nat
  errors : Nat
  heads : BitVec 4
  /-- By port: traffic parked, IDE streams secure (R411, R412). -/
  parked : BitVec 8
  secure : BitVec 8
  uwlog : List (Nat × Word)
  uwovf : Bool
  agent : Vector (BitVec 3) 16
  plan : List Byte
  planNew : Option (List Byte)
  epoch : Nat
deriving DecidableEq, Repr

/-- The dispatcher (R330 to R333, R349). -/
structure Dispatcher where
  pthr : Byte
  hold : Bool
  en : Bool
  tasks : List Task
  nextId : BitVec 32
  turn : BitVec 4
  launchq : List LaunchCmd
  /-- Gangs bound so far. -/
  binds : Nat
  queues : List (Nat × CwQueue)
  windows : Vector Byte 64
deriving DecidableEq, Repr

end Sys2Proof.Machine
end

