-- ==== Sys2Proof/Machine/State.lean ====
section
/-! DEFINITION. The state of the device, the reasons a step can stop, and the state after reset. -/
namespace Sys2Proof.Machine

/-- Reasons to stop the machine. No meaning of this model raises one: every fault that the manual describes is a trap,
taken as a next state (safe). -/
inductive Fault where
  /-- Raised by nothing; kept so that the type is inhabited (safe). -/
  | unreachable
deriving DecidableEq, Repr

/-- Refusals. -/
inductive Refusal where
  /-- Raised only by an arm of `exec` whose instruction has no meaning yet (safe). -/
  | notModelled (mnemonic : String)
deriving DecidableEq, Repr

def zeroSReg : SReg := ⟨0#64, 0#8, false⟩
def zeroPReg : PReg := ⟨0#256, 0#8, false⟩
def zeroVReg : VReg := ⟨0#2048, 0#8, 0#4⟩
def zeroTReg : TReg := ⟨0#512, 0#8⟩
def zeroMReg : MReg := ⟨0#64, 0#8⟩
def zeroSpmLine : SpmLine := ⟨0#2048, 0#8, false, 0#4⟩
def zeroEProg : EProg := ⟨false, 0#16, 0#18⟩
def zeroStream : Stream := ⟨false, 0#512, 0, 0, none, none⟩
def zeroRing : Ring := ⟨0#9, 0#11, 0#21, false, 0#9, 0#8, 0#8⟩

/-- The loop engine after reset (R132). -/
def Loop.reset : Loop :=
  { bnd := Vector.replicate 6 1#32, len := 0#6, stg := 0#3, active := false, depth := 0#3, cap := 0#6, pos := 0#5,
    e := 0#48, i0 := 0#48, nend := 0#48, ntot := 0#48, stopreq := false, idx := Vector.replicate 6 0#32, buf := [],
    sp := 127#7, drop := 0#6, brk := false }

/-- No eskip window (R128). -/
def EWin.reset : EWin := ⟨false, 0#4, false, 0#5, 0#5, false, false, [], 0, 0#64, 0#64⟩

/-- A row slot that is a group of one (R311): M = -∞, L = +0, E = 0, K = 0, NEW = 1. -/
def SmRow.reset (i : Nat) : SmRow := ⟨0xFF800000#32, 0#32, BitVec.ofNat 6 i, 0#32, 0#16, true, false⟩

def Softmax.reset (band : Band) : Softmax := ⟨Vector.ofFn (fun i => SmRow.reset i.val), band⟩

/-- The registers of a context bound with `band` (R114, R142, R67, R323). -/
def Regs.init (band : Band) : Regs :=
  { s := Vector.replicate 64 ⟨0#64, band, false⟩, p := Vector.replicate 16 ⟨0#256, band, false⟩,
    v := Vector.replicate 64 ⟨0#2048, band, 0#4⟩, m := Vector.replicate 8 ⟨0#64, band⟩, fmt := 0#64, kvpol := 0#64,
    skip := 0#7, loop := Loop.reset, softmax := Softmax.reset band, streams := Vector.replicate 8 zeroStream,
    win := EWin.reset }

/-- A generator snapshot with every register zero in `band` (R19, R84). -/
def GenSnap.init (band : Band) (gpc : BitVec 16) : GenSnap :=
  ⟨Vector.replicate 32 ⟨0#64, band, false⟩, Vector.replicate 8 ⟨0#512, band⟩, gpc, zeroEProg, 0#20, 0⟩

def Gen.reset : Gen :=
  { g := Vector.replicate 32 zeroSReg, b := Vector.replicate 8 zeroTReg, gpc := 0#16, eprog := zeroEProg, eseq := 0#20,
    fifo := [], popped := [], popCount := 0, runnel := [], snap := GenSnap.init 0#8 0#16, runbp := 0#64,
    stat := .halted }

def Staging.reset : Staging :=
  ⟨0#64, 0#64, 0#32, Vector.replicate 6 0#32, Vector.replicate 6 0#64, Vector.replicate 6 0#64, 0#64, 0#64⟩
/-- A channel at binding (R271): empty, strict, staging registers 0. -/
def Chan.reset : Chan := ⟨[], Staging.reset, false, [], none, Vector.replicate 6 0#32, 0#32, false, none, none, []⟩
def WeirSeg.init (band : Band) : WeirSeg := ⟨[], [], 0#8, 0#8, false, false, band⟩
/-- The real algebra (R80, R83). -/
def realTable : BitVec 128 := 4#128

def Mat.reset : Mat :=
  { acc := [], accPoison := [], accBand := [], units := 0, alg := Vector.replicate 4 realTable, algNew := [],
    rings := Vector.replicate 16 zeroRing, radv := [], scale := [], ovf := false, tovf := false, tnan := false,
    frozen := false, run := none, bypass := none, mc := [], saved := [], rs := [] }

def Engines.reset : Engines :=
  { mat := Mat.reset, ch := Vector.replicate 2 Chan.reset, tl := Vector.replicate 4 ⟨0#64, 0#64⟩,
    weir := Vector.replicate 16 (WeirSeg.init 0#8), weirSegs := 0, cipher := [], cipherRun := false }

/-- Nothing is ordered before the accesses of a context (R254). -/
def Order.reset : Order := ⟨[], Vector.replicate 4 [], Vector.replicate 4 [], [], []⟩

/-- A front end without a context (R22): everything reads 0 (assumption log 11 for the values no rule gives). -/
def Ctx.reset : Ctx :=
  { life := .unbound, ident := ⟨0#32, 0#32, 0#32, 0#9, 0#4, 0#8, 0#8, none⟩, band := 0#8, regs := Regs.init 0#8,
    gen := Gen.reset, spm := ⟨0, [], [], []⟩, stq := ⟨[], [], []⟩, eng := Engines.reset, pend := [], beat := 0,
    nextSeq := 0, predSeq := Vector.replicate 16 0, chk := ⟨Regs.init 0#8, GenSnap.init 0#8 0#16, [], 0, 0#64, 0#64, false⟩, interlocked := none, frz := .none,
    idle := .none, stops := ⟨none, false, false, false, []⟩, held := [], parkB := none, denial := 0#9,
    keys := Vector.replicate 4 none, sealcnt := 0#64, stallc := Vector.replicate 2 0#64, prot := false, pages := [],
    dbg := false, img := ⟨false, 0#4, 0#4, 0#64, 0#32, false⟩, exiting := none, clean := true, deny := [], priOk := false, asked := [],
    eccErr := false, ord := Order.reset }

/-- A core after reset: empty stores, empty caches. -/
def Core.reset : Core :=
  { istore := [], bstore := [], rtab := [], tstore := [], ptab := [], held := [], mq := [], leaves := [], gleaves := [],
    cleaves := [], second := none, bankTen := [], left := [], segs := Vector.replicate 16 (WeirSeg.init 0#8) }

def Cluster.reset : Cluster := ⟨[], [], [], [], [], [], [], 0#64, 0#6, 0#32, 0#32⟩
def CwQueue.reset : CwQueue := ⟨false, false, 0#12, 0#4, 0#64, 0#32, false, false, false, false, false, false, false⟩

def HostLink.reset : HostLink :=
  { lup := false, hevbase := 0#64, hevctl := 0#6, hevhead := 0#32, hevtail := 0#32,
    bpage := 0#64, bcnt := 0#16, bdir := false, brdir := false, btot := 0#16, bbusy := false, berr := false, bdone := 0#16, bnext := 0#40,
    bwait := 0, aper := Vector.replicate 16 (0#64, 0#64), lost := false, resyncDue := false, parkBuf := [] }

/-- The fabric slot plan at reset (R25): owners 0 to 15 are tenants, 16 management, 17 trace, 18 refresh. -/
def planReset : List Byte := List.replicate 61 0#8 ++ [16#8, 17#8, 18#8]

/-- The whole device (01_machine, and the chapters it names). The fields after `outputs` are the model's own
(assumption log 5). -/
structure State where
  mem : List Host.Cell
  poison : List (Nat × Bool)
  /-- The stores that have performed, newest first, their number, and what the releases that a wait observes cover, by the place
  where it observes them (R254, R259, R260). -/
  hist : List Version
  stamp : Nat
  sync : List (Nat × Clock)
  /-- The errors found in the media of guarded frames, by line, and the lines that clusters hold as delivered. -/
  media : List (Nat × MediaErr)
  filled : List Filled
  ctxs : List (Nat × Ctx)
  cores : List (Nat × Core)
  clusters : List (Nat × Cluster)
  regions : Vector Region 64
  fills : Vector FillPort 4
  refresh : BitVec 16
  /-- Refresh-clock cycles that have passed since the window of a bank ended, until the next bank's begins (R221). -/
  refreshPast : Nat
  time : Word
  cycle : Nat
  throttle : Nat
  disp : Dispatcher
  hw : Headwater
  basins : List BasinMsg
  /-- Basins that an op has named since their home context was bound: home and offset (R338). -/
  basinLive : List (FeId × Nat)
  links : Vector HostLink 3
  /-- The RESYNC blocks of host ports 0 and 1 and of the mailbox, and a Redfish action that waits (R426, R427). -/
  resync : Vector ResyncBlk 4
  bias : List (Nat × BitVec 2)
  heldHost : List HostReq
  owners : Vector Owner 64
  fw : Firmware
  trace : Trace
  inputs : List Instr
  outputs : List Output
  agenda : List Act
  cur : FeId
  issue : Option Issue
  fresh : Nat
deriving DecidableEq, Repr

/-- The device right after reset (assumption log 1, 2, 4 and 11 for the values that no rule gives). -/
def State.reset : State :=
  { mem := [], poison := [], hist := [], stamp := 0, sync := [], media := [], filled := [], ctxs := [], cores := [], clusters := [],
    regions := Vector.replicate 64 ⟨0#64, 0#64, 0#64, 0#64⟩,
    fills := Vector.replicate 4 ⟨0#64, 0#64, 0#64, false, false, false, 0#32, none, 0⟩,
    refresh := 0#16, refreshPast := 0, time := 0#64, cycle := 0, throttle := 0,
    disp := { pthr := 16#8, hold := false, en := false, tasks := [], nextId := 1#32, turn := 0#4, launchq := [], binds := 0,
              queues := [], windows := Vector.replicate 64 0#8 },
    hw := { kernels := [], savecnt := [], bid := 0#32, pins := [], errors := 0, heads := 15#4, parked := 0#8,
            secure := 0#8, uwlog := [], uwovf := false, agent := Vector.replicate 16 2#3, plan := planReset,
            planNew := none, epoch := 0 },
    basins := [], basinLive := [], links := Vector.replicate 3 HostLink.reset,
    resync := Vector.replicate 4 ⟨0#64, 0#32, false, false, false, false, 0#32⟩,
    bias := [], heldHost := [],
    owners := Vector.ofFn (fun i : Fin 64 => ⟨0#16, false, decide (i.val < 10), false⟩),
    fw := { sel := false, run := false, act := false, healthy := false, fback := false, recov := false,
            att := Vector.replicate 2 0#2, banks := Vector.replicate 2 ⟨[], false⟩, watchdog := false,
            actAt := 0#64 },
    trace := ⟨true, false, 0#8, 0#32, 0#26, 0#32⟩,
    inputs := [], outputs := [], agenda := [], cur := 0#9, issue := none, fresh := 0 }

end Sys2Proof.Machine
end

