-- ==== Sys2Proof/Machine/Ops.lean ====
section
/-! DEFINITION. The named operations over contexts, registers and memory, and taking a trap: one shared operation for
each level (13_system R355 to R364, 04_generator R107 to R109). -/
namespace Sys2Proof.Machine

/-- The outcomes of a step of this machine. -/
abbrev Out := Host.Outcome State Fault Refusal

/-! ### Places -/

/-- The core of a front end (R11). -/
def coreOf (fe : FeId) : Nat := fe.toNat / 2
/-- The cluster of a front end, 0 to 31 (R11). -/
def clusterOf (fe : FeId) : Nat := fe.toNat / 16
/-- The die of a front end (R11). -/
def dieOf (fe : FeId) : Nat := fe.toNat / 128
/-- The front ends A and B of a core (R11). -/
def feA (core : CoreId) : FeId := core ++ 0#1
def feB (core : CoreId) : FeId := core ++ 1#1
/-- The other front end of the same core. -/
def otherFe (fe : FeId) : FeId := fe ^^^ 1#9

/-! ### Access to contexts, cores and clusters -/

def State.ctx (s : State) (fe : FeId) : Ctx := mget Ctx.reset s.ctxs fe.toNat
def State.setCtx (s : State) (fe : FeId) (c : Ctx) : State := { s with ctxs := mset Ctx.reset s.ctxs fe.toNat c }
def State.modCtx (s : State) (fe : FeId) (f : Ctx → Ctx) : State := s.setCtx fe (f (s.ctx fe))
def State.core (s : State) (n : Nat) : Core := mget Core.reset s.cores n
def State.setCore (s : State) (n : Nat) (c : Core) : State := { s with cores := mset Core.reset s.cores n c }
def State.cluster (s : State) (n : Nat) : Cluster := mget Cluster.reset s.clusters n
def State.setCluster (s : State) (n : Nat) (c : Cluster) : State := { s with clusters := mset Cluster.reset s.clusters n c }
def State.emit (s : State) (o : Output) : State := { s with outputs := s.outputs ++ [o] }
/-- Counts an event in the Headwater error counters. -/
def State.countError (s : State) : State := { s with hw := { s.hw with errors := s.hw.errors + 1 } }

/-! ### Memory (byte by byte; the key of a byte is its device physical address, or 2^60 + its address on host port 0,
or 2^61 + its address on host port 1) -/

/-- What an unlisted byte of memory reads as (assumption log 1). -/
def memDefault : Byte := 0#8
/-- Memory is in its canonical form. -/
abbrev memWf (m : List Host.Cell) : Prop := mwf memDefault m
def memRead (m : List Host.Cell) (k : Nat) : Byte := mget memDefault m k
def memWrite (m : List Host.Cell) (k : Nat) (b : Byte) : List Host.Cell := mset memDefault m k b
/-- The `n` bytes from a key on, lowest address first. -/
def memReads (m : List Host.Cell) (k : Nat) : Nat → List Byte
  | 0 => []
  | n + 1 => memRead m k :: memReads m (k + 1) n
def memWrites (m : List Host.Cell) (k : Nat) : List Byte → List Host.Cell
  | [] => m
  | b :: t => memWrites (memWrite m k b) (k + 1) t
/-- The little-endian number of a list of bytes (R3). -/
def bytesNat : List Byte → Nat
  | [] => 0
  | b :: t => b.toNat + 256 * bytesNat t
/-- The `n` little-endian bytes of a number (R3). -/
def natBytes (x : Nat) : Nat → List Byte
  | 0 => []
  | n + 1 => BitVec.ofNat 8 x :: natBytes (x / 256) n
/-- Reads an `n`-byte little-endian number. -/
def memNat (m : List Host.Cell) (k n : Nat) : Nat := bytesNat (memReads m k n)
/-- The poison mark of the 64-byte line of a key (R230). -/
def State.linePoison (s : State) (k : Nat) : Bool := mget false s.poison (k / 64)
def State.setLinePoison (s : State) (k : Nat) (p : Bool) : State := { s with poison := mset false s.poison (k / 64) p }

/-! ### Bands (R373) -/

def bandLevel (b : Band) : Nat := b.toNat % 4
def bandTenant (b : Band) : Nat := b.toNat / 16
/-- Two nonzero tenants that differ. -/
def bandConflict (a b : Band) : Bool :=
  bandTenant a != 0 && bandTenant b != 0 && bandTenant a != bandTenant b
def mkBand (tenant level : Nat) : Band := BitVec.ofNat 8 (16 * tenant + level)
/-- The highest level and the nonzero tenant of two bands. -/
def bandJoin (a b : Band) : Band :=
  mkBand (if bandTenant a = 0 then bandTenant b else bandTenant a) (max (bandLevel a) (bandLevel b))
/-- The join of a list of bands, with whether two of them conflict. -/
def bandJoins : List Band → Band → Bool → Band × Bool
  | [], acc, bad => (acc, bad)
  | b :: l, acc, bad => bandJoins l (bandJoin acc b) (bad || bandConflict acc b)
/-- The band of a result whose sources carry the given bands; none for P06 (R114, R148). -/
def bandOf (l : List Band) : Option Band :=
  match bandJoins l 0#8 false with
  | (b, bad) => if bad then none else some b
/-- May data of band `d` go to a place of band `t` (R229, R373): not to a lower level, not to another tenant. -/
def bandStoreOk (d t : Band) : Bool := decide (bandLevel d ≤ bandLevel t) && !bandConflict d t

/-! ### Register reads -/

/-- sN; s0 reads 0 (R114). -/
def Ctx.rS (c : Ctx) (n : BitVec 6) : SReg := if n = 0#6 then zeroSReg else vget zeroSReg c.regs.s n
/-- pN; p0 reads all ones (R114). -/
def Ctx.rP (c : Ctx) (n : BitVec 4) : PReg := if n = 0#4 then ⟨BitVec.allOnes 256, 0#8, false⟩ else vget zeroPReg c.regs.p n
def Ctx.rV (c : Ctx) (n : BitVec 6) : VReg := vget zeroVReg c.regs.v n
def Ctx.rM (c : Ctx) (n : BitVec 3) : MReg := vget zeroMReg c.regs.m n
/-- gN; g0 reads 0 (R84). -/
def Ctx.rG (c : Ctx) (n : BitVec 5) : SReg := if n = 0#5 then zeroSReg else vget zeroSReg c.gen.g n

/-- A write of sN; a write to s0 is discarded (R114). -/
def Regs.wS (r : Regs) (n : BitVec 6) (x : SReg) : Regs := if n = 0#6 then r else { r with s := vset r.s n x }
/-- A write of pN (a write of p0 never gets here: it is P00). -/
def Regs.wP (r : Regs) (n : BitVec 4) (x : PReg) : Regs := if n = 0#4 then r else { r with p := vset r.p n x }
def Regs.wV (r : Regs) (n : BitVec 6) (x : VReg) : Regs := { r with v := vset r.v n x }

/-- Widens a byte mask to a bit mask of 2,048 bits. -/
def byteMask (m : BitVec 256) : BitVec 2048 :=
  BitVec.ofNat 2048 (((List.range 256).filter (fun i => m.getLsbD i)).foldl (fun a i => a + (255 <<< (8 * i))) 0)
/-- The new value where the mask selects a byte, the old elsewhere (R146). -/
def mergeBytes (mask : BitVec 256) (new old : BitVec 2048) : BitVec 2048 :=
  if mask = BitVec.allOnes 256 then new else (new &&& byteMask mask) ||| (old &&& ~~~(byteMask mask))
/-- The granules (R142) that the mask covers whole. -/
def wholeGranules (mask : BitVec 256) : BitVec 4 :=
  (List.range 4).foldl (fun a g => if mask.extractLsb' (64 * g) 64 = BitVec.allOnes 64 then a ||| (1#4 <<< g) else a) 0#4

/-! ### FMT fields (R67) -/

def fmtRm (f : Word) : BitVec 2 := f.extractLsb' 0 2
def fmtAlg (f : Word) : BitVec 2 := f.extractLsb' 2 2
def fmtSet (f : Word) (rm alg : BitVec 2) (ovf nan : Bool) : Word :=
  (0#46 ++ BitVec.ofBool nan ++ BitVec.ofBool ovf ++ 0#12 ++ alg ++ rm : BitVec 64)
def fmtOvf (f : Word) : Bool := f.getLsbD 16
def fmtNan (f : Word) : Bool := f.getLsbD 17

/-- Performs one register write of a landing (R53). FMT flags that are set and cleared in one beat stay set (R67). -/
def applyRegW (c : Ctx) (w : RegW) : Ctx :=
  let r := c.regs
  match w with
  | .s n x => { c with regs := r.wS n x }
  | .p n x => { c with regs := r.wP n x }
  | .v n x mask =>
    let old := vget zeroVReg r.v n
    let new : VReg := ⟨mergeBytes mask x.bits old.bits, x.band, x.poison ||| (old.poison &&& ~~~(wholeGranules mask))⟩
    { c with regs := r.wV n new }
  | .m n x => { c with regs := { r with m := vset r.m n x } }
  | .fmt rm alg cn co =>
    let f := fmtSet r.fmt (rm.getD (fmtRm r.fmt)) (alg.getD (fmtAlg r.fmt)) (fmtOvf r.fmt && !co) (fmtNan r.fmt && !cn)
    { c with regs := { r with fmt := f } }
  | .flags nan ovf =>
    { c with regs := { r with fmt := fmtSet r.fmt (fmtRm r.fmt) (fmtAlg r.fmt) (fmtOvf r.fmt || ovf) (fmtNan r.fmt || nan) } }
  | .sr n v =>
    if n = 4#4 then { c with regs := { r with kvpol := v &&& 0xFFFFFFFFFFFF0001#64 } }
    else if n = 5#4 then { c with stallc := c.stallc.set 0 v }
    else if n = 6#4 then { c with stallc := c.stallc.set 1 v }
    else c
  | .band b => { c with band := b, prot := c.prot || decide (2 ≤ bandLevel b) }
  | .stream q desc =>
    let st : Stream := match desc with
      | none => zeroStream
      | some d => ⟨true, d, 0, 0, none, none⟩
    { c with regs := { r with streams := vset r.streams q st } }

def applyRegWs (c : Ctx) : List RegW → Ctx
  | [] => c
  | w :: t => applyRegWs (applyRegW c w) t

/-- Does a landing write a flag of FMT (these land after the other writes of their beat, R67). -/
def regWFlag : RegW → Bool
  | .flags _ _ => true
  | .s _ _ | .p _ _ | .v _ _ _ | .m _ _ | .fmt _ _ _ _ | .sr _ _ | .band _ | .stream _ _ => false

/-! ### The flight trace (R424, R425) -/

/-- Writes an event to the trace ring, or counts it in DROPS while the ring is frozen. -/
def State.traceEv (s : State) (e : TraceEv) : State :=
  if !s.trace.en then s
  else if s.trace.frozen then
    { s with trace := { s.trace with drops := if s.trace.drops = BitVec.allOnes 32 then s.trace.drops else s.trace.drops + 1#32 } }
  else
    let a := 0x5F78000000 + 32 * s.trace.wptr.toNat
    let bytes := natBytes s.time.toNat 8 ++ [e.cls, e.code] ++ natBytes e.src.toNat 2 ++ natBytes s.trace.seq.toNat 4
      ++ natBytes e.w0.toNat 8 ++ natBytes e.w1.toNat 8
    { s with mem := memWrites s.mem a bytes,
             trace := { s.trace with wptr := s.trace.wptr + 1#26, seq := s.trace.seq + 1#32 } }

/-! ### Events by owner (R368, R369, R413, R422) -/

/-- The host-link block of a host port. -/
def portLink (s : State) (port : Bool) : HostLink := if port then s.links[1] else s.links[0]
def setPortLink (s : State) (port : Bool) (l : HostLink) : State :=
  { s with links := if port then s.links.set 1 l else s.links.set 0 l }
/-- The key of an address in the memory of a host port. -/
def hostKey (port : Bool) (a : Nat) : Nat := if port then 2 ^ 61 + a else 2 ^ 60 + a

/-- The owner of source n; an entry of a lost host counts as LOC = 1 and HOST = 0 until a RESYNC from it (R422). -/
def ownerOf (s : State) (n : BitVec 6) : Owner :=
  let o := vget ⟨0#16, false, false, false⟩ s.owners n
  let l := portLink s o.port
  if l.lost || l.resyncDue then { o with locb := decide (n.toNat < 10), host := false } else o

/-- The event copy to a host and its MSI (R413). -/
def hostEvent (s : State) (n : BitVec 6) (o : Owner) (rec : List Word) : State :=
  let l := portLink s o.port
  let sz := (l.hevctl.extractLsb' 0 4).toNat
  let room := l.hevctl.getLsbD 4 && decide ((l.hevhead - l.hevtail).toNat < 2 ^ sz)
  let flags : Byte := if o.locb then 1#8 else 2#8
  let body := rec.flatMap (fun (x : Word) => natBytes x.toNat 8)
  let bytes := natBytes n.toNat 2 ++ [flags] ++ List.replicate 5 0#8 ++ natBytes s.time.toNat 8 ++ List.replicate 48 0#8
    ++ body.take 64 ++ List.replicate (64 - body.length) 0#8
  let s := if room then
      setPortLink { s with mem := memWrites s.mem (hostKey o.port (l.hevbase.toNat + 128 * (l.hevhead.toNat % 2 ^ sz))) bytes }
        o.port { l with hevhead := l.hevhead + 1#32 }
    else setPortLink s o.port { l with hevctl := l.hevctl ||| 0x20#6 }
  s.emit (.msi o.port o.vec)

/-- An event of source n with its record: to its core on package, to a host, or counted only (R369). The Crown's own interrupt for
source 0 stands with the trap record. -/
def raiseEvent (s : State) (n : BitVec 6) (rec : List Word) : State :=
  let o := ownerOf s n
  let s := if o.locb && n != 0#6 then s.emit (.toHeadwater n rec) else s
  let s := if o.host then hostEvent s n o rec else s
  if o.locb || o.host then s else s.countError

/-- Freezes the trace with a cause code; a second freezing event changes nothing (R425). -/
def State.traceFreeze (s : State) (e : TraceEv) (code : Byte) : State :=
  if s.trace.frozen then s
  else
    let t := s.traceEv e
    raiseEvent { t with trace := { t.trace with frozen := true, fcause := code } } 7#6 [zext64 code]

/-! ### Trap records (R362, R363) -/

/-- The words of a trap record (R362). -/
def mkRec (s : State) (fe : FeId) (cause : Cause) (lvlG : Bool) (mask : BitVec 8) (eng ch : Bool) (sw prirc : BitVec 16)
    (prov word addr chan idx : Word) : TrapRec :=
  let c := s.ctx fe
  let w0 : Word := prirc ++ sw ++ 0#4 ++ BitVec.ofBool ch ++ BitVec.ofBool eng ++ fe ++ mask ++ BitVec.ofBool lvlG ++ cause.code
  let task : Word := (0#28 ++ c.ident.tenant ++ c.ident.task : BitVec 64)
  ⟨#v[w0, prov, word, addr, chan, idx, task, s.time]⟩

/-- The trap ring of a cluster is enabled: TREN with a legal size (R363). -/
def ringEnabled (cl : Cluster) : Bool :=
  cl.trctl.getLsbD 4 && decide (4 ≤ (cl.trctl.extractLsb' 0 4).toNat ∧ (cl.trctl.extractLsb' 0 4).toNat ≤ 12)
/-- The ring has no space left (R363). -/
def ringFull (cl : Cluster) : Bool :=
  decide ((cl.trhead - cl.trtail).toNat = 2 ^ (cl.trctl.extractLsb' 0 4).toNat)

/-- Writes a trap record to the cluster's ring, advances TRHEAD and raises the Crown's interrupt (R363). -/
def writeRec (s : State) (fe : FeId) (r : TrapRec) : State :=
  let k := clusterOf fe
  let cl := s.cluster k
  let a := cl.trbase.toNat + 64 * (cl.trhead.toNat % 2 ^ (cl.trctl.extractLsb' 0 4).toNat)
  let s := { s with mem := memWrites s.mem a (r.w.toList.flatMap (fun (x : Word) => natBytes x.toNat 8)) }
  raiseEvent ((s.setCluster k { cl with trhead := cl.trhead + 1#32 }).emit (.crownTrap k)) 0#6 r.w.toList

/-- Writes a trap record to the cluster's ring, or has the front end hold it (R363). -/
def putRec (s : State) (fe : FeId) (r : TrapRec) : State :=
  let k := clusterOf fe
  let cl := s.cluster k
  let s := s.traceEv ⟨2#8, (vget 0#64 r.w 0#3).setWidth 8, fe.setWidth 16, vget 0#64 r.w 6#3, vget 0#64 r.w 3#3⟩
  if ringEnabled cl && !ringFull cl && (s.ctx fe).held.isEmpty then writeRec s fe r
  else
    let cl' := if ringEnabled cl then { cl with trctl := cl.trctl ||| 0x20#6 } else cl
    (s.setCluster k cl').modCtx fe (fun c => { c with held := c.held ++ [r] })

/-! ### Rollback (R358, R109, R234) -/

/-- Puts undo-log lines back into the window (R234). -/
def restoreLines (lines : List (Nat × SpmLine)) : List (Nat × SpmLine) → List (Nat × SpmLine)
  | [] => lines
  | (k, l) :: t => restoreLines (mset zeroSpmLine lines k l) t

/-- The Milliner after a level-B rollback (R109): the snapshot's registers and GPC, popped entries back in order, posts
of rolled-back groups removed, the Runnel empty, a pending level-G fault abandoned; RUNBP keeps counting. -/
def Gen.rollback (g : Gen) (sn : GenSnap) : Gen :=
  { g with g := sn.g, b := sn.b, gpc := sn.gpc, eprog := sn.eprog, eseq := sn.eseq,
           fifo := (g.popped ++ g.fifo).filter (fun e => !e.fresh), popped := [], popCount := sn.fifoPos, runnel := [],
           snap := sn, stat := .running }

/-- The engines of a context rest: it stopped for a save, and has not been resumed since, or it is bound and has not run (R191, R295,
R381, R390). -/
def Ctx.resting (c : Ctx) : Bool := c.life == .bound || (c.life == .stopped && (c.img.busy || c.img.saved))

/-- A context that has issued `exit` at its checkpoint goes on exiting after a rollback (R350, R358). -/
def Ctx.exitKept (c : Ctx) : Option Bool := if c.clean then c.exiting else none

/-- The context after a rollback (R358): the checkpoint's registers, the Spout's next vectors forgotten, and the landing
record with what remains of each distance (R356); what executes again makes every check anew (R231). -/
def Ctx.rollback (c : Ctx) : Ctx :=
  let g := c.gen.rollback c.chk.gen
  { c with
    regs := { c.chk.regs with streams := c.chk.regs.streams.map (fun st => { st with ready := none }) }
    gen := if c.exitKept.isSome then { g with stat := .halted } else g
    spm := { c.spm with lines := restoreLines c.spm.lines c.spm.undo.reverse, stores := c.spm.stores.filter (fun st => decide (st.due ≤ c.chk.beat + 1)), undo := [] }
    stq := { c.stq with gate := [] }
    pend := c.chk.record.map (fun p => { p with due := p.due + (c.beat - c.chk.beat) })
    interlocked := none
    deny := c.deny.filter (fun d => match d.1 with
      | .chan _ => true
      | .core | .gen => false)
    eccErr := false
    priOk := false
    frz := .none
    idle := match c.exitKept with
      | some f => .exitOp f
      | none => if c.chk.endq then .endOp else .none
    exiting := c.exitKept
    clean := true }

/-! ### Leaving a front end (R181, R294, R352, R367) -/

/-- Discards what a killed context's engines hold (R181, R294), but for a cipher command that has started, which the Rinse waits for
(R383). -/
def discardEngines (s : State) (fe : FeId) : State :=
  let k := coreOf fe
  let co := s.core k
  let s := s.setCore k { co with mq := co.mq.filter (fun m => m.fe != fe) }
  s.modCtx fe (fun c =>
    { c with eng := { c.eng with mat := { c.eng.mat with run := none, bypass := none, frozen := false, mc := [] },
                                 ch := c.eng.ch.map (fun h => { h with queue := [], parked := none }),
                                 cipher := if c.eng.cipherRun then c.eng.cipher.take 1 else [] },
             regs := { c.regs with win := EWin.reset } })

/-- The first physical bank of a window of a front end: A's windows start at bank 0, B's end at bank 15 (assumption
log 22). -/
def bankBase (fe : FeId) (size : Nat) : Nat := if fe.getLsbD 0 then 16 - size / 131072 else 0

/-- What a departing context leaves in its SPM banks: its lines, or nothing after a Rinse (R382, R384). -/
def Core.leaveBanks (co : Core) (fe : FeId) (c : Ctx) : Core :=
  let b := bankBase fe c.spm.size
  let n := c.spm.size / 131072
  let rest := co.left.filter (fun p => decide (p.1 / 512 < b ∨ b + n ≤ p.1 / 512))
  let mine := if c.life = .rinsing then [] else c.spm.lines
  { co with left := mine.foldl (fun l p => mset zeroSpmLine l (512 * b + p.1) p.2) rest,
            bankTen := (List.range n).foldl (fun l i => mset 0#4 l (b + i) c.ident.tenant) co.bankTen }

/-- The physical segment of segment k of a share of n: A's share stands at the low segments, B's at the high ones (assumption
log 20). -/
def physSeg (fe : FeId) (n k : Nat) : Nat := if fe.getLsbD 0 then 16 - n + k else k
/-- What a departing context leaves in the weir segments of its share: what they hold, or nothing after a Rinse (R304, R382). -/
def Core.leaveSegs (co : Core) (fe : FeId) (c : Ctx) : Core :=
  { co with segs := (List.range c.eng.weirSegs).foldl (fun v k =>
      v.setIfInBounds (physSeg fe c.eng.weirSegs k)
        (if c.life = .rinsing then WeirSeg.init 0#8 else c.eng.weir[k]?.getD (WeirSeg.init 0#8))) co.segs }

/-- The translations of a front end leave its core's caches (R226, R382). -/
def Core.purge (co : Core) (fe : FeId) : Core :=
  { co with leaves := co.leaves.filter (fun l => l.fe != fe), gleaves := co.gleaves.filter (fun l => l.fe != fe),
            cleaves := co.cleaves.filter (fun p => p.2.fe != fe) }

/-- The front end becomes unbound. The image port and a held trap record stay (R363, R365), and so do stores that the gate
has released and maintenance, which go on (R233, R243). Its basins are gone with its window (R337). -/
def unbindCtx (s : State) (fe : FeId) : State :=
  let c := s.ctx fe
  let k := coreOf fe
  let s := { s with basinLive := s.basinLive.filter (fun b => b.1 != fe) }
  (s.setCore k ((((s.core k).leaveBanks fe c).leaveSegs fe c).purge fe)).setCtx fe
    { Ctx.reset with img := c.img, dbg := c.dbg, held := c.held, nextSeq := c.nextSeq, stq := { c.stq with gate := [] } }

/-- Leaves the front end, through the Rinse if the context is protected or its task is torn down, else at once (R22, R353,
R375, R383). -/
def departCtx (s : State) (fe : FeId) : State :=
  let c := s.ctx fe
  let torn := s.disp.tasks.any (fun t => t.id == c.ident.task && t.torn)
  let s := { s with disp := { s.disp with tasks := s.disp.tasks.map (fun t =>
    if t.id = c.ident.task then { t with live := t.live.filter (· != fe) } else t) } }
  if c.prot || torn then s.modCtx fe (fun c => { c with life := .rinsing, stq := { c.stq with gate := [] }, pend := [] })
  else unbindCtx s fe

/-- Asks every other context of a failed task to stop; such a stop writes no trap record (R352). -/
def stopOthers (s : State) (fe : FeId) (task : BitVec 32) : State :=
  { s with ctxs := s.ctxs.map (fun p =>
      if p.1 ≠ fe.toNat ∧ p.2.ident.task = task ∧ (p.2.life = .running ∨ p.2.life = .stopped ∨ p.2.life = .bound)
      then (p.1, { p.2 with stops := { p.2.stops with silent := true } }) else p) }

/-- Kills a context: its commands are discarded, its task fails, it leaves its front end (R352, R367). -/
def killCtx (s : State) (fe : FeId) : State :=
  let c := s.ctx fe
  let s := discardEngines s fe
  let s := { s with disp := { s.disp with tasks := s.disp.tasks.map (fun t =>
    if t.id = c.ident.task then { t with st := .failed } else t) } }
  departCtx (stopOthers s fe c.ident.task) fe

/-! ### Taking a trap -/

/-- The outcome of a cause by its class for the back end of a context (R364): class P kills, T and D stop the context
at its checkpoint; the others stop it as well. -/
def classOutcome (s : State) (fe : FeId) (cause : Cause) : State :=
  match cause.cls with
  | .p => killCtx s fe
  | .t | .d | .a | .e => s.modCtx fe (fun c => { c with life := .stopped, parkB := some cause })

/-- The translation agent of a tenant is a host that is lost, without Headwater in its place (R420, R422). -/
def agentLost (s : State) (tenant : BitVec 4) : Bool :=
  let a := vget 2#3 s.hw.agent tenant
  let gone (l : HostLink) : Bool := l.lost
  !a.getLsbD 2 && ((a.extractLsb' 0 2 == 0#2 && gone s.links[0]) || (a.extractLsb' 0 2 == 1#2 && gone s.links[1]))
/-- The PRI response code that a trap record carries from the start: 0xFFFF for a T20 without an agent (R422). -/
def priFail (s : State) (fe : FeId) (cause : Cause) : BitVec 16 :=
  if cause = .t20 ∧ agentLost s (s.ctx fe).ident.tenant then 0xFFFF#16 else 0#16
/-- T20 sends a PRI page request (R227). -/
def pageRequest (s : State) (fe : FeId) (cause : Cause) (addr : Word) : State :=
  let t := (s.ctx fe).ident.tenant
  if cause = .t20 ∧ !agentLost s t then s.emit (.priRequest t addr) else s

/-- A level-B fault (R357, R358): rollback, record, outcome by class. -/
def trapB (s : State) (fe : FeId) (cause : Cause) (mask : BitVec 8) (prov word addr : Word) : State :=
  let s := s.modCtx fe Ctx.rollback
  let s := putRec s fe (mkRec s fe cause false mask false false 0#16 (priFail s fe cause) prov word addr 0#64 0#64)
  classOutcome (pageRequest s fe cause addr) fe cause

/-- EPROG as a word (R84). -/
def EProg.word (e : EProg) : Word := (0#29 ++ BitVec.ofBool e.active ++ e.count ++ e.next : BitVec 64)

/-- A level-G fault (R107): the Milliner stops at the instruction, whose word index the record carries; class P kills
the context, the others park the Milliner. `word` is the illegal word of a P00, else EPROG. -/
def trapG (s : State) (fe : FeId) (cause : Cause) (sw : BitVec 16) (word addr : Word) : State :=
  let c := s.ctx fe
  let w := if cause = .p00 then word else c.gen.eprog.word
  let s := putRec s fe (mkRec s fe cause true 0#8 false false sw (priFail s fe cause) (c.gen.gpc.setWidth 64) w addr 0#64 0#64)
  let s := pageRequest s fe cause addr
  match cause.cls with
  | .p => killCtx s fe
  | .t | .d | .a | .e => s.modCtx fe (fun c => { c with gen := { c.gen with stat := .parked cause } })

/-- A class P fault of an engine command or a channel (R193, R293, R337): a record with ENG set, and the kill, without
a rollback. `word` and `addr` log the illegal word of a P00 and its place. -/
def trapEngine (s : State) (fe : FeId) (cause : Cause) (isCh ch : Bool) (prov word addr chan idx : Word) : State :=
  let s := putRec s fe (mkRec s fe cause false 0#8 true (isCh && ch) 0#16 0#16 prov word addr chan idx)
  killCtx s fe

/-- An asynchronous stop's record (R360, R362), with the provenance and first word of the checkpoint's group. -/
def trapAsync (s : State) (fe : FeId) (cause : Cause) (eng : Bool) (sw : BitVec 16) : State :=
  let c := s.ctx fe
  putRec s fe (mkRec s fe cause false 0#8 eng false sw 0#16 c.chk.prov c.chk.word 0#64 0#64 0#64)

/-! ### Results of the ops of a group -/

/-- The op word that slot k of the issuing group holds, and the group's provenance. -/
def State.opWord (s : State) (slot : BitVec 3) : Word :=
  match s.issue with
  | some i => i.grp.words.extractLsb' (64 * slot.toNat) 64
  | none => 0#64
def State.opProv (s : State) : Word :=
  match s.issue with
  | some i => i.grp.prov
  | none => 0#64

/-- An op of the issuing group faults (R357): the fault is noted, and the group's end raises the lowest slot's cause.
An op that stands in no group raises it at once. -/
def opFault (s : State) (slot : BitVec 3) (cause : Cause) (addr : Word) : State :=
  match s.issue with
  | some i => { s with issue := some { i with faults := i.faults ++ [(slot, cause, addr, s.opWord slot)] } }
  | none => trapB s s.cur cause (1#8 <<< slot.toNat) 0#64 0#64 addr

/-- The band of immediates and of values built from a template (R95, R373). -/
def State.immBand (s : State) : Band :=
  match s.issue with
  | some i => i.immBand
  | none => (s.ctx s.cur).band

/-- The predicates that a pending landing writes. -/
def PendKind.preds : PendKind → List (BitVec 4)
  | .done w => w.filterMap (fun x => match x with
      | .p n _ => some n
      | .s _ _ | .v _ _ _ | .m _ _ | .fmt _ _ _ _ | .flags _ _ | .sr _ _ | .band _ | .stream _ _ => none)
  | .spm _ _ | .load _ | .amo _ | .launch _ | .wait _ => []
/-- Does a pending landing write pA. -/
def Pend.writesPred (p : Pend) (a : BitVec 4) : Bool := p.kind.preds.contains a

/-- Adds a pending landing `lat` beats away (R53). -/
def addPend (s : State) (slot : BitVec 3) (lat : Nat) (k : PendKind) : State :=
  let word := s.opWord slot
  let prov := s.opProv
  s.modCtx s.cur (fun c =>
    { c with pend := c.pend ++ [⟨c.beat + lat, c.nextSeq, slot, word, prov, k, none, false, []⟩], nextSeq := c.nextSeq + 1,
             predSeq := k.preds.foldl (fun v n => vset v n c.nextSeq) c.predSeq })

/-- Lands register writes `lat` beats after issue. -/
def landRegs (s : State) (slot : BitVec 3) (lat : Nat) (w : List RegW) : State := addPend s slot lat (.done w)

/-- The stage predicates that the ops of the issuing group read: all sources of a group are read before any write (R9, R41). -/
def State.stagePreds (s : State) : BitVec 7 :=
  match s.issue with
  | some i => i.saved.regs.loop.sp
  | none => (s.ctx s.cur).regs.loop.sp

/-- Is the op squashed by a skip (R125) or by its stage predicate (R41). -/
def opSquashed (s : State) (h : OpHdr) : Bool :=
  (match s.issue with
   | some i => i.skipped
   | none => false)
  || (h.stage != 0#3 && !(s.stagePreds.getLsbD (h.stage.toNat - 1)))

/-- A nonzero reserved bit is P00 even when the op is squashed or its guard is false (R32, R35, R125). -/
def reservedZero (s : State) (slot : BitVec 3) (ok : Bool) (r : State) : State := if ok then r else opFault s slot .p00 0#64

/-- An op that bit 0 of its guard decides (R42, R115): squashed or with a false guard it has no effect and raises nothing;
`ok` is the range check of its fields (P00); a poisoned guard is D40. -/
def guardedOp (s : State) (slot : BitVec 3) (h : OpHdr) (ok : Bool) (f : State → State) : State :=
  let g := (s.ctx s.cur).rP h.g
  if opSquashed s h || (!g.poison && !g.bits.getLsbD 0) then s
  else if !ok then opFault s slot .p00 0#64
  else if g.poison then opFault s slot .d40 0#64
  else f s

/-- An op whose guard acts lane by lane or byte by byte (R42, R146): squashed it has no effect; then the range check of its
fields, and D40 for a poisoned guard; a false lane is left to `f`. -/
def laneOp (s : State) (slot : BitVec 3) (h : OpHdr) (ok : Bool) (f : State → State) : State :=
  if opSquashed s h then s
  else if !ok then opFault s slot .p00 0#64
  else if ((s.ctx s.cur).rP h.g).poison then opFault s slot .d40 0#64
  else f s

end Sys2Proof.Machine
end

