-- ==== Sys2Proof/Machine/Flags.lean ====
section
/-! DEFINITION. Flag computations: the sticky conversion flags of FMT (R67, R157), the matrix status (R192), and the
integer comparisons that predicates and branches test (R90, R122). -/
namespace Sys2Proof.Machine

/-- Signed comparisons of 64-bit values (R90, R122). -/
def ltS (a b : Word) : Bool := a.slt b
def leS (a b : Word) : Bool := a.sle b
def ltU (a b : Word) : Bool := a.ult b
def leU (a b : Word) : Bool := a.ule b

/-- Do any of the conversions of an op set CVNAN, and does any set CVOVF (R157). -/
def cvFlags (l : List Cv) : Bool × Bool := (l.any (·.cvnan), l.any (·.cvovf))

/-- The register write that sets FMT flags at the landing beat; none when nothing is set (R67). -/
def flagWrites (nan ovf : Bool) : List RegW := if nan || ovf then [.flags nan ovf] else []

/-- Scale-queue entries in use (R192 SQN): the pairs that an outstanding `lsq` has reserved count from its issue on, as R245
appends them; R192 does not say whether a pair that has not arrived counts (assumption log 76). -/
def sqn (m : Mat) : Nat := m.scale.length
/-- An `lsq` of the context is outstanding (R192 SQL). -/
def sql (m : Mat) : Bool := m.scale.any (fun p => !p.ready)

/-- The matrix status word (R192). -/
def mstatWord (s : State) (fe : FeId) : Word :=
  let c := s.ctx fe
  let m := c.eng.mat
  let own := ((s.core (coreOf fe)).mq.filter (fun q => q.fe == fe)).length
  let syw := match m.run with
    | some r => (match r.wait with
      | .sync | .mcast _ => true
      | .none | .ring _ _ | .scale => false)
    | none => false
  let busy := match m.run with
    | some r => r.phase != .finished && (match r.cmd.kind with
      | .call _ _ _ => true
      | .alg _ | .zero | .drain | .drainRaw | .fill | .tload _ => false)
    | none => false
  (0#38 ++ BitVec.ofBool (sql m) ++ BitVec.ofNat 9 (sqn m) ++ 0#6 ++ BitVec.ofBool syw ++ BitVec.ofBool m.tnan
    ++ BitVec.ofBool m.tovf ++ BitVec.ofBool m.ovf ++ BitVec.ofBool m.frozen ++ BitVec.ofBool busy ++ BitVec.ofNat 4 own : BitVec 64)

end Sys2Proof.Machine
end

