-- ==== Sys2Proof/Machine/Scalar.lean ====
section
/-! DEFINITION. The S slot without the loop engine: integer instructions, compares, predicate logic, skips, messages and
special registers (05_scalar R114 to R131). -/
namespace Sys2Proof.Machine

/-- The S slot. -/
def slotS : BitVec 3 := 0#3

/-- A scalar result from sources whose bands are `bs`: P06 when two nonzero tenants meet, else sD lands after `lat`
beats (R114). -/
def landScalar (s : State) (slot : BitVec 3) (lat : Nat) (d : BitVec 6) (v : Word) (bs : List Band) (poison : Bool) : State :=
  match bandOf bs with
  | none => opFault s slot .p06 0#64
  | some b => landRegs s slot lat [.s d ⟨v, b, poison⟩]

/-- A predicate result under the same rule (R114). -/
def landPred (s : State) (slot : BitVec 3) (lat : Nat) (d : BitVec 4) (v : BitVec 256) (bs : List Band) (poison : Bool) : State :=
  match bandOf bs with
  | none => opFault s slot .p06 0#64
  | some b => landRegs s slot lat [.p d ⟨v, b, poison⟩]

/-- sD := f(sA, sB) after `lat` beats (R117). -/
def scalarRR (h : OpHdr) (lat : Nat) (d a b : BitVec 6) (f : Word → Word → Word) (s : State) : State :=
  guardedOp s slotS h true (fun s =>
    let c := s.ctx s.cur
    let x := c.rS a
    let y := c.rS b
    landScalar s slotS lat d (f x.val y.val) [x.band, y.band] (x.poison || y.poison))

/-- sD := f(sA) after 1 beat, with a field check (R117, R119). -/
def scalarR (h : OpHdr) (ok : Bool) (d a : BitVec 6) (f : Word → Word) (s : State) : State :=
  guardedOp s slotS h ok (fun s =>
    let x := (s.ctx s.cur).rS a
    landScalar s slotS 1 d (f x.val) [x.band] x.poison)

/-- sD := f(sA) with an immediate, which takes BAND, and a field check (R121, R95, R373). -/
def scalarI (h : OpHdr) (ok : Bool) (lat : Nat) (d a : BitVec 6) (f : Word → Word) (s : State) : State :=
  guardedOp s slotS h ok (fun s =>
    let x := (s.ctx s.cur).rS a
    landScalar s slotS lat d (f x.val) [x.band, s.immBand] x.poison)

/-- The bits of a predicate that a scalar compare writes: all equal (R122). -/
def allBits (b : Bool) : BitVec 256 := if b then BitVec.allOnes 256 else 0#256

/-- pD := all bits of a condition on sA and sB (R122). -/
def scalarCmp (h : OpHdr) (d : BitVec 4) (a b : BitVec 6) (f : Word → Word → Bool) (s : State) : State :=
  guardedOp s slotS h (d != 0#4) (fun s =>
    let c := s.ctx s.cur
    let x := c.rS a
    let y := c.rS b
    landPred s slotS 1 d (allBits (f x.val y.val)) [x.band, y.band] (x.poison || y.poison))

/-- pD := all bits of a condition on sA and an immediate (R122). -/
def scalarCmpI (h : OpHdr) (d : BitVec 4) (a : BitVec 6) (f : Word → Bool) (s : State) : State :=
  guardedOp s slotS h (d != 0#4) (fun s =>
    let x := (s.ctx s.cur).rS a
    landPred s slotS 1 d (allBits (f x.val)) [x.band, s.immBand] x.poison)

/-- pD := f(pA, pB) bitwise (R123). -/
def predRR (h : OpHdr) (d a b : BitVec 4) (f : BitVec 256 → BitVec 256 → BitVec 256) (s : State) : State :=
  guardedOp s slotS h (d != 0#4) (fun s =>
    let c := s.ctx s.cur
    let x := c.rP a
    let y := c.rP b
    landPred s slotS 1 d (f x.bits y.bits) [x.band, y.band] (x.poison || y.poison))

/-! ### Arithmetic (R117 to R119) -/

def shl64 (a b : Word) : Word := a <<< (b.toNat % 64)
def shr64 (a b : Word) : Word := a >>> (b.toNat % 64)
def sra64 (a b : Word) : Word := a.sshiftRight (b.toNat % 64)
def rot64 (a b : Word) : Word := a.rotateLeft (b.toNat % 64)
def minS (a b : Word) : Word := if a.slt b then a else b
def maxS (a b : Word) : Word := if a.slt b then b else a
def minU (a b : Word) : Word := if a.ult b then a else b
def maxU (a b : Word) : Word := if a.ult b then b else a
/-- Bits 127:64 of the signed product. -/
def mulhS (a b : Word) : Word := ((a.signExtend 128) * (b.signExtend 128)).extractLsb' 64 64
/-- Bits 127:64 of the unsigned product. -/
def mulhU (a b : Word) : Word := ((a.setWidth 128) * (b.setWidth 128)).extractLsb' 64 64
/-- The quotient rounded towards zero, with the fixed results of R118. -/
def divS (a b : Word) : Word := if b = 0#64 then BitVec.allOnes 64 else a.sdiv b
def divU (a b : Word) : Word := if b = 0#64 then BitVec.allOnes 64 else a / b
/-- The remainder with the sign of A, with the fixed results of R118. -/
def remS (a b : Word) : Word := if b = 0#64 then a else a.srem b
def remU (a b : Word) : Word := if b = 0#64 then a else a % b
/-- Leading zeros of the low n bits. -/
def clzGo (a : Word) : Nat → Nat
  | 0 => 0
  | n + 1 => if a.getLsbD n then 0 else 1 + clzGo a n
def clz64 (a : Word) : Word := BitVec.ofNat 64 (clzGo a 64)
/-- Trailing zeros from bit 64 - n on. -/
def ctzGo (a : Word) : Nat → Nat
  | 0 => 0
  | n + 1 => if a.getLsbD (63 - n) then 0 else 1 + ctzGo a n
def ctz64 (a : Word) : Word := BitVec.ofNat 64 (ctzGo a 64)
def popcGo (a : Word) : Nat → Nat
  | 0 => 0
  | n + 1 => (if a.getLsbD n then 1 else 0) + popcGo a n
def popc64 (a : Word) : Word := BitVec.ofNat 64 (popcGo a 64)
/-- The field of `bfx` (R119). -/
def bfx64 (sx : Bool) (pos lenm1 : Nat) (a : Word) : Word :=
  let len := lenm1 + 1
  let f := (a >>> pos) <<< (64 - len)
  if sx then f.sshiftRight (64 - len) else f >>> (64 - len)
/-- B with a field replaced (R119). -/
def bfi64 (pos lenm1 : Nat) (a b : Word) : Word :=
  let len := lenm1 + 1
  let m : Word := (BitVec.allOnes 64 >>> (64 - len)) <<< pos
  (b &&& ~~~m) ||| ((a <<< pos) &&& m)
def lih64 (imm : BitVec 32) (a : Word) : Word := (a <<< 32) ||| imm.setWidth 64

def execAdd (h : OpHdr) (d a b : BitVec 6) (s : State) : Out := .next (scalarRR h 1 d a b (· + ·) s)
def execSub (h : OpHdr) (d a b : BitVec 6) (s : State) : Out := .next (scalarRR h 1 d a b (· - ·) s)
def execAnd (h : OpHdr) (d a b : BitVec 6) (s : State) : Out := .next (scalarRR h 1 d a b (· &&& ·) s)
def execOr (h : OpHdr) (d a b : BitVec 6) (s : State) : Out := .next (scalarRR h 1 d a b (· ||| ·) s)
def execXor (h : OpHdr) (d a b : BitVec 6) (s : State) : Out := .next (scalarRR h 1 d a b (· ^^^ ·) s)
def execAndn (h : OpHdr) (d a b : BitVec 6) (s : State) : Out := .next (scalarRR h 1 d a b (fun x y => x &&& ~~~y) s)
def execShl (h : OpHdr) (d a b : BitVec 6) (s : State) : Out := .next (scalarRR h 1 d a b shl64 s)
def execShr (h : OpHdr) (d a b : BitVec 6) (s : State) : Out := .next (scalarRR h 1 d a b shr64 s)
def execSra (h : OpHdr) (d a b : BitVec 6) (s : State) : Out := .next (scalarRR h 1 d a b sra64 s)
def execRot (h : OpHdr) (d a b : BitVec 6) (s : State) : Out := .next (scalarRR h 1 d a b rot64 s)
def execMin (h : OpHdr) (d a b : BitVec 6) (s : State) : Out := .next (scalarRR h 1 d a b minS s)
def execMax (h : OpHdr) (d a b : BitVec 6) (s : State) : Out := .next (scalarRR h 1 d a b maxS s)
def execMinu (h : OpHdr) (d a b : BitVec 6) (s : State) : Out := .next (scalarRR h 1 d a b minU s)
def execMaxu (h : OpHdr) (d a b : BitVec 6) (s : State) : Out := .next (scalarRR h 1 d a b maxU s)
def execMul (h : OpHdr) (d a b : BitVec 6) (s : State) : Out := .next (scalarRR h 3 d a b (· * ·) s)
def execMulh (h : OpHdr) (d a b : BitVec 6) (s : State) : Out := .next (scalarRR h 3 d a b mulhS s)
def execMulhu (h : OpHdr) (d a b : BitVec 6) (s : State) : Out := .next (scalarRR h 3 d a b mulhU s)
def execDiv (h : OpHdr) (d a b : BitVec 6) (s : State) : Out := .next (scalarRR h 18 d a b divS s)
def execDivu (h : OpHdr) (d a b : BitVec 6) (s : State) : Out := .next (scalarRR h 18 d a b divU s)
def execRem (h : OpHdr) (d a b : BitVec 6) (s : State) : Out := .next (scalarRR h 18 d a b remS s)
def execRemu (h : OpHdr) (d a b : BitVec 6) (s : State) : Out := .next (scalarRR h 18 d a b remU s)
def execClz (h : OpHdr) (d a : BitVec 6) (s : State) : Out := .next (scalarR h true d a clz64 s)
def execCtz (h : OpHdr) (d a : BitVec 6) (s : State) : Out := .next (scalarR h true d a ctz64 s)
def execPopc (h : OpHdr) (d a : BitVec 6) (s : State) : Out := .next (scalarR h true d a popc64 s)

/-- `bfx` (R119): a field that passes bit 63 is P00. -/
def execBfx (h : OpHdr) (d a : BitVec 6) (sx : Bool) (lenm1 pos : BitVec 6) (s : State) : Out :=
  .next (scalarR h (decide (pos.toNat + lenm1.toNat ≤ 63)) d a (bfx64 sx pos.toNat lenm1.toNat) s)

/-- `bfi` (R119). -/
def execBfi (h : OpHdr) (d a b lenm1 pos : BitVec 6) (s : State) : Out :=
  .next (guardedOp s slotS h (decide (pos.toNat + lenm1.toNat ≤ 63)) (fun s =>
    let c := s.ctx s.cur
    let x := c.rS a
    let y := c.rS b
    landScalar s slotS 1 d (bfi64 pos.toNat lenm1.toNat x.val y.val) [x.band, y.band] (x.poison || y.poison)))

/-- `sel` (R120): the predicate is a control point. -/
def execSel (h : OpHdr) (d a b : BitVec 6) (c : BitVec 4) (s : State) : Out :=
  .next (guardedOp s slotS h true (fun s =>
    let cx := s.ctx s.cur
    let x := cx.rS a
    let y := cx.rS b
    let p := cx.rP c
    if p.poison then opFault s slotS .d40 0#64
    else landScalar s slotS 1 d (if p.bits.getLsbD 0 then x.val else y.val) [x.band, y.band, p.band] (x.poison || y.poison)))

def execAddi (h : OpHdr) (d a : BitVec 6) (imm : BitVec 32) (s : State) : Out := .next (scalarI h true 1 d a (· + sext64 imm) s)
def execAndi (h : OpHdr) (d a : BitVec 6) (imm : BitVec 32) (s : State) : Out := .next (scalarI h true 1 d a (· &&& sext64 imm) s)
def execOri (h : OpHdr) (d a : BitVec 6) (imm : BitVec 32) (s : State) : Out := .next (scalarI h true 1 d a (· ||| sext64 imm) s)
def execXori (h : OpHdr) (d a : BitVec 6) (imm : BitVec 32) (s : State) : Out := .next (scalarI h true 1 d a (· ^^^ sext64 imm) s)
def execShli (h : OpHdr) (d a : BitVec 6) (n : BitVec 32) (s : State) : Out :=
  .next (scalarI h (decide (n.toNat ≤ 63)) 1 d a (· <<< n.toNat) s)
def execShri (h : OpHdr) (d a : BitVec 6) (n : BitVec 32) (s : State) : Out :=
  .next (scalarI h (decide (n.toNat ≤ 63)) 1 d a (· >>> n.toNat) s)
def execSrai (h : OpHdr) (d a : BitVec 6) (n : BitVec 32) (s : State) : Out :=
  .next (scalarI h (decide (n.toNat ≤ 63)) 1 d a (fun x => x.sshiftRight n.toNat) s)
/-- `li` reads no register (R121). -/
def execLi (h : OpHdr) (d : BitVec 6) (imm : BitVec 32) (s : State) : Out :=
  .next (guardedOp s slotS h true (fun s => landScalar s slotS 1 d (sext64 imm) [s.immBand] false))
def execLih (h : OpHdr) (d a : BitVec 6) (imm : BitVec 32) (s : State) : Out := .next (scalarI h true 1 d a (lih64 imm) s)
def execMuli (h : OpHdr) (d a : BitVec 6) (imm : BitVec 32) (s : State) : Out := .next (scalarI h true 3 d a (· * sext64 imm) s)

def execCeq (h : OpHdr) (d : BitVec 4) (a b : BitVec 6) (s : State) : Out := .next (scalarCmp h d a b (· == ·) s)
def execCne (h : OpHdr) (d : BitVec 4) (a b : BitVec 6) (s : State) : Out := .next (scalarCmp h d a b (· != ·) s)
def execClt (h : OpHdr) (d : BitVec 4) (a b : BitVec 6) (s : State) : Out := .next (scalarCmp h d a b ltS s)
def execCltu (h : OpHdr) (d : BitVec 4) (a b : BitVec 6) (s : State) : Out := .next (scalarCmp h d a b ltU s)
def execCle (h : OpHdr) (d : BitVec 4) (a b : BitVec 6) (s : State) : Out := .next (scalarCmp h d a b leS s)
def execCleu (h : OpHdr) (d : BitVec 4) (a b : BitVec 6) (s : State) : Out := .next (scalarCmp h d a b leU s)
def execCeqi (h : OpHdr) (d : BitVec 4) (a : BitVec 6) (imm : BitVec 32) (s : State) : Out :=
  .next (scalarCmpI h d a (· == sext64 imm) s)
def execClti (h : OpHdr) (d : BitVec 4) (a : BitVec 6) (imm : BitVec 32) (s : State) : Out :=
  .next (scalarCmpI h d a (fun x => ltS x (sext64 imm)) s)

def execPand (h : OpHdr) (d a b : BitVec 4) (s : State) : Out := .next (predRR h d a b (· &&& ·) s)
def execPor (h : OpHdr) (d a b : BitVec 4) (s : State) : Out := .next (predRR h d a b (· ||| ·) s)
def execPxor (h : OpHdr) (d a b : BitVec 4) (s : State) : Out := .next (predRR h d a b (· ^^^ ·) s)
def execPnot (h : OpHdr) (d a : BitVec 4) (s : State) : Out := .next (predRR h d a a (fun x _ => ~~~x) s)

/-- The bits of `pset` (R123): bit i is set when floor(i / w) < A. -/
def psetBits (w : Nat) (a : Word) : BitVec 256 := BitVec.ofNat 256 (2 ^ (min 256 (a.toNat * w)) - 1)
def execPset (h : OpHdr) (d : BitVec 4) (a : BitVec 6) (t : VTy) (s : State) : Out :=
  .next (guardedOp s slotS h (d != 0#4) (fun s =>
    let x := (s.ctx s.cur).rS a
    landPred s slotS 1 d (psetBits t.bytes x.val) [x.band] x.poison))

/-! ### Skips (R124 to R126) -/

/-- Groups of the body after the one that issues, while a nest runs (R125); none outside a nest. -/
def bodyLeft (c : Ctx) : Option Nat :=
  let l := c.regs.loop
  if l.active then
    some (if l.cap.toNat < l.len.toNat then l.len.toNat - (l.cap.toNat + 1) else l.len.toNat - (l.pos.toNat + 1))
  else none

/-- `skip` (R124): the next n groups are skipped when bit 0 of pA is 1. The group has waited for pA's newest write. -/
def execSkip (h : OpHdr) (a : BitVec 4) (n : BitVec 32) (s : State) : Out :=
  .next (guardedOp s slotS h (decide (1 ≤ n.toNat ∧ n.toNat ≤ 64)) (fun s =>
    let c := s.ctx s.cur
    let p := c.rP a
    if (match bodyLeft c with
        | some k => decide (k < n.toNat)
        | none => false) then opFault s slotS .p01 0#64
    else if p.poison then opFault s slotS .d40 0#64
    else if p.bits.getLsbD 0 then s.modCtx s.cur (fun c => { c with regs := { c.regs with skip := n.setWidth 7 } })
    else s))

/-- The place in the issue order of the newest op that writes pA (R124). -/
def Ctx.predWriter (c : Ctx) (a : BitVec 4) : Nat := vget 0 c.predSeq a
/-- Is the write to pA of the op at place `seq` still to land (R124, R127). -/
def predPending (c : Ctx) (a : BitVec 4) (seq : Nat) : Bool :=
  c.pend.any (fun e => e.seq == seq && e.writesPred a)

/-- `eskip` (R126, R127): opens the window over the next n groups. A poisoned pA that has landed is D40. -/
def execEskip (h : OpHdr) (a : BitVec 4) (hint : Bool) (n : BitVec 5) (s : State) : Out :=
  .next (guardedOp s slotS h (decide (1 ≤ n.toNat ∧ n.toNat ≤ 16)) (fun s =>
    let c := s.ctx s.cur
    if (match bodyLeft c with
        | some k => decide (k < n.toNat)
        | none => false) then opFault s slotS .p01 0#64
    else if (c.rP a).poison && !predPending c a (c.predWriter a) then opFault s slotS .d40 0#64
    else
      let w := s.opWord slotS
      let prov := s.opProv
      s.modCtx s.cur (fun c =>
        { c with regs := { c.regs with win := ⟨true, a, hint, n, 0#5, false, false, [], c.predWriter a, prov, w⟩ } })))

/-! ### Messages, special registers and quiesce (R129 to R131) -/

/-- Entries that count against the 16 of R103: those held, and those popped since the current snapshot (R109). -/
def fifoUse (g : Gen) : Nat := g.fifo.length + g.popped.length

/-- `post` (R102, R129). -/
def execPost (h : OpHdr) (a : BitVec 6) (s : State) : Out :=
  .next (guardedOp s slotS h true (fun s =>
    let c := s.ctx s.cur
    let x := c.rS a
    if x.poison then opFault s slotS .d40 0#64
    else if 16 ≤ fifoUse c.gen then opFault s slotS .p11 0#64
    else s.modCtx s.cur (fun c => { c with gen := { c.gen with fifo := c.gen.fifo ++ [⟨x.val, x.band, true⟩] } })))

/-- REFSCHED (R221). -/
def refWord (s : State) : Word := (BitVec.ofNat 64 (s.refresh.toNat / 2016) <<< 16) ||| s.refresh.setWidth 64
/-- CTXID (R370). -/
def ctxidWord (c : Ctx) : Word := (0#23 ++ c.ident.feid ++ c.ident.bid : BitVec 64)

/-- The special registers by number (R44); none for an unknown number. -/
def readSr (s : State) (fe : FeId) (n : Nat) : Option Word :=
  let c := s.ctx fe
  match n with
  | 0 => some c.regs.fmt
  | 1 => some (ctxidWord c)
  | 2 => some (c.band.setWidth 64)
  | 3 => some (c.ident.prio.setWidth 64)
  | 4 => some c.regs.kvpol
  | 5 => some (vget 0#64 c.stallc 0#1)
  | 6 => some (vget 0#64 c.stallc 1#1)
  | 7 => some c.gen.runbp
  | 8 => some (refWord s)
  | 9 => some s.time
  | _ => none

/-- The register writes of a write to a special register (R44, R67): FMT's flags are cleared by ones. -/
def srWrites (n : Nat) (v : Word) : List RegW :=
  if n = 0 then [.fmt (some (fmtRm v)) (some (fmtAlg v)) (fmtNan v) (fmtOvf v)] else [.sr (BitVec.ofNat 4 n) v]

/-- `rdsr` (R130): the value takes the context's band. -/
def execRdsr (h : OpHdr) (d : BitVec 6) (n : BitVec 32) (s : State) : Out :=
  .next (guardedOp s slotS h (decide (n.toNat ≤ 9)) (fun s =>
    match readSr s s.cur n.toNat with
    | some v => landScalar s slotS 1 d v [(s.ctx s.cur).band] false
    | none => opFault s slotS .p00 0#64))

/-- `wrsr` (R130): 4 beats for FMT, 1 for the others. -/
def execWrsr (h : OpHdr) (a : BitVec 6) (n : BitVec 32) (s : State) : Out :=
  .next (guardedOp s slotS h (srWritable n.toNat) (fun s =>
    let c := s.ctx s.cur
    let x := c.rS a
    if x.poison then opFault s slotS .d40 0#64
    else if bandLevel c.band < bandLevel x.band then opFault s slotS .p06 0#64
    else landRegs s slotS (if n = 0#32 then 4 else 1) (srWrites n.toNat x.val)))

/-- `end` (R131): after its group the context spends idle beats until its results have landed. -/
def execEndq (h : OpHdr) (s : State) : Out :=
  .next (guardedOp s slotS h true (fun s => s.modCtx s.cur (fun c => { c with idle := .endOp })))

/-- `nop` (R37): no effect; every operand field, G among them, is reserved. -/
def execNop (h : OpHdr) (slot : BitVec 3) (s : State) : Out :=
  .next (if h.g = 0#4 then s else opFault s slot .p00 0#64)

end Sys2Proof.Machine
end

