-- ==== Sys2Proof/Machine/LoopEngine.lean ====
section
/-! DEFINITION. The loop engine: its set-up instructions, the start, the break and the indices of a nest, and how the nest
advances from group to group (05_scalar R132 to R140). -/
namespace Sys2Proof.Machine

/-- A loop set-up op: P01 while a nest runs (R133). -/
def loopSetup (h : OpHdr) (ok : Bool) (f : State → State) (s : State) : State :=
  guardedOp s slotS h ok (fun s => if (s.ctx s.cur).regs.loop.active then opFault s slotS .p01 0#64 else f s)

/-- Changes the loop engine of the executing context. -/
def State.modLoop (s : State) (f : Loop → Loop) : State :=
  s.modCtx s.cur (fun c => { c with regs := { c.regs with loop := f c.regs.loop } })

/-- `lset` (R133): BNDk := A[31:0]; A is a control point. -/
def execLset (h : OpHdr) (a : BitVec 6) (k : BitVec 32) (s : State) : Out :=
  .next (loopSetup h (decide (k.toNat ≤ 5)) (fun s =>
    let x := (s.ctx s.cur).rS a
    if x.poison then opFault s slotS .d40 0#64
    else s.modLoop (fun l => { l with bnd := l.bnd.setIfInBounds k.toNat (x.val.setWidth 32) })) s)

/-- `lbody` (R133). -/
def execLbody (h : OpHdr) (n : BitVec 32) (s : State) : Out :=
  .next (loopSetup h (decide (1 ≤ n.toNat ∧ n.toNat ≤ 32)) (fun s => s.modLoop (fun l => { l with len := n.setWidth 6 })) s)

/-- `lstage` (R133). -/
def execLstage (h : OpHdr) (n : BitVec 32) (s : State) : Out :=
  .next (loopSetup h (decide (n.toNat ≤ 7)) (fun s => s.modLoop (fun l => { l with stg := n.setWidth 3 })) s)

/-- The product of the first n bounds (R134). -/
def boundProduct (l : Loop) : Nat → Nat
  | 0 => 1
  | n + 1 => boundProduct l n * (vget 1#32 l.bnd (BitVec.ofNat 3 n)).toNat

/-- S = max(STG, 1) (R135). -/
def Loop.stages (l : Loop) : Nat := max l.stg.toNat 1

/-- The stage predicates of execution E (R135). -/
def Loop.stagePreds (l : Loop) : BitVec 7 :=
  (List.range 7).foldl (fun a k =>
    if k + 1 ≤ l.stages ∧ l.i0.toNat + k ≤ l.e.toNat ∧ l.e.toNat - k < l.nend.toNat then a ||| (1#7 <<< k) else a) 0#7

/-- The mixed-radix digits of x, innermost level first, from level n − 1 down (R135). -/
def loopDigits (l : Loop) (x : Nat) : Nat → Vector (BitVec 32) 6 → Vector (BitVec 32) 6
  | 0, v => v
  | n + 1, v =>
    let b := (vget 1#32 l.bnd (BitVec.ofNat 3 n)).toNat
    loopDigits l (x / b) n (vset v (BitVec.ofNat 3 n) (BitVec.ofNat 32 (x % b)))

/-- Enters execution E: stage predicates and indices (R135). -/
def Loop.enter (l : Loop) : Loop :=
  { l with sp := l.stagePreds, idx := loopDigits l (min l.e.toNat (l.nend.toNat - 1)) l.depth.toNat l.idx }

/-- `lgo` (R134): P01 inside a nest or for NTOT ≥ 2^48; with NTOT = 0 the next LEN groups are dropped. -/
def execLgo (h : OpHdr) (n : BitVec 3) (s : State) : Out :=
  .next (guardedOp s slotS h (decide (1 ≤ n.toNat ∧ n.toNat ≤ 6)) (fun s =>
    let l := (s.ctx s.cur).regs.loop
    let p := boundProduct l n.toNat
    if l.len = 0#6 then opFault s slotS .p00 0#64
    else if l.active || decide (2 ^ 48 ≤ p) then opFault s slotS .p01 0#64
    else if p = 0 then s.modLoop (fun l => { l with drop := l.len, ntot := 0#48 })
    else s.modLoop (fun l =>
      { l with active := true, depth := n, cap := 0#6, pos := 0#5, e := 0#48, i0 := 0#48, nend := BitVec.ofNat 48 p,
               ntot := BitVec.ofNat 48 p, stopreq := false, buf := [], brk := false }.enter)))

/-- `lbrk` (R137): no effect outside a nest. No later iteration starts, also where a pending stop has cut NEND before it
(assumption log 71). -/
def execLbrk (h : OpHdr) (s : State) : Out :=
  .next (guardedOp s slotS h true (fun s => s.modLoop (fun l =>
    if l.active then { l with nend := if l.nend.ult (l.e + 1#48) then l.nend else l.e + 1#48, brk := true } else l)))

/-- `lidx` (R138): the index of the execution in which it issues. -/
def execLidx (h : OpHdr) (d : BitVec 6) (k : BitVec 3) (s : State) : Out :=
  .next (guardedOp s slotS h (decide (k.toNat ≤ 5)) (fun s =>
    let c := s.ctx s.cur
    landScalar s slotS 1 d (zext64 (vget 0#32 c.regs.loop.idx k)) [c.band] false))

/-! ### From group to group (R134, R135, R139) -/

/-- The body is captured: later executions issue from the loop buffer. -/
def Loop.captured (l : Loop) : Bool := l.len == l.cap
/-- The next group comes from the loop buffer (R134). -/
def Loop.replaying (l : Loop) : Bool := l.active && l.captured

/-- The end of an execution (R135, R139): a pending stop cuts NEND; the nest goes on while E − (S − 1) < NEND. With a stop
pending, a nest that has iterations left, and that no `lbrk` has ended, is kept for the resumption (I0 := NEND, NEND := NTOT). -/
def Loop.boundary (l : Loop) (stop : Bool) : Loop :=
  let req := l.stopreq || stop
  let nend := if req && decide (l.e.toNat + 1 < l.nend.toNat) then l.e + 1#48 else l.nend
  let l := { l with nend := nend, stopreq := req, e := l.e + 1#48, pos := 0#5 }
  if l.e.toNat < l.nend.toNat + (l.stages - 1) then l.enter
  else if req && !l.brk && decide (l.nend.toNat < l.ntot.toNat) then
    { l with i0 := l.nend, e := l.nend, nend := l.ntot, stopreq := false }.enter
  else { l with active := false, sp := 127#7, stopreq := false, brk := false }

/-- The nest reaches its quiet point at this boundary: its last execution has ended with a stop pending (R139). -/
def Loop.quietAt (l : Loop) (stop : Bool) : Bool :=
  let req := l.stopreq || stop
  let nend := if req && decide (l.e.toNat + 1 < l.nend.toNat) then l.e.toNat + 1 else l.nend.toNat
  req && !decide (l.e.toNat + 1 < nend + (l.stages - 1))

/-- After a body group has issued: it is captured, or the position advances; the flag says that an execution ended. -/
def Loop.advance (l : Loop) (g : RGroup) : Loop × Bool :=
  if l.captured then
    if l.pos.toNat + 1 = l.len.toNat then (l, true) else ({ l with pos := l.pos + 1#5 }, false)
  else
    let l := { l with buf := l.buf ++ [{ g with snap := none }], cap := l.cap + 1#6 }
    (l, l.captured)

end Sys2Proof.Machine
end

