-- ==== Sys2Proof/Machine/Mem.lean ====
section
/-! DEFINITION. The memory access path: spaces, translation, scratchpad lines, caches, the store gate, and the checks that
loads and stores share (08_memory R213 to R234, 09_ordering R252 to R263). -/
namespace Sys2Proof.Machine

/-! ### Spaces and translation (R213, R220, R226, R227) -/

/-- Is an effective address in the SPM aperture. -/
def isSpm (ea : Word) : Bool := decide (0xFFFFFFFFFFE00000 ≤ ea.toNat)
/-- The SPM offset of an aperture address. -/
def spmOff (ea : Word) : Nat := ea.toNat % 2097152
/-- Bits 63:56 all equal to bit 56. -/
def canonVa (ea : Word) : Bool := ea.extractLsb' 56 8 == 0#8 || ea.extractLsb' 56 8 == 255#8

/-- The spaces that a translated address can reach (R214). -/
inductive Space where
  | hbm | cistern (die : Nat) | pool | host | other
deriving DecidableEq, Repr

/-- The space of a device physical address (R27). -/
def spacePa (pa : Nat) : Space :=
  if pa < 0x6000000000 then .hbm
  else if 0x8000000000 ≤ pa ∧ pa < 0x8080000000 then .cistern ((pa - 0x8000000000) / 0x20000000)
  else if 0x100000000000 ≤ pa ∧ pa < 0x300000000000 then .pool
  else .other

/-- The bytes of a page size code (R227). -/
def pageSize (sz : BitVec 4) : Nat :=
  match sz.toNat with
  | 0 => 4096 | 1 => 8192 | 2 => 16384 | 3 => 32768 | 4 => 65536 | 5 => 131072 | 6 => 262144 | 7 => 524288
  | 8 => 1048576 | 9 => 2097152 | 10 => 4194304 | 11 => 16777216 | 12 => 67108864 | 13 => 268435456
  | 14 => 1073741824 | _ => 17179869184

/-- The key of the first byte of a leaf's page: 2^60 and 2^61 mark the memories of host ports 0 and 1. -/
def Leaf.key0 (l : Leaf) : Nat :=
  if l.space = 1#2 then 2 ^ 60 + l.pa else if l.space = 2#2 then 2 ^ 61 + l.pa else l.pa
/-- The key of an address that a leaf covers. -/
def Leaf.keyOf (l : Leaf) (ea : Word) : Nat := l.key0 + (ea.toNat - l.va)
def Leaf.covers (l : Leaf) (fe : FeId) (ea : Word) : Bool :=
  l.fe == fe && decide (l.va ≤ ea.toNat ∧ ea.toNat < l.va + pageSize l.sz)
/-- The space a leaf reaches at an address. -/
def Leaf.spaceAt (l : Leaf) (ea : Word) : Space := if l.space = 0#2 then spacePa (l.keyOf ea) else .host

/-- An address in page 63 of a guarded frame, which no access may name (R321). -/
def Leaf.page63 (l : Leaf) (ea : Word) : Bool := l.guard && l.keyOf ea / 4096 % 64 == 63
/-- The CRC bytes of a header of a guarded frame: writes to them are ignored, and they read as 0 (R321). -/
def Leaf.crcByte (l : Leaf) (k : Nat) : Bool := l.guard && k / 4096 % 64 == 62 && decide (60 ≤ k % 64)

/-- The leaves that a unit of a front end uses (R226, R277). -/
def unitLeaves (s : State) (fe : FeId) : XUnit → List Leaf
  | .core => (s.core (coreOf fe)).leaves
  | .gen => (s.core (coreOf fe)).gleaves
  | .chan ch => ((s.core (coreOf fe)).cleaves.filter (fun p => p.1 == (BitVec.ofBool (fe.getLsbD 0) ++ BitVec.ofBool ch : BitVec 2))).map (·.2)

/-- The outcome of a translation. -/
inductive Xlat where
  | bad (c : Cause)
  | miss
  | ok (l : Leaf)
deriving DecidableEq, Repr

/-- Translates a device virtual address: T22 where the address has no valid form, the cause of a fill that was refused,
a miss, or a leaf. -/
def translate (s : State) (fe : FeId) (u : XUnit) (ea : Word) : Xlat :=
  if !canonVa ea then .bad .t22
  else
    match (unitLeaves s fe u).find? (fun l => l.covers fe ea) with
    | some l => .ok l
    | none =>
      match (s.ctx fe).deny.find? (fun d => d.1 == u && d.2.1.toNat / 4096 == ea.toNat / 4096) with
      | some d => .bad d.2.2
      | none => .miss

/-- Sends an ATS request for an address, once until it is answered (R226). A refused agent refuses it, and an agent whose host
is lost holds no page (R420, R422). -/
def askLeaf (s : State) (fe : FeId) (u : XUnit) (ea : Word) : State :=
  let c := s.ctx fe
  if c.asked.contains (u, ea.toNat / 4096) || (unitLeaves s fe u).any (fun l => l.covers fe ea) then s
  else if vget 2#3 s.hw.agent c.ident.tenant &&& 3#3 = 3#3 then s.setCtx fe { c with deny := c.deny ++ [(u, ea, .t22)] }
  else if agentLost s c.ident.tenant then s.setCtx fe { c with deny := c.deny ++ [(u, ea, .t20)] }
  else (s.setCtx fe { c with asked := c.asked ++ [(u, ea.toNat / 4096)] }).emit (.atsRequest c.ident.tenant ea)

/-- Forgets the refusals of a unit's fills at an address: the access has taken its fault (R227). -/
def Ctx.clearDeny (c : Ctx) (u : XUnit) (ea : Word) : Ctx :=
  { c with deny := c.deny.filter (fun d => !(d.1 == u && d.2.1.toNat / 4096 == ea.toNat / 4096)) }

/-- Does a class permit a scope (R225). -/
def scopeOk (cls scope : BitVec 2) : Bool :=
  if cls = 0#2 then decide (scope.toNat ≤ 1) else if cls = 1#2 then decide (scope.toNat ≤ 2) else cls == 2#2
/-- The widest scope that a class permits (R91, R259). -/
def widestScope (cls : BitVec 2) : BitVec 2 := if cls = 0#2 then 1#2 else if cls = 1#2 then 2#2 else 3#2

/-! ### Ports, bias and parked traffic (R402 to R405, R409, R412) -/

/-- Is a 4 KiB page of HBM part of a command window (R27, R396). -/
def windowPage (page : Nat) : Bool := decide (0x5FFC000 ≤ page ∧ page < 0x6000000)
/-- The bias of a page: 0 D, 1 H, 2 FDH, 3 FHD; an unlisted page is in D, the pages of the command windows in H (R402). -/
def biasOf (s : State) (page : Nat) : BitVec 2 := if windowPage page then 1#2 else mget 0#2 s.bias page
/-- The live pool heads, in ascending order. -/
def liveHeads (s : State) : List Nat := (List.range 4).filter (fun i => s.hw.heads.getLsbD i)
/-- Every pool head is lost (R409). -/
def poolDead (s : State) : Bool := s.hw.heads == 0#4
/-- A key of the pool window. -/
def poolKey (k : Nat) : Bool := decide (0x100000000000 ≤ k ∧ k < 0x300000000000)
/-- The port that serves a key: a host port, or the pool head of its granule (R405). -/
def keyPort (s : State) (k : Nat) : Option Nat :=
  if 2 ^ 61 ≤ k then some 1
  else if 2 ^ 60 ≤ k then some 0
  else if poolKey k then
    let l := liveHeads s
    (l[(k - 0x100000000000) / 256 % l.length]?).map (· + 2)
  else none
/-- The host port of a key in host memory. -/
def keyHost (k : Nat) : Option Bool := if 2 ^ 61 ≤ k then some true else if 2 ^ 60 ≤ k then some false else none
/-- The bytes that a park buffer holds, and its 64 MiB are full (R423). -/
def parkBytes (l : HostLink) : Nat := l.parkBuf.foldl (fun n e => n + e.ent.data.length) 0
def parkFull (l : HostLink) : Bool := decide (0x4000000 ≤ parkBytes l)
/-- The memory of a host that is lost, or whose park buffer has not been drained or emptied yet (R422, R423). -/
def hostGone (s : State) (k : Nat) : Bool :=
  match keyHost k with
  | some p => (portLink s p).lost || (portLink s p).resyncDue
  | none => false
/-- A store to the key waits: its page is flipping to H, its port's traffic is parked, or its host's park buffer is full
(R403, R412, R423). -/
def stalled (s : State) (k : Nat) : Bool :=
  (match keyPort s k with
   | some p => s.hw.parked.getLsbD p
   | none => decide (k < 0x6000000000) && biasOf s (k / 4096) == 2#2)
  || (match keyHost k with
      | some p => hostGone s k && parkFull (portLink s p)
      | none => false)
/-- A read of the key waits: as a store does, or its host is lost (R422). -/
def stalledRead (s : State) (k : Nat) : Bool := stalled s k || hostGone s k
/-- A line that memory gives as poison: marked so, or in a pool all of whose heads are lost (R230, R409). -/
def readsPoison (s : State) (k : Nat) : Bool := s.linePoison k || (poolKey k && poolDead s)

/-! ### Faults of an access, in the order of R231 -/

/-- A fault with its step in the order of R231. -/
structure AccFault where
  step : Nat
  cause : Cause
  ea : Word
deriving DecidableEq, Repr

/-- The first fault that applies: the least step, and the first of that step. -/
def firstFault : List AccFault → Option AccFault
  | [] => none
  | f :: t =>
    match firstFault t with
    | none => some f
    | some g => if g.step < f.step then some g else some f

/-! ### Scratchpad lines (R216) -/

def spmLine (m : Spm) (k : Nat) : SpmLine := mget zeroSpmLine m.lines k
/-- Byte i of a 256-byte line. -/
def lineByte (b : BitVec 2048) (i : Nat) : Byte := b.extractLsb' (8 * i) 8
/-- A line with byte i replaced. -/
def setLineByte (b : BitVec 2048) (i : Nat) (x : Byte) : BitVec 2048 :=
  (b &&& ~~~((255#2048) <<< (8 * i))) ||| (x.setWidth 2048 <<< (8 * i))
/-- A line with several bytes replaced, in order. -/
def setLineBytes (b : BitVec 2048) : List (Nat × Byte) → BitVec 2048
  | [] => b
  | (i, x) :: t => setLineBytes (setLineByte b i x) t
/-- Do bytes cover a 64-byte line whole. -/
def coversLine (d : List (Nat × Byte)) (line : Nat) : Bool := (List.range 64).all (fun i => d.any (fun p => p.1 == 64 * line + i))
/-- Does a list of byte offsets cover a quarter of the line whole. -/
def coversQuarter (d : List (Nat × Byte)) (q : Nat) : Bool :=
  (List.range 64).all (fun i => d.any (fun p => p.1 == 64 * q + i))
/-- The quarters that satisfy a test, as a mask. -/
def quarterMask (f : Nat → Bool) : BitVec 4 :=
  BitVec.ofBool (f 3) ++ BitVec.ofBool (f 2) ++ BitVec.ofBool (f 1) ++ BitVec.ofBool (f 0)

/-- A line after a store (R216): its bytes, its band, the form bit cleared, its poison marks. A store whose bytes were all
overwritten on their way leaves its band only. -/
def SpmLine.store (l : SpmLine) (d : List (Nat × Byte)) (band : Band) (poison : BitVec 4) : SpmLine :=
  let whole := quarterMask (coversQuarter d)
  { bits := setLineBytes l.bits d,
    band := if whole = 15#4 then band else bandJoin l.band band,
    form := l.form && d.isEmpty,
    poison := (l.poison &&& ~~~whole) ||| poison }

/-- Makes one store visible. -/
def Spm.apply (m : Spm) (st : SpmStore) : Spm :=
  { m with lines := mset zeroSpmLine m.lines st.line ((spmLine m st.line).store st.data st.band st.poison) }
/-- Makes the stores that are due visible, in order (R53). -/
def Spm.settle (m : Spm) (beat : Nat) : Spm :=
  let m' := (m.stores.filter (fun st => decide (st.due ≤ beat))).foldl Spm.apply m
  { m' with stores := m.stores.filter (fun st => !decide (st.due ≤ beat)) }
/-- The line as it stands once every store of the context is visible. -/
def Spm.finalLine (m : Spm) (k : Nat) : SpmLine := spmLine (m.stores.foldl Spm.apply m) k

/-- The window as it stands once every store of its context is visible: what other contexts and basin ops find, whatever release has
covered the stores (R215, R252, R337; assumption log 86). -/
def Spm.shown (m : Spm) : Spm := { m.stores.foldl Spm.apply m with stores := [] }

/-- The part of a store at some offsets of its line, with the poison of the quarters that it still writes. -/
def SpmStore.keep (st : SpmStore) (f : Nat → Bool) : SpmStore :=
  let d := st.data.filter (fun b => f b.1)
  { st with data := d, poison := st.poison &&& quarterMask (fun q => d.any (fun b => b.1 / 64 == q)) }
/-- The part of a store on its way that an engine of its core finds already (R265). -/
def SpmStore.early (st : SpmStore) (bid beat : Nat) : SpmStore := st.keep (fun i => Config.spmEarly bid beat st.due (256 * st.line + i))
/-- The window as the engines of its own context read it: of a store on its way, the old or the new value of each byte (R265). -/
def Ctx.engineSpm (c : Ctx) : Spm :=
  { c.spm with
    lines := (((c.spm.stores.map (·.early c.ident.bid.toNat c.beat)).filter (fun st => !st.data.isEmpty)).foldl Spm.apply c.spm).lines
    stores := [] }

/-- Bytes to store in the scratchpad: offset, byte, poisoned. -/
abbrev SpmBytes := List (Nat × Byte × Bool)
/-- The lines that a list of bytes touches, each once. -/
def linesOf (l : SpmBytes) : List Nat := (l.map (fun p => p.1 / 256)).eraseDups
/-- The store of one line, from a list of bytes. -/
def lineStore (due : Nat) (band : Band) (l : SpmBytes) (k : Nat) : SpmStore :=
  let b := l.filter (fun p => p.1 / 256 == k)
  ⟨due, k, b.map (fun p => (p.1 % 256, p.2.1)), band,
    quarterMask (fun q => b.any (fun p => p.1 % 256 / 64 == q && p.2.2))⟩

/-- The lines that the undo log does not hold yet (R234). -/
def newUndo (m : Spm) (l : SpmBytes) : List Nat := (linesOf l).filter (fun k => !(m.undo.any (fun p => p.1 == k)))

/-- A context's own SPM store (R216, R234): the old lines go to the undo log, and the bytes become visible 3 beats later. -/
def Ctx.spmStore (c : Ctx) (band : Band) (l : SpmBytes) : Ctx :=
  let old := (newUndo c.spm l).map (fun k => (k, c.spm.finalLine k))
  { c with spm := { c.spm with undo := c.spm.undo ++ old,
                               stores := c.spm.stores ++ (linesOf l).map (lineStore (c.beat + 3) band l) } }

/-- Does the store's band meet another tenant on a line that its access covers (R216, R238), counting the stores on their way. -/
def spmTenantBad (c : Ctx) (band : Band) (lines : List Nat) : Bool :=
  lines.any (fun k => bandConflict band (c.spm.finalLine k).band)

/-- The SPM store faults of steps 8 and 11, and P05 of the undo log (R216, R217, R234). -/
def spmStoreFault (c : Ctx) (ea : Word) (band : Band) (lines : List Nat) (l : SpmBytes) : Option AccFault :=
  if spmTenantBad c band lines then some ⟨8, .p06, ea⟩
  else if c.eccErr then some ⟨11, .d41, ea⟩
  else if 128 < c.spm.undo.length + (newUndo c.spm l).length then some ⟨12, .p05, ea⟩
  else none

/-- A store on its way loses the bytes that an engine writes after it (R252). -/
def SpmStore.passed (st : SpmStore) (l : SpmBytes) : SpmStore := st.keep (fun i => !l.any (fun b => b.1 == 256 * st.line + i))
/-- An engine's write into the window (R234): at once, not logged. -/
def Spm.engineWrite (m : Spm) (band : Band) (l : SpmBytes) : Spm :=
  { (linesOf l).foldl (fun m k => m.apply (lineStore 0 band l k)) m with stores := m.stores.map (·.passed l) }

/-! ### What memory holds as an access of a cluster sees it (R218, R243, R262) -/

/-- A byte of class NC as the caches of a cluster hold it: L1 dirty, cluster-cache dirty, a clean copy, else `b`. -/
def cachedByte (cl : Cluster) (b : Byte) (k : Nat) : Byte :=
  match pget cl.l1d k with
  | some b => b
  | none =>
    match pget cl.ccd k with
    | some b => b
    | none =>
      match pget cl.copies (k / 64) with
      | some v => BitVec.ofNat 8 (v / 256 ^ (k % 64))
      | none => b

/-- Is a line of class NC poisoned as the caches of a cluster hold it (R230): the mark that goes with its dirty bytes or with
its clean copy, else memory's. -/
def cachedPoison (cl : Cluster) (line : Nat) (p : Bool) : Bool :=
  match pget cl.l1p line with
  | some b => b
  | none =>
    match pget cl.ccp line with
    | some b => b
    | none => (pget cl.cpp line).getD p

/-! ### Which stores a read may return (R250 to R260) -/

/-- Agents that store: a context has the number of its front end; a copy channel, the I/O die, and what lies outside the device
follow. -/
def agentCtx (fe : FeId) : Nat := fe.toNat
def agentChan (fe : FeId) (ch : Bool) : Nat := 512 + 2 * fe.toNat + ch.toNat
def agentDevice : Nat := 2048
def agentOutside : Nat := 4096
/-- The front end at which an agent of the tile array works. -/
def agentFe (a : Nat) : Option Nat := if a < 512 then some a else if a < 1536 then some ((a - 512) / 2) else none
/-- The instance of a scope that contains one agent contains the other (R250). -/
def sameInstance (scope : BitVec 2) (a b : Nat) : Bool :=
  if scope = 3#2 then true
  else if scope = 2#2 then decide (a < agentOutside ∧ b < agentOutside)
  else
    match agentFe a, agentFe b with
    | some x, some y => if scope = 1#2 then x / 16 == y / 16 else x / 2 == y / 2
    | some _, none | none, _ => false
/-- The narrowest scope whose instance contains both agents. -/
def meetScope (a b : Nat) : BitVec 2 :=
  if sameInstance 0#2 a b then 0#2 else if sameInstance 1#2 a b then 1#2 else if sameInstance 2#2 a b then 2#2 else 3#2

/-- What two clocks cover together. -/
def Clock.join (a b : Clock) : Clock := b.foldl (fun l p => if mget 0 l p.1 < p.2 then pset l p.1 p.2 else l) a
/-- A release at a scope (R259): it covers what happens before it and the context's own stores. -/
def Order.release (o : Order) (scope : BitVec 2) (own stamp : Nat) : Order :=
  { o with rel := vset o.rel scope (Clock.join o.now [(own, stamp)]) }
/-- An acquire at a scope by a fence (R259, R260): of what the earlier reads found behind releases that this scope reaches. -/
def Order.acquire (o : Order) (scope : BitVec 2) : Order :=
  { o with now := (List.range 4).foldl (fun c r => if r ≤ scope.toNat then Clock.join c (vget [] o.acq (BitVec.ofNat 2 r)) else c) o.now }
/-- Takes what a wait observed (R259, R260). -/
def Order.take (o : Order) (c : Clock) : Order := { o with now := Clock.join o.now c }

/-- The releases behind a store that a reader of a scope may acquire by reading it (R251, R260). -/
def Version.carries (v : Version) (me : Nat) (scope : BitVec 2) : Clock :=
  if sameInstance v.scope v.agent me && sameInstance scope me v.agent then
    (List.range 4).foldl (fun c r => if sameInstance (BitVec.ofNat 2 r) v.agent me then Clock.join c (vget [] v.rel (BitVec.ofNat 2 r)) else c) []
  else []
/-- The newest store of each unit, with one more read. -/
def newer (l : List (Nat × Nat)) (v : Version) : List (Nat × Nat) := pset l v.unit (max (mget 0 l v.unit) v.stamp)
/-- A read has returned a store's value: a strong one bounds the later reads of the unit, any one the later strong reads (R254,
condition 4). -/
def Order.reads (o : Order) (me : Nat) (strong : Bool) (scope : BitVec 2) (v : Version) : Order :=
  let r := meetScope v.agent me
  { o with seen := if strong then newer o.seen v else o.seen, met := newer o.met v,
           acq := vset o.acq r (Clock.join (vget [] o.acq r) (v.carries me scope)) }

/-- The stores that have performed at a unit of memory, or of class NC in the caches of a cluster, newest first. -/
def versionsOf (s : State) (place : Option Nat) (unit : Nat) : List Version :=
  s.hist.filter (fun v => v.unit == unit && v.place == place)
/-- A read may return nothing older than this store (R254): it is the context's own, it happens before the read, the context read
it or a newer one, strongly or before this strong read, or a strong read finds it performed at its scope. -/
def Version.bounds (v : Version) (o : Order) (me : Nat) (strong : Option (BitVec 2)) : Bool :=
  v.agent == me || decide (v.stamp ≤ mget 0 o.now v.agent) || decide (v.stamp ≤ mget 0 o.seen v.unit)
  || strong.any (fun scope => decide (v.stamp ≤ mget 0 o.met v.unit) || decide (scope.toNat ≤ v.scope.toNat) && sameInstance v.scope v.agent me)
/-- How many stores to a unit a read passes over: none where the newest bounds it, else a number that the manual leaves open
(R255). -/
def passedOver (s : State) (fe : FeId) (strong : Option (BitVec 2)) (seq : Nat) (place : Option Nat) (unit : Nat) : Nat :=
  let n := ((versionsOf s place unit).takeWhile (fun v => !v.bounds (s.ctx fe).ord (agentCtx fe) strong)).length
  if n = 0 then 0 else Config.age s.cycle fe.toNat seq unit % (n + 1)
/-- The store whose value a read returns, if any has performed there. -/
def versionRead (s : State) (fe : FeId) (strong : Option (BitVec 2)) (seq : Nat) (place : Option Nat) (unit : Nat) : Option Version :=
  (versionsOf s place unit)[passedOver s fe strong seq place unit]?
/-- The older bytes of a unit that a read returns; none for the newest. -/
def olderUnit (s : State) (fe : FeId) (strong : Option (BitVec 2)) (seq : Nat) (place : Option Nat) (unit : Nat) : Option Word :=
  match passedOver s fe strong seq place unit with
  | 0 => none
  | i + 1 => ((versionsOf s place unit)[i]?).map (·.old)

/-- Bytes are about to be stored: each unit keeps what it held (R252). -/
def recordStore (s : State) (agent : Nat) (scope : BitVec 2) (rel : Vector Clock 4) (place : Option Nat) (keys : List Nat) : State :=
  let view (k : Nat) : Byte :=
    match place with
    | some n => cachedByte (s.cluster n) (memRead s.mem k) k
    | none => memRead s.mem k
  let old (u : Nat) : Word := BitVec.ofNat 64 (bytesNat ((List.range 8).map (fun i => view (8 * u + i))))
  { s with stamp := s.stamp + 1,
           hist := ((keys.map (· / 8)).eraseDups).map (fun u => ⟨u, place, s.stamp + 1, agent, scope, old u, rel⟩) ++ s.hist }

/-- The places where waits observe releases (R259): a signal, a basin, the instance of a `fence.full`, a timeline. -/
def syncSignal (key : Nat) : Nat := 8 * key
def syncBasin (home : FeId) (off : Nat) : Nat := 8 * (home.toNat * 2097152 + off) + 1
def syncFence (scope : BitVec 2) (fe : FeId) : Nat :=
  8 * (1024 * scope.toNat + (if scope = 0#2 then fe.toNat / 2 else if scope = 1#2 then fe.toNat / 16 else 0)) + 2
def syncTimeline (fe : FeId) (tl : BitVec 2) : Nat := 8 * (4 * fe.toNat + tl.toNat) + 3
/-- A release that waits can observe at a place (R259). -/
def State.postSync (s : State) (place : Nat) (c : Clock) : State :=
  { s with sync := pset s.sync place (Clock.join ((pget s.sync place).getD []) c) }
/-- A wait of a context observes the releases at a place (R259, R260). -/
def State.takeSync (s : State) (fe : FeId) (place : Nat) : State :=
  s.modCtx fe (fun c => { c with ord := c.ord.take ((pget s.sync place).getD []) })
/-- What a release of a context covers now: what happens before it, and its own stores. -/
def State.clockOf (s : State) (fe : FeId) : Clock := Clock.join (s.ctx fe).ord.now [(agentCtx fe, s.stamp)]

/-! ### Errors in the media of guarded frames, and in a core's own arrays (R217, R321 to R324) -/

/-- The error is still in the media: nothing has written the line since. -/
def MediaErr.stands (e : MediaErr) : Bool := e.written == 0#64
/-- Both copies of a header fail (R321). -/
def MediaErr.dead (e : MediaErr) : Bool := e.stands && e.badA && e.badB
/-- A read under policy MPOL is delivered poisoned (R322). -/
def MediaErr.poisons (e : MediaErr) (mpol : Bool) : Bool := e.stands && (e.ecc == some true || (mpol && e.par != 0#8))
/-- Byte i of the line has lost bits 1:0 (R322). -/
def MediaErr.loses (e : MediaErr) (i : Nat) : Bool := e.par.getLsbD (i / 8) && !e.written.getLsbD i
/-- The groups with a parity error. -/
def MediaErr.groups (e : MediaErr) : List Nat := (List.range 8).filter (fun g => e.par.getLsbD g)
/-- The events of one read that meets the error, as codes of the flight trace: a header served by copy B or lost, a single or
an uncorrectable error, a group with a parity error. -/
def MediaErr.events (e : MediaErr) : List Byte :=
  (if e.badA then [if e.badB then 0x11#8 else 0x10#8] else [])
  ++ (match e.ecc with
      | none => []
      | some u => [if u then 0x13#8 else 0x12#8])
  ++ e.groups.map (fun g => BitVec.ofNat 8 (0x18 + g))

/-- The error that a read of a line of a guarded frame meets in the media: one found before, or one that the manual leaves
open; headers stand in page 62, payload in pages 0 to 61. -/
def mediaErr (s : State) (guard : Bool) (line : Nat) : Option MediaErr :=
  if !guard then none
  else
    match pget s.media line with
    | some e => some e
    | none => (Config.mediaError s.cycle line).map (fun x =>
        if line / 64 % 64 = 62 then ⟨x.1, x.2.1, none, 0#8, 0#64⟩ else ⟨false, false, x.2.2.1, x.2.2.2, 0#64⟩)

/-- The line that a cluster holds as it was delivered. -/
def filledAt (s : State) (n line : Nat) : Option Filled := s.filled.find? (fun f => f.cluster == n && f.line == line)
/-- The caches of a cluster serve a read of a line, so it does not reach the media. -/
def lineHeld (s : State) (n : Nat) (cls : BitVec 2) (line : Nat) : Bool :=
  let cl := s.cluster n
  (filledAt s n line).isSome
  || (cls == 0#2 && ((pget cl.copies line).isSome || cl.l1d.any (fun p => p.1 / 64 == line) || cl.ccd.any (fun p => p.1 / 64 == line)))

/-- MPOL of a context (R323). -/
def Ctx.mpol (c : Ctx) : Bool := c.regs.kvpol.getLsbD 0
/-- A byte of memory as a read of a leaf finds it: a group with a parity error has lost bits 1:0 (R322). -/
def mediaByte (s : State) (l : Leaf) (k : Nat) : Byte :=
  if (mediaErr s l.guard (k / 64)).any (fun e => e.loses (k % 64)) then memRead s.mem k &&& 0xFC#8 else memRead s.mem k
/-- A byte as a front end sees it through a leaf; the CRC bytes of a guarded header read 0 (R321). -/
def leafByte (s : State) (fe : FeId) (l : Leaf) (k : Nat) : Byte :=
  if l.crcByte k then 0#8
  else if l.cls = 0#2 then cachedByte (s.cluster (clusterOf fe)) (mediaByte s l k) k
  else mediaByte s l k
/-- The bytes from a key on as a front end sees them through a leaf. -/
def leafBytes (s : State) (fe : FeId) (l : Leaf) (k : Nat) : Nat → List Byte
  | 0 => []
  | n + 1 => leafByte s fe l k :: leafBytes s fe l (k + 1) n
/-- Where the stores to a leaf's memory perform: in the caches of a cluster for class NC (R218, R262). -/
def Leaf.place (l : Leaf) (fe : FeId) : Option Nat := if l.cls = 0#2 then some (clusterOf fe) else none
/-- A byte that a load returns: of the newest store, or of an older one that the load may still return (R254, R255). -/
def loadByte (s : State) (fe : FeId) (l : Leaf) (strong : Option (BitVec 2)) (seq k : Nat) : Byte :=
  match olderUnit s fe strong seq (l.place fe) (k / 8) with
  | none => leafByte s fe l k
  | some w => if l.crcByte k then 0#8 else w.extractLsb' (8 * (k % 8)) 8
/-- The bytes from a key on that a load returns, each aligned unit of 8 bytes as a whole (R253). -/
def loadBytes (s : State) (fe : FeId) (l : Leaf) (strong : Option (BitVec 2)) (seq k : Nat) : Nat → List Byte
  | 0 => []
  | n + 1 => loadByte s fe l strong seq k :: loadBytes s fe l strong seq (k + 1) n
/-- Does a front end receive the line of a key poisoned: marked so, or delivered so (R230, R322, R324). -/
def leafPoison (s : State) (fe : FeId) (l : Leaf) (k : Nat) : Bool :=
  (if l.cls = 0#2 then cachedPoison (s.cluster (clusterOf fe)) (k / 64) (readsPoison s k) else readsPoison s k) ||
  (match filledAt s (clusterOf fe) (k / 64) with
   | some f => f.poison
   | none => !lineHeld s (clusterOf fe) l.cls (k / 64) && (mediaErr s l.guard (k / 64)).any (fun e => e.poisons (s.ctx fe).mpol))
/-- A read finds both copies of a header bad (R321). -/
def leafDead (s : State) (fe : FeId) (l : Leaf) (k : Nat) : Bool :=
  !lineHeld s (clusterOf fe) l.cls (k / 64) && (mediaErr s l.guard (k / 64)).any MediaErr.dead

/-- A count of KVPOL at bit `lo`, which stops at FFFFH (R323). -/
def kvField (w : Word) (lo n : Nat) : Word :=
  let v := (w >>> lo).toNat % 65536
  (w &&& ~~~((0xFFFF#64) <<< lo)) ||| (BitVec.ofNat 64 (min 65535 (v + n)) <<< lo)
/-- KVPOL after a read that meets an error: HDC, SEC and MZC (R321 to R323). -/
def kvCount (w : Word) (e : MediaErr) : Word :=
  let w := kvField w 48 (if e.badA && !e.badB then 1 else 0)
  let w := kvField w 32 (if e.ecc == some false then 1 else 0)
  kvField w 16 (if w.getLsbD 0 then 0 else e.groups.length)

/-- Headwater counts the events of a read and traces each with the line's address (R323). -/
def mediaEvents (s : State) (src : BitVec 16) (line : Nat) (e : MediaErr) : State :=
  e.events.foldl (fun s c => s.countError.traceEv ⟨4#8, c, src, BitVec.ofNat 64 (64 * line), 0#64⟩) s

/-- A context's read of the line of a key through a leaf, where it reaches the media and meets an error (R321 to R324): the
error is known from now on, the cluster holds the line as delivered, unless both copies of a header failed, and the
context's KVPOL and Headwater count. -/
def fillLine (s : State) (fe : FeId) (l : Leaf) (k : Nat) : State :=
  if lineHeld s (clusterOf fe) l.cls (k / 64) then s
  else
    match mediaErr s l.guard (k / 64) with
    | none => s
    | some e =>
      if !e.stands then s
      else
        let f := if e.dead then s.filled else s.filled ++ [⟨clusterOf fe, k / 64, e.poisons (s.ctx fe).mpol⟩]
        let s := { s with media := pset s.media (k / 64) e, filled := f }
        let s := s.modCtx fe (fun c => { c with regs := { c.regs with kvpol := kvCount c.regs.kvpol e } })
        mediaEvents s (fe.setWidth 16) (k / 64) e

/-- Forgets the lines of a range that clusters hold as delivered. -/
def dropFilled (s : State) (p : Filled → Bool) : State := { s with filled := s.filled.filter (fun f => !p f) }

/-- A byte reaches memory from a cluster (R322): the error of its line ends; a line that was beyond correction, or that the
cluster held poisoned, stays poisoned until it is overwritten whole (assumption log 61). -/
def mediaWritten (s : State) (n k : Nat) : State :=
  let bad := (filledAt s n (k / 64)).any (·.poison)
  let s := dropFilled s (fun f => f.line == k / 64)
  let s := if bad then s.setLinePoison k true else s
  match pget s.media (k / 64) with
  | none => s
  | some e =>
    let s := if e.dead || e.poisons false then s.setLinePoison k true else s
    { s with media := pset s.media (k / 64) { e with written := e.written ||| (1#64 <<< (k % 64)) } }

/-- The faults that a read or a store through a leaf meets after every other: D41 of an L1 tag (R217), D43 (R324). -/
def mediaFault (s : State) (fe : FeId) (l : Leaf) (ea : Word) : Option AccFault :=
  if (s.cluster (clusterOf fe)).badTags.contains (l.keyOf ea / 64) then some ⟨11, .d41, ea⟩
  else if leafDead s fe l (l.keyOf ea) then some ⟨12, .d43, ea⟩
  else none

/-- What D41 and D43 leave behind (R217, R321, R324): the dirty data of the line are lost and it is poisoned in memory, or the
gate's entry is dropped with the gate; Headwater counts the lost header and is told its address. -/
def mediaTaken (s : State) (fe : FeId) (u : XUnit) (cause : Cause) (ea : Word) : State :=
  if cause ≠ .d41 ∧ cause ≠ .d43 then s
  else
    let s := if cause = .d41 then s.modCtx fe (fun c => { c with eccErr := false }) else s
    match translate s fe u ea with
    | .miss | .bad _ => s
    | .ok l =>
      let k := l.keyOf ea
      let n := clusterOf fe
      let cl := s.cluster n
      if cause = .d43 then fillLine s fe l k
      else if cl.badTags.contains (k / 64) then
        (s.setCluster n { cl with badTags := cl.badTags.filter (· != k / 64),
                                  l1d := pdelRange cl.l1d (k / 64 * 64) 64, l1p := pdelRange cl.l1p (k / 64) 1 }).setLinePoison k true
      else s

/-- Bytes of memory as a read of a leaf finds them in the media. -/
def mediaBytes (s : State) (l : Leaf) (k : Nat) : Nat → List Byte
  | 0 => []
  | n + 1 => mediaByte s l k :: mediaBytes s l (k + 1) n

/-- A demand access brings a line into the cluster's caches: of class NC as it stands (R263), of a guarded frame as the media
deliver it (R324). -/
def touchLine (s : State) (fe : FeId) (l : Leaf) (k : Nat) : State :=
  let b := mediaBytes s l (k / 64 * 64) 64
  let s := fillLine s fe l k
  if l.cls = 0#2 then
    let n := clusterOf fe
    let cl := s.cluster n
    match pget cl.copies (k / 64) with
    | some _ => s
    | none => s.setCluster n { cl with copies := pset cl.copies (k / 64) (bytesNat b), cpp := pset cl.cpp (k / 64) (readsPoison s k) }
  else s

/-- A store performs: the bytes of class NC stay dirty in the cluster's L1s, the others reach memory (R218, R255). -/
def performBytes (s : State) (fe : FeId) (cls : BitVec 2) : List (Nat × Byte) → State
  | [] => s
  | (k, b) :: t =>
    let s := if cls = 0#2 then
        let n := clusterOf fe
        let cl := s.cluster n
        s.setCluster n { cl with l1d := pset cl.l1d k b }
      else if poolKey k && poolDead s then s
      else mediaWritten { s with mem := memWrite s.mem k b } (clusterOf fe) k
    performBytes s fe cls t

/-- The poison mark that a store gives a line: poisoned data sets it, clean data that covers the line clears it (R230). -/
def newMark (data : List (Nat × Byte)) (plines : List Nat) (line : Nat) : Option Bool :=
  if plines.contains line then some true else if coversLine data line then some false else none
/-- Marks the lines that a store to memory touches. -/
def performPoison (s : State) (data : List (Nat × Byte)) (plines : List Nat) : State :=
  ((data.map (fun p => p.1 / 64)).eraseDups).foldl (fun s l =>
    match newMark data plines l with
    | some true => s.setLinePoison (64 * l) true
    | some false => dropFilled (s.setLinePoison (64 * l) false) (fun f => f.line == l)
    | none => s) s
/-- Marks the lines that a store of class NC leaves dirty in a cluster's L1s (R218, R230). -/
def Cluster.markStore (cl : Cluster) (data : List (Nat × Byte)) (plines : List Nat) : Cluster :=
  { cl with l1p := ((data.map (fun p => p.1 / 64)).eraseDups).foldl (fun m l =>
      match newMark data plines l with
      | some b => pset m l b
      | none => m) cl.l1p }

/-- A store entry of an agent performs (R230, R252, R255). -/
def performStoreAs (s : State) (fe : FeId) (agent : Nat) (rel : Vector Clock 4) (e : StoreEnt) : State :=
  let n := clusterOf fe
  let nc : Bool := e.cls == 0#2
  let s := recordStore s agent e.scope rel (if nc then some n else none) (e.data.map (·.1))
  let s := performBytes s fe e.cls e.data
  if nc then s.setCluster n ((s.cluster n).markStore e.data e.plines) else performPoison s e.data e.plines
/-- A store entry of a context performs. -/
def performStore (s : State) (fe : FeId) (e : StoreEnt) : State := performStoreAs s fe (agentCtx fe) (s.ctx fe).ord.rel e

/-- A store to the memory of a lost host waits in the park buffer; any other performs (R423). -/
def performOrPark (s : State) (fe : FeId) (agent : Nat) (rel : Vector Clock 4) (e : StoreEnt) : State :=
  match (e.data.head?).bind (fun b => keyHost b.1) with
  | some port =>
    if hostGone s ((e.data.head?.map (·.1)).getD 0) then
      let l := portLink s port
      setPortLink s port { l with parkBuf := l.parkBuf ++ [⟨fe, (s.ctx fe).ident.tenant, agent, rel, e⟩] }
    else performStoreAs s fe agent rel e
  | none => performStoreAs s fe agent rel e

/-- The newest bytes of the context's own earlier stores over what memory gives (R232, R254): entries issued before
`seq`, in order. -/
def ownOver (l : List StoreEnt) (seq : Nat) (k : Nat) (b : Byte) : Byte :=
  match l with
  | [] => b
  | e :: t =>
    if e.seq < seq then
      match (e.data.reverse.find? (fun p => p.1 == k)) with
      | some p => ownOver t seq k p.2
      | none => ownOver t seq k b
    else ownOver t seq k b
/-- The poison of a line with the context's own earlier stores over it (R230, R232). -/
def ownPoison (l : List StoreEnt) (seq line : Nat) (p : Bool) : Bool :=
  match l with
  | [] => p
  | e :: t => ownPoison t seq line (if e.seq < seq then (newMark e.data e.plines line).getD p else p)

/-- The region that covers the page of a physical address (R223, R227). -/
def regionOf (s : State) (space : BitVec 2) (pa : Nat) : Option Region :=
  s.regions.toList.find? (fun r => r.base.getLsbD 0 && r.attr.extractLsb' 0 2 == space
    && decide ((r.base.extractLsb' 12 40).toNat ≤ pa / 4096 ∧ pa / 4096 ≤ (r.limit.extractLsb' 12 40).toNat))

/-- A leaf agrees with the region table as it stands: after a `tfence` no other one is left where an entry was rewritten (R267). -/
def Leaf.current (s : State) (l : Leaf) : Bool :=
  let fits (pa : Nat) : Bool := (regionOf s l.space pa).any (fun r =>
    r.attr.extractLsb' 56 8 == l.band && r.attr.getLsbD 17 == l.w && r.attr.getLsbD 16 == l.r && r.attr.getLsbD 7 == l.guard
    && r.attr.extractLsb' 4 2 == l.poolk && r.attr.extractLsb' 2 2 == l.cls && !r.attr.getLsbD 19)
  fits l.pa && fits (l.pa + pageSize l.sz - 1)
/-- The core lies in the instance of a scope that contains a front end (R250). -/
def coreInScope (scope : BitVec 2) (fe : FeId) (core : Nat) : Bool := sameInstance scope fe.toNat (2 * core)

/-! ### Reading the pieces of an access -/

/-- Cuts `len` bytes at an address into pieces that stay within one 64-byte line. -/
def cutPieces (off : Nat) (ea : Word) (len : Nat) : Nat → List Piece
  | 0 => []
  | fuel + 1 =>
    if len = 0 then []
    else
      let n := min len (64 - ea.toNat % 64)
      ⟨off, ea, n⟩ :: cutPieces (off + n) (ea + BitVec.ofNat 64 n) (len - n) fuel

/-- The pieces of one access of at most 256 bytes. -/
def piecesOf (ea : Word) (len : Nat) : List Piece := cutPieces 0 ea len 6

/-- What reading gives: destination bytes with their poison marks, and the bands met. -/
structure ReadData where
  bytes : List (Nat × Byte × Bool)
  bands : List Band
deriving DecidableEq, Repr

/-- Reads one piece of the scratchpad. -/
def spmPiece (m : Spm) (p : Piece) : List (Nat × Byte × Bool) :=
  (List.range p.len).map (fun i =>
    let o := spmOff p.ea + i
    let l := spmLine m (o / 256)
    (p.off + i, lineByte l.bits (o % 256), l.poison.getLsbD (o % 256 / 64)))
/-- The faults of reading a piece of the scratchpad at steps 5 and 9 (R213, R229). -/
def spmPieceFaults (m : Spm) (p : Piece) : List AccFault :=
  if m.size < spmOff p.ea + p.len then [⟨5, .p10, p.ea⟩]
  else if (spmLine m (spmOff p.ea / 256)).form then [⟨9, .p07, p.ea⟩] else []

/-- Reads pieces of the scratchpad: P10, P06 for tenants that conflict, P07 for the form bit (R213, R229). -/
def readSpm (m : Spm) (ps : List Piece) : Except AccFault ReadData :=
  let bands := ps.map (fun p => (spmLine m (spmOff p.ea / 256)).band)
  let fs := ps.flatMap (spmPieceFaults m)
    ++ (if (bandOf bands).isNone then [⟨8, .p06, (ps.map (·.ea)).headD 0#64⟩] else [])
  match firstFault fs with
  | some f => .error f
  | none => .ok ⟨ps.flatMap (spmPiece m), bands⟩

/-- The fault of a translated piece at steps 6 and 7: reads or writes that the leaf refuses, a space or a scope that it
does not permit (R214, R225, R227). -/
def leafFault (l : Leaf) (ea : Word) (write : Bool) (scope : BitVec 2) (okSpace : Space → Bool) : Option AccFault :=
  if !(if write then l.w else l.r) then some ⟨6, .t22, ea⟩
  else if !okSpace (l.spaceAt ea) then some ⟨7, .p09, ea⟩
  else if !scopeOk l.cls scope || l.page63 ea then some ⟨7, .p09, ea⟩
  else none

/-- The spaces of a load, of a store, and of an atomic or maintenance op (R214). -/
def spLoad : Space → Bool
  | .hbm | .pool => true
  | .cistern _ | .host | .other => false
def spStore : Space → Bool
  | .hbm | .pool | .host => true
  | .cistern _ | .other => false

/-- Translates every piece: the faults of steps 6 and 7, or the first address that misses. -/
def xlatPieces (s : State) (fe : FeId) (u : XUnit) (write : Bool) (scope : BitVec 2) (okSpace : Space → Bool)
    (ps : List Piece) : List AccFault × Option Word :=
  ps.foldl (fun a p =>
    match translate s fe u p.ea with
    | .bad c => (a.1 ++ [⟨6, c, p.ea⟩], a.2)
    | .miss => (a.1, a.2 <|> some p.ea)
    | .ok l => (a.1 ++ (leafFault l p.ea write scope okSpace).toList, a.2)) ([], none)

/-- The outcome of an access to memory. -/
inductive Acc (α : Type) where
  | fault (f : AccFault)
  | miss (ea : Word)
  | ok (x : α)

/-- Reads one translated piece as the context sees it; `strong` is the scope of a strong access. -/
def memPiece (s : State) (fe : FeId) (u : XUnit) (strong : Option (BitVec 2)) (own : List StoreEnt) (seq : Nat) (p : Piece) : List (Nat × Byte × Bool) :=
  match translate s fe u p.ea with
  | .ok l =>
    let k := l.keyOf p.ea
    let pz := ownPoison own seq (k / 64) (leafPoison s fe l k)
    ((loadBytes s fe l strong seq k p.len).zipIdx).map (fun x =>
      (p.off + x.2, if l.crcByte (k + x.2) then 0#8 else ownOver own seq (k + x.2) x.1, pz))
  | .bad _ | .miss => []

/-- The faults of a translated piece at D41 and D43: of its line, or of a gate entry that its bytes would come from. -/
def pieceMedia (s : State) (fe : FeId) (u : XUnit) (own : List StoreEnt) (p : Piece) : List AccFault :=
  match translate s fe u p.ea with
  | .ok l =>
    (if (s.ctx fe).eccErr && own.any (fun e => e.data.any (fun b => b.1 / 64 == l.keyOf p.ea / 64)) then [⟨11, .d41, p.ea⟩] else [])
    ++ (mediaFault s fe l p.ea).toList
  | .bad _ | .miss => []

/-- The band of a translated piece. -/
def pieceBand (s : State) (fe : FeId) (u : XUnit) (p : Piece) : List Band :=
  match translate s fe u p.ea with
  | .ok l => [l.band]
  | .bad _ | .miss => []

/-- The traffic of a context moves: its tenant holds a slot of the fabric's frame (R25); what a context that has left its front end
still has on its way moves too (assumption log 80). -/
def fabricOpen (s : State) (fe : FeId) : Bool :=
  (s.ctx fe).life == .unbound || s.hw.plan.contains ((s.ctx fe).ident.tenant.setWidth 8)

/-- The first piece whose data stalls (R25, R403, R412). -/
def stalledPiece (s : State) (fe : FeId) (u : XUnit) (ps : List Piece) : Option Word :=
  (ps.find? (fun p => !fabricOpen s fe || (match translate s fe u p.ea with
    | .ok l => stalledRead s (l.keyOf p.ea)
    | .bad _ | .miss => false))).map (·.ea)

/-- Reads pieces of memory through a unit's translation cache (R229, R231); stalled data counts as a miss. -/
def readMem (s : State) (fe : FeId) (u : XUnit) (strong : Bool) (scope : BitVec 2) (okSpace : Space → Bool) (own : List StoreEnt)
    (seq : Nat) (ps : List Piece) : Acc ReadData :=
  match xlatPieces s fe u false scope okSpace ps with
  | (fs, m) =>
    match m with
    | some ea => if (firstFault fs).any (fun f => f.step = 6) then
        match firstFault fs with
        | some f => .fault f
        | none => .miss ea
      else .miss ea
    | none =>
      let bands := ps.flatMap (pieceBand s fe u)
      let fs := fs ++ (if (bandOf bands).isNone then [⟨8, .p06, (ps.map (·.ea)).headD 0#64⟩] else [])
        ++ ps.flatMap (pieceMedia s fe u own)
      match firstFault fs, stalledPiece s fe u ps with
      | some f, _ => .fault f
      | none, some ea => .miss ea
      | none, none => .ok ⟨ps.flatMap (memPiece s fe u (if strong then some scope else none) own seq), bands⟩

/-- The lines that a read brings into the cluster (R263, R324). -/
def touchPieces (s : State) (fe : FeId) (u : XUnit) (ps : List Piece) : State :=
  ps.foldl (fun s p =>
    match translate s fe u p.ea with
    | .ok l => touchLine s fe l (l.keyOf p.ea)
    | .bad _ | .miss => s) s

/-- The 8-byte units of a piece at a key. -/
def unitsOf (k n : Nat) : List Nat := (List.range ((k % 8 + n + 7) / 8)).map (k / 8 + ·)
/-- What a read of pieces leaves in the order of a context (R254, R260). -/
def noteRead (s : State) (fe : FeId) (u : XUnit) (strong : Bool) (scope : BitVec 2) (seq : Nat) (ps : List Piece) : State :=
  let st := if strong then some scope else none
  let vs := ps.flatMap (fun p =>
    match translate s fe u p.ea with
    | .ok l => (unitsOf (l.keyOf p.ea) p.len).filterMap (versionRead s fe st seq (l.place fe))
    | .bad _ | .miss => [])
  if vs.isEmpty then s
  else s.modCtx fe (fun c => { c with ord := vs.foldl (fun o v => o.reads (agentCtx fe) strong scope v) c.ord })

/-- A strong read of a wait or an atomic has found the newest store of a unit (R254, R260). -/
def noteStrong (s : State) (fe : FeId) (scope : BitVec 2) (place : Option Nat) (unit : Nat) : State :=
  match (versionsOf s place unit).head? with
  | none => s
  | some v => s.modCtx fe (fun c => { c with ord := c.ord.reads (agentCtx fe) true scope v })

/-! ### Storing to memory -/

/-- The bytes of a piece with their keys. -/
def pieceKeys (s : State) (fe : FeId) (u : XUnit) (data : SpmBytes) (p : Piece) : List (Nat × Byte × Bool) :=
  match translate s fe u p.ea with
  | .ok l => ((data.filter (fun d => decide (p.off ≤ d.1 ∧ d.1 < p.off + p.len))).map
      (fun d => (l.keyOf p.ea + (d.1 - p.off), d.2.1, d.2.2))).filter (fun d => !l.crcByte d.1)
  | .bad _ | .miss => []

/-- The faults of storing data of a band to a translated piece at steps 8 to 10 (R229, R230, R375). -/
def storePieceFault (l : Leaf) (ea : Word) (band : Band) (poison : Bool) : Option AccFault :=
  if !bandStoreOk band l.band then some ⟨8, .p06, ea⟩
  else if bandLevel band = 3 then some ⟨9, .p07, ea⟩
  else if poison && (l.cls == 2#2 || l.space != 0#2) then some ⟨10, .d40, ea⟩
  else none

/-- What a store to memory needs: the keys and bytes, and the class and the virtual address of each 256-byte block that it
touches. -/
structure StorePlan where
  keys : List (Nat × Byte × Bool)
  cls : List (Nat × BitVec 2 × Word)
deriving DecidableEq, Repr

/-- Plans a store of the listed bytes at pieces of memory (R229 to R231). -/
def planStore (s : State) (fe : FeId) (u : XUnit) (scope : BitVec 2) (band : Band) (data : SpmBytes) (ps : List Piece) : Acc StorePlan :=
  match xlatPieces s fe u true scope spStore ps with
  | (fs, m) =>
    match m with
    | some ea => if (firstFault fs).any (fun f => f.step = 6) then
        match firstFault fs with
        | some f => .fault f
        | none => .miss ea
      else .miss ea
    | none =>
      let poison := data.any (·.2.2)
      let fs := fs ++ ps.flatMap (fun p =>
        match translate s fe u p.ea with
        | .ok l => (storePieceFault l p.ea band poison).toList
        | .bad _ | .miss => [])
        ++ (if (s.ctx fe).eccErr then [⟨11, .d41, (ps.map (·.ea)).headD 0#64⟩] else [])
      match firstFault fs with
      | some f => .fault f
      | none =>
        .ok ⟨ps.flatMap (pieceKeys s fe u data), ps.filterMap (fun p =>
          match translate s fe u p.ea with
          | .ok l => some (l.keyOf p.ea / 256, l.cls, p.ea - BitVec.ofNat 64 (l.keyOf p.ea % 256))
          | .bad _ | .miss => none)⟩

/-- The aligned 256-byte blocks that a plan touches (R232). -/
def StorePlan.blocks (p : StorePlan) : List Nat := (p.keys.map (fun x => x.1 / 256)).eraseDups

/-- The entries of a plan, one for each block; poisoned data poisons every line that the store touches (R230). -/
def StorePlan.entries (p : StorePlan) (seq : Nat) (ea : Word) (band : Band) (strong : Bool) (scope : BitVec 2) : List StoreEnt :=
  p.blocks.map (fun b =>
    let d := p.keys.filter (fun x => x.1 / 256 == b)
    ⟨seq, ea, d.map (fun x => (x.1, x.2.1)), if p.keys.any (·.2.2) then (d.map (fun x => x.1 / 64)).eraseDups else [], band, strong,
      scope, (mget (0#2, ea) p.cls b).1, false, (mget (0#2, ea) p.cls b).2, false⟩)

/-- Releases every gated entry, in order (R233). -/
def Ctx.releaseGate (c : Ctx) : Ctx := { c with stq := { c.stq with gate := [], sb := c.stq.sb ++ c.stq.gate } }

/-- A context's own stores that have not performed, oldest first. -/
def Ctx.ownStores (c : Ctx) : List StoreEnt := c.stq.sb ++ c.stq.gate

/-! ### What an access waits for (R241, R254 to R263) -/

/-- The bytes of an atomic. -/
def amoBytes (sz : BitVec 2) : Nat := 2 ^ sz.toNat
/-- A load or an atomic that has not returned: neither its data nor its fault is known. -/
def Pend.outstanding (p : Pend) : Bool :=
  p.fault.isNone && (match p.kind with
    | .load r => r.pre.isNone
    | .amo r => r.pre.isNone
    | .done _ | .spm _ _ | .launch _ | .wait _ => false)
/-- The lines of pieces: by physical line where the leaf is known, else by virtual line. -/
def lineKeys (s : State) (fe : FeId) (ps : List Piece) : List Nat :=
  ps.map (fun p =>
    match translate s fe .core p.ea with
    | .ok l => l.keyOf p.ea / 64
    | .bad _ | .miss => 2 ^ 64 + p.ea.toNat / 64)
/-- The pieces of a memory read or an atomic. -/
def Pend.pieces (p : Pend) : List Piece :=
  match p.kind with
  | .load r => r.pieces
  | .amo r => [⟨0, r.ea, amoBytes r.sz⟩]
  | .done _ | .spm _ _ | .launch _ | .wait _ => []
def Pend.isAmo (p : Pend) : Bool :=
  match p.kind with
  | .amo _ => true
  | .done _ | .spm _ _ | .load _ | .launch _ | .wait _ => false
def Pend.acquires (p : Pend) : Bool :=
  match p.kind with
  | .amo r => r.acq
  | .done _ | .spm _ _ | .load _ | .launch _ | .wait _ => false
/-- A strong load or an atomic (R256). -/
def Pend.strong (p : Pend) : Bool :=
  match p.kind with
  | .amo _ => true
  | .load r => r.strong
  | .done _ | .spm _ _ | .launch _ | .wait _ => false

/-- The lines of a store. -/
def StoreEnt.lines (e : StoreEnt) : List Nat := (e.data.map (fun b => b.1 / 64)).eraseDups
/-- Two lists of lines meet. -/
def meets (a b : List Nat) : Bool := a.any b.contains
/-- The maintenance ops before `seq` that overlap some lines (R263). -/
def maintBlocks (c : Ctx) (seq : Nat) (ls : List Nat) : Bool :=
  c.stq.maint.any (fun m => decide (m.seq < seq) && ls.any (fun l => decide (m.key < 64 * l + 64 ∧ 64 * l < m.key + m.len)))
/-- A strong access before `seq` has not performed or returned (R256). -/
def strongBefore (c : Ctx) (seq : Nat) : Bool :=
  c.stq.sb.any (fun e => e.strong && decide (e.seq < seq))
  || c.pend.any (fun p => p.outstanding && p.strong && decide (p.seq < seq))
/-- An acquiring atomic before `seq` has not returned (R259, R260). -/
def acquireBefore (c : Ctx) (seq : Nat) : Bool := c.pend.any (fun p => p.outstanding && p.acquires && decide (p.seq < seq))

/-- May a read of pieces that stands at `seq` in its context's issue order be made now (R241, R254, R256, R259, R263). -/
def mayRead (s : State) (fe : FeId) (seq : Nat) (strong : Bool) (ps : List Piece) : Bool :=
  let c := s.ctx fe
  let ls := lineKeys s fe ps
  !maintBlocks c seq ls && !(strong && strongBefore c seq) && !acquireBefore c seq
  && c.pend.all (fun q => !(q.outstanding && decide (q.seq < seq) && (q.isAmo || q.strong || strong) && meets ls (lineKeys s fe q.pieces)))

/-- The group waits: its context freezes before it, and an ATS request goes out for a missing leaf (R226, R227). -/
def opMiss (s : State) (ea : Word) (write : Bool) : State :=
  match s.issue with
  | some i => { s with issue := some { i with retry := some (.translate ea write) } }
  | none => askLeaf (s.modCtx s.cur (fun c => { c with frz := .translate ea write })) s.cur .core ea

/-- The group waits for a condition of R111. -/
def opWaitFor (s : State) (f : Frz) : State :=
  match s.issue with
  | some i => { s with issue := some { i with retry := some f } }
  | none => s
def opWait (s : State) : State := opWaitFor s .group

/-- A fault of an access. A fault of translation is taken once: its refusal is forgotten. -/
def accFault (s : State) (slot : BitVec 3) (f : AccFault) : State :=
  opFault (mediaTaken (s.modCtx s.cur (fun c => c.clearDeny .core f.ea)) s.cur .core f.cause f.ea) slot f.cause f.ea

/-- The destination register and its poison marks from the bytes that a read gives: a vector of 2,048 bits. -/
def readBits (d : List (Nat × Byte × Bool)) : BitVec 2048 := setLineBytes 0#2048 (d.map (fun p => (p.1, p.2.1)))
def readPoison (d : List (Nat × Byte × Bool)) : BitVec 4 := quarterMask (fun q => d.any (fun p => p.1 / 64 == q && p.2.2))
/-- A scalar from the bytes, zero-extended (R235). -/
def readWord (d : List (Nat × Byte × Bool)) : Word := BitVec.ofNat 64 (bytesNat (d.map (·.2.1)))

end Sys2Proof.Machine
end

