-- ==== Sys2Proof/Machine/Operands.lean ====
section
/-! DEFINITION. Operand forms: the effective address of format M, access sizes, element widths, lanes of a vector
register, the data of a store, and what a landing load writes (02_encoding R30, R31; 08_memory R214, R228, R235 to R238). -/
namespace Sys2Proof.Machine

/-- The bytes of an access size code (R30). -/
def sizeBytes (size : BitVec 3) : Nat :=
  match size.toNat with
  | 0 => 1 | 1 => 2 | 2 => 4 | 3 => 8 | 4 => 16 | 5 => 32 | 6 => 64 | _ => 256
/-- BASE + SignExt(OFF24, 24) (R214). -/
def effAddr (base : Word) (off : BitVec 24) : Word := base + sext64 off
/-- The alignment that an access of b bytes needs (R228). -/
def alignOf (ea : Word) (b : Nat) : Nat := if b = 256 ∧ isSpm ea then 256 else min b 64
def aligned (ea : Word) (b : Nat) : Bool := ea.toNat % alignOf ea b == 0

/-- The active lanes of a guard for lanes of w bytes (R146). -/
def activeLanes (g : PReg) (w : Nat) : List Nat := (List.range (256 / w)).filter (fun i => g.bits.getLsbD (w * i))
/-- The byte mask of a list of lanes. -/
def lanesMask (w : Nat) (l : List Nat) : BitVec 256 :=
  l.foldl (fun a i => a ||| (BitVec.ofNat 256 (2 ^ w - 1) <<< (w * i))) 0#256
/-- Element i of w bytes of a register, unsigned. -/
def lane (bits : BitVec 2048) (w i : Nat) : Nat := (bits.extractLsb' (8 * w * i) (8 * w)).toNat
/-- A granule mark at byte b of a register. -/
def granuleAt (p : BitVec 4) (b : Nat) : Bool := p.getLsbD (b / 64)
/-- The granules that hold a listed lane. -/
def lanesGranules (w : Nat) (l : List Nat) : BitVec 4 := quarterMask (fun q => l.any (fun i => w * i / 64 == q))

/-- The bytes of a scalar store (R238). -/
def scalarBytes (r : SReg) (n : Nat) : SpmBytes := ((natBytes r.val.toNat n).zipIdx).map (fun x => (x.2, x.1, r.poison))
/-- The low n bytes of a vector register (R238). -/
def vectorBytes (r : VReg) (n : Nat) : SpmBytes := (List.range n).map (fun i => (i, lineByte r.bits i, granuleAt r.poison i))
/-- The bytes of one lane. -/
def laneBytes (r : VReg) (w i : Nat) : SpmBytes :=
  (List.range w).map (fun j => (w * i + j, lineByte r.bits (w * i + j), granuleAt r.poison (w * i + j)))

/-- Is any byte read poisoned. -/
def readAnyPoison (d : ReadData) : Bool := d.bytes.any (·.2.2)

/-- The parts of a stream descriptor (R246). -/
def descWord (d : BitVec 512) (i : Nat) : Word := d.extractLsb' (64 * i) 64
def descOp (d : BitVec 512) (k : Nat) : BitVec 4 × BitVec 12 :=
  (d.extractLsb' (256 + 16 * k) 4, d.extractLsb' (256 + 16 * k + 4) 12)
def descNops (d : BitVec 512) : Nat := (d.extractLsb' (192 + 36) 3).toNat
def descSfmt (d : BitVec 512) : BitVec 4 := d.extractLsb' (192 + 28) 4
def descOtype (d : BitVec 512) : BitVec 4 := d.extractLsb' (192 + 32) 4
def descChunk (d : BitVec 512) : Nat := (d.extractLsb' (192 + 16) 12).toNat
def descScope (d : BitVec 512) : BitVec 2 := d.extractLsb' (192 + 39) 2
def descStrong (d : BitVec 512) : Bool := d.getLsbD (192 + 41)
def descCnt (d : BitVec 512) (k : Nat) : Nat :=
  if k = 0 then (d.extractLsb' (128 + 32) 16).toNat else if k = 1 then (d.extractLsb' (128 + 48) 16).toNat
  else (d.extractLsb' 192 16).toNat
def descStr (d : BitVec 512) (k : Nat) : Word :=
  if k = 0 then sext64 (d.extractLsb' 64 32) else if k = 1 then sext64 (d.extractLsb' 96 32)
  else sext64 (d.extractLsb' 128 32)

/-- Is `code` one of the first n steps of a chain. -/
def descHas (d : BitVec 512) (code : Nat) : Bool := (List.range (descNops d)).any (fun k => (descOp d k).1.toNat == code)
/-- The positions of a code in the chain. -/
def descPos (d : BitVec 512) (code : Nat) : List Nat := (List.range (descNops d)).filter (fun k => (descOp d k).1.toNat == code)
/-- The bits of an output type's element (R31). -/
def otypeBits (t : BitVec 4) : Nat := if t.toNat ≤ 1 then 8 else if t.toNat ≤ 3 ∨ t.toNat = 6 ∨ t.toNat = 7 then 16 else 32
/-- The bits of an element of a format code (R59). -/
def fmtBits (c : BitVec 4) : Nat :=
  match Fmt.ofCode c with
  | some f => f.width
  | none => 8

/-- The legality of a descriptor for qD (R246, R247). -/
def descLegal (q : BitVec 3) (d : BitVec 512) : Bool :=
  let n := descNops d
  let sf := (descSfmt d).toNat
  let cvt := descPos d 1
  let last (l : List Nat) : Nat := l.foldl max 0
  decide (n ≤ 4)
  && (List.range n).all (fun k => decide (1 ≤ (descOp d k).1.toNat ∧ (descOp d k).1.toNat ≤ 5))
  && (descPos d 4).all (· == 0) && (descPos d 5).all (· == n - 1)
  && decide ((descPos d 2).length ≤ 1)
  && (descPos d 2).all (fun k => (descOp d k).2.extractLsb' 0 3 != q && (descOp d k).2.extractLsb' 3 9 == 0#9)
  && (descPos d 1).all (fun k => (descOp d k).2.extractLsb' 1 11 == 0#11)
  && (descPos d 3 ++ descPos d 5).all (fun k => (descOp d k).2 == 0#12)
  && (descPos d 4).all (fun k => decide ((descOp d k).2.toNat ≤ 2))
  && (descPos d 2 ++ descPos d 3).all (fun k => !cvt.isEmpty && decide (k < last cvt))
  && (!cvt.isEmpty || otypeBits (descOtype d) == fmtBits (descSfmt d)
      || (decide (fmtBits (descSfmt d) < 8) && descOtype d == 1#4))
  && decide (0 < descCnt d 0 ∧ 0 < descCnt d 1 ∧ 0 < descCnt d 2) && decide (0 < descChunk d)
  && sf != 12 && sf != 14 && sf != 15 && decide ((descOtype d).toNat ≤ 8)
  && d.extractLsb' (192 + 42) 22 == 0#22 && d.extractLsb' (320 + 32) 32 == 0#32 && descWord d 7 == 0#64

/-- The 512 bits that a 64-byte read gives. -/
def readDesc (d : List (Nat × Byte × Bool)) : BitVec 512 := BitVec.ofNat 512 (bytesNat (d.map (·.2.1)))

/-- What a load writes when its data has arrived (R229, R235, R236, R185, R246); none for P06; a poisoned parameter block
is D40 and an illegal descriptor P00. -/
def loadWrites (dst : LoadDst) (d : ReadData) : Except Cause (List RegW) :=
  match dst with
  | .s n =>
    match bandOf d.bands with
    | some b => .ok [.s n ⟨readWord d.bytes, b, readAnyPoison d⟩]
    | none => .error .p06
  | .v n mask bs =>
    match bandOf (bs ++ d.bands) with
    | some b => .ok [.v n ⟨readBits d.bytes, b, readPoison d.bytes⟩ mask]
    | none => .error .p06
  | .mregs =>
    match bandOf d.bands with
    | none => .error .p06
    | some b =>
      if readAnyPoison d then .error .d40
      else .ok ((List.range 8).map (fun i => .m (BitVec.ofNat 3 i) ⟨(readBits d.bytes).extractLsb' (64 * i) 64, b⟩))
  | .stream q =>
    if readAnyPoison d then .error .d40
    else if descLegal q (readDesc d.bytes) then .ok [.stream q (some (readDesc d.bytes))] else .error .p00
  | .scale | .weir _ _ => .ok []

/-- The bands that the destination of a load joins to those it reads (R148). -/
def LoadDst.bands : LoadDst → List Band
  | .v _ _ bs => bs
  | .s _ | .mregs | .scale | .stream _ | .weir _ _ => []
/-- The first fault of a load, once the bands of its destination are counted: P06 comes before what a later step finds (R231). -/
def LoadDst.fault (dst : LoadDst) (read : List Band) (f : AccFault) : AccFault :=
  if 8 < f.step ∧ bandOf (dst.bands ++ read) = none then ⟨8, .p06, f.ea⟩ else f

/-- Does a piece read a 64-bit SPM word that a store of the context still to appear writes (R54). -/
def readsPendingWord (m : Spm) (p : Piece) : Bool :=
  let o := spmOff p.ea
  m.stores.any (fun st => st.data.any (fun d =>
    decide (o / 8 ≤ (256 * st.line + d.1) / 8 ∧ (256 * st.line + d.1) / 8 ≤ (o + p.len - 1) / 8)))

/-- In debug mode a read of a word with a store of the context still to appear raises A62 (R54). -/
def readsShadow (c : Ctx) (ps : List Piece) : Bool := c.dbg && ps.any (readsPendingWord c.spm)

/-- The bands of the lines that pieces of the window read. -/
def spmBands (m : Spm) (ps : List Piece) : List Band := ps.map (fun p => (spmLine m (spmOff p.ea / 256)).band)

/-- A load whose address is in the window: it reads at issue and lands after `lat` beats (R54, R216, R231);
a poisoned parameter block is D40 at its landing beat (R185). -/
def loadSpm (s : State) (slot : BitVec 3) (lat : Nat) (r : LoadReq) : State :=
  let c := s.ctx s.cur
  if readsShadow c r.pieces then opFault s slot .a62 0#64
  else match readSpm c.spm r.pieces with
  | .error f => accFault s slot (r.dst.fault (spmBands c.spm r.pieces) f)
  | .ok d =>
    match loadWrites r.dst d with
    | .error c =>
      let ea := (r.pieces.map (·.ea)).headD 0#64
      if r.dst = .mregs ∧ c = .d40 then addPend s slot lat (.load { r with pre := some (c, ea) }) else opFault s slot c ea
    | .ok w => addPend s slot lat (.spm r w)

/-- A load of up to 256 bytes at an effective address (R213, R214, R228, R231): in the window at once, else a cached load
that lands 9 beats later, where its faults are raised. -/
def loadAt (s : State) (slot : BitVec 3) (dst : LoadDst) (base : SReg) (ea : Word) (b : Nat) (strong : Bool) (scope : BitVec 2) : State :=
  if isSpm ea then
    if base.poison then opFault s slot .d40 ea
    else if !aligned ea b then opFault s slot .p12 ea
    else loadSpm s slot 6 ⟨dst, piecesOf ea b, strong, scope, false, none⟩
  else
    let pre := if base.poison then some (Cause.d40, ea) else if !aligned ea b then some (Cause.p12, ea) else none
    addPend s slot 9 (.load ⟨dst, piecesOf ea b, strong, scope, false, pre⟩)

end Sys2Proof.Machine
end

