-- ==== Sys2Proof/Machine/LoadStore.lean ====
section
/-! DEFINITION. The L and ST slots: loads, scale-queue loads, stream binding, atomics, stores, ring publication and cache
maintenance (08_memory R235 to R246). -/
namespace Sys2Proof.Machine

def slotL : BitVec 3 := 4#3
def slotST : BitVec 3 := 5#3

/-! ### Loads (R235 to R237) -/

/-- `ld` (R235). -/
def execLd (h : OpHdr) (d base : BitVec 6) (size : BitVec 3) (kind : Bool) (scope : BitVec 2) (off : BitVec 24) (s : State) : Out :=
  .next (guardedOp s slotL h (decide (size.toNat ≤ 3)) (fun s =>
    let r := (s.ctx s.cur).rS base
    loadAt s slotL (.s d) r (effAddr r.val off) (sizeBytes size) kind scope))

/-- `vld` (R235): the bytes above the size read 0. -/
def execVld (h : OpHdr) (d base : BitVec 6) (size : BitVec 3) (kind : Bool) (scope : BitVec 2) (off : BitVec 24) (s : State) : Out :=
  .next (guardedOp s slotL h (decide (4 ≤ size.toNat)) (fun s =>
    let r := (s.ctx s.cur).rS base
    loadAt s slotL (.v d (BitVec.allOnes 256) []) r (effAddr r.val off) (sizeBytes size) kind scope))

/-- The Cistern is the only space of `vldc` (R214). -/
def spCistern : Space → Bool
  | .cistern _ => true
  | .hbm | .pool | .host | .other => false

/-- The bank that is being refreshed (R221). -/
def refreshBank (s : State) : Nat := s.refresh.toNat / 2016
/-- The Cistern bank of a physical address (R220). -/
def cisternBank (pa : Nat) : Nat := pa / 256 % 32

/-- The Cistern banks and dies that the pieces reach. -/
def pieceKeysOf (s : State) (fe : FeId) (ps : List Piece) : List Nat :=
  ps.filterMap (fun p =>
    match translate s fe .core p.ea with
    | .ok l => some (l.keyOf p.ea)
    | .bad _ | .miss => none)

/-- `vldc` (R214, R220, R221, R235): lands at 14 beats; a refreshing bank holds its group. -/
def execVldc (h : OpHdr) (d base : BitVec 6) (size : BitVec 3) (off : BitVec 24) (s : State) : Out :=
  .next (guardedOp s slotL h (decide (6 ≤ size.toNat)) (fun s =>
    let r := (s.ctx s.cur).rS base
    let ea := effAddr r.val off
    let ps := piecesOf ea (sizeBytes size)
    if r.poison then opFault s slotL .d40 ea
    else if isSpm ea then opFault s slotL .p09 ea
    else if !aligned ea (sizeBytes size) then opFault s slotL .p12 ea
    else
      match readMem s s.cur .core false 0#2 spCistern [] 0 ps with
      | .miss a => opMiss s a false
      | .fault f => accFault s slotL f
      | .ok dat =>
        let keys := pieceKeysOf s s.cur ps
        if keys.any (fun k => spacePa k != .cistern (dieOf s.cur)) then opFault s slotL .t22 ea
        else if keys.any (fun k => cisternBank k == refreshBank s) then opWait s
        else
          match loadWrites (.v d (BitVec.allOnes 256) []) dat with
          | .error c => opFault s slotL c ea
          | .ok w => landRegs s slotL 14 w))

/-- The tile offset of a ring index in the window (R170). -/
def ringTileOff (r : Ring) (idx : Nat) : Nat := r.base.toNat + idx % r.count.toNat * r.tsz.toNat * 256
def Mat.ring (m : Mat) (hnd : BitVec 4) : Ring := vget zeroRing m.rings hnd

/-- The P12 and P10 checks of `vldr` and `vstr` (R231, R237). -/
def ringFault (r : Ring) (b : Word) (tile : BitVec 8) : Option Cause :=
  if b.toNat % 256 ≠ 0 then some .p12
  else if !r.valid || decide (r.count.toNat ≤ tile.toNat) || decide (r.tsz.toNat * 256 ≤ b.toNat) then some .p10
  else none

/-- The aperture address of an SPM offset (R213). -/
def spmEa (off : Nat) : Word := 0xFFFFFFFFFFE00000#64 + BitVec.ofNat 64 off

/-- `vldr` (R237): waits while t ≥ FILL. -/
def execVldr (h : OpHdr) (d : BitVec 6) (a : BitVec 4) (b : BitVec 6) (tile : BitVec 8) (s : State) : Out :=
  .next (guardedOp s slotL h true (fun s =>
    let c := s.ctx s.cur
    let r := c.eng.mat.ring a
    let x := c.rS b
    if x.poison then opFault s slotL .d40 0#64
    else
      match ringFault r x.val tile with
      | some f => opFault s slotL f x.val
      | none =>
        if r.fill.toNat ≤ tile.toNat then opWait s
        else
          let ea := spmEa (ringTileOff r (r.head.toNat + tile.toNat) + x.val.toNat)
          loadSpm s slotL 6 ⟨.v d (BitVec.allOnes 256) [], piecesOf ea 256, false, 0#2, false, none⟩))

/-- The band that a guarded load keeps: its guard's and the old destination's when G ≠ 0 (R148, assumption log 14). -/
def guardBands (c : Ctx) (h : OpHdr) (d : BitVec 6) : List Band :=
  if h.g = 0#4 then [] else [(c.rP h.g).band, (c.rV d).band]

/-- A lane-wise load (R236): all active lanes reach one space. -/
def laneLoad (s : State) (h : OpHdr) (d : BitVec 6) (w : Nat) (poison : Bool) (addr : Nat → Word) : State :=
  let c := s.ctx s.cur
  let act := activeLanes (c.rP h.g) w
  let ps : List Piece := act.map (fun i => ⟨w * i, addr i, w⟩)
  let mask := lanesMask w act
  let first := (ps.map (·.ea)).headD 0#64
  let bad := ps.find? (fun p => p.ea.toNat % w != 0)
  let dst : LoadDst := .v d mask (guardBands c h d)
  if ps.isEmpty then s
  else if ps.all (fun p => isSpm p.ea) then
    if poison then opFault s slotL .d40 first
    else
      match bad with
      | some p => opFault s slotL .p12 p.ea
      | none => loadSpm s slotL 6 ⟨dst, ps, false, 0#2, false, none⟩
  else
    let pre :=
      if poison then some (Cause.d40, first)
      else if ps.any (fun p => isSpm p.ea) then some (Cause.p09, first)
      else bad.map (fun p => (Cause.p12, p.ea))
    addPend s slotL 9 (.load ⟨dst, ps, false, 0#2, false, pre⟩)

/-- `vldg` (R236): lane i reads at A + B[i] × w. -/
def execVldg (h : OpHdr) (t : VTy) (d a b : BitVec 6) (s : State) : Out :=
  .next (laneOp s slotL h true (fun s =>
    let c := s.ctx s.cur
    let x := c.rS a
    let v := c.rV b
    let act := activeLanes (c.rP h.g) t.bytes
    laneLoad s h d t.bytes (x.poison || act.any (fun i => granuleAt v.poison (t.bytes * i)))
      (fun i => x.val + BitVec.ofNat 64 (lane v.bits t.bytes i * t.bytes))))

/-- `vlds` (R236): lane i reads at A + i × B. -/
def execVlds (h : OpHdr) (t : VTy) (d a b : BitVec 6) (s : State) : Out :=
  .next (laneOp s slotL h true (fun s =>
    let c := s.ctx s.cur
    let x := c.rS a
    let y := c.rS b
    laneLoad s h d t.bytes (x.poison || y.poison) (fun i => x.val + BitVec.ofNat 64 i * y.val)))

/-! ### Scale-queue loads, streams, prefetch (R244 to R246) -/

/-- Reads pieces one by one: the fault of the least step, else the first address that misses. -/
def readEach (f : Piece → Acc ReadData) : List Piece → Acc (List ReadData)
  | [] => .ok []
  | p :: t =>
    match f p, readEach f t with
    | .ok x, .ok l => .ok (x :: l)
    | .fault a, .fault b => .fault (if b.step < a.step then b else a)
    | .fault a, .miss m => if a.step = 6 then .fault a else .miss m
    | .fault a, .ok _ => .fault a
    | .miss m, .fault b => if b.step = 6 then .fault b else .miss m
    | .miss m, .miss _ | .miss m, .ok _ | .ok _, .miss m => .miss m
    | .ok _, .fault b => .fault b

/-- The pairs that one line of an `lsq` gives (R245), with the band and poison of the line. -/
def linePairs (d : ReadData) : List ScalePair :=
  (List.range (d.bytes.length / 2)).map (fun i =>
    let x := d.bytes.getD (2 * i) (0, 0#8, false)
    let y := d.bytes.getD (2 * i + 1) (0, 0#8, false)
    ⟨false, x.2.1, y.2.1, d.bands.headD 0#8, x.2.2 || y.2.2⟩)

/-- Reserves the pairs at the tail of the queue (R245). -/
def lsqReserve (s : State) (l : List ReadData) : State :=
  s.modCtx s.cur (fun c =>
    { c with eng := { c.eng with mat := { c.eng.mat with scale := c.eng.mat.scale ++ l.flatMap linePairs } } })

/-- The read of one line of an `lsq`. -/
def lsqRead (s : State) (strong : Bool) (scope : BitVec 2) (p : Piece) : Acc ReadData :=
  let c := s.ctx s.cur
  if isSpm p.ea then
    match readSpm c.spm [p] with
    | .error f => .fault f
    | .ok d => .ok d
  else readMem s s.cur .core strong scope spLoad c.ownStores c.nextSeq [p]

/-- What a read of memory by an op of the group leaves: the lines that it brings in, and its place in the order. -/
def lsqTouch (s : State) (strong : Bool) (scope : BitVec 2) (ps : List Piece) : State :=
  touchPieces (noteRead s s.cur .core strong scope (s.ctx s.cur).nextSeq ps) s.cur .core ps

/-- `lsq` (R245): its group waits until enough entries are free, and for what a read of its lines waits for (R241, R256, R263). -/
def execLsq (h : OpHdr) (base : BitVec 6) (size : BitVec 3) (kind : Bool) (scope : BitVec 2) (off : BitVec 24) (s : State) : Out :=
  .next (guardedOp s slotL h (size != 0#3) (fun s =>
    let c := s.ctx s.cur
    let r := c.rS base
    let ea := effAddr r.val off
    let n := sizeBytes size
    let ps := piecesOf ea n
    if r.poison then opFault s slotL .d40 ea
    else if !aligned ea n then opFault s slotL .p12 ea
    else if 256 < c.eng.mat.scale.length + n / 2 then opWait s
    else if isSpm ea && readsShadow c ps then opFault s slotL .a62 0#64
    else if !isSpm ea && !mayRead s s.cur c.nextSeq kind ps then opWait s
    else
      match readEach (lsqRead s kind scope) ps with
      | .miss a => opMiss s a false
      | .fault f => accFault s slotL f
      | .ok l => lsqReserve (if isSpm ea then s else lsqTouch s kind scope ps) l))

/-- `qset` (R246): the binding lands at the latency of the descriptor's space. -/
def execQset (h : OpHdr) (d : BitVec 3) (base : BitVec 6) (size : BitVec 3) (kind : Bool) (scope : BitVec 2) (off : BitVec 24) (s : State) : Out :=
  .next (guardedOp s slotL h (size == 6#3) (fun s =>
    let r := (s.ctx s.cur).rS base
    loadAt s slotL (.stream d) r (effAddr r.val off) 64 kind scope))

/-- `qclr` (R246): seen 1 beat later. -/
def execQclr (h : OpHdr) (d : BitVec 3) (s : State) : Out :=
  .next (guardedOp s slotL h true (fun s => landRegs s slotL 1 [.stream d none]))

/-- `pref` (R244): brings the covering unit toward the core, to its L1 or, as far as anything can see alike, to its cluster's
cache; a translation that faults or a space that R214 excludes does nothing. -/
def execPref (h : OpHdr) (d base : BitVec 6) (size : BitVec 3) (off : BitVec 24) (s : State) : Out :=
  .next (guardedOp s slotL h (decide (6 ≤ size.toNat ∧ d.toNat ≤ 1)) (fun s =>
    let r := (s.ctx s.cur).rS base
    let ea := effAddr r.val off
    let n := sizeBytes size
    let ea0 := ea - BitVec.ofNat 64 (ea.toNat % n)
    if r.poison then opFault s slotL .d40 ea
    else if isSpm ea then s
    else if maintBlocks (s.ctx s.cur) (s.ctx s.cur).nextSeq (lineKeys s s.cur (piecesOf ea0 n)) then opWait s
    else
      match readMem s s.cur .core false 0#2 spLoad [] 0 (piecesOf ea0 n) with
      | .miss a => opMiss s a false
      | .fault f => s.modCtx s.cur (fun c => c.clearDeny .core f.ea)
      | .ok _ => touchPieces s s.cur .core (piecesOf ea0 n)))

/-! ### Atomics (R239 to R241) -/

/-- `amo` (R239): it releases the gate, and its result lands 9 beats later, once it returns. -/
def execAmo (h : OpHdr) (d a b c : BitVec 6) (rel acq : Bool) (scope : BitVec 2) (sz : BitVec 2) (fn : BitVec 4) (s : State) : Out :=
  .next (reservedZero s slotL (fn == 9#4 || c == 0#6) (guardedOp s slotL h (wfAmo fn sz (c == 0#6)) (fun s =>
    let cx := s.ctx s.cur
    let x := cx.rS a
    let pre :=
      if x.poison then some (Cause.d40, x.val)
      else if isSpm x.val then some (Cause.p09, x.val)
      else if x.val.toNat % amoBytes sz ≠ 0 then some (Cause.p12, x.val) else none
    addPend (s.modCtx s.cur Ctx.releaseGate) slotL 9
      (.amo ⟨d, x.val, cx.rS b, cx.rS c, rel, acq, scope, sz, fn, pre⟩))))

/-- The value that an atomic stores (R239); none where it writes nothing. The flag says that it raises an audit event. -/
def amoNew (fn : BitVec 4) (n : Nat) (old b c : Nat) : Option Nat × Bool :=
  let m := 2 ^ n
  let so : Int := (BitVec.ofNat n old).toInt
  let sb : Int := (BitVec.ofNat n b).toInt
  match fn.toNat with
  | 0 => (some ((old + b % m) % m), false)
  | 1 => (some (old &&& (b % m)), false)
  | 2 => (some (old ||| (b % m)), false)
  | 3 => (some (old ^^^ (b % m)), false)
  | 4 => (some (if so ≤ sb then old else b % m), false)
  | 5 => (some (if sb ≤ so then old else b % m), false)
  | 6 => (some (Nat.min old (b % m)), false)
  | 7 => (some (Nat.max old (b % m)), false)
  | 8 => (some (b % m), false)
  | 9 => (if old = c % m then some (b % m) else none, false)
  | 10 => (some (roundTo fmtF32 .rne (sumXV .rne [fmtF32.value old, fmtF32.value (b % m)])), false)
  | 11 => if old = 0xFFFF then (some old, false) else (some (old + 1), old + 1 == 0xFFFF)
  | _ => if old = 0xFFFF then (some old, false) else if old = 0 then (some 0xFFFF, true) else (some (old - 1), false)

/-! ### Stores (R236 to R238) -/

/-- Stores bytes of a band at an effective address (R216, R228 to R233): in the window, into the gate, or, when strong,
after the gate's entries. -/
def storeMem (s : State) (slot : BitVec 3) (ea : Word) (band : Band) (strong : Bool) (scope : BitVec 2) (data : SpmBytes)
    (ps : List Piece) : State :=
  match planStore s s.cur .core scope band data ps with
  | .miss a => opMiss s a true
  | .fault f => accFault s slot f
  | .ok plan =>
    let c := s.ctx s.cur
    let es := plan.entries c.nextSeq ea band strong scope
    if strong then
      s.modCtx s.cur (fun c =>
        let c := c.releaseGate
        { c with stq := { c.stq with sb := c.stq.sb ++ es }, nextSeq := c.nextSeq + 1 })
    else if 128 < c.stq.gate.length + es.length then opFault s slot .p05 ea
    else s.modCtx s.cur (fun c => { c with stq := { c.stq with gate := c.stq.gate ++ es }, nextSeq := c.nextSeq + 1 })

/-- Stores bytes in the window; `data` is indexed by SPM offset, and `lines` are the lines that the access covers. -/
def storeSpm (s : State) (slot : BitVec 3) (ea : Word) (band : Band) (lines : List Nat) (data : SpmBytes) : State :=
  match spmStoreFault (s.ctx s.cur) ea band lines data with
  | some f => accFault s slot f
  | none => s.modCtx s.cur (fun c => c.spmStore band data)

/-- A format-M store of `n` bytes (R238): `data` is indexed from the first byte of the access. -/
def storeAt (s : State) (base : SReg) (ea : Word) (n : Nat) (band : Band) (strong : Bool) (scope : BitVec 2) (data : SpmBytes) : State :=
  if base.poison then opFault s slotST .d40 ea
  else if !aligned ea n then opFault s slotST .p12 ea
  else if isSpm ea then
    if (s.ctx s.cur).spm.size < spmOff ea + n then opFault s slotST .p10 ea
    else storeSpm s slotST ea band [spmOff ea / 256] (data.map (fun p => (spmOff ea + p.1, p.2)))
  else storeMem s slotST ea band strong scope data (piecesOf ea n)

/-- `st` (R238). -/
def execSt (h : OpHdr) (d base : BitVec 6) (size : BitVec 3) (kind : Bool) (scope : BitVec 2) (off : BitVec 24) (s : State) : Out :=
  .next (guardedOp s slotST h (decide (size.toNat ≤ 3)) (fun s =>
    let c := s.ctx s.cur
    let r := c.rS base
    let x := c.rS d
    storeAt s r (effAddr r.val off) (sizeBytes size) x.band kind scope (scalarBytes x (sizeBytes size))))

/-- `vst` (R238). -/
def execVst (h : OpHdr) (d base : BitVec 6) (size : BitVec 3) (kind : Bool) (scope : BitVec 2) (off : BitVec 24) (s : State) : Out :=
  .next (guardedOp s slotST h (decide (4 ≤ size.toNat)) (fun s =>
    let c := s.ctx s.cur
    let r := c.rS base
    let x := c.rV d
    storeAt s r (effAddr r.val off) (sizeBytes size) x.band kind scope (vectorBytes x (sizeBytes size))))

/-- `vstm` (R238): writes the bytes that the guard selects. -/
def execVstm (h : OpHdr) (d base : BitVec 6) (size : BitVec 3) (kind : Bool) (scope : BitVec 2) (off : BitVec 24) (s : State) : Out :=
  .next (laneOp s slotST h (decide (4 ≤ size.toNat)) (fun s =>
    let c := s.ctx s.cur
    let r := c.rS base
    let x := c.rV d
    let g := c.rP h.g
    storeAt s r (effAddr r.val off) (sizeBytes size) x.band kind scope
      ((vectorBytes x (sizeBytes size)).filter (fun p => g.bits.getLsbD p.1))))

/-- `vstr` (R237): waits while t ≥ COUNT − FILL. -/
def execVstr (h : OpHdr) (d : BitVec 6) (a : BitVec 4) (b : BitVec 6) (tile : BitVec 8) (s : State) : Out :=
  .next (guardedOp s slotST h true (fun s =>
    let c := s.ctx s.cur
    let r := c.eng.mat.ring a
    let x := c.rS b
    let v := c.rV d
    if x.poison then opFault s slotST .d40 0#64
    else
      match ringFault r x.val tile with
      | some f => opFault s slotST f x.val
      | none =>
        if r.count.toNat - r.fill.toNat ≤ tile.toNat then opWait s
        else
          let o := ringTileOff r (r.tail.toNat + tile.toNat) + x.val.toNat
          if c.spm.size < o + 256 then opFault s slotST .p10 (spmEa o)
          else storeSpm s slotST (spmEa o) v.band [o / 256] ((vectorBytes v 256).map (fun p => (o + p.1, p.2)))))

/-- `vsts` (R236): lane i is stored at A + i × B; where two lanes meet, the higher lane's byte remains. -/
def execVsts (h : OpHdr) (t : VTy) (d a b : BitVec 6) (s : State) : Out :=
  .next (laneOp s slotST h true (fun s =>
    let c := s.ctx s.cur
    let x := c.rS a
    let y := c.rS b
    let v := c.rV d
    let w := t.bytes
    let act := activeLanes (c.rP h.g) w
    let ps : List Piece := act.map (fun i => ⟨w * i, x.val + BitVec.ofNat 64 i * y.val, w⟩)
    let first := (ps.map (·.ea)).headD 0#64
    if ps.isEmpty then s
    else if x.poison || y.poison then opFault s slotST .d40 first
    else if ps.any (fun p => isSpm p.ea) && !ps.all (fun p => isSpm p.ea) then opFault s slotST .p09 first
    else
      match ps.find? (fun p => p.ea.toNat % w != 0) with
      | some p => opFault s slotST .p12 p.ea
      | none =>
        if isSpm first then
          match ps.find? (fun p => decide (c.spm.size < spmOff p.ea + w)) with
          | some p => opFault s slotST .p10 p.ea
          | none => storeSpm s slotST first v.band ((ps.map (fun p => spmOff p.ea / 256)).eraseDups)
              (ps.flatMap (fun p => (laneBytes v w (p.off / w)).map (fun q => (spmOff p.ea + (q.1 - p.off), q.2))))
        else storeMem s slotST first v.band false 0#2 (act.flatMap (laneBytes v w)) ps))

/-! ### Ring publication and cache maintenance (R242, R243) -/

/-- Tiles published and not yet in effect, of one ring. -/
def pendingTiles (m : Mat) (hnd : BitVec 4) : Nat :=
  (m.radv.filter (fun p => p.2.1 == hnd)).foldl (fun a p => a + p.2.2.toNat) 0

/-- `radv` (R242): takes effect 3 beats later. -/
def execRadv (h : OpHdr) (a : BitVec 4) (n : BitVec 9) (s : State) : Out :=
  .next (guardedOp s slotST h (decide (1 ≤ n.toNat ∧ n.toNat ≤ 256)) (fun s =>
    let c := s.ctx s.cur
    let r := c.eng.mat.ring a
    if !r.valid || decide (r.count.toNat < r.fill.toNat + pendingTiles c.eng.mat a + n.toNat) then opFault s slotST .p10 0#64
    else s.modCtx s.cur (fun c =>
      { c with eng := { c.eng with mat := { c.eng.mat with radv := c.eng.mat.radv ++ [(c.beat + 3, a, n)] } } })))

/-- A cache maintenance op (R233, R243): it releases the gate and completes later. -/
def maintOp (s : State) (h : OpHdr) (base : BitVec 6) (size : BitVec 3) (scope : BitVec 2) (off : BitVec 24) (op : BitVec 2)
    (write : Bool) : State :=
  guardedOp s slotST h (decide (6 ≤ size.toNat)) (fun s =>
    let c := s.ctx s.cur
    let r := c.rS base
    let ea := effAddr r.val off
    let n := sizeBytes size
    if r.poison then opFault s slotST .d40 ea
    else if isSpm ea || scope == 0#2 then opFault s slotST .p09 ea
    else if ea.toNat % 64 ≠ 0 then opFault s slotST .p12 ea
    else
      match translate s s.cur .core ea with
      | .miss => opMiss s ea write
      | .bad f => accFault s slotST ⟨6, f, ea⟩
      | .ok l =>
        match leafFault l ea write 0#2 spStore with
        | some f => accFault s slotST f
        | none =>
          if write && !bandStoreOk c.band l.band then opFault s slotST .p06 ea
          else s.modCtx s.cur (fun c =>
            let c := c.releaseGate
            { c with stq := { c.stq with maint := c.stq.maint ++ [⟨c.nextSeq, op, scope, l.keyOf ea / n * n, n, l.cls,
                ea - BitVec.ofNat 64 (ea.toNat % n), false⟩] },
                     nextSeq := c.nextSeq + 1 }))

def execCflush (h : OpHdr) (base : BitVec 6) (size : BitVec 3) (scope : BitVec 2) (off : BitVec 24) (s : State) : Out :=
  .next (maintOp s h base size scope off 0#2 false)
/-- `cinval` needs W and applies the store band check (R243). -/
def execCinval (h : OpHdr) (base : BitVec 6) (size : BitVec 3) (scope : BitVec 2) (off : BitVec 24) (s : State) : Out :=
  .next (maintOp s h base size scope off 1#2 true)
def execCclean (h : OpHdr) (base : BitVec 6) (size : BitVec 3) (scope : BitVec 2) (off : BitVec 24) (s : State) : Out :=
  .next (maintOp s h base size scope off 2#2 false)

end Sys2Proof.Machine
end

