-- ==== Sys2Proof/Machine/Milliner.lean ====
section
/-! DEFINITION. The Milliner: its instructions, packed and canonical groups, the Runnel, snapshots, and its waits
(02_encoding R33 to R36, 04_generator R84 to R110). -/
namespace Sys2Proof.Machine

/-! ### The instruction store (R36, R48, R85, R366) -/

/-- A store address, modulo 2^18. -/
abbrev StoreAddr := BitVec 18

/-- The 32-bit word at a store address of a context; none on an unmapped page. -/
def storeWord (s : State) (fe : FeId) (a : StoreAddr) : Option (BitVec 32) :=
  let e := mget 0#7 (s.ctx fe).pages (a.toNat / 4096)
  if e.getLsbD 6 then some (mget 0#32 (s.core (coreOf fe)).istore (e.toNat % 64 * 1024 + a.toNat % 4096 / 4)) else none

/-- The 64-bit word at a store address that is a multiple of 8. -/
def storeWord8 (s : State) (fe : FeId) (a : StoreAddr) : Option Word :=
  match storeWord s fe a, storeWord s fe (a + 4#18) with
  | some lo, some hi => some (hi ++ lo)
  | some _, none | none, _ => none

/-- The store address of the generator program counter. -/
def gpcAddr (g : Gen) : StoreAddr := (g.gpc ++ 0#2 : BitVec 18)
/-- The generator word at GPC; none on an unmapped page. -/
def genWord (s : State) (fe : FeId) : Option (BitVec 32) := storeWord s fe (gpcAddr (s.ctx fe).gen)

/-! ### Groups (R29, R33 to R35) -/

def wordSlot (w : Word) : BitVec 3 := w.extractLsb' 61 3
def wordStop (w : Word) : Bool := w.getLsbD 60
def wordMark (w : Word) : Bool := w.getLsbD 59
def clearStop (w : Word) : Word := w &&& ~~~(0x1000000000000000#64)
def setMark (w : Word) : Word := w ||| 0x0800000000000000#64

/-- Word i of a canonical group. -/
def groupWord (g : BitVec 512) (i : Nat) : Word := g.extractLsb' (64 * i) 64
/-- A canonical group with word i replaced. -/
def setGroupWord (g : BitVec 512) (i : Nat) (w : Word) : BitVec 512 :=
  (g &&& ~~~((0xFFFFFFFFFFFFFFFF#512) <<< (64 * i))) ||| (w.setWidth 512 <<< (64 * i))
/-- The slots that hold a word. -/
def groupSlots (g : BitVec 512) : List Nat := (List.range 8).filter (fun i => groupWord g i != 0#64)
/-- The first word of a canonical group (R34). -/
def firstWord (g : BitVec 512) : Word := groupWord g ((groupSlots g).headD 0)
/-- A mark group (R38). -/
def groupMark (g : BitVec 512) : Bool := wordMark (firstWord g)

/-- The canonical faults of R35: a cause, and the slot whose word is illegal. -/
def canonicalFault (g : BitVec 512) : Option (Cause × Nat) :=
  match groupSlots g with
  | [] => some (.p01, 0)
  | f :: t =>
    match (f :: t).find? (fun i => (wordSlot (groupWord g i)).toNat != i) with
    | some i => some (.p00, i)
    | none => (t.find? (fun i => wordMark (groupWord g i))).map (fun i => (.p00, i))

/-- What reading a packed group gives: its words, or a fault with its address. -/
abbrev Packed := Except (Cause × Word × Word) (List Word)

/-- Reads the words of a packed group from store address a on, word by word (R33, R35, R36). -/
def packedWords (s : State) (fe : FeId) (a : StoreAddr) (prev : Option (BitVec 3)) : Nat → Packed
  | 0 => .error (.p01, 0#64, 0#64)
  | n + 1 =>
    match storeWord8 s fe a with
    | none => .error (.t21, 0#64, (zext64 a) &&& ~~~(63#64))
    | some w =>
      if (match prev with
          | some p => (wordSlot w).ule p
          | none => false) then .error (.p01, 0#64, 0#64)
      else if wordStop w then .ok [w]
      else if wordSlot w = 7#3 then .error (.p01, 0#64, 0#64)
      else
        match packedWords s fe (a + 8#18) (some (wordSlot w)) n with
        | .error e => .error e
        | .ok l => .ok (w :: l)

/-- The canonical form of packed words, with STOP cleared (R34, R94). -/
def canonical (l : List Word) : BitVec 512 :=
  l.foldl (fun g w => setGroupWord g (wordSlot w).toNat (clearStop w)) 0#512

/-- A packed group as it was read: its canonical form, the number of its words, and whether its first word is all zero (R33). -/
structure Fetched where
  words : BitVec 512
  count : Nat
  lead : Bool

/-- The faults of R35 of packed words: a cause, and the place of the illegal word among them; MARK may stand on the first stored
word only (assumption log 79). -/
def packedFault (l : List Word) : Option (Cause × Nat) :=
  if (l.drop 1).any wordMark then some (.p00, 1 + (l.drop 1).findIdx wordMark)
  else (canonicalFault (canonical l)).map (fun x => (x.1, l.findIdx (fun w => (wordSlot w).toNat == x.2)))

/-- Fetches a packed group (R35, R36), or gives a fault with the illegal word and its address. -/
def fetchPacked (s : State) (fe : FeId) (a : StoreAddr) : Except (Cause × Word × Word) Fetched :=
  if a.toNat % 8 ≠ 0 then .error (.p12, 0#64, zext64 a)
  else
    match packedWords s fe a none 8 with
    | .error e => .error e
    | .ok l =>
      match packedFault l with
      | none => .ok ⟨canonical l, l.length, l.head? == some 0#64⟩
      | some (c, k) => .error (c, l.getD k 0#64, zext64 (a + BitVec.ofNat 18 (8 * k)))

/-! ### Registers of the Milliner (R84, R92) -/

def Gen.setG (g : Gen) (d : BitVec 5) (x : SReg) : Gen := if d = 0#5 then g else { g with g := vset g.g d x }
def Gen.tmpl (g : Gen) (b : BitVec 3) : TReg := vget zeroTReg g.b b
def Gen.setTmpl (g : Gen) (b : BitVec 3) (x : TReg) : Gen := { g with b := vset g.b b x }
/-- Goes on at the next word. -/
def Gen.next (g : Gen) : Gen := { g with gpc := g.gpc + 1#16 }

def State.gen (s : State) : Gen := (s.ctx s.cur).gen
def State.modGen (s : State) (f : Gen → Gen) : State := s.modCtx s.cur (fun c => { c with gen := f c.gen })

/-- A level-G fault at the executing instruction (R107). -/
def genFault (s : State) (cause : Cause) (addr : Word) : State := trapG s s.cur cause 0#16 0#64 addr
/-- P00 at the executing instruction: the record names its word and its store address (R362). -/
def genIllegal (s : State) : State :=
  trapG s s.cur .p00 0#16 (((genWord s s.cur).getD 0#32).setWidth 64) (zext64 (gpcAddr s.gen))
/-- The Milliner waits and executes the instruction again later. -/
def genWait (s : State) : State := s.modGen (fun g => { g with stat := .waitStall })
/-- The Milliner stalls on its push (R99). -/
def genPushStall (s : State) : State := s.modGen (fun g => { g with stat := .pushStall })

/-- gd := v from sources with bands bs (R92). -/
def genResult (s : State) (d : BitVec 5) (v : Word) (bs : List Band) (poison : Bool) : State :=
  match bandOf bs with
  | none => genFault s .p06 0#64
  | some b => s.modGen (fun g => (g.setG d ⟨v, b, poison⟩).next)

def genRR (s : State) (d a b : BitVec 5) (f : Word → Word → Word) : State :=
  let c := s.ctx s.cur
  let x := c.rG a
  let y := c.rG b
  genResult s d (f x.val y.val) [x.band, y.band] (x.poison || y.poison)
/-- With an immediate, which takes BAND (R95, R373). -/
def genRI (s : State) (d a : BitVec 5) (f : Word → Word) : State :=
  let c := s.ctx s.cur
  let x := c.rG a
  genResult s d (f x.val) [x.band, c.band] x.poison

def execGadd (d a b : BitVec 5) (s : State) : Out := .next (genRR s d a b (· + ·))
def execGsub (d a b : BitVec 5) (s : State) : Out := .next (genRR s d a b (· - ·))
def execGand (d a b : BitVec 5) (s : State) : Out := .next (genRR s d a b (· &&& ·))
def execGor (d a b : BitVec 5) (s : State) : Out := .next (genRR s d a b (· ||| ·))
def execGxor (d a b : BitVec 5) (s : State) : Out := .next (genRR s d a b (· ^^^ ·))
def execGshl (d a b : BitVec 5) (s : State) : Out := .next (genRR s d a b shl64)
def execGshr (d a b : BitVec 5) (s : State) : Out := .next (genRR s d a b shr64)
def execGsra (d a b : BitVec 5) (s : State) : Out := .next (genRR s d a b sra64)
def execGmul (d a b : BitVec 5) (s : State) : Out := .next (genRR s d a b (· * ·))
def bit64 (b : Bool) : Word := if b then 1#64 else 0#64
def execGslt (d a b : BitVec 5) (s : State) : Out := .next (genRR s d a b (fun x y => bit64 (ltS x y)))
def execGsltu (d a b : BitVec 5) (s : State) : Out := .next (genRR s d a b (fun x y => bit64 (ltU x y)))
def execGaddi (d a : BitVec 5) (i : BitVec 16) (s : State) : Out := .next (genRI s d a (· + sext64 i))
def execGandi (d a : BitVec 5) (i : BitVec 16) (s : State) : Out := .next (genRI s d a (· &&& zext64 i))
def execGori (d a : BitVec 5) (i : BitVec 16) (s : State) : Out := .next (genRI s d a (· ||| zext64 i))
def execGshli (d a : BitVec 5) (n : BitVec 6) (s : State) : Out := .next (genRI s d a (· <<< n.toNat))
def execGshri (d a : BitVec 5) (n : BitVec 6) (s : State) : Out := .next (genRI s d a (· >>> n.toNat))
/-- `gli` reads no register (R89). -/
def execGli (d : BitVec 5) (i : BitVec 16) (s : State) : Out := .next (genResult s d (sext64 i) [(s.ctx s.cur).band] false)
def execGlih (d a : BitVec 5) (i : BitVec 16) (s : State) : Out := .next (genRI s d a (fun x => (x <<< 16) ||| zext64 i))

/-! ### Branches and jumps (R90) -/

def genBranch (s : State) (a b : BitVec 5) (o : BitVec 16) (f : Word → Word → Bool) : State :=
  let c := s.ctx s.cur
  let x := c.rG a
  let y := c.rG b
  if x.poison || y.poison then genFault s .d40 0#64
  else s.modGen (fun g => { g with gpc := if f x.val y.val then g.gpc + o else g.gpc + 1#16 })

def execGbeq (a b : BitVec 5) (o : BitVec 16) (s : State) : Out := .next (genBranch s a b o (· == ·))
def execGbne (a b : BitVec 5) (o : BitVec 16) (s : State) : Out := .next (genBranch s a b o (· != ·))
def execGblt (a b : BitVec 5) (o : BitVec 16) (s : State) : Out := .next (genBranch s a b o ltS)
def execGbge (a b : BitVec 5) (o : BitVec 16) (s : State) : Out := .next (genBranch s a b o (fun x y => !ltS x y))
def execGbltu (a b : BitVec 5) (o : BitVec 16) (s : State) : Out := .next (genBranch s a b o ltU)
def execGbgeu (a b : BitVec 5) (o : BitVec 16) (s : State) : Out := .next (genBranch s a b o (fun x y => !ltU x y))
def execGj (o : BitVec 21) (s : State) : Out := .next (s.modGen (fun g => { g with gpc := g.gpc + o.setWidth 16 }))
/-- The link register takes the index of the next word, in the context's band. -/
def Gen.link (g : Gen) (d : BitVec 5) (band : Band) (target : BitVec 16) : Gen :=
  { g.setG d ⟨zext64 (g.gpc + 1#16), band, false⟩ with gpc := target }
def execGjal (d : BitVec 5) (o : BitVec 21) (s : State) : Out :=
  .next (s.modGen (fun g => g.link d (s.ctx s.cur).band (g.gpc + o.setWidth 16)))
def execGjr (d a : BitVec 5) (s : State) : Out :=
  let c := s.ctx s.cur
  let x := c.rG a
  .next (if x.poison then genFault s .d40 0#64 else s.modGen (fun g => g.link d c.band (x.val.setWidth 16)))

/-! ### Memory (R91) -/

/-- The spaces that the generator reaches. -/
def spGst : Space → Bool
  | .hbm | .pool | .host => true
  | .cistern _ | .other => false
def spGld : Space → Bool
  | .hbm | .pool => true
  | .cistern _ | .host | .other => false

/-- A `gst` of the context has not completed (R86). -/
def gstOut (c : Ctx) : Bool := c.stq.sb.any (·.gst)
/-- A generator access through a leaf cannot be made yet: maintenance of the context overlaps it (R263), or its data stall (R25,
R403, R412). -/
def genHeld (s : State) (fe : FeId) (l : Leaf) (ea : Word) (write : Bool) : Bool :=
  maintBlocks (s.ctx fe) (s.ctx fe).nextSeq [l.keyOf ea / 64]
  || (!write && (!fabricOpen s fe || stalledRead s (l.keyOf ea)))

/-- Runs f on the leaf of a generator access, or faults, or waits: for an earlier `gst` (R86), a translation or the data. -/
def genAccess (s : State) (x : SReg) (ea : Word) (write : Bool) (f : State → Leaf → State) : State :=
  if gstOut (s.ctx s.cur) then genWait s
  else if x.poison then genFault s .d40 ea
  else if ea.toNat % 8 ≠ 0 then genFault s .p12 ea
  else if isSpm ea then genFault s .t22 ea
  else
    match translate s s.cur .gen ea with
    | .miss => genWait (askLeaf s s.cur .gen ea)
    | .bad c => genFault (s.modCtx s.cur (fun c => c.clearDeny .gen ea)) c ea
    | .ok l =>
      if !(if write then l.w else l.r) || !(if write then spGst else spGld) (l.spaceAt ea) then genFault s .t22 ea
      else if l.page63 ea then genFault s .p09 ea
      else if genHeld s s.cur l ea write then genWait s
      else f s l

/-- `gld`: a strong load at the widest scope of the region's class (R91); it does not see gated bytes (R232), and sees what the gate
has released (R254). -/
def execGld (d a : BitVec 5) (i : BitVec 16) (s : State) : Out :=
  let x := (s.ctx s.cur).rG a
  let ea := x.val + sext64 i
  .next (genAccess s x ea false (fun s l =>
    match mediaFault s s.cur l ea with
    | some f => genFault (mediaTaken s s.cur .gen f.cause ea) f.cause ea
    | none =>
      let c := s.ctx s.cur
      let p : Piece := ⟨0, ea, 8⟩
      let r := memPiece s s.cur .gen (some (widestScope l.cls)) c.stq.sb c.nextSeq p
      let s := noteRead s s.cur .gen true (widestScope l.cls) c.nextSeq [p]
      let s := touchLine s s.cur l (l.keyOf ea)
      s.modGen (fun g => (g.setG d ⟨readWord r, l.band, r.any (·.2.2)⟩).next)))

/-- `gst`: a strong store at the widest scope of the region's class that first releases the gate and completes in the background,
behind what the gate held (R86, R91, R233). -/
def execGst (d a : BitVec 5) (i : BitVec 16) (s : State) : Out :=
  let c := s.ctx s.cur
  let x := c.rG a
  let y := c.rG d
  let ea := x.val + sext64 i
  .next (genAccess s x ea true (fun s l =>
    match storePieceFault l ea y.band y.poison with
    | some f => genFault s f.cause ea
    | none =>
      let k := l.keyOf ea
      let data := (((natBytes y.val.toNat 8).zipIdx).map (fun b => (k + b.2, b.1))).filter (fun b => !l.crcByte b.1)
      let e (n : Nat) : StoreEnt := ⟨n, ea, data, if y.poison then [k / 64] else [], y.band, true, widestScope l.cls, l.cls, true,
        ea - BitVec.ofNat 64 (k % 256), false⟩
      (s.modCtx s.cur (fun c =>
        let c := c.releaseGate
        { c with stq := { c.stq with sb := c.stq.sb ++ [e c.nextSeq] }, nextSeq := c.nextSeq + 1 })).modGen Gen.next))

/-! ### Templates (R93 to R96) -/

/-- The lowest bit and the width of the field that SEL names; none for a reserved SEL. -/
def selField (sel : BitVec 4) : Option (Nat × Nat) :=
  match sel.toNat with
  | 0 => some (42, 6) | 1 => some (36, 6) | 2 => some (30, 6) | 3 => some (24, 6) | 4 => some (20, 4) | 5 => some (32, 4)
  | 6 => some (16, 4) | 7 => some (0, 16) | 8 => some (0, 32) | 9 => some (0, 24) | 10 => some (56, 3) | 11 => some (48, 8)
  | 12 => some (0, 48) | _ => none

/-- A field of an op word replaced by the low bits of v. -/
def putField (w : Word) (lo width : Nat) (v : Word) : Word :=
  let m : Word := (BitVec.ofNat 64 (2 ^ width - 1)) <<< lo
  (w &&& ~~~m) ||| ((v <<< lo) &&& m)

/-- `tld` (R94). -/
def execTld (b : BitVec 3) (a : BitVec 5) (i : BitVec 11) (s : State) : Out :=
  let c := s.ctx s.cur
  let x := c.rG a
  .next (if x.poison then genFault s .d40 0#64
    else
      match fetchPacked s s.cur ((x.val + (sext64 i <<< 3)).setWidth 18) with
      | .error (f, w, addr) => trapG s s.cur f 0#16 w addr
      | .ok g => s.modGen (fun n => (n.setTmpl b ⟨g.words, c.band⟩).next))

/-- Patches a field of word `slot` of a template (R95). -/
def patch (s : State) (b slot : BitVec 3) (sel : BitVec 4) (v : Word) (band : Band) : State :=
  match selField sel with
  | none => genIllegal s
  | some (lo, n) =>
    let t := s.gen.tmpl b
    match bandOf [t.band, band] with
    | none => genFault s .p06 0#64
    | some bd =>
      let w := groupWord t.bits slot.toNat
      let w := if w = 0#64 then slot.setWidth 64 <<< 61 else w
      s.modGen (fun g => (g.setTmpl b ⟨setGroupWord t.bits slot.toNat (putField w lo n v), bd⟩).next)

/-- `tpat` (R95): a reserved SEL is P00 whatever the operand (assumption log 17). -/
def execTpat (b slot : BitVec 3) (fsel : BitVec 4) (a : BitVec 5) (i : BitVec 11) (s : State) : Out :=
  let x := (s.ctx s.cur).rG a
  .next (if (selField fsel).isSome && x.poison then genFault s .d40 0#64 else patch s b slot fsel (x.val + sext64 i) x.band)
/-- `tpati` (R95). -/
def execTpati (b slot : BitVec 3) (fsel : BitVec 4) (i : BitVec 11) (s : State) : Out :=
  .next (patch s b slot fsel (sext64 i) 0#8)

/-- `tclr` of one word (R96). -/
def execTclr (b slot : BitVec 3) (s : State) : Out :=
  .next (s.modGen (fun g => (g.setTmpl b ⟨setGroupWord (g.tmpl b).bits slot.toNat 0#64, (s.ctx s.cur).band⟩).next))
/-- `tclr` of all words (R96). -/
def execTclrAll (b : BitVec 3) (s : State) : Out :=
  .next (s.modGen (fun g => (g.setTmpl b ⟨0#512, (s.ctx s.cur).band⟩).next))

/-! ### Emission (R97 to R101, R108) -/

/-- Mark groups that the Runnel holds. -/
def runnelMarks (g : Gen) : Nat := (g.runnel.filter (fun r => groupMark r.words)).length
/-- The Runnel accepts a group (R99). -/
def runnelRoom (g : Gen) (mark : Bool) : Bool := decide (g.runnel.length < 64) && (!mark || decide (runnelMarks g < 8))
/-- The provenance word (R101). -/
def provWord (g : Gen) (fromr mark : Bool) (saddr : StoreAddr) : Word :=
  (0#8 ++ g.gpc ++ g.eseq ++ BitVec.ofBool fromr ++ BitVec.ofBool mark ++ saddr : BitVec 64)
/-- The generator snapshot as things stand (R108). -/
def Gen.snapshot (g : Gen) : GenSnap := ⟨g.g, g.b, g.gpc, g.eprog, g.eseq, g.popCount⟩

/-- Pushes a group whose instruction goes on by `after`: a mark group carries the snapshot taken then. -/
def Gen.push (g : Gen) (words : BitVec 512) (band : Band) (fromr lead : Bool) (saddr : StoreAddr) (after : Gen → Gen) : Gen :=
  let mark := groupMark words
  let prov := provWord g fromr mark saddr
  let g' := after { g with eseq := g.eseq + 1#20 }
  { g' with runnel := g'.runnel ++ [⟨words, prov, band, if mark then some g'.snapshot else none, lead⟩] }

/-- `emit` and `emitm` (R97). -/
def emitGroup (s : State) (words : BitVec 512) (band : Band) : State :=
  match canonicalFault words with
  | some (c, i) => trapG s s.cur c 0#16 (groupWord words i) 0#64
  | none => if runnelRoom s.gen (groupMark words) then s.modGen (fun g => g.push words band false false 0#18 Gen.next) else genPushStall s

def execEmit (b : BitVec 3) (s : State) : Out := .next (emitGroup s (s.gen.tmpl b).bits (s.gen.tmpl b).band)

/-- The group with MARK on its first word. -/
def markGroup (w : BitVec 512) : BitVec 512 :=
  match groupSlots w with
  | [] => w
  | f :: _ => setGroupWord w f (setMark (groupWord w f))
def execEmitm (b : BitVec 3) (s : State) : Out := .next (emitGroup s (markGroup (s.gen.tmpl b).bits) (s.gen.tmpl b).band)

/-- The end of an `emitr` (R98): gd takes the band of gb, from which its value comes (assumption log 26). -/
def emitrEnd (d : BitVec 5) (n : BitVec 16) (band : Band) (g : Gen) : Gen :=
  ({ g with eprog := zeroEProg }.setG d ⟨zext64 n, band, false⟩).next
/-- The progress of an `emitr` after a group of k words. -/
def emitrStep (k : Nat) (g : Gen) : Gen :=
  { g with eprog := { g.eprog with count := g.eprog.count + 1#16, next := g.eprog.next + BitVec.ofNat 18 (8 * k) } }

/-- Copies groups until n are pushed, a fault stops it or the Runnel is full (R98). -/
def emitrGo (s : State) (d : BitVec 5) (n : BitVec 16) (band : Band) : Nat → State
  | 0 => genPushStall s
  | fuel + 1 =>
    let g := s.gen
    if n.ule g.eprog.count then s.modGen (emitrEnd d n band)
    else
      match fetchPacked s s.cur g.eprog.next with
      | .error (f, w, addr) => trapG s s.cur f 0#16 w addr
      | .ok r =>
        let push (after : Gen → Gen) : State :=
          s.modGen (fun g => g.push r.words (s.ctx s.cur).band true r.lead g.eprog.next after)
        if !runnelRoom g (groupMark r.words) then genPushStall s
        else if g.eprog.count + 1#16 = n then push (emitrEnd d n band)
        else emitrGo (push (emitrStep r.count)) d n band fuel

/-- `emitr` (R98). -/
def execEmitr (d a b : BitVec 5) (s : State) : Out :=
  let c := s.ctx s.cur
  let x := c.rG a
  let y := c.rG b
  .next (if x.poison || y.poison then genFault s .d40 0#64
    else
      let s := if s.gen.eprog.active then s
        else s.modGen (fun g => { g with eprog := ⟨true, 0#16, x.val.setWidth 18⟩ })
      emitrGo s d (y.val.setWidth 16) y.band 65)

/-! ### Waits, special registers, control (R102 to R106) -/

/-- `gwait` (R102): the count takes the context's band (assumption log 26). -/
def execGwait (d a : BitVec 5) (s : State) : Out :=
  let c := s.ctx s.cur
  let x := c.rG a
  .next (if x.poison then genFault s .d40 0#64
    else if min x.val.toNat 64 < c.gen.runnel.length then genWait s
    else s.modGen (fun g => (g.setG d ⟨BitVec.ofNat 64 c.gen.runnel.length, c.band, false⟩).next))

/-- A `grecv` that cannot end (R103): no group of the context is left to post. -/
def recvStarved (c : Ctx) : Bool := c.gen.fifo.isEmpty && c.gen.runnel.isEmpty && c.pend.isEmpty && !c.regs.loop.active

/-- `grecv` (R102, R109): the entry keeps its place until the next snapshot becomes current. -/
def execGrecv (d : BitVec 5) (s : State) : Out :=
  .next (match s.gen.fifo with
    | [] => if recvStarved (s.ctx s.cur) then genFault s .p11 0#64 else genWait s
    | e :: t => s.modGen (fun g =>
        ({ g with fifo := t, popped := g.popped ++ [e], popCount := g.popCount + 1 }.setG d ⟨e.val, e.band, false⟩).next))

/-- `grds` (R104): the value takes the context's band. -/
def execGrds (d : BitVec 5) (n : BitVec 16) (s : State) : Out :=
  .next (match readSr s s.cur n.toNat with
    | none => genIllegal s
    | some v => s.modGen (fun g => (g.setG d ⟨v, (s.ctx s.cur).band, false⟩).next))

/-- Every group pushed so far has issued, a captured nest its last execution too, and every op of them has landed (R104). -/
def groupsDone (c : Ctx) : Bool := c.gen.runnel.isEmpty && c.pend.isEmpty && !c.regs.loop.replaying

/-- `gwrs` (R104): after every earlier group has issued and landed; no further shadow. -/
def execGwrs (a : BitVec 5) (n : BitVec 16) (s : State) : Out :=
  let c := s.ctx s.cur
  let x := c.rG a
  .next (if !srWritable n.toNat then genIllegal s
    else if x.poison then genFault s .d40 0#64
    else if !groupsDone c then genWait s
    else (s.modCtx s.cur (fun c => applyRegWs c (srWrites n.toNat x.val))).modGen Gen.next)

/-- `gtrap` (R105): the record names the `gtrap`, and GPC the next word. -/
def execGtrap (code : BitVec 16) (s : State) : Out :=
  .next ((trapG s s.cur .a60 code 0#64 0#64).modGen Gen.next)

/-- `gend` (R86, R106): after every earlier `gst` has completed. -/
def execGend (s : State) : Out :=
  .next (if gstOut (s.ctx s.cur) then genWait s else s.modGen (fun g => { g.next with stat := .halted }))

/-- ILLEGAL_MILLINER_WORD (R52). -/
def execIllegalMillinerWord (fe : FeId) (w : BitVec 32) (s : State) : Out :=
  .next (trapG s fe .p00 0#16 (w.setWidth 64) (zext64 (gpcAddr (s.ctx fe).gen)))
/-- GENERATOR_FETCH_FAULT (R85). -/
def execGeneratorFetchFault (fe : FeId) (s : State) : Out :=
  .next (trapG s fe .t21 0#16 0#64 (zext64 (gpcAddr (s.ctx fe).gen)))

/-! ### The end of a stall or wait -/

/-- Is the group that a stalled Milliner pushes a mark group (R99). -/
def stalledMark (s : State) (fe : FeId) : Bool :=
  let g := (s.ctx fe).gen
  match genWord s fe with
  | none => false
  | some w =>
    if w.extractLsb' 26 6 = 0x25#6 then true
    else if w.extractLsb' 26 6 = 0x24#6 then groupMark (g.tmpl (w.extractLsb' 23 3)).bits
    else
      match fetchPacked s fe g.eprog.next with
      | .ok r => groupMark r.words
      | .error _ => false

/-- The Milliner executes its instruction again. -/
def genRetry (s : State) (fe : FeId) : State :=
  match genWord s fe with
  | none => s
  | some w =>
    let s := s.modCtx fe (fun c => { c with gen := { c.gen with stat := .running } })
    { s with agenda := .gen fe w :: s.agenda }

/-- RUNNEL_SPACE_RELEASE (R99). -/
def execRunnelSpaceRelease (fe : FeId) (s : State) : Out :=
  .next (if (s.ctx fe).gen.stat = .pushStall ∧ runnelRoom (s.ctx fe).gen (stalledMark s fe) then genRetry s fe else s)

/-- A waiting `gld` or `gst` may be tried again: no earlier `gst` is outstanding, and its translation has come, or was not asked for
since the context came back from an image (R110), and its data no longer stall. -/
def genReady (s : State) (fe : FeId) (ea : Word) (write : Bool) : Bool :=
  let c := s.ctx fe
  !gstOut c && (match translate s fe .gen ea with
    | .miss => !c.asked.contains (.gen, ea.toNat / 4096)
    | .bad _ => true
    | .ok l => !genHeld s fe l ea write)

/-- The condition of a waiting `grecv`, `gwait`, `gwrs`, `gend`, `gld` or `gst` holds. -/
def genWaitOver (s : State) (fe : FeId) : Bool :=
  let c := s.ctx fe
  match genWord s fe with
  | none => false
  | some w =>
    let op := w.extractLsb' 26 6
    if op = 0x29#6 then !c.gen.fifo.isEmpty || recvStarved c
    else if op = 0x28#6 then decide (c.gen.runnel.length ≤ min (c.rG (w.extractLsb' 16 5)).val.toNat 64)
    else if op = 0x2B#6 then groupsDone c
    else if op = 0x2D#6 then !gstOut c
    else genReady s fe ((c.rG (w.extractLsb' 16 5)).val + sext64 (w.extractLsb' 0 16)) (op == 0x1D#6)

/-- MILLINER_WAIT_END (R86, R102, R104, R110). -/
def execMillinerWaitEnd (fe : FeId) (s : State) : Out :=
  .next (if (s.ctx fe).gen.stat = .waitStall ∧ genWaitOver s fe then genRetry s fe else s)

end Sys2Proof.Machine
end

