-- ==== Sys2Proof/Machine/Crypto.lean ====
section
/-! DEFINITION. AES-256 and Galois/Counter Mode, the cipher of sealed objects and images (13_system R378, R388). -/
namespace Sys2Proof.Machine

/-! ### AES-256 -/

/-- Doubling in the field of AES. -/
def xtime (a : Byte) : Byte := (a <<< 1) ^^^ (if a.getLsbD 7 then 0x1B#8 else 0#8)
/-- The product of two elements, over the low n bits of b. -/
def gmulGo (a b : Byte) : Nat → Byte
  | 0 => 0#8
  | n + 1 => (if b.getLsbD 0 then a else 0#8) ^^^ gmulGo (xtime a) (b >>> 1) n
def gmul8 (a b : Byte) : Byte := gmulGo a b 8
/-- The inverse: the 254th power. -/
def ginv8 (a : Byte) : Byte :=
  let a2 := gmul8 a a
  let a4 := gmul8 a2 a2
  let a8 := gmul8 a4 a4
  let a16 := gmul8 a8 a8
  let a32 := gmul8 a16 a16
  let a64 := gmul8 a32 a32
  let a128 := gmul8 a64 a64
  gmul8 a128 (gmul8 a64 (gmul8 a32 (gmul8 a16 (gmul8 a8 (gmul8 a4 a2)))))
/-- The substitution box. -/
def aesSub (a : Byte) : Byte :=
  let b := ginv8 a
  b ^^^ b.rotateLeft 1 ^^^ b.rotateLeft 2 ^^^ b.rotateLeft 3 ^^^ b.rotateLeft 4 ^^^ 0x63#8

def xorBytes (a b : List Byte) : List Byte := List.zipWith (· ^^^ ·) a b
/-- Byte i of a list, 0 beyond its end. -/
def byteAt (l : List Byte) (i : Nat) : Byte := l[i]?.getD 0#8
/-- ShiftRows: column c of row r comes from column c + r. -/
def shiftRows (s : List Byte) : List Byte := (List.range 16).map (fun i => byteAt s ((i + 4 * (i % 4)) % 16))
/-- MixColumns on one column. -/
def mixColumn (a b c d : Byte) : List Byte :=
  [xtime a ^^^ xtime b ^^^ b ^^^ c ^^^ d, a ^^^ xtime b ^^^ xtime c ^^^ c ^^^ d, a ^^^ b ^^^ xtime c ^^^ xtime d ^^^ d,
    xtime a ^^^ a ^^^ b ^^^ c ^^^ xtime d]
def mixColumns (s : List Byte) : List Byte :=
  (List.range 4).flatMap (fun c => mixColumn (byteAt s (4 * c)) (byteAt s (4 * c + 1)) (byteAt s (4 * c + 2)) (byteAt s (4 * c + 3)))

/-- The key schedule: words from number i on, `w` holding the words so far, newest first. -/
def keyWords (w : List (List Byte)) (rcon : Byte) (i : Nat) : Nat → List (List Byte)
  | 0 => w.reverse
  | n + 1 =>
    let t := w.headD []
    let u := w.getD 7 []
    if i % 8 = 0 then
      let r := [aesSub (byteAt t 1) ^^^ rcon, aesSub (byteAt t 2), aesSub (byteAt t 3), aesSub (byteAt t 0)]
      keyWords (xorBytes u r :: w) (xtime rcon) (i + 1) n
    else if i % 8 = 4 then keyWords (xorBytes u (t.map aesSub) :: w) rcon (i + 1) n
    else keyWords (xorBytes u t :: w) rcon (i + 1) n

/-- The big-endian bytes of a number. -/
def beBytes (x : Nat) : Nat → List Byte
  | 0 => []
  | n + 1 => BitVec.ofNat 8 (x / 256 ^ n) :: beBytes x n
/-- The number of big-endian bytes. -/
def beNat (l : List Byte) : Nat := l.foldl (fun a b => 256 * a + b.toNat) 0

/-- The 15 round keys of a 256-bit key, given as its big-endian number. -/
def roundKeys (key : BitVec 256) : List (List Byte) :=
  let k := beBytes key.toNat 32
  let w0 := (List.range 8).map (fun i => (k.drop (4 * i)).take 4)
  let w := keyWords w0.reverse 1#8 8 52
  (List.range 15).map (fun r => ((w.drop (4 * r)).take 4).flatten)

/-- The rounds with the remaining round keys. -/
def aesRounds (s : List Byte) : List (List Byte) → List Byte
  | [] => s
  | [k] => xorBytes (shiftRows (s.map aesSub)) k
  | k :: t => aesRounds (xorBytes (mixColumns (shiftRows (s.map aesSub))) k) t
/-- Encrypts one block. -/
def aesBlock (rk : List (List Byte)) (b : List Byte) : List Byte := aesRounds (xorBytes b (rk.headD [])) rk.tail

/-! ### GCM -/

/-- The product in GF(2^128) with the bit order of GCM: bit 127 is the first bit. -/
def gf128Go (x v : BitVec 128) : Nat → BitVec 128
  | 0 => 0#128
  | n + 1 =>
    (if x.getLsbD n then v else 0#128)
      ^^^ gf128Go x ((v >>> 1) ^^^ (if v.getLsbD 0 then 0xE1000000000000000000000000000000#128 else 0#128)) n
def gf128 (x y : BitVec 128) : BitVec 128 := gf128Go x y 128

/-- Cuts bytes into blocks of 16, the last filled with zeros. -/
def blocks16 (l : List Byte) : List (List Byte) :=
  (List.range ((l.length + 15) / 16)).map (fun i => (List.range 16).map (fun j => byteAt l (16 * i + j)))
/-- GHASH over additional data and ciphertext. -/
def ghash (h : BitVec 128) (aad ct : List Byte) : BitVec 128 :=
  let bs := blocks16 aad ++ blocks16 ct ++ [beBytes (8 * aad.length) 8 ++ beBytes (8 * ct.length) 8]
  bs.foldl (fun y b => gf128 (y ^^^ BitVec.ofNat 128 (beNat b)) h) 0#128
/-- Counter mode from counter n on. -/
def gctr (rk : List (List Byte)) (iv : List Byte) (n : Nat) : List (List Byte) → List Byte
  | [] => []
  | b :: t => xorBytes b (aesBlock rk (iv ++ beBytes n 4)) ++ gctr rk iv (n + 1) t

/-- The tag of a ciphertext. -/
def gcmTag (rk : List (List Byte)) (iv aad ct : List Byte) : List Byte :=
  let h := BitVec.ofNat 128 (beNat (aesBlock rk (List.replicate 16 0#8)))
  xorBytes (beBytes (ghash h aad ct).toNat 16) (aesBlock rk (iv ++ beBytes 1 4))
/-- Ciphertext and tag (R379). -/
def gcmEncrypt (key : BitVec 256) (iv aad plain : List Byte) : List Byte × List Byte :=
  let rk := roundKeys key
  let ct := (gctr rk iv 2 (blocks16 plain)).take plain.length
  (ct, gcmTag rk iv aad ct)
/-- The plaintext, if the tag verifies (R379). -/
def gcmDecrypt (key : BitVec 256) (iv aad ct tag : List Byte) : Option (List Byte) :=
  let rk := roundKeys key
  if gcmTag rk iv aad ct = tag then some ((gctr rk iv 2 (blocks16 ct)).take ct.length) else none

end Sys2Proof.Machine
end

