-- ==== Sys2Proof/Machine/Window.lean ====
section
/-! DEFINITION. The eskip window: engine ops that enter the commit buffer, and how the window resolves (05_scalar R126 to
R128). -/
namespace Sys2Proof.Machine

/-- What an engine op reads when its group issues: A, B, C, the parameter registers and FMT. -/
structure EngArgs where
  a : SReg
  b : SReg
  c : SReg
  m : Vector MReg 8
  fmt : Word

/-- Is the executing group covered by an open eskip window. -/
def windowCovers (s : State) : Bool :=
  match s.issue with
  | some i => i.saved.regs.win.opened && i.saved.regs.win.left != 0#5 && i.commit.isNone
  | none => (s.ctx s.cur).regs.win.opened && (s.ctx s.cur).regs.win.left != 0#5

/-- The entry being committed, if the op comes from the commit buffer. -/
def committing (s : State) : Option EngOp :=
  match s.issue with
  | some i => i.commit
  | none => none

/-- Appends an entry to the commit buffer (R127): P01 above 16; nothing once the window is cancelled. -/
def bufferOp (s : State) (slot : BitVec 3) (x : EngArgs) : State :=
  let w := (s.ctx s.cur).regs.win
  if w.count = 16#5 then opFault s slot .p01 0#64
  else
    let e : EngOp := ⟨slot, s.opWord slot, s.opProv, x.a, x.b, x.c, x.m, x.fmt⟩
    s.modCtx s.cur (fun c => { c with regs := { c.regs with win :=
      { w with count := w.count + 1#5, entries := if w.resolved && !w.committed then [] else w.entries ++ [e] } } })

/-- An op of the M slot, the C slot, or `seal` and `open`: under an eskip window it enters the commit buffer with the
values it read; at its commit it runs on those values (R127). -/
def engineOp (s : State) (slot : BitVec 3) (h : OpHdr) (ok : Bool) (a b c : BitVec 6) (f : EngArgs → State → State) : State :=
  match committing s with
  | some e => f ⟨e.a, e.b, e.c, e.m, e.fmt⟩ s
  | none =>
    guardedOp s slot h ok (fun s =>
      let cx := s.ctx s.cur
      let x : EngArgs := ⟨cx.rS a, cx.rS b, cx.rS c, cx.regs.m, cx.regs.fmt⟩
      if windowCovers s then bufferOp s slot x else f x s)

/-- The window is open in the sense of R128: it has not cancelled, nor committed with every entry entered. -/
def EWin.busy (w : EWin) : Bool := w.opened && !(w.resolved && w.entries.isEmpty)

/-- Closes a window that covers no further group and holds no entry (R127, R128). -/
def EWin.close (w : EWin) : EWin := if w.opened && w.left == 0#5 && w.resolved && w.entries.isEmpty then EWin.reset else w

/-- The window once bit 0 of its predicate has landed (R127): 1 cancels every entry, 0 commits. -/
def EWin.resolve (w : EWin) (p : PReg) : EWin :=
  { w with resolved := true, committed := !p.bits.getLsbD 0, entries := if p.bits.getLsbD 0 then [] else w.entries }.close

/-- Resolves the window of a context when its predicate has landed; a poisoned predicate is D40 of the eskip's group. -/
def resolveWindow (s : State) (fe : FeId) : State :=
  let c := s.ctx fe
  let w := c.regs.win
  if !w.opened || w.resolved || predPending c w.pred w.seq then s
  else if (c.rP w.pred).poison then trapB s fe .d40 1#8 w.prov w.word 0#64
  else s.modCtx fe (fun c => { c with regs := { c.regs with win := w.resolve (c.rP w.pred) } })

end Sys2Proof.Machine
end

