-- ==== Sys2Proof/Machine/Matrix.lean ====
section
/-! DEFINITION. The matrix unit's data: accumulator, region geometry, parameter fields, the frozen-state words, blocks of
operands and the step of one patch (07_matrix R166 to R179, R190, R196, R197, R202). -/
namespace Sys2Proof.Machine

/-! ### Parameter registers (R172 to R178) -/

/-- Bits lo to lo + n − 1 of a word. -/
def bitsOf (w : Word) (lo n : Nat) : Nat := w.toNat / 2 ^ lo % 2 ^ n
/-- A word with n bits from lo on replaced. -/
def setBits (w : Word) (lo n : Nat) (x : Nat) : Word :=
  (w &&& ~~~((BitVec.ofNat 64 (2 ^ n - 1)) <<< lo)) ||| ((BitVec.ofNat 64 (x % 2 ^ n)) <<< lo)

/-- The eight parameter words. -/
abbrev Params := Vector Word 8
def pmW (p : Params) (k : Nat) : Word := p[k]?.getD 0#64
def pmFA (p : Params) : BitVec 4 := (pmW p 0).extractLsb' 0 4
def pmFB (p : Params) : BitVec 4 := (pmW p 0).extractLsb' 4 4
def pmHA (p : Params) : BitVec 4 := (pmW p 0).extractLsb' 8 4
def pmHB (p : Params) : BitVec 4 := (pmW p 0).extractLsb' 12 4
def pmHM (p : Params) : BitVec 4 := (pmW p 0).extractLsb' 16 4
def pmSPN (p : Params) : Nat := bitsOf (pmW p 0) 20 3
def pmKT (p : Params) : Nat := bitsOf (pmW p 0) 24 8
def pmMP (p : Params) : Nat := bitsOf (pmW p 1) 0 4
def pmNP (p : Params) : Nat := bitsOf (pmW p 1) 4 4
def pmKB (p : Params) : Nat := bitsOf (pmW p 1) 32 32
def pmAUB (p : Params) : Nat := bitsOf (pmW p 2) 0 4
def pmSA (p : Params) : BitVec 32 := (pmW p 3).extractLsb' 0 32
def pmSB (p : Params) : BitVec 32 := (pmW p 3).extractLsb' 32 32
def pmDST (p : Params) : Nat := bitsOf (pmW p 4) 0 21
def pmPROG (p : Params) : Nat := bitsOf (pmW p 4) 24 5
def pmPITCH (p : Params) : Nat := bitsOf (pmW p 4) 32 16
def pmRES (p : Params) : Nat := bitsOf (pmW p 5) 0 21
def pmSCL (p : Params) : Nat := bitsOf (pmW p 5) 24 21
def pmRPITCH (p : Params) : Nat := bitsOf (pmW p 5) 48 16
def pmGSZL (p : Params) : Nat := bitsOf (pmW p 6) 0 3
def pmMEMBER (p : Params) : Nat := bitsOf (pmW p 6) 4 4
def pmGRIDR (p : Params) : Nat := bitsOf (pmW p 6) 8 2
def pmTAG (p : Params) : Byte := (pmW p 6).extractLsb' 16 8
def pmFIRST (p : Params) : Nat := bitsOf (pmW p 6) 24 8
def pmFE (p : Params) : BitVec 1 := (pmW p 6).extractLsb' 32 1
/-- The number of K tiles (R173). -/
def pmNKT (p : Params) : Nat := (pmKB p + pmKT p - 1) / pmKT p
/-- The blocks of K tile kt (R173). -/
def pmKTB (p : Params) (kt : Nat) : Nat := min (pmKT p) (pmKB p - kt * pmKT p)

/-- The reserved bits of m0 to m6 are zero (R172 to R178, R183). -/
def pmReservedOk (p : Params) : Bool :=
  bitsOf (pmW p 0) 32 32 == 0 && bitsOf (pmW p 0) 23 1 == 0 && bitsOf (pmW p 1) 8 24 == 0 && bitsOf (pmW p 2) 4 60 == 0
  && bitsOf (pmW p 4) 48 16 == 0 && bitsOf (pmW p 4) 29 3 == 0 && bitsOf (pmW p 4) 21 3 == 0
  && bitsOf (pmW p 5) 45 3 == 0 && bitsOf (pmW p 5) 21 3 == 0
  && bitsOf (pmW p 6) 33 31 == 0 && bitsOf (pmW p 6) 10 6 == 0 && bitsOf (pmW p 6) 3 1 == 0

/-- The grid columns of a cooperative group (R204). -/
def pmGC (p : Params) : Nat := 2 ^ (pmGSZL p - pmGRIDR p)
/-- A member outside grid row 0 (R205). -/
def pmReceiver (p : Params) : Bool := pmGSZL p != 0 && decide (pmGC p ≤ pmMEMBER p)
/-- The front end of member m (R204). -/
def pmMemberFe (p : Params) (m : Nat) : FeId := (BitVec.ofNat 8 (pmFIRST p + m)) ++ pmFE p
/-- The front ends of every member. -/
def pmMembers (p : Params) : List FeId := (List.range (2 ^ pmGSZL p)).map (pmMemberFe p)
/-- The members below a source in its grid column (R205). -/
def pmColumn (p : Params) : List FeId :=
  ((List.range (2 ^ pmGSZL p)).filter (fun m => m != pmMEMBER p && m % pmGC p == pmMEMBER p % pmGC p)).map (pmMemberFe p)

/-- Bytes of the tiles of A, B and metadata (R196). -/
def tileBytesA (p : Params) (d : Nat) : Nat := 128 * pmKT p * d * fmtBits (pmFA p)
def tileBytesB (p : Params) (d : Nat) : Nat :=
  (if pmSPN p = 0 then 256 * pmKT p * d * fmtBits (pmFB p) else 32 * pmSPN p * pmKT p * d * fmtBits (pmFB p))
def tileBytesM (p : Params) : Nat := 64 * pmKT p * ((12 * pmSPN p + 7) / 8)

/-! ### The accumulator (R168, R169) -/

/-- The units of a region (R168). -/
def regionUnits (p : Params) (d : Nat) : Nat := pmMP p * pmNP p * 2 * d
/-- Does the region lie in the share. -/
def regionOk (m : Mat) (p : Params) (d : Nat) : Bool := decide (pmAUB p + regionUnits p d ≤ m.units)
/-- The first accumulator row of a patch. -/
def patchRow (p : Params) (d mi ni : Nat) : Nat := 16 * pmAUB p + (mi * pmNP p + ni) * 32 * d
/-- The key of an element's FP32 word: accumulator row × 64 + lane (R168). -/
def accKey (p : Params) (d mi ni r c t : Nat) : Nat :=
  (patchRow p d mi ni + r * d + (c * d + t) / 64) * 64 + (c * d + t) % 64

def accWord (m : Mat) (k : Nat) : BitVec 32 := mget 0#32 m.acc k
def accRowPoison (m : Mat) (row : Nat) : Bool := mget false m.accPoison row
def unitBand (m : Mat) (u : Nat) : Band := mget 0#8 m.accBand u
/-- Writes FP32 words from a key on. -/
def accPut (acc : List (Nat × BitVec 32)) (k : Nat) : List (BitVec 32) → List (Nat × BitVec 32)
  | [] => acc
  | x :: t => accPut (mset 0#32 acc k x) (k + 1) t
def setUnitBands (m : Mat) (first n : Nat) (b : Band) : Mat :=
  { m with accBand := (List.range n).foldl (fun a i => mset 0#8 a (first + i) b) m.accBand }
def setRowPoison (m : Mat) (first : Nat) (l : List Bool) : Mat :=
  { m with accPoison := (l.zipIdx).foldl (fun a x => mset false a (first + x.2) x.1) m.accPoison }

/-- Sets `n` units to +0, unpoisoned, with a band (R182, R187). -/
def zeroUnits (m : Mat) (first n : Nat) (b : Band) : Mat :=
  setUnitBands { m with acc := pdelRange m.acc (1024 * first) (1024 * n), accPoison := pdelRange m.accPoison (16 * first) (16 * n) } first n b

/-- One element under RSC: its new value, and whether OVF is set (R182). -/
def rescaleWord (rm : Rm) (k : Int) (x : BitVec 32) : BitVec 32 × Bool :=
  match val32 x with
  | .nan => (x, false)
  | .inf n => (if n then max32 ||| 0x80000000#32 else max32, true)
  | v => let c := convert fmtF32 rm true (v.scale k); (BitVec.ofNat 32 c.bits, c.cvovf)

/-- RSC over a region (R182). -/
def rescaleRegion (m : Mat) (rm : Rm) (k : Int) (first n : Nat) : Mat :=
  let hit := m.acc.filter (fun p => decide (1024 * first ≤ p.1 ∧ p.1 < 1024 * (first + n)))
  hit.foldl (fun m p =>
    let y := rescaleWord rm k p.2
    { m with acc := mset 0#32 m.acc p.1 y.1, ovf := m.ovf || y.2 }) m

/-! ### The frozen-state words (R190) -/

def MRun.word (r : MRun) (k : Nat) : Word := r.w[k]?.getD 0#64
def MRun.setWord (r : MRun) (k : Nat) (x : Word) : MRun := { r with w := r.w.setIfInBounds k x }
def MRun.field (r : MRun) (k lo n : Nat) : Nat := bitsOf (r.word k) lo n
def MRun.setField (r : MRun) (k lo n x : Nat) : MRun := r.setWord k (setBits (r.word k) lo n x)
def MRun.params (r : MRun) : Params := Vector.ofFn (fun i : Fin 8 => r.word i.val)
/-- The copied algebra descriptor: words 8 and 9, low word first. -/
def MRun.tab (r : MRun) : BitVec 128 := r.word 9 ++ r.word 8
def MRun.dim (r : MRun) : Nat := algDim r.tab
def MRun.mpc (r : MRun) : Nat := r.field 10 0 12
def MRun.setMpc (r : MRun) (x : Nat) : MRun := r.setField 10 0 12 x
def MRun.rout (r : MRun) : BitVec 6 := BitVec.ofNat 6 (r.field 10 12 6)
def MRun.depth (r : MRun) : Nat := r.field 10 18 3
def MRun.swp (r : MRun) : Bool := r.field 10 21 1 == 1
def MRun.instk (r : MRun) : Bool := r.field 10 22 1 == 1
def MRun.spv (r : MRun) : Bool := r.field 10 23 1 == 1
def MRun.eA (r : MRun) : Nat := r.field 10 24 8
def MRun.eB (r : MRun) : Nat := r.field 10 32 8
def MRun.rm (r : MRun) : Rm := Rm.ofBits (BitVec.ofNat 2 (r.field 10 40 2))
def MRun.stkb (r : MRun) : Nat := r.field 10 42 8
/-- Loop index c_l. -/
def MRun.c (r : MRun) (l : Nat) : Nat := r.field (11 + l / 2) (32 * (l % 2)) 32
def MRun.setC (r : MRun) (l x : Nat) : MRun := r.setField (11 + l / 2) (32 * (l % 2)) 32 x
/-- Loop count n_l. -/
def MRun.n (r : MRun) (l : Nat) : Nat := r.field (16 + l / 2) (32 * (l % 2)) 32
def MRun.setN (r : MRun) (l x : Nat) : MRun := r.setField (16 + l / 2) (32 * (l % 2)) 32 x
/-- Latch k (0 A, 1 B, 2 M): valid, tile, block. -/
def MRun.latValid (r : MRun) (k : Nat) : Bool := r.field 13 (48 + k) 1 == 1
def MRun.latTile (r : MRun) (k : Nat) : Nat := r.field 13 (16 * k) 8
def MRun.latBlock (r : MRun) (k : Nat) : Nat := r.field 13 (16 * k + 8) 8
def MRun.setLatch (r : MRun) (k tile block : Nat) : MRun :=
  ((r.setField 13 (48 + k) 1 1).setField 13 (16 * k) 8 tile).setField 13 (16 * k + 8) 8 block
/-- Tiles of ring k that retirement pops (R200). -/
def MRun.pops (r : MRun) (k : Nat) : Nat := r.field 14 (9 * k) 9
def MRun.setPops (r : MRun) (k x : Nat) : MRun := r.setField 14 (9 * k) 9 x
def MRun.ordinal (r : MRun) : Nat := r.field 14 27 37
def MRun.setOrdinal (r : MRun) (x : Nat) : MRun := r.setField 14 27 37 x
/-- Drain progress: in a patch drain, patch (DMI, DNI), output row, accumulator row, and the DR drain. -/
def MRun.indr (r : MRun) : Bool := r.field 15 32 1 == 1
def MRun.dmi (r : MRun) : Nat := r.field 15 33 3
def MRun.dni (r : MRun) : Nat := r.field 15 36 2
def MRun.drow (r : MRun) : Nat := r.field 15 38 5
def MRun.dj (r : MRun) : Nat := r.field 15 43 2
def MRun.postdr (r : MRun) : Bool := r.field 15 45 1 == 1
/-- Enters a patch drain at a Trimmer run (R190). -/
def MRun.setDrain (r : MRun) (mi ni row j : Nat) : MRun :=
  ((((r.setField 15 32 1 1).setField 15 33 3 mi).setField 15 36 2 ni).setField 15 38 5 row).setField 15 43 2 j

/-- The handle of ring k (0 A, 1 B, 2 M). -/
def MRun.handle (r : MRun) (k : Nat) : BitVec 4 :=
  if k = 0 then pmHA r.params else if k = 1 then pmHB r.params else pmHM r.params

/-- A fresh Trimmer run at a word index (R206). -/
def TRun.fresh (pc : Nat) (band : Band) : TRun :=
  ⟨BitVec.ofNat 9 pc, Vector.replicate 64 0#32, false, 0#32, 0x7F#8, none, 0, band, true⟩
/-- No Trimmer run. -/
def TRun.none : TRun := { TRun.fresh 0 0#8 with active := false }

/-- The run of a command that starts (R190): its words, with no micro-word executed. -/
def MRun.start (cmd : MCmd) (rout mpc : Nat) (swap : Bool) (phase : MPhase) : MRun :=
  let p : Params := cmd.m.map (·.val)
  let r : MRun := ⟨cmd, Vector.ofFn (fun i : Fin 18 => pmW p i.val), phase, TRun.none, cmd.band, 0#16, false, .none, 0,
    .none, .none, .none, false, [], .none, false⟩
  let r := (r.setWord 8 (cmd.tab.extractLsb' 0 64)).setWord 9 (cmd.tab.extractLsb' 64 64)
  let r := ((((r.setMpc mpc).setField 10 12 6 rout).setField 10 21 1 (if swap then 1 else 0)).setField 10 40 2 cmd.rm.toNat)
  r.setField 15 0 32 (pmNKT p)

/-! ### What the unit does to a context -/

/-- The run that executes: an `mdrain` of a frozen context, else the started command (R189). -/
def Mat.active (m : Mat) : Option MRun := m.bypass <|> m.run
def Mat.setActive (m : Mat) (r : MRun) : Mat := if m.bypass.isSome then { m with bypass := some r } else { m with run := some r }
def State.mat (s : State) (fe : FeId) : Mat := (s.ctx fe).eng.mat
def State.modMat (s : State) (fe : FeId) (f : Mat → Mat) : State :=
  s.modCtx fe (fun c => { c with eng := { c.eng with mat := f c.eng.mat } })
def State.setRun (s : State) (fe : FeId) (r : MRun) : State := s.modMat fe (fun m => m.setActive r)
/-- A fault of matrix work (R193, R212): charged to the command's context, which is killed. -/
def mtrap (s : State) (fe : FeId) (r : MRun) (cause : Cause) (word addr : Word) : State :=
  trapEngine s fe cause false false r.cmd.prov word addr 0#64 0#64

/-- Joins bands into the run's result band (R210); the units written so far take it. None for P06. -/
def raiseBand (m : Mat) (r : MRun) (bs : List Band) : Option (Mat × MRun) :=
  match bandOf (r.band :: bs) with
  | none => none
  | some b =>
    let us := (List.range 16).filter (fun u => r.written.getLsbD u)
    some ({ m with accBand := us.foldl (fun a u => mset 0#8 a u b) m.accBand }, { r with band := b })
/-- Marks units as written by the run: they take its band (R169). -/
def markUnits (m : Mat) (r : MRun) (first n : Nat) : Mat × MRun :=
  (setUnitBands m first n r.band,
    { r with written := (List.range n).foldl (fun a i => a ||| (1#16 <<< (first + i))) r.written })

/-! ### Blocks (R196, R202) -/

def spmByte (m : Spm) (o : Nat) : Byte := lineByte (spmLine m (o / 256)).bits (o % 256)
def spmBytePoison (m : Spm) (o : Nat) : Bool := (spmLine m (o / 256)).poison.getLsbD (o % 256 / 64)
/-- The bit string of n bytes (R65). -/
def spmNat (m : Spm) (o n : Nat) : Nat := bytesNat ((List.range n).map (fun i => spmByte m (o + i)))
def spmRangePoison (m : Spm) (o n : Nat) : Bool := (List.range n).any (fun i => spmBytePoison m (o + i))
/-- The lines that n bytes touch. -/
def spmRangeLines (o n : Nat) : List Nat := if n = 0 then [] else (List.range ((o + n - 1) / 256 - o / 256 + 1)).map (· + o / 256)

/-- The shape of the block of latch k: rows, bytes from row to row, bytes of a block in a row. -/
def blockShape (p : Params) (d k : Nat) : Nat × Nat × Nat :=
  if k = 0 then (32, 4 * pmKT p * d * fmtBits (pmFA p), 4 * d * fmtBits (pmFA p))
  else if k = 1 then
    (if pmSPN p = 0 then (64, 4 * pmKT p * d * fmtBits (pmFB p), 4 * d * fmtBits (pmFB p))
     else (64, pmSPN p * pmKT p * d * fmtBits (pmFB p) / 2, pmSPN p * d * fmtBits (pmFB p) / 2))
  else (64, pmKT p * ((12 * pmSPN p + 7) / 8), (12 * pmSPN p + 7) / 8)

/-- The SPM offset of row i of a block, and its bytes. -/
def blockRow (c : Ctx) (p : Params) (d k tile block i : Nat) : Nat × Nat :=
  let h := if k = 0 then pmHA p else if k = 1 then pmHB p else pmHM p
  let r := c.eng.mat.ring h
  let sh := blockShape p d k
  (ringTileOff r (r.head.toNat + tile) + i * sh.2.1 + block * sh.2.2, sh.2.2)
def blockRows (p : Params) (d k : Nat) : Nat := (blockShape p d k).1
/-- The bit strings of the rows of a block. -/
def blockData (c : Ctx) (p : Params) (d k tile block : Nat) : List Nat :=
  (List.range (blockRows p d k)).map (fun i => let o := blockRow c p d k tile block i; spmNat c.engineSpm o.1 o.2)
def blockPoison (c : Ctx) (p : Params) (d k tile block : Nat) : List Bool :=
  (List.range (blockRows p d k)).map (fun i => let o := blockRow c p d k tile block i; spmRangePoison c.engineSpm o.1 o.2)
/-- The lines that a pull reads. -/
def blockLines (c : Ctx) (p : Params) (d k tile block : Nat) : List Nat :=
  ((List.range (blockRows p d k)).flatMap (fun i => let o := blockRow c p d k tile block i; spmRangeLines o.1 o.2)).eraseDups

/-! ### The step of one patch (R74, R75, R197) -/

/-- Element i of width b of a bit string. -/
def elemOf (x b i : Nat) : Nat := x / 2 ^ (b * i) % 2 ^ b
/-- The d components of algebra element e of a row, scaled by 2^(scale − 127), or NaN for the scale 0xFF (R71). -/
def rowElem (f : Fmt) (d scale x e : Nat) : List XV :=
  (List.range d).map (fun t =>
    if scale = 255 then .nan else (f.value (elemOf x f.width (e * d + t))).scale ((scale : Int) - 127))

/-- The K position of stored element (g, n) of a metadata record (R202). -/
def metaPos (rec spn g n : Nat) : Nat := 8 * g + rec / 2 ^ (3 * (g * spn + n)) % 8
/-- The 32 algebra elements of A and B that meet in one column: dense, or by the column's record. -/
def pairElems (d spn : Nat) (fa fb : Fmt) (sa sb arow brow rec : Nat) : List (List XV × List XV) :=
  if spn = 0 then (List.range 32).map (fun e => (rowElem fa d sa arow e, rowElem fb d sb brow e))
  else (List.range 4).flatMap (fun g => (List.range spn).map (fun n =>
    (rowElem fa d sa arow (metaPos rec spn g n), rowElem fb d sb brow (g * spn + n))))

/-- The new value of one output component (R74). -/
def stepElem (tab : BitVec 128) (rm : Rm) (swap : Bool) (t : Nat) (acc : BitVec 32) (ps : List (List XV × List XV)) : BitVec 32 × Bool :=
  groupRound rm (val32 acc :: ps.flatMap (fun p => if swap then algTerms tab t p.2 p.1 else algTerms tab t p.1 p.2))

/-- What the rings hold of a block now. -/
def blockLatch (c : Ctx) (p : Params) (d k tile block : Nat) : Latch :=
  ⟨blockData c p d k tile block, blockPoison c p d k tile block⟩
/-- The contents of latch k (0 A, 1 B, 2 M), as its pull took them (R196). -/
def MRun.latch (r : MRun) (k : Nat) : Latch := (if k = 0 then r.latA else if k = 1 then r.latB else r.latM).getD ⟨[], []⟩
def MRun.putLatch (r : MRun) (k : Nat) (x : Latch) : MRun :=
  if k = 0 then { r with latA := some x } else if k = 1 then { r with latB := some x } else { r with latM := some x }

/-- Does poisoned data feed accumulator row `x` of a patch in this step: A's row of its output row, or the line of a column
that has a component in it (R169). -/
def rowFed (r : MRun) (sparse : Bool) (x : Nat) : Bool :=
  let d := r.dim
  let cols := (List.range 64).filter (fun j =>
    (r.latch 1).poison.getD j false || (sparse && (r.latch 2).poison.getD j false))
  (r.latch 0).poison.getD (x / d) false || cols.any (fun j => (List.range d).any (fun t => (j * d + t) / 64 == x % d))

/-- The scale of an operand: that of the pair, 127 when its format is unscaled (R70). -/
def opScale (code : BitVec 4) (e : Nat) : Nat := if blockScaled code then e else 127

/-- Steps patch (mi, ni) with the latches (R197). -/
def stepPatch (m : Mat) (r : MRun) (mi ni : Nat) : Mat × MRun :=
  let p := r.params
  let d := r.dim
  let fa := (Fmt.ofCode (pmFA p)).getD .e8m0
  let fb := (Fmt.ofCode (pmFB p)).getD .e8m0
  let a := (r.latch 0).rows
  let b := (r.latch 1).rows
  let recs := if pmSPN p = 0 then [] else (r.latch 2).rows
  let tab := r.tab
  let rm := r.rm
  let swap := r.swp
  let sa := opScale (pmFA p) r.eA
  let sb := opScale (pmFB p) r.eB
  let cells := (List.range 32).flatMap (fun i => (List.range 64).flatMap (fun j =>
    let ps := pairElems d (pmSPN p) fa fb sa sb (a.getD i 0) (b.getD j 0) (recs.getD j 0)
    (List.range d).map (fun t =>
      let k := accKey p d mi ni i j t
      (k, stepElem tab rm swap t (accWord m k) ps))))
  let acc := cells.foldl (fun acc x => mset 0#32 acc x.1 x.2.1) m.acc
  let m' := { m with acc := acc, ovf := m.ovf || cells.any (fun x => x.2.2) }
  let all := r.pairPoison && (blockScaled (pmFA p) || blockScaled (pmFB p))
  let rows := (List.range (32 * d)).map (fun x => accRowPoison m (patchRow p d mi ni + x) || all || rowFed r (pmSPN p != 0) x)
  markUnits (setRowPoison m' (patchRow p d mi ni) rows) (r.setField 10 23 1 0) (patchRow p d mi ni / 16) (2 * d)

end Sys2Proof.Machine
end

