-- ==== Sys2Proof/Machine/Basin.lean ====
section
/-! DEFINITION. Signals and basins: their words, the updates, and the home core's evaluation (12_tasks R335 to R339). -/
namespace Sys2Proof.Machine

/-! ### Signals (R335, R336) -/

/-- A decrement by n that also sets STATUS bits. -/
def signalDec (old : Word) (n : Nat) (status : Byte) : Word :=
  let cnt := old.toNat % 2 ^ 48
  let st : Word := old ||| ((status.setWidth 64) <<< 56)
  let hi : Word := st &&& 0xFFFF000000000000#64
  if n ≤ cnt then hi ||| BitVec.ofNat 64 (cnt - n) else hi ||| 0x0001000000000000#64
/-- A status set: COUNT stays. -/
def signalSet (old : Word) (status : Byte) : Word := old ||| ((status.setWidth 64) <<< 56)
/-- COUNT = 0 or STATUS ≠ 0 (R335). -/
def signalReleased (w : Word) : Bool := w.toNat % 2 ^ 48 == 0 || w.extractLsb' 56 8 != 0#8

/-- The 8-byte word at a key of memory. -/
def State.word8 (s : State) (k : Nat) : Word := BitVec.ofNat 64 (memNat s.mem k 8)
def State.putWord8 (s : State) (k : Nat) (w : Word) : State := { s with mem := memWrites s.mem k (natBytes w.toNat 8) }

/-- A completion decrement or a `sigdec` on the signal at a key (R336, R346): one read-modify-write of an agent, with a release
that the waits on the signal observe (R259). -/
def decSignal (s : State) (agent : Nat) (scope : BitVec 2) (c : Clock) (key : Nat) (w : Word) : State :=
  let s := recordStore s agent scope (Vector.replicate 4 c) none [key]
  (s.putWord8 key w).postSync (syncSignal key) (Clock.join c [(agent, s.stamp)])

/-! ### Basins (R337 to R339) -/

/-- A basin's fields; `rsv` says that a reserved byte is nonzero. -/
structure Basin where
  ph : BitVec 32
  exp : BitVec 16
  rem : BitVec 16
  nxa : BitVec 16
  bytes : BitVec 32
  rsv : Bool
deriving DecidableEq, Repr

/-- The basin at an offset of a window, after every store of the window's context (R337). -/
def readBasin (m : Spm) (o : Nat) : Basin :=
  let m := m.shown
  ⟨BitVec.ofNat 32 (spmNat m o 4), BitVec.ofNat 16 (spmNat m (o + 4) 2), BitVec.ofNat 16 (spmNat m (o + 6) 2),
    BitVec.ofNat 16 (spmNat m (o + 8) 2), BitVec.ofNat 32 (spmNat m (o + 12) 4),
    spmNat m (o + 10) 2 != 0 || spmNat m (o + 16) 16 != 0⟩
/-- Writes a basin's fields, after every store of the window's context; the line keeps its band, and the reserved bytes stay
(R252, R337). -/
def writeBasin (m : Spm) (o : Nat) (b : Basin) : Spm :=
  let l := spmLine m (o / 256)
  let bytes := (natBytes b.ph.toNat 4 ++ natBytes b.exp.toNat 2 ++ natBytes b.rem.toNat 2 ++ natBytes b.nxa.toNat 2).zipIdx
    ++ (natBytes b.bytes.toNat 4).zipIdx.map (fun x => (x.1, 12 + x.2))
  let l' := { l with bits := setLineBytes l.bits (bytes.map (fun x => (o % 256 + x.2, x.1))) }
  { m with lines := mset zeroSpmLine m.lines (o / 256) l', stores := m.stores.map (·.passed (bytes.map (fun x => (o + x.2, x.1, false)))) }

/-- The well-formedness of R337. -/
def Basin.ok (b : Basin) : Bool := b.exp != 0#16 && b.rem.ule b.exp && b.nxa.ule b.exp && !b.rsv
/-- The evaluation at the start of a cycle (R338): phase PH completes when REM = 0 and BYTES = 0. -/
def Basin.eval (b : Basin) : Basin :=
  if b.rem == 0#16 && b.bytes == 0#32 then { b with ph := b.ph + 1#32, rem := b.exp - b.nxa, nxa := 0#16 } else b
/-- An update (R339); none for an NXA overflow. -/
def Basin.update (b : Basin) : BasinUp → Option Basin
  | .arrive =>
    if b.rem != 0#16 then some { b with rem := b.rem - 1#16 }
    else if b.nxa.ult b.exp then some { b with nxa := b.nxa + 1#16 } else none
  | .expect n => some { b with bytes := b.bytes + n }
  | .charge n => some { b with bytes := b.bytes - n }

/-- An effective address of the peer aperture (R275). -/
def isPeer (ea : Word) : Bool := decide (0xFFFFFFFFFC000000 ≤ ea.toNat ∧ ea.toNat < 0xFFFFFFFFFE000000)
/-- The front end that a peer address names (R275). -/
def peerFe (fe : FeId) (ea : Word) : FeId := (fe.extractLsb' 4 5 ++ ea.extractLsb' 21 3 ++ ea.extractLsb' 24 1 : BitVec 9)
/-- A context that is bound (R22). -/
def isBound (c : Ctx) : Bool :=
  match c.life with
  | .bound | .running | .stopped => true
  | .unbound | .rinsing => false
/-- The home of an own or peer aperture address. -/
def apertureHome (fe : FeId) (ea : Word) : FeId := if isPeer ea then peerFe fe ea else fe
/-- The home is a bound context of the issuer's task, and n bytes at the offset lie in its window (R275). -/
def peerOk (s : State) (fe : FeId) (ea : Word) (n : Nat) : Bool :=
  let h := apertureHome fe ea
  isBound (s.ctx h) && (s.ctx h).ident.task == (s.ctx fe).ident.task && decide (spmOff ea + n ≤ (s.ctx h).spm.size)

/-- The check of a basin address at issue (R340, R344). -/
def basinAddrFault (s : State) (fe : FeId) (ea : Word) : Option Cause :=
  if !isSpm ea && !isPeer ea then some .p09
  else if ea.toNat % 32 ≠ 0 then some .p12
  else if !peerOk s fe ea 32 then some .p10
  else none

/-- The checks of the home core (R337). -/
def basinFault (s : State) (src home : FeId) (o : Nat) : Option Cause :=
  let l := spmLine (s.ctx home).spm.shown (o / 256)
  let t := (s.ctx src).ident.tenant.toNat
  if !(readBasin (s.ctx home).spm o).ok then some .p10
  else if t ≠ 0 ∧ bandTenant l.band ≠ t then some .p06
  else if l.form then some .p07
  else none

def setBasin (s : State) (home : FeId) (o : Nat) (b : Basin) : State :=
  s.modCtx home (fun c => { c with spm := writeBasin c.spm o b })

/-- Names a basin for the evaluation of each cycle: from the first op, charge or wait that names it (assumption log 77). -/
def State.liveBasin (s : State) (home : FeId) (o : Nat) : State :=
  if s.basinLive.contains (home, o) then s else { s with basinLive := s.basinLive ++ [(home, o)] }

/-- Sends an update (R339, R344). -/
def sendBasin (s : State) (ea : Word) (up : BasinUp) (src : FeId) (prov word : Word) (ch : Option Bool) : State :=
  let h := apertureHome src ea
  let s := s.liveBasin h (spmOff ea)
  { s with basins := s.basins ++ [⟨h, BitVec.ofNat 21 (spmOff ea), up, src, prov, word, ch⟩] }

/-- An engine fault of an update against its issuer (R337, R293). -/
def basinTrap (s : State) (m : BasinMsg) (cause : Cause) : State :=
  if isBound (s.ctx m.src) then trapEngine s m.src cause m.ch.isSome (m.ch.getD false) m.prov m.word 0#64 0#64 0#64 else s

/-- The home core applies an update (R337 to R339): an update that fails a check is not applied. -/
def applyBasin (s : State) (m : BasinMsg) : State :=
  if !isBound (s.ctx m.home) then basinTrap s m .p10
  else
    match basinFault s m.src m.home m.off.toNat with
    | some c => basinTrap s m c
    | none =>
      match (readBasin (s.ctx m.home).spm m.off.toNat).update m.up with
      | none => basinTrap s m .p10
      | some b => setBasin s m.home m.off.toNat b

/-- Message idx reaches its home, if no earlier message of its issuer to the same basin is on its way (R344). -/
def arriveBasin (s : State) (idx : Nat) (want : BasinUp → Bool) : State :=
  match s.basins[idx]? with
  | none => s
  | some m =>
    if want m.up && (s.basins.take idx).all (fun x => !(x.src == m.src && x.home == m.home && x.off == m.off)) then
      applyBasin { s with basins := ldel s.basins idx } m
    else s

def isArrive : BasinUp → Bool
  | .arrive => true
  | .expect _ | .charge _ => false
def isExpect : BasinUp → Bool
  | .expect _ => true
  | .arrive | .charge _ => false
def isCharge : BasinUp → Bool
  | .charge _ => true
  | .arrive | .expect _ => false

/-- BASIN_ARRIVAL (R339). -/
def execBasinArrival (idx : BitVec 16) (s : State) : Out := .next (arriveBasin s idx.toNat isArrive)
/-- BASIN_EXPECTATION (R339). -/
def execBasinExpectation (idx : BitVec 16) (s : State) : Out := .next (arriveBasin s idx.toNat isExpect)
/-- BASIN_CHARGE (R339). -/
def execBasinCharge (idx : BitVec 16) (s : State) : Out := .next (arriveBasin s idx.toNat isCharge)

/-- BASIN_EVALUATE (R338). -/
def execBasinEvaluate (fe : FeId) (off : BitVec 21) (s : State) : Out :=
  let o := off.toNat
  if isBound (s.ctx fe) ∧ o % 32 = 0 ∧ o + 32 ≤ (s.ctx fe).spm.size then
    let b := readBasin (s.ctx fe).spm o
    .next (if b.eval = b then s else setBasin s fe o b.eval)
  else .next s

end Sys2Proof.Machine
end

