-- ==== Sys2Proof/Machine/MatrixOps.lean ====
section
/-! DEFINITION. The M slot and the matrix command queue: the ops, how a command starts, completes, freezes and thaws
(07_matrix R180 to R192). -/
namespace Sys2Proof.Machine

def slotM : BitVec 3 := 3#3
/-- The timeline `tm`. -/
def tlM : BitVec 2 := 2#2

/-! ### Entering the queue (R180, R264) -/

/-- Takes the next number of a timeline. -/
def takeNum (s : State) (fe : FeId) (tl : BitVec 2) : State × Word :=
  let c := s.ctx fe
  let t := vget (⟨0#64, 0#64⟩ : Timeline) c.eng.tl tl
  let n := t.count + 1#64
  (s.setCtx fe { c with eng := { c.eng with tl := vset c.eng.tl tl { t with count := n } } }, n)
/-- Every command of a timeline up to a number has completed. -/
def doneNum (s : State) (fe : FeId) (tl : BitVec 2) (n : Word) : State :=
  s.modCtx fe (fun c =>
    let t := vget (⟨0#64, 0#64⟩ : Timeline) c.eng.tl tl
    { c with eng := { c.eng with tl := vset c.eng.tl tl { t with done := n } } })

/-- The algebra tables as the matrix unit sees them: with every `malg` that has started (R186). -/
def Mat.table (m : Mat) (t : BitVec 2) : BitVec 128 :=
  m.algNew.foldl (fun acc x => if x.2.1 = t then x.2.2 else acc) (vget realAlgebra m.alg t)

/-- The bands of m0 to m7. -/
def paramBands (m : Vector MReg 8) : List Band := m.toList.map (·.band)

/-- A command with what it copies at issue (R182). -/
def mkCmd (s : State) (x : EngArgs) (kind : MKind) (off : Word) (bands : List Band) : MCmd :=
  ⟨s.cur, 0#64, kind, x.m, (s.mat s.cur).table (fmtAlg x.fmt), fmtAlg x.fmt, fmtRm x.fmt, off, (bandOf bands).getD 0#8,
    (bandOf bands).isNone, s.opProv, s.opWord slotM⟩

/-- Queues a command: its group waits while the queue is full, and while saved commands are still to enter it (R191). -/
def queueCmd (s : State) (cmd : MCmd) : State :=
  let k := coreOf s.cur
  if 8 ≤ (s.core k).mq.length ∨ !(s.mat s.cur).saved.isEmpty then opWait s
  else
    let (s, n) := takeNum s s.cur tlM
    let co := s.core k
    s.setCore k { co with mq := co.mq ++ [{ cmd with num := n }] }

/-- The parameters of a command as words. -/
def EngArgs.params (x : EngArgs) : Params := x.m.map (·.val)
/-- The dimension of the table that a command copies. -/
def cmdDim (s : State) (x : EngArgs) : Nat := algDim ((s.mat s.cur).table (fmtAlg x.fmt))

/-! ### `mcall` (R182, R183, R204) -/

/-- The P00 checks of `mcall`. -/
def mcallFieldsOk (s : State) (p : Params) (rsc dr zi : Bool) : Bool :=
  !(zi && rsc) && pmReservedOk p && decide ((pmFA p).toNat ≤ 11) && decide ((pmFB p).toNat ≤ 11)
  && pmKT p != 0 && pmKB p != 0 && pmMP p != 0 && pmNP p != 0 && decide (pmMP p ≤ 8) && decide (pmNP p ≤ 4)
  && decide (pmGRIDR p ≤ pmGSZL p)
  && (!dr || (mget 0#10 (s.core (coreOf s.cur)).ptab (pmPROG p)).getLsbD 9)

/-- A ring that a routine may use, with tiles of at least n bytes. -/
def ringUsable (m : Mat) (hnd : BitVec 4) (n : Nat) : Bool :=
  (m.ring hnd).valid && decide (n ≤ (m.ring hnd).tsz.toNat * 256)

/-- The P10 checks of `mcall` (R183, R204). -/
def mcallPlacesOk (s : State) (fe : FeId) (p : Params) (d : Nat) : Bool :=
  let m := s.mat fe
  ringUsable m (pmHA p) (tileBytesA p d)
  && (pmReceiver p || (ringUsable m (pmHB p) (tileBytesB p d) && (pmSPN p == 0 || ringUsable m (pmHM p) (tileBytesM p))))
  && regionOk m p d
  && (pmGSZL p == 0 || (decide (pmGSZL p ≤ 4) && pmFIRST p % 2 ^ pmGSZL p == 0 && decide (pmMEMBER p < 2 ^ pmGSZL p)
      && decide (pmFIRST p + pmMEMBER p = coreOf fe) && pmFE p == fe.extractLsb' 0 1))

/-- DST and PITCH are multiples of 4 (R176, R183). -/
def drainAligned (p : Params) : Bool := pmDST p % 4 == 0 && pmPITCH p % 4 == 0

/-- `mcall` (R182, R183). Its checks use the table that the matrix unit holds at issue: a `malg` that is queued and has not
started has named no other yet. The places are checked again at the start, with the table that the command then has (R186, R212;
assumption log 74). -/
def execMcall (h : OpHdr) (a : BitVec 6) (rsc dr zi swap : Bool) (rout : BitVec 6) (s : State) : Out :=
  .next (reservedZero s slotM (rsc || a == 0#6) (engineOp s slotM h (!(zi && rsc)) a 0#6 0#6 (fun x s =>
    let p := x.params
    let d := cmdDim s x
    let k : BitVec 16 := x.a.val.setWidth 16
    let bs := paramBands x.m ++ (if rsc then [x.a.band] else [])
    if !mcallFieldsOk s p rsc dr zi then opFault s slotM .p00 0#64
    else if rsc && x.a.poison then opFault s slotM .d40 0#64
    else if dr && !drainAligned p then opFault s slotM .p12 0#64
    else if !mcallPlacesOk s s.cur p d then opFault s slotM .p10 0#64
    else queueCmd s (mkCmd s x (.call (BitVec.ofBool rsc ++ BitVec.ofBool dr ++ BitVec.ofBool zi ++ BitVec.ofBool swap) rout k) 0#64 bs))))

/-! ### Parameter registers (R184, R185) -/

/-- `mset` (R184): lands in 1 beat. -/
def execMset (h : OpHdr) (d : BitVec 3) (a : BitVec 6) (s : State) : Out :=
  .next (engineOp s slotM h true a 0#6 0#6 (fun x s =>
    if x.a.poison then opFault s slotM .d40 0#64 else landRegs s slotM 1 [.m d ⟨x.a.val, x.a.band⟩]))

/-- `mget` (R184). -/
def execMget (h : OpHdr) (d : BitVec 6) (a : BitVec 3) (s : State) : Out :=
  .next (engineOp s slotM h true 0#6 0#6 0#6 (fun x s =>
    let m := vget zeroMReg x.m a
    landRegs s slotM 1 [.s d ⟨m.val, m.band, false⟩]))

/-- `mset.rs` (R184, R190): P01 unless frozen; a word that is written while no routine is held stays readable until the thaw. -/
def execMsetRs (h : OpHdr) (a : BitVec 6) (k : BitVec 5) (s : State) : Out :=
  .next (engineOp s slotM h (decide (k.toNat ≤ 17)) a 0#6 0#6 (fun x s =>
    let m := s.mat s.cur
    if !m.frozen then opFault s slotM .p01 0#64
    else if x.a.poison then opFault s slotM .d40 0#64
    else
      match m.run with
      | none => s.modMat s.cur (fun m => { m with rs := pset m.rs k.toNat ⟨x.a.val, x.a.band⟩ })
      | some r =>
        match raiseBand m (r.setWord k.toNat x.a.val) [x.a.band] with
        | none => opFault s slotM .p06 0#64
        | some (m', r') => s.modMat s.cur (fun _ => { m' with run := some r' })))

/-- `mget.rs` (R184, R190): lands in 1 beat; without a held routine a word that no `mset.rs` wrote is not given (a free
value). -/
def execMgetRs (h : OpHdr) (d : BitVec 6) (k : BitVec 5) (s : State) : Out :=
  .next (engineOp s slotM h (decide (k.toNat ≤ 17)) 0#6 0#6 0#6 (fun _ s =>
    let m := s.mat s.cur
    if !m.frozen then opFault s slotM .p01 0#64
    else
      match m.run, pget m.rs k.toNat with
      | none, some x => landRegs s slotM 1 [.s d ⟨x.val, x.band, false⟩]
      | none, none => landRegs { s with fresh := s.fresh + 1 } slotM 1 [.s d ⟨Config.freeWord s.fresh, (s.ctx s.cur).band, false⟩]
      | some r, _ => landRegs s slotM 1 [.s d ⟨r.word k.toNat, r.band, false⟩]))

/-- `mload` (R185): as `ld`, for a 64-byte parameter block. -/
def execMload (h : OpHdr) (base : BitVec 6) (size : BitVec 3) (kind : Bool) (scope : BitVec 2) (off : BitVec 24) (s : State) : Out :=
  .next (engineOp s slotM h (size == 6#3) base 0#6 0#6 (fun x s =>
    loadAt s slotM .mregs x.a (effAddr x.a.val off) 64 kind scope))

/-! ### The other queued commands (R186 to R188) -/

/-- `malg` (R186): the alignment of its address is checked at its start (R212). -/
def execMalg (h : OpHdr) (d : BitVec 2) (a : BitVec 6) (s : State) : Out :=
  .next (engineOp s slotM h true a 0#6 0#6 (fun x s =>
    if x.a.poison then opFault s slotM .d40 x.a.val
    else queueCmd s (mkCmd s x (.alg d) x.a.val [x.a.band])))

/-- The start of a command that moves no Trimmer data: zero, raw copy, fill, row load, algebra (R186 to R188). -/
inductive CmdOut where
  | ok (m : Mat) (spm : Spm)
  | fault (c : Cause) (addr : Word)

/-- `mzero` and a ZI start (R182, R187). -/
def zeroCmd (c : Ctx) (cmd : MCmd) : CmdOut :=
  let p : Params := cmd.m.map (·.val)
  if !regionOk c.eng.mat p (algDim cmd.tab) then .fault .p10 0#64
  else .ok (zeroUnits c.eng.mat (pmAUB p) (regionUnits p (algDim cmd.tab)) c.band) c.spm

/-- The bytes of a region, in order, with the poison of their rows (R188). -/
def regionBytes (m : Mat) (first n : Nat) (off : Nat) : SpmBytes :=
  (List.range (16 * n)).flatMap (fun r =>
    (List.range 64).flatMap (fun l =>
      ((natBytes (accWord m ((16 * first + r) * 64 + l)).toNat 4).zipIdx).map (fun x =>
        (off + 256 * r + 4 * l + x.2, x.1, accRowPoison m (16 * first + r)))))

/-- Does an engine's write meet another tenant's line (R216). -/
def engineTenantBad (m : Spm) (band : Band) (l : SpmBytes) : Bool :=
  (linesOf l).any (fun k => bandConflict band (spmLine m k).band)

/-- What stops `mdrain.raw` and `mfill` at their start: a misaligned offset, a range beyond the window, an invalid region
(R188, R212). -/
def rangeFault (c : Ctx) (cmd : MCmd) : Option Cause :=
  let p : Params := cmd.m.map (·.val)
  let d := algDim cmd.tab
  if cmd.off.toNat % 256 ≠ 0 then some .p12
  else if c.spm.size < cmd.off.toNat + 4096 * regionUnits p d || !regionOk c.eng.mat p d then some .p10
  else none

/-- `mdrain.raw` (R188): the lines take the bands of the units beside the command's (R210). -/
def rawCmd (c : Ctx) (cmd : MCmd) : CmdOut :=
  let p : Params := cmd.m.map (·.val)
  let n := regionUnits p (algDim cmd.tab)
  let data := regionBytes c.eng.mat (pmAUB p) n cmd.off.toNat
  match rangeFault c cmd, bandOf (cmd.band :: (List.range n).map (fun u => unitBand c.eng.mat (pmAUB p + u))) with
  | some f, _ => .fault f cmd.off
  | none, none => .fault .p06 cmd.off
  | none, some b => if cmd.mixed || engineTenantBad c.spm b data then .fault .p06 cmd.off else .ok c.eng.mat (c.spm.engineWrite b data)

/-- The FP32 words of one 256-byte line. -/
def lineWords (l : SpmLine) : List (BitVec 32) := (List.range 64).map (fun i => l.bits.extractLsb' (32 * i) 32)
/-- Loads accumulator rows from lines. -/
def fillRows (m : Mat) (row : Nat) : List SpmLine → Mat
  | [] => m
  | l :: t => fillRows (setRowPoison { m with acc := accPut m.acc (64 * row) (lineWords l) } row [l.poison != 0#4]) (row + 1) t

/-- `mfill` (R169, R188). -/
def fillCmd (c : Ctx) (cmd : MCmd) : CmdOut :=
  let p : Params := cmd.m.map (·.val)
  let n := regionUnits p (algDim cmd.tab)
  let lines := (List.range (16 * n)).map (fun r => spmLine c.engineSpm (cmd.off.toNat / 256 + r))
  let bands := (List.range n).map (fun u => bandOf (((lines.drop (16 * u)).take 16).map (·.band)))
  if let some f := rangeFault c cmd then .fault f cmd.off
  else if lines.any (·.form) then .fault .p07 cmd.off
  else if bands.any (·.isNone) || (bandOf (lines.map (·.band))).isNone then .fault .p06 cmd.off
  else
    let m := fillRows c.eng.mat (16 * pmAUB p) lines
    .ok ((bands.zipIdx).foldl (fun m x => setUnitBands m (pmAUB p + x.2) 1 (x.1.getD 0#8)) m) c.spm

/-- `tload` (R169, R187). -/
def tloadCmd (c : Ctx) (cmd : MCmd) (row : Nat) : CmdOut :=
  let off := spmOff cmd.off
  let l := spmLine c.engineSpm (off / 256)
  let u := unitBand c.eng.mat (row / 16)
  if off % 256 ≠ 0 then .fault .p12 cmd.off
  else if !isSpm cmd.off || decide (16 * c.eng.mat.units ≤ row) || decide (c.spm.size < off + 256) then .fault .p10 cmd.off
  else if l.form then .fault .p07 cmd.off
  else if bandConflict l.band u then .fault .p06 cmd.off
  else .ok (setUnitBands (fillRows c.eng.mat row [l]) (row / 16) 1 (bandJoin u l.band)) c.spm

/-- `malg` at its start (R79, R186): a vector op sees the table 6 beats later. -/
def algCmd (c : Ctx) (cmd : MCmd) (t : BitVec 2) : CmdOut :=
  let d : BitVec 128 := BitVec.ofNat 128 (spmNat c.engineSpm cmd.off.toNat 16)
  if cmd.off.toNat % 16 ≠ 0 then .fault .p12 cmd.off
  else if c.spm.size < cmd.off.toNat + 16 then .fault .p10 cmd.off
  else if (spmLine c.engineSpm (cmd.off.toNat / 256)).form then .fault .p07 cmd.off
  else if !algLegal d then .fault .p00 cmd.off
  else .ok { c.eng.mat with algNew := c.eng.mat.algNew ++ [(c.beat + 6, t, d)] } c.spm

/-- The whole effect of a command that needs no words. -/
def plainCmd (c : Ctx) (cmd : MCmd) : CmdOut :=
  match cmd.kind with
  | .zero => zeroCmd c cmd
  | .drainRaw => rawCmd c cmd
  | .fill => fillCmd c cmd
  | .tload row => tloadCmd c cmd row.toNat
  | .alg t => algCmd c cmd t
  | .call _ _ _ | .drain => .ok c.eng.mat c.spm

def Ctx.withMat (c : Ctx) (m : Mat) (spm : Spm) : Ctx := { c with eng := { c.eng with mat := m }, spm := spm }

/-- A command of a frozen context runs beside the held routine, and the context is frozen until it ends (R189). -/
def bypassRun (s : State) (fe : FeId) (r : MRun) : State :=
  s.modCtx fe (fun c => { c with eng := { c.eng with mat := { c.eng.mat with bypass := some r } }, frz := .mfrozenCmd })

/-- Queues a command, or runs it at once while the context is frozen (R189); its fault there is the command's (R212). -/
def queueOrBypass (s : State) (cmd : MCmd) : State :=
  if (s.mat s.cur).frozen then
    match plainCmd (s.ctx s.cur) cmd with
    | .fault c addr => bypassRun s s.cur { MRun.start cmd 0 0 false .finished with fail := some (c, addr) }
    | .ok m spm => s.modCtx s.cur (fun c => c.withMat m spm)
  else queueCmd s cmd

/-- `mzero` (R187). -/
def execMzero (h : OpHdr) (s : State) : Out :=
  .next (engineOp s slotM h true 0#6 0#6 0#6 (fun x s =>
    queueOrBypass s (mkCmd s x .zero 0#64 [(s.ctx s.cur).band])))

/-- `tload` (R187). -/
def execTload (h : OpHdr) (d base : BitVec 6) (size : BitVec 3) (off : BitVec 24) (s : State) : Out :=
  .next (engineOp s slotM h (size == 7#3) base 0#6 0#6 (fun x s =>
    let ea := effAddr x.a.val off
    if x.a.poison then opFault s slotM .d40 ea
    else queueOrBypass s (mkCmd s x (.tload d) ea [x.a.band])))

/-- `mdrain.raw` (R188). -/
def execMdrainRaw (h : OpHdr) (a : BitVec 6) (s : State) : Out :=
  .next (engineOp s slotM h true a 0#6 0#6 (fun x s =>
    if x.a.poison then opFault s slotM .d40 x.a.val
    else queueOrBypass s (mkCmd s x .drainRaw x.a.val (paramBands x.m))))

/-- `mfill` (R188). -/
def execMfill (h : OpHdr) (a : BitVec 6) (s : State) : Out :=
  .next (engineOp s slotM h true a 0#6 0#6 (fun x s =>
    if x.a.poison then opFault s slotM .d40 x.a.val
    else queueOrBypass s (mkCmd s x .fill x.a.val [x.a.band])))

/-! ### Drains (R182, R188, R206) -/

/-- The entry of a Trimmer program, if it is loaded. -/
def progEntry (s : State) (fe : FeId) (prog : Nat) : Option Nat :=
  let e := mget 0#10 (s.core (coreOf fe)).ptab prog
  if e.getLsbD 9 then some (e.toNat % 512) else none

/-- The cause that stops a drain before its first run: no program, a misaligned DST or PITCH, an invalid region. -/
def drainFault (s : State) (fe : FeId) (p : Params) (d : Nat) : Option Cause :=
  match progEntry s fe (pmPROG p) with
  | none => some .p00
  | some _ => if !drainAligned p then some .p12 else if regionOk (s.mat fe) p d then none else some .p10

/-- Stands at the first Trimmer run of patch (mi, ni). -/
def MRun.enterPatch (r : MRun) (entry mi ni : Nat) : MRun := { r.setDrain mi ni 0 0 with trun := TRun.fresh entry r.band }

/-- Starts to drain every patch of the region. -/
def startDrain (s : State) (fe : FeId) (r : MRun) : State :=
  let p := r.params
  match drainFault s fe p r.dim, progEntry s fe (pmPROG p) with
  | some c, _ => mtrap s fe r c r.cmd.word 0#64
  | none, some e =>
    if pmMP p = 0 ∨ pmNP p = 0 then s.setRun fe { r with phase := .finished }
    else s.setRun fe { r.enterPatch e 0 0 with phase := .drainLoop }
  | none, none => s

/-- The bands of a region's units. -/
def regionBands (m : Mat) (p : Params) (d : Nat) : List Band := (List.range (regionUnits p d)).map (fun u => unitBand m (pmAUB p + u))
/-- The result band of a command that starts: its own and those of its region's units; none for P06 (R210). -/
def startBand (m : Mat) (cmd : MCmd) : Option Band :=
  if cmd.mixed then none else bandOf (cmd.band :: regionBands m (cmd.m.map (·.val)) (algDim cmd.tab))

/-- The run of an `mdrain` at its start, or the cause that stops it (R188, R210, R212). -/
def mdrainRun (s : State) (cmd : MCmd) : Except Cause MRun :=
  match drainFault s cmd.fe (cmd.m.map (·.val)) (algDim cmd.tab), startBand (s.mat cmd.fe) cmd with
  | some c, _ => .error c
  | none, none => .error .p06
  | none, some b => .ok { MRun.start cmd 0 0 false .drainLoop with band := b }

/-- `mdrain` (R188): while the context is frozen it runs beside the held routine and freezes the context until its
writes have landed (R189). -/
def execMdrain (h : OpHdr) (s : State) : Out :=
  .next (engineOp s slotM h true 0#6 0#6 0#6 (fun x s =>
    let cmd := mkCmd s x .drain 0#64 (paramBands x.m)
    if (s.mat s.cur).frozen then
      match mdrainRun s cmd with
      | .error c => bypassRun s s.cur { MRun.start cmd 0 0 false .finished with fail := some (c, 0#64) }
      | .ok r => startDrain (bypassRun s s.cur r) s.cur r
    else queueCmd s cmd))

/-! ### Freeze, thaw, status (R189, R192) -/

/-- `mfreeze` (R189): no effect while frozen. -/
def execMfreeze (h : OpHdr) (s : State) : Out :=
  .next (engineOp s slotM h true 0#6 0#6 0#6 (fun _ s =>
    let m := s.mat s.cur
    if m.frozen then s
    else
      match m.run with
      | none => s.modMat s.cur (fun m => { m with frozen := true })
      | some _ => s.modCtx s.cur (fun c => { c with eng := { c.eng with mat := { c.eng.mat with frozen := true } }, frz := .mfreeze })))

/-- What a command does after its frozen state (R190): word 15 names the Trimmer run of a drain, of the DR drain or an `mdrain`
past the micro-words or of a `drain` word; without a drain the micro-words go on. -/
def MRun.resumePhase (r : MRun) : MPhase :=
  match r.cmd.kind with
  | .call _ _ _ => if !r.postdr then .words else if r.indr then .drainLoop else .finished
  | .drain => if r.indr then .drainLoop else .finished
  | .alg _ | .zero | .drainRaw | .fill | .tload _ => .finished

/-- A held command goes on from its frozen state (R189 to R191): at the Trimmer run that word 15 names, or at its next
micro-word, before which it pulls its valid latches again; what the context wrote to its region while it was frozen joins the
result band (R210). -/
def resumeMatrix (s : State) (fe : FeId) : State :=
  match (s.mat fe).run with
  | none => s
  | some r =>
    if !r.frozen then s
    else
      match raiseBand (s.mat fe) r (regionBands (s.mat fe) r.params r.dim), progEntry s fe (pmPROG r.params) with
      | none, _ => mtrap s fe r .p06 r.cmd.word 0#64
      | some (m, r), e =>
        let r := { r with frozen := false, repull := true, phase := r.resumePhase }
        if r.phase = .finished || !r.indr then s.modMat fe (fun _ => { m with run := some { r with trun := TRun.none } })
        else
          match e with
          | none => mtrap s fe r .p00 r.cmd.word 0#64
          | some e => s.modMat fe (fun _ => { m with run := some { r with trun := TRun.fresh e r.band } })

/-- `mthaw` (R189): the held routine goes on, and the queue. -/
def execMthaw (h : OpHdr) (s : State) : Out :=
  .next (engineOp s slotM h true 0#6 0#6 0#6 (fun _ s =>
    resumeMatrix (s.modMat s.cur (fun m => { m with frozen := false, rs := [] })) s.cur))

/-- `mstat` (R192). -/
def execMstat (h : OpHdr) (d : BitVec 6) (clr : Bool) (s : State) : Out :=
  .next (engineOp s slotM h true 0#6 0#6 0#6 (fun _ s =>
    let v := mstatWord s s.cur
    let s := landRegs s slotM 1 [.s d ⟨v, (s.ctx s.cur).band, false⟩]
    if clr then s.modMat s.cur (fun m => { m with ovf := false, tovf := false, tnan := false }) else s))

/-- A freeze point of a started command: not inside a Trimmer run (R189). -/
def MRun.atFreezePoint (r : MRun) : Bool := r.trun.steps == 0 || !r.trun.active

/-- A context stops its matrix work: for its own `mfreeze`, or because it stops for a save (R189, R191). -/
def wantsFreeze (c : Ctx) : Bool := c.eng.mat.frozen || c.resting

/-- A started command rests at its freeze points: a routine; an `mdrain` only for `mfreeze`, while a save lets it complete; the
other commands have no freeze point (R189, R191). -/
def MRun.holds (r : MRun) (c : Ctx) : Bool :=
  match r.cmd.kind with
  | .call _ _ _ => true
  | .drain => c.eng.mat.frozen
  | .alg _ | .zero | .drainRaw | .fill | .tload _ => false

/-- FREEZE_POINT_REACHED (R189, R191): a routine or drain rests; the other commands run to completion. -/
def execFreezePointReached (fe : FeId) (s : State) : Out :=
  let c := s.ctx fe
  .next (match c.eng.mat.run with
    | none => if c.frz = .mfreeze then s.modCtx fe (fun c => { c with frz := .none }) else s
    | some r =>
      if !wantsFreeze c then s
      else if r.phase = .finished then (if c.frz = .mfreeze then s.modCtx fe (fun c => { c with frz := .none }) else s)
      else if r.atFreezePoint && r.holds c then
        s.modCtx fe (fun c => { c with eng := { c.eng with mat := { c.eng.mat with run := some { r with frozen := true } } },
                                       frz := if c.frz = .mfreeze then .none else c.frz })
      else s)

/-! ### Start and completion (R180, R182, R186, R193) -/

/-- May a context's command start: none of its commands is started, and nothing holds it. -/
def mayStart (s : State) (fe : FeId) : Bool := (s.mat fe).run.isNone && !(s.mat fe).frozen
/-- The first command in queue order that is not passed over (R180). -/
def nextCmd (s : State) (q : List MCmd) : Option MCmd :=
  match q.find? (fun m => !wantsFreeze (s.ctx m.fe)) with
  | none => none
  | some m => if mayStart s m.fe then some m else none

/-- Removes a command from its core's queue. -/
def dequeue (s : State) (k : Nat) (cmd : MCmd) : State :=
  let co := s.core k
  s.setCore k { co with mq := co.mq.filter (fun m => !(m.fe == cmd.fe && m.num == cmd.num)) }

/-- A command takes a table that was loaded after its issue. -/
def MCmd.takeTable (m : MCmd) (fe : FeId) (t : BitVec 2) (d : BitVec 128) : MCmd :=
  if m.fe == fe && m.ai == t then { m with tab := d } else m
/-- A table that `malg` loads reaches the context's later commands that select it (R186): every kind of them, so that the
region of an `mdrain`, `mfill` or `mzero` has the same d as that of an `mcall` beside it (R188 says only that d is that of
FMT.ALG at issue; assumption log 74). Commands that a save took out of the queue take it too. -/
def giveTable (s : State) (k : Nat) (fe : FeId) (t : BitVec 2) (d : BitVec 128) : State :=
  let co := s.core k
  (s.setCore k { co with mq := co.mq.map (·.takeTable fe t d) }).modMat fe (fun m => { m with saved := m.saved.map (·.takeTable fe t d) })

/-- The start of a routine (R182, R193, R210): ZI, RSC, its entry, and the bands of its region. -/
def startCall (s : State) (cmd : MCmd) (flags : BitVec 4) (rout : BitVec 6) (k : BitVec 16) : State :=
  let fe := cmd.fe
  let c := s.ctx fe
  let p : Params := cmd.m.map (·.val)
  let d := algDim cmd.tab
  let n := regionUnits p d
  let e := mget 0#13 (s.core (coreOf fe)).rtab rout.toNat
  let r := MRun.start cmd rout.toNat (e.toNat % 4096) (flags.getLsbD 0) .words
  if !e.getLsbD 12 then mtrap s fe r .p00 cmd.word 0#64
  else if !mcallPlacesOk s fe p d then mtrap s fe r .p10 cmd.word 0#64
  else
    let m := if flags.getLsbD 1 then zeroUnits c.eng.mat (pmAUB p) n c.band else c.eng.mat
    match startBand m cmd with
    | none => mtrap s fe r .p06 cmd.word 0#64
    | some b =>
      let r := { r with band := b }
      let mr := if flags.getLsbD 3 then markUnits (rescaleRegion m (Rm.ofBits cmd.rm) k.toInt (pmAUB p) n) r (pmAUB p) n else (m, r)
      s.modMat fe (fun _ => { mr.1 with run := some mr.2 })

/-- The start of `mdrain` (R188). -/
def startMdrain (s : State) (cmd : MCmd) : State :=
  match mdrainRun s cmd with
  | .error c => mtrap s cmd.fe (MRun.start cmd 0 0 false .drainLoop) c cmd.word 0#64
  | .ok r => startDrain (s.modMat cmd.fe (fun m => { m with run := some r })) cmd.fe r

/-- The start of any other command: its whole effect; it completes once its writes have landed. -/
def startPlain (s : State) (cmd : MCmd) : State :=
  let r := MRun.start cmd 0 0 false .finished
  match plainCmd (s.ctx cmd.fe) cmd with
  | .fault c addr => mtrap s cmd.fe r c cmd.word addr
  | .ok m spm => s.modCtx cmd.fe (fun c => c.withMat { m with run := some r } spm)

/-- Saved commands of a context that runs again re-enter the queue in number order, as entries free (R191). -/
def refillQueue (s : State) (fe : FeId) : State :=
  let k := coreOf fe
  let m := s.mat fe
  let n := 8 - (s.core k).mq.length
  if m.saved.isEmpty || (s.ctx fe).life != .running then s
  else (s.setCore k { s.core k with mq := (s.core k).mq ++ m.saved.take n }).modMat fe (fun m => { m with saved := m.saved.drop n })

/-- MATRIX_COMMAND_START (R180); no command starts before the Crown's held writes have been applied (R269). -/
def execMatrixCommandStart (core : CoreId) (s : State) : Out :=
  let k := core.toNat
  let s := refillQueue (refillQueue s (feA core)) (feB core)
  .next (match if (s.core k).held.isEmpty then nextCmd s (s.core k).mq else none with
    | none => s
    | some cmd =>
      let s := dequeue s k cmd
      match cmd.kind with
      | .call flags rout sh => startCall s cmd flags rout sh
      | .drain => startMdrain s cmd
      | .alg t =>
        let s' := startPlain s cmd
        match (s'.mat cmd.fe).algNew.getLast? with
        | some x => if (s'.mat cmd.fe).run.isSome then giveTable s' k cmd.fe t x.2.2 else s'
        | none => s'
      | .zero | .drainRaw | .fill | .tload _ => startPlain s cmd)

/-- The SPM lines that a command wrote take its result band, whatever raised it after the write (R210); a line that another
tenant's data has reached since keeps its own. -/
def Spm.joinBands (m : Spm) (b : Band) (l : List Nat) : Spm :=
  { m with lines := l.foldl (fun ls k =>
      let x := mget zeroSpmLine ls k
      if bandConflict x.band b then ls else mset zeroSpmLine ls k { x with band := bandJoin x.band b }) m.lines }

/-- The context without its finished command. -/
def Ctx.endRun (c : Ctx) (r : MRun) : Ctx := { c with spm := c.spm.joinBands r.band r.outLines }

/-- A finished command of one context completes (R180, R189); one of a frozen context may end with its fault (R212). -/
def completeCmd (s : State) (fe : FeId) : State :=
  let m := s.mat fe
  match m.bypass with
  | some r =>
    if r.phase = .finished then
      match r.fail with
      | some (c, addr) => mtrap s fe r c r.cmd.word addr
      | none =>
        s.modCtx fe (fun c => { c.endRun r with eng := { c.eng with mat := { c.eng.mat with bypass := none } },
                                                frz := if c.frz = .mfrozenCmd then .none else c.frz })
    else s
  | none =>
    match m.run with
    | some r =>
      if r.phase = .finished then
        doneNum ((s.modMat fe (fun m => { m with run := none })).modCtx fe (fun c => c.endRun r)) fe tlM r.cmd.num
      else s
    | none => s

/-- MATRIX_COMMAND_COMPLETE (R180): for both contexts of the core. -/
def execMatrixCommandComplete (core : CoreId) (s : State) : Out :=
  .next (completeCmd (completeCmd s (feA core)) (feB core))

end Sys2Proof.Machine
end

