-- ==== Sys2Proof/Machine/Weir.lean ====
section
/-! DEFINITION. The weir: segment loads, locks, lookups and the Crown's writes (11_attention R303 to R310). -/
namespace Sys2Proof.Machine

def slotX : BitVec 3 := 7#3

/-- An illegal weir entry (R303). -/
def weirIllegal (e : Word) : Bool :=
  e.extractLsb' 60 4 != 0#4 || e.extractLsb' 2 10 != 0#10
  || (e.getLsbD 0 && (e.extractLsb' 13 5 == 31#5 || !(e.extractLsb' 56 4 == 0#4 || e.extractLsb' 56 4 == 15#4)))

def Engines.seg (e : Engines) (n : Nat) : WeirSeg := e.weir[n]?.getD (WeirSeg.init 0#8)
def Engines.setSeg (e : Engines) (n : Nat) (g : WeirSeg) : Engines := { e with weir := e.weir.setIfInBounds n g }
def WeirSeg.entry (g : WeirSeg) (e : Nat) : Word := mget 0#64 g.ents e
def WeirSeg.entryPoison (g : WeirSeg) (e : Nat) : Bool := mget false g.ep e

def State.modWeir (s : State) (n : Nat) (f : WeirSeg → WeirSeg) : State :=
  s.modCtx s.cur (fun c => { c with eng := c.eng.setSeg n (f (c.eng.seg n)) })

/-- The lowest-numbered segment of the share that maps a block, from segment n on (R304). -/
def findSeg (e : Engines) (slot blkh : Byte) (n : Nat) : Nat → Option WeirSeg
  | 0 => none
  | k + 1 =>
    let g := e.seg n
    if n < e.weirSegs ∧ g.valid = true ∧ g.slot = slot ∧ g.blkh = blkh then some g else findSeg e slot blkh (n + 1) k

/-- A lookup of token position p in a slot (R304): the entry, its poison and the segment's band; none is P02. -/
def weirLookup (e : Engines) (slot : Byte) (p : Nat) : Option (Word × Bool × Band) :=
  match findSeg e slot (BitVec.ofNat 8 (p / 32 / 256)) 0 16 with
  | none => none
  | some g =>
    let k := p / 32 % 256
    if (g.entry k).getLsbD 0 then some (g.entry k, g.entryPoison k, g.band) else none

/-- The page address of an entry (R303). -/
def entryPage (e : Word) : Word := sext64 (e.extractLsb' 12 48 ++ 0#12 : BitVec 60)

/-- The entries of a segment image, with the poison of their bytes. -/
def imageEntries (d : ReadData) : List (Nat × Word × Bool) :=
  (List.range 256).map (fun e =>
    let b := (d.bytes.drop (8 * e)).take 8
    (e, BitVec.ofNat 64 (bytesNat (b.map (·.2.1))), b.any (·.2.2)))

/-- Replaces a segment by an image (R307); P00 for an illegal entry, P06 for two tenants. -/
def loadSegment (s : State) (seg : Nat) (ea tag : Word) (d : ReadData) : State :=
  let es := imageEntries d
  match bandOf d.bands with
  | none => opFault s slotX .p06 ea
  | some b =>
    if es.any (fun e => weirIllegal e.2.1) then opFault s slotX .p00 ea
    else s.modWeir seg (fun g =>
      { ents := es.foldl (fun m e => mset 0#64 m e.1 e.2.1) [], ep := es.foldl (fun m e => mset false m e.1 e.2.2) [],
        slot := tag.extractLsb' 16 8, blkh := tag.extractLsb' 8 8, valid := true, locked := g.locked, band := b })

/-- `wld` (R307): the segment changes in one step, with what memory holds when the group issues. -/
def execWld (h : OpHdr) (a b : BitVec 6) (seg : BitVec 4) (s : State) : Out :=
  .next (guardedOp s slotX h true (fun s =>
    let c := s.ctx s.cur
    let x := c.rS a
    let t := c.rS b
    let ps := cutPieces 0 x.val 2048 33
    if t.val.extractLsb' 24 40 != 0#40 || t.val.extractLsb' 0 8 != 0#8 then opFault s slotX .p00 x.val
    else if x.poison || t.poison then opFault s slotX .d40 x.val
    else if x.val.toNat % 64 ≠ 0 then opFault s slotX .p12 x.val
    else if c.eng.weirSegs ≤ seg.toNat || (c.eng.seg seg.toNat).locked then opFault s slotX .p10 x.val
    else if isSpm x.val then
      if readsShadow c ps then opFault s slotX .a62 0#64
      else
        match readSpm c.spm ps with
        | .error f => accFault s slotX f
        | .ok d => loadSegment s seg.toNat x.val t.val d
    else if !mayRead s s.cur c.nextSeq false ps then opWait s
    else
      match readMem s s.cur .core false 0#2 spLoad c.ownStores c.nextSeq ps with
      | .miss ea => opMiss s ea false
      | .fault f => accFault s slotX f
      | .ok d => loadSegment (lsqTouch s false 0#2 ps) seg.toNat x.val t.val d))

/-- Sets LOCK of a segment of the share (R306, R308). -/
def setLock (s : State) (h : OpHdr) (seg : BitVec 4) (v : Bool) : State :=
  guardedOp s slotX h true (fun s =>
    if (s.ctx s.cur).eng.weirSegs ≤ seg.toNat then opFault s slotX .p10 0#64
    else s.modWeir seg.toNat (fun g => { g with locked := v }))

def execWlock (h : OpHdr) (seg : BitVec 4) (s : State) : Out := .next (setLock s h seg true)
def execWunlk (h : OpHdr) (seg : BitVec 4) (s : State) : Out := .next (setLock s h seg false)

/-- The value of `wx` (R309). -/
def wxValue (mode : BitVec 2) (entry : Word) (p : Nat) : Word :=
  let page := entryPage entry
  if mode = 0#2 then page + BitVec.ofNat 64 (p % 32 * 128)
  else if mode = 1#2 then
    page - BitVec.ofNat 64 (page.toNat % 2 ^ 18) + 0x3E000#64 + BitVec.ofNat 64 (64 * (page.toNat / 4096 % 64))
  else entry

/-- `wx` (R309): lands 3 beats after issue. -/
def execWx (h : OpHdr) (d a : BitVec 6) (mode : BitVec 2) (s : State) : Out :=
  .next (guardedOp s slotX h (mode != 3#2) (fun s =>
    let c := s.ctx s.cur
    let x := c.rS a
    let p := x.val.toNat % 2 ^ 21
    if x.val.extractLsb' 21 35 != 0#35 then opFault s slotX .p00 0#64
    else if x.poison then opFault s slotX .d40 0#64
    else
      match weirLookup c.eng (x.val.extractLsb' 56 8) p with
      | none => opFault s slotX .p02 0#64
      | some (e, pz, band) =>
        match bandOf [x.band, band] with
        | none => opFault s slotX .p06 0#64
        | some b => landRegs s slotX 3 [.s d ⟨wxValue mode e p, b, pz⟩]))

/-! ### The Crown's writes (R305) -/

/-- The owner of a core's physical segment, and the segment's number in its share (assumption log 20). -/
def segOwner (s : State) (core : CoreId) (n : Nat) : Option (FeId × Nat) :=
  let wa := (s.ctx (feA core)).eng.weirSegs
  let wb := (s.ctx (feB core)).eng.weirSegs
  if n < wa then some (feA core, n) else if 16 - wb ≤ n then some (feB core, n - (16 - wb)) else none
/-- A physical segment of a core (R304). -/
def segAt (s : State) (core : CoreId) (n : Nat) : WeirSeg :=
  match segOwner s core n with
  | some (own, k) => (s.ctx own).eng.seg k
  | none => (s.core core.toNat).segs[n]?.getD (WeirSeg.init 0#8)
def setSegAt (s : State) (core : CoreId) (n : Nat) (g : WeirSeg) : State :=
  match segOwner s core n with
  | some (own, k) => s.modCtx own (fun c => { c with eng := c.eng.setSeg k g })
  | none => s.setCore core.toNat { s.core core.toNat with segs := (s.core core.toNat).segs.setIfInBounds n g }

/-- A write of a segment's control register: while LOCK is 1 the tag keeps its value (R305). -/
def WeirSeg.control (g : WeirSeg) (data : Word) : WeirSeg :=
  { g with band := data.extractLsb' 32 8, valid := data.getLsbD 31, locked := data.getLsbD 30,
           slot := if g.locked then g.slot else data.extractLsb' 16 8, blkh := if g.locked then g.blkh else data.extractLsb' 8 8 }
/-- The control register as it reads (R305). -/
def segControl (s : State) (core : CoreId) (n : Nat) : Word :=
  let g := segAt s core n
  let own := segOwner s core n
  let k : BitVec 4 := BitVec.ofNat 4 ((own.map (·.2)).getD 0)
  let fe : Bool := own.any (fun x => x.1.getLsbD 0)
  (0#24 ++ g.band ++ BitVec.ofBool g.valid ++ BitVec.ofBool g.locked ++ 0#5 ++ BitVec.ofBool fe ++ g.slot ++ g.blkh ++ 0#3
    ++ BitVec.ofBool own.isSome ++ k : BitVec 64)

/-- May the Crown write segments of a context: it is stopped or its Milliner is parked (R305). -/
def crownMayWrite (c : Ctx) : Bool :=
  c.life == .stopped || (match c.gen.stat with
    | .parked _ => true
    | .running | .pushStall | .waitStall | .halted => false)

/-- A Crown write at offset `off` from 0x0020_0000 of the core's window (R305). -/
def crownWeir (s : State) (core : CoreId) (off : BitVec 16) (data : Word) : State :=
  let o := off.toNat % 4096
  let n := off.toNat / 4096
  let g := segAt s core n
  if (segOwner s core n).any (fun x => !crownMayWrite (s.ctx x.1)) then s
  else if o % 8 ≠ 0 || 0x800 < o then s.countError
  else if o = 0x800 then
    let s' := setSegAt s core n (g.control data)
    if g.locked then s'.countError else s'
  else if g.locked || weirIllegal data then s.countError
  else setSegAt s core n { g with ents := mset 0#64 g.ents (o / 8) data, ep := mset false g.ep (o / 8) false }
/-- CROWN_WEIR_WRITE (R305). -/
def execCrownWeirWrite (fe : FeId) (off : BitVec 16) (data : Word) (s : State) : Out := .next (crownWeir s (fe.extractLsb' 1 8) off data)

end Sys2Proof.Machine
end

