-- ==== Sys2Proof/Machine/Copy.lean ====
section
/-! DEFINITION. The C slot: copy commands, staging registers, channel state, and how a channel issues data beats and
completes its commands (10_copy R271 to R294). -/
namespace Sys2Proof.Machine

def slotC : BitVec 3 := 6#3
/-- Channel number as timeline and vector index. -/
def chIdx (ch : Bool) : BitVec 2 := if ch then 1#2 else 0#2
def Ctx.chan (c : Ctx) (ch : Bool) : Chan := vget Chan.reset c.eng.ch (chIdx ch)
def Ctx.setChan (c : Ctx) (ch : Bool) (x : Chan) : Ctx := { c with eng := { c.eng with ch := vset c.eng.ch (chIdx ch) x } }
def State.modChan (s : State) (fe : FeId) (ch : Bool) (f : Chan → Chan) : State :=
  s.modCtx fe (fun c => c.setChan ch (f (c.chan ch)))
def Ctx.timeline (c : Ctx) (tl : BitVec 2) : Timeline := vget (⟨0#64, 0#64⟩ : Timeline) c.eng.tl tl

/-- A C-slot op (R271, R280): under `chan=1`, ch1 is P00; a poisoned operand is D40. -/
def copyOp (s : State) (h : OpHdr) (ok : Bool) (a b c : BitVec 6) (ch : Bool) (f : EngArgs → State → State) : State :=
  engineOp s slotC h ok a b c (fun x s =>
    if ch && (s.ctx s.cur).ident.chans != 2#8 then opFault s slotC .p00 0#64
    else f x s)

/-! ### Queueing (R272, R279, R283) -/

/-- The width of an element of a copy-add (R279). -/
def addWidth (add : BitVec 3) : Nat := if add = 0#3 then 1 else if add = 2#3 then 2 else 4
/-- The fields of an entry at commit. -/
def mkEnt (s : State) (opc : BitVec 8) (add : BitVec 3) (chg sig dir : Bool) (lv : BitVec 3) (st : Staging) (pages : List Word)
    (tok : BitVec 21) : CopyEnt :=
  ⟨opc, 0#64, add, chg, sig, dir, lv, st, pages, tok, s.opProv, s.opWord slotC, (s.ctx s.cur).nextSeq⟩

/-- CHG without a basin, or SIG without a signal, is P00 (R283). -/
def reportOk (st : Staging) (chg sig : Bool) : Bool := !(chg && st.rbasin == 0#64) && !(sig && st.rsig == 0#64)

/-- The mode that a commit finds: the last `cmode` of an earlier beat (R274). -/
def lenientNow (c : Ctx) (ch : Bool) : Bool :=
  (c.chan ch).modeNew.foldl (fun a x => if x.1 ≤ c.beat then x.2 else a) (c.chan ch).lenient

/-- Commits a copy command (R272): a full queue is P04 in strict mode, a wait in lenient mode. -/
def commitCopy (s : State) (ch : Bool) (e : CopyEnt) : State :=
  let c := s.ctx s.cur
  if 64 ≤ (c.chan ch).queue.length then
    (if lenientNow c ch then opWaitFor s (.copyFull ch) else opFault s slotC .p04 0#64)
  else
    let (s, n) := takeNum s s.cur (chIdx ch)
    s.modChan s.cur ch (fun x => { x with queue := x.queue ++ [{ e with num := n }] })

/-- The element alignment of the levels that a command runs (R279). -/
def strideAligned (st : Staging) (w lv : Nat) : Bool :=
  (List.range lv).all (fun k => (vget 0#64 st.sstr (BitVec.ofNat 3 k)).toNat % w == 0 && (vget 0#64 st.dstr (BitVec.ofNat 3 k)).toNat % w == 0)
def addAligned (st : Staging) (add : BitVec 3) (lv : Nat) : Bool :=
  let w := addWidth add
  st.sbase.toNat % w == 0 && st.dbase.toNat % w == 0 && st.chunk.toNat % w == 0 && strideAligned st w lv

/-- `cpy` (R281). -/
def execCpy (h : OpHdr) (a b c : BitVec 6) (sig chg : Bool) (addm : BitVec 3) (ch : Bool) (s : State) : Out :=
  .next (copyOp s h (decide (addm.toNat ≤ 3)) a b c ch (fun x s =>
    let st := { ((s.ctx s.cur).chan ch).st with sbase := x.a.val, dbase := x.b.val, chunk := x.c.val.setWidth 32 }
    if decide (2 ^ 32 ≤ x.c.val.toNat) || !reportOk st chg sig then opFault s slotC .p00 0#64
    else if x.a.poison || x.b.poison || x.c.poison then opFault s slotC .d40 0#64
    else if !addAligned st addm 0 then opFault s slotC .p12 0#64
    else commitCopy s ch (mkEnt s 1#8 addm chg sig false 0#3 st [] 0#21)))

/-- `cgo` (R284). -/
def execCgo (h : OpHdr) (lv : BitVec 3) (sig chg : Bool) (addm : BitVec 3) (ch : Bool) (s : State) : Out :=
  .next (copyOp s h (decide (addm.toNat ≤ 3) && decide (lv.toNat ≤ 6)) 0#6 0#6 0#6 ch (fun _ s =>
    let st := ((s.ctx s.cur).chan ch).st
    if !reportOk st chg sig then opFault s slotC .p00 0#64
    else if !addAligned st addm lv.toNat then opFault s slotC .p12 0#64
    else commitCopy s ch (mkEnt s 4#8 addm chg sig false lv st [] 0#21)))

/-- The blocks of 32 tokens that C tokens from p touch (R285). -/
def ckvBlocks (p n : Nat) : List Nat := if n = 0 then [] else (List.range ((p + n - 1) / 32 - p / 32 + 1)).map (· + p / 32)

/-- The page of each block, or the cause that stops the `ckv` (R285, R310). -/
def ckvPages (e : Engines) (slot : Byte) (wr : Bool) : List Nat → Except Cause (List Word)
  | [] => .ok []
  | b :: t =>
    match weirLookup e slot (32 * b) with
    | none => .error .p02
    | some (ent, pz, _) =>
      if pz then .error .d40
      else if wr && !ent.getLsbD 1 then .error .p10
      else
        match ckvPages e slot wr t with
        | .error c => .error c
        | .ok l => .ok (entryPage ent :: l)

/-- `ckv` (R285): the pages are found at commit. Its entry holds operand A as the address of the pages' side and B as that of the
other side (R296; assumption log 78). -/
def execCkv (h : OpHdr) (a b c : BitVec 6) (dir sig chg : Bool) (ch : Bool) (s : State) : Out :=
  .next (copyOp s h true a b c ch (fun x s =>
    let cx := s.ctx s.cur
    let p := x.a.val.toNat % 2 ^ 21
    let st := { (cx.chan ch).st with
      sbase := if dir then x.b.val else x.a.val, dbase := if dir then x.a.val else x.b.val, chunk := x.c.val.setWidth 32 }
    if x.a.val.extractLsb' 21 35 != 0#35 || decide (256 < x.c.val.toNat) || !reportOk st chg sig then opFault s slotC .p00 0#64
    else if x.a.poison || x.b.poison || x.c.poison then opFault s slotC .d40 0#64
    else
      match ckvPages cx.eng (x.a.val.extractLsb' 56 8) dir (ckvBlocks p x.c.val.toNat) with
      | .error f => opFault s slotC f 0#64
      | .ok pages => commitCopy s ch (mkEnt s 8#8 0#3 chg sig dir 0#3 st pages (BitVec.ofNat 21 p))))

/-! ### Staging registers, mode, status (R274, R282, R283, R286, R287) -/

/-- `cnl` (R282). -/
def execCnl (h : OpHdr) (a b c : BitVec 6) (lvl : BitVec 3) (ch : Bool) (s : State) : Out :=
  .next (copyOp s h (decide (lvl.toNat ≤ 5)) a b c ch (fun x s =>
    if 2 ^ 32 ≤ x.a.val.toNat then opFault s slotC .p00 0#64
    else if x.a.poison || x.b.poison || x.c.poison then opFault s slotC .d40 0#64
    else s.modChan s.cur ch (fun n => { n with st := { n.st with
      cnt := vset n.st.cnt lvl (x.a.val.setWidth 32), sstr := vset n.st.sstr lvl x.b.val, dstr := vset n.st.dstr lvl x.c.val } })))

/-- `cnb` (R282). -/
def execCnb (h : OpHdr) (a b c : BitVec 6) (ch : Bool) (s : State) : Out :=
  .next (copyOp s h true a b c ch (fun x s =>
    if x.c.val.toNat = 0 ∨ 2 ^ 24 < x.c.val.toNat then opFault s slotC .p00 0#64
    else if x.a.poison || x.b.poison || x.c.poison then opFault s slotC .d40 0#64
    else s.modChan s.cur ch (fun n => { n with st := { n.st with sbase := x.a.val, dbase := x.b.val, chunk := x.c.val.setWidth 32 } })))

/-- `cred` (R283): a misaligned value is P12; a basin address in memory P09. -/
def execCred (h : OpHdr) (a b : BitVec 6) (ch : Bool) (s : State) : Out :=
  .next (copyOp s h true a b 0#6 ch (fun x s =>
    if x.a.poison || x.b.poison then opFault s slotC .d40 0#64
    else if x.a.val ≠ 0#64 ∧ !isSpm x.a.val ∧ !isPeer x.a.val then opFault s slotC .p09 x.a.val
    else if x.b.val ≠ 0#64 ∧ isSpm x.b.val then opFault s slotC .p09 x.b.val
    else if x.a.val.toNat % 32 ≠ 0 then opFault s slotC .p12 x.a.val
    else if x.b.val.toNat % 8 ≠ 0 then opFault s slotC .p12 x.b.val
    else s.modChan s.cur ch (fun n => { n with st := { n.st with rbasin := x.a.val, rsig := x.b.val } })))

/-- `cmode` (R274): the mode applies from the next beat on. -/
def execCmode (h : OpHdr) (len ch : Bool) (s : State) : Out :=
  .next (copyOp s h true 0#6 0#6 0#6 ch (fun _ s =>
    s.modCtx s.cur (fun c => let x := c.chan ch; c.setChan ch { x with modeNew := x.modeNew ++ [(c.beat + 1, len)] })))

/-- The word of `cstat` (R287). -/
def cstatWord (c : Ctx) (ch : Bool) : Word :=
  let x := c.chan ch
  (0#16 ++ (c.timeline (chIdx ch)).done.setWidth 32 ++ 0#6 ++ BitVec.ofBool x.parked.isSome ++ BitVec.ofBool (!x.queue.isEmpty)
    ++ BitVec.ofBool x.lenient ++ BitVec.ofNat 7 x.queue.length : BitVec 64)
def execCstat (h : OpHdr) (d : BitVec 6) (ch : Bool) (s : State) : Out :=
  .next (copyOp s h true 0#6 0#6 0#6 ch (fun _ s =>
    let c := s.ctx s.cur
    landRegs s slotC 1 [.s d ⟨cstatWord c ch, c.band, false⟩]))

/-- `cdrain` (R286): an empty channel lets it pass. -/
def execCdrain (h : OpHdr) (ch : Bool) (s : State) : Out :=
  .next (copyOp s h true 0#6 0#6 0#6 ch (fun _ s =>
    let t := (s.ctx s.cur).timeline (chIdx ch)
    if t.count.ule t.done then s.takeSync s.cur (syncTimeline s.cur (chIdx ch))
    else s.modCtx s.cur (fun c => { c with frz := .cdrain ch t.count })))

/-- CDRAIN_RELEASE (R286). -/
def execCdrainRelease (fe : FeId) (s : State) : Out :=
  let c := s.ctx fe
  .next (match c.frz with
    | .cdrain ch n =>
      if n.ule (c.timeline (chIdx ch)).done then (s.setCtx fe { c with frz := .none }).takeSync fe (syncTimeline fe (chIdx ch)) else s
    | .none | .load | .translate _ _ | .group | .copyFull _ | .spout _ _ | .fence _ _ | .tfence _ _ | .twait _ _ _ | .bwait _ _
    | .sigwait _ _ | .mwait _ _ _ _ _ | .launch _ | .mfreeze | .mfrozenCmd => s)

/-! ### Data beats (R275 to R279, R284, R290 to R293) -/

/-- The nest levels of an entry, the count of each, and the bytes of a chunk. -/
def CopyEnt.levels (e : CopyEnt) : Nat := if e.opc = 8#8 then 1 else e.lv.toNat
def CopyEnt.cnt (e : CopyEnt) (k : Nat) : Nat :=
  if e.opc = 8#8 then e.st.chunk.toNat else (vget 0#32 e.st.cnt (BitVec.ofNat 3 k)).toNat
def CopyEnt.chunk (e : CopyEnt) : Nat := if e.opc = 8#8 then 128 else e.st.chunk.toNat
/-- The command transfers nothing. -/
def CopyEnt.empty (e : CopyEnt) : Bool := e.chunk == 0 || (List.range e.levels).any (fun k => e.cnt k == 0)

/-- Σ ik × stride k (R284). -/
def nestSum (idx : Vector (BitVec 32) 6) (str : Vector Word 6) : Nat → Word
  | 0 => 0#64
  | n + 1 => nestSum idx str n + (vget 0#32 idx (BitVec.ofNat 3 n)).setWidth 64 * vget 0#64 str (BitVec.ofNat 3 n)
/-- The first source and destination addresses of the chunk at an index. -/
def CopyEnt.addrs (e : CopyEnt) (idx : Vector (BitVec 32) 6) : Word × Word :=
  if e.opc = 8#8 then
    let q := e.tok.toNat + (vget 0#32 idx 0#3).toNat
    let row := e.pages.getD (q / 32 - e.tok.toNat / 32) 0#64 + BitVec.ofNat 64 (q % 32 * 128)
    let other := (if e.dir then e.st.sbase else e.st.dbase) + BitVec.ofNat 64 (128 * (vget 0#32 idx 0#3).toNat)
    if e.dir then (other, row) else (row, other)
  else (e.st.sbase + nestSum idx e.st.sstr e.levels, e.st.dbase + nestSum idx e.st.dstr e.levels)

/-- The next index in nest order, from level k on; none after the last (R284). -/
def CopyEnt.nextIdx (e : CopyEnt) (idx : Vector (BitVec 32) 6) (k : Nat) : Nat → Option (Vector (BitVec 32) 6)
  | 0 => none
  | fuel + 1 =>
    let i := BitVec.ofNat 3 k
    if (vget 0#32 idx i).toNat + 1 < e.cnt k then some (vset idx i (vget 0#32 idx i + 1#32))
    else e.nextIdx (vset idx i 0#32) (k + 1) fuel

/-- The bytes of the data beat at an offset: the part of the chunk in one 64-byte line of the destination (R278). -/
def beatLen (e : CopyEnt) (dst : Word) (off : Nat) : Nat := min (64 - (dst.toNat + off) % 64) (e.chunk - off)

/-- Where an address of a copy lies (R275, R277). -/
inductive CLoc where
  | spm (home : FeId) (off : Nat)
  | mem (l : Leaf) (key : Nat)
  | miss
  | bad (c : Cause)

def copyLoc (s : State) (fe : FeId) (ch : Bool) (ea : Word) (n : Nat) (write : Bool) : CLoc :=
  if isSpm ea || isPeer ea then
    (if peerOk s fe ea n then .spm (apertureHome fe ea) (spmOff ea) else .bad .p10)
  else
    match translate s fe (.chan ch) ea with
    | .bad c => .bad c
    | .miss => .miss
    | .ok l =>
      if !(if write then l.w else l.r) then .bad .t22
      else if l.page63 ea then .bad .p09
      else .mem l (l.keyOf ea)

def CLoc.space : CLoc → CSpace
  | .spm _ _ => .spm
  | .mem l key =>
    if l.space ≠ 0#2 then .host
    else
      match spacePa key with
      | .hbm => .hbm
      | .cistern _ => .cistern
      | .pool => .pool
      | .host => .host
      | .other => .other
  | .miss | .bad _ => .other

/-- What a piece of the source gives: bytes, band, form bit, poison. -/
structure SrcPiece where
  bytes : List Byte
  band : Band
  form : Bool
  poison : Bool

/-- Reads n bytes of a window. -/
def spmSource (m : Spm) (o n : Nat) : SrcPiece :=
  ⟨(List.range n).map (fun i => spmByte m (o + i)), (spmLine m (o / 256)).band, (spmLine m (o / 256)).form, spmRangePoison m o n⟩
/-- Reads n bytes at a place, with the stores of the command's context before it (R265): of its own window as an engine finds it, of
another one with every store of that window's context. -/
def readPiece (s : State) (fe : FeId) (seq n : Nat) : CLoc → SrcPiece
  | .spm home o => spmSource (if home = fe then (s.ctx home).engineSpm else (s.ctx home).spm.shown) o n
  | .mem l key =>
    let own := (s.ctx fe).ownStores
    ⟨((leafBytes s fe l key n).zipIdx).map (fun x => if l.crcByte (key + x.2) then 0#8 else ownOver own seq (key + x.2) x.1), l.band,
      false, ownPoison own seq (key / 64) (leafPoison s fe l key)⟩
  | .miss | .bad _ => ⟨[], 0#8, false, false⟩

/-- Reads the destination of a copy-add, of a window after every store of its context: nothing comes between the read and the write
(R279). -/
def readDest (s : State) (fe : FeId) (seq n : Nat) : CLoc → SrcPiece
  | .spm home o => spmSource (s.ctx home).spm.shown o n
  | .mem l key => readPiece s fe seq n (.mem l key)
  | .miss | .bad _ => ⟨[], 0#8, false, false⟩

/-- The place of the aligned 8-byte unit that holds the byte at a place. -/
def CLoc.unit : CLoc → CLoc
  | .spm home o => .spm home (o / 8 * 8)
  | .mem l key => .mem l (key / 8 * 8)
  | .miss => .miss
  | .bad c => .bad c
/-- The lines of memory of a place. -/
def CLoc.lines : CLoc → List Nat
  | .mem _ key => [key / 64]
  | .spm _ _ | .miss | .bad _ => []

/-- The bytes of a beat that begins at `a`: those of a source unit in which the last beat ended are the ones that were read with
it (R253). -/
def carried (carry : Option (Word × List Byte)) (a : Word) (bytes : List Byte) : List Byte :=
  match carry with
  | some (u, l) => if a.toNat % 8 ≠ 0 ∧ u = a - BitVec.ofNat 64 (a.toNat % 8) then ((l.drop (a.toNat % 8)).take bytes.length) ++ bytes.drop (8 - a.toNat % 8) else bytes
  | none => bytes
/-- The unit of the source in which a beat of n bytes at `a` ends, read with the beat; `last` is the place of its last byte. -/
def nextCarry (s : State) (fe : FeId) (seq : Nat) (carry : Option (Word × List Byte)) (a : Word) (n : Nat) (last : CLoc) :
    Option (Word × List Byte) :=
  let b := a + BitVec.ofNat 64 n
  let u := b - BitVec.ofNat 64 (b.toNat % 8)
  if b.toNat % 8 = 0 then none
  else
    match carry with
    | some (u', l) => if u' = u then some (u', l) else some (u, (readPiece s fe seq 8 last.unit).bytes)
    | none => some (u, (readPiece s fe seq 8 last.unit).bytes)

/-- A Cistern read that waits in the Sluice: the bank's refresh, or the die's fill port (R276). -/
def cisternWaits (s : State) : CLoc → Bool
  | .mem l key =>
    l.space == 0#2 && (match spacePa key with
      | .cistern d => cisternBank key == refreshBank s || (s.fills[d]?.map (·.busy)).getD false
      | .hbm | .pool | .host | .other => false)
  | .spm _ _ | .miss | .bad _ => false

/-- A place whose data stalls at the die directory, on a parked port, or at a lost host (R403, R412, R423). -/
def locStalls (s : State) (write : Bool) : CLoc → Bool
  | .mem _ key => if write then stalled s key else stalledRead s key
  | .spm _ _ | .miss | .bad _ => false

/-- The band that the check of R290 uses for a source piece. -/
def exportBand (p : SrcPiece) : Band := if p.form then mkBand (bandTenant p.band) 0 else p.band
/-- The check of R290 and R375 on data of band e for a destination of band d. -/
def exportFault (e d : Band) (toMem : Bool) : Option Cause :=
  if decide (2 ≤ bandLevel e) && (decide (bandLevel d < bandLevel e) || bandTenant d != bandTenant e) then some .p07
  else if decide (bandLevel d < bandLevel e) || bandConflict e d then some .p06
  else if toMem && bandLevel e == 3 then some .p07
  else none

/-- The sum of two elements of a copy-add (R279). -/
def addElem (add : BitVec 3) (x y : Nat) : Nat :=
  match add.toNat with
  | 1 => roundTo fmtF32 .rne (sumXV .rne [fmtF32.value x, fmtF32.value y])
  | 2 => roundTo fmtBF16 .rne (sumXV .rne [fmtBF16.value x, fmtBF16.value y])
  | _ => (x + y) % 2 ^ 32
/-- Element-wise sums of two byte lists. -/
def addBytes (add : BitVec 3) (old src : List Byte) : List Byte :=
  let w := addWidth add
  (List.range (src.length / w)).flatMap (fun i =>
    natBytes (addElem add (bytesNat ((old.drop (w * i)).take w)) (bytesNat ((src.drop (w * i)).take w))) w)

/-- Writes bytes through to memory, unless every pool head is lost (R409), and updates what the issuing cluster's caches hold of them (R277). -/
def copyWriteBytes (s : State) (fe : FeId) (lf : Leaf) (k : Nat) : List Byte → State
  | [] => s
  | b :: t =>
    if lf.crcByte k || (poolKey k && poolDead s) then copyWriteBytes s fe lf (k + 1) t else
    let n := clusterOf fe
    let cl := s.cluster n
    let line := k / 64
    let copies := match pget cl.copies line with
      | some v => pset cl.copies line (v - (v / 256 ^ (k % 64) % 256) * 256 ^ (k % 64) + b.toNat * 256 ^ (k % 64))
      | none => cl.copies
    let s := s.setCluster n { cl with l1d := pdelRange cl.l1d k 1, ccd := pdelRange cl.ccd k 1, copies := copies }
    copyWriteBytes (mediaWritten { s with mem := memWrite s.mem k b } n k) fe lf (k + 1) t
/-- The poison mark that goes with what a cluster holds of a line takes the mark that a copy's write gives (R230, R277). -/
def Cluster.markCopy (cl : Cluster) (line : Nat) : Option Bool → Cluster
  | none => cl
  | some b =>
    let put (m : List (Nat × Bool)) : List (Nat × Bool) := m.map (fun p => if p.1 = line then (line, b) else p)
    { cl with l1p := put cl.l1p, ccp := put cl.ccp, cpp := put cl.cpp }

/-- What one data beat comes to. -/
inductive Beat where
  | ask (ea : Word)
  | wait
  | fault (c : Cause) (ea : Word)
  | ok (s : State) (csp : CSpace × CSpace) (carry : Option (Word × List Byte)) (built : List LineBuild)

/-- An SPM line of a command after a beat (R290): n bytes at offset o came from the place `src`, whose line has the form bit
`form`. -/
def LineBuild.grow (x : LineBuild) (o n : Nat) (src : Option (FeId × Nat)) (form : Bool) : LineBuild :=
  { x with mask := x.mask ||| (BitVec.ofNat 256 (2 ^ n - 1) <<< (o % 256)),
           src := if x.src = src then src else none, form := x.form && form }
/-- The line is whole, and came from one SPM line with the form bit. -/
def LineBuild.formed (x : LineBuild) : Bool := x.mask == BitVec.allOnes 256 && x.src.isSome && x.form
/-- The one SPM line that the pieces of a beat lie in. -/
def sourceLine (locs : List CLoc) : Option (FeId × Nat) :=
  match (locs.map (fun l => match l with
    | .spm home o => some (home, o / 256)
    | .mem _ _ | .miss | .bad _ => none)).eraseDups with
  | [x] => x
  | _ => none
/-- The SPM lines that a command writes, after a beat of n bytes (R290): the line of this one, and the others; a line that is
whole is forgotten. -/
def buildLine (built : List LineBuild) (locs : List CLoc) (d : CLoc) (n : Nat) (form add : Bool) : Option LineBuild × List LineBuild :=
  match d with
  | .spm home o =>
    let src := if add then none else sourceLine locs
    let x := ((built.find? (fun x => x.home == home && x.line == o / 256)).getD ⟨home, o / 256, 0#256, src, true⟩).grow o n src form
    let rest := built.filter (fun x => !(x.home == home && x.line == o / 256))
    (some x, if x.mask = BitVec.allOnes 256 then rest else x :: rest)
  | .mem _ _ | .miss | .bad _ => (none, built)

/-- Lands a beat of a channel at its destination: bytes of band e, with their poison (R252, R265, R290). -/
def landBeat (s : State) (fe : FeId) (ch : Bool) (dst : CLoc) (e : Band) (bytes : List Byte) (poison form : Bool) : State :=
  match dst with
  | .spm home o =>
    s.modCtx home (fun c =>
      let m := c.spm.engineWrite e (bytes.zipIdx.map (fun x => (o + x.2, x.1, poison)))
      let l := spmLine m (o / 256)
      { c with spm := { m with lines := mset zeroSpmLine m.lines (o / 256) { l with form := form } } })
  | .mem l key =>
    let data := bytes.zipIdx.map (fun x => (key + x.2, x.1))
    let pl := if poison then [key / 64] else []
    let scope : BitVec 2 := if l.cls = 2#2 ∨ poolKey key ∨ l.space ≠ 0#2 then 3#2 else 2#2
    if hostGone s key then performOrPark s fe (agentChan fe ch) (Vector.replicate 4 []) ⟨0, 0#64, data, pl, e, false, scope, l.cls, false, 0#64, false⟩
    else
      let s := recordStore s (agentChan fe ch) scope (Vector.replicate 4 []) (l.place fe) (data.map (·.1))
      let s := performPoison (copyWriteBytes s fe l key bytes) data pl
      let n := clusterOf fe
      s.setCluster n ((s.cluster n).markCopy (key / 64) (newMark data pl (key / 64)))
  | .miss | .bad _ => s

/-- The band of a destination (R290). -/
def dstBand (s : State) : CLoc → Band
  | .spm home o => (spmLine (s.ctx home).spm.shown (o / 256)).band
  | .mem l _ => l.band
  | .miss | .bad _ => 0#8
/-- Memory that takes no poisoned data (R291). -/
def refusesPoison : CLoc → Bool
  | .mem l _ => l.cls == 2#2 || l.poolk == 1#2 || l.space != 0#2
  | .spm _ _ | .miss | .bad _ => false
def CLoc.isMem : CLoc → Bool
  | .mem _ _ => true
  | .spm _ _ | .miss | .bad _ => false

/-- What a read of a place finds beyond the line's bytes: D43 of a guarded header (R324). -/
def CLoc.dead (s : State) (fe : FeId) : CLoc → Bool
  | .mem l key => leafDead s fe l key
  | .spm _ _ | .miss | .bad _ => false
/-- The fill of a place that a beat reads, under KVPOL of the command's context (R324). -/
def CLoc.fill (s : State) (fe : FeId) : CLoc → State
  | .mem l key => fillLine s fe l key
  | .spm _ _ | .miss | .bad _ => s

/-- The checks and the write of a beat whose places are known. -/
def beatBody (s : State) (fe : FeId) (ch : Bool) (e : CopyEnt) (src dst : Word) (off n : Nat) (ecc : Bool) (csp : CSpace × CSpace)
    (ps : List SrcPiece) (locs : List CLoc) (d : CLoc) (x : Chan) : Beat :=
  let a := src + BitVec.ofNat 64 off
  let ea := dst + BitVec.ofNat 64 off
  let old := readDest s fe e.seq n d
  let isAdd := e.add != 0#3
  let poison := ecc || ps.any (·.poison) || (isAdd && old.poison)
  let bytes := carried x.carry a (ps.flatMap (·.bytes))
  let form := ps.any (·.form)
  let line := buildLine x.built locs d n (ps.all (·.form)) isAdd
  if isAdd && (csp.2 == .pool || csp.2 == .host) then .fault .p09 ea
  else
    match bandOf (ps.map exportBand) with
    | none => .fault .p06 ea
    | some b =>
      if isAdd && form then .fault .p07 ea
      else
        match exportFault b (dstBand s d) d.isMem with
        | some c => .fault c ea
        | none =>
          if poison && refusesPoison d then .fault .d40 ea
          else .ok (landBeat s fe ch d b (if isAdd then addBytes e.add old.bytes bytes else bytes) poison
            (line.1.any (·.formed))) csp
            (if off + n < e.chunk then nextCarry s fe e.seq x.carry a n (locs.getLast?.getD .miss) else none) line.2

/-- A beat waits for accesses of its context before the command: maintenance of a line that it reads or writes, an atomic on a line
that it reads, and any access of a line that it writes (R252, R263, R265). -/
def ownPending (s : State) (fe : FeId) (seq : Nat) (src dst : List Nat) : Bool :=
  let c := s.ctx fe
  maintBlocks c seq (src ++ dst) || c.stq.sb.any (fun e => decide (e.seq < seq) && meets e.lines dst)
  || c.pend.any (fun q => q.outstanding && decide (q.seq < seq)
      && (meets dst (lineKeys s fe q.pieces) || (q.isAmo && meets src (lineKeys s fe q.pieces))))

/-- One data beat of an entry at an index and an offset (R278, R284). -/
def dataBeat (s : State) (fe : FeId) (ch : Bool) (x : Chan) (e : CopyEnt) (ecc : Bool) : Beat :=
  let off := x.off.toNat
  let (src, dst) := e.addrs x.idx
  let n := beatLen e dst off
  let ps := cutPieces 0 (src + BitVec.ofNat 64 off) n 3
  let locs := ps.map (fun p => (p, copyLoc s fe ch p.ea p.len false))
  let d := copyLoc s fe ch (dst + BitVec.ofNat 64 off) n true
  let all := locs.map (fun l => (l.1.ea, l.2)) ++ [(dst + BitVec.ofNat 64 off, d)]
  let bad := all.findSome? (fun l => match l.2 with
    | .bad c => some (c, l.1)
    | .spm _ _ | .mem _ _ | .miss => none)
  let miss := all.findSome? (fun l => match l.2 with
    | .miss => some l.1
    | .spm _ _ | .mem _ _ | .bad _ => none)
  match bad, miss with
  | some (c, ea), _ => .fault c ea
  | none, some ea => .ask ea
  | none, none =>
    let sp := (locs.headD (⟨0, 0#64, 0⟩, .miss)).2.space
    let csp := if off = 0 then (sp, d.space) else x.csp.getD (sp, d.space)
    if locs.any (fun l => l.2.space != csp.1) || d.space != csp.2 then .fault .p09 (dst + BitVec.ofNat 64 off)
    else if d.space == .cistern then .fault .t22 (dst + BitVec.ofNat 64 off)
    else if locs.any (fun l => cisternWaits s l.2) || locs.any (fun l => locStalls s false l.2) || locStalls s true d
        || !fabricOpen s fe || ownPending s fe e.seq (locs.flatMap (fun l => l.2.lines)) d.lines then .wait
    else
      let reads := locs ++ (if e.add != 0#3 then [(⟨0, dst + BitVec.ofNat 64 off, n⟩, d)] else [])
      match reads.find? (fun l => l.2.dead s fe) with
      | some l => .fault .d43 l.1.ea
      | none =>
        beatBody (reads.foldl (fun s l => l.2.fill s fe) s) fe ch e src dst off n ecc csp
          (locs.map (fun l => readPiece s fe e.seq l.1.len l.2)) (locs.map (·.2)) d x

/-- The CHAN and IDX words of a parked channel's record (R362). -/
def chanWords (x : Chan) (e : CopyEnt) : Word × Word :=
  ((e.num.setWidth 32 ++ x.off : BitVec 64), (vget 0#32 x.idx 1#3 ++ vget 0#32 x.idx 0#3 : BitVec 64))

/-- Parks a channel (R293): a record, and a PRI request for T20; the context keeps running. -/
def parkChan (s : State) (fe : FeId) (ch : Bool) (x : Chan) (e : CopyEnt) (cause : Cause) (ea : Word) : State :=
  let w := chanWords x e
  let s := s.modCtx fe (fun c => c.clearDeny (.chan ch) ea)
  let s := putRec s fe (mkRec s fe cause false 0#8 true ch 0#16 (priFail s fe cause) e.prov e.word ea w.1 w.2)
  let s := s.modChan fe ch (fun x => { x with parked := some cause })
  pageRequest s fe cause ea

/-- The outcome of a cause that a data beat meets (R293). -/
def chanFault (s : State) (fe : FeId) (ch : Bool) (x : Chan) (e : CopyEnt) (cause : Cause) (ea : Word) : State :=
  match cause.cls with
  | .p => trapEngine s fe cause true ch e.prov e.word ea 0#64 0#64
  | .t | .d | .a | .e => parkChan s fe ch x e cause ea

/-- The channel after a beat of n bytes. -/
def Chan.advance (x : Chan) (e : CopyEnt) (n : Nat) (csp : CSpace × CSpace) : Chan :=
  if x.off.toNat + n < e.chunk then { x with off := x.off + BitVec.ofNat 32 n, csp := some csp }
  else
    match e.nextIdx x.idx 0 e.levels with
    | some idx => { x with idx := idx, off := 0#32, csp := none }
    | none => { x with off := 0#32, csp := none, headDone := true }

/-- The charge of a beat that has landed, with a release that covers its bytes (R259, R289): a home that is not bound is P10. -/
def chargeBeat (s : State) (fe : FeId) (ch : Bool) (e : CopyEnt) (n : Nat) : State :=
  if !e.chg then s
  else if !peerOk s fe e.st.rbasin 32 then trapEngine s fe .p10 true ch e.prov e.word e.st.rbasin 0#64 0#64
  else
    (sendBasin s e.st.rbasin (.charge (BitVec.ofNat 32 n)) fe e.prov e.word (some ch)).postSync
      (syncBasin (apertureHome fe e.st.rbasin) (spmOff e.st.rbasin)) [(agentChan fe ch, s.stamp)]

/-- Does a channel issue data beats: its context is bound and does not rest for a save, and it is not parked (R295). -/
def chanRuns (c : Ctx) (x : Chan) : Bool :=
  isBound c && x.parked.isNone && !x.headDone && !c.resting && !c.stops.silent

/-- A hop's integrity check failed twice: counted and traced, also where the destination then refuses the poisoned beat (R291,
R292). -/
def hopFailed (s : State) (fe : FeId) (e : CopyEnt) : State := s.countError.traceEv ⟨4#8, 0#8, fe.setWidth 16, e.prov, e.st.dbase⟩

/-- COPY_DATA_BEAT (R278): `ecc` says that a hop's integrity check failed twice (R292). -/
def execCopyDataBeat (fe : FeId) (ch ecc : Bool) (s : State) : Out :=
  let c := s.ctx fe
  let x := c.chan ch
  .next (match x.queue with
    | [] => s
    | e :: _ =>
      if !chanRuns c x || e.empty then s
      else
        match dataBeat s fe ch x e ecc with
        | .ask ea => askLeaf s fe (.chan ch) ea
        | .wait => s
        | .fault cause ea =>
          let s := if ecc && cause == .d40 then hopFailed s fe e else s
          chanFault (mediaTaken s fe (.chan ch) cause ea) fe ch x e cause ea
        | .ok s csp carry built =>
          let n := beatLen e (e.addrs x.idx).2 x.off.toNat
          let s := s.modChan fe ch (fun x => { x with carry := carry, built := built }.advance e n csp)
          let s := if ecc then hopFailed s fe e else s
          chargeBeat s fe ch e n)

/-- Frees the head entry of a channel. -/
def Chan.pop (x : Chan) : Chan :=
  { x with queue := x.queue.tail, idx := Vector.replicate 6 0#32, off := 0#32, headDone := false, csp := none, carry := none,
           built := [] }

/-- The completion decrement of a copy's signal (R283, R288, R336): done, or what stops it. -/
def copySignal (s : State) (fe : FeId) (ch : Bool) (e : CopyEnt) : Beat :=
  if !e.sig then .ok s (.other, .other) none []
  else
    match translate s fe (.chan ch) e.st.rsig with
    | .bad c => .fault c e.st.rsig
    | .miss => .ask e.st.rsig
    | .ok l =>
      if !l.w then .fault .t22 e.st.rsig
      else if l.cls == 0#2 || l.page63 e.st.rsig then .fault .p09 e.st.rsig
      else if stalledRead s (l.keyOf e.st.rsig) || !fabricOpen s fe then .wait
      else
        let k := l.keyOf e.st.rsig
        .ok (decSignal s (agentChan fe ch) (if l.cls = 1#2 then 2#2 else 3#2) [(agentChan fe ch, s.stamp)] k (signalDec (s.word8 k) 1 0#8))
          (.other, .other) none []

/-- The timeline records a command's number, which a `twait` or a `cdrain` acquires (R259, R265, R266, R288). -/
def chanDone (s : State) (fe : FeId) (ch : Bool) (n : Word) : State :=
  (doneNum s fe (chIdx ch) n).postSync (syncTimeline fe (chIdx ch)) [(agentChan fe ch, s.stamp)]

/-- COPY_COMPLETE (R288): the number is recorded, the signal is decremented, the entry frees. -/
def execCopyComplete (fe : FeId) (ch : Bool) (s : State) : Out :=
  let c := s.ctx fe
  let x := c.chan ch
  .next (match x.queue with
    | [] => s
    | e :: _ =>
      if !isBound c || x.parked.isSome || !(x.headDone || (e.empty && !c.resting)) then s
      else
        let s := chanDone s fe ch e.num
        match copySignal s fe ch e with
        | .ask ea => askLeaf s fe (.chan ch) ea
        | .wait => s
        | .fault cause ea => chanFault s fe ch x e cause ea
        | .ok s _ _ _ => s.modChan fe ch Chan.pop)

end Sys2Proof.Machine
end

