-- ==== Sys2Proof/Machine/Sync.lean ====
section
/-! DEFINITION. The X slot, part one: fences, waits, basin and signal ops, `launch` and `exit`, and the events that end a
wait (09_ordering R259 to R267, 12_tasks R340 to R350). -/
namespace Sys2Proof.Machine

/-- The X-slot op of a group acts outside its context only when the group commits: no fault so far, and room for its
landing among the 32 of R40. -/
def State.mayAct (s : State) (adds : Nat) : Bool :=
  match s.issue with
  | some i => i.faults.isEmpty && i.retry.isNone && (!i.mark || decide ((s.ctx i.fe).pend.length + adds ≤ 32))
  | none => true

/-- A chan=1 context has no tc1 (R340). -/
def timelineOk (s : State) (tl : BitVec 2) : Bool := !(tl == 1#2 && (s.ctx s.cur).ident.chans != 2#8)

/-! ### Release and acquire of the context's own accesses (R259, R261) -/

/-- Every earlier load and atomic has returned. -/
def loadsReturned (c : Ctx) : Bool := c.pend.all (fun p => !p.outstanding)
/-- Every earlier access and maintenance op up to a scope has performed. A store into the window counts as performed at once: every
other observer reads the window as `Spm.shown` gives it. -/
def accessesPerformed (c : Ctx) (scope : BitVec 2) : Bool :=
  c.stq.sb.isEmpty && c.stq.maint.all (fun m => scope.ult m.scope) && loadsReturned c

/-- Keeps the gate of a mark group that reached issue released while its release waits (R233, R259). -/
def holdRelease (s : State) : State :=
  let s := opWait s
  match s.issue with
  | some i => if i.mark then { s with issue := some { i with saved := i.saved.releaseGate } } else s
  | none => s

/-- An op that releases at a scope first: its group waits until the context's accesses have performed. -/
def afterRelease (s : State) (scope : BitVec 2) (f : State → State) : State :=
  if accessesPerformed (s.ctx s.cur) scope || !s.mayAct 0 then f s else holdRelease s

/-- `fence` (R261, R341): its context freezes after its group. -/
def execFence (h : OpHdr) (scope ftype : BitVec 2) (s : State) : Out :=
  .next (guardedOp s slotX h (ftype != 0#2) (fun s => s.modCtx s.cur (fun c => { c with frz := .fence ftype scope })))

/-- What a fence leaves in the order of its context (R259, R260): a release, an acquire, and for `fence.full` its place among the
others of its scope's instance. -/
def fenced (s : State) (fe : FeId) (ty scope : BitVec 2) : State :=
  let full : Bool := ty == 3#2
  let s := if full then s.takeSync fe (syncFence scope fe) else s
  let s := if ty.getLsbD 0 then s.modCtx fe (fun c => { c with ord := c.ord.acquire scope }) else s
  let s := if full then s.postSync (syncFence scope fe) (s.clockOf fe) else s
  if ty.getLsbD 1 then s.modCtx fe (fun c => { c with ord := c.ord.release scope (agentCtx fe) s.stamp }) else s

/-- FENCE_COMPLETE (R261). -/
def execFenceComplete (fe : FeId) (s : State) : Out :=
  let c := s.ctx fe
  .next (match c.frz with
    | .fence ty scope =>
      if loadsReturned c && (!ty.getLsbD 1 || accessesPerformed c scope) then fenced (s.setCtx fe { c with frz := .none }) fe ty scope
      else s
    | .none | .load | .translate _ _ | .group | .copyFull _ | .spout _ _ | .tfence _ _ | .twait _ _ _ | .bwait _ _ | .sigwait _ _
    | .mwait _ _ _ _ _ | .cdrain _ _ | .launch _ | .mfreeze | .mfrozenCmd => s)

/-! ### Waits (R348) -/

/-- The context freezes after its group in a wait, which joins its pending landings. -/
def beginWait (s : State) (f : Frz) : State :=
  (addPend s slotX 0 (.wait f)).modCtx s.cur (fun c => { c with frz := f })

/-- The pending entry of a wait that has ended: gone, or a result that lands 1 beat later. -/
def endPend (beat : Nat) (w : List RegW) (p : Pend) : Option Pend :=
  match p.kind with
  | .wait _ => if w.isEmpty then none else some { p with kind := .done w, due := beat + 1 }
  | .done _ | .spm _ _ | .load _ | .amo _ | .launch _ => some p

/-- Ends the wait of a context with its result. -/
def endWait (s : State) (fe : FeId) (w : List RegW) : State :=
  s.modCtx fe (fun c => { c with frz := .none, pend := c.pend.filterMap (endPend c.beat w) })

/-- The pending entry of a context's wait. -/
def Ctx.waiting (c : Ctx) : Option Pend :=
  c.pend.find? (fun p => match p.kind with
    | .wait _ => true
    | .done _ | .spm _ _ | .load _ | .amo _ | .launch _ => false)
/-- A wait whose read cannot be made faults: a level-B fault of its op (R268, R357). -/
def faultWait (s : State) (fe : FeId) (cause : Cause) (ea : Word) : State :=
  match (s.ctx fe).waiting with
  | some p => trapB (s.modCtx fe (fun c => c.clearDeny .core ea)) fe cause (1#8 <<< p.slot.toNat) p.prov p.word ea
  | none => s

/-- A signal or `mwait` word in memory (R340): its faults in the order of R231. -/
inductive Sig where
  | ask (ea : Word)
  | fault (c : Cause)
  | ok (l : Leaf) (key : Nat)

/-- Finds the word at an address: a multiple of 8 (P12) in a region of class DC or SC (P09). -/
def sigPlace (s : State) (fe : FeId) (ea : Word) (write : Bool) : Sig :=
  if isSpm ea then .fault .p09
  else if ea.toNat % 8 ≠ 0 then .fault .p12
  else
    match translate s fe .core ea with
    | .miss => .ask ea
    | .bad c => .fault c
    | .ok l =>
      match leafFault l ea write 0#2 spStore with
      | some f => .fault f.cause
      | none => if l.cls = 0#2 then .fault .p09 else if stalled s (l.keyOf ea) then .ask ea else .ok l (l.keyOf ea)

/-- The word that a strong read of a context finds: its own unperformed stores over memory (R254). -/
def strongWord (s : State) (fe : FeId) (key : Nat) : Word × Bool :=
  let c := s.ctx fe
  let b := (memReads s.mem key 8).zipIdx
  (BitVec.ofNat 64 (bytesNat (b.map (fun x => ownOver c.ownStores c.nextSeq (key + x.2) x.1))),
    ownPoison c.ownStores c.nextSeq (key / 64) (readsPoison s key))

/-- The widest scope that the class of a signal's leaf permits (R225, R346). -/
def Leaf.wide (l : Leaf) : BitVec 2 := if l.cls = 1#2 then 2#2 else 3#2
/-- Runs f on the word at a scalar's address, when its place is good; the group waits for a leaf. -/
def withSig (s : State) (x : SReg) (write : Bool) (f : State → Leaf → Nat → State) : State :=
  if x.poison then opFault s slotX .d40 x.val
  else
    match sigPlace s s.cur x.val write with
    | .ask ea => opMiss s ea write
    | .fault c => accFault s slotX ⟨6, c, x.val⟩
    | .ok l key => f s l key

/-! ### Timelines (R341 to R343) -/

/-- `tfence` (R341). -/
def execTfence (h : OpHdr) (scope : BitVec 2) (s : State) : Out :=
  .next (guardedOp s slotX h true (fun s => beginWait s (.tfence scope s.cycle)))

/-- Within the instance of a scope, no leaf is left that a rewritten region entry covers (R267). -/
def dropRewritten (s : State) (fe : FeId) (scope : BitVec 2) : State :=
  { s with cores := s.cores.map (fun (p : Nat × Core) =>
      (p.1, if coreInScope scope fe p.1 then
          { p.2 with leaves := p.2.leaves.filter (·.current s), gleaves := p.2.gleaves.filter (·.current s),
                     cleaves := p.2.cleaves.filter (fun x => x.2.current s) }
        else p.2)) }

/-- TFENCE_COMPLETE (R267): no write of a context to a table is on its way; the leaves of rewritten region entries go, and the wait
ends. -/
def execTfenceComplete (fe : FeId) (s : State) : Out :=
  .next (match (s.ctx fe).frz with
    | .tfence scope _ => endWait (dropRewritten s fe scope) fe []
    | .none | .load | .translate _ _ | .group | .copyFull _ | .spout _ _ | .fence _ _ | .twait _ _ _ | .bwait _ _ | .sigwait _ _
    | .mwait _ _ _ _ _ | .cdrain _ _ | .launch _ | .mfreeze | .mfrozenCmd => s)

/-- TFENCE_TIMEOUT (R364): T23 after 2^24 cycles. -/
def execTfenceTimeout (fe : FeId) (s : State) : Out :=
  .next (match (s.ctx fe).frz with
    | .tfence _ since => if since + 2 ^ 24 ≤ s.cycle then faultWait s fe .t23 0#64 else s
    | .none | .load | .translate _ _ | .group | .copyFull _ | .spout _ _ | .fence _ _ | .twait _ _ _ | .bwait _ _ | .sigwait _ _
    | .mwait _ _ _ _ _ | .cdrain _ _ | .launch _ | .mfreeze | .mfrozenCmd => s)

/-- `twait` (R342): n beyond COUNT is P00; a number already complete passes at once. -/
def execTwait (h : OpHdr) (tl : BitVec 2) (b : BitVec 6) (imm11 : BitVec 11) (i : Bool) (scope : BitVec 2) (s : State) : Out :=
  .next (reservedZero s slotX (if i then b == 0#6 else imm11 == 0#11) (guardedOp s slotX h (timelineOk s tl) (fun s =>
    let c := s.ctx s.cur
    let x := c.rS b
    let n : Word := if i then imm11.setWidth 64 else x.val
    let t := c.timeline tl
    if !i && x.poison then opFault s slotX .d40 0#64
    else if t.count.ult n then opFault s slotX .p00 0#64
    else if n = 0#64 then s
    else if n.ule t.done then s.takeSync s.cur (syncTimeline s.cur tl)
    else beginWait s (.twait tl n scope))))

/-- TWAIT_RELEASE (R342). -/
def execTwaitRelease (fe : FeId) (s : State) : Out :=
  .next (match (s.ctx fe).frz with
    | .twait tl n _ =>
      if n.ule ((s.ctx fe).timeline tl).done then endWait (s.takeSync fe (syncTimeline fe tl)) fe [] else s
    | .none | .load | .translate _ _ | .group | .copyFull _ | .spout _ _ | .fence _ _ | .tfence _ _ | .bwait _ _ | .sigwait _ _
    | .mwait _ _ _ _ _ | .cdrain _ _ | .launch _ | .mfreeze | .mfrozenCmd => s)

/-- `tget` (R343). -/
def execTget (h : OpHdr) (d : BitVec 6) (tl : BitVec 2) (done : Bool) (s : State) : Out :=
  .next (guardedOp s slotX h (timelineOk s tl) (fun s =>
    let c := s.ctx s.cur
    let t := c.timeline tl
    landRegs s slotX 1 [.s d ⟨if done then t.done else t.count, c.band, false⟩]))

/-! ### Basin ops (R344, R345) -/

/-- The checks of a basin operand at issue. -/
def withBasin (s : State) (x : SReg) (f : State → State) : State :=
  if x.poison then opFault s slotX .d40 x.val
  else
    match basinAddrFault s s.cur x.val with
    | some c => opFault s slotX c x.val
    | none => f s

/-- Sends an update to the basin at an address, if the group commits. -/
def issueBasin (s : State) (ea : Word) (up : BasinUp) : State :=
  if s.mayAct 0 then sendBasin s ea up s.cur s.opProv (s.opWord slotX) none else s
/-- The release of a `barv`, which a `bwait` on the basin observes (R259). -/
def postBasin (s : State) (ea : Word) : State :=
  if s.mayAct 0 then s.postSync (syncBasin (apertureHome s.cur ea) (spmOff ea)) (s.clockOf s.cur) else s

/-- `barv` (R344): releases at cluster scope, then arrives. -/
def execBarv (h : OpHdr) (a : BitVec 6) (s : State) : Out :=
  .next (guardedOp s slotX h true (fun s =>
    let x := (s.ctx s.cur).rS a
    withBasin s x (fun s => afterRelease s 1#2 (fun s => issueBasin (postBasin s x.val) x.val .arrive))))

/-- `bexp` (R344): B is a signed 32-bit value. -/
def execBexp (h : OpHdr) (a b : BitVec 6) (s : State) : Out :=
  .next (guardedOp s slotX h true (fun s =>
    let c := s.ctx s.cur
    let x := c.rS a
    let y := c.rS b
    if y.val ≠ sext64 (y.val.setWidth 32) then opFault s slotX .p00 0#64
    else if y.poison then opFault s slotX .d40 0#64
    else withBasin s x (fun s => issueBasin s x.val (.expect (y.val.setWidth 32)))))

/-- `bwait` (R345). -/
def execBwait (h : OpHdr) (a b : BitVec 6) (s : State) : Out :=
  .next (guardedOp s slotX h true (fun s =>
    let c := s.ctx s.cur
    let x := c.rS a
    let y := c.rS b
    if y.val.toNat / 2 ^ 32 ≠ 0 then opFault s slotX .p00 0#64
    else if y.poison then opFault s slotX .d40 0#64
    else withBasin s x (fun s =>
      let h := apertureHome s.cur x.val
      beginWait (s.liveBasin h (spmOff x.val)) (.bwait x.val (y.val.setWidth 32)))))

/-- Phase B has completed (R345). -/
def phaseDone (ph b : BitVec 32) : Bool := decide (1 ≤ (ph - b).toNat ∧ (ph - b).toNat ≤ 2 ^ 31)

/-- BWAIT_RELEASE (R345): the home core's checks hold for the wait as well, as an engine fault of its group (R337); a home that is
no longer bound, or of the task, is P10 of its op (R354). -/
def execBwaitRelease (fe : FeId) (s : State) : Out :=
  .next (match (s.ctx fe).frz with
    | .bwait ea ph =>
      let home := apertureHome fe ea
      if !peerOk s fe ea 32 then faultWait s fe .p10 ea
      else
        match basinFault s fe home (spmOff ea), (s.ctx fe).waiting with
        | some c, some p => trapEngine s fe c false false p.prov p.word ea 0#64 0#64
        | some _, none => s
        | none, _ =>
          if phaseDone (readBasin (s.ctx home).spm (spmOff ea)).ph ph then endWait (s.takeSync fe (syncBasin home (spmOff ea))) fe []
          else s
    | .none | .load | .translate _ _ | .group | .copyFull _ | .spout _ _ | .fence _ _ | .tfence _ _ | .twait _ _ _ | .sigwait _ _
    | .mwait _ _ _ _ _ | .cdrain _ _ | .launch _ | .mfreeze | .mfrozenCmd => s)

/-! ### Signals and `mwait` (R346, R347) -/

/-- `sigdec` (R346): a decrement with release; FAIL also sets status 0x40; a poisoned signal word is D40 (R354). -/
def execSigdec (h : OpHdr) (a b : BitVec 6) (fail : Bool) (s : State) : Out :=
  .next (guardedOp s slotX h true (fun s =>
    let c := s.ctx s.cur
    let x := c.rS a
    let y := c.rS b
    if y.val.toNat = 0 ∨ 2 ^ 48 ≤ y.val.toNat then opFault s slotX .p00 0#64
    else if y.poison then opFault s slotX .d40 0#64
    else withSig s x true (fun s l key =>
      if (strongWord s s.cur key).2 then opFault s slotX .d40 x.val
      else afterRelease s l.wide (fun s =>
        if s.mayAct 0 then
          decSignal s (agentCtx s.cur) l.wide (s.clockOf s.cur) key (signalDec (s.word8 key) y.val.toNat (if fail then 0x40#8 else 0#8))
        else s))))

/-- `sigwait` (R346). -/
def execSigwait (h : OpHdr) (d a : BitVec 6) (s : State) : Out :=
  .next (guardedOp s slotX h true (fun s =>
    let x := (s.ctx s.cur).rS a
    withSig s x false (fun s _ _ => beginWait s (.sigwait x.val d))))

/-- An earlier strong access of a waiting context has not performed or returned (R256). -/
def strongOutstanding (c : Ctx) : Bool :=
  c.stq.sb.any (·.strong) || c.pend.any (fun p => p.outstanding && (match p.kind with
    | .load r => r.strong
    | .amo _ => true
    | .done _ | .spm _ _ | .launch _ | .wait _ => false))

/-- One strong read of a waiting context: a leaf is asked for, a fault is taken (D40 for a poisoned word, R354), or f
decides on the word read. -/
def waitRead (s : State) (fe : FeId) (ea : Word) (f : State → Leaf → Word → State) : State :=
  if strongOutstanding (s.ctx fe) then s
  else
    match sigPlace s fe ea false with
    | .ask _ => askLeaf s fe .core ea
    | .fault c => faultWait s fe c ea
    | .ok l key =>
      let w := strongWord s fe key
      if w.2 then faultWait s fe .d40 ea else f (noteStrong s fe l.wide none (key / 8)) l w.1

/-- SIGWAIT_RELEASE (R346): the word lands 1 beat later. -/
def execSigwaitRelease (fe : FeId) (s : State) : Out :=
  .next (match (s.ctx fe).frz with
    | .sigwait ea d => waitRead s fe ea (fun s l w =>
        if signalReleased w then
          let key := match sigPlace s fe ea false with
            | .ok _ key => key
            | .ask _ | .fault _ => 0
          endWait (s.takeSync fe (syncSignal key)) fe [.s d ⟨w, l.band, false⟩]
        else s)
    | .none | .load | .translate _ _ | .group | .copyFull _ | .spout _ _ | .fence _ _ | .tfence _ _ | .twait _ _ _ | .bwait _ _
    | .mwait _ _ _ _ _ | .cdrain _ _ | .launch _ | .mfreeze | .mfrozenCmd => s)

/-- `mwait` (R347). -/
def execMwait (h : OpHdr) (d a b : BitVec 6) (tmo : BitVec 16) (s : State) : Out :=
  .next (guardedOp s slotX h true (fun s =>
    let c := s.ctx s.cur
    let x := c.rS a
    let y := c.rS b
    if y.poison then opFault s slotX .d40 0#64
    else withSig s x false (fun s _ _ => beginWait s (.mwait x.val d y tmo s.cycle))))

/-- MWAIT_END (R347). -/
def execMwaitEnd (fe : FeId) (s : State) : Out :=
  .next (match (s.ctx fe).frz with
    | .mwait ea d b _ _ => waitRead s fe ea (fun s l w => if w ≠ b.val then endWait s fe [.s d ⟨w, l.band, false⟩] else s)
    | .none | .load | .translate _ _ | .group | .copyFull _ | .spout _ _ | .fence _ _ | .tfence _ _ | .twait _ _ _ | .bwait _ _
    | .sigwait _ _ | .cdrain _ _ | .launch _ | .mfreeze | .mfrozenCmd => s)

/-- MWAIT_TIMEOUT (R347): the last value read equals B. -/
def execMwaitTimeout (fe : FeId) (s : State) : Out :=
  .next (match (s.ctx fe).frz with
    | .mwait ea d b tmo since =>
      if tmo ≠ 0#16 ∧ since + tmo.toNat * 1024 ≤ s.cycle then
        waitRead s fe ea (fun s l w => if w = b.val then endWait s fe [.s d ⟨b.val, l.band, false⟩] else s)
      else s
    | .none | .load | .translate _ _ | .group | .copyFull _ | .spout _ _ | .fence _ _ | .tfence _ _ | .twait _ _ _ | .bwait _ _
    | .sigwait _ _ | .cdrain _ _ | .launch _ | .mfreeze | .mfrozenCmd => s)

/-! ### `launch` (R349) -/

/-- The fields of a task command (R329). -/
def cmdWord (c : BitVec 512) (i : Nat) : Word := c.extractLsb' (64 * i) 64
def cmdArgp (c : BitVec 512) : Word := cmdWord c 0
def cmdSigc (c : BitVec 512) : Word := cmdWord c 1
def cmdDep (c : BitVec 512) (i : Nat) : Word := cmdWord c (2 + i)
def cmdKern (c : BitVec 512) : BitVec 32 := c.extractLsb' 384 32
def cmdPrio (c : BitVec 512) : Byte := c.extractLsb' 416 8
def cmdTen (c : BitVec 512) : BitVec 4 := c.extractLsb' 424 4
def cmdType (c : BitVec 512) : Byte := c.extractLsb' 432 8
def cmdSeal (c : BitVec 512) : Word := cmdWord c 7
/-- No reserved field is set. -/
def cmdReservedOk (c : BitVec 512) : Bool := c.extractLsb' 428 4 == 0#4 && c.extractLsb' 440 8 == 0#8

/-- What one signal address of a command comes to: its key in place of its address. -/
inductive CmdSig where
  | miss (ea : Word)
  | fault (c : Cause) (ea : Word)
  | bad
  | ok (key : Nat)

/-- Translates the signal address in word i of a `launch` command (R349): T20 and T22 at the `launch`; SIGC, word 1, is written, and
the dependences are read. -/
def launchXlat (s : State) (i : Nat) (ea : Word) : CmdSig :=
  if ea = 0#64 ∨ isSpm ea then .ok 0
  else
    match translate s s.cur .core ea with
    | .miss => .miss ea
    | .bad c => .fault c ea
    | .ok l => if !(if i = 1 then l.w else l.r) then .fault .t22 ea else .ok (l.keyOf ea)
/-- The checks of R329 on a signal address. -/
def launchLegal (s : State) (ea : Word) : Bool :=
  ea == 0#64 || (ea.toNat % 8 == 0 && !isSpm ea && (match translate s s.cur .core ea with
    | .ok l => l.cls != 0#2
    | .miss | .bad _ => false))
/-- The first of words 1 to n whose address is not translated, else `.ok`. -/
def launchFirst (s : State) (cmd : BitVec 512) : Nat → CmdSig
  | 0 => .ok 0
  | n + 1 =>
    match launchFirst s cmd n with
    | .ok _ => launchXlat s (n + 1) (cmdWord cmd (n + 1))
    | r => r
/-- Replaces words 1 to n of a command by the keys of their addresses. -/
def launchKeyed (s : State) (cmd : BitVec 512) : Nat → BitVec 512
  | 0 => cmd
  | n + 1 =>
    let c := launchKeyed s cmd n
    match launchXlat s (n + 1) (cmdWord cmd (n + 1)) with
    | .ok key => (c &&& ~~~((0xFFFFFFFFFFFFFFFF#512) <<< (64 * (n + 1)))) ||| (BitVec.ofNat 512 (key % 2 ^ 64) <<< (64 * (n + 1)))
    | .miss _ | .fault _ _ | .bad => c
/-- The signal addresses of a command: every translation first, then the checks of R329 (P00), then the command with keys in place of
addresses (R349). -/
def launchSignals (s : State) (cmd : BitVec 512) (n : Nat) : CmdSig × BitVec 512 :=
  match launchFirst s cmd n with
  | .ok k =>
    if (List.range n).all (fun i => launchLegal s (cmdWord cmd (i + 1))) then (.ok k, launchKeyed s cmd n) else (.bad, cmd)
  | r => (r, cmd)

/-- The 64 bytes of the command: in the window with every earlier store of the context, or in memory of class DC or SC. -/
def readCommand (s : State) (ea : Word) : Acc ReadData :=
  let c := s.ctx s.cur
  if isSpm ea then
    match readSpm c.spm.shown (piecesOf ea 64) with
    | .error f => .fault f
    | .ok d => .ok d
  else readMem s s.cur .core true 2#2 spLoad c.ownStores c.nextSeq (piecesOf ea 64)

/-- The command with what its task takes from the task that launches it (R349, R353). -/
def launchCmd (s : State) (cmd : BitVec 512) : LaunchCmd :=
  let i := (s.ctx s.cur).ident
  ⟨s.cur, cmd, i.bid, i.tenant, i.prio, (s.disp.tasks.find? (fun t => t.id == i.task)).bind (·.origin), s.clockOf s.cur⟩

/-- Queues the command, and freezes the context until the dispatcher accepts it. -/
def submitLaunch (s : State) (d : BitVec 6) (cmd : BitVec 512) : State :=
  if 256 ≤ s.disp.launchq.length then opWait s
  else if s.mayAct 1 then
    let s := { s with disp := { s.disp with launchq := s.disp.launchq ++ [launchCmd s cmd] } }
    (addPend s slotX 0 (.launch d)).modCtx s.cur (fun c => { c with frz := .launch d })
  else addPend s slotX 0 (.launch d)

/-- `launch` (R349). -/
def execLaunch (h : OpHdr) (d a : BitVec 6) (s : State) : Out :=
  .next (guardedOp s slotX h true (fun s =>
    let x := (s.ctx s.cur).rS a
    if x.poison then opFault s slotX .d40 x.val
    else if x.val.toNat % 64 ≠ 0 then opFault s slotX .p12 x.val
    else afterRelease s 2#2 (fun s =>
      match readCommand s x.val with
      | .miss ea => opMiss s ea false
      | .fault f => accFault s slotX f
      | .ok dat =>
        let cmd := readDesc dat.bytes
        if readAnyPoison dat then opFault s slotX .d40 x.val
        else
          match launchSignals s cmd 5 with
          | (.miss ea, _) => opMiss s ea true
          | (.fault c ea, _) => accFault s slotX ⟨6, c, ea⟩
          | (.bad, _) => opFault s slotX .p00 x.val
          | (.ok _, keyed) =>
            if cmdType cmd ≠ 1#8 || !cmdReservedOk cmd then opFault s slotX .p00 x.val else submitLaunch s d keyed)))

/-! ### `exit` (R350) -/

/-- `exit`: the Runnel is discarded and the Milliner stops; the context then waits for its results and commands. -/
def execExit (h : OpHdr) (fail : Bool) (s : State) : Out :=
  .next (guardedOp s slotX h true (fun s =>
    s.modCtx s.cur (fun c =>
      { c with idle := .exitOp fail, exiting := some fail, gen := { c.gen with runnel := [], stat := .halted } })))

end Sys2Proof.Machine
end

