-- ==== Sys2Proof/Machine/System.lean ====
section
/-! DEFINITION. The X slot, part two: `trap`, `fmt`, `bandup`, `rdtime`, and the cipher unit (13_system R361, R371 to R381). -/
namespace Sys2Proof.Machine

/-- `trap` (R361): an A60 with a software code, which its context meets at the group's checkpoint. -/
def execTrap (h : OpHdr) (code : BitVec 16) (s : State) : Out :=
  .next (guardedOp s slotX h true (fun s => s.modCtx s.cur (fun c => { c with stops := { c.stops with a60 := some code } })))

/-- `fmt` (R372): 4 beats. -/
def execFmt (h : OpHdr) (covf cnan walg wrm : Bool) (alg rm : BitVec 2) (s : State) : Out :=
  .next (guardedOp s slotX h true (fun s =>
    landRegs s slotX 4 [.fmt (if wrm then some rm else none) (if walg then some alg else none) cnan covf]))

/-- `bandup` (R374). -/
def execBandup (h : OpHdr) (a : BitVec 6) (s : State) : Out :=
  .next (guardedOp s slotX h true (fun s =>
    let c := s.ctx s.cur
    let x := c.rS a
    if 4 ≤ x.val.toNat then opFault s slotX .p00 0#64
    else if x.poison then opFault s slotX .d40 0#64
    else if x.val.toNat < bandLevel c.band then opFault s slotX .p06 0#64
    else landRegs s slotX 1 [.band (mkBand (bandTenant c.band) x.val.toNat)]))

/-- `rdtime` (R371): its group has waited for every earlier landing. -/
def execRdtime (h : OpHdr) (d : BitVec 6) (s : State) : Out :=
  .next (guardedOp s slotX h true (fun s => landRegs s slotX 1 [.s d ⟨s.time, (s.ctx s.cur).band, false⟩]))

/-! ### The cipher unit (R376 to R381) -/

/-- The timeline `tx`. -/
def tlX : BitVec 2 := 3#2
/-- The lines that n bytes take. -/
def linesFor (n : Nat) : Nat := (n + 255) / 256
/-- Two ranges of the window share a byte. -/
def rangesMeet (a n b m : Nat) : Bool := decide (a < b + m ∧ b < a + n)

/-- Queues a cipher command (R377): it takes its number and, for `seal`, the counter. -/
def queueCipher (s : State) (isSeal : Bool) (x : EngArgs) (k : BitVec 2) : State :=
  let c := s.ctx s.cur
  let ctr := c.sealcnt
  let (s, n) := takeNum s s.cur tlX
  let cmd : CipherCmd := ⟨n, isSeal, BitVec.ofNat 21 (spmOff x.a.val), BitVec.ofNat 21 (spmOff x.b.val), x.c.val.setWidth 17, k,
    if isSeal then ctr else 0#64, s.opProv, s.opWord slotX, s.cycle⟩
  s.modCtx s.cur (fun c =>
    { c with sealcnt := if isSeal then ctr + 1#64 else ctr,
             eng := { c.eng with cipher := c.eng.cipher ++ [cmd], cipherRun := c.eng.cipherRun || c.eng.cipher.isEmpty } })

/-- The checks of `seal` and `open` at issue (R377): the source and destination take `src` and `dst` bytes. -/
def cipherFault (c : Ctx) (isSeal : Bool) (x : EngArgs) (src dst : Nat) (k : BitVec 2) : Option Cause :=
  let n := x.c.val.toNat
  let a := x.a.val
  let b := x.b.val
  if n = 0 ∨ 65536 < n ∨ (isSeal = true ∧ c.sealcnt = BitVec.allOnes 64) then some .p00
  else if x.a.poison || x.b.poison || x.c.poison then some .d40
  else if !isSpm a || !isSpm b then some .p09
  else if b.toNat % 256 ≠ 0 ∨ (isSeal = false ∧ a.toNat % 256 ≠ 0) then some .p12
  else if c.spm.size < spmOff a + src || c.spm.size < spmOff b + dst || rangesMeet (spmOff a) src (spmOff b) dst then some .p10
  else if (vget none c.keys k).isNone then some .p06
  else none

/-- The address that the record of a refused `seal` or `open` gives: of the operand at fault, the source before the destination
(R362). -/
def cipherAddr (c : Ctx) (isSeal : Bool) (x : EngArgs) (src : Nat) (f : Cause) : Word :=
  let a := x.a.val
  match f with
  | .p09 => if !isSpm a then a else x.b.val
  | .p12 => if isSeal = false ∧ a.toNat % 256 ≠ 0 then a else x.b.val
  | .p10 => if c.spm.size < spmOff a + src then a else x.b.val
  | _ => 0#64
/-- An op of the cipher unit. -/
def cipherOp (h : OpHdr) (a b c : BitVec 6) (k : BitVec 2) (isSeal : Bool) (src dst : Nat → Nat) (s : State) : State :=
  engineOp s slotX h true a b c (fun x s =>
    let n := x.c.val.toNat
    match cipherFault (s.ctx s.cur) isSeal x (src n) (dst n) k with
    | some f => opFault s slotX f (cipherAddr (s.ctx s.cur) isSeal x (src n) f)
    | none => queueCipher s isSeal x k)

/-- `seal` (R377, R378): n bytes become an object of 48 + n bytes. -/
def execSeal (h : OpHdr) (a b c : BitVec 6) (k : BitVec 2) (s : State) : Out :=
  .next (cipherOp h a b c k true (fun n => n) (fun n => 256 * linesFor (48 + n)) s)

/-- `open` (R377): the object may take as many lines as its capacity allows. -/
def execOpen (h : OpHdr) (a b c : BitVec 6) (k : BitVec 2) (s : State) : Out :=
  .next (cipherOp h a b c k false (fun n => 256 * linesFor (48 + n)) (fun n => 256 * linesFor n) s)

/-- The header of a sealed object (R378). -/
def sealHeader (ctr : Word) (bid : BitVec 32) (k : BitVec 2) (band : Band) (len : Nat) : List Byte :=
  natBytes ctr.toNat 8 ++ natBytes bid.toNat 4 ++ [k.setWidth 8, band, 0#8, 0#8] ++ natBytes len 4 ++ List.replicate 12 0#8
/-- The IV (R378): BID and CTR, each big-endian. -/
def sealIv (bid ctr : Nat) : List Byte := beBytes bid 4 ++ beBytes ctr 8

/-- The n bytes at an offset of a window. -/
def spmBytesAt (m : Spm) (o n : Nat) : List Byte := (List.range n).map (fun i => spmByte m (o + i))
/-- A line from 256 bytes. -/
def lineOf (l : List Byte) : BitVec 2048 := BitVec.ofNat 2048 (bytesNat l)
/-- Writes whole lines, filled up with zeros, with a band and a form bit and without poison, after every store on its way to them
(R252). -/
def putLines (m : Spm) (o : Nat) (bytes : List Byte) (n : Nat) (band : Band) (form : Bool) : Spm :=
  (List.range n).foldl (fun m i =>
    { m with lines := mset zeroSpmLine m.lines (o / 256 + i) ⟨lineOf ((bytes.drop (256 * i)).take 256), band, form, 0#4⟩,
             stores := m.stores.filter (fun st => st.line != o / 256 + i) }) m

/-- How a cipher command ends: a fault of class P, or the window and what stops the context afterwards. -/
inductive CipherEnd where
  | kill (c : Cause)
  | done (m : Spm) (stop : Option Cause)

/-- A `seal` (R379). -/
def runSeal (c : Ctx) (cmd : CipherCmd) (key : BitVec 256) : CipherEnd :=
  let n := cmd.n.toNat
  let src := cmd.src.toNat
  let lines := (spmRangeLines src n).map (spmLine c.engineSpm)
  match bandOf (lines.map (·.band)) with
  | none => .kill .p06
  | some b =>
    if lines.any (·.form) then .kill .p07
    else if spmRangePoison c.engineSpm src n then .done c.spm (some .d40)
    else
      let hdr := sealHeader cmd.ctr c.ident.bid cmd.k b n
      let r := gcmEncrypt key (sealIv c.ident.bid.toNat cmd.ctr.toNat) hdr (spmBytesAt c.engineSpm src n)
      .done (putLines c.spm cmd.dst.toNat (hdr ++ r.1 ++ r.2) (linesFor (48 + n)) b true) none

/-- The lines of a refused `open` (R379): zeros of the context's band, and D42. -/
def openFailed (c : Ctx) (cmd : CipherCmd) : CipherEnd :=
  .done (putLines c.spm cmd.dst.toNat [] (linesFor cmd.n.toNat) c.band false) (some .d42)

/-- An `open` (R379). -/
def runOpen (c : Ctx) (cmd : CipherCmd) (key : BitVec 256) : CipherEnd :=
  let src := cmd.src.toNat
  let hdr := spmBytesAt c.engineSpm src 32
  let len := bytesNat ((hdr.drop 16).take 4)
  let lines := (spmRangeLines src (48 + len)).map (spmLine c.engineSpm)
  if len = 0 ∨ cmd.n.toNat < len ∨ !(lines.all (·.form)) then openFailed c cmd
  else
    let ctr := bytesNat (hdr.take 8)
    let bid := bytesNat ((hdr.drop 8).take 4)
    let band := byteAt hdr 13
    match gcmDecrypt key (sealIv bid ctr) hdr (spmBytesAt c.engineSpm (src + 32) len) (spmBytesAt c.engineSpm (src + 32 + len) 16) with
    | none => openFailed c cmd
    | some p =>
      if bandConflict band c.band then .kill .p06
      else .done (putLines c.spm cmd.dst.toNat p (linesFor len) band false) none

/-- May a context's head command run: a started one, which a Rinse waits for too (R383), or the next one unless its context rests for
a save (R381). -/
def cipherReady (c : Ctx) : Bool :=
  !c.eng.cipher.isEmpty && ((c.eng.cipherRun && c.life == .rinsing) || (isBound c && (c.eng.cipherRun || !c.resting)))

/-- The front end whose head command the unit runs: the one committed first (R380). -/
def cipherNext (s : State) (core : CoreId) : Option (FeId × CipherCmd) :=
  let get (fe : FeId) : Option (FeId × CipherCmd) :=
    if cipherReady (s.ctx fe) then (s.ctx fe).eng.cipher.head?.map (fun c => (fe, c)) else none
  match get (feA core), get (feB core) with
  | some a, some b => if b.2.since < a.2.since then some b else some a
  | some a, none => some a
  | none, r => r

/-- The head command leaves the unit, and the next one starts. -/
def popCipher (s : State) (fe : FeId) (num : Word) : State :=
  (doneNum s fe tlX num).modCtx fe (fun c =>
    let rest := c.eng.cipher.tail
    { c with eng := { c.eng with cipher := rest, cipherRun := !rest.isEmpty && !c.resting } })

/-- CIPHER_COMMAND_COMPLETE (R379 to R381, R383): an empty key slot is P06 at the start; a context that departs is killed already. -/
def execCipherCommandComplete (core : CoreId) (s : State) : Out :=
  .next (match cipherNext s core with
    | none => s
    | some (fe, cmd) =>
      let c := s.ctx fe
      let kill (f : Cause) : State :=
        if c.life = .rinsing then popCipher s fe cmd.num else trapEngine s fe f false false cmd.prov cmd.word 0#64 0#64 0#64
      match vget none c.keys cmd.k with
      | none => kill .p06
      | some key =>
        match (if cmd.isSeal then runSeal c cmd key else runOpen c cmd key) with
        | .kill f => kill f
        | .done m stop =>
          let s := s.modCtx fe (fun c =>
            { c with spm := m, stops := { c.stops with engine := c.stops.engine ++ (stop.map (fun f => (f, cmd.word))).toList } })
          popCipher s fe cmd.num)

end Sys2Proof.Machine
end

