-- ==== Sys2Proof/Machine/Uses.lean ====
section
/-! DEFINITION. The registers that an op names: what it writes and what it reads, for the duplicate destinations of a group
(R35), the shadow reads of debug mode (R54) and interlocked scoreboard mode (R359). -/
namespace Sys2Proof.Machine

/-- A register that an op reads or that a landing writes. -/
inductive RegRef where
  | s (n : BitVec 6)
  | p (n : BitVec 4)
  | v (n : BitVec 6)
  | m (n : BitVec 3)
  | q (n : BitVec 3)
  | fmt
  | flags
  | kvpol
  | stallc (ch : Bool)
  | band
deriving DecidableEq, Repr

/-- What an op names: its header, its destination registers, the other registers it writes, and those it reads. -/
structure Uses where
  hdr : OpHdr
  dst : List RegRef
  writes : List RegRef
  reads : List RegRef
deriving DecidableEq, Repr

/-- A vector source. -/
def vsrcRef : VSrc → RegRef
  | .v n => .v n
  | .q n => .q n
/-- An op that rounds under FMT.RM reads FMT (R66). -/
def rmsRefs : Rms → List RegRef
  | .fmt => [.fmt]
  | .mode _ => []
/-- The guard, unless it is p0. -/
def guardRefs (h : OpHdr) : List RegRef := if h.g = 0#4 then [] else [.p h.g]
/-- The old destination of a guarded vector op (R148). -/
def oldRefs (h : OpHdr) (d : RegRef) : List RegRef := if h.g = 0#4 then [] else [d]
/-- m0 to m7. -/
def mRefs : List RegRef := (List.range 8).map (fun i => .m (BitVec.ofNat 3 i))
/-- The special registers of R44 that landings write. -/
def srRefs (n : BitVec 32) : List RegRef :=
  if n = 0#32 then [.fmt, .flags] else if n = 2#32 then [.band] else if n = 4#32 then [.kvpol] else if n = 5#32 then [.stallc false]
  else if n = 6#32 then [.stallc true] else []

/-- What each op word names; the words of the other instruction sets and the events name no such register. -/
def opUses : Instr → Uses
  | .nop h _ => ⟨h, [], [], []⟩
  | .add h d a b => ⟨h, [.s d], [], guardRefs h ++ [.s a, .s b]⟩
  | .sub h d a b => ⟨h, [.s d], [], guardRefs h ++ [.s a, .s b]⟩
  | .and h d a b => ⟨h, [.s d], [], guardRefs h ++ [.s a, .s b]⟩
  | .or h d a b => ⟨h, [.s d], [], guardRefs h ++ [.s a, .s b]⟩
  | .xor h d a b => ⟨h, [.s d], [], guardRefs h ++ [.s a, .s b]⟩
  | .andn h d a b => ⟨h, [.s d], [], guardRefs h ++ [.s a, .s b]⟩
  | .shl h d a b => ⟨h, [.s d], [], guardRefs h ++ [.s a, .s b]⟩
  | .shr h d a b => ⟨h, [.s d], [], guardRefs h ++ [.s a, .s b]⟩
  | .sra h d a b => ⟨h, [.s d], [], guardRefs h ++ [.s a, .s b]⟩
  | .rot h d a b => ⟨h, [.s d], [], guardRefs h ++ [.s a, .s b]⟩
  | .min h d a b => ⟨h, [.s d], [], guardRefs h ++ [.s a, .s b]⟩
  | .max h d a b => ⟨h, [.s d], [], guardRefs h ++ [.s a, .s b]⟩
  | .minu h d a b => ⟨h, [.s d], [], guardRefs h ++ [.s a, .s b]⟩
  | .maxu h d a b => ⟨h, [.s d], [], guardRefs h ++ [.s a, .s b]⟩
  | .mul h d a b => ⟨h, [.s d], [], guardRefs h ++ [.s a, .s b]⟩
  | .mulh h d a b => ⟨h, [.s d], [], guardRefs h ++ [.s a, .s b]⟩
  | .mulhu h d a b => ⟨h, [.s d], [], guardRefs h ++ [.s a, .s b]⟩
  | .div h d a b => ⟨h, [.s d], [], guardRefs h ++ [.s a, .s b]⟩
  | .divu h d a b => ⟨h, [.s d], [], guardRefs h ++ [.s a, .s b]⟩
  | .rem h d a b => ⟨h, [.s d], [], guardRefs h ++ [.s a, .s b]⟩
  | .remu h d a b => ⟨h, [.s d], [], guardRefs h ++ [.s a, .s b]⟩
  | .clz h d a => ⟨h, [.s d], [], guardRefs h ++ [.s a]⟩
  | .ctz h d a => ⟨h, [.s d], [], guardRefs h ++ [.s a]⟩
  | .popc h d a => ⟨h, [.s d], [], guardRefs h ++ [.s a]⟩
  | .bfx h d a _ _ _ => ⟨h, [.s d], [], guardRefs h ++ [.s a]⟩
  | .bfi h d a b _ _ => ⟨h, [.s d], [], guardRefs h ++ [.s a, .s b]⟩
  | .sel h d a b c => ⟨h, [.s d], [], guardRefs h ++ [.s a, .s b, .p c]⟩
  | .addi h d a _ => ⟨h, [.s d], [], guardRefs h ++ [.s a]⟩
  | .andi h d a _ => ⟨h, [.s d], [], guardRefs h ++ [.s a]⟩
  | .ori h d a _ => ⟨h, [.s d], [], guardRefs h ++ [.s a]⟩
  | .xori h d a _ => ⟨h, [.s d], [], guardRefs h ++ [.s a]⟩
  | .shli h d a _ => ⟨h, [.s d], [], guardRefs h ++ [.s a]⟩
  | .shri h d a _ => ⟨h, [.s d], [], guardRefs h ++ [.s a]⟩
  | .srai h d a _ => ⟨h, [.s d], [], guardRefs h ++ [.s a]⟩
  | .li h d _ => ⟨h, [.s d], [], guardRefs h ++ []⟩
  | .lih h d a _ => ⟨h, [.s d], [], guardRefs h ++ [.s a]⟩
  | .muli h d a _ => ⟨h, [.s d], [], guardRefs h ++ [.s a]⟩
  | .ceq h d a b => ⟨h, [.p d], [], guardRefs h ++ [.s a, .s b]⟩
  | .cne h d a b => ⟨h, [.p d], [], guardRefs h ++ [.s a, .s b]⟩
  | .clt h d a b => ⟨h, [.p d], [], guardRefs h ++ [.s a, .s b]⟩
  | .cltu h d a b => ⟨h, [.p d], [], guardRefs h ++ [.s a, .s b]⟩
  | .cle h d a b => ⟨h, [.p d], [], guardRefs h ++ [.s a, .s b]⟩
  | .cleu h d a b => ⟨h, [.p d], [], guardRefs h ++ [.s a, .s b]⟩
  | .ceqi h d a _ => ⟨h, [.p d], [], guardRefs h ++ [.s a]⟩
  | .clti h d a _ => ⟨h, [.p d], [], guardRefs h ++ [.s a]⟩
  | .pand h d a b => ⟨h, [.p d], [], guardRefs h ++ [.p a, .p b]⟩
  | .por h d a b => ⟨h, [.p d], [], guardRefs h ++ [.p a, .p b]⟩
  | .pxor h d a b => ⟨h, [.p d], [], guardRefs h ++ [.p a, .p b]⟩
  | .pnot h d a => ⟨h, [.p d], [], guardRefs h ++ [.p a]⟩
  | .pset h d a _ => ⟨h, [.p d], [], guardRefs h ++ [.s a]⟩
  | .skip h a _ => ⟨h, [], [], guardRefs h ++ [.p a]⟩
  | .eskip h a _ _ => ⟨h, [], [], guardRefs h ++ [.p a]⟩
  | .post h a => ⟨h, [], [], guardRefs h ++ [.s a]⟩
  | .rdsr h d n => ⟨h, [.s d], [], guardRefs h ++ [] ++ srRefs n⟩
  | .wrsr h a n => ⟨h, [], srRefs n, guardRefs h ++ [.s a]⟩
  | .endq h => ⟨h, [], [], guardRefs h ++ []⟩
  | .lset h a _ => ⟨h, [], [], guardRefs h ++ [.s a]⟩
  | .lbody h _ => ⟨h, [], [], guardRefs h ++ []⟩
  | .lstage h _ => ⟨h, [], [], guardRefs h ++ []⟩
  | .lgo h _ => ⟨h, [], [], guardRefs h ++ []⟩
  | .lbrk h => ⟨h, [], [], guardRefs h ++ []⟩
  | .lidx h d _ => ⟨h, [.s d], [], guardRefs h ++ []⟩
  | .vadd h _ _ d a b => ⟨h, [.v d], [], guardRefs h ++ [vsrcRef a, vsrcRef b] ++ oldRefs h (.v d)⟩
  | .vsub h _ _ d a b => ⟨h, [.v d], [], guardRefs h ++ [vsrcRef a, vsrcRef b] ++ oldRefs h (.v d)⟩
  | .vmul h _ _ d a b => ⟨h, [.v d], [], guardRefs h ++ [vsrcRef a, vsrcRef b] ++ oldRefs h (.v d)⟩
  | .vmac h _ _ d a b c => ⟨h, [.v d], [], guardRefs h ++ [vsrcRef a, vsrcRef b, .v c] ++ oldRefs h (.v d)⟩
  | .vadds h _ _ d a b => ⟨h, [.v d], [], guardRefs h ++ [vsrcRef a, vsrcRef b] ++ oldRefs h (.v d)⟩
  | .vsubs h _ _ d a b => ⟨h, [.v d], [], guardRefs h ++ [vsrcRef a, vsrcRef b] ++ oldRefs h (.v d)⟩
  | .vmin h _ _ d a b => ⟨h, [.v d], [], guardRefs h ++ [vsrcRef a, vsrcRef b] ++ oldRefs h (.v d)⟩
  | .vmax h _ _ d a b => ⟨h, [.v d], [], guardRefs h ++ [vsrcRef a, vsrcRef b] ++ oldRefs h (.v d)⟩
  | .vabs h _ _ d a => ⟨h, [.v d], [], guardRefs h ++ [vsrcRef a] ++ oldRefs h (.v d)⟩
  | .vshl h _ _ d a b => ⟨h, [.v d], [], guardRefs h ++ [vsrcRef a, vsrcRef b] ++ oldRefs h (.v d)⟩
  | .vshr h _ _ d a b => ⟨h, [.v d], [], guardRefs h ++ [vsrcRef a, vsrcRef b] ++ oldRefs h (.v d)⟩
  | .vsra h _ _ d a b => ⟨h, [.v d], [], guardRefs h ++ [vsrcRef a, vsrcRef b] ++ oldRefs h (.v d)⟩
  | .vand h _ _ d a b => ⟨h, [.v d], [], guardRefs h ++ [vsrcRef a, vsrcRef b] ++ oldRefs h (.v d)⟩
  | .vor h _ _ d a b => ⟨h, [.v d], [], guardRefs h ++ [vsrcRef a, vsrcRef b] ++ oldRefs h (.v d)⟩
  | .vxor h _ _ d a b => ⟨h, [.v d], [], guardRefs h ++ [vsrcRef a, vsrcRef b] ++ oldRefs h (.v d)⟩
  | .vmulhr h _ _ d a b => ⟨h, [.v d], [], guardRefs h ++ [vsrcRef a, vsrcRef b] ++ oldRefs h (.v d)⟩
  | .vdot4 h _ _ d a b c _ => ⟨h, [.v d], [], guardRefs h ++ [vsrcRef a, vsrcRef b, .v c] ++ oldRefs h (.v d)⟩
  | .vsel h _ _ d a b c => ⟨h, [.v d], [], guardRefs h ++ [vsrcRef a, vsrcRef b, .p c] ++ oldRefs h (.v d)⟩
  | .vfadd h _ _ d a b rms => ⟨h, [.v d], [], guardRefs h ++ [vsrcRef a, vsrcRef b] ++ rmsRefs rms ++ oldRefs h (.v d)⟩
  | .vfsub h _ _ d a b rms => ⟨h, [.v d], [], guardRefs h ++ [vsrcRef a, vsrcRef b] ++ rmsRefs rms ++ oldRefs h (.v d)⟩
  | .vfmul h _ _ d a b rms => ⟨h, [.v d], [], guardRefs h ++ [vsrcRef a, vsrcRef b] ++ rmsRefs rms ++ oldRefs h (.v d)⟩
  | .vfma h _ _ d a b c rms => ⟨h, [.v d], [], guardRefs h ++ [vsrcRef a, vsrcRef b, .v c] ++ rmsRefs rms ++ oldRefs h (.v d)⟩
  | .vfmin h _ _ d a b => ⟨h, [.v d], [], guardRefs h ++ [vsrcRef a, vsrcRef b] ++ oldRefs h (.v d)⟩
  | .vfmax h _ _ d a b => ⟨h, [.v d], [], guardRefs h ++ [vsrcRef a, vsrcRef b] ++ oldRefs h (.v d)⟩
  | .vfabs h _ _ d a => ⟨h, [.v d], [], guardRefs h ++ [vsrcRef a] ++ oldRefs h (.v d)⟩
  | .vfneg h _ _ d a => ⟨h, [.v d], [], guardRefs h ++ [vsrcRef a] ++ oldRefs h (.v d)⟩
  | .vrcp h _ _ d a rms => ⟨h, [.v d], [], guardRefs h ++ [vsrcRef a] ++ rmsRefs rms ++ oldRefs h (.v d)⟩
  | .vrsqrt h _ _ d a rms => ⟨h, [.v d], [], guardRefs h ++ [vsrcRef a] ++ rmsRefs rms ++ oldRefs h (.v d)⟩
  | .vexp2 h _ _ d a rms => ⟨h, [.v d], [], guardRefs h ++ [vsrcRef a] ++ rmsRefs rms ++ oldRefs h (.v d)⟩
  | .vlog2 h _ _ d a rms => ⟨h, [.v d], [], guardRefs h ++ [vsrcRef a] ++ rmsRefs rms ++ oldRefs h (.v d)⟩
  | .vfcmp h _ _ d a b _ => ⟨h, [.p d], [], guardRefs h ++ [vsrcRef a, vsrcRef b] ++ oldRefs h (.p d)⟩
  | .vcmp h _ _ d a b _ => ⟨h, [.p d], [], guardRefs h ++ [vsrcRef a, vsrcRef b] ++ oldRefs h (.p d)⟩
  | .vcvt h _ _ d a _ _ _ _ _ rms => ⟨h, [.v d], [], guardRefs h ++ [vsrcRef a] ++ rmsRefs rms ++ oldRefs h (.v d)⟩
  | .vquant h _ _ d a _ _ rms => ⟨h, [.v d], [], guardRefs h ++ [vsrcRef a] ++ rmsRefs rms ++ oldRefs h (.v d)⟩
  | .vdequant h _ _ d a _ rms => ⟨h, [.v d], [], guardRefs h ++ [vsrcRef a] ++ rmsRefs rms ++ oldRefs h (.v d)⟩
  | .vscale2 h _ _ d a b rms => ⟨h, [.v d], [], guardRefs h ++ [vsrcRef a, vsrcRef b] ++ rmsRefs rms ++ oldRefs h (.v d)⟩
  | .vrsum h _ _ d a _ rms => ⟨h, [.v d], [], guardRefs h ++ [vsrcRef a] ++ rmsRefs rms ++ oldRefs h (.v d)⟩
  | .vrmax h _ _ d a _ => ⟨h, [.v d], [], guardRefs h ++ [vsrcRef a] ++ oldRefs h (.v d)⟩
  | .vramax h _ _ d a _ => ⟨h, [.v d], [], guardRefs h ++ [vsrcRef a] ++ oldRefs h (.v d)⟩
  | .vrmin h _ _ d a _ => ⟨h, [.v d], [], guardRefs h ++ [vsrcRef a] ++ oldRefs h (.v d)⟩
  | .vperm h _ _ d a b c two => ⟨h, [.v d], [], guardRefs h ++ [vsrcRef a, vsrcRef b] ++ (if two then [.v c] else []) ++ oldRefs h (.v d)⟩
  | .vbcast h _ _ d a _ => ⟨h, [.v d], [], guardRefs h ++ [vsrcRef a] ++ oldRefs h (.v d)⟩
  | .vext h _ _ d a _ => ⟨h, [.s d], [], guardRefs h ++ [vsrcRef a] ++ oldRefs h (.s d)⟩
  | .vins h _ _ d a _ => ⟨h, [.v d], [], guardRefs h ++ [.s a, .v d]⟩
  | .vslide h _ _ d a b _ => ⟨h, [.v d], [], guardRefs h ++ [vsrcRef a, vsrcRef b] ++ oldRefs h (.v d)⟩
  | .vzip h _ _ d a b _ => ⟨h, [.v d], [], guardRefs h ++ [vsrcRef a, vsrcRef b] ++ oldRefs h (.v d)⟩
  | .vunzip h _ _ d a b _ => ⟨h, [.v d], [], guardRefs h ++ [vsrcRef a, vsrcRef b] ++ oldRefs h (.v d)⟩
  | .vmov h _ _ d a => ⟨h, [.v d], [], guardRefs h ++ [vsrcRef a] ++ oldRefs h (.v d)⟩
  | .vsplat h _ _ d a => ⟨h, [.v d], [], guardRefs h ++ [.s a] ++ oldRefs h (.v d)⟩
  | .vamul h _ _ d a b _ rms => ⟨h, [.v d], [], guardRefs h ++ [vsrcRef a, vsrcRef b, .fmt] ++ rmsRefs rms ++ oldRefs h (.v d)⟩
  | .vamac h _ _ d a b c _ rms => ⟨h, [.v d], [], guardRefs h ++ [vsrcRef a, vsrcRef b, .v c, .fmt] ++ rmsRefs rms ++ oldRefs h (.v d)⟩
  | .vconj h _ _ d a => ⟨h, [.v d], [], guardRefs h ++ [vsrcRef a, .fmt] ++ oldRefs h (.v d)⟩
  | .vnorm h _ _ d a rms => ⟨h, [.v d], [], guardRefs h ++ [vsrcRef a, .fmt] ++ rmsRefs rms ++ oldRefs h (.v d)⟩
  | .sminit h _ _ => ⟨h, [], [], guardRefs h ++ []⟩
  | .smstep h d a _ rms => ⟨h, [.v d], [], guardRefs h ++ [vsrcRef a] ++ rmsRefs rms ++ oldRefs h (.v d)⟩
  | .smrsc h d _ => ⟨h, [.s d], [], guardRefs h ++ []⟩
  | .smfin h d a _ rms => ⟨h, [.v d], [], guardRefs h ++ [vsrcRef a] ++ rmsRefs rms ++ oldRefs h (.v d)⟩
  | .smget h d _ => ⟨h, [.v d], [], guardRefs h ++ []⟩
  | .mcall h a _ _ _ _ _ => ⟨h, [], [], guardRefs h ++ [.s a, .fmt] ++ mRefs⟩
  | .mset h d a => ⟨h, [.m d], [], guardRefs h ++ [.s a]⟩
  | .msetRs h a _ => ⟨h, [], [], guardRefs h ++ [.s a]⟩
  | .mget h d a => ⟨h, [.s d], [], guardRefs h ++ [.m a]⟩
  | .mgetRs h d _ => ⟨h, [.s d], [], guardRefs h ++ []⟩
  | .malg h _ a => ⟨h, [], [], guardRefs h ++ [.s a, .fmt]⟩
  | .mdrain h => ⟨h, [], [], guardRefs h ++ [.fmt] ++ mRefs⟩
  | .mdrainRaw h a => ⟨h, [], [], guardRefs h ++ [.s a, .fmt] ++ mRefs⟩
  | .mfill h a => ⟨h, [], [], guardRefs h ++ [.s a, .fmt] ++ mRefs⟩
  | .mfreeze h => ⟨h, [], [], guardRefs h ++ []⟩
  | .mthaw h => ⟨h, [], [], guardRefs h ++ []⟩
  | .mstat h d _ => ⟨h, [.s d], [], guardRefs h ++ []⟩
  | .mload h base _ _ _ _ => ⟨h, [], mRefs, guardRefs h ++ [.s base]⟩
  | .tload h _ base _ _ => ⟨h, [], [], guardRefs h ++ [.s base, .fmt] ++ mRefs⟩
  | .mzero h => ⟨h, [], [], guardRefs h ++ [.fmt] ++ mRefs⟩
  | .ld h d base _ _ _ _ => ⟨h, [.s d], [], guardRefs h ++ [.s base]⟩
  | .vld h d base _ _ _ _ => ⟨h, [.v d], [], guardRefs h ++ [.s base]⟩
  | .vldc h d base _ _ => ⟨h, [.v d], [], guardRefs h ++ [.s base]⟩
  | .vldr h d _ b _ => ⟨h, [.v d], [], guardRefs h ++ [.s b]⟩
  | .vldg h _ d a b => ⟨h, [.v d], [], guardRefs h ++ [.s a, .v b] ++ oldRefs h (.v d)⟩
  | .vlds h _ d a b => ⟨h, [.v d], [], guardRefs h ++ [.s a, .s b] ++ oldRefs h (.v d)⟩
  | .lsq h base _ _ _ _ => ⟨h, [], [], guardRefs h ++ [.s base]⟩
  | .qset h d base _ _ _ _ => ⟨h, [.q d], [], guardRefs h ++ [.s base]⟩
  | .qclr h d => ⟨h, [.q d], [], guardRefs h ++ []⟩
  | .pref h _ base _ _ => ⟨h, [], [], guardRefs h ++ [.s base]⟩
  | .amo h d a b c _ _ _ _ fn => ⟨h, [.s d], [], guardRefs h ++ [.s a, .s b] ++ (if fn = 9#4 then [.s c] else [])⟩
  | .st h d base _ _ _ _ => ⟨h, [], [], guardRefs h ++ [.s d, .s base]⟩
  | .vst h d base _ _ _ _ => ⟨h, [], [], guardRefs h ++ [.v d, .s base]⟩
  | .vstm h d base _ _ _ _ => ⟨h, [], [], guardRefs h ++ [.v d, .s base]⟩
  | .vstr h d _ b _ => ⟨h, [], [], guardRefs h ++ [.v d, .s b]⟩
  | .vsts h _ d a b => ⟨h, [], [], guardRefs h ++ [.v d, .s a, .s b]⟩
  | .cflush h base _ _ _ => ⟨h, [], [], guardRefs h ++ [.s base]⟩
  | .cinval h base _ _ _ => ⟨h, [], [], guardRefs h ++ [.s base]⟩
  | .cclean h base _ _ _ => ⟨h, [], [], guardRefs h ++ [.s base]⟩
  | .radv h _ _ => ⟨h, [], [], guardRefs h ++ []⟩
  | .cpy h a b c _ _ _ _ => ⟨h, [], [], guardRefs h ++ [.s a, .s b, .s c]⟩
  | .cnl h a b c _ _ => ⟨h, [], [], guardRefs h ++ [.s a, .s b, .s c]⟩
  | .cnb h a b c _ => ⟨h, [], [], guardRefs h ++ [.s a, .s b, .s c]⟩
  | .cgo h _ _ _ _ _ => ⟨h, [], [], guardRefs h ++ []⟩
  | .cdrain h _ => ⟨h, [], [], guardRefs h ++ []⟩
  | .cmode h _ _ => ⟨h, [], [], guardRefs h ++ []⟩
  | .cstat h d _ => ⟨h, [.s d], [], guardRefs h ++ []⟩
  | .ckv h a b c _ _ _ _ => ⟨h, [], [], guardRefs h ++ [.s a, .s b, .s c, .kvpol]⟩
  | .cred h a b _ => ⟨h, [], [], guardRefs h ++ [.s a, .s b]⟩
  | .fence h _ _ => ⟨h, [], [], guardRefs h ++ []⟩
  | .tfence h _ => ⟨h, [], [], guardRefs h ++ []⟩
  | .twait h _ b _ i _ => ⟨h, [], [], guardRefs h ++ [] ++ (if i then [] else [.s b])⟩
  | .tget h d _ _ => ⟨h, [.s d], [], guardRefs h ++ []⟩
  | .barv h a => ⟨h, [], [], guardRefs h ++ [.s a]⟩
  | .bexp h a b => ⟨h, [], [], guardRefs h ++ [.s a, .s b]⟩
  | .bwait h a b => ⟨h, [], [], guardRefs h ++ [.s a, .s b]⟩
  | .sigdec h a b _ => ⟨h, [], [], guardRefs h ++ [.s a, .s b]⟩
  | .sigwait h d a => ⟨h, [.s d], [], guardRefs h ++ [.s a]⟩
  | .mwait h d a b _ => ⟨h, [.s d], [], guardRefs h ++ [.s a, .s b]⟩
  | .launch h d a => ⟨h, [.s d], [], guardRefs h ++ [.s a]⟩
  | .exit h _ => ⟨h, [], [], guardRefs h ++ []⟩
  | .trap h _ => ⟨h, [], [], guardRefs h ++ []⟩
  | .fmt h _ _ _ _ _ _ => ⟨h, [], [.fmt, .flags], guardRefs h ++ []⟩
  | .bandup h a => ⟨h, [], [.band], guardRefs h ++ [.s a]⟩
  | .seal_ h a b c _ => ⟨h, [], [], guardRefs h ++ [.s a, .s b, .s c]⟩
  | .open_ h a b c _ => ⟨h, [], [], guardRefs h ++ [.s a, .s b, .s c]⟩
  | .wld h a b _ => ⟨h, [], [], guardRefs h ++ [.s a, .s b]⟩
  | .wlock h _ => ⟨h, [], [], guardRefs h ++ []⟩
  | .wunlk h _ => ⟨h, [], [], guardRefs h ++ []⟩
  | .wx h d a _ => ⟨h, [.s d], [], guardRefs h ++ [.s a, .kvpol]⟩
  | .yield h => ⟨h, [], [], guardRefs h ++ []⟩
  | .rdtime h d => ⟨h, [.s d], [], guardRefs h ++ []⟩
  | _ => ⟨⟨false, false, 0#3, 0#4⟩, [], [], []⟩

/-- The registers that a register write of a landing writes. -/
def regWRef : RegW → RegRef
  | .s n _ => .s n
  | .p n _ => .p n
  | .v n _ _ => .v n
  | .m n _ => .m n
  | .fmt _ _ _ _ => .fmt
  | .flags _ _ => .flags
  | .sr n _ => if n = 4#4 then .kvpol else .stallc (n == 6#4)
  | .band _ => .band
  | .stream q _ => .q q

/-- The registers that a pending entry writes when it lands. -/
def Pend.refs (p : Pend) : List RegRef :=
  match p.kind with
  | .done w | .spm _ w => w.map regWRef
  | .load r =>
    match r.dst with
    | .s n => [.s n]
    | .v n _ _ => [.v n]
    | .mregs => mRefs
    | .stream q => [.q q]
    | .scale | .weir _ _ => []
  | .amo r => [.s r.d]
  | .launch d => [.s d]
  | .wait (.sigwait _ d) | .wait (.mwait _ d _ _ _) => [.s d]
  | .wait .none | .wait .load | .wait (.translate _ _) | .wait .group | .wait (.copyFull _) | .wait (.spout _ _) | .wait (.fence _ _)
  | .wait (.tfence _ _) | .wait (.twait _ _ _) | .wait (.bwait _ _) | .wait (.cdrain _ _) | .wait (.launch _) | .wait .mfreeze
  | .wait .mfrozenCmd => []

end Sys2Proof.Machine
end

