-- ==== Sys2Proof/Machine/Transc.lean ====
section
/-! DEFINITION. The correctly rounded functions of R155, R207 and R208, computed in fixed point of 420 fraction
bits with a sticky mark (assumption log 10). -/
namespace Sys2Proof.Machine

/-- Fraction bits of the fixed-point computations. -/
def fpP : Nat := 420
def fpOne : Nat := 1 <<< fpP

/-- Newton's integer square root from a start not below the root. -/
def isqrtGo (n : Nat) : Nat → Nat → Nat
  | 0, x => x
  | k + 1, x => let y := (x + n / x) / 2; if y < x then isqrtGo n k y else x
/-- floor(√n). -/
def isqrt (n : Nat) : Nat := if n = 0 then 0 else isqrtGo n 64 (1 <<< (Nat.log2 n / 2 + 1))

/-- 1 / x. -/
def rcpXV : XV → XV
  | .nan => .nan
  | .inf n => XV.zero n
  | .fin n m e _ =>
    if m = 0 then .inf n else
    let k := Nat.log2 m + 200
    .fin n ((1 <<< k) / m) (-(k : Int) - e) ((1 <<< k) % m != 0)

/-- 1 / √x. -/
def rsqrtXV : XV → XV
  | .nan => .nan
  | .inf n => if n then .nan else XV.zero false
  | .fin n m e _ =>
    if m = 0 then .inf n
    else if n then .nan
    else
      let odd := e % 2 != 0
      let m' := if odd then 2 * m else m
      let e' := if odd then e - 1 else e
      let k := Nat.log2 m' + 200
      let r := isqrt ((1 <<< (2 * k)) / m')
      .fin false r (-(k : Int) - e' / 2) (r * r * m' != 1 <<< (2 * k))

/-- Σ 1 / (k 2^k) in fixed point. -/
def ln2Go : Nat → Nat → Nat → Nat
  | 0, _, acc => acc
  | f + 1, k, acc => ln2Go f (k + 1) (acc + (fpOne >>> k) / k)
def fpLn2 : Nat := ln2Go 430 1 0

/-- Taylor series of e^y from term t = y^k / k!. -/
def expGo (y : Nat) : Nat → Nat → Nat → Nat → Nat
  | 0, _, _, acc => acc
  | f + 1, k, t, acc => if t = 0 then acc else expGo y f (k + 1) (((t * y) >>> fpP) / k) (acc + t)
/-- e^y for 0 ≤ y < 1 in fixed point. -/
def fpExp (y : Nat) : Nat := expGo y 130 1 fpOne 0

/-- atanh(z) for z ≤ 1/3 in fixed point. -/
def atanhGo (z2 : Nat) : Nat → Nat → Nat → Nat → Nat
  | 0, _, _, acc => acc
  | f + 1, k, t, acc => if t = 0 then acc else atanhGo z2 f (k + 2) ((t * z2) >>> fpP) (acc + t / k)
/-- ln r for 1 ≤ r < 2 in fixed point. -/
def fpLn (r : Nat) : Nat :=
  let z := ((r - fpOne) <<< fpP) / (r + fpOne)
  2 * atanhGo ((z * z) >>> fpP) 150 1 z 0

/-- arctan(1 / n) in fixed point. -/
def atanInvGo (n2 : Nat) : Nat → Nat → Nat → Bool → Int → Int
  | 0, _, _, _, acc => acc
  | f + 1, k, t, neg, acc =>
    if t = 0 then acc
    else atanInvGo n2 f (k + 2) (t / n2) (!neg) (if neg then acc - ((t / k : Nat) : Int) else acc + ((t / k : Nat) : Int))
def atanInv (n : Nat) : Int := atanInvGo (n * n) 200 1 (fpOne / n) false 0
def fpPi : Nat := (16 * atanInv 5 - 4 * atanInv 239).toNat
/-- 1 / √(2π) in fixed point. -/
def fpInvSqrt2Pi : Nat := isqrt ((1 <<< (3 * fpP)) / (2 * fpPi))

/-- |mag × 2^exp| in fixed point, truncated. -/
def toFixed (mag : Nat) (exp : Int) : Nat := (mag <<< (exp + fpP).toNat) >>> (-(exp + fpP)).toNat

/-- e^-y for fixed-point y ≥ 0. -/
def fpExpNeg (y : Nat) : Nat :=
  let k := y / fpLn2
  fpExp (fpLn2 - (y - k * fpLn2)) >>> (k + 1)

/-- A value just below mag × 2^exp in magnitude. -/
def justBelow (neg : Bool) (mag : Nat) (exp : Int) : XV := .fin neg ((mag <<< 200) - 1) (exp - 200) true
/-- A value just above mag × 2^exp in magnitude. -/
def justAbove (neg : Bool) (mag : Nat) (exp : Int) : XV := .fin neg (mag <<< 200) (exp - 200) true
/-- A nonzero value below every subnormal. -/
def tinyXV (neg : Bool) : XV := .fin neg 0 (-1000) true

/-- 2^x (R155). -/
def exp2XV : XV → XV
  | .nan => .nan
  | .inf n => if n then XV.zero false else .inf false
  | .fin neg m e _ =>
    if m = 0 then XV.ofNat 1
    else if 12 < floorLog2 m e then (if neg then tinyXV false else .fin false 1 5000 false)
    else if floorLog2 m e < -200 then (if neg then justBelow false 1 0 else justAbove false 1 0)
    else
      let f : Nat := toFixed m e
      let xi : Int := if neg then -(f : Int) else (f : Int)
      let n := xi / (fpOne : Int)
      let fr := (xi % (fpOne : Int)).toNat
      if fr = 0 then .fin false 1 n false
      else .fin false (fpExp ((fr * fpLn2) >>> fpP)) (n - fpP) true

/-- log2 x (R155). -/
def log2XV : XV → XV
  | .nan => .nan
  | .inf n => if n then .nan else .inf false
  | .fin neg m e _ =>
    if m = 0 then .inf true
    else if neg then .nan
    else
      let l := Nat.log2 m
      let w : Int := (l : Int) + e
      if m = 2 ^ l then XV.ofInt w
      else
        let r := (m <<< fpP) >>> l
        let v : Int := w * (fpOne : Int) + (((fpLn r) <<< fpP) / fpLn2 : Nat)
        .fin (decide (v < 0)) v.natAbs (-(fpP : Int)) true

/-- tanh x (R207). -/
def tanhXV : XV → XV
  | .nan => .nan
  | .inf n => .fin n 1 0 false
  | .fin neg m e _ =>
    if m = 0 then XV.zero neg
    else if 7 < floorLog2 m e then justBelow neg 1 0
    else if floorLog2 m e < -100 then justBelow neg m e
    else
      let q := fpExpNeg (2 * toFixed m e)
      if q = 0 then justBelow neg 1 0
      else .fin neg (((fpOne - q) <<< fpP) / (fpOne + q)) (-(fpP : Int)) true

/-- x / (1 + e^-x) (R207). -/
def siluXV : XV → XV
  | .nan => .nan
  | .inf n => if n then XV.zero true else .inf false
  | .fin neg m e _ =>
    if m = 0 then XV.zero neg
    else if 7 < floorLog2 m e then (if neg then tinyXV true else justBelow false m e)
    else if floorLog2 m e < -100 then (if neg then justBelow true m (e - 1) else justAbove false m (e - 1))
    else
      let q := fpExpNeg (toFixed m e)
      let num := if neg then q else fpOne
      .fin neg ((m * (num <<< fpP)) / (fpOne + q)) (e - fpP) true

/-- Σ x^(2n+1) / (1·3·…·(2n+1)) in fixed point. -/
def phiGo (x2 : Nat) : Nat → Nat → Nat → Nat → Nat
  | 0, _, _, acc => acc
  | f + 1, k, t, acc => if t = 0 then acc else phiGo x2 f (k + 2) (((t * x2) >>> fpP) / (k + 2)) (acc + t)

/-- x × Φ(x) (R207). From |x| = 16 on, 1 − Φ(|x|) is below 2^-180: the value lies just below x, or below every subnormal. -/
def geluXV : XV → XV
  | .nan => .nan
  | .inf n => if n then XV.zero true else .inf false
  | .fin neg m e _ =>
    if m = 0 then XV.zero neg
    else if 3 < floorLog2 m e then (if neg then tinyXV true else justBelow false m e)
    else if floorLog2 m e < -100 then (if neg then justBelow true m (e - 1) else justAbove false m (e - 1))
    else
      let x := toFixed m e
      let x2 := (x * x) >>> fpP
      let phi := (fpExpNeg (x2 / 2) * fpInvSqrt2Pi) >>> fpP
      let s := (phi * phiGo x2 3000 1 x 0) >>> fpP
      let half := fpOne / 2
      let cdf := if neg then half - s else half + s
      .fin neg (m * cdf) (e - fpP) true

/-- Rounds to an integral value under the mode, keeping the sign of a zero (R207 `trnd`). -/
def integralXV (rm : Rm) : XV → XV
  | .fin n m e k => .fin n (roundMag rm n m e k 0) 0 false
  | y => y

end Sys2Proof.Machine
end

