-- ==== Sys2Proof/Machine/Vector.lean ====
section
/-! DEFINITION. The VA and VB slots without the softmax unit (06_vector R142 to R165). -/
namespace Sys2Proof

/-! ### Types and lanes -/

def ITy.vty : ITy → VTy
  | .i8 => .i8 | .u8 => .u8 | .i16 => .i16 | .u16 => .u16 | .i32 => .i32 | .u32 => .u32
def FTy.vty : FTy → VTy
  | .bf16 => .bf16 | .f16 => .f16 | .f32 => .f32
def ITy.signed : ITy → Bool
  | .i8 | .i16 | .i32 => true
  | .u8 | .u16 | .u32 => false
def VTy.signed : VTy → Bool
  | .i8 | .i16 | .i32 => true
  | .u8 | .u16 | .u32 | .bf16 | .f16 | .f32 => false
/-- The number format of a vector type (R31, R61). -/
def VTy.fmt : VTy → Machine.Fmt
  | .i8 => .int true 8 0 | .u8 => .int false 8 0 | .i16 => .int true 16 0 | .u16 => .int false 16 0
  | .i32 => .int true 32 0 | .u32 => .int false 32 0 | .bf16 => Machine.fmtBF16 | .f16 => Machine.fmtF16
  | .f32 => Machine.fmtF32
def FTy.fmt (t : FTy) : Machine.Fmt := t.vty.fmt

end Sys2Proof

namespace Sys2Proof.Machine

/-- A list of elements of w bits each, from element 0 up, as register bits. -/
def packLanes (w : Nat) : List Nat → Nat
  | [] => 0
  | x :: l => x % 2 ^ w + 2 ^ w * packLanes w l
/-- A register whose active lanes hold f i, and 0 elsewhere. -/
def buildLanes (w : Nat) (act : List Nat) (f : Nat → Nat) : BitVec 2048 :=
  BitVec.ofNat 2048 (packLanes (8 * w) ((List.range (256 / w)).map (fun i => if act.contains i then f i else 0)))
/-- Element i of `w` bits of a register, for formats narrower than a byte as well (R65). -/
def elem (bits : BitVec 2048) (w i : Nat) : Nat := (bits.extractLsb' (w * i) w).toNat
/-- A lane read as an integer. -/
def laneInt (signed : Bool) (bits : BitVec 2048) (w i : Nat) : Int :=
  let x := lane bits w i
  if signed && decide (2 ^ (8 * w - 1) ≤ x) then (x : Int) - 2 ^ (8 * w) else x
/-- A lane read as an exact value. -/
def laneXV (f : Fmt) (bits : BitVec 2048) (w i : Nat) : XV := f.value (lane bits w i)

/-! ### Sources and destinations -/

/-- The rounding mode of an op (R66, R143). -/
def rmOf (c : Ctx) : Rms → Rm
  | .fmt => Rm.ofBits (fmtRm c.regs.fmt)
  | .mode m => Rm.ofBits m

/-- Why a vector source gives no value: the op faults (R144, R248), the Spout has still to read (R53), or the Spout's read met a
fault of translation, which is none of the op's own (R165). -/
inductive SrcEnd where
  | wait
  | stop (c : Cause) (ea : Word)
  | fault (c : Cause) (ea : Word)
deriving DecidableEq, Repr

/-- Reads a vector source (R144, R248). -/
def srcVal (c : Ctx) : VSrc → Except SrcEnd VReg
  | .v n => .ok (c.rV n)
  | .q n =>
    let st := vget zeroStream c.regs.streams n
    if !st.bound then .error (.fault .p08 0#64)
    else
      match st.ready with
      | none => .error .wait
      | some r =>
        if r.rm ≠ fmtRm c.regs.fmt then .error .wait
        else
          match r.fault with
          | some x => .error (if x.1.cls = .t then .stop x.1 x.2 else .fault x.1 x.2)
          | none => .ok r.v

/-- The vectors that a stream delivers for one pop: 256 bytes of the output type (R248). -/
def popLanes (d : BitVec 512) : Nat := 2048 / otypeBits (descOtype d)

/-- The scale stream of a descriptor with DEQ (R247). -/
def descScales (d : BitVec 512) : Option (BitVec 3) := (descPos d 2).head?.map (fun k => (descOp d k).2.setWidth 3)
/-- The next vector of a stream takes its scale bytes from a new vector of its scale stream: 32 elements share a byte (R247). -/
def needsScales (st : Stream) : Bool := (descScales st.desc).isSome && st.delivered % 8192 == 0

/-- A pop of stream n (R144, R248): the position moves on, CVT flags are set in the beat of the pop, and the scale stream
pops a vector when the stream has used its last one. -/
def popStream (c : Ctx) (n : BitVec 3) (keep : Bool) : Nat → Ctx
  | 0 => c
  | fuel + 1 =>
    let st := vget zeroStream c.regs.streams n
    match st.ready with
    | none => c
    | some r =>
      let st' := { st with delivered := st.delivered + popLanes st.desc, pops := st.pops + 1, ready := none,
                           scales := if keep then some r.v else st.scales }
      let c := applyRegWs { c with regs := { c.regs with streams := vset c.regs.streams n st' } } (flagWrites r.nan r.ovf)
      match descScales st.desc with
      | some q => if needsScales st then popStream c q true fuel else c
      | none => c

/-- A pop by a vector source (R144). -/
def popSrc (c : Ctx) : VSrc → Ctx
  | .v _ => c
  | .q n => popStream c n false 8

/-- Of two sources that give no value, the one that decides: a fault of the op before a stop, and a stop before a wait. -/
def SrcEnd.first : SrcEnd → SrcEnd → SrcEnd
  | .fault c ea, _ => .fault c ea
  | _, .fault c ea => .fault c ea
  | .stop c ea, _ => .stop c ea
  | _, .stop c ea => .stop c ea
  | .wait, .wait => .wait
/-- Reads every source. -/
def srcVals (c : Ctx) : List VSrc → Except SrcEnd (List VReg)
  | [] => .ok []
  | x :: l =>
    match srcVal c x, srcVals c l with
    | .ok v, .ok vs => .ok (v :: vs)
    | .error e, .error f => .error (e.first f)
    | .error e, .ok _ | .ok _, .error e => .error e

/-- A vector op (R144, R146): its field check, squashing, a poisoned guard, its sources with their pops. A fault of translation
that the Spout met is no fault of this op: its group does not issue, and the context takes the fault before it (R165, assumption
log 71). -/
def vecOp (s : State) (vb : Bool) (h : OpHdr) (ok : Bool) (srcs : List VSrc) (f : State → List VReg → State) : State :=
  laneOp s (vslot vb) h ok (fun s =>
    match srcVals (s.ctx s.cur) srcs with
    | .error (.fault c ea) => opFault s (vslot vb) c ea
    | .error (.stop c ea) => opWaitFor s (.spout c ea)
    | .error .wait => opWait s
    | .ok vs => f (s.modCtx s.cur (fun c => srcs.foldl popSrc c)) vs)

/-- The bands that join a result beside its sources: the guard's when G ≠ 0 (R148). -/
def guardBand (c : Ctx) (h : OpHdr) : List Band := if h.g = 0#4 then [] else [(c.rP h.g).band]

/-- Lands a vector result (R148, R149): `mask` is the bytes written, `bands` the sources' bands, `keep` says that the old
destination joins even without a guard. The old destination's band is the one read at issue, while the bytes and marks of
inactive lanes are those that stand at the landing beat (assumption log 72). -/
def landVec (s : State) (vb : Bool) (h : OpHdr) (lat : Nat) (d : BitVec 6) (bits : BitVec 2048) (mask : BitVec 256)
    (poison : BitVec 4) (bands : List Band) (keep : Bool) (nan ovf : Bool) : State :=
  let c := s.ctx s.cur
  let old := if keep || h.g != 0#4 then [(c.rV d).band] else []
  match bandOf (bands ++ guardBand c h ++ old) with
  | none => opFault s (vslot vb) .p06 0#64
  | some b => landRegs s (vslot vb) lat (.v d ⟨bits, b, poison⟩ mask :: flagWrites nan ovf)

/-- The active lanes of an op for lanes of w bytes. -/
def vecAct (s : State) (h : OpHdr) (w : Nat) : List Nat := activeLanes ((s.ctx s.cur).rP h.g) w

/-- The granule marks of the sources where active lanes stand (R149), for ops whose source and destination lanes agree. -/
def lanePoison (w : Nat) (act : List Nat) (vs : List VReg) : BitVec 4 :=
  (vs.foldl (fun a v => a ||| v.poison) 0#4) &&& lanesGranules w act

/-- A lane-wise op: lane i gets f of the sources' registers and i. -/
def vecLane (s : State) (vb : Bool) (h : OpHdr) (lat w : Nat) (d : BitVec 6) (srcs : List VSrc) (f : List VReg → Nat → Nat) : State :=
  vecOp s vb h true srcs (fun s vs =>
    let act := vecAct s h w
    landVec s vb h lat d (buildLanes w act (f vs)) (lanesMask w act) (lanePoison w act vs) (vs.map (·.band)) false false false)

/-- Register k of the sources. -/
def src (vs : List VReg) (k : Nat) : BitVec 2048 := (vs.getD k zeroVReg).bits

/-! ### Integer ops (R153, R154) -/

/-- An integer op on two sources: lane i gets f A B wrapped to the lane. -/
def vecInt (s : State) (vb : Bool) (h : OpHdr) (lat : Nat) (t : ITy) (d : BitVec 6) (a b : VSrc) (f : Int → Int → Int) : State :=
  let w := t.vty.bytes
  vecLane s vb h lat w d [a, b] (fun vs i =>
    wrapInt (8 * w) (f (laneInt t.signed (src vs 0) w i) (laneInt t.signed (src vs 1) w i)))

/-- `Sat` to the type's range (R153). -/
def satTy (t : ITy) (x : Int) : Int :=
  let r := intRange t.signed (8 * t.vty.bytes)
  satInt x r.1 r.2

/-- A bitwise op or shift on two sources, as unsigned lanes. -/
def vecBits (s : State) (vb : Bool) (h : OpHdr) (t : ITy) (d : BitVec 6) (a b : VSrc) (f : Nat → Nat → Nat) : State :=
  let w := t.vty.bytes
  vecLane s vb h 2 w d [a, b] (fun vs i => f (lane (src vs 0) w i) (lane (src vs 1) w i))

/-- `vmulhr` (R153). -/
def mulhr (t : ITy) (a b : Int) : Int :=
  let w := 8 * t.vty.bytes
  if t.signed then satTy t ((a * b + 2 ^ (w - 2)) / 2 ^ (w - 1)) else (a * b + 2 ^ (w - 1)) / 2 ^ w

def execVadd (h : OpHdr) (vb : Bool) (t : ITy) (d : BitVec 6) (a b : VSrc) (s : State) : Out :=
  .next (vecInt s vb h 2 t d a b (· + ·))
def execVsub (h : OpHdr) (vb : Bool) (t : ITy) (d : BitVec 6) (a b : VSrc) (s : State) : Out :=
  .next (vecInt s vb h 2 t d a b (· - ·))
def execVmul (h : OpHdr) (vb : Bool) (t : ITy) (d : BitVec 6) (a b : VSrc) (s : State) : Out :=
  .next (vecInt s vb h 3 t d a b (· * ·))
def execVmac (h : OpHdr) (vb : Bool) (t : ITy) (d : BitVec 6) (a b : VSrc) (c : BitVec 6) (s : State) : Out :=
  let w := t.vty.bytes
  .next (vecLane s vb h 3 w d [a, b, .v c] (fun vs i =>
    wrapInt (8 * w) (laneInt t.signed (src vs 2) w i + laneInt t.signed (src vs 0) w i * laneInt t.signed (src vs 1) w i)))
def execVadds (h : OpHdr) (vb : Bool) (t : ITy) (d : BitVec 6) (a b : VSrc) (s : State) : Out :=
  .next (vecInt s vb h 2 t d a b (fun x y => satTy t (x + y)))
def execVsubs (h : OpHdr) (vb : Bool) (t : ITy) (d : BitVec 6) (a b : VSrc) (s : State) : Out :=
  .next (vecInt s vb h 2 t d a b (fun x y => satTy t (x - y)))
def execVmin (h : OpHdr) (vb : Bool) (t : ITy) (d : BitVec 6) (a b : VSrc) (s : State) : Out :=
  .next (vecInt s vb h 2 t d a b (fun x y => if x ≤ y then x else y))
def execVmax (h : OpHdr) (vb : Bool) (t : ITy) (d : BitVec 6) (a b : VSrc) (s : State) : Out :=
  .next (vecInt s vb h 2 t d a b (fun x y => if x ≤ y then y else x))
/-- `vabs`: A for unsigned types; the most negative value stays itself. -/
def execVabs (h : OpHdr) (vb : Bool) (t : ITy) (d : BitVec 6) (a : VSrc) (s : State) : Out :=
  let w := t.vty.bytes
  .next (vecLane s vb h 2 w d [a] (fun vs i => wrapInt (8 * w) ((laneInt t.signed (src vs 0) w i).natAbs : Int)))
def execVshl (h : OpHdr) (vb : Bool) (t : ITy) (d : BitVec 6) (a b : VSrc) (s : State) : Out :=
  let n := 8 * t.vty.bytes
  .next (vecBits s vb h t d a b (fun x c => if n ≤ c then 0 else x <<< c % 2 ^ n))
def execVshr (h : OpHdr) (vb : Bool) (t : ITy) (d : BitVec 6) (a b : VSrc) (s : State) : Out :=
  let n := 8 * t.vty.bytes
  .next (vecBits s vb h t d a b (fun x c => if n ≤ c then 0 else x >>> c))
/-- `vsra`: copies of bit W − 1 whatever the type. -/
def execVsra (h : OpHdr) (vb : Bool) (t : ITy) (d : BitVec 6) (a b : VSrc) (s : State) : Out :=
  let n := 8 * t.vty.bytes
  .next (vecBits s vb h t d a b (fun x c => ((BitVec.ofNat n x).sshiftRight (min c n)).toNat))
def execVand (h : OpHdr) (vb : Bool) (t : ITy) (d : BitVec 6) (a b : VSrc) (s : State) : Out :=
  .next (vecBits s vb h t d a b (· &&& ·))
def execVor (h : OpHdr) (vb : Bool) (t : ITy) (d : BitVec 6) (a b : VSrc) (s : State) : Out :=
  .next (vecBits s vb h t d a b (· ||| ·))
def execVxor (h : OpHdr) (vb : Bool) (t : ITy) (d : BitVec 6) (a b : VSrc) (s : State) : Out :=
  .next (vecBits s vb h t d a b (· ^^^ ·))
def execVmulhr (h : OpHdr) (vb : Bool) (t : ITy) (d : BitVec 6) (a b : VSrc) (s : State) : Out :=
  .next (vecInt s vb h 3 t d a b (mulhr t))

/-- The four products of a lane of `vdot4` (R154). -/
def dot4 (sa sb : Bool) (a b : BitVec 2048) (j : Nat) : Int :=
  ((List.range 4).map (fun k => laneInt sa a 1 (4 * j + k) * laneInt sb b 1 (4 * j + k))).foldl (· + ·) 0
def execVdot4 (h : OpHdr) (vb : Bool) (t : BTy) (d : BitVec 6) (a b : VSrc) (c : BitVec 6) (mixb : Bool) (s : State) : Out :=
  let sa := t == .i8
  .next (vecLane s vb h 3 4 d [a, b, .v c] (fun vs j =>
    wrapInt 32 (laneInt true (src vs 2) 4 j + dot4 sa (sa != mixb) (src vs 0) (src vs 1) j)))

/-- `vsel` (R147, R153): a poisoned C predicate is D40; its band joins. A lane takes poison from the source that it selects
(R149, assumption log 73). -/
def execVsel (h : OpHdr) (vb : Bool) (t : VTy) (d : BitVec 6) (a b : VSrc) (c : BitVec 4) (s : State) : Out :=
  .next (vecOp s vb h true [a, b] (fun s vs =>
    let p := (s.ctx s.cur).rP c
    let w := t.bytes
    let act := vecAct s h w
    let va := vs.getD 0 zeroVReg
    let vbr := vs.getD 1 zeroVReg
    let selA := act.filter (fun i => p.bits.getLsbD (w * i))
    let selB := act.filter (fun i => !p.bits.getLsbD (w * i))
    if p.poison then opFault s (vslot vb) .d40 0#64
    else landVec s vb h 2 d
      (buildLanes w act (fun i => if p.bits.getLsbD (w * i) then lane va.bits w i else lane vbr.bits w i)) (lanesMask w act)
      ((va.poison &&& lanesGranules w selA) ||| (vbr.poison &&& lanesGranules w selB)) (vs.map (·.band) ++ [p.band]) false false false))

/-! ### Floating point (R150, R155) -/

/-- A floating-point op on its sources: lane i gets the exact value f, rounded once. -/
def vecFp (s : State) (vb : Bool) (h : OpHdr) (lat : Nat) (t : FTy) (d : BitVec 6) (srcs : List VSrc) (rms : Rms)
    (f : Rm → List XV → XV) : State :=
  let w := t.vty.bytes
  let rm := rmOf (s.ctx s.cur) rms
  vecLane s vb h lat w d srcs (fun vs i => roundTo t.fmt rm (f rm (vs.map (fun v => laneXV t.fmt v.bits w i))))

/-- Value k of a list. -/
def xvAt (l : List XV) (k : Nat) : XV := l.getD k .nan

/-- The smaller or larger of two values (R155): −0 < +0; with one NaN, the other. -/
def fpMin (a b : XV) : XV := if a.isNan then b else if b.isNan then a else if ltXV b a || (a.isZero && b.isZero && b.sign) then b else a
def fpMax (a b : XV) : XV := if a.isNan then b else if b.isNan then a else if ltXV a b || (a.isZero && b.isZero && a.sign) then b else a

def execVfadd (h : OpHdr) (vb : Bool) (t : FTy) (d : BitVec 6) (a b : VSrc) (rms : Rms) (s : State) : Out :=
  .next (vecFp s vb h 4 t d [a, b] rms (fun rm l => sumXV rm [xvAt l 0, xvAt l 1]))
def execVfsub (h : OpHdr) (vb : Bool) (t : FTy) (d : BitVec 6) (a b : VSrc) (rms : Rms) (s : State) : Out :=
  .next (vecFp s vb h 4 t d [a, b] rms (fun rm l => sumXV rm [xvAt l 0, (xvAt l 1).negate]))
def execVfmul (h : OpHdr) (vb : Bool) (t : FTy) (d : BitVec 6) (a b : VSrc) (rms : Rms) (s : State) : Out :=
  .next (vecFp s vb h 4 t d [a, b] rms (fun _ l => mulXV (xvAt l 0) (xvAt l 1)))
def execVfma (h : OpHdr) (vb : Bool) (t : FTy) (d : BitVec 6) (a b : VSrc) (c : BitVec 6) (rms : Rms) (s : State) : Out :=
  .next (vecFp s vb h 4 t d [a, b, .v c] rms (fun rm l => sumXV rm [xvAt l 2, mulXV (xvAt l 0) (xvAt l 1)]))
def execVfmin (h : OpHdr) (vb : Bool) (t : FTy) (d : BitVec 6) (a b : VSrc) (s : State) : Out :=
  .next (vecFp s vb h 4 t d [a, b] .fmt (fun _ l => fpMin (xvAt l 0) (xvAt l 1)))
def execVfmax (h : OpHdr) (vb : Bool) (t : FTy) (d : BitVec 6) (a b : VSrc) (s : State) : Out :=
  .next (vecFp s vb h 4 t d [a, b] .fmt (fun _ l => fpMax (xvAt l 0) (xvAt l 1)))
def execVfabs (h : OpHdr) (vb : Bool) (t : FTy) (d : BitVec 6) (a : VSrc) (s : State) : Out :=
  .next (vecFp s vb h 4 t d [a] .fmt (fun _ l => (xvAt l 0).abs))
def execVfneg (h : OpHdr) (vb : Bool) (t : FTy) (d : BitVec 6) (a : VSrc) (s : State) : Out :=
  .next (vecFp s vb h 4 t d [a] .fmt (fun _ l => (xvAt l 0).negate))
def execVrcp (h : OpHdr) (vb : Bool) (t : FTy) (d : BitVec 6) (a : VSrc) (rms : Rms) (s : State) : Out :=
  .next (vecFp s vb h 8 t d [a] rms (fun _ l => rcpXV (xvAt l 0)))
def execVrsqrt (h : OpHdr) (vb : Bool) (t : FTy) (d : BitVec 6) (a : VSrc) (rms : Rms) (s : State) : Out :=
  .next (vecFp s vb h 8 t d [a] rms (fun _ l => rsqrtXV (xvAt l 0)))
def execVexp2 (h : OpHdr) (vb : Bool) (t : FTy) (d : BitVec 6) (a : VSrc) (rms : Rms) (s : State) : Out :=
  .next (vecFp s vb h 8 t d [a] rms (fun _ l => exp2XV (xvAt l 0)))
def execVlog2 (h : OpHdr) (vb : Bool) (t : FTy) (d : BitVec 6) (a : VSrc) (rms : Rms) (s : State) : Out :=
  .next (vecFp s vb h 8 t d [a] rms (fun _ l => log2XV (xvAt l 0)))

/-! ### Compares (R156) -/

/-- A compare's condition from an ordering; `un` says that an operand is NaN. -/
def condHolds (cond : BitVec 3) (un : Bool) (o : Ordering) : Bool :=
  match cond.toNat with
  | 0 => !un && o == .eq
  | 1 => un || o != .eq
  | 2 => !un && o == .lt
  | 3 => !un && o != .gt
  | 4 => !un && o == .gt
  | 5 => !un && o != .lt
  | 6 => un
  | _ => !un

/-- A vector compare: every bit of an active lane takes the condition; inactive lanes are written 0 (R146, R148, R149). -/
def vecCmp (s : State) (vb : Bool) (h : OpHdr) (ok : Bool) (lat w : Nat) (d : BitVec 4) (a b : VSrc) (f : List VReg → Nat → Bool) : State :=
  vecOp s vb h (ok && d != 0#4) [a, b] (fun s vs =>
    let c := s.ctx s.cur
    let act := vecAct s h w
    let bits := lanesMask w (act.filter (f vs))
    let old := if h.g = 0#4 then [] else [(c.rP d).band]
    match bandOf (vs.map (·.band) ++ guardBand c h ++ old) with
    | none => opFault s (vslot vb) .p06 0#64
    | some bd => landRegs s (vslot vb) lat [.p d ⟨bits, bd, lanePoison w act vs != 0#4⟩])

def execVfcmp (h : OpHdr) (vb : Bool) (t : FTy) (d : BitVec 4) (a b : VSrc) (cond : BitVec 3) (s : State) : Out :=
  let w := t.vty.bytes
  .next (vecCmp s vb h true 4 w d a b (fun vs i =>
    let x := laneXV t.fmt (src vs 0) w i
    let y := laneXV t.fmt (src vs 1) w i
    condHolds cond (x.isNan || y.isNan) (cmpXV x y)))
/-- `vcmp`: COND 6 and 7 are P00. -/
def execVcmp (h : OpHdr) (vb : Bool) (t : ITy) (d : BitVec 4) (a b : VSrc) (cond : BitVec 3) (s : State) : Out :=
  let w := t.vty.bytes
  .next (vecCmp s vb h (decide (cond.toNat ≤ 5)) 2 w d a b (fun vs i =>
    condHolds cond false (compare (laneInt t.signed (src vs 0) w i) (laneInt t.signed (src vs 1) w i))))

/-! ### Conversion and quantisation (R157 to R161) -/

/-- The source and destination formats of `vcvt` (R158). -/
def cvtFmts (t : VTy) (nfmt : BitVec 4) (nsrc narrow : Bool) (dtype : BitVec 4) : Fmt × Fmt :=
  let nf := (Fmt.ofCode nfmt).getD .e8m0
  if narrow then (if nsrc then (nf, t.fmt) else (t.fmt, nf))
  else (t.fmt, ((VTy.ofBits dtype).getD .i8).fmt)

/-- Places elements of `wd` bits with a mask of bytes; an element that is not byte-wide is merged bit by bit with the old
register by the caller. -/
def bitsAt (wd i x : Nat) : Nat := (x % 2 ^ wd) <<< (wd * i)
/-- The destination bits of the listed elements. -/
def elemBits (wd : Nat) (act : List Nat) (f : Nat → Nat) : BitVec 2048 :=
  BitVec.ofNat 2048 (act.foldl (fun a i => a + bitsAt wd i (f i)) 0)
/-- The bits that the listed elements occupy. -/
def elemMask (wd : Nat) (act : List Nat) : BitVec 2048 := elemBits wd act (fun _ => 2 ^ wd - 1)
/-- The granules in which elements of `wd` bits stand. -/
def elemGranules (wd : Nat) (l : List Nat) : BitVec 4 :=
  quarterMask (fun q => l.any (fun i => wd * i / 512 == q || (wd * i + wd - 1) / 512 == q))

/-- Is the granule of element i of `ws` bits poisoned. -/
def elemPoisoned (v : VReg) (ws i : Nat) : Bool := (v.poison &&& elemGranules ws [i]) != 0#4

/-- A vector written from new bits, where `wmask` selects the bits written (elements of inactive lanes keep their bits,
R146, R159). A byte with a written bit is written; a granule with kept bits keeps its old mark as well. -/
def landBits (s : State) (vb : Bool) (h : OpHdr) (lat : Nat) (d : BitVec 6) (new wmask : BitVec 2048) (poison : BitVec 4)
    (bands : List Band) (nan ovf : Bool) : State :=
  let old := (s.ctx s.cur).rV d
  let keptQ := quarterMask (fun q => wmask.extractLsb' (512 * q) 512 != BitVec.allOnes 512)
  let bytes := lanesMask 1 ((List.range 256).filter (fun i => lineByte wmask i != 0#8))
  landVec s vb h lat d ((new &&& wmask) ||| (old.bits &&& ~~~wmask)) bytes (poison ||| (old.poison &&& keptQ)) bands
    false nan ovf

/-- `vcvt` (R158): the guard uses the wider width; bytes beyond the elements are written 0. -/
def execVcvt (h : OpHdr) (vb : Bool) (t : VTy) (d : BitVec 6) (a : VSrc) (sat : Bool) (nfmt : BitVec 4) (nsrc narrow : Bool)
    (dtype : BitVec 4) (rms : Rms) (s : State) : Out :=
  .next (vecOp s vb h (wfCvt narrow nsrc nfmt dtype) [a] (fun s vs =>
    let (fs, fd) := cvtFmts t nfmt nsrc narrow dtype
    let ws := fs.width
    let wd := fd.width
    let wide := max ws wd
    let n := 2048 / wide
    let g := (s.ctx s.cur).rP h.g
    let act := (List.range n).filter (fun i => g.bits.getLsbD (wide * i / 8))
    let va := vs.getD 0 zeroVReg
    let rm := rmOf (s.ctx s.cur) rms
    let cv := fun i => convert fd rm sat (fs.value (elem va.bits ws i))
    let fl := cvFlags (act.map cv)
    let beyond : BitVec 2048 := ~~~(elemMask wd (List.range n))
    let pq := elemGranules wd (act.filter (elemPoisoned va ws))
    landBits s vb h 3 d (elemBits wd act (fun i => (cv i).bits)) (elemMask wd act ||| beyond) pq [va.band] fl.1 fl.2))

/-- `vquant` (R159). -/
def execVquant (h : OpHdr) (vb : Bool) (t : FTy) (d : BitVec 6) (a : VSrc) (sat : Bool) (qfmt : BitVec 4) (rms : Rms) (s : State) : Out :=
  .next (vecOp s vb h (wfQfmt qfmt) [a] (fun s vs =>
    let w := t.vty.bytes
    let n := 256 / w
    let nb := n / 32
    let fq := (Fmt.ofCode qfmt).getD .e8m0
    let wq := fq.width
    let va := vs.getD 0 zeroVReg
    let act := vecAct s h w
    let rm := rmOf (s.ctx s.cur) rms
    let x := fun i => laneXV t.fmt va.bits w i
    let blk := fun b => act.filter (fun i => i / 32 == b)
    let sb := fun b => scaleByte (amaxXV ((blk b).map x) (.zero false)) (fmtEmax qfmt)
    let cv := fun i => convert fq rm sat ((x i).scale (127 - (sb (i / 32) : Int)))
    let fl := cvFlags (act.map cv)
    let scaleBits : BitVec 2048 := BitVec.ofNat 2048 ((List.range nb).foldl (fun acc b => acc + (sb b) <<< (8 * (256 - nb + b))) 0)
    let inact := (List.range n).filter (fun i => !act.contains i)
    let pq := elemGranules wq (act.filter (elemPoisoned va (8 * w)))
      ||| (if act.any (elemPoisoned va (8 * w)) then 8#4 else 0#4)
    landBits s vb h 3 d (elemBits wq act (fun i => (cv i).bits) ||| scaleBits) (~~~(elemMask wq inact)) pq [va.band] fl.1 fl.2))

/-- `vdequant` (R160). -/
def execVdequant (h : OpHdr) (vb : Bool) (t : FTy) (d : BitVec 6) (a : VSrc) (qfmt : BitVec 4) (rms : Rms) (s : State) : Out :=
  .next (vecOp s vb h (wfQfmt qfmt) [a] (fun s vs =>
    let w := t.vty.bytes
    let n := 256 / w
    let nb := n / 32
    let fq := (Fmt.ofCode qfmt).getD .e8m0
    let wq := fq.width
    let va := vs.getD 0 zeroVReg
    let act := vecAct s h w
    let rm := rmOf (s.ctx s.cur) rms
    let sb := fun i => lane va.bits 1 (256 - nb + i / 32)
    let cv := fun i =>
      if sb i = 255 then convert t.fmt rm false .nan
      else convert t.fmt rm false ((fq.value (elem va.bits wq i)).scale ((sb i : Int) - 127))
    let fl := cvFlags (act.map cv)
    let pz := act.filter (fun i => elemPoisoned va wq i || granuleAt va.poison (256 - nb + i / 32))
    landVec s vb h 3 d (buildLanes w act (fun i => (cv i).bits)) (lanesMask w act) (lanesGranules w pz) [va.band] false fl.1 fl.2))

/-- `vscale2` (R161). -/
def execVscale2 (h : OpHdr) (vb : Bool) (t : FTy) (d : BitVec 6) (a b : VSrc) (rms : Rms) (s : State) : Out :=
  .next (vecOp s vb h true [a, b] (fun s vs =>
    let w := t.vty.bytes
    let act := vecAct s h w
    let rm := rmOf (s.ctx s.cur) rms
    let cv := fun i => convert t.fmt rm false ((laneXV t.fmt (src vs 0) w i).scale (laneInt true (src vs 1) w i))
    let fl := cvFlags (act.map cv)
    landVec s vb h 3 d (buildLanes w act (fun i => (cv i).bits)) (lanesMask w act) (lanePoison w act vs) (vs.map (·.band)) false fl.1 fl.2))

/-! ### Reductions (R162) -/

/-- A reduction: every active lane of a segment gets f of the segment's active lanes. -/
def vecReduce (s : State) (vb : Bool) (h : OpHdr) (t : VTy) (d : BitVec 6) (a : VSrc) (lseg : BitVec 4) (f : BitVec 2048 → List Nat → Nat) : State :=
  vecOp s vb h (decide (lseg.toNat ≤ t.logLanes)) [a] (fun s vs =>
    let w := t.bytes
    let act := vecAct s h w
    let va := vs.getD 0 zeroVReg
    let seg := fun i => act.filter (fun j => j / 2 ^ lseg.toNat == i / 2 ^ lseg.toNat)
    let segs := ((List.range (256 / w / 2 ^ lseg.toNat)).map (fun k =>
      let l := act.filter (fun j => j / 2 ^ lseg.toNat == k)
      (if l.isEmpty then 0 else f va.bits l)))
    let pz := act.filter (fun i => (va.poison &&& lanesGranules w (seg i)) != 0#4)
    landVec s vb h 6 d (buildLanes w act (fun i => segs.getD (i / 2 ^ lseg.toNat) 0)) (lanesMask w act) (lanesGranules w pz)
      [va.band] false false false)

/-- The active values of a segment. -/
def segInts (t : VTy) (bits : BitVec 2048) (l : List Nat) : List Int := l.map (laneInt t.signed bits t.bytes)
def segXVs (t : VTy) (bits : BitVec 2048) (l : List Nat) : List XV := l.map (laneXV t.fmt bits t.bytes)
/-- The extreme of a nonempty list of integers. -/
def foldInt (f : Int → Int → Int) : List Int → Int
  | [] => 0
  | x :: l => l.foldl f x
/-- The extreme of a nonempty list of values; NaN if one is NaN. -/
def foldXV (f : XV → XV → XV) (l : List XV) : XV :=
  if l.any XV.isNan then .nan
  else
    match l with
    | [] => .zero false
    | x :: t => t.foldl f x

def execVrsum (h : OpHdr) (vb : Bool) (t : VTy) (d : BitVec 6) (a : VSrc) (lseg : BitVec 4) (rms : Rms) (s : State) : Out :=
  let rm := rmOf (s.ctx s.cur) rms
  .next (reservedZero s (vslot vb) (rms == .fmt || t.isFp) (vecReduce s vb h t d a lseg (fun bits l =>
    if t.isFp then roundTo t.fmt rm (sumXV rm (segXVs t bits l))
    else wrapInt (8 * t.bytes) ((segInts t bits l).foldl (· + ·) 0))))
def execVrmax (h : OpHdr) (vb : Bool) (t : VTy) (d : BitVec 6) (a : VSrc) (lseg : BitVec 4) (s : State) : Out :=
  .next (vecReduce s vb h t d a lseg (fun bits l =>
    if t.isFp then roundTo t.fmt .rne (foldXV fpMax (segXVs t bits l))
    else wrapInt (8 * t.bytes) (foldInt max (segInts t bits l))))
/-- `vramax`: Sat(|x|) for signed types. -/
def execVramax (h : OpHdr) (vb : Bool) (t : VTy) (d : BitVec 6) (a : VSrc) (lseg : BitVec 4) (s : State) : Out :=
  .next (vecReduce s vb h t d a lseg (fun bits l =>
    if t.isFp then roundTo t.fmt .rne (foldXV fpMax ((segXVs t bits l).map XV.abs))
    else
      let r := intRange t.signed (8 * t.bytes)
      wrapInt (8 * t.bytes) (foldInt max ((segInts t bits l).map (fun x => satInt (x.natAbs : Int) r.1 r.2)))))
def execVrmin (h : OpHdr) (vb : Bool) (t : VTy) (d : BitVec 6) (a : VSrc) (lseg : BitVec 4) (s : State) : Out :=
  .next (vecReduce s vb h t d a lseg (fun bits l =>
    if t.isFp then roundTo t.fmt .rne (foldXV fpMin (segXVs t bits l))
    else wrapInt (8 * t.bytes) (foldInt min (segInts t bits l))))

/-! ### Permutes (R163) -/

/-- Where a destination lane of a permute takes its element: source k's lane j, or zero. -/
abbrev Pick := Nat → Option (Nat × Nat)

/-- A permute: each active lane gets a bit copy, with the poison of the granule it comes from; `idx` says that source 1 is
the index vector, whose granules join as well (R149). -/
def vecPick (s : State) (vb : Bool) (h : OpHdr) (ok : Bool) (t : VTy) (d : BitVec 6) (srcs : List VSrc) (idx : Bool)
    (pick : List VReg → Pick) : State :=
  vecOp s vb h ok srcs (fun s vs =>
    let w := t.bytes
    let act := vecAct s h w
    let p := pick vs
    let val := fun i => match p i with
      | some (k, j) => lane (src vs k) w j
      | none => 0
    let pz := act.filter (fun i =>
      (match p i with
        | some (k, j) => granuleAt (vs.getD k zeroVReg).poison (w * j)
        | none => false)
      || (idx && granuleAt (vs.getD 1 zeroVReg).poison (w * i)))
    landVec s vb h 3 d (buildLanes w act val) (lanesMask w act) (lanesGranules w pz) (vs.map (·.band)) false false false)

def execVperm (h : OpHdr) (vb : Bool) (t : VTy) (d : BitVec 6) (a b : VSrc) (c : BitVec 6) (two : Bool) (s : State) : Out :=
  .next (reservedZero s (vslot vb) (two || c == 0#6)
    (vecPick s vb h (!two || t.bytes != 1) t d (if two then [a, b, .v c] else [a, b]) true (fun vs i =>
      let x := lane (src vs 1) t.bytes i
      if x < t.lanes then some (0, x) else if two && decide (x < 2 * t.lanes) then some (2, x - t.lanes) else none)))
def execVbcast (h : OpHdr) (vb : Bool) (t : VTy) (d : BitVec 6) (a : VSrc) (k : BitVec 8) (s : State) : Out :=
  .next (vecPick s vb h (decide (k.toNat < t.lanes)) t d [a] false (fun _ _ => some (0, k.toNat)))
def execVslide (h : OpHdr) (vb : Bool) (t : VTy) (d : BitVec 6) (a b : VSrc) (k : BitVec 8) (s : State) : Out :=
  .next (vecPick s vb h (decide (k.toNat < t.lanes)) t d [a, b] false (fun _ i =>
    if i + k.toNat < t.lanes then some (0, i + k.toNat) else some (1, i + k.toNat - t.lanes)))
def execVzip (h : OpHdr) (vb : Bool) (t : VTy) (d : BitVec 6) (a b : VSrc) (half : Bool) (s : State) : Out :=
  .next (vecPick s vb h true t d [a, b] false (fun _ i =>
    some (i % 2, i / 2 + (if half then t.lanes / 2 else 0))))
def execVunzip (h : OpHdr) (vb : Bool) (t : VTy) (d : BitVec 6) (a b : VSrc) (odd : Bool) (s : State) : Out :=
  .next (vecPick s vb h true t d [a, b] false (fun _ i =>
    let o := if odd then 1 else 0
    if i < t.lanes / 2 then some (0, 2 * i + o) else some (1, 2 * (i - t.lanes / 2) + o)))
def execVmov (h : OpHdr) (vb : Bool) (t : VTy) (d : BitVec 6) (a : VSrc) (s : State) : Out :=
  .next (vecPick s vb h true t d [a] false (fun _ i => some (0, i)))

/-- The low 8w bits of a scalar. -/
def lowBits (x : Word) (w : Nat) : Nat := x.toNat % 2 ^ (8 * w)

/-- `vsplat` (R149, R163). -/
def execVsplat (h : OpHdr) (vb : Bool) (t : VTy) (d a : BitVec 6) (s : State) : Out :=
  .next (vecOp s vb h true [] (fun s _ =>
    let x := (s.ctx s.cur).rS a
    let act := vecAct s h t.bytes
    landVec s vb h 3 d (buildLanes t.bytes act (fun _ => lowBits x.val t.bytes)) (lanesMask t.bytes act)
      (if x.poison then lanesGranules t.bytes act else 0#4) [x.band] false false false))

/-- `vins` (R148, R163): reads only bit w·k of its guard. -/
def execVins (h : OpHdr) (vb : Bool) (t : VTy) (d a : BitVec 6) (k : BitVec 8) (s : State) : Out :=
  .next (vecOp s vb h (decide (k.toNat < t.lanes)) [] (fun s _ =>
    let c := s.ctx s.cur
    let x := c.rS a
    let act := (activeLanes (c.rP h.g) t.bytes).filter (· == k.toNat)
    if act.isEmpty && (bandOf ([x.band, (c.rV d).band] ++ guardBand c h)).isSome then s
    else landVec s vb h 3 d (buildLanes t.bytes act (fun _ => lowBits x.val t.bytes)) (lanesMask t.bytes act)
      (if x.poison then lanesGranules t.bytes act else 0#4) [x.band] true false false))

/-- `vext` (R149, R163): sign-extends the signed integer types; writes nothing when bit w·k of the guard is 0. -/
def execVext (h : OpHdr) (vb : Bool) (t : VTy) (d : BitVec 6) (a : VSrc) (k : BitVec 8) (s : State) : Out :=
  .next (vecOp s vb h (decide (k.toNat < t.lanes)) [a] (fun s vs =>
    let c := s.ctx s.cur
    let va := vs.getD 0 zeroVReg
    let old := if h.g = 0#4 then [] else [(c.rS d).band]
    match bandOf ([va.band] ++ guardBand c h ++ old) with
    | none => opFault s (vslot vb) .p06 0#64
    | some b =>
      if (c.rP h.g).bits.getLsbD (t.bytes * k.toNat) then
        landRegs s (vslot vb) 3 [.s d ⟨BitVec.ofInt 64 (laneInt t.signed va.bits t.bytes k.toNat), b,
          granuleAt va.poison (t.bytes * k.toNat)⟩]
      else s))

/-! ### Algebra (R80, R81, R164) -/

/-- The active algebra table of a context (R80, R186). -/
def algTab (c : Ctx) : BitVec 128 := vget realAlgebra c.eng.mat.alg (fmtAlg c.regs.fmt)

/-- An algebra op: each active element gets d components f. -/
def vecAlg (s : State) (vb : Bool) (h : OpHdr) (t : FTy) (d : BitVec 6) (srcs : List VSrc) (rms : Rms)
    (f : BitVec 128 → Rm → List (List XV) → Nat → XV) : State :=
  vecOp s vb h true srcs (fun s vs =>
    let c := s.ctx s.cur
    let tab := algTab c
    let dim := algDim tab
    let w := t.vty.bytes
    let rm := rmOf c rms
    let g := c.rP h.g
    let els := (List.range (256 / w / dim)).filter (fun e => g.bits.getLsbD (w * dim * e))
    let act := els.flatMap (fun e => (List.range dim).map (fun k => dim * e + k))
    let comps := fun (v : VReg) e => (List.range dim).map (fun k => laneXV t.fmt v.bits w (dim * e + k))
    let pz := act.filter (fun i => vs.any (fun v =>
      (v.poison &&& lanesGranules w ((List.range dim).map (fun k => dim * (i / dim) + k))) != 0#4))
    landVec s vb h 5 d
      (buildLanes w act (fun i => roundTo t.fmt rm (f tab rm (vs.map (fun v => comps v (i / dim))) (i % dim))))
      (lanesMask w act) (lanesGranules w pz) (vs.map (·.band)) false false false)

/-- A sum of exact terms; +0 when no entry targets the component (assumption log 15). -/
def sumTerms (rm : Rm) (l : List XV) : XV := if l.isEmpty then .zero false else sumXV rm l

def elAt (l : List (List XV)) (k : Nat) : List XV := l.getD k []

def execVamul (h : OpHdr) (vb : Bool) (t : FTy) (d : BitVec 6) (a b : VSrc) (swap : Bool) (rms : Rms) (s : State) : Out :=
  .next (vecAlg s vb h t d [a, b] rms (fun tab rm l k =>
    sumTerms rm (if swap then algTerms tab k (elAt l 1) (elAt l 0) else algTerms tab k (elAt l 0) (elAt l 1))))
def execVamac (h : OpHdr) (vb : Bool) (t : FTy) (d : BitVec 6) (a b : VSrc) (c : BitVec 6) (swap : Bool) (rms : Rms) (s : State) : Out :=
  .next (vecAlg s vb h t d [a, b, .v c] rms (fun tab rm l k =>
    sumTerms rm (xvAt (elAt l 2) k ::
      (if swap then algTerms tab k (elAt l 1) (elAt l 0) else algTerms tab k (elAt l 0) (elAt l 1)))))
/-- conj(x) (R81). -/
def algConjOf (tab : BitVec 128) (x : List XV) : List XV := x.zipIdx.map (fun p => if algConj tab p.2 then p.1.negate else p.1)
def execVconj (h : OpHdr) (vb : Bool) (t : FTy) (d : BitVec 6) (a : VSrc) (s : State) : Out :=
  .next (vecAlg s vb h t d [a] .fmt (fun tab _ l k => xvAt (algConjOf tab (elAt l 0)) k))
def execVnorm (h : OpHdr) (vb : Bool) (t : FTy) (d : BitVec 6) (a : VSrc) (rms : Rms) (s : State) : Out :=
  .next (vecAlg s vb h t d [a] rms (fun tab rm l k =>
    if k = 0 then sumTerms rm (algTerms tab 0 (elAt l 0) (algConjOf tab (elAt l 0))) else .zero false))

end Sys2Proof.Machine
end

