-- ==== Sys2Proof/Machine/Merge.lean ====
section
/-! DEFINITION. The merge stage: which group issues, how it begins and ends, checkpoints, the eskip window's events, the
quiet point of a nest and asynchronous stops (04_generator R111 to R113, 05_scalar R124 to R139, 13_system R355 to R360). -/
namespace Sys2Proof.Machine

/-! ### Asynchronous stops that are pending (R360) -/

/-- The engine stop with the lowest cause code, the oldest of these. -/
def lowestEngine : List (Cause × Word) → Option (Cause × Word)
  | [] => none
  | x :: t =>
    match lowestEngine t with
    | none => some x
    | some y => if y.1.code.ult x.1.code then some y else some x
/-- The pending stop with the lowest cause code; a silent stop of R352 has none. -/
def Stops.first (t : Stops) : Option Cause :=
  match lowestEngine t.engine with
  | some x => some x.1
  | none => if t.a60.isSome then some .a60 else if t.a61 then some .a61 else if t.a62 then some .a62 else none
/-- A stop is pending. -/
def Stops.any (t : Stops) : Bool := t.silent || t.first.isSome

/-! ### Readiness (R10, R111, R128, R359) -/

/-- A landing that waits for memory, not for a condition of the context. -/
def Pend.landable (p : Pend) : Bool :=
  match p.kind with
  | .done _ | .spm _ _ | .load _ | .amo _ => true
  | .launch _ | .wait _ => false
/-- A pending entry has reached its landing beat. -/
def landingDue (c : Ctx) : Bool := c.pend.any (fun p => p.landable && decide (p.due ≤ c.beat))

/-- No freeze, or a freeze before a group, which a later cycle tries again (R111). -/
def Frz.before : Frz → Bool
  | .none | .group | .translate _ _ | .copyFull _ | .spout _ _ => true
  | .load | .fence _ _ | .tfence _ _ | .twait _ _ _ | .bwait _ _ | .sigwait _ _ | .mwait _ _ _ _ _ | .cdrain _ _ | .launch _
  | .mfreeze | .mfrozenCmd => false
/-- A wait of R348. -/
def Frz.isWait : Frz → Bool
  | .tfence _ _ | .twait _ _ _ | .bwait _ _ | .sigwait _ _ | .mwait _ _ _ _ _ => true
  | .none | .group | .translate _ _ | .copyFull _ | .spout _ _ | .load | .fence _ _ | .cdrain _ _ | .launch _ | .mfreeze | .mfrozenCmd => false

/-- A wait for the dispatcher to accept a `launch` (R349). -/
def Frz.isLaunch : Frz → Bool
  | .launch _ => true
  | .none | .group | .translate _ _ | .copyFull _ | .spout _ _ | .load | .fence _ _ | .cdrain _ _ | .tfence _ _ | .twait _ _ _ | .bwait _ _
  | .sigwait _ _ | .mwait _ _ _ _ _ | .mfreeze | .mfrozenCmd => false

/-- Every register result has landed and every SPM store is visible (R131). -/
def settled (c : Ctx) : Bool := c.pend.isEmpty && c.spm.stores.isEmpty

/-- Removes the groups that an `lgo` with NTOT = 0 drops (R134). -/
def Ctx.dropGroups (c : Ctx) : Ctx :=
  let n := min c.regs.loop.drop.toNat c.gen.runnel.length
  if n = 0 then c
  else { c with gen := { c.gen with runnel := c.gen.runnel.drop n },
                regs := { c.regs with loop := { c.regs.loop with drop := c.regs.loop.drop - BitVec.ofNat 6 n } } }

/-- The group at the head: of the loop buffer while a captured nest runs, else of the Runnel (R134). -/
def headGroup (c : Ctx) : Option RGroup :=
  if c.regs.loop.replaying then c.regs.loop.buf[c.regs.loop.pos.toNat]? else c.gen.runnel.head?

/-- The ops of a group with their slots, where they decode. -/
def groupOps (g : BitVec 512) : List (Nat × Instr) :=
  (groupSlots g).filterMap (fun i =>
    match decodeOp (groupWord g i) with
    | .ok x => some (i, x)
    | .error _ => none)
/-- The slots that a group occupies in the merge stage: `nop` occupies none (R37). -/
def busySlots (g : BitVec 512) : List Nat := (groupSlots g).filter (fun i => (groupWord g i).extractLsb' 48 8 != 0#8)
/-- An engine op: of the M or C slot, or `seal` and `open` (R126). -/
def engineWord (g : BitVec 512) (i : Nat) : Bool :=
  let o := (groupWord g i).extractLsb' 48 8
  o != 0#8 && (i == 3 || i == 6 || (i == 7 && (o == 0x10#8 || o == 0x11#8)))

/-- The op's stage predicate is 1 (R41). -/
def stageOn (c : Ctx) (h : OpHdr) : Bool := h.stage == 0#3 || c.regs.loop.sp.getLsbD (h.stage.toNat - 1)
/-- Would the op take effect: its stage predicate and bit 0 of its guard (R41, R42). -/
def opEnabled (c : Ctx) (h : OpHdr) : Bool := stageOn c h && (c.rP h.g).bits.getLsbD 0
/-- An op whose group waits for the context's accesses before it releases (R259). -/
def releases : Instr → Bool
  | .barv _ _ | .sigdec _ _ _ _ | .launch _ _ _ => true
  | _ => false

/-- The registers of replayed writes that have not landed (R359). -/
def replayedRefs (c : Ctx) : List RegRef :=
  match c.interlocked with
  | some n => (c.pend.filter (fun p => decide (p.seq < n))).flatMap Pend.refs
  | none => []
/-- The group names a register of a replayed write that has not landed (R359). -/
def interlockHit (c : Ctx) (l : List (Nat × Instr)) : Bool :=
  let w := replayedRefs c
  w.contains .band || l.any (fun x =>
    let u := opUses x.2
    u.dst.any w.contains || u.writes.any w.contains || u.reads.any w.contains)

/-- An op that waits for the context's own results (R10, R124, R128, R342, R371). -/
def opHolds (c : Ctx) (i : Instr) : Bool :=
  match i with
  | .skip h a _ => opEnabled c h && predPending c a (c.predWriter a)
  | .eskip h _ _ _ => opEnabled c h && c.regs.win.busy && c.regs.win.left == 0#5
  | .twait h _ _ _ _ _ => opEnabled c h && c.regs.win.busy && c.regs.win.left == 0#5
  | .rdtime h _ => opEnabled c h && !c.pend.isEmpty
  | _ => false

/-- The head group does not issue and its context spends an idle beat. -/
def groupHolds (c : Ctx) (g : BitVec 512) : Bool :=
  let l := groupOps g
  l.any (fun x => opHolds c x.2)
  || (c.regs.win.busy && c.regs.win.left == 0#5 && (groupSlots g).any (engineWord g))
  || (!c.dbg && interlockHit c l)

/-- What the front of a context offers in a cycle. -/
inductive Front where
  | blocked
  | idle
  | ready (g : RGroup)
deriving DecidableEq, Repr

/-- The Milliner waits in `grecv` or `gwrs`, whose end may need the context's own results (R103, R104). -/
def genAwaits (s : State) (fe : FeId) : Bool :=
  (s.ctx fe).gen.stat == .waitStall && (match genWord s fe with
    | some w => w.extractLsb' 26 6 == 0x29#6 || w.extractLsb' 26 6 == 0x2B#6
    | none => false)

/-- With no group at the head: idle beats after `gend`, and while the Milliner waits for results that have not landed
(R10, R103, R104). -/
def emptyFront (s : State) (fe : FeId) : Front :=
  let c := s.ctx fe
  if settled c || c.regs.loop.replaying then .blocked
  else if c.gen.stat == .halted || genAwaits s fe then .idle else .blocked

/-- The condition of R111 that holds an op of the head group before its issue: a matrix queue or a copy queue that is full, a
ring, the scale queue, a bank that is refreshing, a stream vector that the Spout has not produced. -/
def opBlocked (s : State) (fe : FeId) (i : Instr) : Option Frz :=
  let c := s.ctx fe
  let covered : Bool := c.regs.win.opened && c.regs.win.left != 0#5
  let hold (h : OpHdr) (b : Bool) : Option Frz := if opEnabled c h && b then some .group else none
  let full : Bool := decide (8 ≤ (s.core (coreOf fe)).mq.length) || !c.eng.mat.saved.isEmpty
  let queued (h : OpHdr) : Option Frz := hold h (!covered && full)
  let plain (h : OpHdr) : Option Frz := hold h (!covered && !c.eng.mat.frozen && full)
  let copy (h : OpHdr) (ch : Bool) : Option Frz :=
    if opEnabled c h && !covered && lenientNow c ch && decide (64 ≤ (c.chan ch).queue.length) then some (.copyFull ch) else none
  let ring (h : OpHdr) (a : BitVec 4) (b : BitVec 6) (tile : BitVec 8) (n : Nat) : Option Frz :=
    hold h (!(c.rS b).poison && (ringFault (c.eng.mat.ring a) (c.rS b).val tile).isNone && decide (n ≤ tile.toNat))
  match i with
  | .mcall h _ _ _ _ _ _ => queued h
  | .malg h _ _ => queued h
  | .mdrain h => plain h
  | .mdrainRaw h _ => plain h
  | .mfill h _ => plain h
  | .mzero h => plain h
  | .tload h _ _ _ _ => plain h
  | .cpy h _ _ _ _ _ _ ch => copy h ch
  | .cgo h _ _ _ _ ch => copy h ch
  | .ckv h _ _ _ _ _ _ ch => copy h ch
  | .vldr h _ a b tile => ring h a b tile (c.eng.mat.ring a).fill.toNat
  | .vstr h _ a b tile => ring h a b tile ((c.eng.mat.ring a).count.toNat - (c.eng.mat.ring a).fill.toNat)
  | .lsq h base size _ _ off =>
    let ea := effAddr (c.rS base).val off
    hold h (!(c.rS base).poison && aligned ea (sizeBytes size) && decide (256 < c.eng.mat.scale.length + sizeBytes size / 2))
  | .vldc h _ base size off =>
    let ea := effAddr (c.rS base).val off
    let keys := pieceKeysOf s fe (piecesOf ea (sizeBytes size))
    hold h (!(c.rS base).poison && aligned ea (sizeBytes size) && !keys.isEmpty
      && keys.all (fun k => spacePa k == .cistern (dieOf fe)) && keys.any (fun k => cisternBank k == refreshBank s))
  | _ =>
    let u := opUses i
    let qs := u.reads.filterMap (fun r => match r with
      | .q n => some (VSrc.q n)
      | _ => none)
    if stageOn c u.hdr && (match srcVals c qs with
      | .error .wait => true
      | _ => false) then some .group else none

/-- The context is still frozen before its head group: a translation has not come or its data stall (R226, R403), a fence's
accesses have not performed, or what R111 lists. -/
def headBlock (s : State) (fe : FeId) (g : RGroup) : Option Frz :=
  let c := s.ctx fe
  let l := groupOps g.words
  if c.regs.skip ≠ 0#7 then none
  else
    match c.frz with
    | .translate ea w =>
      match translate s fe .core ea with
      | .miss => if c.asked.contains (.core, ea.toNat / 4096) then some c.frz else none
      | .bad _ => none
      | .ok k => if !fabricOpen s fe || (!w && stalledRead s (k.keyOf ea)) then some c.frz else none
    | .group =>
      if l.any (fun x => releases x.2) && !accessesPerformed c 0#2 then some .group else l.findSome? (fun x => opBlocked s fe x.2)
    | _ => l.findSome? (fun x => opBlocked s fe x.2)

/-- The head group is ready, or its context waits, or is frozen before it (R111). -/
def headFront (s : State) (fe : FeId) : Front :=
  let c := s.ctx fe
  match headGroup c with
  | none => emptyFront s fe
  | some g =>
    if c.regs.skip == 0#7 && groupHolds c g.words then .idle
    else if (headBlock s fe g).isSome then .blocked
    else .ready g

/-- What a context offers (R10, R111). -/
def front (s : State) (fe : FeId) : Front :=
  let c := s.ctx fe
  if c.life ≠ .running ∨ !c.frz.before ∨ landingDue c then .blocked
  else
    match c.idle with
    | .exitOp _ => if settled c && !c.regs.win.busy then .blocked else .idle
    | .quiet => if c.pend.isEmpty then .blocked else .idle
    | .endOp => if settled c then headFront s fe else .idle
    | .none => if c.stops.any && c.clean && !c.regs.loop.active then .blocked else headFront s fe

/-! ### Beats (R10) -/

/-- Tiles published by `radv` take effect (R242). -/
def Mat.publish (m : Mat) (hnd : BitVec 4) (n : BitVec 9) : Mat :=
  let r := m.ring hnd
  { m with rings := vset m.rings hnd { r with tail := BitVec.ofNat 8 ((r.tail.toNat + n.toNat) % max r.count.toNat 1), fill := r.fill + n } }

/-- What takes effect at a beat: SPM stores, `cmode`, algebra tables, `radv` (R53, R186, R242, R274). -/
def Ctx.settleBeat (c : Ctx) : Ctx :=
  let m := c.eng.mat
  let m := (m.algNew.filter (fun x => decide (x.1 ≤ c.beat))).foldl (fun m x => { m with alg := vset m.alg x.2.1 x.2.2 }) m
  let m := (m.radv.filter (fun x => decide (x.1 ≤ c.beat))).foldl (fun m x => m.publish x.2.1 x.2.2) m
  let m := { m with algNew := m.algNew.filter (fun x => !decide (x.1 ≤ c.beat)), radv := m.radv.filter (fun x => !decide (x.1 ≤ c.beat)) }
  let ch := c.eng.ch.map (fun x =>
    { x with lenient := (x.modeNew.filter (fun y => decide (y.1 ≤ c.beat))).foldl (fun _ y => y.2) x.lenient,
             modeNew := x.modeNew.filter (fun y => !decide (y.1 ≤ c.beat)) })
  { c with spm := c.spm.settle c.beat, eng := { c.eng with mat := m, ch := ch } }

/-- One beat passes. -/
def Ctx.nextBeat (c : Ctx) : Ctx := { c with beat := c.beat + 1 }.settleBeat
/-- An idle beat (R10); `end` ends its wait once everything has landed. -/
def Ctx.idleBeat (c : Ctx) : Ctx :=
  let c := c.nextBeat
  if c.idle = .endOp ∧ settled c then { c with idle := .none } else c

/-! ### The winner (R112, R113) -/

/-- A ready context of the core. -/
structure Cand where
  fe : FeId
  grp : RGroup
  skipped : Bool
  prio : Nat
  denial : Nat
deriving DecidableEq, Repr

/-- The slots of the group that it occupies: a skipped group occupies none (R125). -/
def Cand.slots (x : Cand) : List Nat := if x.skipped then [] else busySlots x.grp.words
/-- The group uses a vector pipe, and both. -/
def Cand.vector (x : Cand) : Bool := x.slots.contains 1 || x.slots.contains 2
def Cand.bothPipes (x : Cand) : Bool := x.slots.contains 1 && x.slots.contains 2

/-- The candidate of a front end, if it is ready; on a narrow core the owner of a vector group in its second cycle waits
(R13). -/
def cand (s : State) (fe : FeId) : Option Cand :=
  let c := s.ctx fe
  if (s.core (coreOf fe)).second = some fe then none
  else match front s fe with
  | .blocked | .idle => none
  | .ready g => some ⟨fe, g, c.regs.skip != 0#7, c.ident.prio.toNat, c.denial.toNat⟩
/-- May a ready candidate issue in this cycle: not a vector group beside another one's second cycle (R13). -/
def Cand.may (s : State) (x : Cand) : Bool := (s.core (coreOf x.fe)).second.isNone || !x.vector

/-- The winner and the other of two candidates, A first (R112). -/
def winner (a b : Cand) : Cand × Cand :=
  if a.denial = 256 then (a, b)
  else if b.denial = 256 then (b, a)
  else if a.prio < b.prio then (b, a) else (a, b)

/-- The two groups may issue in one cycle (R113). -/
def pairs (narrow : Bool) (w o : Cand) : Bool :=
  !groupMark w.grp.words && !groupMark o.grp.words && w.slots.all (fun i => !o.slots.contains i)
  && !(narrow && w.vector && o.vector)

/-! ### The checks of a group before any op takes effect (R35, R125, R126, R136, R144) -/

/-- An op that no body and no skipped group may hold (R125, R136). -/
def isSetup : Instr → Bool
  | .lset _ _ _ | .lbody _ _ | .lstage _ _ | .lgo _ _ => true
  | _ => false

/-- The slots whose ops share a destination register or name a stream twice, as a source or as the destination of `qset` or
`qclr` (R35, R144). -/
def clashSlots (l : List (Nat × Instr)) : List Nat :=
  let qs (i : Instr) : List RegRef := ((opUses i).reads ++ (opUses i).dst).filter (fun r => match r with
    | .q _ => true
    | _ => false)
  (l.filter (fun x =>
    decide ((qs x.2).Nodup) == false || l.any (fun y => x.1 != y.1 && ((opUses x.2).dst.any (opUses y.2).dst.contains
      || (qs x.2).any (qs y.2).contains)))).map (·.1)

/-- The slots of a group that raise P01 before any op takes effect. -/
def groupFaults (c : Ctx) (g : BitVec 512) : List Nat :=
  let l := groupOps g
  let w := c.regs.win
  let lp := c.regs.loop
  clashSlots l
  ++ (if c.regs.skip ≠ 0#7 || lp.active then (l.filter (fun x => isSetup x.2)).map (·.1) else [])
  ++ (if w.opened && w.left != 0#5 then (busySlots g).filter (fun i => !engineWord g i) else [])
  ++ (if lp.active && !lp.captured && decide (lp.cap.toNat + 1 = lp.len.toNat) && !groupMark g then (groupSlots g).take 1 else [])

/-- An op whose guard selects lanes or bytes, so that it reads its sources whatever bit 0 holds (R42, R146). -/
def laneGuarded (slot : Nat) : Instr → Bool
  | .sminit _ _ _ | .smrsc _ _ _ | .smget _ _ _ => false
  | .vldg _ _ _ _ _ | .vlds _ _ _ _ _ | .vsts _ _ _ _ _ | .vstm _ _ _ _ _ _ _ => true
  | _ => slot == 1 || slot == 2

/-- The slots whose ops read a register with a landing to come, which debug mode reports as A62 (R54, R359): an op whose stage is off
reads nothing, one whose guard is false its guard only (R41, R42). -/
def shadowSlots (c : Ctx) (g : BitVec 512) : List Nat :=
  if !c.dbg || c.regs.skip != 0#7 then []
  else
    let w := c.pend.flatMap Pend.refs
    let r := replayedRefs c
    ((groupOps g).filter (fun x =>
      let u := opUses x.2
      stageOn c u.hdr && ((guardRefs u.hdr).any w.contains
        || ((laneGuarded x.1 x.2 || opEnabled c u.hdr)
            && (u.reads.any w.contains || u.dst.any r.contains || u.writes.any r.contains))))).map (·.1)

/-! ### Beginning and ending a group (R40, R108, R233, R355, R357) -/

/-- The band of immediates: BAND, or a higher one of the template (R95, R373). -/
def groupBand (c : Ctx) (g : RGroup) : Band := if bandLevel c.band < bandLevel g.band then g.band else c.band

/-- A group begins to issue: a mark group first releases the gate and discards the undo log (R233, R234); an entry with an
uncorrectable error is D41 there (R217). -/
def beginGroup (s : State) (x : Cand) (pair rival : Option FeId) : State :=
  let c := s.ctx x.fe
  let mark := groupMark x.grp.words
  let fs := (groupFaults c x.grp.words).map (fun i => (BitVec.ofNat 3 i, Cause.p01, 0#64, groupWord x.grp.words i))
    ++ (shadowSlots c x.grp.words).map (fun i => (BitVec.ofNat 3 i, Cause.a62, 0#64, groupWord x.grp.words i))
    ++ (if mark && c.eccErr then
        (groupSlots x.grp.words).take 1 |>.map (fun i => (BitVec.ofNat 3 i, Cause.d41, 0#64, groupWord x.grp.words i)) else [])
  let w := if mark then { c.releaseGate with spm := { c.spm with undo := [] } } else c
  let i : Issue := ⟨x.fe, c, (s.core (coreOf x.fe)).mq, x.grp, mark, x.skipped, c.regs.loop.active && !c.regs.loop.captured,
    c.regs.loop.replaying, groupBand c x.grp, fs, pair, rival, none, none⟩
  { (s.setCtx x.fe { w with frz := .none, idle := .none }) with
    issue := some i, cur := x.fe,
    agenda := (groupSlots x.grp.words).map (fun k => Act.op x.fe (groupWord x.grp.words k)) ++ [Act.fin x.fe] ++ s.agenda }

/-- The checkpoint of a mark group (R355, R356): the snapshot that travelled with it becomes current (R108), and entries
popped before it are gone from the FIFO (R109). -/
def Ctx.checkpoint (c : Ctx) (g : RGroup) : Ctx :=
  let old := c.gen.snap.fifoPos
  let sn := g.snap.getD c.gen.snap
  let pend := c.pend.map (fun p => { p with recorded := true })
  let gen := { c.gen with snap := sn, popped := (c.gen.popped.drop (sn.fifoPos - old)).map (fun e => { e with fresh := false }),
                          fifo := c.gen.fifo.map (fun e => { e with fresh := false }) }
  { c with gen := gen, pend := pend, clean := true,
           chk := ⟨c.regs, sn, pend, c.beat, g.prov, firstWord g.words, c.idle == .endOp⟩ }

/-- The loop engine after a body group (R134, R135, R139). -/
def Ctx.loopStep (c : Ctx) (i : Issue) : Ctx :=
  if !i.saved.regs.loop.active then c
  else
    match c.regs.loop.advance i.grp with
    | (l, false) => { c with regs := { c.regs with loop := l } }
    | (l, true) =>
      { c with regs := { c.regs with loop := l.boundary c.stops.any },
               idle := if l.quietAt c.stops.any then .quiet else c.idle }

/-- The window after a group that it covers (R126). -/
def Ctx.winStep (c : Ctx) (i : Issue) : Ctx :=
  let w := i.saved.regs.win
  if w.opened && w.left != 0#5 then
    let v := c.regs.win
    { c with regs := { c.regs with win := { v with left := v.left - 1#5 }.close } }
  else c

/-- The context after a group has issued. -/
def Ctx.afterGroup (c : Ctx) (i : Issue) : Ctx :=
  let c := if i.replay then c else { c with gen := { c.gen with runnel := c.gen.runnel.tail } }
  let c := if i.skipped then { c with regs := { c.regs with skip := c.regs.skip - 1#7 } } else c
  let c := ({ c with denial := 0#9 }.nextBeat.loopStep i).winStep i
  if i.mark then c.checkpoint i.grp else { c with clean := false }

/-- The mask of the faulting slots. -/
def faultMask (fs : List (BitVec 3 × Cause × Word × Word)) : BitVec 8 := fs.foldl (fun m f => m ||| (1#8 <<< f.1.toNat)) 0#8
/-- The fault of the lowest slot; within a slot the first noted (R357). -/
def lowestFault : List (BitVec 3 × Cause × Word × Word) → Option (BitVec 3 × Cause × Word × Word)
  | [] => none
  | f :: t =>
    match lowestFault t with
    | none => some f
    | some g => if g.1 < f.1 then some g else some f

/-- The group commits nothing: the context and the matrix queue as they were, but for the translations asked for and
refused. -/
def undoGroup (s : State) (i : Issue) : State :=
  let c := s.ctx i.fe
  let k := coreOf i.fe
  (s.setCore k { s.core k with mq := i.savedMq }).setCtx i.fe { i.saved with deny := c.deny, asked := c.asked }

/-- A stop at the context's checkpoint: it holds its landing record, and an A-class record is written (R360, R362). -/
def stopAt (s : State) (fe : FeId) (cause : Cause) (eng : Bool) (sw : BitVec 16) : State :=
  (trapAsync s fe cause eng sw).modCtx fe (fun c =>
    { c with life := .stopped, frz := .none, parkB := if cause.cls = .a then none else some cause })

/-- A stop that writes no record (R352): it enters the flight trace as a scheduler event, and the context leaves its front end;
copies in flight have finished their beat, and the rest is discarded (R294, R295). -/
def silentStop (s : State) (fe : FeId) : State :=
  let c := s.ctx fe
  departCtx ((discardEngines s fe).traceEv ⟨1#8, 8#8, fe.setWidth 16, c.ident.task.setWidth 64, 0#64⟩) fe

/-- Changes the pending stops of a context. -/
def State.modStops (s : State) (fe : FeId) (f : Stops → Stops) : State := s.modCtx fe (fun c => { c with stops := f c.stops })

/-- Takes the pending stop with the lowest cause; the others stay pending (R360). -/
def takeStop (s : State) (fe : FeId) : State :=
  let t := (s.ctx fe).stops
  if t.silent then silentStop s fe
  else
    match lowestEngine t.engine, t.a60 with
    | some x, _ => (stopAt s fe x.1 true 0#16).modStops fe (fun t => { t with engine := t.engine.erase x })
    | none, some sw => (stopAt s fe .a60 false sw).modStops fe (fun t => { t with a60 := none })
    | none, none =>
      if t.a61 then (stopAt s fe .a61 false 0#16).modStops fe (fun t => { t with a61 := false })
      else if t.a62 then (stopAt s fe .a62 false 0#16).modStops fe (fun t => { t with a62 := false })
      else s

/-- A read inside a shadow in debug mode (R54): the context returns to its checkpoint and stops with A62, or with the lower cause
of a stop that is pending too (R360). -/
def debugStop (s : State) (fe : FeId) : State :=
  takeStop ((s.modCtx fe Ctx.rollback).modStops fe (fun t => { t with a62 := true })) fe

/-- The address that the record of a P00 gives: the store address of the illegal word, for a group that `emitr` pushed from
the kernel store (R110, R362); its words lie there one after another, empty slots left out, behind the all-zero word that may come first (R33). -/
def storeAddrOf (g : RGroup) (slot : BitVec 3) : Word :=
  if g.prov.getLsbD 19 then
    (g.prov.extractLsb' 0 18).setWidth 64
      + BitVec.ofNat 64 (8 * (g.lead.toNat + ((groupSlots g.words).filter (fun i => decide (i < slot.toNat))).length))
  else 0#64

/-- The faults of a group (R357, R358). -/
def faultGroup (s : State) (i : Issue) (fs : List (BitVec 3 × Cause × Word × Word)) : State :=
  let s := undoGroup s i
  let real := fs.filter (fun f => f.2.1 != .a62)
  match lowestFault real with
  | none => debugStop s i.fe
  | some f =>
    match i.commit with
    | some e => trapB s i.fe f.2.1 (faultMask real) e.prov e.word f.2.2.1
    | none =>
      let addr := if f.2.1 = .p00 then storeAddrOf i.grp f.1 else f.2.2.1
      trapB s i.fe f.2.1 (faultMask real) i.grp.prov f.2.2.2 addr

/-- Freezes the context before the group, and asks for a missing leaf (R111, R226). A translation fault that the Spout met is
taken there: it is no fault of an op (R165, assumption log 71). -/
def freezeBefore (s : State) (i : Issue) (f : Frz) : State :=
  let s := (undoGroup s i).modCtx i.fe (fun c => { c with frz := f })
  match f with
  | .translate ea _ => askLeaf s i.fe .core ea
  | .spout c ea => trapB s i.fe c 0#8 i.grp.prov (firstWord i.grp.words) ea
  | .none | .load | .group | .copyFull _ | .fence _ _ | .tfence _ _ | .twait _ _ _ | .bwait _ _ | .sigwait _ _ | .mwait _ _ _ _ _
  | .cdrain _ _ | .launch _ | .mfreeze | .mfrozenCmd => s

/-- A context that was ready and did not issue (R111). -/
def denied (s : State) (fe : Option FeId) : State :=
  match fe with
  | none => s
  | some fe => s.modCtx fe (fun c => { c with denial := if c.denial = 256#9 then 256#9 else c.denial + 1#9 })

/-- The entry has entered its queue and leaves the commit buffer (R127). -/
def commitEntry (s : State) (i : Issue) : State :=
  s.modCtx i.fe (fun c => { c with regs := { c.regs with win := { c.regs.win with entries := c.regs.win.entries.tail }.close } })

/-- A register as an op of the group read it. -/
def regVal (c : Ctx) : RegRef → RegVal
  | .s n => .s (c.rS n)
  | .p n => .p (c.rP n)
  | .v n => .v (c.rV n)
  | .m n => .m (c.rM n)
  | .q n => .v (((vget zeroStream c.regs.streams n).ready.map (·.v)).getD zeroVReg)
  | .fmt | .flags => .w c.regs.fmt
  | .kvpol => .w c.regs.kvpol
  | .stallc ch => .w (if ch then c.stallc[1] else c.stallc[0])
  | .band => .w (zext64 c.band)
/-- What an op read at issue: its guard, then what it names (R356). -/
def opSrc (c : Ctx) (word : Word) : List RegVal :=
  match decodeOp word with
  | .ok i => .p (c.rP (opUses i).hdr.g) :: (opUses i).reads.map (regVal c)
  | .error _ => []
/-- The pending ops of the group take what they read at issue (R356). -/
def Ctx.fillSrc (c : Ctx) (i : Issue) : Ctx :=
  { c with pend := c.pend.map (fun p => if i.saved.nextSeq ≤ p.seq then { p with src := opSrc i.saved p.word } else p) }

/-- The group has issued. -/
def commitGroup (s : State) (i : Issue) : State :=
  if i.mark && decide (32 < (s.ctx i.fe).pend.length) then
    faultGroup s i [(BitVec.ofNat 3 ((groupSlots i.grp.words).headD 0), .p01, 0#64, firstWord i.grp.words)]
  else
    let s := s.modCtx i.fe (fun c => (c.fillSrc i).afterGroup i)
    let k := coreOf i.fe
    let both : Bool := !i.skipped && (busySlots i.grp.words).contains 1 && (busySlots i.grp.words).contains 2
    if both && Config.narrow (BitVec.ofNat 8 k) then s.setCore k { s.core k with second := some i.fe } else s

/-- The other group of the cycle begins: the paired one, or the one that may issue since the winner froze (R111, R113). -/
def beginOther (s : State) (fe : Option FeId) : State :=
  match fe with
  | none => s
  | some fe =>
    match cand s fe with
    | some x => if x.may s then beginGroup s x none none else s
    | none => s

/-- The end of a group (R111, R357): it commits, freezes its context, or faults. -/
def finishGroup (s : State) (fe : FeId) : State :=
  match s.issue with
  | none => s
  | some i =>
    if i.fe ≠ fe then s
    else
      let s := { s with issue := none }
      match i.retry, i.faults, i.commit with
      | some f, _, none => beginOther (freezeBefore s i f) (i.pair <|> i.rival)
      | some _, _, some _ => undoGroup s i
      | none, f :: fs, _ => beginOther (denied (faultGroup s i (f :: fs)) i.rival) i.pair
      | none, [], some _ => commitEntry s i
      | none, [], none => beginOther (denied (commitGroup s i) i.rival) i.pair

/-! ### A cycle of the merge stage -/

/-- The head of a context as a cycle finds it: the groups that an `lgo` drops are gone (R134), and a context whose head group cannot
issue freezes before it (R111). -/
def headCycle (s : State) (fe : FeId) : State :=
  let s := s.modCtx fe Ctx.dropGroups
  match headGroup (s.ctx fe) with
  | some g => if front s fe = .blocked ∧ (s.ctx fe).frz = .none ∧ (s.ctx fe).life = .running then
      s.modCtx fe (fun c => { c with frz := (headBlock s fe g).getD c.frz }) else s
  | none => s
/-- An idle beat of a context that spends one in this cycle (R10). -/
def idleCycle (was s : State) (fe : FeId) : State := if front was fe = .idle then s.modCtx fe Ctx.idleBeat else s

/-- Issues the winner's group, and the other context's when the two may pair (R112, R113). -/
def issueCycle (s : State) (core : CoreId) (a b : Option Cand) : State :=
  let ok (x : Option Cand) : Option Cand := x.filter (fun c => c.may s)
  match ok a, ok b with
  | some a, some b =>
    let w := winner a b
    if pairs (Config.narrow core) w.1 w.2 then beginGroup s w.1 (some w.2.fe) none else beginGroup s w.1 none (some w.2.fe)
  | some x, none => beginGroup (denied s (if b.isSome then some (feB core) else none)) x none none
  | none, some x => beginGroup (denied s (if a.isSome then some (feA core) else none)) x none none
  | none, none => denied (denied s (a.map (·.fe))) (b.map (·.fe))

/-- One cycle of a core: the candidates stand before the idle beats, since an idle beat issues nothing (R10); then the winner; the
second cycle of a vector group ends. -/
def mergeCycle (s : State) (core : CoreId) : State :=
  let s := headCycle (headCycle s (feA core)) (feB core)
  let a := cand s (feA core)
  let b := cand s (feB core)
  let s := idleCycle s (idleCycle s s (feA core)) (feB core)
  let k := core.toNat
  let second := (s.core k).second
  let s := issueCycle s core a b
  if second.isSome then s.setCore k { s.core k with second := none } else s

/-- MERGE_STAGE_ISSUE (R112). -/
def execMergeStageIssue (core : CoreId) (s : State) : Out :=
  .next (if s.issue.isSome then s else mergeCycle s core)

/-- Is a ready context of the core starved (R112, step 1). -/
def starved (s : State) (core : CoreId) : Bool :=
  let hit (x : Option Cand) : Bool := x.any (fun c => c.denial == 256 && c.may s)
  hit (cand s (feA core)) || hit (cand s (feB core))

/-- STARVATION_BREAK (R112): a cycle in which a context whose denial count is 256 wins. -/
def execStarvationBreak (core : CoreId) (s : State) : Out :=
  .next (if s.issue.isSome || !starved s core then s else mergeCycle s core)

/-! ### The eskip window (R127, R128) -/

/-- ESKIP_RESOLVE (R127). -/
def execEskipResolve (fe : FeId) (s : State) : Out :=
  .next (if (s.ctx fe).life = .running then resolveWindow s fe else s)

/-- ESKIP_ENTRY_ENTER (R127): the oldest entry of a committed window enters its queue, if there is room. -/
def execEskipEntryEnter (fe : FeId) (s : State) : Out :=
  let c := s.ctx fe
  .next (match c.regs.win.entries with
    | [] => s
    | e :: _ =>
      if s.issue.isSome || !c.regs.win.committed || c.life != .running then s
      else
        let g : RGroup := ⟨setGroupWord 0#512 e.slot.toNat e.word, e.prov, c.band, none, false⟩
        let i : Issue := ⟨fe, c, (s.core (coreOf fe)).mq, g, false, false, false, false, c.band, [], none, none, some e, none⟩
        { s with issue := some i, cur := fe, agenda := [Act.op fe e.word, Act.fin fe] ++ s.agenda })

/-! ### Stops (R139, R348, R352, R360) -/

/-- ASYNC_STOP_TAKE (R360): at the checkpoint; at once in a wait, back at the checkpoint that followed its mark group (R348);
inside a nest STOPREQ is set, and the stop waits for the quiet point (R139). A silent stop also ends a wait for a `launch` to be
accepted (R352, R353). -/
def execAsyncStopTake (fe : FeId) (s : State) : Out :=
  let c := s.ctx fe
  .next (if c.stops.silent ∧ (c.life = .stopped ∨ c.life = .bound) then silentStop s fe
    else if c.life ≠ .running ∨ !c.stops.any then s
    else if c.frz.isWait then takeStop (if c.clean then s else s.modCtx fe Ctx.rollback) fe
    else if c.idle == .quiet then s
    else if c.regs.loop.active then s.modCtx fe (fun c => { c with regs := { c.regs with loop := { c.regs.loop with stopreq := true } } })
    else if c.clean && (c.frz.before || c.frz == .load || (c.stops.silent && c.frz.isLaunch)) then takeStop s fe
    else s)

/-- QUIET_POINT (R139): every result has landed; the gate releases, the undo log is discarded, a checkpoint with an empty
landing record is taken, and the context stops. -/
def execQuietPoint (fe : FeId) (s : State) : Out :=
  let c := s.ctx fe
  .next (if c.life = .running ∧ c.idle = .quiet ∧ c.pend.isEmpty then
      let c := { c.releaseGate with spm := { c.spm with undo := [] }, idle := Idle.none, clean := true }
      takeStop (s.setCtx fe { c with chk := { c.chk with regs := c.regs, record := [], beat := c.beat, endq := false } }) fe
    else s)

end Sys2Proof.Machine
end

