-- ==== Sys2Proof/Machine/Spout.lean ====
section
/-! DEFINITION. The Spout: what the next vector of a stream holds, and the arrival of scale pairs (08_memory R245 to R248). -/
namespace Sys2Proof.Machine

/-- The bits of a source element: of an index under GATH, else of SFMT (R247). -/
def srcElemBits (d : BitVec 512) : Nat :=
  if descHas d 4 then 8 * 2 ^ (descOp d 0).2.toNat else fmtBits (descSfmt d)
/-- The source bytes of a stream, and its elements (R246). -/
def streamBytes (d : BitVec 512) : Nat := descCnt d 0 * descCnt d 1 * descCnt d 2 * descChunk d
def streamElems (d : BitVec 512) : Nat := streamBytes d * 8 / srcElemBits d

/-- The address of byte o of the concatenation of the chunks (R246). -/
def streamAddr (d : BitVec 512) (o : Nat) : Word :=
  let c := o / descChunk d
  descWord d 0 + BitVec.ofNat 64 (c / (descCnt d 0 * descCnt d 1)) * descStr d 2
    + BitVec.ofNat 64 (c / descCnt d 0 % descCnt d 1) * descStr d 1 + BitVec.ofNat 64 (c % descCnt d 0) * descStr d 0
    + BitVec.ofNat 64 (o % descChunk d)

/-- The pieces of the source bytes from o on, cut at chunks and at lines. -/
def streamPieces (d : BitVec 512) (off o len : Nat) : Nat → List Piece
  | 0 => []
  | fuel + 1 =>
    if len = 0 then []
    else
      let ea := streamAddr d o
      let n := min len (min (descChunk d - o % descChunk d) (64 - ea.toNat % 64))
      ⟨off, ea, n⟩ :: streamPieces d (off + n) (o + n) (len - n) fuel

/-- A step that ends early: a fault for the pop, or an address whose leaf is missing. -/
inductive SpoutEnd where
  | fault (c : Cause) (ea : Word)
  | miss (ea : Word)
  | wait

/-- Reads pieces in the window and in memory, weak or strong as the descriptor says (R214, R229, R246, R256); the released
stores of the context are seen (R254), the gate's bytes are not (R232). It waits for what an access of the context would wait
for (R260, R263). -/
def spoutRead (s : State) (fe : FeId) (d : BitVec 512) (ps : List Piece) : Except SpoutEnd ReadData :=
  let c := s.ctx fe
  let m := ps.filter (fun p => !isSpm p.ea)
  let a := readSpm c.spm (ps.filter (fun p => isSpm p.ea))
  let b := readMem s fe .core (descStrong d) (descScope d) spLoad c.stq.sb c.nextSeq m
  match a, b with
  | .error f, .fault g => .error (if g.step < f.step then .fault g.cause g.ea else .fault f.cause f.ea)
  | .error f, _ => .error (.fault f.cause f.ea)
  | _, .fault g => .error (.fault g.cause g.ea)
  | _, .miss ea => .error (.miss ea)
  | .ok x, .ok y => if mayRead s fe c.nextSeq (descStrong d) m then .ok ⟨x.bytes ++ y.bytes, x.bands ++ y.bands⟩ else .error .wait

/-- The number in bits lo .. lo + n − 1 of the bytes read, and whether one of its bytes is poisoned. -/
def bitsRead (r : ReadData) (lo n : Nat) : Nat × Bool :=
  let bs := (List.range ((lo + n - 1) / 8 - lo / 8 + 1)).map (fun i => (r.bytes.find? (fun x => x.1 == lo / 8 + i)).getD (0, 0#8, false))
  (bytesNat (bs.map (·.2.1)) / 2 ^ (lo % 8) % 2 ^ n, bs.any (·.2.2))

/-- The source elements of a vector: n elements from element e on, with their poison and bands; GATH replaces indices by
table elements (R247). -/
def spoutElems (s : State) (fe : FeId) (d : BitVec 512) (e n : Nat) : Except SpoutEnd (List (Nat × Bool) × List Band) :=
  let b := srcElemBits d
  let o := e * b / 8
  let len := (e * b + n * b + 7) / 8 - o
  match spoutRead s fe d (streamPieces d 0 o len 600) with
  | .error x => .error x
  | .ok r =>
    let xs := (List.range n).map (fun i => bitsRead r ((e + i) * b - 8 * o) b)
    if !descHas d 4 then .ok (xs, r.bands)
    else
      let w := fmtBits (descSfmt d)
      let at_ (x : Nat) : Word := descWord d 6 + BitVec.ofNat 64 (x * w / 8)
      let ps := (xs.zipIdx).flatMap (fun x => cutPieces (16 * x.2) (at_ x.1.1) ((x.1.1 * w % 8 + w + 7) / 8) 3)
      match spoutRead s fe d ps with
      | .error x => .error x
      | .ok t =>
        .ok ((xs.zipIdx).map (fun x =>
          let y := bitsRead t (128 * x.2 + x.1.1 * w % 8) w
          (y.1, y.2 || x.1.2)), r.bands ++ t.bands)

/-- The vector of scale bytes that elements from e on use: a new one of the scale stream, or the one popped last. -/
def spoutScales (c : Ctx) (st : Stream) : Except SpoutEnd (Option VReg) :=
  match descScales st.desc with
  | none => .ok none
  | some q =>
    let sq := vget zeroStream c.regs.streams q
    if !needsScales st then .ok sq.scales
    else if !sq.bound then .error (.fault .p08 0#64)
    else
      match sq.ready with
      | none => .error .wait
      | some r =>
        if r.rm ≠ fmtRm c.regs.fmt then .error .wait
        else
          match r.fault with
          | some f => .error (.fault f.1 f.2)
          | none => .ok (some r.v)

/-- The steps up to the last CVT, where a chain rounds more than once: each CVT rounds to OTYPE (R247). -/
def spoutSteps (d : BitVec 512) (scales : Option VReg) (rm : Rm) (e bits : Nat) : Cv :=
  let ot := (VTy.ofBits (descOtype d)).getD .i8
  let r := (List.range (descNops d)).foldl (fun (a : XV × Cv) k =>
    let op := descOp d k
    if op.1 = 2#4 then (mulXV a.1 (Fmt.e8m0.value (lane (scales.getD zeroVReg).bits 1 (e / 32 % 256))), a.2)
    else if op.1 = 3#4 then (sumXV rm [a.1, fmtF32.value (d.extractLsb' 320 32).toNat], a.2)
    else if op.1 = 1#4 then
      let c := convert ot.fmt rm (op.2.getLsbD 0) a.1
      (ot.fmt.value c.bits, ⟨c.bits, a.2.cvnan || c.cvnan, a.2.cvovf || c.cvovf⟩)
    else a) (((Fmt.ofCode (descSfmt d)).getD .e8m0).value bits, ⟨bits, false, false⟩)
  r.2

/-- BT8 (R247): within each 64 bytes, output byte 8i + j is input byte 8j + i. -/
def bt8 (v : BitVec 2048) : BitVec 2048 :=
  setLineBytes 0#2048 ((List.range 256).map (fun k =>
    let q := k / 64 * 64
    (k, lineByte v (q + 8 * (k % 8) + k % 64 / 8))))

/-- The vector from its elements: lanes of OTYPE, band and poison by granule (R248). -/
def spoutVector (d : BitVec 512) (rm : BitVec 2) (e : Nat) (xs : List (Nat × Bool)) (bands : List Band) (scales : Option VReg) : SpoutVec :=
  let w := otypeBits (descOtype d)
  let cs := (xs.zipIdx).map (fun x => spoutSteps d scales (Rm.ofBits rm) (e + x.2) x.1.1)
  let bits := BitVec.ofNat 2048 (packLanes w (cs.map (·.bits)))
  let sp (i : Nat) : Bool := match scales with
    | some v => granuleAt v.poison ((e + i) / 32 % 256)
    | none => false
  let poison := quarterMask (fun q => (xs.zipIdx).any (fun x => (x.1.2 || sp x.2) && w * x.2 / 512 == q))
  match bandOf (bands ++ (scales.map (·.band)).toList) with
  | none => ⟨zeroVReg, false, false, some (.p06, descWord d 0), rm⟩
  | some b =>
    let f := cvFlags cs
    ⟨⟨if descHas d 5 then bt8 bits else bits, b, poison⟩, f.1, f.2, none, rm⟩

/-- The next vector of a stream (R248): zero-filled at its end, P08 once it is exhausted. -/
def nextVector (s : State) (fe : FeId) (st : Stream) : Except SpoutEnd SpoutVec :=
  let c := s.ctx fe
  let d := st.desc
  let rm := fmtRm c.regs.fmt
  let e := st.delivered
  if streamElems d ≤ e then .ok ⟨zeroVReg, false, false, some (.p08, 0#64), rm⟩
  else
    match spoutScales c st with
    | .error x => .error x
    | .ok scales =>
      match spoutElems s fe d e (min (popLanes d) (streamElems d - e)) with
      | .error x => .error x
      | .ok (xs, bands) => .ok (spoutVector d rm e xs bands scales)

/-- Stores what the Spout made ready. -/
def setReady (s : State) (fe : FeId) (q : BitVec 3) (r : SpoutVec) : State :=
  s.modCtx fe (fun c =>
    { c with regs := { c.regs with streams := vset c.regs.streams q { vget zeroStream c.regs.streams q with ready := some r } } })

/-- A stream whose next vector the Spout has still to produce, or produced under another rounding mode. -/
def spoutWanted (c : Ctx) (q : BitVec 3) : Bool :=
  let st := vget zeroStream c.regs.streams q
  st.bound && (match st.ready with
    | none => true
    | some r => r.rm != fmtRm c.regs.fmt)

/-- The pieces of memory that the next vector of a stream is read from. -/
def spoutPieces (s : State) (fe : FeId) (st : Stream) : List Piece :=
  let d := st.desc
  let e := st.delivered
  let n := min (popLanes d) (streamElems d - e)
  let b := srcElemBits d
  let o := e * b / 8
  let ps := streamPieces d 0 o ((e * b + n * b + 7) / 8 - o) 600
  let w := fmtBits (descSfmt d)
  let tb := if !descHas d 4 then []
    else
      match spoutRead s fe d ps with
      | .error _ => []
      | .ok r =>
        ((List.range n).map (fun i => (bitsRead r ((e + i) * b - 8 * o) b).1)).flatMap (fun x =>
          cutPieces 0 (descWord d 6 + BitVec.ofNat 64 (x * w / 8)) ((x * w % 8 + w + 7) / 8) 3)
  (ps ++ tb).filter (fun p => !isSpm p.ea)

/-- What a stream's read leaves: its fills, under KVPOL of its context (R324), and its place in the order of the context's
reads (R254). -/
def spoutFill (s : State) (fe : FeId) (st : Stream) : State :=
  let ps := spoutPieces s fe st
  let s := noteRead s fe .core (descStrong st.desc) (descScope st.desc) (s.ctx fe).nextSeq ps
  ps.foldl (fun s p =>
    match translate s fe .core p.ea with
    | .ok l => fillLine s fe l (l.keyOf p.ea)
    | .bad _ | .miss => s) s

/-- SPOUT_READ (R248). A fault that the read meets is raised by the op that pops the vector; a translation fault of it stops the
context before that op's group, without a slot (R53, R165; assumption log 71). -/
def execSpoutRead (fe : FeId) (q : BitVec 3) (s : State) : Out :=
  let c := s.ctx fe
  .next (if !isBound c || !spoutWanted c q then s
    else
      match nextVector s fe (vget zeroStream c.regs.streams q) with
      | .ok r => setReady (spoutFill s fe (vget zeroStream c.regs.streams q)) fe q r
      | .error (.fault f ea) => setReady (mediaTaken (s.modCtx fe (fun c => c.clearDeny .core ea)) fe .core f ea) fe q ⟨zeroVReg, false, false, some (f, ea), fmtRm c.regs.fmt⟩
      | .error (.miss ea) => askLeaf s fe .core ea
      | .error .wait => s)

/-- LSQ_PAIR_ARRIVAL (R245): the oldest reserved pair becomes poppable. -/
def execLsqPairArrival (fe : FeId) (s : State) : Out :=
  let c := s.ctx fe
  let q := c.eng.mat.scale
  let i := q.findIdx (fun p => !p.ready)
  .next (if isBound c then s.modMat fe (fun m => { m with scale := m.scale.zipIdx.map (fun p => if p.2 = i then { p.1 with ready := true } else p.1) })
    else s)

end Sys2Proof.Machine
end

