-- ==== Sys2Proof/Machine/Landing.lean ====
section
/-! DEFINITION. Landings and memory events: results that land, load data and atomics that return, stores and maintenance
that perform, translation answers, the Cistern's refresh, held block-store writes (02_encoding R53, 08_memory R221 to R243,
09_ordering R252 to R269). -/
namespace Sys2Proof.Machine

/-! ### Landing (R53, R231, R356, R359) -/

/-- The result is known, or a fault is. -/
def Pend.arrived (p : Pend) : Bool :=
  p.fault.isSome || (match p.kind with
    | .done _ | .spm _ _ => true
    | .load r => r.pre.isSome
    | .amo r => r.pre.isSome
    | .launch _ | .wait _ => false)

/-- Every entry that is due has its result or its fault: a context that waits for a load's data lands nothing that was issued
later before it (R53, R54). -/
def beatReady (c : Ctx) : Bool := c.pend.all (fun p => !(p.landable && decide (p.due ≤ c.beat)) || p.arrived)

/-- The entry of a list that lands first: by beat, then by issue (R54). -/
def firstLanding (beat : Nat) : List Pend → Option Pend
  | [] => none
  | p :: t =>
    let r := firstLanding beat t
    if p.arrived && decide (p.due ≤ beat) then
      match r with
      | some q => if q.due < p.due ∨ (q.due = p.due ∧ q.seq < p.seq) then some q else some p
      | none => some p
    else r

/-- Puts the result of a landing-record entry into RES (R356). -/
def Ctx.setRes (c : Ctx) (seq : Nat) (w : List RegW) : Ctx :=
  { c with chk := { c.chk with record := c.chk.record.map (fun p => if p.seq = seq then { p with kind := .done w, fault := none } else p) } }

/-- What a landing does: register writes, or a fault with its address. -/
def landResult (c : Ctx) (p : Pend) : Except (Cause × Word) (List RegW) :=
  match p.fault with
  | some f => .error f
  | none =>
    match p.kind with
    | .done w => .ok w
    | .load r => .error (r.pre.getD (.p00, 0#64))
    | .amo r => .error (r.pre.getD (.p00, 0#64))
    | .launch _ | .wait _ => .ok []
    | .spm r w =>
      if p.recorded && c.interlocked.any (fun n => decide (p.seq < n)) then
        match readSpm c.spm r.pieces with
        | .error f => .error (f.cause, f.ea)
        | .ok d =>
          match loadWrites r.dst d with
          | .error k => .error (k, (r.pieces.map (·.ea)).headD 0#64)
          | .ok w' => .ok w'
      else .ok w

/-- Lands one entry that has a result, but for the FMT flags that it sets. -/
def Ctx.landOne (c : Ctx) (p : Pend) (w : List RegW) : Ctx :=
  let c := applyRegWs c (w.filter (fun x => !regWFlag x))
  let c := { c with pend := c.pend.filter (fun q => q.seq != p.seq) }
  if p.recorded then c.setRes p.seq w else c

/-- After the landings of a beat: interlocked mode ends with the last replayed entry (R359), a freeze at a load's landing
beat ends or begins (R10), and `end` has waited long enough (R131). -/
def Ctx.afterLanding (c : Ctx) : Ctx :=
  let il := c.interlocked.filter (fun n => c.pend.any (fun p => decide (p.seq < n)))
  let frz := if landingDue c then (if c.frz.before then Frz.load else c.frz) else if c.frz = .load then .none else c.frz
  let idle := if c.idle = .endOp ∧ settled c then Idle.none else c.idle
  { c with interlocked := il, frz := frz, idle := idle }

/-- Lands what is due, in order; the first fault rolls the context back (R357). The FMT flags set in the beat land after its other
writes: a flag that is set and cleared in one beat stays set (R67). -/
def landAll (s : State) (fe : FeId) (flags : List RegW) : Nat → State
  | 0 => s
  | n + 1 =>
    let c := s.ctx fe
    match firstLanding c.beat c.pend with
    | none => s.setCtx fe (applyRegWs c flags).afterLanding
    | some p =>
      match landResult c p with
      | .ok w => landAll (s.setCtx fe (c.landOne p w)) fe (flags ++ w.filter regWFlag) n
      | .error (cause, ea) => trapB s fe cause (1#8 <<< p.slot.toNat) p.prov p.word ea

/-- The lowest `n` save-counter indexes that no task holds (R388). -/
def freeScidx (s : State) (n : Nat) : List (BitVec 16) :=
  let used := s.disp.tasks.flatMap (·.scidx)
  (((List.range 65536).filter (fun i => !used.contains (BitVec.ofNat 16 i))).take n).map (BitVec.ofNat 16)
/-- A protected context without a save-counter index takes the lowest free one, which its task keeps; without a free one it goes on
without an index (R388). -/
def giveScidx (s : State) (fe : FeId) : State :=
  let c := s.ctx fe
  if !c.prot || c.ident.scidx.isSome then s
  else
    match freeScidx s 1 with
    | [] => s
    | i :: _ =>
      let s := { s with disp := { s.disp with tasks := s.disp.tasks.map (fun (t : Task) =>
        if t.id = c.ident.task then { t with scidx := t.scidx ++ [i] } else t) } }
      s.modCtx fe (fun c => { c with ident := { c.ident with scidx := some i } })

/-- The landings of a running context; one that they make protected is given its save-counter index (R371, R388). -/
def landContext (s : State) (fe : FeId) : State :=
  let c := s.ctx fe
  if c.life ≠ .running then s
  else if beatReady c then
    let s := landAll s fe [] (c.pend.length + 1)
    if c.prot then s else giveScidx s fe
  else s.setCtx fe c.afterLanding

/-- REGISTER_LANDING (R53). -/
def execRegisterLanding (fe : FeId) (s : State) : Out := .next (landContext s fe)

/-! ### Data that arrive (R229, R235, R254 to R263) -/

/-- Replaces the entry of a pending op, in the record too when it stands there. -/
def Ctx.updatePend (c : Ctx) (seq : Nat) (f : Pend → Pend) : Ctx :=
  { c with pend := c.pend.map (fun p => if p.seq = seq then f p else p) }

/-- The data or the fault of a memory read or an atomic has arrived (R53, R356): an entry of the landing record takes it into
RES, and a context held at its landing beat goes on. -/
def arrive (s : State) (fe : FeId) (p : Pend) (r : Except (Cause × Word) (List RegW)) : State :=
  let s := s.modCtx fe (fun c =>
    match r with
    | .ok w =>
      let c := c.updatePend p.seq (fun q => { q with kind := .done w })
      if p.recorded then c.setRes p.seq w else c
    | .error (k, ea) => (c.updatePend p.seq (fun q => { q with fault := some (k, ea) })).clearDeny .core ea)
  let s := match r with
    | .ok _ => s
    | .error (k, ea) => mediaTaken s fe .core k ea
  if (s.ctx fe).frz = .load then landContext s fe else s

/-- LOAD_DATA_ARRIVAL (R53, R229, R235): the read of pending entry `idx` performs. -/
def execLoadDataArrival (fe : FeId) (idx : BitVec 6) (s : State) : Out :=
  let c := s.ctx fe
  .next (match c.pend[idx.toNat]? with
    | none => s
    | some p =>
      match p.kind with
      | .done _ | .spm _ _ | .amo _ | .launch _ | .wait _ => s
      | .load r =>
        if !p.outstanding || !isBound c || !mayRead s fe p.seq r.strong r.pieces then s
        else
          match readMem s fe .core r.strong r.scope (if r.cistern then spCistern else spLoad) c.ownStores p.seq r.pieces with
          | .miss ea => askLeaf s fe .core ea
          | .fault f =>
            let f := r.dst.fault (r.pieces.flatMap (pieceBand s fe .core)) f
            arrive s fe p (.error (f.cause, f.ea))
          | .ok d =>
            let s := touchPieces (noteRead s fe .core r.strong r.scope p.seq r.pieces) fe .core r.pieces
            match loadWrites r.dst d with
            | .error k => arrive s fe p (.error (k, (r.pieces.map (·.ea)).headD 0#64))
            | .ok w => arrive s fe p (.ok w))

/-! ### Atomics (R239 to R241, R320) -/

/-- May an atomic perform now: after the context's earlier accesses to its line, its earlier strong accesses, and with REL
after every earlier access (R252, R256, R259, R263); an earlier acquiring atomic has returned (R260). -/
def amoMayPerform (s : State) (fe : FeId) (p : Pend) (rel : Bool) : Bool :=
  let c := s.ctx fe
  let ls := lineKeys s fe p.pieces
  !maintBlocks c p.seq ls && !strongBefore c p.seq && fabricOpen s fe
  && c.stq.sb.all (fun e => !(decide (e.seq < p.seq) && (rel || meets ls (e.data.map (fun b => b.1 / 64)))))
  && (!rel || c.stq.maint.all (fun m => !decide (m.seq < p.seq)))
  && c.pend.all (fun q => !(q.outstanding && decide (q.seq < p.seq) && (rel || q.acquires || meets ls (lineKeys s fe q.pieces))))

/-- The 4 KiB page that a KV count at a key belongs to (R300, R301): header i of page 62 of a frame is that of page i. -/
def countedPage (key : Nat) : Nat := if key / 4096 % 64 = 62 then key / 262144 * 64 + key / 64 % 64 else key / 4096
/-- The audit event of a KV count (R320): the page joins the pin list, and the record goes to Headwater. -/
def audit (s : State) (fe : FeId) (ea : Word) (key : Nat) (old : Nat) (prov : Word) : State :=
  let c := s.ctx fe
  let cause : Nat := if old = 0 then 2 else 1
  let w1 : Word := (0#16 ++ (fe.setWidth 16 : BitVec 16) ++ (c.ident.tenant ++ 0#4 : BitVec 8) ++ BitVec.ofNat 8 cause ++ BitVec.ofNat 16 old : BitVec 64)
  let page := countedPage key
  let s := { s with hw := { s.hw with pins := if s.hw.pins.contains page then s.hw.pins else s.hw.pins ++ [page] } }
  (raiseEvent s 1#6 [ea, w1, s.time, prov]).traceEv ⟨4#8, 1#8, fe.setWidth 16, ea, w1⟩

/-- The checks of an atomic at its leaf, in the order of R231. -/
def amoFault (l : Leaf) (r : AmoReq) : Option AccFault :=
  let fs := (if !(l.r && l.w) then [⟨6, .t22, r.ea⟩] else [])
    ++ (leafFault l r.ea true r.scope spStore).toList
    ++ (storePieceFault l r.ea r.b.band (r.b.poison || r.c.poison)).toList
  firstFault fs

/-- What the read part of an atomic leaves in the order of its context: it reads the newest store, and with ACQ acquires what that
store carries (R254, R260). -/
def amoAcquire (s : State) (fe : FeId) (r : AmoReq) (place : Option Nat) (unit : Nat) : State :=
  let v := (versionsOf s place unit).head?
  (noteStrong s fe r.scope place unit).modCtx fe (fun c =>
    match v with
    | some v => if r.acq then { c with ord := c.ord.take (v.carries (agentCtx fe) r.scope) } else c
    | none => c)
/-- With REL the write of an atomic carries what stands before it (R259). -/
def amoRelease (s : State) (fe : FeId) (r : AmoReq) : State :=
  if r.rel then s.modCtx fe (fun c => { c with ord := c.ord.release r.scope (agentCtx fe) s.stamp }) else s

/-- AMO_RESULT_RETURN (R239): the read-modify-write of pending entry `idx` performs, and its old value returns. -/
def execAmoResultReturn (fe : FeId) (idx : BitVec 6) (s : State) : Out :=
  let c := s.ctx fe
  .next (match c.pend[idx.toNat]? with
    | none => s
    | some p =>
      match p.kind with
      | .done _ | .spm _ _ | .load _ | .launch _ | .wait _ => s
      | .amo r =>
        if !p.outstanding || !isBound c || !amoMayPerform s fe p r.rel then s
        else
          match translate s fe .core r.ea with
          | .miss => askLeaf s fe .core r.ea
          | .bad k => arrive s fe p (.error (k, r.ea))
          | .ok l =>
            match (amoFault l r).orElse (fun _ => mediaFault s fe l r.ea), stalledRead s (l.keyOf r.ea) with
            | some f, _ => arrive s fe p (.error (f.cause, f.ea))
            | none, true => s
            | none, false =>
              let key := l.keyOf r.ea
              let n := amoBytes r.sz
              let old := bytesNat (leafBytes s fe l key n)
              let pz := leafPoison s fe l key
              let s := amoRelease (amoAcquire (fillLine s fe l key) fe r (l.place fe) (key / 8)) fe r
              let res := amoNew r.fn (8 * n) old r.b.val.toNat r.c.val.toNat
              let poison := pz || r.b.poison || (r.fn == 9#4 && r.c.poison)
              let s := match res.1 with
                | none => s
                | some v =>
                  let data := (((natBytes v n).zipIdx).map (fun b => (key + b.2, b.1))).filter (fun b => !l.crcByte b.1)
                  performStore s fe ⟨p.seq, r.ea, data, if poison then [key / 64] else [], r.b.band, true, r.scope, l.cls,
                    false, r.ea, false⟩
              let s := if res.2 then audit s fe r.ea key old p.prov else s
              arrive s fe p (.ok [.s r.d ⟨BitVec.ofNat 64 old, l.band, pz⟩]))

/-! ### Stores and maintenance (R232, R243, R252, R255, R263, R422, R423) -/

/-- May a released or strong store perform now (R252, R254, R256, R263). -/
def storeMayPerform (s : State) (fe : FeId) (i : Nat) (e : StoreEnt) : Bool :=
  let c := s.ctx fe
  !maintBlocks c e.seq e.lines && fabricOpen s fe
  && (c.stq.sb.take i).all (fun x => !meets x.lines e.lines && !(e.strong && x.strong))
  && c.pend.all (fun q => !(q.outstanding && decide (q.seq < e.seq)
      && (q.acquires || (e.strong && q.strong) || meets e.lines (lineKeys s fe q.pieces)
          || (lineKeys s fe q.pieces).any (fun l => decide (2 ^ 64 ≤ l)))))

/-- The dirty line that a store reaches in the L1 has a tag or state error (R217): its data are lost, it is poisoned in memory,
and D41 is raised against the context. -/
def tagFault (s : State) (fe : FeId) (e : StoreEnt) : State :=
  let n := clusterOf fe
  let cl := s.cluster n
  match e.lines.find? (fun l => cl.badTags.contains l) with
  | none => s
  | some l =>
    let s := (s.setCluster n { cl with badTags := cl.badTags.filter (· != l), l1d := pdelRange cl.l1d (64 * l) 64,
                                        l1p := pdelRange cl.l1p l 1 }).setLinePoison (64 * l) true
    if (s.ctx fe).life ≠ .running then s else trapB s fe .d41 0#8 (s.ctx fe).chk.prov (s.ctx fe).chk.word e.ea

/-- The access at `va` that stands behind an invalidated leaf takes a new translation (R268): it goes on through the new leaf, waits
for it, or faults as that leaf says; an access of a context that has left its front end is gone (assumption log 80). -/
def renew (s : State) (fe : FeId) (va : Word) (check : Leaf → Option AccFault) (gone : State → State) (go : State → Leaf → State) : State :=
  let c := s.ctx fe
  let fault (k : Cause) : State :=
    if c.life = .running then trapB (s.modCtx fe (fun c => c.clearDeny .core va)) fe k 0#8 c.chk.prov c.chk.word va else s
  if !isBound c then gone s
  else
    match translate s fe .core va with
    | .miss => askLeaf s fe .core va
    | .bad k => fault k
    | .ok l =>
      match check l with
      | some f => fault f.cause
      | none => go s l

/-- A store under a new leaf: its bytes and lines move to the page that the leaf names. -/
def StoreEnt.moved (e : StoreEnt) (l : Leaf) : StoreEnt :=
  let k0 := l.keyOf e.va
  { e with data := e.data.map (fun b => (k0 + b.1 % 256, b.2)), plines := e.plines.map (fun n => k0 / 64 + n % 4), cls := l.cls, stale := false }
/-- Changes the stores on their way of a context. -/
def State.modSb (s : State) (fe : FeId) (f : List StoreEnt → List StoreEnt) : State :=
  s.modCtx fe (fun c => { c with stq := { c.stq with sb := f c.stq.sb } })
/-- Changes the maintenance ops of a context. -/
def State.modMaint (s : State) (fe : FeId) (f : List Maint → List Maint) : State :=
  s.modCtx fe (fun c => { c with stq := { c.stq with maint := f c.stq.maint } })

/-- STORE_PERFORM (R217, R255, R268): entry `idx` of the context's stores on their way performs at its scope, or is translated
again first. -/
def execStorePerform (fe : FeId) (idx : BitVec 8) (s : State) : Out :=
  let c := s.ctx fe
  .next (match c.stq.sb[idx.toNat]? with
    | none => s
    | some e =>
      if e.stale then
        renew s fe e.va
          (fun l => (leafFault l e.va true e.scope spStore).orElse (fun _ => storePieceFault l e.va e.band (!e.plines.isEmpty)))
          (fun s => s.modSb fe (fun l => ldel l idx.toNat)) (fun s l => s.modSb fe (fun q => q.set idx.toNat (e.moved l)))
      else if storeMayPerform s fe idx.toNat e && !e.data.any (fun b => stalled s b.1) then
        tagFault ((performOrPark s fe (agentCtx fe) (s.ctx fe).ord.rel e).modSb fe (fun l => ldel l idx.toNat)) fe e
      else s)

/-- The dirty bytes of a range of a partial map. -/
def inRange (k n : Nat) (p : Host.Cell) : Bool := decide (k ≤ p.1 ∧ p.1 < k + n)
/-- The lines of a maintenance op. -/
def Maint.hasLine (m : Maint) (l : Nat) : Bool := decide (m.key ≤ 64 * l ∧ 64 * l < m.key + m.len)
/-- A mark of a line reaches memory with its data (R230). -/
def putMark (s : State) (p : Nat × Bool) : State :=
  if p.2 then s.setLinePoison (64 * p.1) true else dropFilled (s.setLinePoison (64 * p.1) false) (fun f => f.line == p.1)

/-- What a maintenance op leaves in the L1s of a cluster (R243): the dirty bytes of its range and their marks go to the cluster
cache, or are lost with an invalidation of class NC. -/
def Cluster.maintL1 (cl : Cluster) (m : Maint) (discard : Bool) : Cluster :=
  let d := cl.l1d.filter (inRange m.key m.len)
  let p := cl.l1p.filter (fun x => m.hasLine x.1)
  { cl with l1d := cl.l1d.filter (fun x => !inRange m.key m.len x), l1p := cl.l1p.filter (fun x => !m.hasLine x.1),
            ccd := if discard then cl.ccd else d.foldl (fun l x => pset l x.1 x.2) cl.ccd,
            ccp := if discard then cl.ccp else p.foldl (fun l x => pset l x.1 x.2) cl.ccp }

/-- What a completed maintenance op leaves in the cluster's caches and in memory (R243). For lines that hardware keeps
coherent nothing is dirty, and nothing changes. -/
def maintain (s : State) (fe : FeId) (m : Maint) : State :=
  let n := clusterOf fe
  let discard := m.op == 1#2 && m.cls == 0#2
  let cl := (s.cluster n).maintL1 m discard
  if m.scope = 1#2 then s.setCluster n cl
  else
    let d := cl.ccd.filter (inRange m.key m.len)
    let p := cl.ccp.filter (fun x => m.hasLine x.1)
    let cl := { cl with ccd := cl.ccd.filter (fun x => !inRange m.key m.len x), ccp := cl.ccp.filter (fun x => !m.hasLine x.1) }
    let s := if discard then s else { s with mem := d.foldl (fun l x => memWrite l x.1 x.2) s.mem }
    let s := if discard then s else p.foldl putMark (d.foldl (fun s x => mediaWritten s n x.1) s)
    if m.op = 2#2 then
      s.setCluster n { cl with copies := cl.copies.map (fun x => if m.hasLine x.1 then (x.1, memNat s.mem (64 * x.1) 64) else x),
                               cpp := cl.cpp.map (fun x => if m.hasLine x.1 then (x.1, readsPoison s (64 * x.1)) else x) }
    else dropFilled (s.setCluster n { cl with copies := cl.copies.filter (fun x => !m.hasLine x.1),
                                              cpp := cl.cpp.filter (fun x => !m.hasLine x.1) })
      (fun f => f.cluster == n && m.hasLine f.line)

/-- May a maintenance op complete: the context's earlier stores to its range have performed, its earlier reads of it have
read, earlier maintenance of it is complete (R263), and an earlier acquiring atomic has returned (R260, R262). -/
def maintMay (s : State) (fe : FeId) (i : Nat) (m : Maint) : Bool :=
  let c := s.ctx fe
  let hit (l : Nat) : Bool := decide (m.key < 64 * l + 64 ∧ 64 * l < m.key + m.len)
  !acquireBefore c m.seq && c.stq.sb.all (fun e => !(decide (e.seq < m.seq) && e.lines.any hit))
  && (c.stq.maint.take i).all (fun x => !decide (x.key < m.key + m.len ∧ m.key < x.key + x.len))
  && c.pend.all (fun q => !(q.outstanding && decide (q.seq < m.seq) && (lineKeys s fe q.pieces).any (fun l => hit l || decide (2 ^ 64 ≤ l))))

/-- CACHE_MAINTENANCE_COMPLETE (R243, R268). -/
def execCacheMaintenanceComplete (fe : FeId) (idx : BitVec 6) (s : State) : Out :=
  let c := s.ctx fe
  .next (match c.stq.maint[idx.toNat]? with
    | none => s
    | some m =>
      let gone (s : State) : State := s.modMaint fe (fun l => ldel l idx.toNat)
      if m.stale then
        renew s fe m.va (fun l => leafFault l m.va (m.op == 1#2) 0#2 spStore) gone
          (fun s l => s.modMaint fe (fun q => q.set idx.toNat { m with key := l.keyOf m.va, cls := l.cls, stale := false }))
      else if maintMay s fe idx.toNat m then gone (maintain s fe m)
      else s)

/-! ### Translation answers (R220, R226, R227, R268, R277, R420) -/

/-- The error in the media that a read by the Crown, Headwater or a host meets, in a guarded region (R324). -/
def hwErr (s : State) (k : Nat) : Option MediaErr :=
  mediaErr s ((regionOf s 0#2 k).any (fun r => r.attr.getLsbD 7)) (k / 64)
/-- Such a reader receives a line poisoned, under MPOL 1, or an error response, which a host receives as poison (R324). -/
def hwPoison (s : State) (k : Nat) : Bool := readsPoison s k || (hwErr s k).any (fun e => e.dead || e.poisons true)
/-- Such a read of n bytes: the errors it meets are known from now on, and Headwater counts them (R323, R324). -/
def hwRead (s : State) (a n : Nat) : State :=
  (List.range ((a % 64 + n + 63) / 64)).foldl (fun s i =>
    match hwErr s (a + 64 * i) with
    | none => s
    | some e => if e.stands then mediaEvents { s with media := pset s.media ((a + 64 * i) / 64) e } 0#16 ((a + 64 * i) / 64) e else s) s

/-- The bytes of each size code, as the largest that a range holds around an address: the page stays within the range and the
region, and starts at a multiple of its size. -/
def leafSize (sz : BitVec 4) (va pa : Nat) (r : Region) : Nat → BitVec 4
  | 0 => 0#4
  | n + 1 =>
    let k := BitVec.ofNat 4 (n + 1)
    let b := pageSize k
    let p0 := pa / b * b
    if n + 1 ≤ sz.toNat ∧ (r.base.extractLsb' 12 40).toNat * 4096 ≤ p0 ∧ p0 + b ≤ ((r.limit.extractLsb' 12 40).toNat + 1) * 4096
        ∧ va % b = pa % b then k
    else leafSize sz va pa r n

/-- The leaf of a fill, or the cause that refuses it (R220, R227). `pa` is the physical address of the page that holds `va`. -/
def fillLeaf (s : State) (fe : FeId) (va : Word) (pa : Word) (sz : BitVec 4) (rd wr : Bool) (space : BitVec 2) : Except Cause Leaf :=
  let a := pa.toNat % 2 ^ 52 / 4096 * 4096
  let v := va.toNat / 4096 * 4096
  match regionOf s space a with
  | none => .error .t22
  | some r =>
    if r.attr.getLsbD 19 then .error .t22
    else
      let k := leafSize sz v a r 15
      let b := pageSize k
      let cis : Bool := match spacePa a with
        | .cistern _ => space == 0#2
        | .hbm | .pool | .host | .other => false
      if cis && k == 0#4 then .error .t22
      else .ok { fe := fe, va := v / b * b, sz := k, pa := a / b * b, band := r.attr.extractLsb' 56 8, w := wr && r.attr.getLsbD 17,
                 r := rd && r.attr.getLsbD 16, guard := r.attr.getLsbD 7, poolk := r.attr.extractLsb' 4 2,
                 cls := r.attr.extractLsb' 2 2, space := space }

/-- Adds an element to a cache of n entries: the oldest leaves first. -/
def cacheAdd {α : Type} (l : List α) (x : α) (n : Nat) : List α := if l.length < n then l ++ [x] else l.tail ++ [x]

/-- The tag of a channel's translation cache in its core. -/
def chanTag (fe : FeId) (ch : Bool) : BitVec 2 := (BitVec.ofBool (fe.getLsbD 0) ++ BitVec.ofBool ch : BitVec 2)

/-- Puts a leaf into a unit's cache (R226, R277). -/
def addLeaf (s : State) (fe : FeId) (u : XUnit) (l : Leaf) : State :=
  let k := coreOf fe
  let co := s.core k
  match u with
  | .core => s.setCore k { co with leaves := cacheAdd co.leaves l 96 }
  | .gen => s.setCore k { co with gleaves := cacheAdd co.gleaves l 16 }
  | .chan ch =>
    let t := chanTag fe ch
    let mine := co.cleaves.filter (fun p => p.1 == t)
    let rest := co.cleaves.filter (fun p => p.1 != t)
    s.setCore k { co with cleaves := rest ++ cacheAdd mine (t, l) 64 }

/-- The request for a page has been answered. -/
def answered (s : State) (fe : FeId) (u : XUnit) (va : Word) (deny : Option Cause) : State :=
  s.modCtx fe (fun c =>
    { c with asked := c.asked.filter (fun a => !(a == (u, va.toNat / 4096))),
             deny := match deny with
               | some k => c.deny ++ [(u, va, k)]
               | none => c.deny })

/-- The space that an ATS completion's address lies in: bits 63:62 name a host port's memory, as SPACE does (R223). -/
def replySpace (pa : Word) : BitVec 2 := pa.extractLsb' 62 2

/-- TRANSLATION_FILL (R227): the completion of an ATS request for the page of `va`. -/
def execTranslationFill (fe : FeId) (unit : XUnit) (va : Word) (reply : AtsReply) (s : State) : Out :=
  .next (if !(s.ctx fe).asked.contains (unit, va.toNat / 4096) then s
    else
      match reply with
      | .absent => answered s fe unit va (some .t20)
      | .page pa sz r w =>
        match fillLeaf s fe va pa sz r w (replySpace pa) with
        | .error k => answered s fe unit va (some k)
        | .ok l => addLeaf (answered s fe unit va none) fe unit l)

/-- A PRI response that reports a failure (R227): its code goes into the trap record, here in the one that the front end holds
or in the last record of its trap ring. -/
def putPrirc (s : State) (fe : FeId) (code : BitVec 16) : State :=
  match (s.ctx fe).held with
  | r :: t => s.modCtx fe (fun c => { c with held := ⟨vset r.w 0#3 ((vget 0#64 r.w 0#3 &&& 0x0000FFFFFFFFFFFF#64) ||| ((code.setWidth 64) <<< 48))⟩ :: t })
  | [] =>
    let cl := s.cluster (clusterOf fe)
    let sz := (cl.trctl.extractLsb' 0 4).toNat
    let slots := (List.range (2 ^ sz)).map (fun i => cl.trbase.toNat + 64 * ((cl.trhead.toNat + 2 ^ 32 - 1 - i) % 2 ^ sz))
    let mine := slots.find? (fun a =>
      let w0 := s.word8 a
      w0.extractLsb' 17 9 == fe && w0.extractLsb' 5 3 == 1#3)
    match mine with
    | some a => if ringEnabled cl then { s with mem := memWrites s.mem (a + 6) (natBytes code.toNat 2) } else s
    | none => s

/-! ### Resumption (R359, R348) -/

/-- A wait that begins again when its context resumes: its time starts anew (R348, R364). -/
def Frz.again (cycle : Nat) : Frz → Frz
  | .tfence sc _ => .tfence sc cycle
  | .mwait ea d b tmo _ => .mwait ea d b tmo cycle
  | .none => .none
  | .load => .load
  | .translate ea w => .translate ea w
  | .group => .group
  | .copyFull ch => .copyFull ch
  | .spout c ea => .spout c ea
  | .fence ty sc => .fence ty sc
  | .twait tl n sc => .twait tl n sc
  | .bwait ea ph => .bwait ea ph
  | .sigwait ea d => .sigwait ea d
  | .cdrain ch n => .cdrain ch n
  | .launch d => .launch d
  | .mfreeze => .mfreeze
  | .mfrozenCmd => .mfrozenCmd

/-- The wait that stands in the landing record. -/
def Ctx.pendingWait (c : Ctx) : Option Frz :=
  c.pend.findSome? (fun p => match p.kind with
    | .wait f => some f
    | .done _ | .spm _ _ | .load _ | .amo _ | .launch _ => none)

/-- The context runs again after a rollback, a stop or a restore, in interlocked scoreboard mode while landing-record entries
are pending (R359). -/
def Ctx.resumed (c : Ctx) (cycle : Nat) : Ctx :=
  { c with
    life := .running, parkB := none, priOk := false, img := { c.img with saved := false },
    interlocked := if c.pend.isEmpty then none else some c.nextSeq,
    frz := (c.pendingWait.map (Frz.again cycle)).getD .none,
    eng := { c.eng with cipherRun := !c.eng.cipher.isEmpty } }

/-- A context resumes: a matrix command that a save froze goes on, unless the context's own `mfreeze` holds it (R191, R359). -/
def resumeCtx (s : State) (fe : FeId) : State :=
  let s := s.modCtx fe (fun c => c.resumed s.cycle)
  if (s.mat fe).frozen then s else resumeMatrix s fe

/-- May the context resume: it is stopped, its trap record has left the front end, and its image port rests. -/
def Ctx.mayResume (c : Ctx) : Bool := c.life == .stopped && c.held.isEmpty && !c.img.busy

/-- A parked context whose page request has succeeded runs again once nothing holds it (R227): its trap record has left the front end
and its image port rests. -/
def releasePri (s : State) (fe : FeId) : State :=
  let c := s.ctx fe
  if c.priOk && c.parkB == some .t20 && c.mayResume then resumeCtx s fe else s

/-- PRI_RESPONSE (R227): code 0 releases what is parked at a T20 of the unit; a failure leaves it parked for the Crown. -/
def execPriResponse (fe : FeId) (unit : XUnit) (code : BitVec 16) (s : State) : Out :=
  let c := s.ctx fe
  .next (if code ≠ 0#16 then
      (raiseEvent (putPrirc s fe code) 6#6 [zext64 fe, zext64 code]).traceEv ⟨2#8, 0x20#8, fe.setWidth 16, code.setWidth 64, 0#64⟩
    else
      match unit with
      | .core => if c.parkB = some .t20 then releasePri (s.modCtx fe (fun c => { c with priOk := true })) fe else s
      | .gen => if c.gen.stat = .parked .t20 then genRetry s fe else s
      | .chan ch => if (c.chan ch).parked = some .t20 then s.modChan fe ch (fun x => { x with parked := none }) else s)

/-- A leaf that an invalidation of [va, va + size) of a tenant removes. -/
def staleLeaf (s : State) (tenant : BitVec 4) (va : Word) (size : Nat) (l : Leaf) : Bool :=
  (s.ctx l.fe).ident.tenant == tenant && decide (l.va < va.toNat + size ∧ va.toNat < l.va + pageSize l.sz)

/-- A core keeps only some leaves. -/
def Core.keepLeaves (co : Core) (keep : Leaf → Bool) : Core :=
  { co with leaves := co.leaves.filter keep, gleaves := co.gleaves.filter keep, cleaves := co.cleaves.filter (fun x => keep x.2) }
/-- Removes leaves from every translation cache of the device. -/
def dropLeaves (s : State) (stale : Leaf → Bool) : State :=
  { s with cores := s.cores.map (fun (p : Nat × Core) => (p.1, p.2.keepLeaves (fun l => !stale l))) }

/-- The address was translated by a leaf that an invalidation removes, or may have been. -/
def staleVa (s : State) (fe : FeId) (va : Word) (size : Nat) (a : Word) : Bool :=
  decide (va.toNat / 4096 ≤ a.toNat / 4096 ∧ a.toNat < va.toNat + size)
  || (unitLeaves s fe .core ++ unitLeaves s fe .gen).any (fun l =>
      l.covers fe a && decide (l.va < va.toNat + size ∧ va.toNat < l.va + pageSize l.sz))
/-- The accesses of a context that have not performed and stand behind such a leaf translate again (R268). -/
def Ctx.staleAccesses (c : Ctx) (stale : Word → Bool) : Ctx :=
  let st (l : List StoreEnt) : List StoreEnt := l.map (fun e => { e with stale := e.stale || stale e.va })
  { c with stq := { gate := st c.stq.gate, sb := st c.stq.sb, maint := c.stq.maint.map (fun m => { m with stale := m.stale || stale m.va }) } }

/-- ATS_INVALIDATION (R227, R268): every matching leaf of the tenant's contexts goes before it completes, and what was translated by
one and has not performed takes a new translation. -/
def execAtsInvalidation (tenant : BitVec 4) (va : Word) (size : BitVec 64) (s : State) : Out :=
  let u := { s with ctxs := s.ctxs.map (fun (p : Nat × Ctx) =>
    if p.2.ident.tenant = tenant then (p.1, p.2.staleAccesses (staleVa s (BitVec.ofNat 9 p.1) va size.toNat)) else p) }
  .next ((dropLeaves u (staleLeaf s tenant va size.toNat)).emit (.atsInvalidate tenant))

/-! ### The Cistern's refresh, held Crown writes, trap records (R221, R269, R363) -/

/-- CISTERN_REFRESH (R221): the window passes to the next bank, with the cycles that have passed since. -/
def execCisternRefresh (s : State) : Out :=
  .next { s with refresh := BitVec.ofNat 16 ((refreshBank s + 1) % 32 * 2016 + s.refreshPast), refreshPast := 0 }

/-- A core's matrix unit has a started command. -/
def matrixBusy (s : State) (core : CoreId) : Bool :=
  (s.mat (feA core)).run.isSome || (s.mat (feB core)).run.isSome || (s.mat (feA core)).bypass.isSome || (s.mat (feB core)).bypass.isSome

/-- One Crown write to a store of the matrix unit: micro-words at 0 to 4,095, then 64 routine entries, 512 Trimmer words and 32
program entries. -/
def applyHeld (co : Core) (p : Nat × BitVec 32) : Core :=
  let o := p.1
  if o < 4096 then { co with bstore := mset 0#32 co.bstore o p.2 }
  else if o < 4160 then { co with rtab := mset 0#13 co.rtab (o - 4096) (p.2.setWidth 13) }
  else if o < 4672 then { co with tstore := mset 0#32 co.tstore (o - 4160) p.2 }
  else { co with ptab := mset 0#10 co.ptab (o - 4672) (p.2.setWidth 10) }

/-- The Crown writes stores of the matrix unit: at once, or held while a command is started (R269). -/
def crownStores (s : State) (core : CoreId) (l : List (Nat × BitVec 32)) : State :=
  let k := core.toNat
  let co := s.core k
  s.setCore k (if matrixBusy s core then { co with held := co.held ++ l } else l.foldl applyHeld co)

/-- BLOCK_STORE_WRITE_APPLY (R269). -/
def execBlockStoreWriteApply (core : CoreId) (s : State) : Out :=
  let k := core.toNat
  let co := s.core k
  .next (if matrixBusy s core then s else s.setCore k { co.held.foldl applyHeld co with held := [] })

/-- PENDING_TRAP_RECORD_WRITE (R363): the record that a front end holds is written once the ring has space. -/
def execPendingTrapRecordWrite (fe : FeId) (s : State) : Out :=
  let k := clusterOf fe
  let cl := s.cluster k
  .next (match (s.ctx fe).held with
    | [] => s
    | r :: t =>
      if ringEnabled cl && !ringFull cl then releasePri (writeRec (s.modCtx fe (fun c => { c with held := t })) fe r) fe else s)

end Sys2Proof.Machine
end

