-- ==== Sys2Proof/Machine/Caches.lean ====
section
/-! DEFINITION. What happens in the memories of the device without an instruction (00_scope R2, 08_memory R217, R218): lines that the
caches give up, within the sizes that they have, and uncorrectable errors. -/
namespace Sys2Proof.Machine

/-- The lines of class NC that the L1s of a cluster hold, and those that its cluster cache holds, which includes them (R218). -/
def Cluster.l1Lines (cl : Cluster) : List Nat := (cl.l1d.map (fun (p : Host.Cell) => p.1 / 64) ++ cl.l1p.map (fun (p : Nat × Bool) => p.1)).eraseDups
def Cluster.ccLines (cl : Cluster) : List Nat :=
  (cl.l1Lines ++ cl.ccd.map (fun (p : Host.Cell) => p.1 / 64) ++ cl.ccp.map (fun (p : Nat × Bool) => p.1)
    ++ cl.copies.map (fun (p : Nat × Nat) => p.1) ++ cl.cpp.map (fun (p : Nat × Bool) => p.1)).eraseDups
/-- Lines of the eight L1s of 1 MiB of a cluster, and of its cluster cache of at most 64 MiB effective (R2). -/
def l1Room : Nat := 8 * 16384
def ccRoom : Nat := 1048576

/-- A line leaves the L1s of cluster n for its cluster cache, or the cluster altogether: written back, it reaches memory (R218). -/
def giveUpLine (s : State) (n line : Nat) (whole : Bool) : State :=
  maintain s (BitVec.ofNat 9 (16 * n)) ⟨0, 0#2, if whole then 2#2 else 1#2, 64 * line, 64, 0#2, 0#64, false⟩
/-- Gives up lines of a list, which ones the manual leaves open, until n of them are gone. -/
def giveUpSome (k : Nat) (whole : Bool) : Nat → List Nat → State → State
  | 0, _, s => s
  | _ + 1, [], s => s
  | n + 1, l :: t, s =>
    let i := (Config.freeWord s.fresh).toNat % (t.length + 1)
    giveUpSome k whole n ((l :: t).eraseIdx i) (giveUpLine { s with fresh := s.fresh + 1 } k ((l :: t).getD i l) whole)
/-- A cluster's caches keep within their sizes. -/
def keepRoom (s : State) (k : Nat) : State :=
  let l := (s.cluster k).l1Lines
  let s := giveUpSome k false (l.length - l1Room) l s
  let c := (s.cluster k).ccLines
  giveUpSome k true (c.length - ccRoom) c s
/-- The lines that the caches give up in a cycle. -/
def evictLines (s : State) : State :=
  let s := s.clusters.foldl (fun s p => keepRoom s p.1) s
  if s.clusters.all (fun p => p.2.ccLines.isEmpty) then s
  else
    match Config.evict s.cycle with
    | none => s
    | some (n, line) => if (s.cluster n).ccLines.contains line then giveUpLine s n line true else s

/-- The L1 line takes an error in its data: it is poisoned (R217). -/
def Cluster.strikeData (cl : Cluster) (line : Nat) : Cluster :=
  if cl.l1Lines.contains line then { cl with l1p := pset cl.l1p line true }
  else if (pget cl.copies line).isSome then { cl with cpp := pset cl.cpp line true }
  else cl
/-- An uncorrectable error strikes in a cycle (R217): in a quarter of a scratchpad line, in the data of an L1 line, in the tag or state of
one that holds dirty data, or in an entry of a store gate or undo log. -/
def strikeEcc (s : State) : State :=
  if s.ctxs.all (fun p => p.2.life == .unbound) && s.clusters.all (fun p => p.2.ccLines.isEmpty) then s
  else
    match Config.eccStrike s.cycle with
    | none => s
    | some (kind, n, line) =>
      if kind = 0#2 then
        s.modCtx (BitVec.ofNat 9 n) (fun c =>
          if line / 4 < c.spm.size / 256 then
            let l := spmLine c.spm (line / 4)
            { c with spm := { c.spm with lines := mset zeroSpmLine c.spm.lines (line / 4) { l with poison := l.poison ||| (1#4 <<< (line % 4)) } } }
          else c)
      else if kind = 1#2 then s.setCluster n ((s.cluster n).strikeData line)
      else if kind = 2#2 then
        let cl := s.cluster n
        if cl.l1d.any (fun p => p.1 / 64 == line) then s.setCluster n { cl with badTags := line :: cl.badTags.filter (· != line) } else s
      else s.modCtx (BitVec.ofNat 9 n) (fun c => if c.stq.gate.isEmpty && c.spm.undo.isEmpty then c else { c with eccErr := true })

end Sys2Proof.Machine
end

