-- ==== Sys2Proof/Machine/Codec.lean ====
section
/-! DEFINITION. How an image lays out values (13_system R386): little-endian items, each padded to 8 bytes, and after them a sideband
with one byte of band for each item that carries one and its poison bits. -/
namespace Sys2Proof.Machine

/-- What is left to read of a value once its items are read: its sideband. -/
abbrev SideGet (α : Type) := List Byte → Option (α × List Byte)

/-- A layout: the bytes of the items, the bytes of the sideband, and the reading of both. -/
structure Codec (α : Type) where
  items : α → List Byte
  side : α → List Byte
  get : List Byte → Option (SideGet α × List Byte)

/-- Takes the first n bytes; none when there are fewer. -/
def takeBytes (n : Nat) (l : List Byte) : Option (List Byte × List Byte) := if l.length < n then none else some (l.take n, l.drop n)

/-! ### Items and sideband -/

/-- An item of n bits, padded to 8 bytes. -/
def codecBits (n : Nat) : Codec (BitVec n) :=
  { items := fun x => natBytes x.toNat (8 * ((n + 63) / 64))
    side := fun _ => []
    get := fun l => (takeBytes (8 * ((n + 63) / 64)) l).map (fun p => (fun sb => some (BitVec.ofNat n (bytesNat p.1), sb), p.2)) }
/-- A sideband entry of n bits, padded to a byte. -/
def codecSide (n : Nat) : Codec (BitVec n) :=
  { items := fun _ => []
    side := fun x => natBytes x.toNat ((n + 7) / 8)
    get := fun l => some (fun sb => (takeBytes ((n + 7) / 8) sb).map (fun p => (BitVec.ofNat n (bytesNat p.1), p.2)), l) }
/-- The same value in another form. -/
def Codec.iso {α β : Type} (c : Codec α) (f : α → β) (g : β → α) : Codec β :=
  { items := fun x => c.items (g x)
    side := fun x => c.side (g x)
    get := fun l => (c.get l).map (fun p => (fun sb => (p.1 sb).map (fun q => (f q.1, q.2)), p.2)) }
/-- One value after another. -/
def Codec.pair {α β : Type} (a : Codec α) (b : Codec β) : Codec (α × β) :=
  { items := fun x => a.items x.1 ++ b.items x.2
    side := fun x => a.side x.1 ++ b.side x.2
    get := fun l =>
      match a.get l with
      | none => none
      | some (sa, l) =>
        match b.get l with
        | none => none
        | some (sb, l) => some (fun z => match sa z with
          | none => none
          | some (x, z) => (sb z).map (fun q => ((x, q.1), q.2)), l) }
/-- Reads the sidebands of values whose items are read. -/
def sidesGet {α : Type} : List (SideGet α) → SideGet (List α)
  | [], z => some ([], z)
  | g :: t, z =>
    match g z with
    | none => none
    | some (x, z) => (sidesGet t z).map (fun q => (x :: q.1, q.2))
/-- Reads the items of n values. -/
def itemsGet {α : Type} (c : Codec α) : Nat → List Byte → Option (List (SideGet α) × List Byte)
  | 0, l => some ([], l)
  | n + 1, l =>
    match c.get l with
    | none => none
    | some (g, l) => (itemsGet c n l).map (fun q => (g :: q.1, q.2))
/-- n values. -/
def Codec.many {α : Type} (c : Codec α) (n : Nat) : Codec (List α) :=
  { items := fun x => x.flatMap c.items
    side := fun x => x.flatMap c.side
    get := fun l => (itemsGet c n l).map (fun p => (sidesGet p.1, p.2)) }
/-- The elements of a vector. -/
def Codec.vec {α : Type} (c : Codec α) (n : Nat) (d : α) : Codec (Vector α n) :=
  (c.many n).iso (fun l => Vector.ofFn (fun i => l[i.val]?.getD d)) (·.toList)
/-- A number of 8 bytes. -/
def codecNat : Codec Nat := (codecBits 64).iso (·.toNat) (BitVec.ofNat 64)
def codecBool : Codec Bool := (codecBits 1).iso (· == 1#1) BitVec.ofBool
/-- A band, and one poison bit with it. -/
def codecBand : Codec Band := codecSide 8
def codecPoison : Codec Bool := (codecSide 1).iso (· == 1#1) BitVec.ofBool
/-- A list: its length and its elements. -/
def Codec.list {α : Type} (c : Codec α) : Codec (List α) :=
  { items := fun x => codecNat.items x.length ++ x.flatMap c.items
    side := fun x => x.flatMap c.side
    get := fun l =>
      match takeBytes 8 l with
      | none => none
      | some (n, l) => (itemsGet c (bytesNat n) l).map (fun p => (sidesGet p.1, p.2)) }
def Codec.opt {α : Type} (c : Codec α) : Codec (Option α) := c.list.iso (·.head?) (·.toList)
/-- The first n keys of a sparse map. -/
def Codec.dense {α : Type} [DecidableEq α] (c : Codec α) (n : Nat) (d : α) : Codec (List (Nat × α)) :=
  (c.many n).iso (fun l => l.zipIdx.foldr (fun x m => if x.1 = d then m else (x.2, x.1) :: m) [])
    (fun m => (List.range n).map (mget d m))

/-- One alternative of a type: how its values are laid out, and how it is read. -/
structure Alt (α : Type) where
  items : α → Option (List Byte)
  side : α → Option (List Byte)
  get : List Byte → Option (SideGet α × List Byte)
def codecAlt {α β : Type} (c : Codec β) (inj : β → α) (proj : α → Option β) : Alt α :=
  { items := fun x => (proj x).map c.items
    side := fun x => (proj x).map c.side
    get := fun l => (c.get l).map (fun p => (fun sb => (p.1 sb).map (fun q => (inj q.1, q.2)), p.2)) }
/-- An alternative without a content. -/
def codecUnit {α : Type} (a : α) (is : α → Bool) : Alt α :=
  { items := fun x => if is x then some [] else none
    side := fun x => if is x then some [] else none
    get := fun l => some (fun sb => some (a, sb), l) }
/-- A value of one of several alternatives: its number, and its content. -/
def codecSum {α : Type} (l : List (Alt α)) : Codec α :=
  { items := fun x => (l.zipIdx.findSome? (fun a => (a.1.items x).map (fun b => codecNat.items a.2 ++ b))).getD []
    side := fun x => (l.findSome? (fun a => a.side x)).getD []
    get := fun z =>
      match takeBytes 8 z with
      | none => none
      | some (n, z) =>
        match l[bytesNat n]? with
        | none => none
        | some a => a.get z }

/-- Fills up to a multiple of 64 bytes. -/
def pad64 (l : List Byte) : List Byte := l ++ List.replicate ((64 - l.length % 64) % 64) 0#8
/-- The bytes of a section: items, sideband, filled up to 64 bytes. -/
def Codec.bytes {α : Type} (c : Codec α) (x : α) : List Byte := pad64 (c.items x ++ c.side x)
/-- The value of a section. -/
def Codec.read {α : Type} (c : Codec α) (l : List Byte) : Option α :=
  match c.get l with
  | none => none
  | some (g, sb) => (g sb).map (·.1)

/-! ### Registers -/

def codecSReg : Codec SReg := ((codecBits 64).pair (codecBand.pair codecPoison)).iso (fun x => ⟨x.1, x.2.1, x.2.2⟩) (fun r => (r.val, r.band, r.poison))
def codecPReg : Codec PReg := ((codecBits 256).pair (codecBand.pair codecPoison)).iso (fun x => ⟨x.1, x.2.1, x.2.2⟩) (fun r => (r.bits, r.band, r.poison))
def codecVReg : Codec VReg := ((codecBits 2048).pair (codecBand.pair (codecSide 4))).iso (fun x => ⟨x.1, x.2.1, x.2.2⟩) (fun r => (r.bits, r.band, r.poison))
def codecTReg : Codec TReg := ((codecBits 512).pair codecBand).iso (fun x => ⟨x.1, x.2⟩) (fun r => (r.bits, r.band))
def codecMReg : Codec MReg := ((codecBits 64).pair codecBand).iso (fun x => ⟨x.1, x.2⟩) (fun r => (r.val, r.band))

/-- The causes (R364). -/
def causeList : List Cause :=
  [.p00, .p01, .p02, .p03, .p04, .p05, .p06, .p07, .p08, .p09, .p10, .p11, .p12, .t20, .t21, .t22, .t23, .d40, .d41, .d42, .d43,
   .a60, .a61, .a62, .a63, .e80, .e81, .e82, .e83]
/-- The cause of a code; P00 for a byte that names none. -/
def Cause.ofCode (b : BitVec 8) : Cause := (causeList.find? (fun c => c.code == b)).getD .p00
def codecCause : Codec Cause := (codecBits 8).iso Cause.ofCode Cause.code
def codecFault : Codec (Option (Cause × Word)) := (codecCause.pair (codecBits 64)).opt
def codecFe : Codec FeId := codecBits 9

/-! ### The generator (R84, R108) -/

def codecFifo : Codec FifoEntry :=
  ((codecBits 64).pair (codecBand.pair codecBool)).iso (fun x => ⟨x.1, x.2.1, x.2.2⟩) (fun e => (e.val, e.band, e.fresh))
def codecEProg : Codec EProg :=
  (codecBool.pair ((codecBits 16).pair (codecBits 18))).iso (fun x => ⟨x.1, x.2.1, x.2.2⟩) (fun e => (e.active, e.count, e.next))
def codecSnap : Codec GenSnap :=
  ((codecSReg.vec 32 zeroSReg).pair ((codecTReg.vec 8 zeroTReg).pair ((codecBits 16).pair (codecEProg.pair ((codecBits 20).pair codecNat))))).iso
    (fun (g, b, pc, e, q, f) => ⟨g, b, pc, e, q, f⟩) (fun x => (x.g, x.b, x.gpc, x.eprog, x.eseq, x.fifoPos))
def codecGroup : Codec RGroup :=
  ((codecBits 512).pair ((codecBits 64).pair (codecBand.pair (codecSnap.opt.pair codecBool)))).iso
    (fun (w, p, b, s, l) => ⟨w, p, b, s, l⟩) (fun x => (x.words, x.prov, x.band, x.snap, x.lead))
def codecStat : Codec GenStat := codecSum
  [codecUnit .running (fun | .running => true | .pushStall | .waitStall | .parked _ | .halted => false),
   codecUnit .pushStall (fun | .pushStall => true | .running | .waitStall | .parked _ | .halted => false),
   codecUnit .waitStall (fun | .waitStall => true | .running | .pushStall | .parked _ | .halted => false),
   codecUnit .halted (fun | .halted => true | .running | .pushStall | .waitStall | .parked _ => false),
   codecAlt codecCause .parked (fun | .parked c => some c | .running | .pushStall | .waitStall | .halted => none)]

/-! ### Loop engine, commit buffer, streams, softmax (R127, R132, R246, R311) -/

def codecLoop : Codec Loop :=
  (((codecBits 32).vec 6 0#32).pair ((codecBits 6).pair ((codecBits 3).pair (codecBool.pair ((codecBits 3).pair ((codecBits 6).pair ((codecBits 5).pair
    ((codecBits 48).pair ((codecBits 48).pair ((codecBits 48).pair ((codecBits 48).pair (codecBool.pair (((codecBits 32).vec 6 0#32).pair
    (codecGroup.list.pair ((codecBits 7).pair ((codecBits 6).pair codecBool)))))))))))))))).iso
    (fun (bnd, len, stg, act, dep, cap, pos, e, i0, nend, ntot, stop, idx, buf, sp, drop, brk) =>
      ⟨bnd, len, stg, act, dep, cap, pos, e, i0, nend, ntot, stop, idx, buf, sp, drop, brk⟩)
    (fun x => (x.bnd, x.len, x.stg, x.active, x.depth, x.cap, x.pos, x.e, x.i0, x.nend, x.ntot, x.stopreq, x.idx, x.buf, x.sp, x.drop, x.brk))
def codecEngOp : Codec EngOp :=
  ((codecBits 3).pair ((codecBits 64).pair ((codecBits 64).pair (codecSReg.pair (codecSReg.pair (codecSReg.pair
    ((codecMReg.vec 8 zeroMReg).pair (codecBits 64)))))))).iso
    (fun (sl, w, p, a, b, c, m, f) => ⟨sl, w, p, a, b, c, m, f⟩) (fun x => (x.slot, x.word, x.prov, x.a, x.b, x.c, x.m, x.fmt))
def codecWin : Codec EWin :=
  (codecBool.pair ((codecBits 4).pair (codecBool.pair ((codecBits 5).pair ((codecBits 5).pair (codecBool.pair (codecBool.pair
    (codecEngOp.list.pair (codecNat.pair ((codecBits 64).pair (codecBits 64))))))))))).iso
    (fun (o, p, h, l, c, m, r, e, q, v, w) => ⟨o, p, h, l, c, m, r, e, q, v, w⟩)
    (fun x => (x.opened, x.pred, x.hint, x.left, x.count, x.committed, x.resolved, x.entries, x.seq, x.prov, x.word))
def codecSpout : Codec SpoutVec :=
  (codecVReg.pair (codecBool.pair (codecBool.pair (codecFault.pair (codecBits 2))))).iso
    (fun (v, n, o, f, r) => ⟨v, n, o, f, r⟩) (fun x => (x.v, x.nan, x.ovf, x.fault, x.rm))
def codecStream : Codec Stream :=
  (codecBool.pair ((codecBits 512).pair (codecNat.pair (codecNat.pair (codecSpout.opt.pair codecVReg.opt))))).iso
    (fun (b, d, n, p, r, s) => ⟨b, d, n, p, r, s⟩) (fun x => (x.bound, x.desc, x.delivered, x.pops, x.ready, x.scales))
def codecSmRow : Codec SmRow :=
  ((codecBits 32).pair ((codecBits 32).pair ((codecBits 6).pair ((codecBits 32).pair ((codecBits 16).pair (codecBool.pair codecPoison)))))).iso
    (fun (m, l, g, e, k, n, p) => ⟨m, l, g, e, k, n, p⟩) (fun x => (x.m, x.l, x.grp, x.e, x.k, x.new, x.poison))
def codecSoftmax : Codec Softmax :=
  ((codecSmRow.vec 64 (SmRow.reset 0)).pair codecBand).iso (fun x => ⟨x.1, x.2⟩) (fun x => (x.rows, x.band))
/-- The registers of a checkpoint (R355). -/
def codecRegs : Codec Regs :=
  ((codecSReg.vec 64 zeroSReg).pair ((codecPReg.vec 16 zeroPReg).pair ((codecVReg.vec 64 zeroVReg).pair ((codecMReg.vec 8 zeroMReg).pair
    ((codecBits 64).pair ((codecBits 64).pair ((codecBits 7).pair (codecLoop.pair (codecSoftmax.pair ((codecStream.vec 8 zeroStream).pair
    codecWin)))))))))).iso
    (fun (s, p, v, m, f, kv, sk, lo, sm, st, w) => ⟨s, p, v, m, f, kv, sk, lo, sm, st, w⟩)
    (fun x => (x.s, x.p, x.v, x.m, x.fmt, x.kvpol, x.skip, x.loop, x.softmax, x.streams, x.win))

/-! ### The landing record (R356) -/

def codecRegW : Codec RegW := codecSum
  [codecAlt ((codecBits 6).pair codecSReg) (fun x => .s x.1 x.2)
     (fun | .s n r => some (n, r) | .p _ _ | .v _ _ _ | .m _ _ | .fmt _ _ _ _ | .flags _ _ | .sr _ _ | .band _ | .stream _ _ => none),
   codecAlt ((codecBits 4).pair codecPReg) (fun x => .p x.1 x.2)
     (fun | .p n r => some (n, r) | .s _ _ | .v _ _ _ | .m _ _ | .fmt _ _ _ _ | .flags _ _ | .sr _ _ | .band _ | .stream _ _ => none),
   codecAlt ((codecBits 6).pair (codecVReg.pair (codecBits 256))) (fun x => .v x.1 x.2.1 x.2.2)
     (fun | .v n r k => some (n, r, k) | .s _ _ | .p _ _ | .m _ _ | .fmt _ _ _ _ | .flags _ _ | .sr _ _ | .band _ | .stream _ _ => none),
   codecAlt ((codecBits 3).pair codecMReg) (fun x => .m x.1 x.2)
     (fun | .m n r => some (n, r) | .s _ _ | .p _ _ | .v _ _ _ | .fmt _ _ _ _ | .flags _ _ | .sr _ _ | .band _ | .stream _ _ => none),
   codecAlt ((codecBits 2).opt.pair ((codecBits 2).opt.pair (codecBool.pair codecBool))) (fun x => .fmt x.1 x.2.1 x.2.2.1 x.2.2.2)
     (fun | .fmt r a n o => some (r, a, n, o) | .s _ _ | .p _ _ | .v _ _ _ | .m _ _ | .flags _ _ | .sr _ _ | .band _ | .stream _ _ => none),
   codecAlt (codecBool.pair codecBool) (fun x => .flags x.1 x.2)
     (fun | .flags n o => some (n, o) | .s _ _ | .p _ _ | .v _ _ _ | .m _ _ | .fmt _ _ _ _ | .sr _ _ | .band _ | .stream _ _ => none),
   codecAlt ((codecBits 4).pair (codecBits 64)) (fun x => .sr x.1 x.2)
     (fun | .sr n v => some (n, v) | .s _ _ | .p _ _ | .v _ _ _ | .m _ _ | .fmt _ _ _ _ | .flags _ _ | .band _ | .stream _ _ => none),
   codecAlt (codecBits 8) .band
     (fun | .band b => some b | .s _ _ | .p _ _ | .v _ _ _ | .m _ _ | .fmt _ _ _ _ | .flags _ _ | .sr _ _ | .stream _ _ => none),
   codecAlt ((codecBits 3).pair (codecBits 512).opt) (fun x => .stream x.1 x.2)
     (fun | .stream q d => some (q, d) | .s _ _ | .p _ _ | .v _ _ _ | .m _ _ | .fmt _ _ _ _ | .flags _ _ | .sr _ _ | .band _ => none)]
def codecRegVal : Codec RegVal := codecSum
  [codecAlt codecSReg .s (fun | .s r => some r | .p _ | .v _ | .m _ | .w _ => none),
   codecAlt codecPReg .p (fun | .p r => some r | .s _ | .v _ | .m _ | .w _ => none),
   codecAlt codecVReg .v (fun | .v r => some r | .s _ | .p _ | .m _ | .w _ => none),
   codecAlt codecMReg .m (fun | .m r => some r | .s _ | .p _ | .v _ | .w _ => none),
   codecAlt (codecBits 64) .w (fun | .w x => some x | .s _ | .p _ | .v _ | .m _ => none)]
def codecLoadDst : Codec LoadDst := codecSum
  [codecAlt (codecBits 6) .s (fun | .s n => some n | .v _ _ _ | .mregs | .scale | .stream _ | .weir _ _ => none),
   codecAlt ((codecBits 6).pair ((codecBits 256).pair (codecBits 8).list)) (fun x => .v x.1 x.2.1 x.2.2)
     (fun | .v n m b => some (n, m, b) | .s _ | .mregs | .scale | .stream _ | .weir _ _ => none),
   codecUnit .mregs (fun | .mregs => true | .s _ | .v _ _ _ | .scale | .stream _ | .weir _ _ => false),
   codecUnit .scale (fun | .scale => true | .s _ | .v _ _ _ | .mregs | .stream _ | .weir _ _ => false),
   codecAlt (codecBits 3) .stream (fun | .stream q => some q | .s _ | .v _ _ _ | .mregs | .scale | .weir _ _ => none),
   codecAlt ((codecBits 4).pair (codecBits 64)) (fun x => .weir x.1 x.2)
     (fun | .weir g t => some (g, t) | .s _ | .v _ _ _ | .mregs | .scale | .stream _ => none)]
def codecPiece : Codec Piece := (codecNat.pair ((codecBits 64).pair codecNat)).iso (fun (o, e, l) => ⟨o, e, l⟩) (fun x => (x.off, x.ea, x.len))
def codecLoadReq : Codec LoadReq :=
  (codecLoadDst.pair (codecPiece.list.pair (codecBool.pair ((codecBits 2).pair (codecBool.pair codecFault))))).iso
    (fun (d, p, s, sc, c, f) => ⟨d, p, s, sc, c, f⟩) (fun x => (x.dst, x.pieces, x.strong, x.scope, x.cistern, x.pre))
def codecAmoReq : Codec AmoReq :=
  ((codecBits 6).pair ((codecBits 64).pair (codecSReg.pair (codecSReg.pair (codecBool.pair (codecBool.pair ((codecBits 2).pair ((codecBits 2).pair
    ((codecBits 4).pair codecFault))))))))).iso
    (fun (d, e, b, c, r, a, sc, sz, fn, p) => ⟨d, e, b, c, r, a, sc, sz, fn, p⟩)
    (fun x => (x.d, x.ea, x.b, x.c, x.rel, x.acq, x.scope, x.sz, x.fn, x.pre))
/-- The waits that stand in a landing record (R348); a front end that is frozen for another reason freezes again on its own. -/
def codecWait : Codec Frz := codecSum
  [codecAlt ((codecBits 2).pair (codecBits 2)) (fun x => .fence x.1 x.2) (fun f => match f with
     | .fence t s => some (t, s)
     | .none | .load | .translate _ _ | .group | .copyFull _ | .spout _ _ | .tfence _ _ | .twait _ _ _ | .bwait _ _ | .sigwait _ _
     | .mwait _ _ _ _ _ | .cdrain _ _ | .launch _ | .mfreeze | .mfrozenCmd => none),
   codecAlt (codecBits 2) (fun x => .tfence x 0) (fun f => match f with
     | .tfence s _ => some s
     | .none | .load | .translate _ _ | .group | .copyFull _ | .spout _ _ | .fence _ _ | .twait _ _ _ | .bwait _ _ | .sigwait _ _
     | .mwait _ _ _ _ _ | .cdrain _ _ | .launch _ | .mfreeze | .mfrozenCmd => none),
   codecAlt ((codecBits 2).pair ((codecBits 64).pair (codecBits 2))) (fun x => .twait x.1 x.2.1 x.2.2) (fun f => match f with
     | .twait t n s => some (t, n, s)
     | .none | .load | .translate _ _ | .group | .copyFull _ | .spout _ _ | .fence _ _ | .tfence _ _ | .bwait _ _ | .sigwait _ _
     | .mwait _ _ _ _ _ | .cdrain _ _ | .launch _ | .mfreeze | .mfrozenCmd => none),
   codecAlt ((codecBits 64).pair (codecBits 32)) (fun x => .bwait x.1 x.2) (fun f => match f with
     | .bwait e p => some (e, p)
     | .none | .load | .translate _ _ | .group | .copyFull _ | .spout _ _ | .fence _ _ | .tfence _ _ | .twait _ _ _ | .sigwait _ _
     | .mwait _ _ _ _ _ | .cdrain _ _ | .launch _ | .mfreeze | .mfrozenCmd => none),
   codecAlt ((codecBits 64).pair (codecBits 6)) (fun x => .sigwait x.1 x.2) (fun f => match f with
     | .sigwait e d => some (e, d)
     | .none | .load | .translate _ _ | .group | .copyFull _ | .spout _ _ | .fence _ _ | .tfence _ _ | .twait _ _ _ | .bwait _ _
     | .mwait _ _ _ _ _ | .cdrain _ _ | .launch _ | .mfreeze | .mfrozenCmd => none),
   codecAlt ((codecBits 64).pair ((codecBits 6).pair (codecSReg.pair (codecBits 16)))) (fun x => .mwait x.1 x.2.1 x.2.2.1 x.2.2.2 0)
     (fun f => match f with
     | .mwait e d b t _ => some (e, d, b, t)
     | .none | .load | .translate _ _ | .group | .copyFull _ | .spout _ _ | .fence _ _ | .tfence _ _ | .twait _ _ _ | .bwait _ _
     | .sigwait _ _ | .cdrain _ _ | .launch _ | .mfreeze | .mfrozenCmd => none),
   codecAlt (codecBool.pair (codecBits 64)) (fun x => .cdrain x.1 x.2) (fun f => match f with
     | .cdrain c n => some (c, n)
     | .none | .load | .translate _ _ | .group | .copyFull _ | .spout _ _ | .fence _ _ | .tfence _ _ | .twait _ _ _ | .bwait _ _
     | .sigwait _ _ | .mwait _ _ _ _ _ | .launch _ | .mfreeze | .mfrozenCmd => none),
   codecAlt (codecBits 6) .launch (fun f => match f with
     | .launch d => some d
     | .none | .load | .translate _ _ | .group | .copyFull _ | .spout _ _ | .fence _ _ | .tfence _ _ | .twait _ _ _ | .bwait _ _
     | .sigwait _ _ | .mwait _ _ _ _ _ | .cdrain _ _ | .mfreeze | .mfrozenCmd => none),
   codecUnit .mfreeze (fun f => f == .mfreeze), codecUnit .mfrozenCmd (fun f => f == .mfrozenCmd)]
/-- RES, or the request of an entry without one. -/
def codecKind : Codec PendKind := codecSum
  [codecAlt codecRegW.list .done (fun | .done w => some w | .spm _ _ | .load _ | .amo _ | .launch _ | .wait _ => none),
   codecAlt (codecLoadReq.pair codecRegW.list) (fun x => .spm x.1 x.2)
     (fun | .spm r w => some (r, w) | .done _ | .load _ | .amo _ | .launch _ | .wait _ => none),
   codecAlt codecLoadReq .load (fun | .load r => some r | .done _ | .spm _ _ | .amo _ | .launch _ | .wait _ => none),
   codecAlt codecAmoReq .amo (fun | .amo r => some r | .done _ | .spm _ _ | .load _ | .launch _ | .wait _ => none),
   codecAlt (codecBits 6) .launch (fun | .launch d => some d | .done _ | .spm _ _ | .load _ | .amo _ | .wait _ => none),
   codecAlt codecWait .wait (fun | .wait f => some f | .done _ | .spm _ _ | .load _ | .amo _ | .launch _ => none)]
/-- An entry of the landing record: OP with its provenance, SRC, DIST, RES or the request, MEM's fault. -/
def codecPend : Codec Pend :=
  ((codecBits 64).pair ((codecBits 64).pair ((codecBits 3).pair (codecRegVal.list.pair (codecNat.pair (codecKind.pair (codecFault.pair
    (codecNat.pair codecBool)))))))).iso
    (fun (w, p, sl, src, dist, k, f, q, r) => ⟨dist, q, sl, w, p, k, f, r, src⟩)
    (fun x => (x.word, x.prov, x.slot, x.src, x.due, x.kind, x.fault, x.seq, x.recorded))

/-! ### The matrix unit (R169, R170, R190, R191) -/

/-- A ring-table entry (R170): two words. -/
def codecRing : Codec Ring :=
  ((codecBits 64).pair (codecBits 64)).iso
    (fun (a, b) => ⟨a.extractLsb' 48 9, a.extractLsb' 32 11, a.extractLsb' 0 21, b.getLsbD 32, b.extractLsb' 16 9, b.extractLsb' 8 8, b.extractLsb' 0 8⟩)
    (fun r => ((0#7 ++ r.count ++ 0#5 ++ r.tsz ++ 0#11 ++ r.base : BitVec 64), (0#31 ++ BitVec.ofBool r.valid ++ 0#7 ++ r.fill ++ r.tail ++ r.head : BitVec 64)))
def codecScale : Codec ScalePair :=
  (codecBool.pair ((codecBits 8).pair ((codecBits 8).pair (codecBand.pair codecPoison)))).iso
    (fun (r, a, b, d, p) => ⟨r, a, b, d, p⟩) (fun x => (x.ready, x.ea, x.eb, x.band, x.poison))
def codecMKind : Codec MKind := codecSum
  [codecAlt ((codecBits 4).pair ((codecBits 6).pair (codecBits 16))) (fun x => .call x.1 x.2.1 x.2.2)
     (fun | .call f r k => some (f, r, k) | .alg _ | .zero | .drain | .drainRaw | .fill | .tload _ => none),
   codecAlt (codecBits 2) .alg (fun | .alg t => some t | .call _ _ _ | .zero | .drain | .drainRaw | .fill | .tload _ => none),
   codecUnit .zero (· == .zero), codecUnit .drain (· == .drain), codecUnit .drainRaw (· == .drainRaw), codecUnit .fill (· == .fill),
   codecAlt (codecBits 6) .tload (fun | .tload r => some r | .call _ _ _ | .alg _ | .zero | .drain | .drainRaw | .fill => none)]
def codecMCmd : Codec MCmd :=
  (codecFe.pair ((codecBits 64).pair (codecMKind.pair ((codecMReg.vec 8 zeroMReg).pair ((codecBits 128).pair ((codecBits 2).pair ((codecBits 2).pair
    ((codecBits 64).pair (codecBand.pair (codecBool.pair ((codecBits 64).pair (codecBits 64)))))))))))).iso
    (fun (fe, n, k, m, t, a, r, o, b, x, p, w) => ⟨fe, n, k, m, t, a, r, o, b, x, p, w⟩)
    (fun x => (x.fe, x.num, x.kind, x.m, x.tab, x.ai, x.rm, x.off, x.band, x.mixed, x.prov, x.word))
def codecPhase : Codec MPhase :=
  codecSum [codecUnit .words (· == .words), codecUnit .drainLoop (· == .drainLoop), codecUnit .finished (· == .finished)]
def codecTRun : Codec TRun :=
  ((codecBits 9).pair (((codecBits 32).vec 64 0#32).pair (codecPoison.pair ((codecBits 32).pair ((codecBits 8).pair
    (((codecBits 4).pair codecNat.list).opt.pair (codecNat.pair (codecBand.pair codecBool)))))))).iso
    (fun (pc, w, wp, q, s, o, n, b, a) => ⟨pc, w, wp, q, s, o, n, b, a⟩)
    (fun x => (x.pc, x.w, x.wPoison, x.q, x.s, x.o, x.steps, x.band, x.active))
def codecMWait : Codec MWait := codecSum
  [codecUnit .none (· == .none), codecUnit .scale (· == .scale), codecUnit .sync (· == .sync),
   codecAlt ((codecBits 2).pair codecNat) (fun x => .ring x.1 x.2) (fun | .ring k t => some (k, t) | .none | .scale | .sync | .mcast _ => none),
   codecAlt codecBool .mcast (fun | .mcast m => some m | .none | .scale | .sync | .ring _ _ => none)]
/-- A block in a latch: the bit string of each row, of at most 4,096 bits. -/
def codecLatch : Codec Latch :=
  (((codecBits 4096).iso (·.toNat) (BitVec.ofNat 4096)).pair codecPoison).list.iso
    (fun l => ⟨l.map (·.1), l.map (·.2)⟩) (fun x => x.rows.zip x.poison)
def codecMc : Codec McBlock :=
  (codecBool.pair ((codecBits 8).pair ((codecBits 6).pair (codecLatch.pair codecBand)))).iso
    (fun (m, t, r, l, b) => ⟨m, t, r, l, b⟩) (fun x => (x.isM, x.tag, x.rout, x.block, x.band))
/-- The frozen state (R190), and what the model keeps beside its words. -/
def codecMRun : Codec MRun :=
  (codecMCmd.pair (((codecBits 64).vec 18 0#64).pair (codecPhase.pair (codecTRun.pair (codecBand.pair ((codecBits 16).pair (codecBool.pair
    (codecMWait.pair (codecNat.pair (codecLatch.opt.pair (codecLatch.opt.pair (codecLatch.opt.pair (codecBool.pair (codecNat.list.pair
    (codecFault.pair codecBool))))))))))))))).iso
    (fun (c, w, p, t, b, wr, pp, wt, wd, a, lb, m, r, o, f, z) => ⟨c, w, p, t, b, wr, pp, wt, wd, a, lb, m, r, o, f, z⟩)
    (fun x => (x.cmd, x.w, x.phase, x.trun, x.band, x.written, x.pairPoison, x.wait, x.waited, x.latA, x.latB, x.latM, x.repull, x.outLines,
      x.fail, x.frozen))

/-! ### Weir, cipher, timelines (R264, R304, R381) -/

def codecSeg : Codec WeirSeg :=
  (((codecBits 64).dense 256 0#64).pair (((codecSide 1).iso (· == 1#1) BitVec.ofBool).dense 256 false |>.pair ((codecBits 8).pair ((codecBits 8).pair
    (codecBool.pair (codecBool.pair codecBand)))))).iso
    (fun (e, p, s, b, v, l, d) => ⟨e, p, s, b, v, l, d⟩) (fun x => (x.ents, x.ep, x.slot, x.blkh, x.valid, x.locked, x.band))
def codecTimeline : Codec Timeline := ((codecBits 64).pair (codecBits 64)).iso (fun x => ⟨x.1, x.2⟩) (fun x => (x.count, x.done))
def codecCipher : Codec CipherCmd :=
  ((codecBits 64).pair (codecBool.pair ((codecBits 21).pair ((codecBits 21).pair ((codecBits 17).pair ((codecBits 2).pair ((codecBits 64).pair
    ((codecBits 64).pair ((codecBits 64).pair codecNat))))))))).iso
    (fun (n, i, s, d, l, k, c, p, w, t) => ⟨n, i, s, d, l, k, c, p, w, t⟩)
    (fun x => (x.num, x.isSeal, x.src, x.dst, x.n, x.k, x.ctr, x.prov, x.word, x.since))
def codecLine : Codec SpmLine :=
  ((codecBits 2048).pair (codecBand.pair (codecSide 5))).iso
    (fun (b, d, p) => ⟨b, d, p.getLsbD 4, p.extractLsb' 0 4⟩) (fun x => (x.bits, x.band, (BitVec.ofBool x.form ++ x.poison : BitVec 5)))

end Sys2Proof.Machine
end

