-- ==== Sys2Proof/Machine/Tasks.lean ====
section
/-! DEFINITION. Tasks and the dispatcher: kernel descriptors, acceptance, placement, binding, selection, pre-emption, exits and
retirement (01_machine R14 to R24, 12_tasks R325 to R334, R349 to R353). -/
namespace Sys2Proof.Machine

/-! ### Kernel descriptors (R18, R325) -/

/-- A kernel descriptor: its sixteen words. -/
abbrev Kernel := Vector Word 16

def kField (k : Kernel) (w lo n : Nat) : Nat := bitsOf (k[w]?.getD 0#64) lo n
def kImage (k : Kernel) : Nat := kField k 0 0 64
/-- Store pages of the image. -/
def kPages (k : Kernel) : Nat := min 64 (kField k 1 0 32 / 4096)
def kEntry (k : Kernel) : BitVec 16 := BitVec.ofNat 16 (kField k 1 32 16)
def kChans (k : Kernel) : BitVec 8 := BitVec.ofNat 8 (kField k 1 48 8)
def kWeir (k : Kernel) : Nat := kField k 1 56 8
/-- The window: SPMB rounded up to whole banks (R14). -/
def kWindow (k : Kernel) : Nat := (kField k 2 0 32 + 131071) / 131072 * 131072
/-- The accumulator share: ACCB rounded up to whole units (R14). -/
def kUnits (k : Kernel) : Nat := (kField k 2 32 32 + 4095) / 4096
/-- The four bytes of level i of the loop table. -/
def kLevel (k : Kernel) (i : Nat) : Nat := kField k (3 + i / 2) (32 * (i % 2)) 32
/-- The kind of a level: 0 absent, 1 T, 2 C, 3 D. -/
def kKind (k : Kernel) (i : Nat) : Nat := kLevel k i / 65536 % 4
/-- The extent of a level; 1 for an absent one. -/
def kExt (k : Kernel) (i : Nat) : Nat := if kKind k i = 0 then 1 else kLevel k i % 65536 + 1
def kRings (k : Kernel) : Nat := kField k 6 0 64
def kAlg (k : Kernel) : Nat := kField k 7 0 64
def kRout (k : Kernel) : Nat := kField k 8 0 64
def kTrim (k : Kernel) : Nat := kField k 9 0 64
def kBand (k : Kernel) : Band := BitVec.ofNat 8 (kField k 10 0 8)
def kAlign (k : Kernel) : Nat := kField k 10 8 3
def kValid (k : Kernel) : Bool := kField k 10 16 1 == 1
def kDataLen (k : Kernel) : Nat := kField k 10 32 32
def kData (k : Kernel) : Nat := kField k 11 0 64
def kCimg (k : Kernel) : Nat := kField k 12 0 64
def kClen (k : Kernel) : Nat := kField k 13 0 32
def kCtag (k : Kernel) : BitVec 32 := BitVec.ofNat 32 (kField k 13 32 32)

/-- No reserved field is set. -/
def kReservedOk (k : Kernel) : Bool :=
  (List.range 6).all (fun i => kLevel k i / 262144 == 0)
  && kField k 10 2 2 == 0 && kField k 10 11 5 == 0 && kField k 10 17 7 == 0 && kField k 10 24 8 == 0
  && kField k 14 0 64 == 0 && kField k 15 0 64 == 0

/-- The product of the extents of one kind. -/
def kProduct (k : Kernel) (kind : Nat) : Nat := (List.range 6).foldl (fun p i => if kKind k i = kind then p * kExt k i else p) 1
/-- Dies, and cores of each die, that a gang takes (R18). -/
def kDies (k : Kernel) : Nat := kProduct k 3
def kCores (k : Kernel) : Nat := kProduct k 2
/-- The loop table keeps the limits of R18. -/
def kLoopOk (k : Kernel) : Bool :=
  (List.range 6).any (fun i => kKind k i != 0) && decide (kDies k ≤ 4) && decide (kCores k ≤ 64)

/-- Ring i of the kernel's template, in the layout of the ring table (R170); no rings where RINGS is 0. -/
def kRing (s : State) (k : Kernel) (i : Nat) : Ring :=
  if kRings k = 0 then zeroRing
  else
    let a := kRings k + 16 * i
    let w0 := s.word8 a
    let w1 := s.word8 (a + 8)
    if w1.getLsbD 32 then
      ⟨w0.extractLsb' 48 9, w0.extractLsb' 32 11, w0.extractLsb' 0 21, true, w1.extractLsb' 16 9, w1.extractLsb' 8 8, w1.extractLsb' 0 8⟩
    else zeroRing
/-- The ring's tiles lie in the window (R170). -/
def ringFits (window : Nat) (r : Ring) : Bool :=
  !r.valid || (r.base.toNat % 256 == 0 && decide (1 ≤ r.count.toNat ∧ r.count.toNat ≤ 256 ∧ 1 ≤ r.tsz.toNat ∧ r.tsz.toNat ≤ 1024
    ∧ r.base.toNat + r.count.toNat * r.tsz.toNat * 256 ≤ window))

/-- The kernel of a handle: an index below 65,536 of the kernel table. -/
def kernelOf (s : State) (h : BitVec 32) : Option Kernel := if 65536 ≤ h.toNat then none else pget s.hw.kernels h.toNat

/-- The kernel refuses the task (R18, R170, R325, R349): `parent` is the tenant of the task that launches it. -/
def kernelRefuses (s : State) (h : BitVec 32) (parent : Option (BitVec 4)) : Bool :=
  match kernelOf s h with
  | none => true
  | some k =>
    !kValid k || !kReservedOk k || !kLoopOk k || !(List.range 16).all (fun i => ringFits (kWindow k) (kRing s k i))
    || (match parent with
        | some t => bandTenant (kBand k) != 0 && bandTenant (kBand k) != t.toNat
        | none => false)

/-! ### Routines and Trimmer programs of a kernel (R193, R206, R327, R334) -/

/-- Word i of an image in memory. -/
def imgWord (s : State) (a i : Nat) : BitVec 32 := BitVec.ofNat 32 (memNat s.mem (a + 4 * i) 4)
/-- The words of a routine or program: from word pc to its last one. -/
def runWords (s : State) (a : Nat) (isLast : BitVec 32 → Bool) (limit : Nat) (pc : Nat) : Nat → List (Nat × BitVec 32)
  | 0 => []
  | n + 1 =>
    if limit ≤ pc then []
    else
      let w := imgWord s a pc
      (pc, w) :: (if isLast w then [] else runWords s a isLast limit (pc + 1) n)

/-- What the Crown writes for a kernel into the stores of the matrix unit: its map entries with a valid bit, and the words of
each routine and program at their own indices. The numbers are those of `applyHeld`. -/
def storeWrites (s : State) (k : Kernel) : List (Nat × BitVec 32) :=
  let rout := if kRout k = 0 then [] else
    (List.range 64).flatMap (fun i =>
      let e := imgWord s (kRout k) i
      if e.getLsbD 12 then
        (4096 + i, e &&& 0x1FFF#32) :: runWords s (kRout k + 256) (fun w => w.extractLsb' 27 5 == 0x0E#5) 4096 (e.toNat % 4096) 4096
      else [])
  let trim := if kTrim k = 0 then [] else
    (List.range 32).flatMap (fun i =>
      let e := imgWord s (kTrim k) i
      if e.getLsbD 9 then
        (4672 + i, e &&& 0x3FF#32)
          :: (runWords s (kTrim k + 128) (fun w => w.extractLsb' 27 5 == 0x10#5) 512 (e.toNat % 512) 64).map (fun x => (4160 + x.1, x.2))
      else [])
  rout ++ trim

/-- Two kernels share the stores of a core without changing an index that both use (R327). -/
def storesAgree (a b : List (Nat × BitVec 32)) : Bool := a.all (fun x => b.all (fun y => x.1 != y.1 || x.2 == y.2))

/-! ### Placement (R14, R18, R21, R326 to R328) -/

/-- The front end stays with a pre-empted gang: not every context of the gang has stopped, been saved and been rinsed (R332). -/
def gangHolds (s : State) (fe : FeId) : Bool :=
  s.disp.tasks.any (fun t => t.place.contains fe
    && ((t.preempt && t.st == .running)
      || (t.images && s.ctxs.any (fun p => p.2.life == .rinsing && p.2.ident.task == t.id))))

/-- A front end is a candidate for a context of the kernel, with the front ends `freed` counted as free (R14, R23, R327, R328). -/
def fits (s : State) (k : Kernel) (freed : List FeId) (fe : FeId) : Bool :=
  let c := s.ctx fe
  let o := s.ctx (otherFe fe)
  let used : Bool := o.life != .unbound && !freed.contains (otherFe fe)
  let p := s.fills[dieOf fe]?
  !Config.disabled (BitVec.ofNat 8 (coreOf fe))
  && (freed.contains fe || (c.life == .unbound && c.held.isEmpty && !c.img.busy && !gangHolds s fe))
  && (match p with
      | none => false
      | some p => p.hold.isNone && !p.busy && (kCimg k == 0 || p.tag == kCtag k))
  && decide (kWindow k + (if used then o.spm.size else 0) ≤ 2097152)
  && decide (kUnits k + (if used then o.eng.mat.units else 0) ≤ 16)
  && decide (kWeir k + (if used then o.eng.weirSegs else 0) ≤ 16)
  && (!used || storesAgree (storeWrites s k) (match kernelOf s o.ident.kern with
      | none => []
      | some k2 => storeWrites s k2))

/-- Core q of a die has a candidate front end. -/
def coreFits (s : State) (k : Kernel) (freed : List FeId) (die q : Nat) : Bool :=
  let core := BitVec.ofNat 8 (64 * die + q)
  fits s k freed (feA core) || fits s k freed (feB core)

/-- A die can take its C positions: on any cores, or on one aligned run (R326). -/
def dieFits (s : State) (k : Kernel) (freed : List FeId) (die : Nat) : Bool :=
  if kAlign k = 0 then decide (kCores k ≤ ((List.range 64).filter (coreFits s k freed die)).length)
  else (List.range 64).any (fun b => b % 2 ^ kAlign k == 0 && decide (b + kCores k ≤ 64)
    && (List.range (kCores k)).all (fun q => coreFits s k freed die (b + q)))

/-- A placement exists. -/
def placeable (s : State) (k : Kernel) (freed : List FeId) : Bool :=
  decide (kDies k ≤ ((List.range 4).filter (dieFits s k freed)).length)

/-- The index of level l at position p: the innermost spatial level varies fastest (R19). -/
def levelIdx (k : Kernel) (p l : Nat) : Nat :=
  if kKind k l < 2 then 0
  else
    let inner := ((List.range 6).filter (fun i => decide (l < i) && decide (2 ≤ kKind k i))).foldl (fun n i => n * kExt k i) 1
    p / inner % kExt k l
/-- The number of position p among the positions of one kind: its die, or its place within the die. -/
def kindPos (k : Kernel) (kind p : Nat) : Nat :=
  (List.range 6).foldl (fun n i => if kKind k i = kind then n * kExt k i + levelIdx k p i else n) 0

/-- Two members of a placement: one die for one D position only, one core for one context, and aligned runs (R18, R326). -/
def pairOk (k : Kernel) (a b : FeId × Nat) : Bool :=
  let da := kindPos k 3 a.2
  let db := kindPos k 3 b.2
  a.2 == b.2 || ((dieOf a.1 == dieOf b.1) == (da == db) && coreOf a.1 != coreOf b.1
    && (kAlign k == 0 || da != db || coreOf a.1 + kindPos k 2 b.2 == coreOf b.1 + kindPos k 2 a.2))
/-- A member of an aligned run: its base is a multiple of 2^CALIGN in its die. -/
def alignOk (k : Kernel) (a : FeId × Nat) : Bool :=
  kAlign k == 0 || (decide (kindPos k 2 a.2 ≤ coreOf a.1 % 64) && (coreOf a.1 % 64 - kindPos k 2 a.2) % 2 ^ kAlign k == 0)

/-- The list of front ends, by position, is a placement of the kernel. -/
def validPlace (s : State) (k : Kernel) (place : List FeId) : Bool :=
  let l := place.zipIdx
  place.length == kDies k * kCores k && place.all (fits s k []) && l.all (alignOk k) && l.all (fun a => l.all (pairOk k a))

/-! ### Tasks (R20, R23, R330, R332) -/

def State.task (s : State) (id : BitVec 32) : Option Task := s.disp.tasks.find? (fun t => t.id == id)
def State.modTask (s : State) (id : BitVec 32) (f : Task → Task) : State :=
  { s with disp := { s.disp with tasks := s.disp.tasks.map (fun t => if t.id = id then f t else t) } }
/-- A task leaves the dispatcher, and with it the places and addresses of its images (R330). -/
def State.dropTask (s : State) (id : BitVec 32) : State :=
  { s with disp := { s.disp with tasks := s.disp.tasks.filter (fun t => t.id != id) } }

/-- A scheduler event with the task ID (R331, R424). -/
def taskEvent (s : State) (id : BitVec 32) (code : Byte) : State := s.traceEv ⟨1#8, code, 0#16, id.setWidth 64, 0#64⟩

/-- The effective priority (R23). -/
def Task.eff (t : Task) : Nat := min 255 (t.prio.toNat + t.age)

/-- The widest scope that the class of a signal's region permits (R259). -/
def signalScope (s : State) (key : Nat) : BitVec 2 :=
  match keyHost key, regionOf s 0#2 key with
  | some _, _ => 3#2
  | none, some r => widestScope (r.attr.extractLsb' 2 2)
  | none, none => 2#2
/-- A status set on a completion signal; none for 0 (R336). -/
def statusSet (s : State) (sig : Word) (status : Byte) : State :=
  if sig = 0#64 then s
  else decSignal s agentDevice (signalScope s sig.toNat) [] sig.toNat (signalSet (s.word8 sig.toNat) status)
/-- The completion decrement of a task's signal, with the release of its contexts' exits (R330, R336, R350). -/
def taskDone (s : State) (t : Task) : State :=
  if t.sigc = 0#64 then s
  else decSignal s agentDevice (signalScope s t.sigc.toNat) t.left t.sigc.toNat (signalDec (s.word8 t.sigc.toNat) 1 0#8)

/-- The tenants' distance from the turn (R332). -/
def turnDist (s : State) (t : Task) : Nat := (t.tenant.toNat + 16 - s.disp.turn.toNat) % 16
/-- Is candidate a before candidate b: effective priority, the round of tenants, acceptance (R332). -/
def ranksBefore (s : State) (a b : Task × Nat) : Bool :=
  if a.1.eff ≠ b.1.eff then decide (b.1.eff < a.1.eff)
  else if turnDist s a.1 ≠ turnDist s b.1 then decide (turnDist s a.1 < turnDist s b.1)
  else decide (a.2 < b.2)
/-- The tasks that are ELIGIBLE, with their places in the order of acceptance. -/
def candidates (s : State) : List (Task × Nat) := s.disp.tasks.zipIdx.filter (fun x => x.1.st == .eligible)

/-- Every saved place of a gang can take its context (R390). -/
def savedFits (s : State) (k : Kernel) (freed : List FeId) (t : Task) : Bool := t.saved.all (fun p => fits s k freed p.1)
/-- The save-counter table has an entry for each context of a protected gang (R388). -/
def scidxRoom (s : State) (k : Kernel) : Bool :=
  decide (bandLevel (kBand k) < 2) || decide ((s.disp.tasks.flatMap (·.scidx)).length + kDies k * kCores k ≤ 65536)
/-- The task can be placed, with some front ends counted as free. -/
def canPlace (s : State) (t : Task) (freed : List FeId) : Bool :=
  match kernelOf s t.kern with
  | none => false
  | some k => if t.images then savedFits s k freed t else scidxRoom s k && placeable s k freed
/-- The dispatcher reaches the task: no candidate before it can be placed (R332). -/
def reaches (s : State) (id : BitVec 32) : Bool :=
  let l := candidates s
  match l.find? (fun x => x.1.id == id) with
  | none => false
  | some x => l.all (fun y => !ranksBefore s y x || !canPlace s y.1 [])

/-! ### Binding (R19, R334, R370, R373, R376, R384, R388) -/

/-- The store pages of the image: shared with the other context of the core when it runs the same kernel, else on free pages
from the lowest; pages without room stay unmapped. -/
def storePages (s : State) (fe : FeId) (kern : BitVec 32) (k : Kernel) : List (Nat × BitVec 7) :=
  let o := s.ctx (otherFe fe)
  if o.life ≠ .unbound ∧ o.ident.kern = kern then o.pages
  else
    let used := o.pages.map (fun p => p.2.toNat % 64)
    let free := (List.range 64).filter (fun p => !used.contains p)
    ((List.range (kPages k)).zip free).map (fun x => (x.1, BitVec.ofNat 7 (64 + x.2)))
/-- The words of the image in the instruction store. -/
def imageStore (s : State) (k : Kernel) (pages : List (Nat × BitVec 7)) (st : List (Nat × BitVec 32)) : List (Nat × BitVec 32) :=
  pages.foldl (fun st p =>
    if p.1 < kPages k then
      (List.range 1024).foldl (fun st i => mset 0#32 st (p.2.toNat % 64 * 1024 + i) (imgWord s (kImage k) (1024 * p.1 + i))) st
    else st) st

/-- The Crown maps the kernel: image and routines (R334, steps 1 and 2). -/
def mapKernel (s : State) (fe : FeId) (k : Kernel) (pages : List (Nat × BitVec 7)) : State :=
  let n := coreOf fe
  crownStores (s.setCore n { s.core n with istore := imageStore s k pages (s.core n).istore }) (BitVec.ofNat 8 n) (storeWrites s k)

/-- The lines that the window takes over from its banks: those of a last holder of the same tenant (R384). -/
def leftLines (co : Core) (fe : FeId) (size : Nat) (tenant : BitVec 4) : List (Nat × SpmLine) :=
  let b := bankBase fe size
  (co.left.filter (fun p => decide (b ≤ p.1 / 512 ∧ p.1 / 512 < b + size / 131072) && mget 0#4 co.bankTen (p.1 / 512) == tenant)).map
    (fun p => (p.1 - 512 * b, p.2))
/-- The banks of a window give up what was left in them. -/
def Core.clearLeft (co : Core) (fe : FeId) (size : Nat) : Core :=
  let b := bankBase fe size
  { co with left := co.left.filter (fun p => decide (p.1 / 512 < b ∨ b + size / 131072 ≤ p.1 / 512)) }

/-- The SPM data image (R334, step 4): its lines take the kernel's band. -/
def dataLines (s : State) (k : Kernel) (lines : List (Nat × SpmLine)) : List (Nat × SpmLine) :=
  let n := min (kDataLen k) (kWindow k)
  (List.range ((n + 255) / 256)).foldl (fun ls i =>
    let old := mget zeroSpmLine ls i
    let m := min 256 (n - 256 * i)
    let d := (memReads s.mem (kData k + 256 * i) m).zipIdx.map (fun x => (x.2, x.1))
    let pz := quarterMask (fun q => if m ≤ 64 * q then old.poison.getLsbD q
      else (List.range (min 64 (m - 64 * q))).any (fun j => hwPoison s (kData k + 256 * i + 64 * q + j)))
    mset zeroSpmLine ls i ⟨setLineBytes old.bits d, kBand k, false, pz⟩) lines

/-- The generator registers at binding (R19). -/
def bindRegs (k : Kernel) (pos : Nat) (argp : Word) (band : Band) : Vector SReg 32 :=
  Vector.ofFn (fun i : Fin 32 =>
    let v : Word :=
      if 1 ≤ i.val ∧ i.val ≤ 6 then BitVec.ofNat 64 (levelIdx k pos (i.val - 1))
      else if i.val = 7 then argp
      else if 8 ≤ i.val ∧ i.val ≤ 13 then BitVec.ofNat 64 (kExt k (i.val - 8))
      else 0#64
    ⟨v, band, false⟩)

/-- The algebra tables at binding (R80); an illegal descriptor leaves the real algebra (R79). -/
def bindTables (s : State) (k : Kernel) : Vector (BitVec 128) 4 :=
  Vector.ofFn (fun i : Fin 4 =>
    if kAlg k = 0 then realTable
    else
      let t := BitVec.ofNat 128 (memNat s.mem (kAlg k + 16 * i.val) 16)
      if algLegal t then t else realTable)

/-- The initial state of a context (R19, R334, R355): what binding writes over the front end's unbound state `c`. -/
def bindState (s : State) (c : Ctx) (fe : FeId) (t : Task) (k : Kernel) (pos : Nat) (scidx : Option (BitVec 16)) : Ctx :=
  let band := mkBand t.tenant.toNat (bandLevel (kBand k))
  let g := bindRegs k pos t.argp band
  let sn : GenSnap := { GenSnap.init band (kEntry k) with g := g }
  let r := Regs.init band
  let n := kUnits k
  { c with
    life := .bound
    ident := ⟨t.id, t.kern, Config.bidBase s.hw.epoch + s.hw.bid, fe, t.tenant, t.prio, kChans k, scidx⟩
    band := band
    regs := r
    gen := { Gen.reset with g := g, b := sn.b, gpc := kEntry k, snap := sn, stat := .running }
    spm := ⟨kWindow k, dataLines s k (leftLines (s.core (coreOf fe)) fe (kWindow k) t.tenant), [], []⟩
    eng := { Engines.reset with
      mat := { Mat.reset with units := n, accBand := (List.range n).foldl (fun l u => mset 0#8 l u band) [],
                              alg := bindTables s k, rings := Vector.ofFn (fun i : Fin 16 => kRing s k i.val) }
      weir := Vector.replicate 16 (WeirSeg.init band), weirSegs := kWeir k }
    chk := ⟨r, sn, [], 0, 0#64, 0#64, false⟩
    ord := { Order.reset with now := Clock.join t.sync [(agentOutside, s.stamp), (agentDevice, s.stamp)] }
    keys := Vector.ofFn (fun i : Fin 4 => Config.key t.tenant (BitVec.ofNat 2 i.val))
    prot := decide (2 ≤ bandLevel band) }

/-- Binds one context of a gang (R334); the Crown's `tfence` at cluster scope comes last. -/
def bindCtx (s : State) (t : Task) (k : Kernel) (x : FeId × Nat) (scidx : Option (BitVec 16)) : State :=
  let fe := x.1
  let pages := storePages s fe t.kern k
  let c := { bindState s (s.ctx fe) fe t k x.2 scidx with pages := pages }
  let s := mapKernel ((hwRead s (kData k) (min (kDataLen k) (kWindow k))).setCtx fe c) fe k pages
  let n := coreOf fe
  dropRewritten { s.setCore n ((s.core n).clearLeft fe (kWindow k)) with hw := { s.hw with bid := s.hw.bid + 1#32 } } fe 1#2

/-- The members of a bound gang run (R21, R367). -/
def runGang (s : State) (l : List FeId) : State := l.foldl (fun s fe => s.modCtx fe (fun c => { c with life := .running })) s

/-- Binds a gang as a whole; the turn passes to the next tenant (R21, R332, R334). -/
def bindGang (s : State) (t : Task) (k : Kernel) (place : List FeId) : State :=
  let ids := if 2 ≤ bandLevel (kBand k) then freeScidx s place.length else []
  let s := place.zipIdx.foldl (fun s x => bindCtx s t k x ids[x.2]?) s
  let s := (runGang s place).modTask t.id (fun t =>
    { t with st := .running, age := 0, place := place, live := place, scidx := ids, boundAt := s.disp.binds })
  taskEvent { s with disp := { s.disp with binds := s.disp.binds + 1, turn := t.tenant + 1#4 } } t.id 2#8

/-! ### Pre-emption and fill holds (R23, R328, R332) -/

/-- Asks every running context of a gang to stop with A61 (R332, R360). -/
def preemptTask (s : State) (id : BitVec 32) : State :=
  match s.task id with
  | none => s
  | some t =>
    let s := s.modTask id (fun t => { t with preempt := true })
    t.live.foldl (fun s fe => s.modCtx fe (fun c => if c.life = .running then { c with stops := { c.stops with a61 := true } } else c)) s

/-- Running tasks that the candidate exceeds by PTHR and that are not being pre-empted or torn down. -/
def weaker (s : State) (t : Task) : List Task :=
  s.disp.tasks.filter (fun r => r.st == .running && !r.preempt && !r.torn && s.disp.pthr != 0#8
    && decide (r.prio.toNat + s.disp.pthr.toNat ≤ t.eff))
/-- Inserts a victim in order: lowest priority first, the most recently bound first among equals (R332). -/
def insertVictim (x : Task) : List Task → List Task
  | [] => [x]
  | y :: t => if x.prio < y.prio ∨ (x.prio = y.prio ∧ y.boundAt < x.boundAt) then x :: y :: t else y :: insertVictim x t
/-- The shortest leading part of the order that completes a placement. -/
def takeVictims (s : State) (t : Task) (freed : List FeId) : List Task → Option (List Task)
  | [] => none
  | v :: rest =>
    let freed := freed ++ v.live
    if canPlace s t freed then some [v] else (takeVictims s t freed rest).map (v :: ·)
/-- The front ends that pre-emption is freeing (R23): of gangs that are being pre-empted, and of those whose contexts have been saved
and are still leaving. -/
def leavingFes (s : State) : List FeId :=
  (s.disp.tasks.filter (fun r => (r.preempt && r.st == .running)
    || (r.images && r.place.any (fun fe => (s.ctx fe).life != .unbound && (s.ctx fe).ident.task == r.id)))).flatMap (·.place)
/-- The victims of R332: none when what is being pre-empted already completes a placement. -/
def chooseVictims (s : State) (t : Task) : List Task :=
  let freed := leavingFes s
  if canPlace s t freed then [] else (takeVictims s t freed ((weaker s t).foldr insertVictim [])).getD []

/-- Front ends of a die that are bound. -/
def boundOn (s : State) (die : Nat) : Nat :=
  ((List.range 128).filter (fun i => (s.ctx (BitVec.ofNat 9 (128 * die + i))).life != .unbound)).length
/-- Inserts a die in order of its bound front ends. -/
def insertDie (s : State) (x : Nat) : List Nat → List Nat
  | [] => [x]
  | y :: t => if boundOn s x < boundOn s y then x :: y :: t else y :: insertDie s x t
def portOf (s : State) (die : Nat) : FillPort := s.fills[die]?.getD ⟨0#64, 0#64, 0#64, false, false, false, 0#32, none, 0⟩
def setPort (s : State) (die : Nat) (p : FillPort) : State := { s with fills := s.fills.setIfInBounds die p }

/-- The dies put on hold for a task whose Cistern image too few dies hold (R328, step 1). -/
def newHolds (s : State) (t : Task) (k : Kernel) : List Nat :=
  if kCimg k = 0 ∨ t.images = true then []
  else
    let mine (d : Nat) : Bool := let p := portOf s d
      (p.hold.isNone && !p.busy && p.tag == kCtag k) || p.hold == some (t.id, t.kern)
    let have' := ((List.range 4).filter mine).length
    let free := (List.range 4).filter (fun d => let p := portOf s d
      p.hold.isNone && !p.busy && p.tag != kCtag k)
    ((free.reverse.foldr (fun d l => insertDie s d l) []).take (kDies k - have'))
def holdDies (s : State) (t : Task) (k : Kernel) : State :=
  (newHolds s t k).foldl (fun s d => setPort s d { portOf s d with hold := some (t.id, t.kern), tries := 0 }) s
/-- Tasks to pre-empt on the dies held for a task (R328, step 2). -/
def holdVictims (s : State) (t : Task) : List Task :=
  (weaker s t).filter (fun r => r.live.any (fun fe => (portOf s (dieOf fe)).hold == some (t.id, t.kern)))

/-- DISPATCHER_SELECT (R332): the dispatcher considers a task that it reaches. With `place`, a placement of it, the gang binds;
without one, a task that no placement takes has dies held for its Cistern image and its victims pre-empted. -/
def execDispatcherSelect (task : BitVec 32) (place : List FeId) (victims : List (BitVec 32)) (s : State) : Out :=
  .next (match s.task task with
    | none => s
    | some t =>
      if !s.disp.en || s.disp.hold || t.st != .eligible || t.images && !place.isEmpty || !reaches s task then s
      else
        match kernelOf s t.kern with
        | none => s
        | some k =>
          if !place.isEmpty then (if validPlace s k place && scidxRoom s k then bindGang s t k place else s)
          else if canPlace s t [] then s
          else
            let s1 := holdDies s t k
            let v := (holdVictims s1 t ++ chooseVictims s t).map (·.id)
            if victims = v then v.foldl preemptTask s1 else s1)

/-- Would the dispatcher pre-empt the yielding task (R351): an eligible task of at least its priority would be placed if the
gang's front ends were free. -/
def yieldMeets (s : State) (y : Task) : Bool :=
  s.disp.en && !s.disp.hold && y.st == .running && !y.preempt && !y.torn
  && (candidates s).any (fun x => decide (y.prio.toNat ≤ x.1.eff) && canPlace s x.1 y.live)

/-- `yield` (R351): regardless of PTHR. -/
def execYield (h : OpHdr) (s : State) : Out :=
  .next (guardedOp s slotX h true (fun s =>
    match s.task (s.ctx s.cur).ident.task with
    | none => s
    | some t => if s.mayAct 0 && yieldMeets s t then preemptTask s t.id else s))

/-! ### Acceptance (R325, R329 to R331, R349, R398) -/

/-- The next task ID: 0 is skipped (R331). -/
def nextTaskId (n : BitVec 32) : BitVec 32 := if n + 1#32 = 0#32 then 1#32 else n + 1#32

/-- The dispatcher accepts a command as a task of a tenant; a refused kernel fails it at once (R325, R349). -/
def acceptTask (s : State) (cmd : BitVec 512) (prio : Byte) (tenant : BitVec 4) (queue origin : Option Nat) (parent : Option (BitVec 4))
    (sync : Clock) : State × BitVec 32 :=
  let id := s.disp.nextId
  let s := taskEvent { s with disp := { s.disp with nextId := nextTaskId id } } id 1#8
  if kernelRefuses s (cmdKern cmd) parent then (taskEvent (statusSet s (cmdSigc cmd) 0x40#8) id 5#8, id)
  else
    let t : Task := { id := id, st := .waiting, argp := cmdArgp cmd, sigc := cmdSigc cmd,
                      deps := Vector.ofFn (fun i : Fin 4 => cmdDep cmd i.val), kern := cmdKern cmd, prio := prio, tenant := tenant,
                      age := 0, since := 0, queue := queue, origin := origin, place := [], live := [], images := false, saved := [],
                      scidx := [], boundAt := 0, failExit := false, preempt := false, torn := false, sync := sync, left := [] }
    ({ s with disp := { s.disp with tasks := s.disp.tasks ++ [t] } }, id)

/-- The pending `launch` of a context receives its task ID 1 beat later. -/
def Ctx.launched (c : Ctx) (id : BitVec 32) : Ctx :=
  { c with frz := .none,
           pend := c.pend.map (fun p => match p.kind with
             | .launch d => { p with kind := .done [.s d ⟨zext64 id, c.band, false⟩], due := c.beat + 1 }
             | .done _ | .spm _ _ | .load _ | .amo _ | .wait _ => p) }

/-- LAUNCH_ACCEPT (R349): the command at the head of the launch queue, from this front end, is accepted while NTASK is below
4,096; the child takes the parent's tenant and at most its priority. -/
def execLaunchAccept (fe : FeId) (s : State) : Out :=
  .next (match s.disp.launchq with
    | [] => s
    | l :: rest =>
      if l.fe ≠ fe ∨ 4096 ≤ s.disp.tasks.length ∨ s.disp.en = false then s
      else
        let prio := if cmdPrio l.cmd < l.prio then cmdPrio l.cmd else l.prio
        match acceptTask { s with disp := { s.disp with launchq := rest } } l.cmd prio l.tenant none l.origin (some l.tenant) l.clock with
        | (s, id) => if (s.ctx fe).life = .running ∧ (s.ctx fe).ident.bid = l.bid then s.modCtx fe (fun c => c.launched id) else s)

/-! #### Command windows (R396 to R398) -/

def winBase (w : Nat) : Nat := 0x5FFC000000 + 0x100000 * w
def winOn (s : State) (w : BitVec 6) : Bool := (vget 0#8 s.disp.windows w).getLsbD 7
def winPort (s : State) (w : BitVec 6) : Bool := (vget 0#8 s.disp.windows w).getLsbD 4
def winTenant (s : State) (w : BitVec 6) : BitVec 4 := (vget 0#8 s.disp.windows w).extractLsb' 0 4
/-- The number of queue q of window w. -/
def qNum (w q : BitVec 6) : Nat := 64 * w.toNat + q.toNat
def State.cwq (s : State) (w q : BitVec 6) : CwQueue := mget CwQueue.reset s.disp.queues (qNum w q)
/-- The address of the queue's control block. -/
def qBlock (w q : BitVec 6) : Nat := winBase w.toNat + 256 * q.toNat
/-- Words 1 and 2 of the control block (R397). -/
def CwQueue.word2 (x : CwQueue) : Word := (0#29 ++ BitVec.ofBool x.isOn ++ BitVec.ofBool x.badcfg ++ BitVec.ofBool x.tdone ++ x.nref : BitVec 64)
/-- The dispatcher changes a queue and writes words 1 and 2 of its control block. -/
def State.setCwq (s : State) (w q : BitVec 6) (x : CwQueue) : State :=
  let s := { s with disp := { s.disp with queues := mset CwQueue.reset s.disp.queues (qNum w q) x } }
  (s.putWord8 (qBlock w q + 8) x.cons).putWord8 (qBlock w q + 16) x.word2
/-- The address of entry i of a queue (R398). -/
def entryAddr (w : BitVec 6) (x : CwQueue) (i : Nat) : Nat :=
  winBase w.toNat + 4096 * x.rbase.toNat + 64 * (i % 2 ^ x.qszl.toNat)
/-- Entry CONS has its seal word. -/
def sealed (s : State) (w : BitVec 6) (x : CwQueue) : Bool := s.word8 (entryAddr w x x.cons.toNat + 56) == x.cons + 1#64

/-- A signal address of a command window: a multiple of 8 in a region of class DC or SC (R329). -/
def windowSignalOk (s : State) (a : Word) : Bool :=
  a == 0#64 || (a.toNat % 8 == 0 && (match regionOf s 0#2 a.toNat with
    | some r => r.attr.extractLsb' 2 2 == 1#2 || r.attr.extractLsb' 2 2 == 2#2
    | none => false))
/-- An entry of a window breaks R329. -/
def entryBad (s : State) (cmd : BitVec 512) : Bool :=
  cmdType cmd != 1#8 || !cmdReservedOk cmd || !(List.range 5).all (fun i => windowSignalOk s (cmdWord cmd (1 + i)))

/-- The dispatcher handles an entry (R329, R330): a refused one is counted, and sets 0x40 on a usable SIGC. -/
def handleEntry (s : State) (w q : BitVec 6) (cmd : BitVec 512) : State :=
  if cmdType cmd = 0#8 then s
  else if entryBad s cmd then
    let x := s.cwq w q
    let s := (s.setCwq w q { x with nref := x.nref + 1#32 }).countError.traceEv ⟨1#8, 6#8, 0#16, BitVec.ofNat 64 (qNum w q), 0#64⟩
    if windowSignalOk s (cmdSigc cmd) then statusSet s (cmdSigc cmd) 0x40#8 else s
  else (acceptTask s cmd (cmdPrio cmd) (winTenant s w) (some (qNum w q)) (some (qNum w q)) none []).1

/-- COMMAND_ENTRY_TAKE (R398): entry CONS of a queue that is on, when its seal word equals CONS + 1. -/
def execCommandEntryTake (win q : BitVec 6) (s : State) : Out :=
  let x := s.cwq win q
  .next (if !s.disp.en || !winOn s win || !x.isOn || decide (4096 ≤ s.disp.tasks.length) then s
    else if sealed s win x then
      let cmd := BitVec.ofNat 512 (memNat s.mem (entryAddr win x x.cons.toNat) 64)
      let s := handleEntry s win q cmd
      let y := s.cwq win q
      s.setCwq win q { y with cons := x.cons + 1#64 }
    else { s with disp := { s.disp with queues := mset CwQueue.reset s.disp.queues (qNum win q) { x with bell := false } } })

/-! ### Dependences and aging (R20, R23, R330) -/

/-- The dependence signals of a task. -/
def Task.depWords (s : State) (t : Task) : List Word := (t.deps.toList.filter (fun a => a != 0#64)).map (fun a => s.word8 a.toNat)
/-- A dependence signal cannot be read now (R403, R412). -/
def depsStall (s : State) (t : Task) : Bool := t.deps.toList.any (fun a => a != 0#64 && stalledRead s a.toNat)

/-- What the task's binding acquires: its launch, and what the waits on its dependence signals observe (R259, R334). -/
def Task.depClock (s : State) (t : Task) : Clock :=
  (t.deps.toList.filter (· != 0#64)).foldl (fun c a => Clock.join c ((pget s.sync (syncSignal a.toNat)).getD [])) t.sync

/-- TASK_ELIGIBLE (R330): every dependence count is 0 and every status ok. -/
def execTaskEligible (task : BitVec 32) (s : State) : Out :=
  .next (match s.task task with
    | none => s
    | some t =>
      if t.st = .waiting ∧ !depsStall s t ∧ (Task.depWords s t).all (fun w => w.toNat % 2 ^ 48 == 0 && w.extractLsb' 56 8 == 0#8) then
        s.modTask task (fun t => { t with st := .eligible, since := s.time.toNat, age := 0, sync := Task.depClock s t })
      else s)

/-- The task is abandoned (R330): SIGC takes status 0x80. -/
def abandonTask (s : State) (t : Task) : State := taskEvent ((statusSet s t.sigc 0x80#8).dropTask t.id) t.id 4#8

/-- TASK_ABANDON (R20, R330, R390): a dependence status is nonzero, or a saved place is disabled. -/
def execTaskAbandon (task : BitVec 32) (s : State) : Out :=
  .next (match s.task task with
    | none => s
    | some t =>
      if t.st = .waiting ∧ !depsStall s t ∧ (Task.depWords s t).any (fun w => w.extractLsb' 56 8 != 0#8) then abandonTask s t
      else if t.st = .eligible ∧ t.images ∧ t.saved.any (fun p => Config.disabled (BitVec.ofNat 8 (coreOf p.1))) then abandonTask s t
      else s)

/-- One task after 64 ms (R23). -/
def Task.aged (t : Task) (time : Nat) : Task :=
  if t.st = .eligible ∧ t.since + 64000000 ≤ time then { t with age := min (t.age + 1) 16, since := t.since + 64000000 } else t
/-- TASK_AGING (R23). -/
def execTaskAging (s : State) : Out :=
  .next { s with disp := { s.disp with tasks := s.disp.tasks.map (fun t => t.aged s.time.toNat) } }

/-! ### Exits and retirement (R106, R330, R350, R352) -/

/-- What becomes of a task that a context has left (R330): with its last context it retires, or, saved, it is ELIGIBLE again. A
task torn down has had its status set (R353). -/
def taskLeft (s : State) (id : BitVec 32) : State :=
  match s.task id with
  | none => s
  | some t =>
    if t.st ≠ .running ∨ !t.live.isEmpty ∨ t.torn then s
    else if !t.saved.isEmpty then
      s.modTask id (fun t => { t with st := .eligible, images := true, preempt := false, since := s.time.toNat, age := 0,
                                      place := t.saved.map (·.1) })
    else
      let s := if t.failExit then statusSet s t.sigc 0x40#8 else taskDone s t
      taskEvent (s.dropTask id) id 3#8

/-- Every committed command of the four timelines is complete (R350). -/
def enginesDone (c : Ctx) : Bool := c.eng.tl.toList.all (fun t => t.count == t.done)

/-- The context ends: after `exit`, or after `gend` once the Runnel is empty and its last group has issued (R106, R350): where a
captured nest is still replaying, the last of its executions (assumption log 81). -/
def exitOf (c : Ctx) : Option Bool :=
  match c.idle with
  | .exitOp f => some f
  | .none | .endOp | .quiet =>
    if c.gen.stat = .halted ∧ c.gen.runnel.isEmpty ∧ !c.regs.loop.replaying ∧ c.exiting.isNone then some false else none

/-- CONTEXT_EXIT_COMPLETE (R350): the results have landed and the commands are complete; the context releases its stores, waits for
them, and leaves. -/
def execContextExitComplete (fe : FeId) (s : State) : Out :=
  let c := s.ctx fe
  .next (match exitOf c with
    | none => s
    | some fail =>
      if c.life ≠ .running ∨ !settled c ∨ c.regs.win.busy ∨ !enginesDone c ∨ !c.frz.before then s
      else if !c.stq.gate.isEmpty then s.setCtx fe c.releaseGate
      else if !accessesPerformed c 3#2 then s
      else
        let out := Clock.join (s.clockOf fe) [(agentChan fe false, s.stamp), (agentChan fe true, s.stamp)]
        let s := s.modTask c.ident.task (fun t => { t with failExit := t.failExit || fail, left := Clock.join t.left out })
        taskLeft (departCtx s fe) c.ident.task)

/-- A context of the task is still on its front end. -/
def taskBound (s : State) (id : BitVec 32) : Bool := s.ctxs.any (fun p => p.2.life != .unbound && p.2.ident.task == id)

/-- TASK_FAILED_RETIRE (R330, R352): every context of a failed task is unbound. -/
def execTaskFailedRetire (task : BitVec 32) (s : State) : Out :=
  .next (match s.task task with
    | none => s
    | some t =>
      if t.st = .failed ∧ !taskBound s task ∧ !t.torn then taskEvent ((statusSet s t.sigc 0x40#8).dropTask task) task 5#8 else s)

/-! ### Kernels and Cistern fills (R222, R325, R328) -/

/-- A line of a range of memory that Headwater cannot read: both copies of a guarded header fail (R324). -/
def deadLine (s : State) (a n : Nat) : Option Nat :=
  (List.range ((a % 64 + n + 63) / 64)).find? (fun i => (hwErr s (a + 64 * i)).any MediaErr.dead)
/-- The Cistern image of a kernel, as bytes. -/
def cisternImage (s : State) (k : Kernel) : List Byte := memReads s.mem (kCimg k) (kClen k)

/-- KERNEL_REGISTER (R325, R328): Headwater writes the descriptor with VALID; a kernel that declares another kernel's CTAG with
another image is refused. -/
def execKernelRegister (handle : BitVec 32) (desc : List Word) (s : State) : Out :=
  let k : Kernel := Vector.ofFn (fun i : Fin 16 => if i.val = 10 then (desc[i.val]?.getD 0#64) ||| 0x10000#64 else desc[i.val]?.getD 0#64)
  let clash (p : Nat × Kernel) : Bool :=
    p.1 != handle.toNat && kCimg p.2 != 0 && kCtag p.2 == kCtag k && sha384 (cisternImage s p.2) != sha384 (cisternImage s k)
  .next (if 65536 ≤ handle.toNat ∨ desc.length ≠ 16 then s.countError
    else
      let s := if kCimg k = 0 then s else hwRead s (kCimg k) (kClen k)
      if kCimg k ≠ 0 ∧ ((deadLine s (kCimg k) (kClen k)).isSome ∨ s.hw.kernels.any clash) then s.countError
      else { s with hw := { s.hw with kernels := pset s.hw.kernels handle.toNat k } })

/-- The first address of a die's Cistern (R27). -/
def cisternBase (die : Nat) : Nat := 0x8000000000 + 0x20000000 * die
/-- A running fill's bytes and poison marks reach the Cistern: n bytes from the port's source (R222), read as Headwater reads
(R324). -/
def fillBytes (s : State) (die : Nat) (p : FillPort) (n : Nat) : State :=
  let d := cisternBase die + p.dst.toNat
  let u := hwRead s p.src.toNat n
  let t := { u with mem := memWrites u.mem d (memReads u.mem p.src.toNat n) }
  (List.range (n / 64)).foldl (fun t i => t.setLinePoison (d + 64 * i) (hwPoison s (p.src.toNat + 64 * i))) t

/-- A fill may start: no fill runs, and no context is bound on the die (R222, R328). -/
def fillReady (s : State) (die : Nat) : Bool := !(portOf s die).busy && boundOn s die == 0

/-- FILL_HOLD_FILL (R328, step 3): the fill of a held die starts; a hold without its task is lifted. -/
def execFillHoldFill (die : BitVec 2) (s : State) : Out :=
  let p := portOf s die.toNat
  .next (match p.hold with
    | none => s
    | some (task, kern) =>
      match s.task task, kernelOf s kern with
      | some _, some k =>
        if fillReady s die.toNat then
          setPort s die.toNat { p with src := BitVec.ofNat 64 (kCimg k), dst := 0#64, len := BitVec.ofNat 64 (kClen k), busy := true, tag := 0#32 }
        else s
      | _, none | none, some _ => if p.busy then s else setPort s die.toNat { p with hold := none, tries := 0 })

/-- A fill ends with ERR after n granules (R222); a second error of a hold's fill refuses the waiting task (R328). -/
def fillFails (s : State) (die : BitVec 2) (n : Nat) : State :=
  let p := portOf s die.toNat
  let s := (fillBytes s die.toNat p (256 * n)).traceEv ⟨4#8, 2#8, die.setWidth 16, p.src, BitVec.ofNat 64 n⟩
  match p.hold with
  | none => setPort s die.toNat { p with busy := false, err := true }
  | some (task, _) =>
    if p.tries = 0 then setPort s die.toNat { p with busy := false, err := true, tries := 1 }
    else
      let s := setPort s die.toNat { p with busy := false, err := true, tries := 0, hold := none }
      match s.task task with
      | some t => if t.st = .eligible then taskEvent ((statusSet s t.sigc 0x40#8).dropTask task) task 5#8 else s
      | none => s

/-- FILL_COMPLETE (R222, R328): the last granule is written; a fill for a hold takes its tag, and the hold is lifted. A source line
that Headwater cannot read ends the fill with ERR before its granule (R324). -/
def execFillComplete (die : BitVec 2) (s : State) : Out :=
  let p := portOf s die.toNat
  .next (if !p.busy then s
    else
      match deadLine s p.src.toNat p.len.toNat with
      | some i => fillFails (hwRead s p.src.toNat p.len.toNat) die (i / 4)
      | none =>
        let s := fillBytes s die.toNat p p.len.toNat
        match p.hold with
        | none => setPort s die.toNat { p with busy := false, done := true }
        | some (_, kern) =>
          let tag := match kernelOf s kern with
            | some k => kCtag k
            | none => 0#32
          setPort s die.toNat { p with busy := false, done := true, tag := tag, hold := none, tries := 0 })

/-- FILL_MEDIA_ERROR (R222, R328): the fill ends after some granules, how many the manual leaves open. -/
def execFillMediaError (die : BitVec 2) (s : State) : Out :=
  let p := portOf s die.toNat
  .next (if !p.busy then s
    else fillFails { s with fresh := s.fresh + 1 } die ((Config.freeWord s.fresh).toNat % (p.len.toNat / 256 + 1)))

end Sys2Proof.Machine
end

