-- ==== Sys2Proof/Machine/Image.lean ====
section
/-! DEFINITION. Context images: the bytes of their header, directory and sections, and the context that they hold (10_copy R296,
13_system R385, R386; assumption log 12). -/
namespace Sys2Proof.Machine

def wordBytes (w : Word) : List Byte := natBytes w.toNat 8
/-- The number in n bytes of a list from byte i on. -/
def bytesAt (l : List Byte) (i n : Nat) : Nat := bytesNat ((l.drop i).take n)

/-! ### Channel records (R296) -/

/-- Record words 0 to 22: addresses, chunk with the flags above it, the six levels, the two reports. -/
def stagingWords (st : Staging) (flags : BitVec 32) : List Word :=
  [st.sbase, st.dbase, (flags ++ st.chunk : BitVec 64)]
    ++ (List.range 6).flatMap (fun k =>
      let i := BitVec.ofNat 3 k
      [zext64 (vget 0#32 st.cnt i), vget 0#64 st.sstr i, vget 0#64 st.dstr i])
    ++ [st.rbasin, st.rsig]
/-- A queue entry: 40 words. -/
def copyEntWords (e : CopyEnt) : List Word :=
  let w0 : Word := (0#47 ++ e.lv ++ BitVec.ofBool e.dir ++ BitVec.ofBool e.sig ++ BitVec.ofBool e.chg ++ e.add ++ e.opc : BitVec 64)
  [w0, e.num] ++ stagingWords e.st 0#32 ++ (List.range 9).map (fun i => e.pages.getD i 0#64) ++ List.replicate 6 0#64
/-- A channel's record; MODE is the mode that the last `cmode` chose. -/
def chanRecord (x : Chan) (stallc : Word) : List Word :=
  let lenient := (x.modeNew.getLast?.map (·.2)).getD x.lenient
  stagingWords x.st (0#30 ++ BitVec.ofBool x.parked.isSome ++ BitVec.ofBool lenient : BitVec 32)
    ++ [stallc, (0#25 ++ BitVec.ofNat 7 x.queue.length ++ x.off : BitVec 64)]
    ++ (List.range 3).map (fun k => (vget 0#32 x.idx (BitVec.ofNat 3 (2 * k + 1)) ++ vget 0#32 x.idx (BitVec.ofNat 3 (2 * k)) : BitVec 64))
    ++ x.queue.flatMap copyEntWords

/-- Words of a list from word i on. -/
def wordAt (l : List Word) (i : Nat) : Word := l.getD i 0#64
/-- The staging registers of record words 0 to 22. -/
def stagingOf (l : List Word) : Staging :=
  { sbase := wordAt l 0, dbase := wordAt l 1, chunk := (wordAt l 2).setWidth 32
    cnt := Vector.ofFn (fun k : Fin 6 => (wordAt l (3 + 3 * k.val)).setWidth 32)
    sstr := Vector.ofFn (fun k : Fin 6 => wordAt l (4 + 3 * k.val)), dstr := Vector.ofFn (fun k : Fin 6 => wordAt l (5 + 3 * k.val))
    rbasin := wordAt l 21, rsig := wordAt l 22 }
/-- The queue entry of 40 words: the pages of a `ckv` are one for each page that its tokens touch, and operand A, which holds its
first token, stands as the address of the pages' side. The words hold no provenance and no op word: those are free values from number
f on. -/
def copyEntOf (f : Nat) (l : List Word) : CopyEnt :=
  let w := wordAt l 0
  let st := stagingOf (l.drop 2)
  let dir := w.getLsbD 13
  let p := (if dir then st.dbase else st.sbase).extractLsb' 0 21
  let ckv := w.extractLsb' 0 8 == 8#8
  { opc := w.extractLsb' 0 8, num := wordAt l 1, add := w.extractLsb' 8 3, chg := w.getLsbD 11, sig := w.getLsbD 12, dir := dir
    lv := w.extractLsb' 14 3, st := st, pages := if ckv then (l.drop 25).take 9 else [], tok := if ckv then p else 0#21
    prov := Config.freeWord f, word := Config.freeWord (f + 1), seq := 0 }
/-- The channel of a record, whose head command goes on at (IDX, OFF), and its STALLC (R297): a parked channel retries. -/
def chanOf (f : Nat) (l : List Word) : Chan × Word :=
  let w24 := wordAt l 24
  let n := w24.toNat / 2 ^ 32 % 128
  ({ Chan.reset with
       queue := (List.range n).map (fun j => copyEntOf (f + 2 * j) ((l.drop (28 + 40 * j)).take 40))
       st := stagingOf l, lenient := (wordAt l 2).getLsbD 32
       idx := Vector.ofFn (fun i : Fin 6 => (wordAt l (25 + i.val / 2)).extractLsb' (32 * (i.val % 2)) 32)
       off := w24.setWidth 32 }, wordAt l 23)
/-- How many words the record at the front of a list takes. -/
def recordLen (l : List Word) : Nat := 28 + 40 * ((wordAt l 24).toNat / 2 ^ 32 % 128)

/-- Section 11: the records of both channels. -/
def chanSection (c : Ctx) : List Byte :=
  pad64 ((chanRecord (c.chan false) c.stallc[0] ++ chanRecord (c.chan true) c.stallc[1]).flatMap wordBytes)
/-- The words of a section. -/
def sectionWords (l : List Byte) : List Word := (List.range (l.length / 8)).map (fun i => BitVec.ofNat 64 (bytesAt l (8 * i) 8))
/-- The channels that section 11 holds. -/
def readChans (f : Nat) (l : List Byte) : Option (Vector Chan 2 × Vector Word 2) :=
  let ws := sectionWords l
  let vs := ws.drop (recordLen ws)
  if ws.length < recordLen ws + recordLen vs then none
  else
    let a := chanOf f ws
    let b := chanOf (f + 256) vs
    some (#v[a.1, b.1], #v[a.2, b.2])

/-! ### The other sections (R26, R386) -/

/-- Section 1: the generator's registers, FIFO, store-page map, snapshot, and the instruction that waits or is parked. -/
abbrev Sec1 := Vector SReg 32 × Vector TReg 8 × BitVec 16 × EProg × BitVec 20 × List FifoEntry × List FifoEntry × Nat × List (Nat × BitVec 7)
  × GenSnap × GenStat
def codec1 : Codec Sec1 :=
  (codecSReg.vec 32 zeroSReg).pair ((codecTReg.vec 8 zeroTReg).pair ((codecBits 16).pair (codecEProg.pair ((codecBits 20).pair
    (codecFifo.list.pair (codecFifo.list.pair (codecNat.pair (((codecBits 7).dense 64 0#7).pair (codecSnap.pair codecStat)))))))))
def sec1 (c : Ctx) : Sec1 :=
  (c.gen.g, c.gen.b, c.gen.gpc, c.gen.eprog, c.gen.eseq, c.gen.fifo, c.gen.popped, c.gen.popCount, c.pages, c.gen.snap, c.gen.stat)

/-- Pending stops (R360): A60 with its code, A61, A62, the engines' faults. -/
def codecStops : Codec Stops :=
  ((codecBits 16).opt.pair (codecBool.pair (codecBool.pair (codecCause.pair (codecBits 64)).list))).iso
    (fun (a, b, c, e) => ⟨a, b, c, false, e⟩) (fun x => (x.a60, x.a61, x.a62, x.engine))
/-- Why the context idles (R10). -/
def codecIdle : Codec Idle := codecSum
  [codecUnit .none (· == .none), codecUnit .endOp (· == .endOp), codecUnit .quiet (· == .quiet),
   codecAlt codecBool .exitOp (fun | .exitOp f => some f | .none | .endOp | .quiet => none)]

/-- Section 3: scalars, predicates, skip, loop engine, commit buffer, special registers, and what the context waits for. -/
abbrev Sec3 := Vector SReg 64 × Vector PReg 16 × BitVec 7 × Loop × EWin × Word × BitVec 4 × Byte × Byte × Band × Word × Word × Stops × Idle
  × Option Bool × BitVec 9 × Bool
def codec3 : Codec Sec3 :=
  (codecSReg.vec 64 zeroSReg).pair ((codecPReg.vec 16 zeroPReg).pair ((codecBits 7).pair (codecLoop.pair (codecWin.pair ((codecBits 64).pair
    ((codecBits 4).pair ((codecBits 8).pair ((codecBits 8).pair ((codecBits 8).pair ((codecBits 64).pair ((codecBits 64).pair (codecStops.pair
    (codecIdle.pair (codecBool.opt.pair ((codecBits 9).pair codecBool)))))))))))))))
def sec3 (c : Ctx) : Sec3 :=
  (c.regs.s, c.regs.p, c.regs.skip, c.regs.loop, c.regs.win, c.regs.fmt, c.ident.tenant, c.ident.prio, c.ident.chans, c.band, c.regs.kvpol,
   c.gen.runbp, c.stops, c.idle, c.exiting, c.denial, c.clean)

/-- Section 5: parameters, ring table, scale queue, frozen state, status, saved commands. -/
abbrev Sec5 := Vector MReg 8 × Vector Ring 16 × List (Nat × BitVec 4 × BitVec 9) × List ScalePair × Option MRun × List (Nat × MReg)
  × List McBlock × Bool × Bool × Bool × Bool × List MCmd
def codec5 : Codec Sec5 :=
  (codecMReg.vec 8 zeroMReg).pair ((codecRing.vec 16 zeroRing).pair ((codecNat.pair ((codecBits 4).pair (codecBits 9))).list.pair
    (codecScale.list.pair (codecMRun.opt.pair ((codecNat.pair codecMReg).list.pair (codecMc.list.pair (codecBool.pair (codecBool.pair (codecBool.pair
    (codecBool.pair codecMCmd.list))))))))))
def sec5 (c : Ctx) : Sec5 :=
  let m := c.eng.mat
  (c.regs.m, m.rings, m.radv, m.scale, m.run, m.rs, m.mc, m.ovf, m.tovf, m.tnan, m.frozen, m.saved)

/-- Section 6: the words of n accumulator units, their bands and the poison bits of their rows. -/
abbrev Sec6 := List (Nat × BitVec 32) × List (Nat × Band) × List (Nat × Bool)
/-- A word of an accumulator: 4 bytes. -/
def codecAcc : Codec (BitVec 32) :=
  { items := fun x => natBytes x.toNat 4
    side := fun _ => []
    get := fun l => (takeBytes 4 l).map (fun p => (fun sb => some (BitVec.ofNat 32 (bytesNat p.1), sb), p.2)) }
def codec6 (n : Nat) : Codec Sec6 :=
  (codecAcc.dense (1024 * n) 0#32).pair ((codecBand.dense n 0#8).pair (codecPoison.dense (16 * n) false))
def sec6 (c : Ctx) : Sec6 := (c.eng.mat.acc, c.eng.mat.accBand, c.eng.mat.accPoison)

/-- Section 7: the algebra tables, and what `malg` is about to write. -/
def codec7 : Codec (Vector (BitVec 128) 4 × List (Nat × BitVec 2 × BitVec 128)) :=
  ((codecBits 128).vec 4 realTable).pair (codecNat.pair ((codecBits 2).pair (codecBits 128))).list

/-- Section 9: the checkpoint, the landing record, and the beats and places in the issue order that they refer to. -/
abbrev Sec9 := (Regs × GenSnap × List Pend × Nat × Word × Word × Bool) × List Pend × Nat × Nat × Vector Nat 16
def codec9 : Codec Sec9 :=
  (codecRegs.pair (codecSnap.pair (codecPend.list.pair (codecNat.pair ((codecBits 64).pair ((codecBits 64).pair codecBool)))))).pair
    (codecPend.list.pair (codecNat.pair (codecNat.pair (codecNat.vec 16 0))))
/-- An entry with DIST in place of its beat, and back. -/
def Pend.toDist (b : Nat) (p : Pend) : Pend := { p with due := p.due - b }
def Pend.ofDist (b : Nat) (p : Pend) : Pend := { p with due := p.due + b }
def sec9 (c : Ctx) : Sec9 :=
  ((c.chk.regs, c.chk.gen, c.chk.record.map (Pend.toDist c.chk.beat), c.chk.beat, c.chk.prov, c.chk.word, c.chk.endq),
   c.pend.map (Pend.toDist c.beat), c.beat, c.nextSeq, c.predSeq)

/-- Section 12: the segments of the share. -/
def codec12 (n : Nat) : Codec (List WeirSeg) := codecSeg.many n
/-- Section 15: the seal counter and the cipher commands that have not started. -/
def codec15 : Codec (Word × List CipherCmd) := (codecBits 64).pair codecCipher.list

/-- Section i of the image of a context. -/
def imageSection (c : Ctx) (i : Nat) : List Byte :=
  match i with
  | 1 => codec1.bytes (sec1 c)
  | 2 => codecGroup.list.bytes c.gen.runnel
  | 3 => codec3.bytes (sec3 c)
  | 4 => (codecVReg.vec 64 zeroVReg).bytes c.regs.v
  | 5 => codec5.bytes (sec5 c)
  | 6 => (codec6 c.eng.mat.units).bytes (sec6 c)
  | 7 => codec7.bytes (c.eng.mat.alg, c.eng.mat.algNew)
  | 8 => (codecStream.vec 8 zeroStream).bytes c.regs.streams
  | 9 => codec9.bytes (sec9 c)
  | 10 => (codecLine.dense (c.spm.size / 256) zeroSpmLine).bytes c.spm.lines
  | 11 => chanSection c
  | 12 => (codec12 c.eng.weirSegs).bytes (c.eng.weir.toList.take c.eng.weirSegs)
  | 13 => codecSoftmax.bytes c.regs.softmax
  | 14 => (codecTimeline.vec 4 ⟨0#64, 0#64⟩).bytes c.eng.tl
  | 15 => codec15.bytes (c.sealcnt, c.eng.cipher)
  | _ => []
def imageSections (c : Ctx) : List (List Byte) := (List.range 15).map (fun i => imageSection c (i + 1))

/-! ### Header and directory (R385) -/

/-- The Milliner is parked at a level-G fault. -/
def Gen.isParked (g : Gen) : Bool :=
  match g.stat with
  | .parked _ => true
  | .running | .pushStall | .waitStall | .halted => false

/-- The directory: ID, offset and length of each section in units of 64 bytes. -/
def imageDir (off id : Nat) : List (List Byte) → List Word
  | [] => []
  | x :: t => BitVec.ofNat 64 (id + 256 * off + 2 ^ 36 * (x.length / 64)) :: imageDir (off + x.length / 64) (id + 1) t

/-- Header bytes 0 to 79. -/
def imageHead (c : Ctx) (fe : FeId) (savecnt : Word) : List Byte :=
  let idx := if c.prot then c.ident.scidx.getD 0#16 else 0#16
  let flags : Byte := (0#5 ++ BitVec.ofBool c.regs.loop.active ++ BitVec.ofBool c.gen.isParked ++ BitVec.ofBool c.prot : BitVec 8)
  natBytes 0x5358494D 4 ++ natBytes 1 2 ++ [flags, 0#8] ++ natBytes fe.toNat 2 ++ natBytes 15 2 ++ natBytes c.ident.task.toNat 4
    ++ natBytes c.ident.kern.toNat 4 ++ natBytes c.ident.bid.toNat 4 ++ wordBytes (if c.prot then savecnt else 0#64)
    ++ natBytes idx.toNat 2 ++ List.replicate 46 0#8
/-- The IV of an image (R388): SCIDX, SAVECNT, two zero bytes. -/
def imageIv (scidx : BitVec 16) (savecnt : Word) : List Byte := natBytes scidx.toNat 2 ++ wordBytes savecnt ++ [0#8, 0#8]

/-- The directory entries of a header in use: the first NSEC of its 20, as ID, offset and length. -/
def dirEntries (h : List Byte) : List (Nat × Nat × Nat) :=
  (List.range (min 20 (bytesAt h 10 2))).map (fun i =>
    let e := bytesAt h (96 + 8 * i) 8
    (e % 256, e / 256 % 2 ^ 28, e / 2 ^ 36))
/-- Bytes of the image behind the header. -/
def dirExtent (h : List Byte) : Nat := (dirEntries h).foldl (fun n e => max n (64 * (e.2.1 + e.2.2))) 256 - 256
/-- The directory names each of the sections 1 to 15 once, behind the header. -/
def dirOk (h : List Byte) : Bool :=
  (List.range 15).all (fun i => ((dirEntries h).filter (fun e => e.1 == i + 1)).length == 1) && (dirEntries h).all (fun e => decide (4 ≤ e.2.1))
/-- The bytes of a section, taken from the bytes behind the header. -/
def sectionOf (h body : List Byte) (id : Nat) : List Byte :=
  match (dirEntries h).find? (fun e => e.1 == id) with
  | none => []
  | some e => (body.drop (64 * e.2.1 - 256)).take (64 * e.2.2)

/-! ### The context that an image holds -/

/-- What an instruction of the Milliner that waited does: it executes again (R110). -/
def GenStat.afresh : GenStat → GenStat
  | .running | .pushStall | .waitStall => .running
  | .parked c => .parked c
  | .halted => .halted

/-- The context that header h and the bytes behind it hold, for the kernel that KERN names, where every section is laid out as R386
says; free values are taken from number f on. -/
def readImage (f : Nat) (k : Kernel) (h body : List Byte) : Option Ctx := do
  let at' (id : Nat) : List Byte := sectionOf h body id
  let (g, b, gpc, ep, es, fifo, pop, npop, pages, snap, stat) ← codec1.read (at' 1)
  let run ← codecGroup.list.read (at' 2)
  let (s, p, skip, loop, win, fmt, ten, prio, chans, band, kvpol, runbp, stops, idle, exi, den, clean) ← codec3.read (at' 3)
  let v ← (codecVReg.vec 64 zeroVReg).read (at' 4)
  let (m, rings, radv, scale, mrun, rs, mc, ovf, tovf, tnan, froz, saved) ← codec5.read (at' 5)
  let (acc, accBand, accPoison) ← (codec6 (kUnits k)).read (at' 6)
  let (alg, algNew) ← codec7.read (at' 7)
  let streams ← (codecStream.vec 8 zeroStream).read (at' 8)
  let ((cr, cg, crec, cb, cp, cw, ce), pend, beat, seq, pseq) ← codec9.read (at' 9)
  let lines ← (codecLine.dense (kWindow k / 256) zeroSpmLine).read (at' 10)
  let (ch, stallc) ← readChans f (at' 11)
  let segs ← (codec12 (kWeir k)).read (at' 12)
  let softmax ← codecSoftmax.read (at' 13)
  let tl ← (codecTimeline.vec 4 ⟨0#64, 0#64⟩).read (at' 14)
  let (sealcnt, cipher) ← codec15.read (at' 15)
  let prot := (byteAt h 6).getLsbD 0
  return { Ctx.reset with
    life := .bound
    ident := ⟨BitVec.ofNat 32 (bytesAt h 12 4), BitVec.ofNat 32 (bytesAt h 16 4), BitVec.ofNat 32 (bytesAt h 20 4), BitVec.ofNat 9 (bytesAt h 8 2),
      ten, prio, chans, if prot then some (BitVec.ofNat 16 (bytesAt h 32 2)) else none⟩
    band := band
    regs := { s := s, p := p, v := v, m := m, fmt := fmt, kvpol := kvpol, skip := skip, loop := loop, softmax := softmax, streams := streams,
              win := win }
    gen := { g := g, b := b, gpc := gpc, eprog := ep, eseq := es, fifo := fifo, popped := pop, popCount := npop, runnel := run, snap := snap,
             runbp := runbp, stat := stat.afresh }
    spm := ⟨kWindow k, lines, [], []⟩
    eng := { mat := { acc := acc, accPoison := accPoison, accBand := accBand, units := kUnits k, alg := alg, algNew := algNew, rings := rings,
                      radv := radv, scale := scale, ovf := ovf, tovf := tovf, tnan := tnan, frozen := froz, run := mrun, bypass := none, mc := mc,
                      saved := saved, rs := rs }
             ch := ch, tl := tl, weirSegs := kWeir k, cipher := cipher, cipherRun := false
             weir := Vector.ofFn (fun i => segs[i.val]?.getD (WeirSeg.init band)) }
    pend := pend.map (Pend.ofDist beat), beat := beat, nextSeq := seq, predSeq := pseq
    chk := ⟨cr, cg, crec.map (Pend.ofDist cb), cb, cp, cw, ce⟩
    idle := idle, stops := stops, denial := den, sealcnt := sealcnt, stallc := stallc, prot := prot, pages := pages, exiting := exi, clean := clean }

end Sys2Proof.Machine
end

