-- ==== Sys2Proof/Machine/Crown.lean ====
section
/-! DEFINITION. The Crown's control of front ends, the Rinse and context images (13_system R361, R365 to R367, R382 to R390,
12_tasks R348, R352). -/
namespace Sys2Proof.Machine

/-! ### Commands (R365, R367) -/

/-- The Milliner executes the instruction that GPC names (R107). -/
def Gen.release (g : Gen) : Gen := { g with stat := .running }

/-- RESUME (R367): a stopped context runs again; a parked Milliner of a running context retries. -/
def resumeCmd (s : State) (fe : FeId) : State :=
  let c := s.ctx fe
  if c.mayResume then resumeCtx s fe
    else if c.life = .running ∧ c.gen.isParked then s.setCtx fe { c with gen := c.gen.release }
    else s.countError
/-- RESUME (R367). -/
def execResume (fe : FeId) (s : State) : Out := .next (resumeCmd s fe)

/-- KILL (R352, R367). -/
def killCmd (s : State) (fe : FeId) : State :=
  let c := s.ctx fe
  if c.life = .running ∨ c.life = .stopped then killCtx s fe else s.countError
/-- KILL (R352, R367). -/
def execKill (fe : FeId) (s : State) : Out := .next (killCmd s fe)

/-- STOP (R365): ARG 0 asks for A61, ARG 1 for A62. -/
def stopCmd (s : State) (fe : FeId) (arg : BitVec 4) : State :=
  let c := s.ctx fe
  if c.life ≠ .running then s.countError
    else if arg = 0#4 then s.setCtx fe { c with stops := { c.stops with a61 := true } }
    else if arg = 1#4 then s.setCtx fe { c with stops := { c.stops with a62 := true } }
    else s.countError
/-- STOP (R365). -/
def execStop (fe : FeId) (arg : BitVec 4) (s : State) : Out := .next (stopCmd s fe arg)

/-- INTR (R365): A60 with software code 0. -/
def intrCmd (s : State) (fe : FeId) : State :=
  let c := s.ctx fe
  if c.life = .running then s.setCtx fe { c with stops := { c.stops with a60 := some (c.stops.a60.getD 0#16) } } else s.countError
/-- INTR (R365). -/
def execIntr (fe : FeId) (s : State) : Out := .next (intrCmd s fe)

/-- RELCH (R293, R367): a parked channel of a running context retries its data beat. -/
def relchCmd (s : State) (fe : FeId) (ch : Bool) : State :=
  let c := s.ctx fe
  if c.life = .running ∧ (c.chan ch).parked.isSome then s.modChan fe ch (fun x => { x with parked := none }) else s.countError
/-- RELCH (R293, R367). -/
def execRelch (fe : FeId) (ch : Bool) (s : State) : Out := .next (relchCmd s fe ch)

/-! ### The Rinse (R382, R383) -/

/-- RINSE_COMPLETE: a started cipher command has finished, everything that the context held is cleared, and its front end is
unbound. -/
def execRinseComplete (fe : FeId) (s : State) : Out :=
  .next (if (s.ctx fe).life = .rinsing ∧ (s.ctx fe).eng.cipher.isEmpty then unbindCtx s fe else s)

/-! ### The save-counter table (R388) -/

/-- Entry i of the save-counter table: its base since device reset, and what it has advanced. -/
def saveEntry (s : State) (i : BitVec 16) : Word := (Config.saveBase s.hw.epoch i ++ 0#40 : BitVec 64) + mget 0#64 s.hw.savecnt i.toNat
def advanceEntry (s : State) (i : BitVec 16) : State :=
  { s with hw := { s.hw with savecnt := mset 0#64 s.hw.savecnt i.toNat (mget 0#64 s.hw.savecnt i.toNat + 1#64) } }

/-! ### The image of a context (R385 to R388) -/

/-- The image of a context: its header and the bytes behind it, sealed under the image key when it is protected. -/
def makeImage (s : State) (fe : FeId) (c : Ctx) : List Byte × List Byte :=
  let secs := imageSections c
  let dir := ((imageDir 4 1 secs).flatMap wordBytes ++ List.replicate 40 0#8)
  let idx := c.ident.scidx.getD 0#16
  let cnt := saveEntry s idx
  let h := imageHead c fe cnt
  if c.prot then
    let r := gcmEncrypt (Config.imageKey s.hw.epoch c.ident.tenant c.ident.bid) (imageIv idx cnt) (h ++ dir) secs.flatten
    (h ++ r.2 ++ dir, r.1)
  else (h ++ List.replicate 16 0#8 ++ dir, secs.flatten)

/-! ### SAVE (R191, R295, R381, R388) -/

/-- SAVE: a stopped context's engines come to rest, and the port works. -/
def saveCmd (s : State) (fe : FeId) : State :=
  let c := s.ctx fe
  if c.life = .stopped ∧ !c.img.busy then
      s.setCtx fe { c.releaseGate with img := { c.img with busy := true, pendSt := 0#4, saved := false } }
    else s.countError
/-- SAVE (R388). -/
def execSave (fe : FeId) (s : State) : Out := .next (saveCmd s fe)

/-- The engines rest, every memory access of the landing record has its result, and a protected context has its save-counter index
(R191, R295, R360, R381, R388). -/
def saveReady (c : Ctx) : Bool :=
  (!c.prot || c.ident.scidx.isSome) && c.pend.all (fun p => !p.outstanding) && !c.eng.cipherRun && c.eng.mat.bypass.isNone
  && (match c.eng.mat.run with
    | none => true
    | some r => r.frozen)
  && c.eng.ch.toList.all (fun x => !x.headDone || x.parked.isSome)

/-- Writes whole lines at an address, which lose their poison (R230). -/
def putImageBytes (s : State) (a : Nat) (l : List Byte) : State :=
  (List.range (l.length / 64)).foldl (fun (s : State) i => s.setLinePoison (a + 64 * i) false) { s with mem := memWrites s.mem a l }

/-- The context's unstarted matrix commands leave the queue, and its channels' translation caches are emptied (R191, R295). -/
def restEngines (s : State) (fe : FeId) : State :=
  let k := coreOf fe
  let co := s.core k
  let mine := co.mq.filter (fun m => m.fe == fe)
  let s := s.setCore k { co with mq := co.mq.filter (fun m => m.fe != fe), cleaves := co.cleaves.filter (fun p => p.2.fe != fe) }
  s.modCtx fe (fun c => { c with eng := { c.eng with mat := { c.eng.mat with saved := mine ++ c.eng.mat.saved } } })

/-- The scratchpad stores of a context that rests are visible in its window (R386). -/
def Ctx.imaged (c : Ctx) : Ctx :=
  { c with spm := { c.spm with lines := (c.spm.stores.foldl Spm.apply c.spm).lines, stores := [], undo := [] } }

/-- The image port writes the image at IMGADDR (R387, R388). -/
def writeImage (s : State) (fe : FeId) : State :=
  let s := restEngines s fe
  let c := s.ctx fe
  let s := if c.prot then advanceEntry s (c.ident.scidx.getD 0#16) else s
  let im := makeImage s fe c.imaged
  let bytes := im.1 ++ im.2
  let s := putImageBytes s c.img.addr.toNat bytes
  s.setCtx fe { c with img := { c.img with busy := false, st := 1#4, len := BitVec.ofNat 32 bytes.length, saved := true } }

/-! ### UNBIND (R330, R367) -/

/-- UNBIND: after a save the context leaves, and its task holds the image; without one it is killed. What the context has made and
observed happens before the accesses of its gang after the restore (assumption log 13). -/
def unbindCmd (s : State) (fe : FeId) : State :=
  let c := s.ctx fe
  if c.life ≠ .stopped then s.countError
    else if c.img.saved ∧ !c.img.busy then
      let out := Clock.join (s.clockOf fe) [(agentChan fe false, s.stamp), (agentChan fe true, s.stamp)]
      let s := s.modTask c.ident.task (fun t => { t with saved := t.saved ++ [(fe, c.img.addr)], sync := Clock.join t.sync out })
      taskLeft (departCtx s fe) c.ident.task
    else killCtx s fe
/-- UNBIND (R367). -/
def execUnbind (fe : FeId) (s : State) : Out := .next (unbindCmd s fe)

/-! ### RESTORE (R389, R390) -/

/-- The image's place fits: MAGIC, VER, NSEC, directory and FEID (R389). -/
def imagePlaceOk (fe : FeId) (h : List Byte) : Bool :=
  bytesAt h 0 4 == 0x5358494D && bytesAt h 4 2 == 1 && bytesAt h 8 2 == fe.toNat && decide (1 ≤ bytesAt h 10 2 ∧ bytesAt h 10 2 ≤ 20) && dirOk h

/-- The tenant under whose image key a sealed image stands (R388): that of its task. -/
def imageTenant (s : State) (h : List Byte) : BitVec 4 := ((s.task (BitVec.ofNat 32 (bytesAt h 12 4))).map (·.tenant)).getD 0#4
/-- The plain bytes of the sections; none where the tag of a sealed image does not verify (R388, R389). -/
def openImage (s : State) (h body : List Byte) : Option (List Byte) :=
  if (byteAt h 6).getLsbD 0 then
    gcmDecrypt (Config.imageKey s.hw.epoch (imageTenant s h) (BitVec.ofNat 32 (bytesAt h 20 4)))
      (imageIv (BitVec.ofNat 16 (bytesAt h 32 2)) (BitVec.ofNat 64 (bytesAt h 24 8))) (h.take 80 ++ h.drop 96) body ((h.drop 80).take 16)
  else some body

/-- A poisoned line within the n bytes at an address. -/
def rangePoisoned (s : State) (a n : Nat) : Bool := (List.range ((n + 63) / 64)).any (fun i => hwPoison s (a + 64 * i))

/-- The checks of R389 in their order: the code for IMGST, and the context that an accepted image holds. An image of a kernel that does
not exist, or with a section that is not laid out as R386 says, is refused like one with a bad directory. -/
def checkImage (s : State) (fe : FeId) (a : Nat) : BitVec 4 × Option Ctx :=
  let h := memReads s.mem a 256
  if !imagePlaceOk fe h then (2#4, none)
  else
    let prot := (byteAt h 6).getLsbD 0
    let entry := (saveEntry s (BitVec.ofNat 16 (bytesAt h 32 2))).toNat
    let cnt := bytesAt h 24 8
    let n := dirExtent h
    if prot && decide (cnt < entry) then (3#4, none)
    else if prot && decide (entry < cnt) then (4#4, none)
    else
      match openImage s h (memReads s.mem (a + 256) n) with
      | none => (4#4, none)
      | some body =>
        if rangePoisoned s a (256 + n) then (5#4, none)
        else
          match kernelOf s (BitVec.ofNat 32 (bytesAt h 16 4)) with
          | none => (2#4, none)
          | some k =>
            match readImage s.fresh k h body with
            | none => (2#4, none)
            | some m => (1#4, some m)

/-- What happens before the accesses of a restored context: what its gang had made and observed when it left, and what Headwater and
the Crown have written (R389; assumption log 13). -/
def restoredOrder (s : State) (task : BitVec 32) : Order :=
  let now := Clock.join (((s.task task).map (·.sync)).getD []) [(agentOutside, s.stamp), (agentDevice, s.stamp)]
  ⟨now, Vector.replicate 4 now, Vector.replicate 4 [], [], []⟩

/-- The state of an accepted image at its front end, whose own registers `c` stay (R376, R389): the kernel's pages are those of
`pages` whose saved entry has V = 1, and the keys come from Headwater. -/
def loadCtx (c m : Ctx) (pages : List (Nat × BitVec 7)) (ord : Order) : Ctx :=
  { m with held := c.held, dbg := c.dbg, img := c.img, nextSeq := max c.nextSeq m.nextSeq, stq := c.stq, ord := ord,
           keys := Vector.ofFn (fun i : Fin 4 => Config.key m.ident.tenant (BitVec.ofNat 2 i.val)),
           pages := pages.filter (fun p => (mget 0#7 m.pages p.1).getLsbD 6) }

/-- Restores one context at its place (R389): IMGST and IMGLEN, the advanced table entry, the state, the kernel mapped afresh, the
Crown's `tfence`. -/
def restoreOne (s : State) (fe : FeId) (a : Nat) : State × BitVec 4 :=
  let n := 256 + dirExtent (memReads s.mem a 256)
  match checkImage s fe a with
  | (st, none) => (hwRead s a n, st)
  | (st, some m) =>
    let s := { hwRead s a n with fresh := s.fresh + 512 }
    let s := if m.prot then advanceEntry s (m.ident.scidx.getD 0#16) else s
    match kernelOf s m.ident.kern with
    | none => (s, st)
    | some k =>
      let c := s.ctx fe
      let x := loadCtx { c with img := { c.img with len := BitVec.ofNat 32 n, saved := false } } m (storePages s fe m.ident.kern k)
        (restoredOrder s m.ident.task)
      let s := mapKernel (s.setCtx fe x) fe k x.pages
      let n := coreOf fe
      (dropRewritten (s.setCore n ((s.core n).clearLeft fe x.spm.size)) fe 1#2, st)

/-- A refused restore (R389, R390): the contexts restored so far leave without running, and the task is abandoned with its images. -/
def restoreRefused (s : State) (id : BitVec 32) (fe : FeId) (st : BitVec 4) : State :=
  let s := s.traceEv ⟨1#8, 7#8, fe.setWidth 16, zext64 id, zext64 st⟩
  match s.task id with
  | none => s
  | some t => abandonTask ((t.live).foldl departCtx s) t

/-- A restored gang runs (R21, R332, R359, R390). -/
def runRestored (s : State) (t : Task) : State :=
  let s := t.saved.foldl (fun s p => resumeCtx s p.1) s
  let s := s.modTask t.id (fun t =>
    { t with st := .running, images := false, saved := [], live := t.saved.map (·.1), place := t.saved.map (·.1), age := 0,
             boundAt := s.disp.binds })
  taskEvent { s with disp := { s.disp with binds := s.disp.binds + 1, turn := t.tenant + 1#4 } } t.id 2#8

/-- Restores the saved places that remain, or refuses the gang (R390). -/
def restoreAll (s : State) (id : BitVec 32) : List (FeId × Word) → State
  | [] => match s.task id with
    | some t => runRestored s t
    | none => s
  | (fe, a) :: rest =>
    match restoreOne s fe a.toNat with
    | (s, st) =>
      let s := s.modCtx fe (fun c => { c with img := { c.img with st := st, addr := a } })
      if st = 1#4 then restoreAll (s.modTask id (fun t => { t with live := t.live ++ [fe] })) id rest
      else restoreRefused s id fe st

/-- GANG_RESTORE (R330, R390): a gang holding images that the dispatcher reaches is restored as a whole, once every saved place is free
and has room. -/
def execGangRestore (task : BitVec 32) (s : State) : Out :=
  .next (match s.task task with
    | none => s
    | some t =>
      if s.disp.en && !s.disp.hold && t.st == .eligible && t.images && reaches s task && canPlace s t [] then restoreAll s task t.saved
      else s)

/-- RESTORE (R367, R389): the Crown's command for one front end. -/
def restoreCmd (s : State) (fe : FeId) : State :=
  let c := s.ctx fe
  if c.life ≠ .unbound ∨ c.img.busy ∨ !c.held.isEmpty then s.countError
    else
      let a := c.img.addr.toNat
      let id : BitVec 32 := BitVec.ofNat 32 (bytesAt (memReads s.mem a 256) 12 4)
      match restoreOne s fe a with
      | (s, st) =>
        let s := s.modCtx fe (fun c => { c with img := { c.img with busy := true, pendSt := st } })
        if st = 1#4 then s.modTask id (fun t => { t with live := t.live ++ [fe] })
        else restoreRefused s id fe st
/-- RESTORE (R389). -/
def execRestore (fe : FeId) (s : State) : Out := .next (restoreCmd s fe)

/-- Every saved place of a task is bound and its port rests. -/
def gangRestored (s : State) (t : Task) : Bool :=
  t.st == .eligible && t.images && !t.saved.isEmpty
  && t.saved.all (fun p => (s.ctx p.1).life == .bound && (s.ctx p.1).ident.task == t.id && !(s.ctx p.1).img.busy)

/-- IMAGE_PORT_DONE (R387 to R390): a save writes its image once the engines rest; a restore's result reaches IMGST, and the last
restore of a gang lets it run. -/
def execImagePortDone (fe : FeId) (s : State) : Out :=
  let c := s.ctx fe
  .next (if !c.img.busy then s
    else
      match c.life with
      | .stopped =>
        let s := giveScidx s fe
        if saveReady (s.ctx fe) then releasePri (writeImage s fe) fe else s
      | .unbound | .bound | .running | .rinsing =>
        let s := s.setCtx fe { c with img := { c.img with busy := false, st := c.img.pendSt } }
        match s.task c.ident.task with
        | some t => if gangRestored s t then runRestored s t else s
        | none => s)

end Sys2Proof.Machine
end

