-- ==== Sys2Proof/Machine/Host.lean ====
section
/-! DEFINITION. Hosts and the pool: HDM accesses, bias, doorbells and queues, host loss, IDE, pool heads, dynamic capacity
(14_host_pool R392 to R413, 12_tasks R353, 15_platform R422). -/
namespace Sys2Proof.Machine

/-! ### Command windows and queues (R396 to R398, R400) -/

/-- Words of a queue as the dispatcher keeps them, without the control block. -/
def State.putCwq (s : State) (w q : BitVec 6) (x : CwQueue) : State :=
  { s with disp := { s.disp with queues := mset CwQueue.reset s.disp.queues (qNum w q) x } }
/-- Word 0 of a queue's control block. -/
def qWord0 (s : State) (w q : BitVec 6) : Word := s.word8 (qBlock w q)
/-- The 4 KiB units of a ring. -/
def ringUnits (qszl : Nat) : Nat := (2 ^ qszl * 64 + 4095) / 4096

/-- The configuration of word 0 is refused (R397). -/
def badConfig (s : State) (w q : BitVec 6) (w0 : Word) : Bool :=
  let rb := (w0.extractLsb' 8 12).toNat
  let sz := (w0.extractLsb' 4 4).toNat
  w0.extractLsb' 20 44 != 0#44 || w0.getLsbD 3 || rb < 4 || 255 < rb || sz < 4 || 12 < sz
  || decide (256 * 4096 < rb * 4096 + 2 ^ sz * 64)
  || (List.range 64).any (fun i =>
      let y := s.cwq w (BitVec.ofNat 6 i)
      i != q.toNat && y.isOn && decide (rb < y.rbase.toNat + ringUnits y.qszl.toNat ∧ y.rbase.toNat < rb + ringUnits sz))

/-- QUEUE_ENABLE (R397): the dispatcher sees EN change from 0 to 1. -/
def execQueueEnable (win q : BitVec 6) (s : State) : Out :=
  let x := s.cwq win q
  let w0 := qWord0 s win q
  .next (if !winOn s win || !w0.getLsbD 0 || x.en || x.tearing then s
    else if badConfig s win q w0 then s.setCwq win q { x with en := true, isOn := false, badcfg := true }
    else s.setCwq win q { x with en := true, isOn := true, badcfg := false, rbase := w0.extractLsb' 8 12, qszl := w0.extractLsb' 4 4, bell := true })

/-- One queue in a scan: EN = 0 turns it off, else it is to be examined. -/
def scanQueue (s : State) (n : Nat) : State :=
  let w := BitVec.ofNat 6 (n / 64)
  let q := BitVec.ofNat 6 (n % 64)
  let x := s.cwq w q
  if x.en && !(qWord0 s w q).getLsbD 0 then s.setCwq w q { x with en := false, isOn := false }
  else if x.isOn then s.putCwq w q { x with bell := true } else s
/-- DISPATCHER_SCAN (R398): the dispatcher examines each queue that is on. -/
def execDispatcherScan (s : State) : Out := .next ((s.disp.queues.map (·.1)).foldl scanQueue s)

/-! ### Host accesses to HBM (R393, R394, R399, R402, R403, R410) -/

/-- The first page of an aperture entry, its last one, and its V, W and R bits. -/
def aperHas (e : Word × Word) (page : Nat) : Bool :=
  e.1.getLsbD 0 && decide ((e.1.extractLsb' 12 40).toNat ≤ page ∧ page ≤ (e.2.extractLsb' 12 40).toNat)
def aperAllows (l : HostLink) (page : Nat) (write : Bool) : Bool :=
  l.aper.toList.any (fun e => aperHas e page && (if write then e.2.getLsbD 1 else e.2.getLsbD 0))
/-- The window that a page of the command-window area belongs to. -/
def pageWindow (page : Nat) : BitVec 6 := BitVec.ofNat 6 ((page - 0x5FFC000) / 256)

/-- A page lies in a guarded pool (R321). -/
def guardedPage (s : State) (page : Nat) : Bool := (regionOf s 0#2 (4096 * page)).any (fun r => r.attr.getLsbD 7)
/-- A byte of a header that holds its CRC: writes of it are ignored (R321). -/
def crcByte (s : State) (a : Nat) : Bool := a / 4096 % 64 == 62 && decide (60 ≤ a % 64) && guardedPage s (a / 4096)

/-- A host access to a page is admitted (R393, R394); no access may name page 63 of a guarded frame (R321). -/
def admitted (s : State) (port : Bool) (page : Nat) (write : Bool) : Bool :=
  if page % 64 == 63 && guardedPage s page then false
  else if windowPage page then winOn s (pageWindow page) && winPort s (pageWindow page) == port
  else decide (page < 0x6000000) && aperAllows (portLink s port) page write
    && (match regionOf s 0#2 (4096 * page) with
      | some r => r.attr.extractLsb' 2 2 == 1#2 && !r.attr.getLsbD 19
      | none => false)

/-- The pages of a request. -/
def HostReq.pages (r : HostReq) : List Nat :=
  let n := match r.write with
    | some d => d.length
    | none => r.len
  (List.range ((r.hpa % 4096 + max 1 n + 4095) / 4096)).map (fun i => r.hpa / 4096 + i)

/-- The device's answer to a refused request (R393): poison, or a dropped write; counted and traced. -/
def refuseHost (s : State) (r : HostReq) : State :=
  let s := s.countError.traceEv ⟨3#8, 2#8, if r.port then 1#16 else 0#16, BitVec.ofNat 64 r.hpa, 0#64⟩
  match r.write with
  | some _ => s
  | none => s.emit (.hostData r.port (List.replicate r.len 0#8) true)

/-- A byte that the host may not write: all of a queue control block but word 0 (R397). -/
def controlByte (a : Nat) : Bool :=
  windowPage (a / 4096) && decide ((a - 0x5FFC000000) % 0x100000 < 16384) && decide (8 ≤ a % 256)
/-- The queue whose word 0 an address is the first byte of. -/
def word0Queue (a : Nat) : Option Nat :=
  if windowPage (a / 4096) && decide ((a - 0x5FFC000000) % 0x100000 < 16384) && a % 256 == 0 then
    some ((a - 0x5FFC000000) / 0x100000 * 64 + (a - 0x5FFC000000) % 0x100000 / 256)
  else none
/-- A write of a queue's word 0 with TEAR or RST asks the dispatcher; while one is being served it has no effect (R401). -/
def noteRequest (s : State) (a : Nat) (b : Byte) : State :=
  match word0Queue a with
  | none => s
  | some n =>
    let w := BitVec.ofNat 6 (n / 64)
    let q := BitVec.ofNat 6 (n % 64)
    let x := s.cwq w q
    if x.tearing then s else s.putCwq w q { x with tearReq := x.tearReq || b.getLsbD 1, rstReq := x.rstReq || b.getLsbD 2 }

/-- An admitted request in H bias performs (R402, R410): the writes of the hosts perform in order, each a release of those before it
(R399). -/
def performHost (s : State) (r : HostReq) : State :=
  match r.write with
  | none =>
    let pz := (List.range r.len).any (fun i => hwPoison s (r.hpa + i))
    (hwRead s r.hpa r.len).emit (.hostData r.port (memReads s.mem r.hpa r.len) pz)
  | some d =>
    let data := (d.zipIdx.map (fun x => (r.hpa + x.2, x.1))).filter (fun x => !controlByte x.1 && !crcByte s x.1)
    let s := recordStore s agentOutside 3#2 (Vector.replicate 4 [(agentOutside, s.stamp)]) none (data.map (·.1))
    let s := { s with mem := data.foldl (fun m x => memWrite m x.1 x.2) s.mem }
    let s := data.foldl (fun s x => mediaWritten s 64 x.1) s
    let s := performPoison s data (if r.poison then (data.map (fun x => x.1 / 64)).eraseDups else [])
    data.foldl (fun s x => noteRequest s x.1 x.2) s

/-- A request that is not held: admission, bias, performance. -/
def hostAccess (s : State) (r : HostReq) : State :=
  if r.pages.any (fun p => !admitted s r.port p r.write.isSome || biasOf s p == 0#2) then refuseHost s r else performHost s r
/-- A request waits: its port is parked, or a page of it is changing its bias (R403, R412). -/
def hostWaits (s : State) (r : HostReq) : Bool :=
  s.hw.parked.getLsbD (if r.port then 1 else 0)
  || (r.bell.isNone && r.pages.all (fun p => admitted s r.port p r.write.isSome) && r.pages.any (fun p => 2#2 ≤ biasOf s p))
/-- A doorbell of the port: its queue is to be examined; a window of another port, or of none, is counted (R400). -/
def ringBell (s : State) (port : Bool) (win q : BitVec 6) : State :=
  let x := s.cwq win q
  if winOn s win ∧ winPort s win = port then (if x.isOn then s.putCwq win q { x with bell := true } else s) else s.countError
/-- Serves a request: a doorbell rings, a flushing read answers with its queue's CONS (R400). -/
def serveHost (s : State) (r : HostReq) : State :=
  match r.bell with
  | some n =>
    let win := BitVec.ofNat 6 (n / 64)
    let q := BitVec.ofNat 6 (n % 64)
    if r.write.isSome then ringBell s r.port win q
    else s.emit (.doorbellValue r.port (if winOn s win && winPort s win == r.port then (s.cwq win q).cons else 0#64))
  | none => hostAccess s r

/-- Held requests in order: those that need not wait any more are served; a doorbell and its read wait for the writes before them. -/
def releaseHost (s : State) : List HostReq → State
  | [] => s
  | r :: rest =>
    if hostWaits s r || (r.bell.isSome && s.heldHost.any (fun x => x.port == r.port && x.write.isSome)) then
      releaseHost { s with heldHost := s.heldHost ++ [r] } rest
    else releaseHost (serveHost s r) rest
def retryHost (s : State) : State := releaseHost { s with heldHost := [] } s.heldHost

/-- HOST_MEM_ACCESS (R393): a read or write of the HDM; nothing arrives over a link that is down. -/
def execHostMemAccess (port : Bool) (hpa : Word) (write : Option (List Byte)) (len : BitVec 8) (poison : Bool) (s : State) : Out :=
  let r : HostReq := ⟨port, hpa.toNat, write, len.toNat, poison, none⟩
  .next (if !(portLink s port).lup then s
    else if hostWaits s r then { s with heldHost := s.heldHost ++ [r] } else hostAccess s r)

/-- A doorbell access waits while its port is parked, and behind the held writes of its port (R400, R412). -/
def bellWaits (s : State) (r : HostReq) : Bool := hostWaits s r || s.heldHost.any (fun x => x.port == r.port && x.write.isSome)
/-- DOORBELL (R400): the examination that it asks for sees every write that the device received before it. -/
def execDoorbell (port : Bool) (win q : BitVec 6) (s : State) : Out :=
  let r : HostReq := ⟨port, 0, some [], 0, false, some (qNum win q)⟩
  .next (if !(portLink s port).lup then s
    else if bellWaits s r then { s with heldHost := s.heldHost ++ [r] } else ringBell s port win q)
/-- DOORBELL_READ (R400): a flushing read. -/
def execDoorbellRead (port : Bool) (win q : BitVec 6) (s : State) : Out :=
  let r : HostReq := ⟨port, 0, none, 0, false, some (qNum win q)⟩
  .next (if !(portLink s port).lup then s
    else if bellWaits s r then { s with heldHost := s.heldHost ++ [r] } else serveHost s r)

/-! ### Teardown and reset of a queue (R353, R401) -/

/-- CONS passes each entry whose seal word is there (R401, step 2). -/
def skipSealed (s : State) (w : BitVec 6) (x : CwQueue) : Nat → CwQueue
  | 0 => x
  | n + 1 => if sealed s w x then skipSealed s w { x with cons := x.cons + 1#64 } n else x

/-- Every context of a task stops as in R352. -/
def silenceTask (s : State) (id : BitVec 32) : State :=
  { s with ctxs := s.ctxs.map (fun (p : Nat × Ctx) =>
      if p.2.ident.task = id ∧ (p.2.life = .running ∨ p.2.life = .stopped ∨ p.2.life = .bound)
      then (p.1, { p.2 with stops := { p.2.stops with silent := true } }) else p) }

/-- Tears down one task (R353). -/
def tearTask (s : State) (t : Task) : State :=
  match t.st with
  | .waiting | .eligible => abandonTask (t.live.foldl departCtx s) t
  | .running | .failed =>
    let s := (statusSet s t.sigc 0x80#8).modTask t.id (fun t => { t with torn := true })
    taskEvent (silenceTask s t.id) t.id 4#8

/-- Steps 1 to 3 of R401. -/
def tearQueue (s : State) (w q : BitVec 6) (resetting : Bool) : State :=
  let x := s.cwq w q
  let x := { x with isOn := false, tdone := false, tearing := true, tearReq := false, rstReq := false, resetting := resetting }
  let s := s.setCwq w q (if x.qszl = 0#4 then x else skipSealed s w x 4097)
  let n := qNum w q
  let s := { s with disp := { s.disp with launchq := s.disp.launchq.filter (fun l => l.origin != some n) } }
  (s.disp.tasks.filter (fun t => t.origin == some n && !t.torn)).foldl tearTask s

/-- QUEUE_TEARDOWN (R401). -/
def execQueueTeardown (win q : BitVec 6) (s : State) : Out :=
  let x := s.cwq win q
  .next (if winOn s win && x.tearReq && !x.tearing then tearQueue s win q false else s)
/-- QUEUE_RESET (R401). -/
def execQueueReset (win q : BitVec 6) (s : State) : Out :=
  let x := s.cwq win q
  .next (if winOn s win && x.rstReq && !x.tearing then tearQueue s win q true else s)

/-- TEARDOWN_DONE (R401, step 4): no context of the queue's tasks is left; after a reset a queue that has a
latched ring is on again. -/
def execTeardownDone (win q : BitVec 6) (s : State) : Out :=
  let x := s.cwq win q
  let n := qNum win q
  let mine (t : Task) : Bool := t.torn && t.origin == some n
  .next (if !x.tearing || (s.disp.tasks.filter mine).any (fun t => taskBound s t.id) then s
    else
      let s := (s.disp.tasks.filter mine).foldl (fun s t => s.dropTask t.id) s
      s.setCwq win q { x with tearing := false, tdone := true, isOn := x.resetting && x.en && x.qszl != 0#4, bell := true })

/-! ### Bias (R402 to R404) -/

/-- A page enters a state. -/
def setBias (s : State) (page : Nat) (b : BitVec 2) : State := { s with bias := mset 0#2 s.bias page b }

/-- The bytes that the caches of all clusters hold dirty in [k, k + n) reach memory, and no cache holds a line of it. -/
def flushCaches (s : State) (k n : Nat) : State :=
  let dirty := s.clusters.flatMap (fun (p : Nat × Cluster) => p.2.ccd.filter (inRange k n) ++ p.2.l1d.filter (inRange k n))
  let hit (l : Nat) : Bool := decide (k < 64 * l + 64 ∧ 64 * l < k + n)
  let marks := s.clusters.flatMap (fun (p : Nat × Cluster) => p.2.ccp.filter (fun x => hit x.1) ++ p.2.l1p.filter (fun x => hit x.1))
  let s := marks.foldl putMark (dirty.foldl (fun s x => mediaWritten s 64 x.1) s)
  dropFilled { s with
    mem := dirty.foldl (fun m x => memWrite m x.1 x.2) s.mem
    clusters := s.clusters.map (fun (p : Nat × Cluster) =>
      (p.1, { p.2 with l1d := p.2.l1d.filter (fun x => !inRange k n x), ccd := p.2.ccd.filter (fun x => !inRange k n x),
                       l1p := p.2.l1p.filter (fun x => !hit x.1), ccp := p.2.ccp.filter (fun x => !hit x.1),
                       copies := p.2.copies.filter (fun x => !hit x.1), cpp := p.2.cpp.filter (fun x => !hit x.1) })) }
    (fun f => hit f.line)

def linkOf (s : State) (blk : BitVec 2) : HostLink := vget HostLink.reset s.links blk
def setLink (s : State) (blk : BitVec 2) (l : HostLink) : State := { s with links := vset s.links blk l }

/-- A running bias command goes on with its pages in order until one begins to flip or waits (R404). -/
def biasRun (s : State) (blk : BitVec 2) : Nat → State
  | 0 =>
    let l := linkOf s blk
    setLink s blk { l with bbusy := false }
  | n + 1 =>
    let l := linkOf s blk
    let page := l.bnext.toNat
    let target : BitVec 2 := if l.brdir then 0#2 else 1#2
    let b := biasOf s page
    if b = target ∨ 0x6000000 ≤ page then biasRun (setLink s blk { l with bdone := l.bdone + 1#16, bnext := l.bnext + 1#40 }) blk n
    else if 2#2 ≤ b then setLink s blk { l with bwait := 1 + s.links.toList.foldl (fun m x => max m x.bwait) 0 }
    else setBias s page (if l.brdir then 3#2 else 2#2)
/-- Pages that a command has not completed. -/
def biasLeft (l : HostLink) : Nat := l.btot.toNat - l.bdone.toNat
/-- The blocks whose commands stand at a page, in their order of arrival there: the one that has flipped it, then those that wait. -/
def biasOrder (s : State) (page : Nat) : List (BitVec 2) :=
  let here := [0#2, 1#2, 2#2].filter (fun blk => (linkOf s blk).bbusy && (linkOf s blk).bnext.toNat == page)
  (List.range (1 + s.links.toList.foldl (fun m x => max m x.bwait) 0)).flatMap (fun k => here.filter (fun blk => (linkOf s blk).bwait == k))
/-- The commands that stand at a page go on (R404). -/
def biasNext (s : State) (page : Nat) : State :=
  (biasOrder s page).foldl (fun s blk =>
    let l := { linkOf s blk with bwait := 0 }
    biasRun (setLink s blk l) blk (biasLeft l)) s

/-- A page lies in a region with SYS = 1. -/
def sysPage (s : State) (page : Nat) : Bool := (regionOf s 0#2 (4096 * page)).any (fun r => r.attr.getLsbD 19)
/-- The command is refused as a whole (R404). -/
def biasRefused (s : State) (blk : BitVec 2) : Bool :=
  let l := linkOf s blk
  let first := (l.bpage.extractLsb' 12 40).toNat
  l.bbusy || l.bcnt == 0#16
  || (List.range l.bcnt.toNat).any (fun i =>
      let p := first + i
      windowPage p || sysPage s p || (blk != 2#2 && !(l.aper.toList.any (fun e => aperHas e p))))

/-- Starts a bias command with a direction (R404). -/
def biasGo (s : State) (blk : BitVec 2) (dir : Bool) : State :=
  let l := linkOf s blk
  if blk = 3#2 then s.countError
  else if biasRefused s blk then setLink s blk { l with berr := true }
  else
    let l := { l with bdir := dir, brdir := dir, btot := l.bcnt, bbusy := true, bdone := 0#16, bnext := l.bpage.extractLsb' 12 40, bwait := 0 }
    biasRun (setLink s blk l) blk l.bcnt.toNat

/-- BIAS_GO_TO_H (R404). -/
def execBiasGoToH (blk : BitVec 2) (s : State) : Out := .next (biasGo s blk false)
/-- BIAS_GO_TO_D (R404). -/
def execBiasGoToD (blk : BitVec 2) (s : State) : Out := .next (biasGo s blk true)

/-- BIAS_FLIP_TO_H_DONE (R403): the device's caches have written the page back; what waited goes on. -/
def execBiasFlipToHDone (page : BitVec 40) (s : State) : Out :=
  let p := page.toNat
  .next (if biasOf s p ≠ 2#2 then s
    else retryHost (biasNext (setBias (flushCaches s (4096 * p) 4096) p 1#2) p))

/-- BIAS_FLIP_TO_D_DONE (R403): the last host copy is recalled; held host requests are refused. -/
def execBiasFlipToDDone (page : BitVec 40) (s : State) : Out :=
  let p := page.toNat
  .next (if biasOf s p ≠ 3#2 then s
    else
      let hits (r : HostReq) : Bool := r.bell.isNone && r.pages.contains p
      let refused := s.heldHost.filter hits
      let s := refused.foldl refuseHost { s with heldHost := s.heldHost.filter (fun r => !hits r) }
      retryHost (biasNext (setBias s p 0#2) p))

/-! ### Pool heads (R405, R409) -/

/-- A store by a processor outside the device performs in a cycle in which one reaches pool memory or a host's own memory (R258): where a
region names the place, the device's caches give up the line of a class that is coherent with others first (R402, R405). -/
def foreignStore (s : State) : State :=
  let shared (k : Nat) : Bool := match keyHost k with
    | some port => (regionOf s (if port then 2#2 else 1#2) (k % 2 ^ 60)).isSome
    | none => poolKey k && (regionOf s 0#2 k).isSome
  let coherent (k : Nat) : Bool := (keyHost k).isSome || (regionOf s 0#2 k).any (fun r => r.attr.extractLsb' 4 2 == 1#2)
  if !s.regions.toList.any (fun r => r.base.getLsbD 0 && (r.attr.extractLsb' 0 2 != 0#2 || decide (0x100000000 ≤ (r.base.extractLsb' 12 40).toNat)))
  then s
  else
    match Config.foreign s.cycle with
    | none => s
    | some (k, d) =>
      let data := (d.zipIdx.map (fun x => (k + x.2, x.1))).filter (fun x => shared x.1)
      let s := ((data.filter (fun x => coherent x.1)).map (fun x => x.1 / 64)).eraseDups.foldl (fun s l => flushCaches s (64 * l) 64) s
      let s := recordStore s agentOutside 3#2 (Vector.replicate 4 [(agentOutside, s.stamp)]) none (data.map (·.1))
      let s := { s with mem := data.foldl (fun m x => memWrite m x.1 x.2) s.mem }
      performPoison (data.foldl (fun s x => mediaWritten s 64 x.1) s) data []

/-- POOL_BACK_INVALIDATE (R405): the device's caches give up a BI line; memory answers with its data. -/
def execPoolBackInvalidate (addr : Word) (s : State) : Out :=
  let k := addr.toNat / 64 * 64
  .next (match regionOf s 0#2 k with
    | some r =>
      if poolKey k && r.attr.extractLsb' 4 2 == 1#2 then
        let s := flushCaches s k 64
        s.emit (.poolAnswer addr (memReads s.mem k 64))
      else s
    | none => s)

/-- The uncertain-write log takes a line address; entries beyond 256 set the overflow bit (R409). -/
def logUncertain (s : State) (line : Nat) : State :=
  if s.hw.uwlog.length < 256 then { s with hw := { s.hw with uwlog := s.hw.uwlog ++ [(64 * line, s.time)] } }
  else { s with hw := { s.hw with uwovf := true } }
/-- The SF lines that have a store outstanding on a port (R409). -/
def uncertainLines (s : State) (port : Nat) : List Nat :=
  (s.ctxs.flatMap (fun (p : Nat × Ctx) => p.2.stq.sb.flatMap (fun e => e.lines))).filter (fun l =>
    keyPort s (64 * l) == some port && poolKey (64 * l)
    && (regionOf s 0#2 (64 * l)).any (fun r => r.attr.extractLsb' 4 2 == 3#2))
/-- Requests on a port are reissued: SF lines with a store outstanding enter the log (R409, R412). -/
def reissue (s : State) (port : Nat) : State := (uncertainLines s port).foldl logUncertain s

/-- Clears the parked and the secure bit of a port, or sets them. -/
def setPorts (s : State) (port : Nat) (parked secure : Bool) : State :=
  let bit (v : Byte) (b : Bool) : Byte := if b then v ||| (1#8 <<< port) else v &&& ~~~(1#8 <<< port)
  { s with hw := { s.hw with parked := bit s.hw.parked parked, secure := bit s.hw.secure secure } }

/-- A class E event: to Headwater under its owner, and the trace freezes with the cause (R364, R425). -/
def eventE (s : State) (n : BitVec 6) (cause : Cause) (src : BitVec 16) (w : Word) : State :=
  raiseEvent (s.traceFreeze ⟨2#8, cause.code, src, w, 0#64⟩ cause.code) n [zext64 cause.code, zext64 src, w]

/-- A pool head is lost (R409). -/
def loseHead (s : State) (head : BitVec 2) : State :=
  if !s.hw.heads.getLsbD head.toNat then s
  else
    let port := head.toNat + 2
    let s := setPorts (reissue s port) port false false
    eventE { s with hw := { s.hw with heads := s.hw.heads &&& ~~~(1#4 <<< head.toNat) } } 3#6 .e82 (BitVec.ofNat 16 port) 0#64

/-- POOL_HEAD_LOSS (R409). -/
def execPoolHeadLoss (head : BitVec 2) (s : State) : Out := .next (loseHead s head)
/-- POOL_REQUEST_TIMEOUT (R409, R412): no timeout runs while the link's traffic is parked. -/
def execPoolRequestTimeout (head : BitVec 2) (s : State) : Out :=
  .next (if s.hw.parked.getLsbD (head.toNat + 2) then s else loseHead s head)
/-- UNCERTAIN_WRITE_LOG_CLEAR (R409). -/
def execUncertainWriteLogClear (s : State) : Out := .next { s with hw := { s.hw with uwlog := [], uwovf := false } }

/-! ### Host loss (R420, R422, R423) -/

/-- Every leaf of a tenant goes, and its accesses that have not performed translate again (R268, R420). -/
def dropTenant (s : State) (tenant : BitVec 4) : State :=
  dropLeaves { s with ctxs := s.ctxs.map (fun (p : Nat × Ctx) =>
    if p.2.ident.tenant = tenant then (p.1, p.2.staleAccesses (fun _ => true)) else p) } (fun l => (s.ctx l.fe).ident.tenant == tenant)

/-- A63 to the contexts of the tasks from the host's windows: a record, and they go on (R364, R422). -/
def noticeLoss (s : State) (port : Bool) : State :=
  let hit (id : BitVec 32) : Bool := s.disp.tasks.any (fun t => t.id == id && (match t.queue with
    | some n => winPort s (BitVec.ofNat 6 (n / 64)) == port
    | none => false))
  s.ctxs.foldl (fun s p =>
    let fe := BitVec.ofNat 9 p.1
    if isBound p.2 && hit p.2.ident.task then putRec s fe (mkRec s fe .a63 false 0#8 false false 0#16 0#16 0#64 0#64 0#64 0#64 0#64) else s) s

/-- The agent of a tenant of a lost host: Headwater when FBHW = 1 (R420, R422). -/
def switchAgent (s : State) (port : Bool) (i : Nat) : State :=
  let t := BitVec.ofNat 4 i
  let a := vget 2#3 s.hw.agent t
  if a.extractLsb' 0 2 ≠ (if port then 1#2 else 0#2) then s
  else if a.getLsbD 2 then
    let s := dropTenant { s with hw := { s.hw with agent := vset s.hw.agent t 6#3 } } t
    let asked := s.ctxs.flatMap (fun (p : Nat × Ctx) => if p.2.ident.tenant == t then p.2.asked else [])
    asked.foldl (fun s a => s.emit (.atsRequest t (BitVec.ofNat 64 (4096 * a.2)))) (s.emit (.atsInvalidate t))
  else
    { s with ctxs := s.ctxs.map (fun (p : Nat × Ctx) =>
        if p.2.ident.tenant == t then
          (p.1, { p.2 with asked := [], deny := p.2.deny ++ p.2.asked.map (fun a => (a.1, BitVec.ofNat 64 (4096 * a.2), Cause.t20)) })
        else p) }

/-- A host is lost (R422). -/
def loseHost (s : State) (port : Bool) : State :=
  let l := portLink s port
  if l.lost then s
  else
    let s := s.traceFreeze ⟨3#8, 0x63#8, if port then 1#16 else 0#16, 0#64, 0#64⟩ 0x63#8
    let s := noticeLoss s port
    let s := setPortLink s port { portLink s port with lup := false, lost := true, resyncDue := false }
    let s := setPorts s (if port then 1 else 0) false false
    let s := { s with heldHost := s.heldHost.filter (fun r => r.port != port) }
    (List.range 16).foldl (fun s i => switchAgent s port i) s

/-- HOST_LOSS (R422). -/
def execHostLoss (port : Bool) (s : State) : Out := .next (loseHost s port)
/-- HOST_REQUEST_TIMEOUT (R412, R422): no timeout runs while the link's traffic is parked. -/
def execHostRequestTimeout (port : Bool) (s : State) : Out :=
  .next (if s.hw.parked.getLsbD (if port then 1 else 0) then s else loseHost s port)

/-- LINK_TRAINED (R395, R423): after a loss the port's first RESYNC reads PDISC. A trained pool head changes no register. -/
def execLinkTrained (port : BitVec 3) (s : State) : Out :=
  .next (if 2 ≤ port.toNat then s
    else
      let p := port == 1#3
      let l := portLink s p
      setPortLink s p { l with lup := true, resyncDue := l.resyncDue || l.lost, lost := false })

/-- The host owns the event of source n: LOC = 0 and HOST = 1 (R369). -/
def hostOwns (s : State) (n : BitVec 6) (port : Bool) : Bool :=
  let o := ownerOf s n
  !o.locb && o.host && o.port == port
/-- A write of an acknowledge register (R369). -/
def acknowledge (s : State) (port : Bool) (n : BitVec 6) (data : Word) : State :=
  if hostOwns s n port then (if data.getLsbD 0 then s.traceEv ⟨3#8, 3#8, n.setWidth 16, zext64 n, 0#64⟩ else s) else s.countError
/-- HOST_ACKNOWLEDGE (R369). -/
def execHostAcknowledge (port : Bool) (n : BitVec 6) (data : Word) (s : State) : Out := .next (acknowledge s port n data)

/-! ### IDE (R411, R412) -/

/-- IDE_KM_KEY_PROGRAMMING (R411): skid mode and selective streams are refused. -/
def execIdeKmKeyProgramming (port : BitVec 3) (skid selective : Bool) (s : State) : Out :=
  .next (if skid || selective || decide (6 ≤ port.toNat) then s.emit (.keyRefused port)
    else setPorts s port.toNat (s.hw.parked.getLsbD port.toNat) true)

/-- IDE_MAC_FAILURE (R412): the stream is insecure and the link is parked. -/
def execIdeMacFailure (port : BitVec 3) (s : State) : Out :=
  .next (if !s.hw.secure.getLsbD port.toNat || decide (6 ≤ port.toNat) then s
    else raiseEvent ((setPorts s port.toNat true false).traceEv ⟨3#8, 4#8, port.setWidth 16, 0#64, 0#64⟩) 4#6 [zext64 port])

/-- IDE_REKEY_COMPLETE (R412): traffic resumes, with SF logging as for a lost head. -/
def execIdeRekeyComplete (port : BitVec 3) (s : State) : Out :=
  .next (if !s.hw.parked.getLsbD port.toNat || decide (6 ≤ port.toNat) then s
    else retryHost (setPorts (reissue s port.toNat) port.toNat false true))

/-- IDE_REKEY_TIMEOUT (R412): a pool head or a host is lost. -/
def execIdeRekeyTimeout (port : BitVec 3) (s : State) : Out :=
  .next (if !s.hw.parked.getLsbD port.toNat || decide (6 ≤ port.toNat) then s
    else if 2 ≤ port.toNat then loseHead s (BitVec.ofNat 2 (port.toNat - 2)) else loseHost s (port == 1#3))

/-! ### The region table (R223, R224) and dynamic capacity (R408) -/

/-- First and last page of an entry, and the space it lies in. -/
def Region.first (r : Region) : Nat := (r.base.extractLsb' 12 40).toNat
def Region.last (r : Region) : Nat := (r.limit.extractLsb' 12 40).toNat
def Region.space (r : Region) : BitVec 2 := r.attr.extractLsb' 0 2
def Region.valid (r : Region) : Bool := r.base.getLsbD 0
/-- CLASS, POOLK, GUARD, W. -/
def Region.cls (r : Region) : BitVec 2 := r.attr.extractLsb' 2 2
def Region.poolk (r : Region) : BitVec 2 := r.attr.extractLsb' 4 2

/-- The pages of the entry lie within [a, b). -/
def Region.within (r : Region) (a b : Nat) : Bool := decide (a ≤ r.first ∧ r.last < b)
/-- The combinations of the table of R224; a guarded pool starts and ends at multiples of 256 KiB (R321). -/
def Region.legal (r : Region) : Bool :=
  if r.attr.getLsbD 7 && (r.first % 64 != 0 || (r.last + 1) % 64 != 0) then false
  else if r.space = 0#2 then
    if r.within 0 0x6000000 then (r.cls == 0#2 || r.cls == 1#2) && r.poolk == 0#2
    else if r.within 0x8000000 0x8080000 then r.cls == 0#2 && r.poolk == 0#2 && !r.attr.getLsbD 17 && !r.attr.getLsbD 7
    else if r.within 0x100000000 0x300000000 then
      (r.cls == 2#2 && r.poolk == 1#2) || (r.cls == 0#2 && ((r.poolk == 2#2 && !r.attr.getLsbD 17) || r.poolk == 3#2))
    else false
  else r.space != 3#2 && r.cls == 2#2 && r.poolk == 0#2 && !r.attr.getLsbD 7

/-- The entry overlaps another valid one of its space. -/
def regionOverlaps (s : State) (n : Nat) (r : Region) : Bool :=
  s.regions.toList.zipIdx.any (fun (x : Region × Nat) =>
    x.2 != n && x.1.valid && x.1.space == r.space && decide (r.first ≤ x.1.last ∧ x.1.first ≤ r.last))
def regionAt (s : State) (n : BitVec 6) : Region := vget ⟨0#64, 0#64, 0#64, 0#64⟩ s.regions n
def setRegion (s : State) (n : BitVec 6) (r : Region) : State := { s with regions := vset s.regions n r }

/-- A write of word 0 with VALID = 1 (R224): the entry is checked; a refusal leaves VALID 0 and is counted. -/
def validateRegion (s : State) (n : BitVec 6) (word0 : Word) : State :=
  let r := { regionAt s n with base := (word0 &&& 0xFFFFFFFFFF000#64) ||| 1#64 }
  if r.first ≤ r.last ∧ r.legal = true ∧ regionOverlaps s n.toNat r = false then setRegion s n r
  else (setRegion s n { r with base := r.base &&& ~~~1#64 }).countError

/-- Headwater writes every entry, a Crown those with CROWNW = 1, a host none (R223). -/
def mayWriteRegion (who : Agent) (r : Region) : Bool :=
  match who with
  | .headwater => true
  | .crown _ => r.attr.getLsbD 18
  | .host0 | .host1 => false

/-- REGION_ENTRY_VALIDATE (R224): a write of word 0 that sets VALID. -/
def execRegionEntryValidate (who : Agent) (n : BitVec 6) (word0 : Word) (s : State) : Out :=
  .next (if mayWriteRegion who (regionAt s n) then validateRegion s n word0 else s)

/-- A dynamic-capacity event reaches its owner and the flight trace (R369, R408). -/
def capacityEvent (s : State) (extent : BitVec 16) (code : Byte) : State :=
  (raiseEvent s 5#6 [zext64 extent]).traceEv ⟨3#8, code, extent, 0#64, 0#64⟩
/-- DYNAMIC_CAPACITY_ADD (R408): Headwater writes an entry that is free, with the extent's tag, and sets VALID. -/
def execDynamicCapacityAdd (n : BitVec 6) (base limit attr : Word) (extent : BitVec 16) (s : State) : Out :=
  let s := capacityEvent s extent 6#8
  .next (if (regionAt s n).valid then s.countError
    else
      let r : Region := ⟨0#64, limit &&& 0xFFFFFFFFFF000#64, attr &&& 0xFF000000000F00BF#64, zext64 extent⟩
      validateRegion (setRegion s n r) n base)

/-- The valid entries of an extent. -/
def extentRegions (s : State) (extent : BitVec 16) : List Region :=
  s.regions.toList.filter (fun r => r.valid && r.ext.extractLsb' 0 16 == extent && extent != 0#16)
/-- A page lies in an extent. -/
def extentHas (l : List Region) (page : Nat) : Bool := l.any (fun r => decide (r.first ≤ page ∧ page ≤ r.last))

/-- The stores on their way that were made under leaves of the extent perform (R408, step 3); one in the store gate, and a maintenance
op, translates again, and finds T22. -/
def drainStores (s : State) (hit : Nat → Bool) : State :=
  let on (e : StoreEnt) : Bool := e.lines.any (fun l => hit (l / 64))
  s.ctxs.foldl (fun s p =>
    let fe := BitVec.ofNat 9 p.1
    let mine := p.2.stq.sb.filter on
    let s := mine.foldl (fun s e => performStore s fe e) s
    s.modCtx fe (fun c => { c with stq := { gate := c.stq.gate.map (fun e => { e with stale := e.stale || on e }),
                                            sb := c.stq.sb.filter (fun e => !on e),
                                            maint := c.stq.maint.map (fun m => { m with stale := m.stale || hit (m.key / 4096) }) } })) s

/-- DYNAMIC_CAPACITY_RELEASE (R408): a requested release of an extent with a pinned page is refused; else the entries, the leaves, the
stores on their way and the cached lines go, in this order, and the release is answered. -/
def execDynamicCapacityRelease (extent : BitVec 16) (forced : Bool) (s : State) : Out :=
  let s := capacityEvent s extent 7#8
  let rs := extentRegions s extent
  let pinned := s.hw.pins.filter (extentHas rs)
  .next (if !pinned.isEmpty && !forced then s.emit (.extentAnswer extent false)
    else
      let s := pinned.foldl (fun s p => s.traceEv ⟨4#8, 3#8, 0#16, BitVec.ofNat 64 (4096 * p), 0#64⟩) s
      let s := { s with regions := s.regions.map (fun r =>
        if r.valid && r.ext.extractLsb' 0 16 == extent && extent != 0#16 then { r with base := r.base &&& ~~~1#64 } else r) }
      let s := dropLeaves s (fun l => l.space == 0#2 && rs.any (fun r => decide (4096 * r.first < l.pa + pageSize l.sz ∧ l.pa < 4096 * (r.last + 1))))
      let s := drainStores s (extentHas rs)
      let s := rs.foldl (fun s r => flushCaches s (4096 * r.first) (4096 * (r.last + 1 - r.first))) s
      s.emit (.extentAnswer extent true))

end Sys2Proof.Machine
end

