-- ==== Sys2Proof/Machine/Platform.lean ====
section
/-! DEFINITION. Headwater's platform functions: boot and firmware banks, live activation, measurements, translation agents, RESYNC, the
flight trace, fabric slots, Cistern fills, power (01_machine R25, 08_memory R222, 15_platform R414 to R429). -/
namespace Sys2Proof.Machine

/-! ### Boot (R414 to R416) -/

def bankImage (f : Firmware) (b : Bool) : FwImage := if b then f.banks[1] else f.banks[0]
def bankAtt (f : Firmware) (b : Bool) : BitVec 2 := if b then f.att[1] else f.att[0]
def Firmware.setAtt (f : Firmware) (b : Bool) (n : BitVec 2) : Firmware :=
  { f with att := if b then f.att.set 1 n else f.att.set 0 n }
/-- A new image in a bank of 64 MiB clears its count of failed attempts (R414, R416). -/
def Firmware.setBank (f : Firmware) (b : Bool) (i : FwImage) : Firmware :=
  let i := { i with bytes := i.bytes.take 0x4000000 }
  { (f.setAtt b 0#2) with banks := if b then f.banks.set 1 i else f.banks.set 0 i }
/-- SVN of an image (R414). -/
def fwSvn (i : FwImage) : BitVec 32 := BitVec.ofNat 32 (bytesAt i.bytes 4 4)
/-- The boot ROM verifies an image (R414): its magic number, its length, its signature and its security version. -/
def verifies (i : FwImage) : Bool :=
  bytesAt i.bytes 0 4 == 0x46574D47 && decide (bytesAt i.bytes 8 4 ≤ 67100000) && i.signed && Config.minSvn.ule (fwSvn i)
/-- The ROM runs a bank: it verifies and has fewer than three failed attempts (R416). -/
def bootable (f : Firmware) (b : Bool) : Bool := verifies (bankImage f b) && decide ((bankAtt f b).toNat < 3)

/-- The loop of R416 up to the start of the watchdog. -/
def boot (f : Firmware) : Firmware :=
  let f := { f with act := false, healthy := false, fback := false, recov := false, watchdog := false }
  if bootable f f.sel then { f with run := f.sel, watchdog := true }
  else if bootable f (!f.sel) then { f with run := !f.sel, fback := true, watchdog := true }
  else { f with recov := true }

/-- The device after a reset, with firmware state f: memory keeps its bytes, every counter of resets advances (R370, R388, R416). -/
def resetWith (s : State) (f : Firmware) : State :=
  let z := State.reset
  { z with mem := s.mem, poison := s.poison, media := s.media, hw := { z.hw with epoch := s.hw.epoch + 1 }, fw := boot f,
           inputs := s.inputs, outputs := s.outputs, fresh := s.fresh }
/-- DEVICE_RESET (R416). -/
def execDeviceReset (s : State) : Out := .next (resetWith s s.fw)

/-- The 60 s of the boot watchdog in nanoseconds. -/
def watchdogNs : Nat := 60000000000
/-- BOOT_WATCHDOG_EXPIRY (R416): 60 s after the reset, a failed attempt of the running bank and a reset. -/
def execBootWatchdogExpiry (s : State) : Out :=
  .next (if s.fw.watchdog && decide (watchdogNs ≤ s.time.toNat) then resetWith s (s.fw.setAtt s.fw.run (bankAtt s.fw s.fw.run + 1#2)) else s)

/-! ### RESYNC (R423, R426 to R428) -/

/-- CSTAT bits 15:0 (R365). -/
def cstat (c : Ctx) : BitVec 16 :=
  let st : BitVec 3 := match c.life with
    | .unbound => 0#3 | .bound => 1#3 | .running => 2#3 | .stopped => 3#3 | .rinsing => 4#3
  st ++ BitVec.ofBool c.gen.isParked ++ BitVec.ofBool c.parkB.isSome ++ BitVec.ofBool (c.chan true).parked.isSome
    ++ BitVec.ofBool (c.chan false).parked.isSome ++ BitVec.ofBool c.img.busy ++ c.img.st ++ BitVec.ofBool c.prot ++ 0#3
/-- FWCTL (R415). -/
def fwctl (f : Firmware) : Word :=
  (0#44 ++ f.att[1] ++ f.att[0] ++ 0#7 ++ BitVec.ofBool f.recov ++ BitVec.ofBool f.fback ++ BitVec.ofBool f.healthy
    ++ BitVec.ofBool f.act ++ BitVec.ofBool f.run ++ 0#3 ++ BitVec.ofBool f.sel : BitVec 64)
/-- NH: pages in H bias, in thousands (R395). -/
def pagesH (s : State) : BitVec 32 :=
  BitVec.ofNat 32 ((16384 + (s.bias.filter (fun x => x.2 == 1#2 && !windowPage x.1)).length) / 1000)

/-- The records of the nine sections of a summary, each with its record size (R428). -/
def resyncQueues (s : State) : List (List Byte) :=
  (s.disp.queues.filter (fun (p : Nat × CwQueue) => (p.2.en || p.2.isOn) && winOn s (BitVec.ofNat 6 (p.1 / 64)))).map (fun p =>
    [BitVec.ofNat 8 (p.1 / 64), BitVec.ofNat 8 (p.1 % 64),
      (0#4 ++ BitVec.ofBool p.2.badcfg ++ BitVec.ofBool p.2.tdone ++ BitVec.ofBool p.2.isOn ++ BitVec.ofBool p.2.en : BitVec 8), 0#8]
      ++ natBytes p.2.nref.toNat 4 ++ wordBytes p.2.cons ++ List.replicate 16 0#8)
def taskCode (t : Task) : Byte :=
  match t.st with
  | .waiting => 0#8
  | .eligible => if t.images then 2#8 else 1#8
  | .running => 3#8
  | .failed => 4#8
def resyncTasks (s : State) : List (List Byte) :=
  s.disp.tasks.map (fun t => natBytes t.id.toNat 4 ++ [taskCode t, t.tenant.setWidth 8, t.prio, BitVec.ofNat 8 t.age]
    ++ natBytes t.kern.toNat 4 ++ List.replicate 4 0#8 ++ wordBytes t.sigc ++ List.replicate 8 0#8)
def resyncContexts (s : State) : List (List Byte) :=
  (List.range 512).map (fun i =>
    let c := s.ctx (BitVec.ofNat 9 i)
    natBytes i 2 ++ natBytes (cstat c).toNat 2 ++ natBytes (if c.life = .unbound then 0 else c.ident.task.toNat) 4 ++ List.replicate 8 0#8)
def resyncErrors (s : State) : List (List Byte) :=
  [natBytes 0 8 ++ natBytes s.trace.drops.toNat 8, natBytes 1 8 ++ natBytes s.hw.errors 8]
def resyncFirmware (s : State) : List (List Byte) :=
  [wordBytes (fwctl s.fw) ++ natBytes (fwSvn (bankImage s.fw false)).toNat 4 ++ natBytes (fwSvn (bankImage s.fw true)).toNat 4 ++ List.replicate 16 0#8]
def resyncRegions (s : State) : List (List Byte) :=
  s.regions.toList.map (fun r => wordBytes r.base ++ wordBytes r.limit ++ wordBytes r.attr ++ wordBytes r.ext)
def resyncBias (s : State) : List (List Byte) :=
  s.links.toList.zipIdx.map (fun (x : HostLink × Nat) =>
    [BitVec.ofNat 8 x.2, if x.1.bbusy then 1#8 else 0#8] ++ natBytes x.1.bdone.toNat 2 ++ natBytes (pagesH s).toNat 4 ++ List.replicate 8 0#8)
def resyncPark (s : State) : List (List Byte) :=
  [false, true].map (fun p =>
    let l := portLink s p
    [if p then 1#8 else 0#8, (0#6 ++ BitVec.ofBool l.lost ++ BitVec.ofBool (l.lost || l.resyncDue) : BitVec 8)] ++ List.replicate 6 0#8
      ++ natBytes (parkBytes l) 8)
def resyncUncertain (s : State) : List (List Byte) := s.hw.uwlog.map (fun (x : Nat × Word) => natBytes x.1 8 ++ wordBytes x.2)
def resyncSections (s : State) : List (Nat × List (List Byte)) :=
  [(32, resyncQueues s), (32, resyncTasks s), (16, resyncContexts s), (16, resyncErrors s), (32, resyncFirmware s), (32, resyncRegions s),
    (16, resyncBias s), (16, resyncPark s), (16, resyncUncertain s)]

/-- The directory and the bodies of the sections from an offset on (R428). -/
def resyncDir (off id : Nat) : List (Nat × List (List Byte)) → List Byte × List Byte
  | [] => ([], [])
  | (rsz, recs) :: t =>
    let body := pad64 recs.flatten
    match resyncDir (off + body.length) (id + 1) t with
    | (d, b) => (natBytes id 1 ++ [0#8] ++ natBytes rsz 2 ++ natBytes recs.length 4 ++ natBytes off 8 ++ d, body ++ b)
/-- A summary (R428): a header of 64 bytes, nine directory entries up to byte 208, and the sections at multiples of 64. -/
def summary (s : State) (afterAct : Bool) : List Byte :=
  match resyncDir 256 1 (resyncSections s) with
  | (d, b) =>
    let len := 256 + b.length
    natBytes 0x5253594E 4 ++ natBytes 1 2 ++ natBytes 9 2 ++ wordBytes s.time ++ natBytes len 4
      ++ [(0#6 ++ BitVec.ofBool afterAct ++ BitVec.ofBool s.hw.uwovf : BitVec 8)] ++ List.replicate 43 0#8 ++ d ++ List.replicate 48 0#8 ++ b

/-- The stores of a park buffer perform at last, in order. -/
def drainPark (s : State) (l : List Parked) : State := l.foldl (fun s p => performStoreAs s p.fe p.agent p.rel p.ent) s
/-- Discarded writes are counted in the trace by tenant (R423). -/
def logDiscards (s : State) (l : List Parked) : State :=
  (List.range 16).foldl (fun s t =>
    let n := (l.filter (fun p => p.tenant.toNat == t)).length
    if n = 0 then s else s.traceEv ⟨3#8, 5#8, 0#16, BitVec.ofNat 64 t, BitVec.ofNat 64 n⟩) s
/-- The first RESYNC of a host that has come back: its park buffer is replayed or discarded (R423, R427). -/
def applyPdisc (s : State) (port pdisc : Bool) : State :=
  let l := portLink s port
  if !l.resyncDue then s
  else
    let s := setPortLink s port { l with resyncDue := false, parkBuf := [] }
    if pdisc then logDiscards s l.parkBuf else drainPark s l.parkBuf

def resyncBlk (s : State) (b : BitVec 2) : ResyncBlk := vget ⟨0#64, 0#32, false, false, false, false, 0#32⟩ s.resync b
def setResync (s : State) (b : BitVec 2) (x : ResyncBlk) : State := { s with resync := vset s.resync b x }
/-- Serves the request of a block: 0 and 1 host ports, 2 the mailbox, 3 Redfish (R427). -/
def serveResync (s : State) (b : BitVec 2) (afterAct : Bool) : State :=
  let x := resyncBlk s b
  let body := summary s afterAct
  let x' := { x with busy := false, bytes := BitVec.ofNat 32 body.length }
  if b = 3#2 then (setResync s b x').emit (.resync body)
  else
    let s := if b = 2#2 then s else applyPdisc s (b == 1#2) x.pdisc
    if x.len.toNat < body.length then setResync s b { x' with short := true }
    else
      let a := (x.addr &&& ~~~63#64).toNat
      let key := if b = 2#2 then a else hostKey (b == 1#2) a
      setResync (performPoison { s with mem := memWrites s.mem key body } (body.zipIdx.map (fun y => (key + y.2, y.1))) []) b { x' with done := true }
/-- A request (R426, R427): counted while one is being served; it waits while an activation window is open. -/
def askResync (s : State) (b : BitVec 2) : State :=
  let x := resyncBlk s b
  if x.busy then s.countError
  else if s.fw.act then setResync s b { x with busy := true }
  else serveResync s b false
/-- The requests that waited for the window to close. -/
def serveWaiting (s : State) : State :=
  [0#2, 1#2, 2#2, 3#2].foldl (fun s b => if (resyncBlk s b).busy then serveResync s b true else s) s

/-- RESYNC_GO (R427). -/
def execResyncGo (blk : BitVec 2) (s : State) : Out := .next (if blk = 3#2 then s.countError else askResync s blk)
/-- REDFISH_RESYNC (R427): the summary is the body of the response; its park-buffer choice is ignored, as every request's but a host's
own first one. -/
def execRedfishResync (pdisc : Bool) (s : State) : Out :=
  .next (if s.fw.recov then s.countError else askResync (if (resyncBlk s 3#2).busy then s else setResync s 3#2 { resyncBlk s 3#2 with pdisc := pdisc }) 3#2)

/-! ### Health and live activation (R415 to R417) -/

/-- 200 ms in nanoseconds. -/
def windowNs : Nat := 200000000
/-- Nanoseconds that the activation window stays open. -/
def windowLeft (s : State) : Nat := s.fw.actAt.toNat + windowNs - s.time.toNat
/-- The outcome of an activation enters the trace and raises source 8. -/
def activationEvent (s : State) (code : Byte) : State :=
  raiseEvent (s.traceEv ⟨6#8, code, 0#16, fwctl s.fw, 0#64⟩) 8#6 [zext64 code]
/-- The window closes and the dispatcher goes on. -/
def closeWindow (s : State) (f : Firmware) (code : Byte) : State :=
  serveWaiting (activationEvent { s with fw := { f with act := false }, disp := { s.disp with hold := false } } code)

/-- Health is reported: the boot watchdog stops, and the count of the bank that it watches is cleared (R415, R416). -/
def Firmware.report (f : Firmware) : Firmware :=
  if f.watchdog then { (f.setAtt f.run 0#2) with healthy := true, watchdog := false } else { f with healthy := true }
/-- HEALTHY is written 1 (R416, R417): in an open window the new bank is taken. -/
def healthy (s : State) : State :=
  let f := s.fw.report
  if f.act && windowLeft s != 0 then closeWindow s { f with sel := !f.run, run := !f.run } 1#8 else { s with fw := f }
/-- HEALTHY_WRITE (R416, R417). -/
def execHealthyWrite (s : State) : Out := .next (healthy s)

/-- LIVE_ACTIVATION (R417): the image goes to the bank that is not RUN; if it verifies, HOLD is set and the window opens. -/
def execLiveActivation (img : FwImage) (s : State) : Out :=
  let f := s.fw
  .next (if f.act || f.recov then s.countError
    else
      let f := f.setBank (!f.run) img
      let s := { s with fw := f }
      if !verifies img then activationEvent s 2#8
      else { s with fw := { f with act := true, actAt := s.time }, disp := { s.disp with hold := true } })

/-- ACTIVATION_TIMEOUT (R417): 200 ms have passed; the old image stays. -/
def execActivationTimeout (s : State) : Out :=
  .next (if s.fw.act && windowLeft s == 0 then closeWindow s s.fw 3#8 else s)

/-! ### Measurements and Redfish (R416, R418, R419, R421) -/

/-- The configuration of the dispatcher: DCTL and the assignment of each command window (R333, R396). -/
def dispatcherConfig (s : State) : List Byte := [s.disp.pthr, (0#6 ++ BitVec.ofBool s.disp.hold ++ BitVec.ofBool s.disp.en : BitVec 8)] ++ s.disp.windows.toList
/-- What a measurement block is taken over (R419): the fuses; the running image, which holds the firmware of Headwater and of the Crowns;
the dispatcher's configuration, the slot plan and the SYS regions; SVN, RUN and FBACK. -/
def measured (s : State) (blk : BitVec 8) : List Byte :=
  let f := s.fw
  let img := bankImage f f.run
  match blk.toNat with
  | 1 => wordBytes (zext64 Config.minSvn)
  | 2 | 3 => img.bytes
  | 4 => dispatcherConfig s ++ s.hw.plan
      ++ ((s.regions.toList.filter (fun r => r.base.getLsbD 0 && r.attr.getLsbD 19)).flatMap (fun r =>
        wordBytes r.base ++ wordBytes r.limit ++ wordBytes r.attr ++ wordBytes r.ext))
  | 5 => natBytes (fwSvn img).toNat 4 ++ [BitVec.zeroExtend 8 (BitVec.ofBool f.run), BitVec.zeroExtend 8 (BitVec.ofBool f.fback)]
  | _ => []
/-- A response of the measurements of the bank that runs (R418, R419); the index 0 of the
Redfish response, and 255, stand for all five blocks (assumption log 85). -/
def measurementOf (s : State) (blk : BitVec 8) : Output :=
  .measurement blk s.fw.run (fwSvn (bankImage s.fw s.fw.run))
    (if blk = 0#8 ∨ blk = 255#8 then [1#8, 2#8, 3#8, 4#8, 5#8].flatMap (measured s) else measured s blk)
/-- GET_MEASUREMENTS (R418, R419): Busy with the remaining milliseconds while the window is open. -/
def execGetMeasurements (blk : BitVec 8) (s : State) : Out :=
  .next (s.emit (if s.fw.act then .busy ((windowLeft s + 999999) / 1000000) else measurementOf s blk))

/-- REDFISH_COMPONENT_INTEGRITY (R418): HTTP 503 with the remaining seconds, at least 1; in recovery mode nothing but a
firmware update is accepted (R416). -/
def execRedfishComponentIntegrity (s : State) : Out :=
  .next (if s.fw.recov then s.countError
    else s.emit (if s.fw.act then .http503 (max 1 ((windowLeft s + 999999999) / 1000000000)) else measurementOf s 0#8))

/-- REDFISH_FIRMWARE_UPDATE (R416): in recovery mode the image goes to the bank of SEL. -/
def execRedfishFirmwareUpdate (img : FwImage) (s : State) : Out :=
  .next (if s.fw.recov then { s with fw := s.fw.setBank s.fw.sel img } else s)

/-- Entries at CONS and after it that carry their seal word. -/
def sealedCount (s : State) (w : BitVec 6) (x : CwQueue) : Nat → Nat
  | 0 => 0
  | n + 1 => if sealed s w x then 1 + sealedCount s w { x with cons := x.cons + 1#64 } n else 0
/-- REDFISH_TASK_ACTION (R398, R421): Headwater places a task command in queue 0 of one of its windows, the seal word last; a full
ring takes nothing. -/
def execRedfishTaskAction (win : BitVec 6) (entry : List Word) (s : State) : Out :=
  let x := s.cwq win 0#6
  let size := 2 ^ x.qszl.toNat
  let n := sealedCount s win x size
  .next (if s.fw.recov || !winOn s win || !x.isOn || size ≤ n then s.countError
    else
      let i := x.cons.toNat + n
      let words := (List.range 7).map (fun k => entry.getD k 0#64) ++ [BitVec.ofNat 64 (i + 1)]
      ({ s with mem := memWrites s.mem (entryAddr win x i) (words.flatMap wordBytes) }).putCwq win 0#6 { x with bell := true })

/-! ### Translation agents (R420) -/

/-- A write of an agent-table entry: a change of AGENT invalidates every leaf of the tenant. -/
def agentWrite (s : State) (tenant : BitVec 4) (data : Word) : State :=
  let old := vget 2#3 s.hw.agent tenant
  let new : BitVec 3 := data.extractLsb' 0 3
  let s := { s with hw := { s.hw with agent := vset s.hw.agent tenant new } }
  if old.extractLsb' 0 2 = new.extractLsb' 0 2 then s else (dropTenant s tenant).emit (.atsInvalidate tenant)
/-- AGENT_TABLE_WRITE (R420). -/
def execAgentTableWrite (tenant : BitVec 4) (data : Word) (s : State) : Out := .next (agentWrite s tenant data)

/-! ### The flight trace (R424, R425) -/

/-- TRACE_EVENT (R424): class, code and source in bits 31:0 of the first word, the data above and in the second. -/
def execTraceEvent (w0 w1 : Word) (s : State) : Out :=
  .next (s.traceEv ⟨w0.extractLsb' 0 8, w0.extractLsb' 8 8, w0.extractLsb' 16 16, zext64 (w0.extractLsb' 32 32), w1⟩)
/-- TRACE_UNFREEZE (R425). -/
def execTraceUnfreeze (s : State) : Out := .next { s with trace := { s.trace with frozen := false } }

/-! ### Fabric slots (R25) -/

/-- A plan of 64 slots with owners 0 to 18 that keeps a slot each for management, trace and refresh. -/
def planOk (p : List Byte) : Bool :=
  p.length == 64 && p.all (fun x => decide (x.toNat ≤ 18)) && p.contains 16#8 && p.contains 17#8 && p.contains 18#8
/-- FABRIC_PLAN_WRITE (R25): a plan that breaks the rule is refused. -/
def execFabricPlanWrite (plan : List Byte) (s : State) : Out :=
  .next (if planOk plan then { s with hw := { s.hw with planNew := some plan } } else s.countError)
/-- FABRIC_FRAME_BOUNDARY (R25). -/
def execFabricFrameBoundary (s : State) : Out :=
  .next (match s.hw.planNew with
    | none => s
    | some p => { s with hw := { s.hw with plan := p, planNew := none } })

/-! ### Cistern fills (R222) -/

/-- The n bytes from a physical address lie in HBM or in the pool window. -/
def fillSource (a n : Nat) : Bool :=
  decide (a + n ≤ 0x6000000000) || (decide (0x100000000000 ≤ a) && decide (a + n ≤ 0x300000000000))
/-- A write of GO = 1: refused with ERR, or the fill starts. -/
def fillGo (s : State) (die : BitVec 2) : State :=
  let d := die.toNat
  let p := portOf s d
  if p.busy || boundOn s d != 0 || decide (536870912 < p.dst.toNat + p.len.toNat) || !fillSource p.src.toNat p.len.toNat then
    setPort s d { p with err := true }
  else setPort s d { p with busy := true, tag := 0#32 }
/-- The control word of a fill port: DONE and ERR are cleared by 1 bits, TAG is set, GO starts a fill. -/
def fillControl (s : State) (die : BitVec 2) (data : Word) : State :=
  let d := die.toNat
  let p := portOf s d
  let p := { p with done := p.done && !data.getLsbD 2, err := p.err && !data.getLsbD 3, tag := data.extractLsb' 32 32 }
  let s := setPort s d p
  if data.getLsbD 0 then fillGo s die else s
/-- FILL_GO (R222). -/
def execFillGo (die : BitVec 2) (data : Word) (s : State) : Out := .next (fillControl s die (data ||| 1#64))

/-! ### Power and class E events (R364, R429) -/

/-- THERMAL_THROTTLE (R429): the arithmetic clock falls by a step of 100 MHz, or rises again. -/
def execThermalThrottle (die : BitVec 4) (hot : Bool) (s : State) : Out :=
  .next ({ s with throttle := if hot then min 20 (s.throttle + 1) else s.throttle - 1 }.traceEv
    ⟨5#8, if hot then 1#8 else 0#8, die.setWidth 16, 0#64, 0#64⟩)

/-- A running context that a class E event touched goes back to its checkpoint, stops and is held (R364, R367). -/
def holdCtx (cause : Cause) (s : State) (fe : FeId) : State :=
  let c := s.ctx fe
  if c.life = .running then trapB s fe cause 0#8 c.chk.prov c.chk.word 0#64 else s
/-- A class E event: the contexts stop, Headwater hears of it, the trace freezes. -/
def classE (s : State) (cause : Cause) (src : BitVec 16) (touched : List FeId) : State :=
  touched.foldl (holdCtx cause) (eventE s 2#6 cause src 0#64)
/-- THERMAL_TRIP (R429): E83, for every context on the die. -/
def execThermalTrip (die : BitVec 4) (s : State) : Out :=
  .next (classE s .e83 (die.setWidth 16)
    (if die.toNat < 4 then (List.range 128).map (fun i => BitVec.ofNat 9 (128 * die.toNat + i)) else []))
/-- INTERNAL_PARITY (R364): E80. -/
def execInternalParity (touched : List FeId) (s : State) : Out := .next (classE s .e80 0#16 touched)
/-- FABRIC_TIMEOUT (R364): E81. -/
def execFabricTimeout (touched : List FeId) (s : State) : Out := .next (classE s .e81 0#16 touched)

end Sys2Proof.Machine
end

