-- ==== Sys2Proof/Machine/Mmio.lean ====
section
/-! DEFINITION. The register maps: which register an MMIO address names, who may write it, and what a write of its fields does
(00_scope R6, R7, 01_machine R28, and the rule of each map). -/
namespace Sys2Proof.Machine

/-- W1C of one bit: a 1 in the data clears it. -/
def w1c (old : Bool) (data : Word) (i : Nat) : Bool := old && !data.getLsbD i
/-- Is the agent firmware on package. -/
def onPackage (who : Agent) : Bool :=
  match who with
  | .crown _ | .headwater => true
  | .host0 | .host1 => false
/-- The Crown of a cluster alone writes its registers and the windows of its cores (R15, R366). -/
def ownsCluster (who : Agent) (k : Nat) : Bool :=
  match who with
  | .crown n => n.toNat == k
  | .headwater | .host0 | .host1 => false

/-! ### The region table (R223) -/

/-- A write of one word of an entry: words 1 to 3 of a valid entry do not change; only Headwater writes CROWNW. -/
def writeRegion (s : State) (who : Agent) (n : BitVec 6) (word : Nat) (data : Word) : State :=
  let r := regionAt s n
  if !mayWriteRegion who r then s
  else if word = 0 then
    (if data.getLsbD 0 then validateRegion s n data else setRegion s n { r with base := data &&& 0xFFFFFFFFFF000#64 })
  else if r.valid then s.countError
  else if word = 1 then setRegion s n { r with limit := data &&& 0xFFFFFFFFFF000#64 }
  else if word = 2 then
    let d := data &&& 0xFF000000000F00BF#64
    setRegion s n { r with attr := match who with
      | .headwater => d
      | .crown _ | .host0 | .host1 => (d &&& ~~~0x40000#64) ||| (r.attr &&& 0x40000#64) }
  else setRegion s n { r with ext := data &&& 0xFFFF#64 }

/-! ### A host-link block (R394, R395, R427) -/

/-- The registers of RESYNC block b, from its offset 0x100 on. -/
def writeResync (s : State) (b : BitVec 2) (o : Nat) (data : Word) : State :=
  let x := resyncBlk s b
  if o = 0x100 then setResync s b { x with addr := data &&& ~~~63#64 }
  else if o = 0x108 then setResync s b { x with len := data.setWidth 32 }
  else if o = 0x110 then
    let s := setResync s b { x with pdisc := data.getLsbD 1 }
    if data.getLsbD 0 then askResync s b else s
  else if o = 0x118 then setResync s b { x with done := w1c x.done data 1, short := w1c x.short data 2 }
  else s.countError

/-- A write of an aperture word: Headwater only. -/
def writeAperture (s : State) (who : Agent) (blk : BitVec 2) (o : Nat) (data : Word) : State :=
  let l := linkOf s blk
  let i : BitVec 4 := BitVec.ofNat 4 ((o - 0x800) / 16)
  let e := vget (0#64, 0#64) l.aper i
  match who with
  | .headwater =>
    setLink s blk { l with aper := vset l.aper i (if o % 16 = 0 then (data &&& 0xFFFFFFFFFF001#64, e.2) else (e.1, data &&& 0xFFFFFFFFFF003#64)) }
  | .crown _ | .host0 | .host1 => s

/-- A write at an offset of host-link block blk. -/
def writeLink (s : State) (who : Agent) (blk : BitVec 2) (o : Nat) (data : Word) : State :=
  let l := linkOf s blk
  if o = 0x00 ∨ o = 0x18 then s
  else if o = 0x08 then setLink s blk { l with hevbase := data &&& ~~~4095#64 }
  else if o = 0x10 then
    setLink s blk { l with hevctl := BitVec.ofBool (w1c (l.hevctl.getLsbD 5) data 5) ++ data.extractLsb' 0 5 }
  else if o = 0x20 then setLink s blk { l with hevtail := data.setWidth 32 }
  else if o = 0x40 then setLink s blk { l with bpage := data &&& 0xFFFFFFFFFF000#64 }
  else if o = 0x48 then
    (let s := setLink s blk { l with bcnt := data.setWidth 16, bdir := data.getLsbD 16 }
    if data.getLsbD 17 then biasGo s blk (data.getLsbD 16) else s)
  else if o = 0x50 then setLink s blk { l with berr := w1c l.berr data 1 }
  else if 0x100 ≤ o ∧ o < 0x120 ∧ blk.toNat < 2 then writeResync s blk o data
  else if 0x800 ≤ o ∧ o < 0x900 then writeAperture s who blk o data
  else s.countError
/-- A host writes the block of its own port, through BAR0; Headwater writes all three (R394, R395). -/
def mayWriteLink (who : Agent) (blk : BitVec 2) : Bool :=
  match who with
  | .headwater => true
  | .crown _ => false
  | .host0 => blk == 0#2
  | .host1 => blk == 1#2

/-! ### The I/O die (R28) -/

/-- DCTL (R333): in recovery mode EN stays 0 (R416). -/
def writeDctl (s : State) (data : Word) : State :=
  { s with disp := { s.disp with pthr := data.extractLsb' 8 8, hold := data.getLsbD 1 || s.fw.act, en := data.getLsbD 0 && !s.fw.recov } }

/-- An entry of the owner table (R368): reserved sources read 0, and some bits are fixed. -/
def writeOwner (s : State) (n : BitVec 6) (data : Word) : State :=
  let o : Owner :=
    if 10 ≤ n.toNat then ⟨0#16, false, false, false⟩
    else ⟨data.extractLsb' 32 16, data.getLsbD 2, n == 0#6 || data.getLsbD 1, n != 1#6 && data.getLsbD 0⟩
  { s with owners := vset s.owners n o }

/-- An assignment of a command window (R396): a window that is assigned is zeroed first, and its queues are off. -/
def writeWindow (s : State) (w : BitVec 6) (data : Word) : State :=
  let new := data.setWidth 8 &&& 0x9F#8
  let s := { s with disp := { s.disp with windows := vset s.disp.windows w new } }
  if !new.getLsbD 7 then s
  else
    let a := winBase w.toNat
    { s with mem := s.mem.filter (fun c => !inRange a 0x100000 c), poison := s.poison.filter (fun p => !decide (a ≤ 64 * p.1 ∧ 64 * p.1 < a + 0x100000)),
             disp := { s.disp with queues := s.disp.queues.filter (fun p => p.1 / 64 != w.toNat) } }

/-- FWCTL (R415): SEL, HEALTHY, and FBACK by W1C. -/
def writeFwctl (s : State) (data : Word) : State :=
  let s := { s with fw := { s.fw with sel := data.getLsbD 0, fback := w1c s.fw.fback data 7 } }
  if data.getLsbD 6 then healthy s else { s with fw := { s.fw with healthy := false } }

/-- TRCTL (R425). -/
def writeTrctl (s : State) (data : Word) : State :=
  { s with trace := { s.trace with en := data.getLsbD 0, frozen := w1c s.trace.frozen data 1 } }

/-- A register of a die's fill port (R222). -/
def writeFill (s : State) (die : BitVec 2) (o : Nat) (data : Word) : State :=
  let p := portOf s die.toNat
  if o = 0 then setPort s die.toNat { p with src := data &&& 0xFFFFFFFFFFF00#64 }
  else if o = 8 then setPort s die.toNat { p with dst := data &&& 0x1FFFFF00#64 }
  else if o = 0x10 then setPort s die.toNat { p with len := data &&& 0x3FFFFFFF#64 }
  else if o = 0x18 then fillControl s die data
  else s.countError

/-- The registers of the I/O die that only Headwater writes. -/
def writeHeadwater (s : State) (o : Nat) (data : Word) : State :=
  if o = 0x1000000 then writeDctl s data
  else if o = 0x1000008 then s
  else if 0x3000000 ≤ o ∧ o < 0x3000200 ∧ o % 8 = 0 then writeOwner s (BitVec.ofNat 6 ((o - 0x3000000) / 8)) data
  else if 0x4300000 ≤ o ∧ o < 0x4300200 ∧ o % 8 = 0 then writeWindow s (BitVec.ofNat 6 ((o - 0x4300000) / 8)) data
  else if o = 0x5000000 then writeFwctl s data
  else if 0x5000100 ≤ o ∧ o < 0x5000180 ∧ o % 8 = 0 then agentWrite s (BitVec.ofNat 4 ((o - 0x5000100) / 8)) data
  else if o = 0x6000000 then writeTrctl s data
  else if o = 0x6000008 then s
  else if 0x7000000 ≤ o ∧ o < 0x7000400 then writeFill s (BitVec.ofNat 2 ((o - 0x7000000) / 0x100)) (o % 0x100) data
  else s.countError

/-- An offset of a host-link block holds a register (R394, R395, R427). -/
def linkReg (blk : BitVec 2) (o : Nat) : Bool :=
  [0x00, 0x08, 0x10, 0x18, 0x20, 0x40, 0x48, 0x50].contains o
  || (decide (0x100 ≤ o ∧ o < 0x120 ∧ blk.toNat < 2) && o % 8 == 0) || (decide (0x800 ≤ o ∧ o < 0x900) && o % 8 == 0)
/-- An offset of the I/O-die window holds a register; every other one is reserved (R28). -/
def ioReg (o : Nat) : Bool :=
  o % 8 == 0
  && (decide (o < 0x800) || o == 0x1000000 || o == 0x1000008 || decide (0x2000100 ≤ o ∧ o < 0x2000120)
    || decide (0x3000000 ≤ o ∧ o < 0x3000200) || decide (0x3000800 ≤ o ∧ o < 0x3000A00)
    || (decide (0x4000000 ≤ o ∧ o < 0x4300000) && linkReg (BitVec.ofNat 2 ((o - 0x4000000) / 0x100000)) ((o - 0x4000000) % 0x100000))
    || decide (0x4300000 ≤ o ∧ o < 0x4300200) || o == 0x5000000 || decide (0x5000100 ≤ o ∧ o < 0x5000180)
    || o == 0x6000000 || o == 0x6000008 || (decide (0x7000000 ≤ o ∧ o < 0x7000400) && decide (o % 0x100 < 0x20)))

/-- A write in the I/O-die window: at a reserved offset it is counted (R28). A host reaches its own block and the acknowledge registers;
registers that only Headwater writes ignore every other writer. -/
def writeIo (s : State) (who : Agent) (o : Nat) (data : Word) : State :=
  if !ioReg o then s.countError
  else if o < 0x800 then writeRegion s who (BitVec.ofNat 6 (o / 32)) (o % 32 / 8) data
  else if 0x2000100 ≤ o ∧ o < 0x2000120 then (if onPackage who then writeResync s 2#2 (o - 0x2000000) data else s)
  else if 0x3000800 ≤ o ∧ o < 0x3000A00 ∧ o % 8 = 0 then
    let n : BitVec 6 := BitVec.ofNat 6 ((o - 0x3000800) / 8)
    match who with
    | .host0 => acknowledge s false n data
    | .host1 => acknowledge s true n data
    | .crown _ | .headwater => s.countError
  else if 0x4000000 ≤ o ∧ o < 0x4300000 then
    let blk : BitVec 2 := BitVec.ofNat 2 ((o - 0x4000000) / 0x100000)
    (if mayWriteLink who blk then writeLink s who blk ((o - 0x4000000) % 0x100000) data else s)
  else
    match who with
    | .headwater => writeHeadwater s o data
    | .crown _ | .host0 | .host1 => s

/-! ### A cluster's window (R28, R305, R363, R365, R366) -/

/-- The trap ring of a cluster (R363). -/
def writeTrapRing (s : State) (k : Nat) (o : Nat) (data : Word) : State :=
  let cl := s.cluster k
  if o = 0 then s.setCluster k { cl with trbase := data &&& 0xFFFFFFFFFF000#64 }
  else if o = 8 then s.setCluster k { cl with trctl := BitVec.ofBool (w1c (cl.trctl.getLsbD 5) data 5) ++ data.extractLsb' 0 5 }
  else if o = 0x10 then s
  else if o = 0x18 then s.setCluster k { cl with trtail := data.setWidth 32 }
  else s.countError

/-- CMD of CCTL (R365). -/
def crownCmd (s : State) (fe : FeId) (cmd arg : BitVec 4) : State :=
  match cmd.toNat with
  | 0 => s
  | 1 => resumeCmd s fe
  | 2 => killCmd s fe
  | 3 => stopCmd s fe arg
  | 4 => intrCmd s fe
  | 5 => saveCmd s fe
  | 6 => restoreCmd s fe
  | 7 => relchCmd s fe (arg.getLsbD 0)
  | 8 => unbindCmd s fe
  | _ => s.countError

/-- A front end's control block (R365). -/
def writeControl (s : State) (fe : FeId) (o : Nat) (data : Word) : State :=
  if o = 0 then crownCmd (s.modCtx fe (fun c => { c with dbg := data.getLsbD 8 })) fe (data.extractLsb' 0 4) (data.extractLsb' 4 4)
  else if o = 8 ∨ o = 0x18 then s
  else if o = 0x10 then s.modCtx fe (fun c => { c with img := { c.img with addr := data &&& 0xFFFFFFFFFF000#64 } })
  else s.countError

/-- A core's window: control blocks, store-page maps, weir, instruction store. -/
def writeCore (s : State) (core : CoreId) (o : Nat) (data : Word) : State :=
  if o < 0x200 then writeControl s (core ++ BitVec.ofNat 1 (o / 0x100)) (o % 0x100) data
  else if 0x100000 ≤ o ∧ o < 0x100400 ∧ o % 8 = 0 then
    s.modCtx (core ++ BitVec.ofNat 1 ((o - 0x100000) / 0x200)) (fun c =>
      { c with pages := mset 0#7 c.pages ((o - 0x100000) % 0x200 / 8) (BitVec.ofBool (data.getLsbD 8) ++ data.extractLsb' 0 6) })
  else if 0x200000 ≤ o ∧ o < 0x210000 then crownWeir s core (BitVec.ofNat 16 (o - 0x200000)) data
  else if 0x400000 ≤ o ∧ o < 0x440000 ∧ o % 8 = 0 then
    let n := core.toNat
    let co := s.core n
    let i := (o - 0x400000) / 4
    s.setCore n { co with istore := mset 0#32 (mset 0#32 co.istore i (data.extractLsb' 0 32)) (i + 1) (data.extractLsb' 32 32) }
  else s.countError

/-- An offset of a core's window holds a register, a map entry, a weir word or a store word (R305, R365, R366). -/
def coreReg (o : Nat) : Bool :=
  o % 8 == 0
  && ((decide (o < 0x200) && decide (o % 0x100 < 0x20)) || decide (0x100000 ≤ o ∧ o < 0x100400)
    || (decide (0x200000 ≤ o ∧ o < 0x210000) && decide (o % 0x1000 ≤ 0x800)) || decide (0x400000 ≤ o ∧ o < 0x440000))
/-- An offset of a cluster's window is not reserved (R28, R363). -/
def clusterReg (o : Nat) : Bool :=
  if o < 0x1000000 then o % 8 == 0 && decide (o < 0x20) else decide (o < 0x9000000) && coreReg (o % 0x1000000)

/-- A write in the MMIO window of cluster k: at a reserved offset it is counted (R28); any other is its own Crown's. -/
def writeCluster (s : State) (who : Agent) (k : Nat) (o : Nat) (data : Word) : State :=
  if !clusterReg o then s.countError
  else if !ownsCluster who k then s
  else if o < 0x1000000 then writeTrapRing s k o data
  else if o < 0x9000000 then writeCore s (BitVec.ofNat 8 (8 * k + (o / 0x1000000 - 1))) (o % 0x1000000) data
  else s.countError

/-- A write of 8 bytes to a device physical address of the MMIO windows (R28): one at a reserved offset is ignored and counted. -/
def mmioWrite (s : State) (who : Agent) (a : Nat) (data : Word) : State :=
  if 0xF000000000 ≤ a ∧ a < 0xF400000000 then
    let d := (a - 0xF000000000) / 0x100000000
    let k := (a - 0xF000000000) % 0x100000000 / 0x10000000
    if k < 8 then writeCluster s who (8 * d + k) (a % 0x10000000) data else s.countError
  else if 0xF800000000 ≤ a ∧ a < 0xF900000000 then writeIo s who (a - 0xF800000000) data
  else s.countError

/-- MMIO_WRITE (R7, R28). -/
def execMmioWrite (who : Agent) (addr data : Word) (s : State) : Out := .next (mmioWrite s who addr.toNat data)

/-! ### Reads (R6, R7, R28): a reserved field and a field that is only written read as 0 -/

def readRegion (r : Region) (word : Nat) : Word := if word = 0 then r.base else if word = 1 then r.limit else if word = 2 then r.attr else r.ext
/-- DCTL (R333). -/
def dctl (s : State) : Word := (0#48 ++ s.disp.pthr ++ 0#6 ++ BitVec.ofBool s.disp.hold ++ BitVec.ofBool s.disp.en : BitVec 64)
/-- DSTAT (R333): launches that wait, tasks that run, tasks that are accepted. -/
def dstat (s : State) : Word :=
  (0#19 ++ BitVec.ofNat 13 s.disp.launchq.length ++ 0#3 ++ BitVec.ofNat 13 (s.disp.tasks.filter (fun t => t.st == .running)).length ++ 0#3
    ++ BitVec.ofNat 13 s.disp.tasks.length : BitVec 64)
def readResync (s : State) (b : BitVec 2) (o : Nat) : Word :=
  let x := resyncBlk s b
  if o = 0x100 then x.addr
  else if o = 0x108 then zext64 x.len
  else if o = 0x110 then (0#62 ++ BitVec.ofBool x.pdisc ++ 0#1 : BitVec 64)
  else (x.bytes ++ 0#29 ++ BitVec.ofBool x.short ++ BitVec.ofBool x.done ++ BitVec.ofBool x.busy : BitVec 64)
/-- A register of host-link block blk (R394, R395): block 2 has no port. -/
def readLink (s : State) (blk : BitVec 2) (o : Nat) : Word :=
  let l := linkOf s blk
  let bit (v : Byte) : Bool := decide (blk.toNat < 2) && v.getLsbD blk.toNat
  if o = 0x00 then (0#61 ++ BitVec.ofBool (bit s.hw.parked) ++ BitVec.ofBool (bit s.hw.secure) ++ BitVec.ofBool l.lup : BitVec 64)
  else if o = 0x08 then l.hevbase
  else if o = 0x10 then zext64 l.hevctl
  else if o = 0x18 then zext64 l.hevhead
  else if o = 0x20 then zext64 l.hevtail
  else if o = 0x40 then l.bpage
  else if o = 0x48 then (0#47 ++ BitVec.ofBool l.bdir ++ l.bcnt : BitVec 64)
  else if o = 0x50 then (pagesH s ++ l.bdone ++ 0#14 ++ BitVec.ofBool l.berr ++ BitVec.ofBool l.bbusy : BitVec 64)
  else if o < 0x800 then readResync s blk o
  else
    let e := vget (0#64, 0#64) l.aper (BitVec.ofNat 4 ((o - 0x800) / 16))
    if o % 16 = 0 then e.1 else e.2
def readOwner (o : Owner) : Word :=
  (0#16 ++ o.vec ++ 0#29 ++ BitVec.ofBool o.port ++ BitVec.ofBool o.locb ++ BitVec.ofBool o.host : BitVec 64)
/-- TRCTL (R425). -/
def trctlWord (s : State) : Word :=
  (s.trace.drops ++ 0#22 ++ s.trace.fcause ++ BitVec.ofBool s.trace.frozen ++ BitVec.ofBool s.trace.en : BitVec 64)
def readFill (p : FillPort) (o : Nat) : Word :=
  if o = 0 then p.src
  else if o = 8 then p.dst
  else if o = 0x10 then p.len
  else (p.tag ++ 0#28 ++ BitVec.ofBool p.err ++ BitVec.ofBool p.done ++ BitVec.ofBool p.busy ++ 0#1 : BitVec 64)

/-- A register of the I/O die. -/
def readIo (s : State) (o : Nat) : Word :=
  if o < 0x800 then readRegion (regionAt s (BitVec.ofNat 6 (o / 32))) (o % 32 / 8)
  else if o = 0x1000000 then dctl s
  else if o = 0x1000008 then dstat s
  else if o < 0x2000120 then readResync s 2#2 (o - 0x2000000)
  else if o < 0x3000200 then readOwner (vget ⟨0#16, false, false, false⟩ s.owners (BitVec.ofNat 6 ((o - 0x3000000) / 8)))
  else if o < 0x3000A00 then 0#64
  else if o < 0x4300000 then readLink s (BitVec.ofNat 2 ((o - 0x4000000) / 0x100000)) ((o - 0x4000000) % 0x100000)
  else if o < 0x4300200 then zext64 (vget 0#8 s.disp.windows (BitVec.ofNat 6 ((o - 0x4300000) / 8)))
  else if o = 0x5000000 then fwctl s.fw
  else if o < 0x5000180 then zext64 (vget 2#3 s.hw.agent (BitVec.ofNat 4 ((o - 0x5000100) / 8)))
  else if o = 0x6000000 then trctlWord s
  else if o = 0x6000008 then zext64 s.trace.wptr
  else readFill (portOf s (o % 0x400 / 0x100)) (o % 0x100)

/-- The trap ring of a cluster (R363). -/
def readTrapRing (cl : Cluster) (o : Nat) : Word :=
  if o = 0 then cl.trbase else if o = 8 then zext64 cl.trctl else if o = 0x10 then zext64 cl.trhead else zext64 cl.trtail
/-- A front end's control block (R365). -/
def readControl (c : Ctx) (o : Nat) : Word :=
  if o = 0 then (0#55 ++ BitVec.ofBool c.dbg ++ 0#8 : BitVec 64)
  else if o = 8 then zext64 (cstat c)
  else if o = 0x10 then c.img.addr
  else zext64 c.img.len
/-- A core's window: while a context is in the Rinse, its map and its segments read as 0 (R382). -/
def readCore (s : State) (core : CoreId) (o : Nat) : Word :=
  if o < 0x200 then readControl (s.ctx (core ++ BitVec.ofNat 1 (o / 0x100))) (o % 0x100)
  else if o < 0x100400 then
    let c := s.ctx (core ++ BitVec.ofNat 1 ((o - 0x100000) / 0x200))
    let e := mget 0#7 c.pages ((o - 0x100000) % 0x200 / 8)
    if c.life = .rinsing then 0#64 else (0#55 ++ e.extractLsb' 6 1 ++ 0#2 ++ e.extractLsb' 0 6 : BitVec 64)
  else if o < 0x210000 then
    let n := (o - 0x200000) / 0x1000
    if (segOwner s core n).any (fun x => (s.ctx x.1).life == .rinsing) then 0#64
    else if o % 0x1000 = 0x800 then segControl s core n
    else mget 0#64 (segAt s core n).ents (o % 0x1000 / 8)
  else
    let st := (s.core core.toNat).istore
    let i := (o - 0x400000) / 4
    (mget 0#32 st (i + 1) ++ mget 0#32 st i : BitVec 64)

/-- A host reads its own host-link block (R393, R395), the dispatcher (R333) and FWCTL (R415); firmware on package reads all. -/
def mayReadIo (who : Agent) (o : Nat) : Bool :=
  let all := o == 0x1000000 || o == 0x1000008 || o == 0x5000000
  match who with
  | .headwater | .crown _ => true
  | .host0 => all || decide (0x4000000 ≤ o ∧ o < 0x4100000)
  | .host1 => all || decide (0x4100000 ≤ o ∧ o < 0x4200000)

/-- What a read of 8 bytes at a device physical address of the MMIO windows returns: 0 at a reserved offset (R28). -/
def mmioRead (s : State) (who : Agent) (a : Nat) : Word :=
  if 0xF000000000 ≤ a ∧ a < 0xF400000000 then
    let d := (a - 0xF000000000) / 0x100000000
    let k := (a - 0xF000000000) % 0x100000000 / 0x10000000
    let o := a % 0x10000000
    if 8 ≤ k || !clusterReg o || !onPackage who then 0#64
    else if o < 0x1000000 then readTrapRing (s.cluster (8 * d + k)) o
    else readCore s (BitVec.ofNat 8 (8 * (8 * d + k) + (o / 0x1000000 - 1))) (o % 0x1000000)
  else if 0xF800000000 ≤ a ∧ a < 0xF900000000 then
    let o := a - 0xF800000000
    if ioReg o && mayReadIo who o then readIo s o else 0#64
  else 0#64

end Sys2Proof.Machine
end

