-- ==== Sys2Proof/Machine/Routine.lean ====
section
/-! DEFINITION. Block routines: the micro-words, their waits and the cooperative groups (07_matrix R193 to R205). -/
namespace Sys2Proof.Machine

/-- A micro-word of the core's block store. -/
def microWord (s : State) (fe : FeId) (pc : Nat) : BitVec 32 := mget 0#32 (s.core (coreOf fe)).bstore pc

/-- The cause of a routine fault with its log (R212): a P00 logs its micro-word and its index. -/
def microFault (s : State) (r : MRun) (cause : Cause) : State :=
  if cause = .p00 then mtrap s s.cur r .p00 ((microWord s s.cur r.mpc).setWidth 64) (BitVec.ofNat 64 r.mpc)
  else mtrap s s.cur r cause r.cmd.word 0#64

/-- Goes on at word pc; past word 4,095 it is P00 (R193). -/
def microGoto (s : State) (m : Mat) (r : MRun) (pc : Nat) : State :=
  if 4096 ≤ pc then mtrap s s.cur r .p00 0#64 (BitVec.ofNat 64 pc)
  else s.modMat s.cur (fun _ => { m with run := some { r.setMpc pc with waited := 0 } })
/-- Goes on at the next word. -/
def microNext (s : State) (m : Mat) (r : MRun) : State := microGoto s m r (r.mpc + 1)
/-- The routine waits before its word. -/
def microWait (s : State) (r : MRun) (w : MWait) : State :=
  match (s.mat s.cur).run with
  | none => s
  | some r0 => s.modMat s.cur (fun m => { m with run := some { r0 with wait := w, waited := r.waited } })

/-! ### Sources (R194) -/

/-- An index source; none for the reserved code. -/
def MRun.idx (r : MRun) (code : BitVec 3) : Option Nat :=
  match code.toNat with
  | 0 => some (r.c 0)
  | 1 => some (r.c 1)
  | 2 => some (r.c 2)
  | 3 => some (r.c 3)
  | 4 => some 0
  | 5 => some (r.c 0 * pmMP r.params + r.c 1)
  | 6 => some (r.c 0 * pmNP r.params + r.c 2)
  | _ => none
/-- A count source; none for the reserved codes. -/
def MRun.count (r : MRun) (code : BitVec 3) (imm : BitVec 16) : Option Nat :=
  match code.toNat with
  | 0 => some imm.toNat
  | 1 => some (pmMP r.params)
  | 2 => some (pmNP r.params)
  | 3 => some (r.field 15 0 32)
  | 4 => some (pmKTB r.params (r.c 0))
  | 5 => some (bitsOf (pmW r.params 7) (8 * (imm.toNat % 8)) 8)
  | _ => none

/-! ### Pulls (R196, R171, R205) -/

/-- How a part of a micro-word ends. -/
inductive MRes where
  | ok (m : Mat) (r : MRun) (sends : List (FeId × McBlock))
  | wait (w : MWait)
  | fault (c : Cause)

def MRes.andThen (x : MRes) (f : Mat → MRun → MRes) : MRes :=
  match x with
  | .ok m r l =>
    match f m r with
    | .ok m' r' l' => .ok m' r' (l ++ l')
    | .wait w => .wait w
    | .fault c => .fault c
  | .wait w => .wait w
  | .fault c => .fault c

/-- Takes a multicast block of the routine's tag and entry (R205). -/
def takeMcast (m : Mat) (r : MRun) (isM : Bool) : Option (McBlock × Mat) :=
  let f := fun (b : McBlock) => b.isM == isM && b.tag == pmTAG r.params && b.rout == r.rout
  match m.mc.find? f with
  | none => none
  | some b => some (b, { m with mc := m.mc.eraseP f })

/-- A receiver's pull of B or M. -/
def pullMcast (m : Mat) (r : MRun) (k t b : Nat) : MRes :=
  match takeMcast m r (k == 2) with
  | none => .wait (.mcast (k == 2))
  | some (blk, m) =>
    match raiseBand m r [blk.band] with
    | none => .fault .p06
    | some (m, r) =>
      .ok m ((r.setLatch k t b).putLatch k blk.block) []

/-- A pull of latch k: tile offset t, block b. -/
def pull (c : Ctx) (k t b : Nat) (m : Mat) (r : MRun) : MRes :=
  let p := r.params
  let ring := m.ring (r.handle k)
  if pmKT p ≤ b then .fault .p10
  else if k ≠ 0 ∧ pmReceiver p = true then pullMcast m r k t b
  else if ring.valid = false ∨ ring.count.toNat ≤ t then .fault .p10
  else if ring.fill.toNat ≤ t then .wait (.ring (BitVec.ofNat 2 k) t)
  else
    let c := c.withMat m c.spm
    let lines := blockLines c p r.dim k t b
    if lines.any (fun l => (spmLine c.engineSpm l).form) then .fault .p07
    else
      match raiseBand m r (lines.map (fun l => (spmLine c.engineSpm l).band)) with
      | none => .fault .p06
      | some (m, r) =>
        let x := blockLatch c p r.dim k t b
        let r := ((r.setLatch k t b).setPops k (max (r.pops k) (t + 1))).putLatch k x
        let sends := if k = 0 ∨ pmGSZL p = 0 then [] else
          let band := (bandOf (lines.map (fun l => (spmLine c.engineSpm l).band))).getD 0#8
          let blk : McBlock := ⟨k == 2, pmTAG p, r.rout, x, band⟩
          (pmColumn p).map (fun fe => (fe, blk))
        .ok m r sends

/-- `sqpop` (R200, R201). -/
def popScale (m : Mat) (r : MRun) : MRes :=
  match m.scale with
  | [] => .fault .p03
  | x :: rest =>
    if !x.ready then .wait .scale
    else
      match raiseBand { m with scale := rest } r [x.band] with
      | none => .fault .p06
      | some (m, r) =>
        .ok m { ((r.setField 10 23 1 1).setField 10 24 8 x.ea.toNat).setField 10 32 8 x.eb.toNat with pairPoison := x.poison } []

/-- The step of a patch with its checks (R197). -/
def stepChecked (mi ni : Nat) (m : Mat) (r : MRun) : MRes :=
  let p := r.params
  if pmMP p ≤ mi ∨ pmNP p ≤ ni then .fault .p10
  else if (blockScaled (pmFA p) || blockScaled (pmFB p)) && !r.spv then .fault .p03
  else if !(r.latValid 0 && r.latValid 1) || (pmSPN p != 0 && !r.latValid 2) then .fault .p10
  else
    let y := stepPatch m r mi ni
    .ok y.1 y.2 []

/-- Delivers multicast blocks; a member that waits for one of its tag and routine goes on (R205). -/
def deliver (s : State) : List (FeId × McBlock) → State
  | [] => s
  | (fe, b) :: t =>
    let s := if (s.ctx fe).life = .unbound then s else
      s.modMat fe (fun m => { m with
        mc := m.mc ++ [b],
        run := m.run.map (fun r =>
          if r.wait = .mcast b.isM ∧ b.tag = pmTAG r.params ∧ b.rout = r.rout then { r with wait := .none } else r) })
    deliver s t

/-- Ends a micro-word by its result; `f` goes on from the new state of the unit. -/
def microEnd (s : State) (r : MRun) (x : MRes) (f : State → Mat → MRun → State) : State :=
  match x with
  | .ok m r' l => f (deliver s l) m r'
  | .wait w => microWait s r w
  | .fault c => microFault s r c

/-- The latches of a routine that goes on are pulled again from its rings; blocks that came by multicast stay, since a receiver
reads no ring (R190, R205; assumption log 75). -/
def repullLatch (c : Ctx) (k : Nat) (m : Mat) (r : MRun) : MRes :=
  if !r.latValid k || (k != 0 && pmReceiver r.params) then .ok m r []
  else
    match pull c k (r.latTile k) (r.latBlock k) m r with
    | .ok m r _ => .ok m r []
    | .wait w => .wait w
    | .fault x => .fault x
def repullAll (c : Ctx) (m : Mat) (r : MRun) : MRes :=
  (repullLatch c 0 m { r with repull := false }).andThen (fun m r => (repullLatch c 1 m r).andThen (repullLatch c 2))

/-- A micro-word of the started routine of the executing front end: without one, or while it rests or drains, there is no
effect; a routine that goes on first pulls its latches; `ok` is its field check (P00, R52). -/
def microOp (s : State) (ok : Bool) (f : MRun → State) : State :=
  match (s.mat s.cur).run with
  | none => s
  | some r =>
    if r.phase ≠ .words ∨ r.frozen = true ∨ r.indr = true then s
    else if !ok then mtrap s s.cur r .p00 ((microWord s s.cur r.mpc).setWidth 64) (BitVec.ofNat 64 r.mpc)
    else if r.repull then
      microEnd s r (repullAll (s.ctx s.cur) (s.mat s.cur) { r with wait := .none })
        (fun s m r => s.modMat s.cur (fun _ => { m with run := some r }))
    else f { r with wait := .none }

/-- `pulla`, `pullb`, `pullm` (R196). -/
def pullOp (s : State) (k : Nat) (ts bs : BitVec 3) : State :=
  microOp s (ts != 7#3 && bs != 7#3) (fun r =>
    microEnd s r (pull (s.ctx s.cur) k ((r.idx ts).getD 0) ((r.idx bs).getD 0) (s.mat s.cur) r) microNext)

def execPulla (ts bs : BitVec 3) (s : State) : Out := .next (pullOp s 0 ts bs)
def execPullb (ts bs : BitVec 3) (s : State) : Out := .next (pullOp s 1 ts bs)
def execPullm (ts bs : BitVec 3) (s : State) : Out := .next (pullOp s 2 ts bs)

def execSqpop (s : State) : Out := .next (microOp s true (fun r => microEnd s r (popScale (s.mat s.cur) r) microNext))

def execStep (ms ns : BitVec 3) (s : State) : Out :=
  .next (microOp s (ms != 7#3 && ns != 7#3) (fun r =>
    microEnd s r (stepChecked ((r.idx ms).getD 0) ((r.idx ns).getD 0) (s.mat s.cur) r) microNext))

/-- One iteration of `stepk` (R198). -/
def stepkBody (c : Ctx) (mi ni ta tb b : Nat) (m : Mat) (r : MRun) : MRes :=
  let p := r.params
  let x := (pull c 0 ta b m r).andThen (pull c 1 tb b)
  let x := if pmSPN p = 0 then x else x.andThen (pull c 2 tb b)
  let x := if blockScaled (pmFA p) || blockScaled (pmFB p) then x.andThen popScale else x
  x.andThen (stepChecked mi ni)

/-- `stepk` (R198): one block for each execution; STKB names the next one. -/
def execStepk (ms ns ats bts : BitVec 3) (s : State) : Out :=
  .next (microOp s (ms != 7#3 && ns != 7#3 && ats != 7#3 && bts != 7#3) (fun r =>
    let b := if r.instk then r.stkb else 0
    let n := pmKTB r.params (r.c 0)
    let stop := fun (r : MRun) => (r.setField 10 22 1 0).setField 10 42 8 0
    if n ≤ b then microNext s (s.mat s.cur) (stop r)
    else
      microEnd s r (stepkBody (s.ctx s.cur) ((r.idx ms).getD 0) ((r.idx ns).getD 0) ((r.idx ats).getD 0) ((r.idx bts).getD 0) b
        (s.mat s.cur) r) (fun s m r =>
          if n ≤ b + 1 then microNext s m (stop r)
          else s.modMat s.cur (fun _ => { m with run := some { (r.setField 10 22 1 1).setField 10 42 8 (b + 1) with waited := 0 } }))))

/-- `zacc` (R197). -/
def execZacc (ms ns : BitVec 3) (s : State) : Out :=
  .next (microOp s (ms != 7#3 && ns != 7#3) (fun r =>
    let p := r.params
    let mi := (r.idx ms).getD 0
    let ni := (r.idx ns).getD 0
    let u := patchRow p r.dim mi ni / 16
    if pmMP p ≤ mi ∨ pmNP p ≤ ni then microFault s r .p10
    else
      let y := markUnits (zeroUnits (s.mat s.cur) u (2 * r.dim) r.band) r u (2 * r.dim)
      microNext s y.1 y.2))

/-- `drain` (R197, R206): drains one patch through the Trimmer; the routine goes on after the last run. -/
def execDrain (ms ns : BitVec 3) (s : State) : Out :=
  .next (microOp s (ms != 7#3 && ns != 7#3) (fun r =>
    let p := r.params
    let mi := (r.idx ms).getD 0
    let ni := (r.idx ns).getD 0
    if pmMP p ≤ mi ∨ pmNP p ≤ ni then microFault s r .p10
    else
      match drainFault s s.cur p r.dim, progEntry s s.cur (pmPROG p) with
      | some c, _ => microFault s r c
      | none, some e => s.setRun s.cur (r.enterPatch e mi ni)
      | none, none => s))

/-! ### Loops, waits, swap, return (R199, R200, R205) -/

/-- The word after the `endl` that matches a `loop`, searching from pc on with n inner loops open (R199). -/
def afterEndl (s : State) (fe : FeId) (pc n : Nat) : Nat → Nat
  | 0 => 4096
  | fuel + 1 =>
    let op := (microWord s fe pc).extractLsb' 27 5
    if op = 0x0A#5 then (if n = 0 then pc + 1 else afterEndl s fe (pc + 1) (n - 1) fuel)
    else if op = 0x09#5 then afterEndl s fe (pc + 1) (n + 1) fuel
    else afterEndl s fe (pc + 1) n fuel
/-- The first word of the loop that an `endl` closes, searching from word pc − 1 down with n inner loops open (R199). -/
def loopBody (s : State) (fe : FeId) (n : Nat) : Nat → Nat
  | 0 => 0
  | pc + 1 =>
    let op := (microWord s fe pc).extractLsb' 27 5
    if op = 0x09#5 then (if n = 0 then pc + 1 else loopBody s fe (n - 1) pc)
    else if op = 0x0A#5 then loopBody s fe (n + 1) pc
    else loopBody s fe n pc

/-- `loop` (R199). -/
def execLoop (lvl cs : BitVec 3) (imm : BitVec 16) (s : State) : Out :=
  .next (microOp s (decide (cs.toNat ≤ 5)) (fun r =>
    let n := (r.count cs imm).getD 0
    if lvl.toNat ≠ r.depth ∨ 4 ≤ lvl.toNat then microFault s r .p00
    else if n = 0 then microGoto s (s.mat s.cur) ((r.setC lvl.toNat 0).setN lvl.toNat 0) (afterEndl s s.cur (r.mpc + 1) 0 (4096 - (r.mpc + 1)))
    else microNext s (s.mat s.cur) (((r.setC lvl.toNat 0).setN lvl.toNat n).setField 10 18 3 (r.depth + 1))))

/-- `endl` (R199). -/
def execEndl (s : State) : Out :=
  .next (microOp s true (fun r =>
    let l := r.depth - 1
    if r.depth = 0 then microFault s r .p00
    else if r.c l + 1 < r.n l then microGoto s (s.mat s.cur) (r.setC l (r.c l + 1)) (loopBody s s.cur 0 r.mpc)
    else microNext s (s.mat s.cur) ((r.setC l (r.c l + 1)).setField 10 18 3 l)))

/-- `syncc` (R205): a lone core passes it at once. -/
def execSyncc (s : State) : Out :=
  .next (microOp s true (fun r =>
    if pmGSZL r.params = 0 then microNext s (s.mat s.cur) (r.setOrdinal (r.ordinal + 1)) else microWait s r .sync))

/-- `waitr` (R200). -/
def execWaitr (ring : BitVec 2) (n : BitVec 9) (s : State) : Out :=
  .next (microOp s (ring != 3#2) (fun r =>
    let g := (s.mat s.cur).ring (r.handle ring.toNat)
    if g.valid = false ∨ g.count.toNat < n.toNat then microFault s r .p10
    else if n.toNat ≤ g.fill.toNat then microNext s (s.mat s.cur) r
    else microWait s r (.ring ring (n.toNat - 1))))

/-- `swap` (R200). -/
def execSwap (s : State) : Out :=
  .next (microOp s true (fun r => microNext s (s.mat s.cur) (r.setField 10 21 1 (if r.swp then 0 else 1))))

/-- Pops tiles of a ring (R171). -/
def popRing (m : Mat) (hnd : BitVec 4) (n : Nat) : Mat :=
  let g := m.ring hnd
  if n = 0 then m
  else { m with rings := vset m.rings hnd { g with head := BitVec.ofNat 8 ((g.head.toNat + n) % g.count.toNat), fill := g.fill - BitVec.ofNat 9 n } }

/-- The tiles that the ring of handle `hnd` pops at `ret`: 1 + the highest offset pulled from it, by whichever operands name it
(R200). -/
def MRun.popsOf (r : MRun) (hnd : BitVec 4) : Nat :=
  ((List.range 3).filter (fun k => r.handle k == hnd)).foldl (fun n k => max n (r.pops k)) 0
/-- The handles that a routine pulls from, each once. -/
def MRun.handles (r : MRun) : List (BitVec 4) := ([r.handle 0, r.handle 1, r.handle 2]).eraseDups

/-- `ret` (R182, R200): the rings pop, and DR drains the region. -/
def execRet (s : State) : Out :=
  .next (microOp s true (fun r =>
    if r.depth ≠ 0 then microFault s r .p00
    else
      let m := r.handles.foldl (fun m h => popRing m h (r.popsOf h)) (s.mat s.cur)
      let dr := match r.cmd.kind with
        | .call flags _ _ => flags.getLsbD 2
        | .alg _ | .zero | .drain | .drainRaw | .fill | .tload _ => false
      let r := ((r.setPops 0 0).setPops 1 0).setPops 2 0
      if dr then startDrain (s.modMat s.cur (fun _ => m)) s.cur (r.setField 15 45 1 1)
      else s.modMat s.cur (fun _ => { m with run := some { r with phase := .finished } })))

/-! ### Waits that end (R171, R201, R205) -/

def wakeRun (s : State) (fe : FeId) (r : MRun) : State := s.modMat fe (fun m => { m with run := some { r with wait := .none } })

/-- RING_WAIT_RELEASE (R171, R200). -/
def execRingWaitRelease (fe : FeId) (s : State) : Out :=
  .next (match (s.mat fe).run with
    | none => s
    | some r =>
      match r.wait with
      | .ring k t => if t < ((s.mat fe).ring (r.handle k.toNat)).fill.toNat then wakeRun s fe r else s
      | .none | .scale | .sync | .mcast _ => s)

/-- SCALE_QUEUE_WAIT_RELEASE (R201). -/
def execScaleQueueWaitRelease (fe : FeId) (s : State) : Out :=
  .next (match (s.mat fe).run with
    | none => s
    | some r =>
      if r.wait = .scale ∧ (((s.mat fe).scale.head?.map (·.ready)).getD true) = true then wakeRun s fe r else s)

/-- Does a member stand at the same `syncc` (R205). -/
def atSync (s : State) (r : MRun) (fe : FeId) : Bool :=
  match (s.mat fe).run with
  | none => false
  | some q => q.wait == .sync && !q.frozen && pmTAG q.params == pmTAG r.params && q.rout == r.rout && q.ordinal == r.ordinal

/-- A member passes its `syncc`. -/
def passSync (s : State) (fe : FeId) : State :=
  match (s.mat fe).run with
  | none => s
  | some q => microNext { s with cur := fe } (s.mat fe) { q.setOrdinal (q.ordinal + 1) with wait := .none, waited := 0 }

/-- SYNCC_RELEASE (R205): every member stands at the same ordinal. -/
def execSynccRelease (fe : FeId) (s : State) : Out :=
  .next (match (s.mat fe).run with
    | none => s
    | some r =>
      if r.wait = .sync ∧ (pmMembers r.params).all (atSync s r) = true then
        { (pmMembers r.params).foldl passSync s with cur := s.cur }
      else s)

def waitsForGroup (r : MRun) : Bool :=
  match r.wait with
  | .sync | .mcast _ => true
  | .none | .ring _ _ | .scale => false

/-- A waiting member of a group that has overrun its time (R205). -/
def groupTimeout (s : State) (fe : FeId) : State :=
  match (s.mat fe).run with
  | none => s
  | some r => if waitsForGroup r then mtrap s fe r .p10 r.cmd.word 0#64 else s

/-- COOPERATIVE_TIMEOUT (R205): 2^20 cycles with no member frozen; every waiting member raises P10. -/
def execCooperativeTimeout (fe : FeId) (s : State) : Out :=
  .next (match (s.mat fe).run with
    | none => s
    | some r => if waitsForGroup r ∧ 2 ^ 20 ≤ r.waited then (pmMembers r.params).foldl groupTimeout s else s)

/-- One more cycle of waiting, unless a member is frozen (R191, R205). -/
def countWait (s : State) (fe : FeId) : State :=
  match (s.mat fe).run with
  | none => s
  | some r =>
    if waitsForGroup r ∧ !(pmMembers r.params).any (fun x => (s.mat x).frozen || wantsFreeze (s.ctx x)) then
      s.modMat fe (fun m => { m with run := some { r with waited := r.waited + 1 } })
    else s

/-- ILLEGAL_MICRO_WORD (R52, R193): P00 against the command's context. -/
def execIllegalMicroWord (fe : FeId) (w : BitVec 32) (s : State) : Out :=
  .next (match (s.mat fe).run with
    | none => s
    | some r =>
      if r.phase ≠ .words ∨ r.frozen = true ∨ r.indr = true then s
      else mtrap s fe r .p00 (w.setWidth 64) (BitVec.ofNat 64 r.mpc))

end Sys2Proof.Machine
end

