-- ==== Sys2Proof/Machine/Softmax.lean ====
section
/-! DEFINITION. The softmax state unit of the VA pipe (11_attention R311 to R319). -/
namespace Sys2Proof.Machine

/-- The slot of the unit's ops (R35). -/
def slotVA : BitVec 3 := 1#3

def Softmax.row (u : Softmax) (x : Nat) : SmRow := u.rows[x]?.getD (SmRow.reset x)
def Softmax.setRow (u : Softmax) (x : Nat) (r : SmRow) : Softmax := { u with rows := u.rows.setIfInBounds x r }
/-- The slots of group g (R311). -/
def Softmax.members (u : Softmax) (g : BitVec 6) : List Nat := (List.range 64).filter (fun x => (u.row x).grp == g)
/-- A group is poisoned when any of its rows is (R311). -/
def Softmax.groupPoison (u : Softmax) (g : BitVec 6) : Bool := (u.members g).any (fun x => (u.row x).poison)

def State.modSm (s : State) (f : Softmax → Softmax) : State :=
  s.modCtx s.cur (fun c => { c with regs := { c.regs with softmax := f c.regs.softmax } })

/-- The unit's band once it has met the bands an op reads (R318). -/
def smBand (c : Ctx) (h : OpHdr) (bs : List Band) : Option Band := bandOf (c.regs.softmax.band :: bs ++ guardBand c h)

/-- A poisoned active lane of A poisons the slot's row (R318). -/
def Softmax.stain (u : Softmax) (row : BitVec 6) (lanes : BitVec 4) : Softmax :=
  u.setRow row.toNat { u.row row.toNat with poison := (u.row row.toNat).poison || lanes != 0#4 }

/-! ### `sminit` (R313) -/

/-- The groups that a range of slots overlaps. -/
def Softmax.overlapped (u : Softmax) (row n : Nat) : List (BitVec 6) := (List.range (n + 1)).map (fun k => (u.row (row + k)).grp)
/-- Slots ROW to ROW + n become one group; the rest of a group that overlapped becomes groups of one. -/
def Softmax.init (u : Softmax) (row n : Nat) : Softmax :=
  { u with rows := Vector.ofFn (fun i : Fin 64 =>
      if row ≤ i.val ∧ i.val ≤ row + n then { SmRow.reset i.val with grp := BitVec.ofNat 6 row }
      else if (u.overlapped row n).contains (u.row i.val).grp then SmRow.reset i.val
      else u.row i.val) }

def execSminit (h : OpHdr) (n : BitVec 5) (row : BitVec 6) (s : State) : Out :=
  .next (guardedOp s slotVA h (decide (row.toNat + n.toNat ≤ 63)) (fun s =>
    match smBand (s.ctx s.cur) h [] with
    | none => opFault s slotVA .p06 0#64
    | some b => s.modSm (fun u => { u.init row.toNat n.toNat with band := b })))

/-! ### `smstep` (R314) -/

/-- The least integer that is not below a finite value. -/
def ceilXV : XV → Int
  | .fin n m e k => let q : Int := roundMag .rup n m e k 0; if n then -q else q
  | .inf n => if n then -(2 ^ 40) else 2 ^ 40
  | .nan => 0

/-- E after a rise or a first value. -/
def satE (x : Int) : Int := satInt x (-(2 ^ 31)) (2 ^ 31 - 1)

/-- L × 2^dl rounded to FP32; an exponent below −4,096 gives what −4,096 gives. -/
def shiftL (rm : Rm) (l : BitVec 32) (dl : Int) : BitVec 32 := round32 rm ((val32 l).scale (max dl (-4096)))

/-- Sets E, K and NEW of group g. -/
def Softmax.setGroup (u : Softmax) (g : BitVec 6) (e k : Int) (new : Bool) : Softmax :=
  u.setRow g.toNat { u.row g.toNat with e := BitVec.ofInt 32 e, k := BitVec.ofInt 16 k, new := new }

/-- The rise of the group's reference exponent that a block with maximum `mn` brings. -/
def Softmax.raise (u : Softmax) (rm : Rm) (g : BitVec 6) (mn : XV) : Softmax :=
  let r := u.row g.toNat
  let e := r.e.toInt
  if r.new then (if mn = .inf true then u else u.setGroup g (satE (ceilXV mn)) r.k.toInt false)
  else if cmpXV mn (XV.ofInt (e + 8)) = .gt then
    let en := satE (ceilXV mn)
    let dl := e - en
    let u := (u.members g).foldl (fun u x => u.setRow x { u.row x with l := shiftL rm (u.row x).l dl }) u
    u.setGroup g en (satInt (r.k.toInt + dl) (-32768) 32767) false
  else u

/-- One block of scores for row slot `row`: the unit afterwards, and the weights of the scores (R314). -/
def Softmax.step (u : Softmax) (rm : Rm) (row : BitVec 6) (scores : List XV) : Softmax × List Nat :=
  let r := u.row row.toNat
  if scores.any XV.isNan || (val32 r.l).isNan then
    (u.setRow row.toNat { r with m := nan32, l := nan32 }, scores.map (fun _ => nan32.toNat))
  else
    let mn := scores.foldl fpMax (val32 r.m)
    let u := u.raise rm r.grp mn
    let g := u.row r.grp.toNat
    let ws := scores.map (fun a => if g.new then 0 else roundTo fmtF32 rm (exp2XV (sumXV .rne [a, XV.ofInt (-g.e.toInt)])))
    let x := u.row row.toNat
    (u.setRow row.toNat { x with m := round32 .rne mn,
                                 l := round32 rm (sumXV rm (val32 x.l :: ws.map fmtF32.value)) }, ws)

/-- `smstep`: P06 changes nothing; a poisoned active lane poisons the row (R318). -/
def execSmstep (h : OpHdr) (d : BitVec 6) (a : VSrc) (row : BitVec 6) (rms : Rms) (s : State) : Out :=
  .next (vecOp s false h true [a] (fun s vs =>
    let c := s.ctx s.cur
    let va := vs.getD 0 zeroVReg
    let act := vecAct s h 4
    match smBand c h [va.band] with
    | none => opFault s slotVA .p06 0#64
    | some b =>
      let (u, ws) := c.regs.softmax.step (rmOf c rms) row (act.map (laneXV fmtF32 va.bits 4))
      let u := u.stain row (lanePoison 4 act [va])
      let pz := if u.groupPoison (u.row row.toNat).grp then 15#4 else 0#4
      let tab := act.zip ws
      landVec (s.modSm (fun _ => { u with band := b })) false h 6 d
        (buildLanes 4 act (fun i => ((tab.find? (fun p => p.1 == i)).map (·.2)).getD 0)) (lanesMask 4 act) pz [b] false false false))

/-! ### `smrsc`, `smfin`, `smget` (R315 to R317) -/

/-- `smrsc`: sD := SignExt(K), then K := 0; the result joins the guard and the old sD when G ≠ 0. -/
def execSmrsc (h : OpHdr) (d row : BitVec 6) (s : State) : Out :=
  .next (guardedOp s slotVA h true (fun s =>
    let c := s.ctx s.cur
    let u := c.regs.softmax
    let g := (u.row row.toNat).grp
    let r := u.row g.toNat
    match smBand c h [] with
    | none => opFault s slotVA .p06 0#64
    | some b =>
      match bandOf (b :: (if h.g = 0#4 then [] else [(c.rS d).band])) with
      | none => opFault s slotVA .p06 0#64
      | some rb =>
        landRegs (s.modSm (fun u => { u.setRow g.toNat { r with k := 0#16 } with band := b })) slotVA 6
          [.s d ⟨sext64 r.k, rb, u.groupPoison g⟩]))

/-- a / b under IEEE 754, exact up to its sticky mark. -/
def divXV : XV → XV → XV
  | .nan, _ => .nan
  | _, .nan => .nan
  | .inf _, .inf _ => .nan
  | .inf n, .fin n' _ _ _ => .inf (n != n')
  | .fin n _ _ _, .inf n' => .zero (n != n')
  | .fin n m e _, .fin n' m' e' _ =>
    if m' = 0 then (if m = 0 then .nan else .inf (n != n'))
    else
      let k := Nat.log2 m' + 200
      .fin (n != n') ((m <<< k) / m') (e - e' - k) ((m <<< k) % m' != 0)

/-- `smfin` (R316, R318): of the unit's state only the band and the poison marks change. -/
def execSmfin (h : OpHdr) (d : BitVec 6) (a : VSrc) (row : BitVec 6) (rms : Rms) (s : State) : Out :=
  .next (vecOp s false h true [a] (fun s vs =>
    let c := s.ctx s.cur
    let u := c.regs.softmax
    let va := vs.getD 0 zeroVReg
    let act := vecAct s h 4
    let r := u.row row.toNat
    let k := (u.row r.grp.toNat).k.toInt
    let f := fun i => if r.l = 0#32 then 0
      else roundTo fmtF32 (rmOf c rms) (divXV ((laneXV fmtF32 va.bits 4 i).scale k) (val32 r.l))
    match smBand c h [va.band] with
    | none => opFault s slotVA .p06 0#64
    | some b =>
      let u := { u.stain row (lanePoison 4 act [va]) with band := b }
      landVec (s.modSm (fun _ => u)) false h 6 d (buildLanes 4 act f) (lanesMask 4 act)
        (if u.groupPoison r.grp then 15#4 else 0#4) [b] false false false))

/-- The lanes of `smget` (R317). -/
def smgetLanes (u : Softmax) (row : BitVec 6) : List Nat :=
  let r := u.row row.toNat
  let g := u.row r.grp.toNat
  [r.m.toNat, r.l.toNat, g.e.toNat, (g.k.signExtend 32).toNat, r.grp.toNat,
    (if g.new then 1 else 0) + 2 * ((u.members r.grp).length - 1)]

def execSmget (h : OpHdr) (d row : BitVec 6) (s : State) : Out :=
  .next (guardedOp s slotVA h true (fun s =>
    let c := s.ctx s.cur
    let u := c.regs.softmax
    match smBand c h [] with
    | none => opFault s slotVA .p06 0#64
    | some b =>
      landVec (s.modSm (fun u => { u with band := b })) false h 6 d (BitVec.ofNat 2048 (packLanes 32 (smgetLanes u row)))
        (BitVec.allOnes 256) (if u.groupPoison (u.row row.toNat).grp then 15#4 else 0#4) [b] false false false))

end Sys2Proof.Machine
end

