-- ==== Sys2Proof/Machine/Trimmer.lean ====
section
/-! DEFINITION. The Trimmer: the words of a run over one accumulator row, and how a drain goes from run to run (07_matrix
R206 to R210). -/
namespace Sys2Proof.Machine

/-- A word of the core's Trimmer store. -/
def trimWord (s : State) (fe : FeId) (pc : Nat) : BitVec 32 := mget 0#32 (s.core (coreOf fe)).tstore pc

/-- Is a command of the front end inside a drain, and does its drain go on (R189). -/
def draining (r : MRun) : Bool := (r.phase == .drainLoop || (r.phase == .words && r.indr)) && r.trun.active && !r.frozen

/-- A fault of a Trimmer run (R212): a P00 logs its word and its index. -/
def trimFault (s : State) (r : MRun) (cause : Cause) : State :=
  if cause = .p00 then mtrap s s.cur r .p00 ((trimWord s s.cur r.trun.pc.toNat).setWidth 64) (r.trun.pc.setWidth 64)
  else mtrap s s.cur r cause r.cmd.word 0#64

/-- A Trimmer word of the draining command of the executing front end; without one there is no effect. A run of more
than 64 words is P00 (R206). -/
def trimOp (s : State) (ok : Bool) (f : MRun → State) : State :=
  match (s.mat s.cur).active with
  | none => s
  | some r =>
    if !draining r then s
    else if !ok || decide (64 ≤ r.trun.steps) then trimFault s r .p00
    else f { r with trun := { r.trun with steps := r.trun.steps + 1 } }

/-- Goes on at the next word; past word 511 it is P00 (R206). -/
def trimNext (s : State) (m : Mat) (r : MRun) : State :=
  if r.trun.pc = 511#9 then trimFault s r .p00
  else s.modMat s.cur (fun _ => m.setActive { r with trun := { r.trun with pc := r.trun.pc + 1#9 } })

/-- The run's register W changes. -/
def trimW (s : State) (r : MRun) (w : Vector (BitVec 32) 64) : State :=
  trimNext s (s.mat s.cur) { r with trun := { r.trun with w := w } }

/-- Rnd (R208). A sum that is exactly zero has the sign that R150 gives the vector ops: the model's choice, since R207 and R208
give none for the Trimmer (`tbias`, `tadd`, `trsum`, `tmulr`; assumption log 76). -/
def rnd (r : MRun) (x : XV) : BitVec 32 := round32 r.rm x
def TRun.lane (t : TRun) (i : Nat) : XV := val32 (t.w[i]?.getD 0#32)
/-- W[i] := f(W[i], i) in every lane. -/
def TRun.mapW (t : TRun) (f : Nat → XV → BitVec 32) : Vector (BitVec 32) 64 := Vector.ofFn (fun i : Fin 64 => f i.val (t.lane i.val))
def TRun.lanes (t : TRun) : List XV := (List.range 64).map t.lane

/-- ROW and COL of the run (R206). -/
def MRun.row (r : MRun) : Nat := r.dmi * 32 + r.drow
def MRun.col (r : MRun) : Nat := r.dni * 64 * r.dim + 64 * r.dj
/-- The accumulator row that the run drains. -/
def MRun.accRow (r : MRun) : Nat := patchRow r.params r.dim r.dmi r.dni + r.drow * r.dim + r.dj

/-- Reads a row of the share as FP32 words with its poison; P10 beyond the share; its unit's band joins (R207, R209,
R210). -/
def rowRead (s : State) (r : MRun) (row : Nat) (f : Mat → MRun → Vector (BitVec 32) 64 → Bool → State) : State :=
  let m := s.mat s.cur
  if 16 * m.units ≤ row then trimFault s r .p10
  else
    match raiseBand m r [unitBand m (row / 16)] with
    | none => trimFault s r .p06
    | some (m, r) => f m r (Vector.ofFn (fun i : Fin 64 => accWord m (64 * row + i.val))) (accRowPoison m row)

/-- An op with a constant row: W[i] := Rnd(f(W[i], K[i])). -/
def constOp (s : State) (k : BitVec 6) (f : Rm → XV → XV → XV) : State :=
  trimOp s true (fun r => rowRead s r k.toNat (fun m r kr pz =>
    let w := r.trun.mapW (fun i x => rnd r (f r.rm x (val32 (kr[i]?.getD 0#32))))
    trimNext s m { r with trun := { r.trun with w := w, wPoison := r.trun.wPoison || pz } }))

/-- `tld`. -/
def execTrimTld (src : Bool) (k : BitVec 6) (s : State) : Out :=
  .next (trimOp s (src || k == 0#6) (fun r =>
    rowRead s r (if src then k.toNat else r.accRow) (fun m r w pz =>
      trimNext s m { r with trun := { r.trun with w := w, wPoison := pz } })))
def execTbias (k : BitVec 6) (s : State) : Out := .next (constOp s k (fun rm x y => sumXV rm [x, y]))
def execTmul (k : BitVec 6) (s : State) : Out := .next (constOp s k (fun _ x y => mulXV x y))

/-- `tts` (R72): both roundings are RNE. -/
def execTts (s : State) : Out :=
  .next (trimOp s true (fun r =>
    let t := val32 (round32 .rne (mulXV (val32 (pmSA r.params)) (val32 (pmSB r.params))))
    trimW s r (r.trun.mapW (fun _ x => round32 .rne (mulXV x t)))))

/-- The functions of `tact`. -/
def tactFn (fn : Nat) (sh : Nat) (x : XV) : XV :=
  match fn with
  | 0 => if x.isNan then .nan else fpMax x (.zero false)
  | 1 => if x.isNan then .nan else if cmpXV x (.zero false) = .lt then x.scale (-(sh : Int)) else x
  | 2 => siluXV x
  | 3 => geluXV x
  | 4 => exp2XV x
  | _ => tanhXV x
def execTact (sh : BitVec 5) (fn : BitVec 4) (s : State) : Out :=
  .next (trimOp s (decide (fn.toNat ≤ 5) && (if fn == 1#4 then decide (1 ≤ sh.toNat ∧ sh.toNat ≤ 16) else sh == 0#5)) (fun r =>
    trimW s r (r.trun.mapW (fun _ x => rnd r (tactFn fn.toNat sh.toNat x)))))
def execTrnd (s : State) : Out :=
  .next (trimOp s true (fun r => trimW s r (r.trun.mapW (fun _ x => rnd r (integralXV r.rm x)))))

/-- O := conversions of the lanes; TNAN and TOVF (R208). -/
def trimConvert (s : State) (r : MRun) (sat : Bool) (fc : BitVec 4) (scale : Int) : State :=
  let f := (Fmt.ofCode fc).getD .e8m0
  let cv := r.trun.lanes.map (fun x => convert f r.rm sat (x.scale scale))
  let m := s.mat s.cur
  let m := { m with tnan := m.tnan || cv.any (·.cvnan), tovf := m.tovf || cv.any (·.cvovf) }
  trimNext s m { r with trun := { r.trun with o := some (fc, cv.map (·.bits)) } }
def execTcvt (sat : Bool) (fc : BitVec 4) (s : State) : Out :=
  .next (trimOp s (decide (3 ≤ fc.toNat ∧ fc.toNat ≤ 12)) (fun r => trimConvert s r sat fc 0))

/-- The clamp of one lane (R207). Between −0 and +0 it takes the order of R155, −0 below +0, as `relu` does: the model's choice,
since R207 names no order for the Trimmer (assumption log 76). -/
def clampXV (x l h : XV) : XV := if x.isNan then .nan else fpMin (fpMax x l) h
def execTsat (kl kh : BitVec 6) (s : State) : Out :=
  .next (trimOp s true (fun r =>
    rowRead s r kl.toNat (fun m r l pl =>
      rowRead (s.modMat s.cur (fun _ => m)) r kh.toNat (fun m r h ph =>
        let w := r.trun.mapW (fun i x => rnd r (clampXV x (val32 (l[i]?.getD 0#32)) (val32 (h[i]?.getD 0#32))))
        trimNext s m { r with trun := { r.trun with w := w, wPoison := r.trun.wPoison || pl || ph } }))))

def execTrmax (s : State) : Out :=
  .next (trimOp s true (fun r =>
    trimNext s (s.mat s.cur) { r with trun := { r.trun with q := rnd r (amaxXV r.trun.lanes (.zero false)) } }))
def execTrsum (sq : Bool) (s : State) : Out :=
  .next (trimOp s true (fun r =>
    let l := if sq then r.trun.lanes.map (fun x => mulXV x x) else r.trun.lanes
    trimNext s (s.mat s.cur) { r with trun := { r.trun with q := rnd r (sumXV r.rm l) } }))

/-- `tqnt` (R73, R207). -/
def execTqnt (sat : Bool) (fc : BitVec 4) (s : State) : Out :=
  .next (trimOp s (wfQfmt fc) (fun r =>
    let sb := scaleByte (val32 r.trun.q).abs (fmtEmax fc)
    trimConvert s { r with trun := { r.trun with s := BitVec.ofNat 8 sb } } sat fc (127 - (sb : Int))))

/-- `tadd`: the residual row (R207, R209, R210). -/
def execTadd (fc : BitVec 4) (s : State) : Out :=
  .next (trimOp s (fc == 3#4 || fc == 4#4 || fc == 10#4 || fc == 11#4 || fc == 12#4) (fun r =>
    let f := (Fmt.ofCode fc).getD .e8m0
    let w := f.width / 8
    let c := s.ctx s.cur
    let o := pmRES r.params + r.row * pmRPITCH r.params + r.col * w
    let lines := spmRangeLines o (64 * w)
    if c.spm.size < o + 64 * w then trimFault s r .p10
    else if lines.any (fun l => (spmLine c.engineSpm l).form) then trimFault s r .p07
    else
      match raiseBand c.eng.mat r (lines.map (fun l => (spmLine c.engineSpm l).band)) with
      | none => trimFault s r .p06
      | some (m, r) =>
        let x := spmNat c.engineSpm o (64 * w)
        let wv := r.trun.mapW (fun i y => rnd r (sumXV r.rm [y, f.value (elemOf x f.width i)]))
        trimNext s m { r with trun := { r.trun with w := wv, wPoison := r.trun.wPoison || spmRangePoison c.engineSpm o (64 * w) } }))

/-- The factor of `tmulr` (R207). -/
def mulrFactor (r : MRun) (epse sh f : Nat) : XV :=
  let q := val32 r.trun.q
  if f = 0 then q
  else if f = 1 then val32 (rnd r (rcpXV q))
  else val32 (rnd r (rsqrtXV (sumXV r.rm [q.scale (-(sh : Int)), .fin false 1 (-(epse : Int)) false])))
def execTmulr (epse : BitVec 8) (sh : BitVec 6) (f : BitVec 2) (s : State) : Out :=
  .next (trimOp s (f != 3#2 && (f == 2#2 || (sh == 0#6 && epse == 0#8))) (fun r =>
    let g := mulrFactor r epse.toNat sh.toNat f.toNat
    trimW s r (r.trun.mapW (fun _ x => rnd r (mulXV x g)))))

/-- Writes bytes to SPM with the run's band and W's poison (R209, R210, R216); the lines are remembered, since a row or a pull
read later may still raise the band. -/
def trimWrite (s : State) (r : MRun) (o : Nat) (bytes : List Byte) : State :=
  let c := s.ctx s.cur
  let data : SpmBytes := bytes.zipIdx.map (fun x => (o + x.2, x.1, r.trun.wPoison))
  if c.spm.size < o + bytes.length then trimFault s r .p10
  else if engineTenantBad c.spm r.band data then trimFault s r .p06
  else
    trimNext (s.modCtx s.cur (fun c => { c with spm := c.spm.engineWrite r.band data })) c.eng.mat
      { r with outLines := (r.outLines ++ linesOf data).eraseDups }

/-- `tst` (R207, R209): an empty O is P00. -/
def execTst (w : Bool) (s : State) : Out :=
  .next (trimOp s true (fun r =>
    let base := pmDST r.params + r.row * pmPITCH r.params
    if w then trimWrite s r (base + r.col * 4) (r.trun.w.toList.flatMap (fun x => natBytes x.toNat 4))
    else
      match r.trun.o with
      | none => trimFault s r .p00
      | some (fc, l) =>
        let b := fmtBits fc
        trimWrite s r (base + r.col * b / 8) (natBytes (packLanes b l) (8 * b))))

/-- `tsts` (R207, R209). -/
def execTsts (s : State) : Out :=
  .next (trimOp s true (fun r =>
    trimWrite s r (pmSCL r.params + r.row * pmNP r.params * r.dim + r.dni * r.dim + r.dj) [r.trun.s]))

/-- The run after the one that ended (R206): the next accumulator row, output row, patch; none at the end. A `drain`
micro-word ends with its patch. -/
def nextRun (r : MRun) : Option (Nat × Nat × Nat × Nat) :=
  if r.dj + 1 < r.dim then some (r.dmi, r.dni, r.drow, r.dj + 1)
  else if r.drow < 31 then some (r.dmi, r.dni, r.drow + 1, 0)
  else if r.phase = .words then none
  else if r.dni + 1 < pmNP r.params then some (r.dmi, r.dni + 1, 0, 0)
  else if r.dmi + 1 < pmMP r.params then some (r.dmi + 1, 0, 0, 0)
  else none

/-- `tend` (R206): the next run, or the end of the drain. -/
def execTend (s : State) : Out :=
  .next (trimOp s true (fun r =>
    let m := s.mat s.cur
    match nextRun r with
    | some (mi, ni, row, j) =>
      match progEntry s s.cur (pmPROG r.params) with
      | none => trimFault s r .p00
      | some e => s.modMat s.cur (fun _ => m.setActive { r.setDrain mi ni row j with trun := TRun.fresh e r.band })
    | none =>
      let r := { (r.setField 15 32 1 0).setField 15 45 1 0 with trun := TRun.none }
      if r.phase = .words then microNext s m r
      else s.modMat s.cur (fun _ => m.setActive { r with phase := .finished })))

/-- ILLEGAL_TRIMMER_WORD (R52, R206). -/
def execIllegalTrimmerWord (fe : FeId) (w : BitVec 32) (s : State) : Out :=
  .next (match (s.mat fe).active with
    | none => s
    | some r => if draining r then mtrap s fe r .p00 (w.setWidth 64) (r.trun.pc.setWidth 64) else s)

end Sys2Proof.Machine
end

