-- ==== Sys2Proof/Machine/Dispatch.lean ====
section
/-! DEFINITION. One arm for each instruction and event of the opcode table: a direct call of its meaning. -/
namespace Sys2Proof.Machine

def exec (i : Instr) (s : State) : Host.Outcome State Fault Refusal :=
  match i with
  | .nop h slot => Sys2Proof.Machine.execNop h slot s
  | .add h d a b => Sys2Proof.Machine.execAdd h d a b s
  | .sub h d a b => Sys2Proof.Machine.execSub h d a b s
  | .and h d a b => Sys2Proof.Machine.execAnd h d a b s
  | .or h d a b => Sys2Proof.Machine.execOr h d a b s
  | .xor h d a b => Sys2Proof.Machine.execXor h d a b s
  | .andn h d a b => Sys2Proof.Machine.execAndn h d a b s
  | .shl h d a b => Sys2Proof.Machine.execShl h d a b s
  | .shr h d a b => Sys2Proof.Machine.execShr h d a b s
  | .sra h d a b => Sys2Proof.Machine.execSra h d a b s
  | .rot h d a b => Sys2Proof.Machine.execRot h d a b s
  | .min h d a b => Sys2Proof.Machine.execMin h d a b s
  | .max h d a b => Sys2Proof.Machine.execMax h d a b s
  | .minu h d a b => Sys2Proof.Machine.execMinu h d a b s
  | .maxu h d a b => Sys2Proof.Machine.execMaxu h d a b s
  | .mul h d a b => Sys2Proof.Machine.execMul h d a b s
  | .mulh h d a b => Sys2Proof.Machine.execMulh h d a b s
  | .mulhu h d a b => Sys2Proof.Machine.execMulhu h d a b s
  | .div h d a b => Sys2Proof.Machine.execDiv h d a b s
  | .divu h d a b => Sys2Proof.Machine.execDivu h d a b s
  | .rem h d a b => Sys2Proof.Machine.execRem h d a b s
  | .remu h d a b => Sys2Proof.Machine.execRemu h d a b s
  | .clz h d a => Sys2Proof.Machine.execClz h d a s
  | .ctz h d a => Sys2Proof.Machine.execCtz h d a s
  | .popc h d a => Sys2Proof.Machine.execPopc h d a s
  | .bfx h d a sx lenm1 pos => Sys2Proof.Machine.execBfx h d a sx lenm1 pos s
  | .bfi h d a b lenm1 pos => Sys2Proof.Machine.execBfi h d a b lenm1 pos s
  | .sel h d a b c => Sys2Proof.Machine.execSel h d a b c s
  | .addi h d a imm => Sys2Proof.Machine.execAddi h d a imm s
  | .andi h d a imm => Sys2Proof.Machine.execAndi h d a imm s
  | .ori h d a imm => Sys2Proof.Machine.execOri h d a imm s
  | .xori h d a imm => Sys2Proof.Machine.execXori h d a imm s
  | .shli h d a n => Sys2Proof.Machine.execShli h d a n s
  | .shri h d a n => Sys2Proof.Machine.execShri h d a n s
  | .srai h d a n => Sys2Proof.Machine.execSrai h d a n s
  | .li h d imm => Sys2Proof.Machine.execLi h d imm s
  | .lih h d a imm => Sys2Proof.Machine.execLih h d a imm s
  | .muli h d a imm => Sys2Proof.Machine.execMuli h d a imm s
  | .ceq h d a b => Sys2Proof.Machine.execCeq h d a b s
  | .cne h d a b => Sys2Proof.Machine.execCne h d a b s
  | .clt h d a b => Sys2Proof.Machine.execClt h d a b s
  | .cltu h d a b => Sys2Proof.Machine.execCltu h d a b s
  | .cle h d a b => Sys2Proof.Machine.execCle h d a b s
  | .cleu h d a b => Sys2Proof.Machine.execCleu h d a b s
  | .ceqi h d a imm => Sys2Proof.Machine.execCeqi h d a imm s
  | .clti h d a imm => Sys2Proof.Machine.execClti h d a imm s
  | .pand h d a b => Sys2Proof.Machine.execPand h d a b s
  | .por h d a b => Sys2Proof.Machine.execPor h d a b s
  | .pxor h d a b => Sys2Proof.Machine.execPxor h d a b s
  | .pnot h d a => Sys2Proof.Machine.execPnot h d a s
  | .pset h d a t => Sys2Proof.Machine.execPset h d a t s
  | .skip h a n => Sys2Proof.Machine.execSkip h a n s
  | .eskip h a hint n => Sys2Proof.Machine.execEskip h a hint n s
  | .post h a => Sys2Proof.Machine.execPost h a s
  | .rdsr h d n => Sys2Proof.Machine.execRdsr h d n s
  | .wrsr h a n => Sys2Proof.Machine.execWrsr h a n s
  | .endq h => Sys2Proof.Machine.execEndq h s
  | .lset h a k => Sys2Proof.Machine.execLset h a k s
  | .lbody h n => Sys2Proof.Machine.execLbody h n s
  | .lstage h n => Sys2Proof.Machine.execLstage h n s
  | .lgo h n => Sys2Proof.Machine.execLgo h n s
  | .lbrk h => Sys2Proof.Machine.execLbrk h s
  | .lidx h d k => Sys2Proof.Machine.execLidx h d k s
  | .vadd h vb t d a b => Sys2Proof.Machine.execVadd h vb t d a b s
  | .vsub h vb t d a b => Sys2Proof.Machine.execVsub h vb t d a b s
  | .vmul h vb t d a b => Sys2Proof.Machine.execVmul h vb t d a b s
  | .vmac h vb t d a b c => Sys2Proof.Machine.execVmac h vb t d a b c s
  | .vadds h vb t d a b => Sys2Proof.Machine.execVadds h vb t d a b s
  | .vsubs h vb t d a b => Sys2Proof.Machine.execVsubs h vb t d a b s
  | .vmin h vb t d a b => Sys2Proof.Machine.execVmin h vb t d a b s
  | .vmax h vb t d a b => Sys2Proof.Machine.execVmax h vb t d a b s
  | .vabs h vb t d a => Sys2Proof.Machine.execVabs h vb t d a s
  | .vshl h vb t d a b => Sys2Proof.Machine.execVshl h vb t d a b s
  | .vshr h vb t d a b => Sys2Proof.Machine.execVshr h vb t d a b s
  | .vsra h vb t d a b => Sys2Proof.Machine.execVsra h vb t d a b s
  | .vand h vb t d a b => Sys2Proof.Machine.execVand h vb t d a b s
  | .vor h vb t d a b => Sys2Proof.Machine.execVor h vb t d a b s
  | .vxor h vb t d a b => Sys2Proof.Machine.execVxor h vb t d a b s
  | .vmulhr h vb t d a b => Sys2Proof.Machine.execVmulhr h vb t d a b s
  | .vdot4 h vb t d a b c mixb => Sys2Proof.Machine.execVdot4 h vb t d a b c mixb s
  | .vsel h vb t d a b c => Sys2Proof.Machine.execVsel h vb t d a b c s
  | .vfadd h vb t d a b rms => Sys2Proof.Machine.execVfadd h vb t d a b rms s
  | .vfsub h vb t d a b rms => Sys2Proof.Machine.execVfsub h vb t d a b rms s
  | .vfmul h vb t d a b rms => Sys2Proof.Machine.execVfmul h vb t d a b rms s
  | .vfma h vb t d a b c rms => Sys2Proof.Machine.execVfma h vb t d a b c rms s
  | .vfmin h vb t d a b => Sys2Proof.Machine.execVfmin h vb t d a b s
  | .vfmax h vb t d a b => Sys2Proof.Machine.execVfmax h vb t d a b s
  | .vfabs h vb t d a => Sys2Proof.Machine.execVfabs h vb t d a s
  | .vfneg h vb t d a => Sys2Proof.Machine.execVfneg h vb t d a s
  | .vrcp h vb t d a rms => Sys2Proof.Machine.execVrcp h vb t d a rms s
  | .vrsqrt h vb t d a rms => Sys2Proof.Machine.execVrsqrt h vb t d a rms s
  | .vexp2 h vb t d a rms => Sys2Proof.Machine.execVexp2 h vb t d a rms s
  | .vlog2 h vb t d a rms => Sys2Proof.Machine.execVlog2 h vb t d a rms s
  | .vfcmp h vb t d a b cond => Sys2Proof.Machine.execVfcmp h vb t d a b cond s
  | .vcmp h vb t d a b cond => Sys2Proof.Machine.execVcmp h vb t d a b cond s
  | .vcvt h vb t d a sat nfmt nsrc narrow dtype rms => Sys2Proof.Machine.execVcvt h vb t d a sat nfmt nsrc narrow dtype rms s
  | .vquant h vb t d a sat qfmt rms => Sys2Proof.Machine.execVquant h vb t d a sat qfmt rms s
  | .vdequant h vb t d a qfmt rms => Sys2Proof.Machine.execVdequant h vb t d a qfmt rms s
  | .vscale2 h vb t d a b rms => Sys2Proof.Machine.execVscale2 h vb t d a b rms s
  | .vrsum h vb t d a lseg rms => Sys2Proof.Machine.execVrsum h vb t d a lseg rms s
  | .vrmax h vb t d a lseg => Sys2Proof.Machine.execVrmax h vb t d a lseg s
  | .vramax h vb t d a lseg => Sys2Proof.Machine.execVramax h vb t d a lseg s
  | .vrmin h vb t d a lseg => Sys2Proof.Machine.execVrmin h vb t d a lseg s
  | .vperm h vb t d a b c two => Sys2Proof.Machine.execVperm h vb t d a b c two s
  | .vbcast h vb t d a lane => Sys2Proof.Machine.execVbcast h vb t d a lane s
  | .vext h vb t d a lane => Sys2Proof.Machine.execVext h vb t d a lane s
  | .vins h vb t d a lane => Sys2Proof.Machine.execVins h vb t d a lane s
  | .vslide h vb t d a b lane => Sys2Proof.Machine.execVslide h vb t d a b lane s
  | .vzip h vb t d a b half => Sys2Proof.Machine.execVzip h vb t d a b half s
  | .vunzip h vb t d a b odd => Sys2Proof.Machine.execVunzip h vb t d a b odd s
  | .vmov h vb t d a => Sys2Proof.Machine.execVmov h vb t d a s
  | .vsplat h vb t d a => Sys2Proof.Machine.execVsplat h vb t d a s
  | .vamul h vb t d a b swap rms => Sys2Proof.Machine.execVamul h vb t d a b swap rms s
  | .vamac h vb t d a b c swap rms => Sys2Proof.Machine.execVamac h vb t d a b c swap rms s
  | .vconj h vb t d a => Sys2Proof.Machine.execVconj h vb t d a s
  | .vnorm h vb t d a rms => Sys2Proof.Machine.execVnorm h vb t d a rms s
  | .sminit h n row => Sys2Proof.Machine.execSminit h n row s
  | .smstep h d a row rms => Sys2Proof.Machine.execSmstep h d a row rms s
  | .smrsc h d row => Sys2Proof.Machine.execSmrsc h d row s
  | .smfin h d a row rms => Sys2Proof.Machine.execSmfin h d a row rms s
  | .smget h d row => Sys2Proof.Machine.execSmget h d row s
  | .mcall h a rsc dr zi swap rout => Sys2Proof.Machine.execMcall h a rsc dr zi swap rout s
  | .mset h d a => Sys2Proof.Machine.execMset h d a s
  | .msetRs h a k => Sys2Proof.Machine.execMsetRs h a k s
  | .mget h d a => Sys2Proof.Machine.execMget h d a s
  | .mgetRs h d k => Sys2Proof.Machine.execMgetRs h d k s
  | .malg h d a => Sys2Proof.Machine.execMalg h d a s
  | .mdrain h => Sys2Proof.Machine.execMdrain h s
  | .mdrainRaw h a => Sys2Proof.Machine.execMdrainRaw h a s
  | .mfill h a => Sys2Proof.Machine.execMfill h a s
  | .mfreeze h => Sys2Proof.Machine.execMfreeze h s
  | .mthaw h => Sys2Proof.Machine.execMthaw h s
  | .mstat h d clr => Sys2Proof.Machine.execMstat h d clr s
  | .mload h base size kind scope off => Sys2Proof.Machine.execMload h base size kind scope off s
  | .tload h d base size off => Sys2Proof.Machine.execTload h d base size off s
  | .mzero h => Sys2Proof.Machine.execMzero h s
  | .ld h d base size kind scope off => Sys2Proof.Machine.execLd h d base size kind scope off s
  | .vld h d base size kind scope off => Sys2Proof.Machine.execVld h d base size kind scope off s
  | .vldc h d base size off => Sys2Proof.Machine.execVldc h d base size off s
  | .vldr h d a b tile => Sys2Proof.Machine.execVldr h d a b tile s
  | .vldg h t d a b => Sys2Proof.Machine.execVldg h t d a b s
  | .vlds h t d a b => Sys2Proof.Machine.execVlds h t d a b s
  | .lsq h base size kind scope off => Sys2Proof.Machine.execLsq h base size kind scope off s
  | .qset h d base size kind scope off => Sys2Proof.Machine.execQset h d base size kind scope off s
  | .qclr h d => Sys2Proof.Machine.execQclr h d s
  | .pref h d base size off => Sys2Proof.Machine.execPref h d base size off s
  | .amo h d a b c rel acq scope sz fn => Sys2Proof.Machine.execAmo h d a b c rel acq scope sz fn s
  | .st h d base size kind scope off => Sys2Proof.Machine.execSt h d base size kind scope off s
  | .vst h d base size kind scope off => Sys2Proof.Machine.execVst h d base size kind scope off s
  | .vstm h d base size kind scope off => Sys2Proof.Machine.execVstm h d base size kind scope off s
  | .vstr h d a b tile => Sys2Proof.Machine.execVstr h d a b tile s
  | .vsts h t d a b => Sys2Proof.Machine.execVsts h t d a b s
  | .cflush h base size scope off => Sys2Proof.Machine.execCflush h base size scope off s
  | .cinval h base size scope off => Sys2Proof.Machine.execCinval h base size scope off s
  | .cclean h base size scope off => Sys2Proof.Machine.execCclean h base size scope off s
  | .radv h a n => Sys2Proof.Machine.execRadv h a n s
  | .cpy h a b c sig chg addm ch => Sys2Proof.Machine.execCpy h a b c sig chg addm ch s
  | .cnl h a b c lvl ch => Sys2Proof.Machine.execCnl h a b c lvl ch s
  | .cnb h a b c ch => Sys2Proof.Machine.execCnb h a b c ch s
  | .cgo h lv sig chg addm ch => Sys2Proof.Machine.execCgo h lv sig chg addm ch s
  | .cdrain h ch => Sys2Proof.Machine.execCdrain h ch s
  | .cmode h len ch => Sys2Proof.Machine.execCmode h len ch s
  | .cstat h d ch => Sys2Proof.Machine.execCstat h d ch s
  | .ckv h a b c dir sig chg ch => Sys2Proof.Machine.execCkv h a b c dir sig chg ch s
  | .cred h a b ch => Sys2Proof.Machine.execCred h a b ch s
  | .fence h scope ftype => Sys2Proof.Machine.execFence h scope ftype s
  | .tfence h scope => Sys2Proof.Machine.execTfence h scope s
  | .twait h tl b imm11 imm scope => Sys2Proof.Machine.execTwait h tl b imm11 imm scope s
  | .tget h d tl done => Sys2Proof.Machine.execTget h d tl done s
  | .barv h a => Sys2Proof.Machine.execBarv h a s
  | .bexp h a b => Sys2Proof.Machine.execBexp h a b s
  | .bwait h a b => Sys2Proof.Machine.execBwait h a b s
  | .sigdec h a b fail => Sys2Proof.Machine.execSigdec h a b fail s
  | .sigwait h d a => Sys2Proof.Machine.execSigwait h d a s
  | .mwait h d a b tmo => Sys2Proof.Machine.execMwait h d a b tmo s
  | .launch h d a => Sys2Proof.Machine.execLaunch h d a s
  | .exit h fail => Sys2Proof.Machine.execExit h fail s
  | .trap h code => Sys2Proof.Machine.execTrap h code s
  | .fmt h covf cnan walg wrm alg rm => Sys2Proof.Machine.execFmt h covf cnan walg wrm alg rm s
  | .bandup h a => Sys2Proof.Machine.execBandup h a s
  | .seal_ h a b c k => Sys2Proof.Machine.execSeal h a b c k s
  | .open_ h a b c k => Sys2Proof.Machine.execOpen h a b c k s
  | .wld h a b seg => Sys2Proof.Machine.execWld h a b seg s
  | .wlock h seg => Sys2Proof.Machine.execWlock h seg s
  | .wunlk h seg => Sys2Proof.Machine.execWunlk h seg s
  | .wx h d a mode => Sys2Proof.Machine.execWx h d a mode s
  | .yield h => Sys2Proof.Machine.execYield h s
  | .rdtime h d => Sys2Proof.Machine.execRdtime h d s
  | .gadd d a b => Sys2Proof.Machine.execGadd d a b s
  | .gsub d a b => Sys2Proof.Machine.execGsub d a b s
  | .gand d a b => Sys2Proof.Machine.execGand d a b s
  | .gor d a b => Sys2Proof.Machine.execGor d a b s
  | .gxor d a b => Sys2Proof.Machine.execGxor d a b s
  | .gshl d a b => Sys2Proof.Machine.execGshl d a b s
  | .gshr d a b => Sys2Proof.Machine.execGshr d a b s
  | .gsra d a b => Sys2Proof.Machine.execGsra d a b s
  | .gmul d a b => Sys2Proof.Machine.execGmul d a b s
  | .gaddi d a imm => Sys2Proof.Machine.execGaddi d a imm s
  | .gandi d a imm => Sys2Proof.Machine.execGandi d a imm s
  | .gori d a imm => Sys2Proof.Machine.execGori d a imm s
  | .gshli d a n => Sys2Proof.Machine.execGshli d a n s
  | .gshri d a n => Sys2Proof.Machine.execGshri d a n s
  | .gli d imm => Sys2Proof.Machine.execGli d imm s
  | .glih d a imm => Sys2Proof.Machine.execGlih d a imm s
  | .gslt d a b => Sys2Proof.Machine.execGslt d a b s
  | .gsltu d a b => Sys2Proof.Machine.execGsltu d a b s
  | .gbeq a b o => Sys2Proof.Machine.execGbeq a b o s
  | .gbne a b o => Sys2Proof.Machine.execGbne a b o s
  | .gblt a b o => Sys2Proof.Machine.execGblt a b o s
  | .gbge a b o => Sys2Proof.Machine.execGbge a b o s
  | .gbltu a b o => Sys2Proof.Machine.execGbltu a b o s
  | .gbgeu a b o => Sys2Proof.Machine.execGbgeu a b o s
  | .gj o => Sys2Proof.Machine.execGj o s
  | .gjal d o => Sys2Proof.Machine.execGjal d o s
  | .gjr d a => Sys2Proof.Machine.execGjr d a s
  | .gld d a imm => Sys2Proof.Machine.execGld d a imm s
  | .gst d a imm => Sys2Proof.Machine.execGst d a imm s
  | .tld b a imm => Sys2Proof.Machine.execTld b a imm s
  | .tpat b slot fsel a imm => Sys2Proof.Machine.execTpat b slot fsel a imm s
  | .tpati b slot fsel imm => Sys2Proof.Machine.execTpati b slot fsel imm s
  | .tclr b slot => Sys2Proof.Machine.execTclr b slot s
  | .tclrAll b => Sys2Proof.Machine.execTclrAll b s
  | .emit b => Sys2Proof.Machine.execEmit b s
  | .emitm b => Sys2Proof.Machine.execEmitm b s
  | .emitr d a b => Sys2Proof.Machine.execEmitr d a b s
  | .gwait d a => Sys2Proof.Machine.execGwait d a s
  | .grecv d => Sys2Proof.Machine.execGrecv d s
  | .grds d n => Sys2Proof.Machine.execGrds d n s
  | .gwrs a n => Sys2Proof.Machine.execGwrs a n s
  | .gtrap code => Sys2Proof.Machine.execGtrap code s
  | .gend => Sys2Proof.Machine.execGend s
  | .pulla ts bs => Sys2Proof.Machine.execPulla ts bs s
  | .pullb ts bs => Sys2Proof.Machine.execPullb ts bs s
  | .pullm ts bs => Sys2Proof.Machine.execPullm ts bs s
  | .step ms ns => Sys2Proof.Machine.execStep ms ns s
  | .stepk ms ns ats bts => Sys2Proof.Machine.execStepk ms ns ats bts s
  | .zacc ms ns => Sys2Proof.Machine.execZacc ms ns s
  | .sqpop => Sys2Proof.Machine.execSqpop s
  | .drain ms ns => Sys2Proof.Machine.execDrain ms ns s
  | .loop lvl cs imm => Sys2Proof.Machine.execLoop lvl cs imm s
  | .endl => Sys2Proof.Machine.execEndl s
  | .syncc => Sys2Proof.Machine.execSyncc s
  | .waitr ring n => Sys2Proof.Machine.execWaitr ring n s
  | .swap => Sys2Proof.Machine.execSwap s
  | .ret => Sys2Proof.Machine.execRet s
  | .trimTld src k => Sys2Proof.Machine.execTrimTld src k s
  | .tbias k => Sys2Proof.Machine.execTbias k s
  | .tmul k => Sys2Proof.Machine.execTmul k s
  | .tts => Sys2Proof.Machine.execTts s
  | .tact sh fn => Sys2Proof.Machine.execTact sh fn s
  | .trnd => Sys2Proof.Machine.execTrnd s
  | .tcvt sat fc => Sys2Proof.Machine.execTcvt sat fc s
  | .tsat kl kh => Sys2Proof.Machine.execTsat kl kh s
  | .trmax => Sys2Proof.Machine.execTrmax s
  | .trsum sq => Sys2Proof.Machine.execTrsum sq s
  | .tqnt sat fc => Sys2Proof.Machine.execTqnt sat fc s
  | .tadd fc => Sys2Proof.Machine.execTadd fc s
  | .tmulr epse sh f => Sys2Proof.Machine.execTmulr epse sh f s
  | .tst w => Sys2Proof.Machine.execTst w s
  | .tsts => Sys2Proof.Machine.execTsts s
  | .tend => Sys2Proof.Machine.execTend s
  | .mergeStageIssue core => Sys2Proof.Machine.execMergeStageIssue core s
  | .starvationBreak core => Sys2Proof.Machine.execStarvationBreak core s
  | .pendingTrapRecordWrite fe => Sys2Proof.Machine.execPendingTrapRecordWrite fe s
  | .registerLanding fe => Sys2Proof.Machine.execRegisterLanding fe s
  | .loadDataArrival fe idx => Sys2Proof.Machine.execLoadDataArrival fe idx s
  | .amoResultReturn fe idx => Sys2Proof.Machine.execAmoResultReturn fe idx s
  | .storePerform fe idx => Sys2Proof.Machine.execStorePerform fe idx s
  | .cacheMaintenanceComplete fe idx => Sys2Proof.Machine.execCacheMaintenanceComplete fe idx s
  | .eskipResolve fe => Sys2Proof.Machine.execEskipResolve fe s
  | .eskipEntryEnter fe => Sys2Proof.Machine.execEskipEntryEnter fe s
  | .quietPoint fe => Sys2Proof.Machine.execQuietPoint fe s
  | .asyncStopTake fe => Sys2Proof.Machine.execAsyncStopTake fe s
  | .runnelSpaceRelease fe => Sys2Proof.Machine.execRunnelSpaceRelease fe s
  | .millinerWaitEnd fe => Sys2Proof.Machine.execMillinerWaitEnd fe s
  | .spoutRead fe q => Sys2Proof.Machine.execSpoutRead fe q s
  | .lsqPairArrival fe => Sys2Proof.Machine.execLsqPairArrival fe s
  | .translationFill fe unit va reply => Sys2Proof.Machine.execTranslationFill fe unit va reply s
  | .priResponse fe unit code => Sys2Proof.Machine.execPriResponse fe unit code s
  | .atsInvalidation tenant va size => Sys2Proof.Machine.execAtsInvalidation tenant va size s
  | .cisternRefresh => Sys2Proof.Machine.execCisternRefresh s
  | .matrixCommandStart core => Sys2Proof.Machine.execMatrixCommandStart core s
  | .matrixCommandComplete core => Sys2Proof.Machine.execMatrixCommandComplete core s
  | .ringWaitRelease fe => Sys2Proof.Machine.execRingWaitRelease fe s
  | .scaleQueueWaitRelease fe => Sys2Proof.Machine.execScaleQueueWaitRelease fe s
  | .synccRelease fe => Sys2Proof.Machine.execSynccRelease fe s
  | .cooperativeTimeout fe => Sys2Proof.Machine.execCooperativeTimeout fe s
  | .freezePointReached fe => Sys2Proof.Machine.execFreezePointReached fe s
  | .blockStoreWriteApply core => Sys2Proof.Machine.execBlockStoreWriteApply core s
  | .copyDataBeat fe ch ecc => Sys2Proof.Machine.execCopyDataBeat fe ch ecc s
  | .copyComplete fe ch => Sys2Proof.Machine.execCopyComplete fe ch s
  | .basinArrival idx => Sys2Proof.Machine.execBasinArrival idx s
  | .basinExpectation idx => Sys2Proof.Machine.execBasinExpectation idx s
  | .basinCharge idx => Sys2Proof.Machine.execBasinCharge idx s
  | .basinEvaluate fe off => Sys2Proof.Machine.execBasinEvaluate fe off s
  | .bwaitRelease fe => Sys2Proof.Machine.execBwaitRelease fe s
  | .twaitRelease fe => Sys2Proof.Machine.execTwaitRelease fe s
  | .sigwaitRelease fe => Sys2Proof.Machine.execSigwaitRelease fe s
  | .mwaitEnd fe => Sys2Proof.Machine.execMwaitEnd fe s
  | .mwaitTimeout fe => Sys2Proof.Machine.execMwaitTimeout fe s
  | .cdrainRelease fe => Sys2Proof.Machine.execCdrainRelease fe s
  | .fenceComplete fe => Sys2Proof.Machine.execFenceComplete fe s
  | .tfenceComplete fe => Sys2Proof.Machine.execTfenceComplete fe s
  | .tfenceTimeout fe => Sys2Proof.Machine.execTfenceTimeout fe s
  | .launchAccept fe => Sys2Proof.Machine.execLaunchAccept fe s
  | .contextExitComplete fe => Sys2Proof.Machine.execContextExitComplete fe s
  | .taskFailedRetire task => Sys2Proof.Machine.execTaskFailedRetire task s
  | .rinseComplete fe => Sys2Proof.Machine.execRinseComplete fe s
  | .commandEntryTake win q => Sys2Proof.Machine.execCommandEntryTake win q s
  | .dispatcherScan => Sys2Proof.Machine.execDispatcherScan s
  | .taskEligible task => Sys2Proof.Machine.execTaskEligible task s
  | .taskAbandon task => Sys2Proof.Machine.execTaskAbandon task s
  | .taskAging => Sys2Proof.Machine.execTaskAging s
  | .dispatcherSelect task place victims => Sys2Proof.Machine.execDispatcherSelect task place victims s
  | .gangRestore task => Sys2Proof.Machine.execGangRestore task s
  | .fillHoldFill die => Sys2Proof.Machine.execFillHoldFill die s
  | .kernelRegister handle desc => Sys2Proof.Machine.execKernelRegister handle desc s
  | .resume fe => Sys2Proof.Machine.execResume fe s
  | .kill fe => Sys2Proof.Machine.execKill fe s
  | .stop fe arg => Sys2Proof.Machine.execStop fe arg s
  | .intr fe => Sys2Proof.Machine.execIntr fe s
  | .save fe => Sys2Proof.Machine.execSave fe s
  | .restore fe => Sys2Proof.Machine.execRestore fe s
  | .imagePortDone fe => Sys2Proof.Machine.execImagePortDone fe s
  | .relch fe ch => Sys2Proof.Machine.execRelch fe ch s
  | .unbind fe => Sys2Proof.Machine.execUnbind fe s
  | .mmioWrite who addr data => Sys2Proof.Machine.execMmioWrite who addr data s
  | .regionEntryValidate who n word0 => Sys2Proof.Machine.execRegionEntryValidate who n word0 s
  | .crownWeirWrite fe off data => Sys2Proof.Machine.execCrownWeirWrite fe off data s
  | .fillGo die data => Sys2Proof.Machine.execFillGo die data s
  | .fillComplete die => Sys2Proof.Machine.execFillComplete die s
  | .fillMediaError die => Sys2Proof.Machine.execFillMediaError die s
  | .fabricPlanWrite plan => Sys2Proof.Machine.execFabricPlanWrite plan s
  | .fabricFrameBoundary => Sys2Proof.Machine.execFabricFrameBoundary s
  | .hostMemAccess port hpa write len poison => Sys2Proof.Machine.execHostMemAccess port hpa write len poison s
  | .doorbell port win q => Sys2Proof.Machine.execDoorbell port win q s
  | .doorbellRead port win q => Sys2Proof.Machine.execDoorbellRead port win q s
  | .queueEnable win q => Sys2Proof.Machine.execQueueEnable win q s
  | .queueTeardown win q => Sys2Proof.Machine.execQueueTeardown win q s
  | .queueReset win q => Sys2Proof.Machine.execQueueReset win q s
  | .teardownDone win q => Sys2Proof.Machine.execTeardownDone win q s
  | .biasGoToH blk => Sys2Proof.Machine.execBiasGoToH blk s
  | .biasGoToD blk => Sys2Proof.Machine.execBiasGoToD blk s
  | .biasFlipToHDone page => Sys2Proof.Machine.execBiasFlipToHDone page s
  | .biasFlipToDDone page => Sys2Proof.Machine.execBiasFlipToDDone page s
  | .poolBackInvalidate addr => Sys2Proof.Machine.execPoolBackInvalidate addr s
  | .poolHeadLoss head => Sys2Proof.Machine.execPoolHeadLoss head s
  | .poolRequestTimeout head => Sys2Proof.Machine.execPoolRequestTimeout head s
  | .ideMacFailure port => Sys2Proof.Machine.execIdeMacFailure port s
  | .ideRekeyComplete port => Sys2Proof.Machine.execIdeRekeyComplete port s
  | .ideRekeyTimeout port => Sys2Proof.Machine.execIdeRekeyTimeout port s
  | .hostLoss port => Sys2Proof.Machine.execHostLoss port s
  | .hostRequestTimeout port => Sys2Proof.Machine.execHostRequestTimeout port s
  | .hostAcknowledge port n data => Sys2Proof.Machine.execHostAcknowledge port n data s
  | .dynamicCapacityAdd n base limit attr extent => Sys2Proof.Machine.execDynamicCapacityAdd n base limit attr extent s
  | .dynamicCapacityRelease extent forced => Sys2Proof.Machine.execDynamicCapacityRelease extent forced s
  | .resyncGo blk => Sys2Proof.Machine.execResyncGo blk s
  | .redfishResync pdisc => Sys2Proof.Machine.execRedfishResync pdisc s
  | .deviceReset => Sys2Proof.Machine.execDeviceReset s
  | .bootWatchdogExpiry => Sys2Proof.Machine.execBootWatchdogExpiry s
  | .healthyWrite => Sys2Proof.Machine.execHealthyWrite s
  | .liveActivation img => Sys2Proof.Machine.execLiveActivation img s
  | .activationTimeout => Sys2Proof.Machine.execActivationTimeout s
  | .getMeasurements blk => Sys2Proof.Machine.execGetMeasurements blk s
  | .redfishComponentIntegrity => Sys2Proof.Machine.execRedfishComponentIntegrity s
  | .redfishFirmwareUpdate img => Sys2Proof.Machine.execRedfishFirmwareUpdate img s
  | .redfishTaskAction win entry => Sys2Proof.Machine.execRedfishTaskAction win entry s
  | .agentTableWrite tenant data => Sys2Proof.Machine.execAgentTableWrite tenant data s
  | .traceEvent w0 w1 => Sys2Proof.Machine.execTraceEvent w0 w1 s
  | .traceUnfreeze => Sys2Proof.Machine.execTraceUnfreeze s
  | .thermalThrottle die hot => Sys2Proof.Machine.execThermalThrottle die hot s
  | .thermalTrip die => Sys2Proof.Machine.execThermalTrip die s
  | .internalParity touched => Sys2Proof.Machine.execInternalParity touched s
  | .fabricTimeout touched => Sys2Proof.Machine.execFabricTimeout touched s
  | .illegalMillinerWord fe w => Sys2Proof.Machine.execIllegalMillinerWord fe w s
  | .generatorFetchFault fe => Sys2Proof.Machine.execGeneratorFetchFault fe s
  | .illegalMicroWord fe w => Sys2Proof.Machine.execIllegalMicroWord fe w s
  | .illegalTrimmerWord fe w => Sys2Proof.Machine.execIllegalTrimmerWord fe w s
  | .cipherCommandComplete core => Sys2Proof.Machine.execCipherCommandComplete core s
  | .linkTrained port => Sys2Proof.Machine.execLinkTrained port s
  | .ideKmKeyProgramming port skid selective => Sys2Proof.Machine.execIdeKmKeyProgramming port skid selective s
  | .uncertainWriteLogClear => Sys2Proof.Machine.execUncertainWriteLogClear s

end Sys2Proof.Machine
end

