-- ==== Sys2Proof/Machine/Schedule.lean ====
section
/-! DEFINITION. What the next steps execute: the clocks of one arithmetic-clock cycle, the events that each part of the
device has ready in it, in a fixed order, and the running of one of them (00_scope R10, 08_memory R221, 13_system R370,
15_platform R429; the order is the model's, assumption log 5). -/
namespace Sys2Proof.Machine

noncomputable section

/-! ### Clocks and counters (R10, R100, R221, R273, R370, R429) -/

/-- Units of a clock of `num / 21` units for each unthrottled arithmetic cycle that pass in this cycle; the arithmetic
clock runs at (21 - throttle) x 100 MHz. -/
def elapsed (s : State) (num : Nat) : Nat :=
  let f := 21 - s.throttle
  (s.cycle + 1) * num / f - s.cycle * num / f

/-- The refresh window ends in this cycle (R221). -/
def refreshEnds (s : State) : Bool := decide ((refreshBank s + 1) * 2016 ≤ s.refresh.toNat + elapsed s 21)

/-- A frame of 64 fabric slots ends in this cycle: 1,024 cycles of the fabric clock of 1.4 GHz, which no throttle slows (R10, R25). -/
def frameEnds (s : State) : Bool := s.time.toNat * 7 / 5120 != (s.time.toNat + elapsed s 10) * 7 / 5120

/-- The channel of the copy command that an op word commits (R272). -/
def copyChan (w : Word) : Option Bool :=
  match decodeOp w with
  | .ok (.cpy _ _ _ _ _ _ _ ch) => some ch
  | .ok (.cgo _ _ _ _ _ ch) => some ch
  | .ok (.ckv _ _ _ _ _ _ _ ch) => some ch
  | _ => none
/-- In this cycle the context waits on a full queue of a channel in lenient mode (R272, R273). -/
def stallsOn (c : Ctx) (ch : Bool) : Bool :=
  c.life == .running && (c.frz == .copyFull ch
    || (c.regs.win.committed && decide (64 ≤ (c.chan ch).queue.length) && lenientNow c ch
        && c.regs.win.entries.head?.any (fun e => copyChan e.word == some ch)))
/-- The counters of a context that count cycles. -/
def Ctx.countCycle (c : Ctx) : Ctx :=
  let n (ch : Bool) : Word := if stallsOn c ch then 1#64 else 0#64
  { c with
    stallc := #v[c.stallc[0] + n false, c.stallc[1] + n true]
    gen := if c.life = .running ∧ c.gen.stat = .pushStall then { c.gen with runbp := c.gen.runbp + 1#64 } else c.gen }

/-- One arithmetic-clock cycle passes. -/
def tick (s : State) : State :=
  let fes := s.ctxs.map (fun p => BitVec.ofNat 9 p.1)
  let s := fes.foldl (fun s fe => countWait (s.modCtx fe Ctx.countCycle) fe) s
  { s with
    cycle := s.cycle + 1
    time := s.time + BitVec.ofNat 64 (elapsed s 10)
    refresh := if refreshEnds s then s.refresh else s.refresh + BitVec.ofNat 16 (elapsed s 21)
    refreshPast := if refreshEnds s then s.refresh.toNat + elapsed s 21 - (refreshBank s + 1) * 2016 else s.refreshPast }

/-! ### The events of a context -/

/-- Memory reads and atomics of a context that have not returned. -/
def readEvents (c : Ctx) (fe : FeId) : List Instr :=
  (c.pend.zipIdx.filter (fun x => x.1.outstanding)).map (fun x =>
    if x.1.isAmo then .amoResultReturn fe (BitVec.ofNat 6 x.2) else .loadDataArrival fe (BitVec.ofNat 6 x.2))
/-- The first store, and the first maintenance op, that may perform, and the first of each whose translation has gone (R268). -/
def storeEvents (s : State) (c : Ctx) (fe : FeId) : List Instr :=
  ((c.stq.sb.zipIdx.find? (fun x => !x.1.stale && storeMayPerform s fe x.2 x.1 && !x.1.data.any (fun b => stalled s b.1))).map
    (fun x => Instr.storePerform fe (BitVec.ofNat 8 x.2))).toList
  ++ ((c.stq.sb.zipIdx.find? (fun x => x.1.stale)).map (fun x => Instr.storePerform fe (BitVec.ofNat 8 x.2))).toList
  ++ ((c.stq.maint.zipIdx.find? (fun x => x.1.stale || maintMay s fe x.2 x.1)).map
    (fun x => Instr.cacheMaintenanceComplete fe (BitVec.ofNat 6 x.2))).toList
/-- The end of what the context waits for. -/
def freezeEvents (c : Ctx) (fe : FeId) : List Instr :=
  match c.frz with
  | .fence _ _ => [.fenceComplete fe]
  | .tfence _ _ => [.tfenceComplete fe, .tfenceTimeout fe]
  | .twait _ _ _ => [.twaitRelease fe]
  | .bwait _ _ => [.bwaitRelease fe]
  | .sigwait _ _ => [.sigwaitRelease fe]
  | .mwait _ _ _ _ _ => [.mwaitEnd fe, .mwaitTimeout fe]
  | .cdrain _ _ => [.cdrainRelease fe]
  | .mfreeze | .none | .load | .translate _ _ | .group | .copyFull _ | .spout _ _ | .launch _ | .mfrozenCmd => []
/-- The waits of the matrix unit and its freeze points. -/
def matrixEvents (c : Ctx) (fe : FeId) : List Instr :=
  (match c.eng.mat.run with
    | none => []
    | some r =>
      match r.wait with
      | .none => []
      | .ring _ _ => [.ringWaitRelease fe]
      | .scale => [.scaleQueueWaitRelease fe]
      | .sync => [.synccRelease fe, .cooperativeTimeout fe]
      | .mcast _ => [.cooperativeTimeout fe])
  ++ (if wantsFreeze c then [.freezePointReached fe] else [])
  ++ (if c.eng.mat.scale.any (fun p => !p.ready) then [.lsqPairArrival fe] else [])
/-- Beats and completions of the two copy channels. -/
def copyEvents (c : Ctx) (fe : FeId) : List Instr :=
  [false, true].flatMap (fun ch =>
    if (c.chan ch).queue.isEmpty then [] else [.copyDataBeat fe ch false, .copyComplete fe ch])
/-- Stream reads, the eskip window, whose entries enter their queues together (R127), the Milliner's waits. -/
def frontEvents (c : Ctx) (fe : FeId) : List Instr :=
  ((List.range 8).filter (fun q => spoutWanted c (BitVec.ofNat 3 q))).map (fun q => Instr.spoutRead fe (BitVec.ofNat 3 q))
  ++ (if c.regs.win.opened then .eskipResolve fe :: List.replicate c.regs.win.entries.length (.eskipEntryEnter fe) else [])
  ++ (match c.gen.stat with
    | .pushStall => [.runnelSpaceRelease fe]
    | .waitStall => [.millinerWaitEnd fe]
    | .running | .parked _ | .halted => [])
/-- Stops, the quiet point, the exit, the Rinse, the image port and a held trap record. -/
def lifeEvents (c : Ctx) (fe : FeId) : List Instr :=
  (if c.idle = .quiet then [.quietPoint fe] else [])
  ++ (if c.stops.any then [.asyncStopTake fe] else [])
  ++ (if (exitOf c).isSome then [.contextExitComplete fe] else [])
  ++ (if c.life = .rinsing then [.rinseComplete fe] else [])
  ++ (if c.img.busy then [.imagePortDone fe] else [])
  ++ (if c.held.isEmpty then [] else [.pendingTrapRecordWrite fe])

/-- The word that the Milliner of a running context executes; a word on an unmapped page is the fetch fault of R85. -/
def genActs (s : State) (c : Ctx) (fe : FeId) : List Act :=
  if c.life = .running ∧ c.gen.stat = .running then
    (match genWord s fe with
      | some w => [.gen fe w]
      | none => [.ev (.generatorFetchFault fe)])
  else []
/-- The micro-word and the Trimmer word that the started commands of a context execute (R193, R206). -/
def unitActs (s : State) (c : Ctx) (fe : FeId) : List Act :=
  (match c.eng.mat.run with
    | none => []
    | some r => if r.phase = .words ∧ !r.frozen ∧ !r.indr ∧ r.wait = .none then [Act.micro fe (microWord s fe r.mpc)] else [])
  ++ (match c.eng.mat.active with
    | none => []
    | some r => if draining r then [Act.trim fe (trimWord s fe r.trun.pc.toNat)] else [])

/-- What a front end has ready in a cycle. -/
def ctxActs (s : State) (fe : FeId) : List Act :=
  let c := s.ctx fe
  (readEvents c fe ++ (if landingDue c then [Instr.registerLanding fe] else []) ++ storeEvents s c fe ++ freezeEvents c fe
    ++ matrixEvents c fe ++ copyEvents c fe ++ frontEvents c fe ++ lifeEvents c fe).map Act.ev
  ++ genActs s c fe ++ unitActs s c fe

/-! ### The events of a core, of basins, of the dispatcher, of fills and hosts -/

/-- What a core has ready: the Crown's held writes, its matrix queue, its cipher unit, and its merge stage. -/
def coreActs (s : State) (core : CoreId) : List Act :=
  (if (s.core core.toNat).held.isEmpty then [] else [Act.ev (.blockStoreWriteApply core)])
  ++ [.ev (.matrixCommandComplete core), .ev (.matrixCommandStart core)]
  ++ (if (cipherNext s core).isSome then [.ev (.cipherCommandComplete core)] else [])
  ++ [.ev (if starved s core then .starvationBreak core else .mergeStageIssue core)]
/-- The cores that some front end with a context belongs to, each once. -/
def liveCores (s : State) : List CoreId := ((s.ctxs.map (fun p => p.1 / 2)).eraseDups).map (BitVec.ofNat 8)

/-- Basins are evaluated, then the updates on their way arrive in order (R338). -/
def basinActs (s : State) : List Act :=
  s.basinLive.map (fun b => Act.ev (.basinEvaluate b.1 (BitVec.ofNat 21 b.2)))
  ++ s.basins.map (fun m => Act.ev (match m.up with
    | .arrive => .basinArrival 0#16
    | .expect _ => .basinExpectation 0#16
    | .charge _ => .basinCharge 0#16))

/-- The front end of a core that takes a context: A before B. -/
def feFor (s : State) (k : Kernel) (core : Nat) : FeId :=
  if fits s k [] (feA (BitVec.ofNat 8 core)) then feA (BitVec.ofNat 8 core) else feB (BitVec.ofNat 8 core)
/-- The cores of a die that a gang takes, by C position: the lowest that fit, or the lowest aligned run (R326). -/
def dieCores (s : State) (k : Kernel) (die : Nat) : List Nat :=
  let free := (List.range 64).filter (coreFits s k [] die)
  if kAlign k = 0 then free.map (64 * die + ·)
  else
    match (List.range 64).find? (fun b => b % 2 ^ kAlign k == 0 && decide (b + kCores k ≤ 64)
        && (List.range (kCores k)).all (fun q => free.contains (b + q))) with
    | some b => (List.range (kCores k)).map (fun q => 64 * die + b + q)
    | none => []
/-- A placement of the kernel, by position: the lowest dies that fit (R18, R326). -/
def findPlace (s : State) (k : Kernel) : List FeId :=
  let dies := ((List.range 4).filter (dieFits s k [])).map (dieCores s k)
  (List.range (kDies k * kCores k)).map (fun p =>
    feFor s k ((dies.getD (kindPos k 3 p) []).getD (kindPos k 2 p) 0))
/-- What the dispatcher does about an eligible task (R332). -/
def selectActs (s : State) (t : Task) : List Act :=
  match kernelOf s t.kern with
  | none => []
  | some k =>
    if canPlace s t [] then
      (if t.images then [.ev (.gangRestore t.id)] else [.ev (.dispatcherSelect t.id (findPlace s k) [])])
    else
      let v := (holdVictims (holdDies s t k) t ++ chooseVictims s t).map (·.id)
      [.ev (.dispatcherSelect t.id [] v)]
/-- The transitions of a task. -/
def taskActs (s : State) (t : Task) : List Act :=
  match t.st with
  | .waiting => [.ev (.taskAbandon t.id), .ev (.taskEligible t.id)]
  | .eligible =>
    (if t.images then [Act.ev (.taskAbandon t.id)] else [])
    ++ (if s.disp.en && !s.disp.hold && reaches s t.id then selectActs s t else [])
  | .running => []
  | .failed => [.ev (.taskFailedRetire t.id)]

/-- What the dispatcher has to do for one queue of an assigned window. -/
def queueActs (s : State) (w q : BitVec 6) : List Act :=
  let x := s.cwq w q
  (if (qWord0 s w q).getLsbD 0 && !x.en then [Act.ev (.queueEnable w q)] else [])
  ++ (if x.tearReq then [.ev (.queueTeardown w q)] else [])
  ++ (if x.rstReq then [.ev (.queueReset w q)] else [])
  ++ (if x.tearing then [.ev (.teardownDone w q)] else [])
  ++ (if x.isOn && x.bell then [.ev (.commandEntryTake w q)] else [])
def windowActs (s : State) : List Act :=
  ((List.range 64).map (BitVec.ofNat 6)).flatMap (fun w =>
    if winOn s w then ((List.range 64).map (BitVec.ofNat 6)).flatMap (queueActs s w) else [])

/-- The dispatcher: its scan every microsecond, its windows, launches, its tasks. -/
def dispActs (s : State) : List Act :=
  (if s.cycle % 2100 = 0 then [Act.ev .dispatcherScan] else [])
  ++ windowActs s
  ++ (s.disp.launchq.head?.map (fun l => Act.ev (.launchAccept l.fe))).toList
  ++ (if s.disp.tasks.any (fun t => t.st == .eligible && decide (t.since + 64000000 ≤ s.time.toNat)) then [.ev .taskAging] else [])
  ++ s.disp.tasks.flatMap (taskActs s)

/-- Fills, bias changes, the fabric plan and the activation window. -/
def deviceActs (s : State) : List Act :=
  (if refreshEnds s then [Act.ev .cisternRefresh] else [])
  ++ ((List.range 4).map (BitVec.ofNat 2)).flatMap (fun d =>
    (if (portOf s d.toNat).busy then [Act.ev (.fillComplete d)] else [])
    ++ (if (portOf s d.toNat).hold.isSome then [.ev (.fillHoldFill d)] else []))
  ++ s.bias.flatMap (fun (p : Nat × BitVec 2) =>
    if p.2 = 2#2 then [Act.ev (.biasFlipToHDone (BitVec.ofNat 40 p.1))]
    else if p.2 = 3#2 then [Act.ev (.biasFlipToDDone (BitVec.ofNat 40 p.1))] else [])
  ++ (if frameEnds s ∧ s.hw.planNew.isSome then [.ev .fabricFrameBoundary] else [])
  ++ (if s.fw.act && decide (windowLeft s = 0) then [.ev .activationTimeout] else [])

/-- What happens in a cycle without an instruction: caches give up lines, errors strike, processors outside store. -/
def ambient (s : State) : State := foreignStore (strikeEcc (evictLines s))

/-- The scheduling step: a cycle passes, the next input from outside the device is taken, and all that is ready in the cycle
stands in the agenda. Basins come last, so that a wait that one ends is released in a later cycle (R345). -/
def schedule (s : State) : State :=
  let u := tick s
  let ready := (s.inputs.head?.map Act.ev).toList ++ deviceActs s
    ++ (u.ctxs.map (fun p => BitVec.ofNat 9 p.1)).flatMap (ctxActs u) ++ (liveCores u).flatMap (coreActs u) ++ dispActs u ++ basinActs u
  { ambient u with inputs := u.inputs.tail, agenda := ready }

/-! ### Running one of them -/

/-- An op word of the issuing group: undecodable, it is P00 in its slot (R31, R52). -/
def runOp (s : State) (fe : FeId) (w : Word) : Out :=
  if !s.issue.any (fun i => i.fe == fe) then .next s
  else
    match decodeOp w with
    | .ok i => exec i { s with cur := fe }
    | .error _ => .next (opFault { s with cur := fe } (wordSlot w) .p00 0#64)
/-- A generator word of a running Milliner. -/
def runGen (s : State) (fe : FeId) (w : BitVec 32) : Out :=
  if (s.ctx fe).life ≠ .running ∨ (s.ctx fe).gen.stat ≠ .running then .next s
  else
    match decodeMilliner w with
    | .ok i => exec i { s with cur := fe }
    | .error _ => exec (.illegalMillinerWord fe w) { s with cur := fe }
/-- A micro-word of a started routine. -/
def runMicro (s : State) (fe : FeId) (w : BitVec 32) : Out :=
  match decodeMicro w with
  | .ok i => exec i { s with cur := fe }
  | .error _ => exec (.illegalMicroWord fe w) { s with cur := fe }
/-- A Trimmer word of a drain. -/
def runTrim (s : State) (fe : FeId) (w : BitVec 32) : Out :=
  match decodeTrimmer w with
  | .ok i => exec i { s with cur := fe }
  | .error _ => exec (.illegalTrimmerWord fe w) { s with cur := fe }

/-- Runs one entry of the agenda. -/
def runAct (s : State) (a : Act) : Out :=
  match a with
  | .op fe w => runOp s fe w
  | .gen fe w => runGen s fe w
  | .micro fe w => runMicro s fe w
  | .trim fe w => runTrim s fe w
  | .fin fe => .next (finishGroup s fe)
  | .ev i => exec i s

end

end Sys2Proof.Machine
end

