-- ==== Sys2Proof/Machine/Step.lean ====
section
/-! DEFINITION. One step of the device, and how a given instruction comes to be its next one (assumption log 5, 6). -/
namespace Sys2Proof.Machine

noncomputable section

/-- One step: the head of the agenda runs; with an empty agenda a cycle passes and the agenda is filled. -/
def step (s : State) : Host.Outcome State Fault Refusal :=
  match s.agenda with
  | [] => .next (schedule s)
  | a :: rest => runAct { s with agenda := rest } a

/-- The front end that runs a given word. -/
def fetchFe : FeId := 0#9

/-- An op word stands next: a running context, whose group of this one word issues. -/
def withOp (s : State) (w : Word) : State :=
  let c := { s.ctx fetchFe with life := Life.running }
  let g : RGroup := ⟨setGroupWord 0#512 (wordSlot w).toNat w, 0#64, c.band, none, false⟩
  { s.setCtx fetchFe c with
    issue := some ⟨fetchFe, c, (s.core (coreOf fetchFe)).mq, g, wordMark w, false, false, false, groupBand c g, [], none, none, none, none⟩
    cur := fetchFe
    agenda := [Act.op fetchFe w, Act.fin fetchFe] ++ s.agenda }

/-- A generator word stands next: at GPC, on a mapped page of a running context. -/
def withGen (s : State) (w : BitVec 32) : State :=
  let c := s.ctx fetchFe
  let a := gpcAddr c.gen
  let c := { c with life := Life.running, gen := { c.gen with stat := .running }, pages := mset 0#7 c.pages (a.toNat / 4096) 64#7 }
  let k := coreOf fetchFe
  let co := s.core k
  let s := (s.setCtx fetchFe c).setCore k { co with istore := mset 0#32 co.istore (a.toNat % 4096 / 4) w }
  { s with agenda := Act.gen fetchFe w :: s.agenda }

/-- The command of a routine or drain that is started for a given word. -/
def fetchCmd : MCmd :=
  { fe := fetchFe, num := 1#64, kind := .drain, m := Vector.replicate 8 zeroMReg, tab := realTable, ai := 0#2, rm := 0#2, off := 0#64,
    band := 0#8, mixed := false, prov := 0#64, word := 0#64 }

/-- A micro-word stands next: at word 0 of the block store, where a started routine of a running context stands. -/
def withMicro (s : State) (w : BitVec 32) : State :=
  let c := s.ctx fetchFe
  let r := MRun.start fetchCmd 0 0 false .words
  let k := coreOf fetchFe
  let co := s.core k
  let s := (s.setCtx fetchFe { c with life := .running, eng := { c.eng with mat := { c.eng.mat with run := some r, bypass := none } } }).setCore k
    { co with bstore := mset 0#32 co.bstore 0 w }
  { s with agenda := Act.micro fetchFe w :: s.agenda }

/-- A Trimmer word stands next: at word 0 of the Trimmer store, where the drain of a running context stands. -/
def withTrim (s : State) (w : BitVec 32) : State :=
  let c := s.ctx fetchFe
  let r := { MRun.start fetchCmd 0 0 false .drainLoop with trun := TRun.fresh 0 0#8 }
  let k := coreOf fetchFe
  let co := s.core k
  let s := (s.setCtx fetchFe { c with life := .running, eng := { c.eng with mat := { c.eng.mat with run := some r, bypass := none } } }).setCore k
    { co with tstore := mset 0#32 co.tstore 0 w }
  { s with agenda := Act.trim fetchFe w :: s.agenda }

/-- The state in which the next step runs the instruction of an opcode-table word (assumption log 5, 6). -/
def State.withFetchWord (s : State) (nbits w : Nat) : State :=
  if nbits = 64 then withOp s (BitVec.ofNat 64 w)
  else
    match decodeSide (BitVec.ofNat 32 w) with
    | some (.micro, _) => withMicro s (BitVec.ofNat 32 w)
    | some (.trimmer, _) => withTrim s (BitVec.ofNat 32 w)
    | some (.milliner, _) | none => withGen s (BitVec.ofNat 32 w)

end

end Sys2Proof.Machine
end

