-- ==== Sys2Proof/Safety.lean ====
section
/-! DEFINITION. The terms that the statements use: when an op executes, how an instruction answers, what stays unchanged,
and the invariant of memory. -/
namespace Sys2Proof.Machine

/-- The header of an op; none for what is no op word. -/
def opHdr : Instr → Option OpHdr
  | .endq h | .lbrk h | .mdrain h | .mfreeze h | .mthaw h | .mzero h | .yield h => some h
  | .nop h _ | .post h _ | .lbody h _ | .lstage h _ | .lgo h _ | .mdrainRaw h _ | .mfill h _ | .qclr h _
  | .cdrain h _ | .tfence h _ | .barv h _ | .exit h _ | .trap h _ | .bandup h _ | .wlock h _ | .wunlk h _
  | .rdtime h _ => some h
  | .clz h _ _ | .ctz h _ _ | .popc h _ _ | .li h _ _ | .pnot h _ _ | .skip h _ _ | .rdsr h _ _ | .wrsr h _ _
  | .lset h _ _ | .lidx h _ _ | .sminit h _ _ | .smrsc h _ _ | .smget h _ _ | .mset h _ _ | .msetRs h _ _
  | .mget h _ _ | .mgetRs h _ _ | .malg h _ _ | .mstat h _ _ | .radv h _ _ | .cmode h _ _ | .cstat h _ _
  | .fence h _ _ | .bexp h _ _ | .bwait h _ _ | .sigwait h _ _ | .launch h _ _ => some h
  | .add h _ _ _ | .sub h _ _ _ | .and h _ _ _ | .or h _ _ _ | .xor h _ _ _ | .andn h _ _ _ | .shl h _ _ _
  | .shr h _ _ _ | .sra h _ _ _ | .rot h _ _ _ | .min h _ _ _ | .max h _ _ _ | .minu h _ _ _ | .maxu h _ _ _
  | .mul h _ _ _ | .mulh h _ _ _ | .mulhu h _ _ _ | .div h _ _ _ | .divu h _ _ _ | .rem h _ _ _ | .remu h _ _ _
  | .addi h _ _ _ | .andi h _ _ _ | .ori h _ _ _ | .xori h _ _ _ | .shli h _ _ _ | .shri h _ _ _
  | .srai h _ _ _ | .lih h _ _ _ | .muli h _ _ _ | .ceq h _ _ _ | .cne h _ _ _ | .clt h _ _ _ | .cltu h _ _ _
  | .cle h _ _ _ | .cleu h _ _ _ | .ceqi h _ _ _ | .clti h _ _ _ | .pand h _ _ _ | .por h _ _ _ | .pxor h _ _ _
  | .pset h _ _ _ | .eskip h _ _ _ | .cred h _ _ _ | .tget h _ _ _ | .sigdec h _ _ _ | .wld h _ _ _
  | .wx h _ _ _ => some h
  | .sel h _ _ _ _ | .vabs h _ _ _ _ | .vfabs h _ _ _ _ | .vfneg h _ _ _ _ | .vmov h _ _ _ _
  | .vsplat h _ _ _ _ | .vconj h _ _ _ _ | .smstep h _ _ _ _ | .smfin h _ _ _ _ | .tload h _ _ _ _
  | .vldc h _ _ _ _ | .vldr h _ _ _ _ | .vldg h _ _ _ _ | .vlds h _ _ _ _ | .pref h _ _ _ _ | .vstr h _ _ _ _
  | .vsts h _ _ _ _ | .cflush h _ _ _ _ | .cinval h _ _ _ _ | .cclean h _ _ _ _ | .cnb h _ _ _ _
  | .mwait h _ _ _ _ | .seal_ h _ _ _ _ | .open_ h _ _ _ _ => some h
  | .bfx h _ _ _ _ _ | .bfi h _ _ _ _ _ | .vadd h _ _ _ _ _ | .vsub h _ _ _ _ _ | .vmul h _ _ _ _ _
  | .vadds h _ _ _ _ _ | .vsubs h _ _ _ _ _ | .vmin h _ _ _ _ _ | .vmax h _ _ _ _ _ | .vshl h _ _ _ _ _
  | .vshr h _ _ _ _ _ | .vsra h _ _ _ _ _ | .vand h _ _ _ _ _ | .vor h _ _ _ _ _ | .vxor h _ _ _ _ _
  | .vmulhr h _ _ _ _ _ | .vfmin h _ _ _ _ _ | .vfmax h _ _ _ _ _ | .vrcp h _ _ _ _ _ | .vrsqrt h _ _ _ _ _
  | .vexp2 h _ _ _ _ _ | .vlog2 h _ _ _ _ _ | .vrmax h _ _ _ _ _ | .vramax h _ _ _ _ _ | .vrmin h _ _ _ _ _
  | .vbcast h _ _ _ _ _ | .vext h _ _ _ _ _ | .vins h _ _ _ _ _ | .vnorm h _ _ _ _ _ | .mload h _ _ _ _ _
  | .lsq h _ _ _ _ _ | .cnl h _ _ _ _ _ | .cgo h _ _ _ _ _ | .twait h _ _ _ _ _ => some h
  | .vmac h _ _ _ _ _ _ | .vsel h _ _ _ _ _ _ | .vfadd h _ _ _ _ _ _ | .vfsub h _ _ _ _ _ _
  | .vfmul h _ _ _ _ _ _ | .vfcmp h _ _ _ _ _ _ | .vcmp h _ _ _ _ _ _ | .vdequant h _ _ _ _ _ _
  | .vscale2 h _ _ _ _ _ _ | .vrsum h _ _ _ _ _ _ | .vslide h _ _ _ _ _ _ | .vzip h _ _ _ _ _ _
  | .vunzip h _ _ _ _ _ _ | .mcall h _ _ _ _ _ _ | .ld h _ _ _ _ _ _ | .vld h _ _ _ _ _ _ | .qset h _ _ _ _ _ _
  | .st h _ _ _ _ _ _ | .vst h _ _ _ _ _ _ | .vstm h _ _ _ _ _ _ | .fmt h _ _ _ _ _ _ => some h
  | .vdot4 h _ _ _ _ _ _ _ | .vfma h _ _ _ _ _ _ _ | .vquant h _ _ _ _ _ _ _ | .vperm h _ _ _ _ _ _ _
  | .vamul h _ _ _ _ _ _ _ | .cpy h _ _ _ _ _ _ _ | .ckv h _ _ _ _ _ _ _ => some h
  | .vamac h _ _ _ _ _ _ _ _ => some h
  | .amo h _ _ _ _ _ _ _ _ _ => some h
  | .vcvt h _ _ _ _ _ _ _ _ _ _ => some h
  | _ => none

/-- The context of the front end whose group issues. -/
abbrev State.here (s : State) : Ctx := s.ctx s.cur

/-- An op that bit 0 of its guard decides executes: it is not squashed by a skip or a stage (R41, R125), and its guard is
not poisoned and true (R42, R115). -/
def OpRuns (s : State) (h : OpHdr) : Prop :=
  opSquashed s h = false ∧ (s.here.rP h.g).poison = false ∧ (s.here.rP h.g).bits.getLsbD 0 = true

/-- An op whose guard acts lane by lane executes: it is not squashed, and its guard is not poisoned (R42, R146). -/
def LaneRuns (s : State) (h : OpHdr) : Prop :=
  opSquashed s h = false ∧ (s.here.rP h.g).poison = false

/-- `i` lands f(sA, sB) in sD `lat` beats after it issues, in the joined band and with the joined poison (R114). -/
def LandsRR (i : Instr) (h : OpHdr) (lat : Nat) (d a b : BitVec 6) (f : Word → Word → Word) : Prop :=
  ∀ (s : State) (band : Band), OpRuns s h → bandOf [(s.here.rS a).band, (s.here.rS b).band] = some band →
    exec i s = .next (landRegs s 0#3 lat
      [.s d ⟨f (s.here.rS a).val (s.here.rS b).val, band, (s.here.rS a).poison || (s.here.rS b).poison⟩])

/-- `i` lands f(sA) in sD one beat after it issues, in the band and with the poison of sA (R114). -/
def LandsR (i : Instr) (h : OpHdr) (d a : BitVec 6) (f : Word → Word) : Prop :=
  ∀ (s : State) (band : Band), OpRuns s h → bandOf [(s.here.rS a).band] = some band →
    exec i s = .next (landRegs s 0#3 1 [.s d ⟨f (s.here.rS a).val, band, (s.here.rS a).poison⟩])

/-- `i` lands f(sA) in sD `lat` beats after it issues; its immediate takes the band of its group (R95, R114, R121). -/
def LandsRI (i : Instr) (h : OpHdr) (lat : Nat) (d a : BitVec 6) (f : Word → Word) : Prop :=
  ∀ (s : State) (band : Band), OpRuns s h → bandOf [(s.here.rS a).band, s.immBand] = some band →
    exec i s = .next (landRegs s 0#3 lat [.s d ⟨f (s.here.rS a).val, band, (s.here.rS a).poison⟩])

/-- `i` lands in pD, one beat after it issues, 256 copies of a condition on sA and sB (R122). -/
def LandsCmp (i : Instr) (h : OpHdr) (d : BitVec 4) (a b : BitVec 6) (f : Word → Word → Prop) : Prop :=
  ∀ (s : State) (band : Band) (v : BitVec 256), OpRuns s h → d ≠ 0#4 →
    bandOf [(s.here.rS a).band, (s.here.rS b).band] = some band →
    (f (s.here.rS a).val (s.here.rS b).val → v = BitVec.allOnes 256) →
    (¬ f (s.here.rS a).val (s.here.rS b).val → v = 0#256) →
    exec i s = .next (landRegs s 0#3 1 [.p d ⟨v, band, (s.here.rS a).poison || (s.here.rS b).poison⟩])

/-- `i` lands in pD, one beat after it issues, 256 copies of a condition on sA and an immediate (R122). -/
def LandsCmpI (i : Instr) (h : OpHdr) (d : BitVec 4) (a : BitVec 6) (f : Word → Prop) : Prop :=
  ∀ (s : State) (band : Band) (v : BitVec 256), OpRuns s h → d ≠ 0#4 →
    bandOf [(s.here.rS a).band, s.immBand] = some band →
    (f (s.here.rS a).val → v = BitVec.allOnes 256) → (¬ f (s.here.rS a).val → v = 0#256) →
    exec i s = .next (landRegs s 0#3 1 [.p d ⟨v, band, (s.here.rS a).poison⟩])

/-- `i` lands f(pA, pB) in pD one beat after it issues (R123). -/
def LandsPred (i : Instr) (h : OpHdr) (d a b : BitVec 4) (f : BitVec 256 → BitVec 256 → BitVec 256) : Prop :=
  ∀ (s : State) (band : Band), OpRuns s h → d ≠ 0#4 → bandOf [(s.here.rP a).band, (s.here.rP b).band] = some band →
    exec i s = .next (landRegs s 0#3 1
      [.p d ⟨f (s.here.rP a).bits (s.here.rP b).bits, band, (s.here.rP a).poison || (s.here.rP b).poison⟩])

/-- The state after the pops of the stream sources of a vector op (R144). -/
def State.popped (s : State) (srcs : List VSrc) : State := s.modCtx s.cur (fun c => srcs.foldl popSrc c)

/-- The bands that meet in a vector result: the sources', and with a guard other than p0 the guard's and the old
destination's (R148). -/
def vecBands (s : State) (h : OpHdr) (d : BitVec 6) (bs : List Band) : List Band :=
  bs ++ if h.g = 0#4 then [] else [(s.here.rP h.g).band, (s.here.rV d).band]

/-- Lane i, w bytes wide, is active under the guard: bit w x i of it is 1 (R146). -/
def LaneActive (s : State) (h : OpHdr) (w i : Nat) : Prop := (s.here.rP h.g).bits.getLsbD (w * i) = true

/-- A vector op whose sources can be read (R144) lands in vD, `lat` beats after it issues, its streams popped: in every
active lane the value f, in the joined band, with the poison of the granules of the sources where active lanes stand,
writing exactly the bytes of active lanes (R146 to R149). -/
def LandsLanes (i : Instr) (vb : Bool) (h : OpHdr) (lat w : Nat) (d : BitVec 6) (srcs : List VSrc)
    (f : State → List VReg → Nat → Nat) : Prop :=
  ∀ (s : State) (vs : List VReg) (band : Band), LaneRuns s h → srcVals s.here srcs = .ok vs →
    bandOf (vecBands s h d (vs.map (·.band))) = some band →
    ∃ bits : BitVec 2048,
      (∀ k, k < 256 / w → LaneActive s h w k → lane bits w k = f s vs k % 2 ^ (8 * w)) ∧
      exec i s = .next (landRegs (s.popped srcs) (vslot vb) lat
        [.v d ⟨bits, band, lanePoison w (activeLanes (s.here.rP h.g) w) vs⟩ (lanesMask w (activeLanes (s.here.rP h.g) w))])

/-- As `LandsLanes` for an op that moves elements, converts or reduces: the value of each active lane, and whether it is
poisoned (R149), are f and p; a granule is marked exactly when one of its active lanes is poisoned. -/
def LandsMoved (i : Instr) (vb : Bool) (h : OpHdr) (lat w : Nat) (d : BitVec 6) (srcs : List VSrc) (bs : List VReg → List Band)
    (f : State → List VReg → Nat → Nat) (p : State → List VReg → Nat → Bool) : Prop :=
  ∀ (s : State) (vs : List VReg) (band : Band), LaneRuns s h → srcVals s.here srcs = .ok vs →
    bandOf (vecBands s h d (bs vs)) = some band →
    ∃ (bits : BitVec 2048) (marks : BitVec 4),
      (∀ k, k < 256 / w → LaneActive s h w k → lane bits w k = f s vs k % 2 ^ (8 * w)) ∧
      marks = lanesGranules w ((activeLanes (s.here.rP h.g) w).filter (p s vs)) ∧
      exec i s = .next (landRegs (s.popped srcs) (vslot vb) lat
        [.v d ⟨bits, band, marks⟩ (lanesMask w (activeLanes (s.here.rP h.g) w))])

/-- The bits of source k of a vector op. -/
def srcBits (vs : List VReg) (k : Nat) : BitVec 2048 := (vs.getD k zeroVReg).bits

/-- Every byte of memory reads as before. -/
def SameMemory (s t : State) : Prop := ∀ a, memRead t.mem a = memRead s.mem a

/-- An engine op (M slot, C slot, `seal`, `open`) runs on the values x: those of the registers it names when it executes
with no window over it, or those that its entry of the commit buffer holds when it commits (R127). -/
def EngineRuns (s : State) (h : OpHdr) (a b c : BitVec 6) (x : EngArgs) : Prop :=
  (∃ e, committing s = some e ∧ x = ⟨e.a, e.b, e.c, e.m, e.fmt⟩) ∨
  (committing s = none ∧ windowCovers s = false ∧ OpRuns s h ∧
    x = ⟨s.here.rS a, s.here.rS b, s.here.rS c, s.here.regs.m, s.here.regs.fmt⟩)

/-- The pieces of a read of the window give `dat`, and what the load is to write is w (R216, R229, R231). In debug mode no
store of the context to a word that it reads is still to appear (R54). -/
def WindowReads (s : State) (r : LoadReq) (w : List RegW) : Prop :=
  (s.here.dbg && r.pieces.any (readsPendingWord s.here.spm)) = false ∧
  ∃ dat, readSpm s.here.spm r.pieces = .ok dat ∧ loadWrites r.dst dat = .ok w

/-- A load of n bytes at `ea` with destination `dst` runs in slot `slot` (R213, R231, R235): in the window, what it reads
lands 6 beats later; elsewhere the read waits for its data and lands 9 beats later at the earliest. -/
def LoadsAt (i : Instr) (s : State) (slot : BitVec 3) (dst : LoadDst) (ea : Word) (n : Nat) (strong : Bool) (scope : BitVec 2) : Prop :=
  (isSpm ea = true → ∀ w, WindowReads s ⟨dst, piecesOf ea n, strong, scope, false, none⟩ w →
    exec i s = .next (addPend s slot 6 (.spm ⟨dst, piecesOf ea n, strong, scope, false, none⟩ w))) ∧
  (isSpm ea = false →
    exec i s = .next (addPend s slot 9 (.load ⟨dst, piecesOf ea n, strong, scope, false, none⟩)))

/-- A store of `data` of band `band` at `ea`, n bytes long, runs (R213, R216, R232, R233, R238): in the window its bytes are
due in 3 beats and the lines' old contents are in the undo log; elsewhere its entries stand in the gate, or, if it is
strong, behind the released gate in the store buffer. -/
def StoresAt (i : Instr) (s : State) (ea : Word) (n : Nat) (band : Band) (strong : Bool) (scope : BitVec 2) (data : SpmBytes) : Prop :=
  (isSpm ea = true → spmOff ea + n ≤ s.here.spm.size →
    spmStoreFault s.here ea band [spmOff ea / 256] (data.map (fun p => (spmOff ea + p.1, p.2))) = none →
    exec i s = .next (s.modCtx s.cur (fun c => c.spmStore band (data.map (fun p => (spmOff ea + p.1, p.2)))))) ∧
  (isSpm ea = false → ∀ plan, planStore s s.cur .core scope band data (piecesOf ea n) = .ok plan →
    (strong = true → exec i s = .next (s.modCtx s.cur (fun c => { c with
      stq := { c.stq with gate := [], sb := c.stq.sb ++ c.stq.gate ++ plan.entries s.here.nextSeq ea band strong scope },
      nextSeq := c.nextSeq + 1 }))) ∧
    (strong = false →
      s.here.stq.gate.length + (plan.entries s.here.nextSeq ea band strong scope).length ≤ 128 →
      exec i s = .next (s.modCtx s.cur (fun c => { c with
        stq := { c.stq with gate := c.stq.gate ++ plan.entries s.here.nextSeq ea band strong scope },
        nextSeq := c.nextSeq + 1 }))))

/-- A command enters its core's matrix queue as the last entry, under the next number of `tm` (R180, R264); no other part of
the context, no other context, and no byte of memory changes. -/
def EntersQueue (s : State) (cmd : MCmd) (t : State) : Prop :=
  ∃ n : Word, n = s.here.eng.tl[2].count + 1#64 ∧
    (t.core (coreOf s.cur)) = { s.core (coreOf s.cur) with mq := (s.core (coreOf s.cur)).mq ++ [{ cmd with num := n }] } ∧
    t.here = { s.here with eng := { s.here.eng with tl := s.here.eng.tl.set 2 { s.here.eng.tl[2] with count := n } } } ∧
    t.cur = s.cur ∧ (∀ fe, fe ≠ s.cur → t.ctx fe = s.ctx fe) ∧ (∀ k, k ≠ coreOf s.cur → t.core k = s.core k) ∧ SameMemory s t

/-- A micro-word of the executing front end's routine runs: the routine is started, executes words, neither rests nor drains nor
has latches to pull again, and its next word is in the store (R189, R190, R193). -/
def MicroRuns (s : State) (r : MRun) : Prop :=
  s.here.eng.mat.run = some r ∧ r.phase = .words ∧ r.frozen = false ∧ r.indr = false ∧ r.repull = false ∧ r.mpc + 1 < 4096

/-- A routine that executes a word waits for nothing. -/
def MRun.going (r : MRun) : MRun := { r with wait := .none }

/-- The routine goes on at the next word, with unit state m and run state r. -/
def State.microDone (s : State) (m : Mat) (r : MRun) : State :=
  s.modMat s.cur (fun _ => { m with run := some { r.setMpc (r.mpc + 1) with waited := 0 } })

/-- A Trimmer word of the executing front end's drain runs: the drain goes on, and its run has room for the word (R189,
R206). -/
def TrimRuns (s : State) (r : MRun) : Prop :=
  s.here.eng.mat.active = some r ∧ draining r = true ∧ r.trun.steps < 64 ∧ r.trun.pc ≠ 511#9

/-- The run goes on at the next word with the registers `f` leaves, and unit state m. -/
def State.trimDone (s : State) (m : Mat) (r : MRun) (f : TRun → TRun) : State :=
  let t := { r.trun with steps := r.trun.steps + 1, pc := r.trun.pc + 1#9 }
  s.modMat s.cur (fun _ => m.setActive { r with trun := f t })

end Sys2Proof.Machine
end

