-- ==== Sys2Proof/Certificates/Slice0/Obligations.lean ====
section
/-! DEFINITION. The statements about this machine, for the provers. -/
open Sys2Proof Sys2Proof.Machine

/-- For each two-source integer instruction except the divisions: when the op executes and its sources' bands join,
exec answers the next state in which sD is due the result of R117 after 1 beat (3 for a multiply), in the joined band,
poisoned if a source is. Shift counts are the low 6 bits of B, minima and maxima and high products are those of the
signed or unsigned numbers. (R53, R114, R117.) -/
def Obligations.IntegerRegisterOpsLandTheirResult : Prop :=
  ∀ (h : OpHdr) (d a b : BitVec 6),
    LandsRR (.add h d a b) h 1 d a b (fun x y => x + y) ∧
    LandsRR (.sub h d a b) h 1 d a b (fun x y => x - y) ∧
    LandsRR (.and h d a b) h 1 d a b (fun x y => x &&& y) ∧
    LandsRR (.or h d a b) h 1 d a b (fun x y => x ||| y) ∧
    LandsRR (.xor h d a b) h 1 d a b (fun x y => x ^^^ y) ∧
    LandsRR (.andn h d a b) h 1 d a b (fun x y => x &&& ~~~y) ∧
    LandsRR (.shl h d a b) h 1 d a b (fun x y => BitVec.ofNat 64 (x.toNat * 2 ^ (y.toNat % 64))) ∧
    LandsRR (.shr h d a b) h 1 d a b (fun x y => BitVec.ofNat 64 (x.toNat / 2 ^ (y.toNat % 64))) ∧
    LandsRR (.sra h d a b) h 1 d a b (fun x y => BitVec.ofInt 64 (x.toInt / 2 ^ (y.toNat % 64))) ∧
    LandsRR (.rot h d a b) h 1 d a b (fun x y => x.rotateLeft (y.toNat % 64)) ∧
    LandsRR (.min h d a b) h 1 d a b (fun x y => if x.toInt < y.toInt then x else y) ∧
    LandsRR (.max h d a b) h 1 d a b (fun x y => if x.toInt < y.toInt then y else x) ∧
    LandsRR (.minu h d a b) h 1 d a b (fun x y => if x.toNat < y.toNat then x else y) ∧
    LandsRR (.maxu h d a b) h 1 d a b (fun x y => if x.toNat < y.toNat then y else x) ∧
    LandsRR (.mul h d a b) h 3 d a b (fun x y => BitVec.ofInt 64 (x.toInt * y.toInt)) ∧
    LandsRR (.mulh h d a b) h 3 d a b (fun x y => BitVec.ofInt 64 (x.toInt * y.toInt / 2 ^ 64)) ∧
    LandsRR (.mulhu h d a b) h 3 d a b (fun x y => BitVec.ofNat 64 (x.toNat * y.toNat / 2 ^ 64))

/-- When the op executes and its sources' bands join, exec of div, divu, rem and remu answers the next state in which
sD is due after 18 beats: for B = 0 the values -1, 2^64 - 1, A and A; for A = -2^63 and B = -1 the value -2^63 for div
and 0 for rem, and for divu and remu the quotient and remainder of the unsigned numbers as usual; otherwise the
quotient rounded towards zero and the remainder with the sign of A, signed or unsigned. (R118.) -/
def Obligations.DivisionsLandTheirResult : Prop :=
  ∀ (h : OpHdr) (d a b : BitVec 6),
    LandsRR (.div h d a b) h 18 d a b (fun x y =>
      if y = 0#64 then BitVec.ofInt 64 (-1)
      else if x.toInt = -2 ^ 63 ∧ y.toInt = -1 then BitVec.ofInt 64 (-2 ^ 63)
      else BitVec.ofInt 64 (x.toInt.tdiv y.toInt)) ∧
    LandsRR (.divu h d a b) h 18 d a b (fun x y =>
      if y = 0#64 then BitVec.ofNat 64 (2 ^ 64 - 1) else BitVec.ofNat 64 (x.toNat / y.toNat)) ∧
    LandsRR (.rem h d a b) h 18 d a b (fun x y =>
      if y = 0#64 then x
      else if x.toInt = -2 ^ 63 ∧ y.toInt = -1 then 0#64
      else BitVec.ofInt 64 (x.toInt.tmod y.toInt)) ∧
    LandsRR (.remu h d a b) h 18 d a b (fun x y =>
      if y = 0#64 then x else BitVec.ofNat 64 (x.toNat % y.toNat))

/-- When the op executes and its sources' bands join, exec of clz, ctz and popc answers the next state in which sD is
due the number of leading zeros, trailing zeros or one bits of A after 1 beat; of bfx the field A[pos+len-1:pos]
extended by zeros or by its sign, and of bfi the value B with that field replaced by A[len-1:0], for every pos + lenm1
of at most 63; of sel the value A or B by bit 0 of the unpoisoned pC, in the band joined from A, B and pC. (R115,
R117, R119, R120.) -/
def Obligations.OneSourceAndBitFieldOpsLandTheirResult : Prop :=
  ∀ (h : OpHdr) (d a b lenm1 pos : BitVec 6) (c : BitVec 4) (sx : Bool),
    LandsR (.clz h d a) h d a (fun x => BitVec.ofNat 64 ((List.range 64).findIdx (fun i => x.getLsbD (63 - i)))) ∧
    LandsR (.ctz h d a) h d a (fun x => BitVec.ofNat 64 ((List.range 64).findIdx (fun i => x.getLsbD i))) ∧
    LandsR (.popc h d a) h d a (fun x => BitVec.ofNat 64 ((List.range 64).countP (fun i => x.getLsbD i))) ∧
    (pos.toNat + lenm1.toNat ≤ 63 → LandsR (.bfx h d a sx lenm1 pos) h d a (fun x =>
      if sx then (x.extractLsb' pos.toNat (lenm1.toNat + 1)).signExtend 64
      else (x.extractLsb' pos.toNat (lenm1.toNat + 1)).setWidth 64)) ∧
    (∀ f : Word → Word → Word, pos.toNat + lenm1.toNat ≤ 63 →
      (∀ (x y : Word) (i : Nat), i < 64 → (f x y).getLsbD i
        = if pos.toNat ≤ i ∧ i ≤ pos.toNat + lenm1.toNat then x.getLsbD (i - pos.toNat) else y.getLsbD i) →
      LandsRR (.bfi h d a b lenm1 pos) h 1 d a b f) ∧
    (∀ (s : State) (band : Band), OpRuns s h → (s.here.rP c).poison = false →
      bandOf [(s.here.rS a).band, (s.here.rS b).band, (s.here.rP c).band] = some band →
      exec (.sel h d a b c) s = .next (landRegs s 0#3 1
        [.s d ⟨if (s.here.rP c).bits.getLsbD 0 then (s.here.rS a).val else (s.here.rS b).val, band,
          (s.here.rS a).poison || (s.here.rS b).poison⟩]))

/-- When the op executes and the band of sA joins that of the group's immediates (for li the latter alone), exec of
each immediate instruction answers the next state in which sD is due the result of R121: with the sign-extended IMM32,
a shift by a count of at most 63, or for lih the value (A x 2^32) OR IMM32; after 3 beats for muli, else 1. (R95,
R114, R121.) -/
def Obligations.ImmediateOpsLandTheirResult : Prop :=
  ∀ (h : OpHdr) (d a : BitVec 6) (n imm : BitVec 32),
    LandsRI (.addi h d a imm) h 1 d a (fun x => BitVec.ofInt 64 (x.toInt + imm.toInt)) ∧
    LandsRI (.andi h d a imm) h 1 d a (fun x => x &&& imm.signExtend 64) ∧
    LandsRI (.ori h d a imm) h 1 d a (fun x => x ||| imm.signExtend 64) ∧
    LandsRI (.xori h d a imm) h 1 d a (fun x => x ^^^ imm.signExtend 64) ∧
    (n.toNat ≤ 63 → LandsRI (.shli h d a n) h 1 d a (fun x => BitVec.ofNat 64 (x.toNat * 2 ^ n.toNat))) ∧
    (n.toNat ≤ 63 → LandsRI (.shri h d a n) h 1 d a (fun x => BitVec.ofNat 64 (x.toNat / 2 ^ n.toNat))) ∧
    (n.toNat ≤ 63 → LandsRI (.srai h d a n) h 1 d a (fun x => BitVec.ofInt 64 (x.toInt / 2 ^ n.toNat))) ∧
    LandsRI (.lih h d a imm) h 1 d a (fun x => x.setWidth 32 ++ imm) ∧
    LandsRI (.muli h d a imm) h 3 d a (fun x => BitVec.ofInt 64 (x.toInt * imm.toInt)) ∧
    (∀ (s : State) (band : Band), OpRuns s h → bandOf [s.immBand] = some band →
      exec (.li h d imm) s = .next (landRegs s 0#3 1 [.s d ⟨BitVec.ofInt 64 imm.toInt, band, false⟩]))

/-- When the op executes with a D from 1 to 15 and its sources' bands join, exec of each scalar compare answers the
next state in which pD is due, after 1 beat, 256 ones if the condition holds and 256 zeros if not, poisoned if a
source is; pand, por, pxor and pnot land the bitwise result; pset lands the predicate whose bit i is 1 exactly when
floor(i / w) < A, for w the element width in bytes. (R114, R122, R123, R142.) -/
def Obligations.ComparesAndPredicateOpsLandTheirPredicate : Prop :=
  ∀ (h : OpHdr) (d p q : BitVec 4) (a b : BitVec 6) (imm : BitVec 32) (t : VTy),
    LandsCmp (.ceq h d a b) h d a b (fun x y => x = y) ∧
    LandsCmp (.cne h d a b) h d a b (fun x y => x ≠ y) ∧
    LandsCmp (.clt h d a b) h d a b (fun x y => x.toInt < y.toInt) ∧
    LandsCmp (.cltu h d a b) h d a b (fun x y => x.toNat < y.toNat) ∧
    LandsCmp (.cle h d a b) h d a b (fun x y => x.toInt ≤ y.toInt) ∧
    LandsCmp (.cleu h d a b) h d a b (fun x y => x.toNat ≤ y.toNat) ∧
    LandsCmpI (.ceqi h d a imm) h d a (fun x => x.toInt = imm.toInt) ∧
    LandsCmpI (.clti h d a imm) h d a (fun x => x.toInt < imm.toInt) ∧
    LandsPred (.pand h d p q) h d p q (fun x y => x &&& y) ∧
    LandsPred (.por h d p q) h d p q (fun x y => x ||| y) ∧
    LandsPred (.pxor h d p q) h d p q (fun x y => x ^^^ y) ∧
    LandsPred (.pnot h d p) h d p p (fun x _ => ~~~x) ∧
    (∀ (s : State) (band : Band) (v : BitVec 256), OpRuns s h → d ≠ 0#4 → bandOf [(s.here.rS a).band] = some band →
      (∀ i, i < 256 → v.getLsbD i = decide (i / t.bytes < (s.here.rS a).val.toNat)) →
      exec (.pset h d a t) s = .next (landRegs s 0#3 1 [.p d ⟨v, band, (s.here.rS a).poison⟩]))

/-- nop with guard field 0 changes nothing. When the op executes: skip pA, #n with n from 1 to 64, outside a loop body
or with at least n body groups left, and pA not poisoned, sets the skip counter to n if bit 0 of pA is 1 and changes
nothing if it is 0; eskip pA, #n with n from 1 to 16 under the same condition on the body, and pA not poisoned, opens
a window of n groups over pA, as its newest write leaves it, with its hint and no entries; end makes the context spend
idle beats after its group. Each changes nothing else. (R37, R124, R126, R127, R131.) -/
def Obligations.SkipsNopAndEndAct : Prop :=
  ∀ (s : State) (h : OpHdr) (slot : BitVec 3) (a : BitVec 4) (n : BitVec 32) (m : BitVec 5) (hint : Bool),
    (h.g = 0#4 → exec (.nop h slot) s = .next s) ∧
    (OpRuns s h → 1 ≤ n.toNat → n.toNat ≤ 64 → (∀ k, bodyLeft s.here = some k → n.toNat ≤ k) →
      (s.here.rP a).poison = false →
      exec (.skip h a n) s = .next (if (s.here.rP a).bits.getLsbD 0
        then s.modCtx s.cur (fun c => { c with regs := { c.regs with skip := n.setWidth 7 } }) else s)) ∧
    (OpRuns s h → 1 ≤ m.toNat → m.toNat ≤ 16 → (∀ k, bodyLeft s.here = some k → m.toNat ≤ k) →
      (s.here.rP a).poison = false →
      exec (.eskip h a hint m) s = .next (s.modCtx s.cur (fun c => { c with regs := { c.regs with
        win := ⟨true, a, hint, m, 0#5, false, false, [], c.predWriter a, s.opProv, s.opWord 0#3⟩ } }))) ∧
    (OpRuns s h → exec (.endq h) s = .next (s.modCtx s.cur (fun c => { c with idle := .endOp })))

/-- When the op executes: post of an unpoisoned sA with fewer than 16 entries in use appends the value of sA and its
band to the receive FIFO; rdsr of each special register 0 to 9 lands that register's value in sD after 1 beat, in the
band joined with the context's; wrsr of an unpoisoned sA not above the context's band level lands, after 4 beats, the
mode and algebra of FMT with its flags cleared by ones for register 0, and after 1 beat the register's value for 4, 5
and 6. (R44, R67, R102, R103, R129, R130.) -/
def Obligations.MessagesAndSpecialRegistersAct : Prop :=
  ∀ (s : State) (h : OpHdr) (a d : BitVec 6) (band : Band), OpRuns s h →
    ((s.here.rS a).poison = false → s.here.gen.fifo.length + s.here.gen.popped.length < 16 →
      exec (.post h a) s = .next (s.modCtx s.cur (fun c => { c with gen := { c.gen with
        fifo := c.gen.fifo ++ [⟨(s.here.rS a).val, (s.here.rS a).band, true⟩] } }))) ∧
    (bandOf [s.here.band] = some band →
      ∀ (n : BitVec 32) (v : Word),
        (n = 0#32 ∧ v = s.here.regs.fmt ∨
         n = 1#32 ∧ v = BitVec.ofNat 64 (s.here.ident.feid.toNat * 2 ^ 32 + s.here.ident.bid.toNat) ∨
         n = 2#32 ∧ v = s.here.band.setWidth 64 ∨ n = 3#32 ∧ v = s.here.ident.prio.setWidth 64 ∨
         n = 4#32 ∧ v = s.here.regs.kvpol ∨ n = 5#32 ∧ v = s.here.stallc[0] ∨ n = 6#32 ∧ v = s.here.stallc[1] ∨
         n = 7#32 ∧ v = s.here.gen.runbp ∨
         n = 8#32 ∧ v = BitVec.ofNat 64 (s.refresh.toNat / 2016 * 2 ^ 16 + s.refresh.toNat) ∨ n = 9#32 ∧ v = s.time) →
        exec (.rdsr h d n) s = .next (landRegs s 0#3 1 [.s d ⟨v, band, false⟩])) ∧
    ((s.here.rS a).poison = false → bandLevel (s.here.rS a).band ≤ bandLevel s.here.band →
      exec (.wrsr h a 0#32) s = .next (landRegs s 0#3 4
        [.fmt (some ((s.here.rS a).val.extractLsb' 0 2)) (some ((s.here.rS a).val.extractLsb' 2 2))
          ((s.here.rS a).val.getLsbD 17) ((s.here.rS a).val.getLsbD 16)]) ∧
      ∀ n : BitVec 32, n = 4#32 ∨ n = 5#32 ∨ n = 6#32 →
        exec (.wrsr h a n) s = .next (landRegs s 0#3 1 [.sr (n.setWidth 4) (s.here.rS a).val]))

/-- When the op executes outside a nest: lset puts sA[31:0] in the bound of level k (k at most 5, sA not poisoned),
lbody sets LEN (1 to 32), lstage sets STG (at most 7). lgo #n (n from 1 to 6, LEN not 0) with a product of the first n
bounds P below 2^48: for P = 0 the next LEN groups are to be dropped; otherwise ACTIVE = 1, DEPTH = n, CAP = POS = E =
I0 = 0, NEND = NTOT = P, STOPREQ = 0, the loop buffer is empty, SP1 is 1 and SP2 to SP7 are 0, and the indices of the
n levels are 0. lbrk sets NEND to min(NEND, E + 1) in a nest, for good, and changes nothing outside one. lidx lands
the index k (at most 5) in sD after 1 beat. (R132, R133, R134, R135, R137, R138.) -/
def Obligations.LoopInstructionsSetUpAndStartTheNest : Prop :=
  ∀ (s : State) (h : OpHdr) (a d : BitVec 6) (lev len stg : BitVec 32) (k n : BitVec 3) (band : Band), OpRuns s h →
    (s.here.regs.loop.active = false →
      (lev.toNat ≤ 5 → (s.here.rS a).poison = false →
        exec (.lset h a lev) s = .next (s.modLoop (fun l => { l with
          bnd := l.bnd.setIfInBounds lev.toNat ((s.here.rS a).val.extractLsb' 0 32) }))) ∧
      (1 ≤ len.toNat → len.toNat ≤ 32 → exec (.lbody h len) s = .next (s.modLoop (fun l => { l with len := len.setWidth 6 }))) ∧
      (stg.toNat ≤ 7 → exec (.lstage h stg) s = .next (s.modLoop (fun l => { l with stg := stg.setWidth 3 }))) ∧
      (1 ≤ n.toNat → n.toNat ≤ 6 → s.here.regs.loop.len ≠ 0#6 →
        ∀ p, p = ((s.here.regs.loop.bnd.toList.take n.toNat).map (fun x => x.toNat)).prod → p < 2 ^ 48 →
        (p = 0 → exec (.lgo h n) s = .next (s.modLoop (fun l => { l with drop := l.len, ntot := 0#48 }))) ∧
        (p ≠ 0 → ∃ idx : Vector (BitVec 32) 6, (∀ j (hj : j < 6), j < n.toNat → idx[j] = 0#32) ∧
          (∀ j (hj : j < 6), n.toNat ≤ j → idx[j] = s.here.regs.loop.idx[j]) ∧
          exec (.lgo h n) s = .next (s.modLoop (fun l => { l with
            active := true, depth := n, cap := 0#6, pos := 0#5, e := 0#48, i0 := 0#48, nend := BitVec.ofNat 48 p,
            ntot := BitVec.ofNat 48 p, stopreq := false, buf := [], brk := false, sp := 1#7,
            idx := idx })))) ∧
      exec (.lbrk h) s = .next (s.modLoop (fun l => l))) ∧
    (s.here.regs.loop.active = true →
      exec (.lbrk h) s = .next (s.modLoop (fun l => { l with
        nend := BitVec.ofNat 48 (min l.nend.toNat ((l.e.toNat + 1) % 2 ^ 48)), brk := true }))) ∧
    (k.toNat ≤ 5 → bandOf [s.here.band] = some band →
      exec (.lidx h d k) s = .next (landRegs s 0#3 1
        [.s d ⟨(s.here.regs.loop.idx[k.toNat]?.getD 0#32).setWidth 64, band, false⟩]))

/-- A lane of a source as a number of its type. -/
def laneOf (t : ITy) (vs : List VReg) (k i : Nat) : Int := laneInt t.signed (srcBits vs k) t.vty.bytes i
/-- A lane of a source as bits. -/
def rawOf (t : ITy) (vs : List VReg) (k i : Nat) : Nat := lane (srcBits vs k) t.vty.bytes i
/-- The low bits of a lane. -/
def wrapTo (t : ITy) (x : Int) : Nat := (BitVec.ofInt (8 * t.vty.bytes) x).toNat
/-- The nearest number of the type (R153). -/
def satTo (t : ITy) (x : Int) : Int :=
  let n := 8 * t.vty.bytes
  if t.signed then max (-2 ^ (n - 1)) (min x (2 ^ (n - 1) - 1)) else max 0 (min x (2 ^ n - 1))

/-- For each integer vector op, in both pipes, for every type and every source (register or stream): when the op
executes, its sources can be read and their bands join, exec answers the next state with the streams popped and vD due
after 2 beats (3 for the multiplies and dot products): each active lane holds the wrapped, saturated, shifted or
selected result of R153 and R154, only the bytes of active lanes are written, and the granules where a source of an
active lane is poisoned are marked. (R53, R144, R146, R148, R149, R153, R154.) -/
def Obligations.VectorIntegerOpsLandTheirLanes : Prop :=
  ∀ (h : OpHdr) (vb : Bool) (t : ITy) (d : BitVec 6) (a b : VSrc) (c : BitVec 6) (y : BTy) (mixb : Bool),
    let w := t.vty.bytes
    let n := 8 * w
    LandsLanes (.vadd h vb t d a b) vb h 2 w d [a, b] (fun _ vs i => wrapTo t (laneOf t vs 0 i + laneOf t vs 1 i)) ∧
    LandsLanes (.vsub h vb t d a b) vb h 2 w d [a, b] (fun _ vs i => wrapTo t (laneOf t vs 0 i - laneOf t vs 1 i)) ∧
    LandsLanes (.vmul h vb t d a b) vb h 3 w d [a, b] (fun _ vs i => wrapTo t (laneOf t vs 0 i * laneOf t vs 1 i)) ∧
    LandsLanes (.vmac h vb t d a b c) vb h 3 w d [a, b, .v c]
      (fun _ vs i => wrapTo t (laneOf t vs 2 i + laneOf t vs 0 i * laneOf t vs 1 i)) ∧
    LandsLanes (.vadds h vb t d a b) vb h 2 w d [a, b] (fun _ vs i => wrapTo t (satTo t (laneOf t vs 0 i + laneOf t vs 1 i))) ∧
    LandsLanes (.vsubs h vb t d a b) vb h 2 w d [a, b] (fun _ vs i => wrapTo t (satTo t (laneOf t vs 0 i - laneOf t vs 1 i))) ∧
    LandsLanes (.vmin h vb t d a b) vb h 2 w d [a, b] (fun _ vs i => wrapTo t (min (laneOf t vs 0 i) (laneOf t vs 1 i))) ∧
    LandsLanes (.vmax h vb t d a b) vb h 2 w d [a, b] (fun _ vs i => wrapTo t (max (laneOf t vs 0 i) (laneOf t vs 1 i))) ∧
    LandsLanes (.vabs h vb t d a) vb h 2 w d [a] (fun _ vs i => wrapTo t ((laneOf t vs 0 i).natAbs : Int)) ∧
    LandsLanes (.vshl h vb t d a b) vb h 2 w d [a, b]
      (fun _ vs i => if rawOf t vs 1 i < n then rawOf t vs 0 i * 2 ^ rawOf t vs 1 i % 2 ^ n else 0) ∧
    LandsLanes (.vshr h vb t d a b) vb h 2 w d [a, b]
      (fun _ vs i => if rawOf t vs 1 i < n then rawOf t vs 0 i / 2 ^ rawOf t vs 1 i else 0) ∧
    LandsLanes (.vsra h vb t d a b) vb h 2 w d [a, b]
      (fun _ vs i => wrapTo t ((BitVec.ofNat n (rawOf t vs 0 i)).toInt / 2 ^ min n (rawOf t vs 1 i))) ∧
    LandsLanes (.vand h vb t d a b) vb h 2 w d [a, b] (fun _ vs i => rawOf t vs 0 i &&& rawOf t vs 1 i) ∧
    LandsLanes (.vor h vb t d a b) vb h 2 w d [a, b] (fun _ vs i => rawOf t vs 0 i ||| rawOf t vs 1 i) ∧
    LandsLanes (.vxor h vb t d a b) vb h 2 w d [a, b] (fun _ vs i => rawOf t vs 0 i ^^^ rawOf t vs 1 i) ∧
    LandsLanes (.vmulhr h vb t d a b) vb h 3 w d [a, b]
      (fun _ vs i => if t.signed
        then wrapTo t (satTo t ((laneOf t vs 0 i * laneOf t vs 1 i + 2 ^ (n - 2)) / 2 ^ (n - 1)))
        else wrapTo t ((laneOf t vs 0 i * laneOf t vs 1 i + 2 ^ (n - 1)) / 2 ^ n)) ∧
    LandsLanes (.vdot4 h vb y d a b c mixb) vb h 3 4 d [a, b, .v c]
      (fun _ vs j => (BitVec.ofInt 32 (laneInt true (srcBits vs 2) 4 j
        + ((List.range 4).map (fun k => laneInt (y == .i8) (srcBits vs 0) 1 (4 * j + k)
            * laneInt ((y == .i8) != mixb) (srcBits vs 1) 1 (4 * j + k))).sum)).toNat)

/-- A lane of a source as an exact value. -/
def valueOf (t : FTy) (vs : List VReg) (k i : Nat) : XV := t.fmt.value (lane (srcBits vs k) t.vty.bytes i)

/-- For each arithmetic floating-point vector op, in both pipes, for every type, rounding field and source: when the
op executes, its sources can be read and their bands join, exec answers the next state with the streams popped and vD
due after 4 beats (8 for the transcendentals), each active lane holding the exact sum, difference, product, fused
product and sum, minimum, maximum, absolute value, negation, reciprocal, reciprocal root, power or logarithm of the
sources' values rounded once in the op's mode. The accuracy of the last four is the model's reading (log 10). (R53,
R62, R66, R143, R144, R146, R148, R149, R150, R155.) -/
def Obligations.VectorFloatOpsLandTheirLanes : Prop :=
  ∀ (h : OpHdr) (vb : Bool) (t : FTy) (d : BitVec 6) (a b : VSrc) (c : BitVec 6) (r : Rms),
    let w := t.vty.bytes
    let rnd (s : State) (x : XV) : Nat := roundTo t.fmt (rmOf s.here r) x
    LandsLanes (.vfadd h vb t d a b r) vb h 4 w d [a, b]
      (fun s vs i => rnd s (sumXV (rmOf s.here r) [valueOf t vs 0 i, valueOf t vs 1 i])) ∧
    LandsLanes (.vfsub h vb t d a b r) vb h 4 w d [a, b]
      (fun s vs i => rnd s (sumXV (rmOf s.here r) [valueOf t vs 0 i, (valueOf t vs 1 i).negate])) ∧
    LandsLanes (.vfmul h vb t d a b r) vb h 4 w d [a, b] (fun s vs i => rnd s (mulXV (valueOf t vs 0 i) (valueOf t vs 1 i))) ∧
    LandsLanes (.vfma h vb t d a b c r) vb h 4 w d [a, b, .v c]
      (fun s vs i => rnd s (sumXV (rmOf s.here r) [valueOf t vs 2 i, mulXV (valueOf t vs 0 i) (valueOf t vs 1 i)])) ∧
    LandsLanes (.vfmin h vb t d a b) vb h 4 w d [a, b]
      (fun s vs i => roundTo t.fmt (rmOf s.here .fmt) (fpMin (valueOf t vs 0 i) (valueOf t vs 1 i))) ∧
    LandsLanes (.vfmax h vb t d a b) vb h 4 w d [a, b]
      (fun s vs i => roundTo t.fmt (rmOf s.here .fmt) (fpMax (valueOf t vs 0 i) (valueOf t vs 1 i))) ∧
    LandsLanes (.vfabs h vb t d a) vb h 4 w d [a] (fun s vs i => roundTo t.fmt (rmOf s.here .fmt) (valueOf t vs 0 i).abs) ∧
    LandsLanes (.vfneg h vb t d a) vb h 4 w d [a] (fun s vs i => roundTo t.fmt (rmOf s.here .fmt) (valueOf t vs 0 i).negate) ∧
    LandsLanes (.vrcp h vb t d a r) vb h 8 w d [a] (fun s vs i => rnd s (rcpXV (valueOf t vs 0 i))) ∧
    LandsLanes (.vrsqrt h vb t d a r) vb h 8 w d [a] (fun s vs i => rnd s (rsqrtXV (valueOf t vs 0 i))) ∧
    LandsLanes (.vexp2 h vb t d a r) vb h 8 w d [a] (fun s vs i => rnd s (exp2XV (valueOf t vs 0 i))) ∧
    LandsLanes (.vlog2 h vb t d a r) vb h 8 w d [a] (fun s vs i => rnd s (log2XV (valueOf t vs 0 i)))

/-- The mark of the granule of element i of a source. -/
def markOf (t : VTy) (vs : List VReg) (k i : Nat) : Bool := (vs.getD k zeroVReg).poison.getLsbD (t.bytes * i / 64)
/-- Element i of a source as bits. -/
def elOf (t : VTy) (vs : List VReg) (k i : Nat) : Nat := lane (srcBits vs k) t.bytes i

/-- For vperm (one or two tables), vbcast, vslide, vzip, vunzip and vmov with their fields in range: when the op
executes, its sources can be read and their bands join, exec answers the next state with the streams popped and vD due
after 3 beats, each active lane holding the source element that R163 names (0 for an index beyond the tables), and
poisoned when that element's granule is, or for vperm the index's. vsplat lands the low bits of sA in every active
lane. vins with its lane active lands the low bits of sA in lane k alone; with it inactive it writes nothing. (R53,
R144, R146, R148, R149, R163.) -/
def Obligations.VectorMovesLandTheirLanes : Prop :=
  ∀ (h : OpHdr) (vb : Bool) (t : VTy) (d : BitVec 6) (a b : VSrc) (c sa : BitVec 6) (k : BitVec 8) (f : Bool),
    let w := t.bytes
    let n := 256 / w
    let bands (vs : List VReg) : List Band := vs.map (·.band)
    LandsMoved (.vperm h vb t d a b 0#6 false) vb h 3 w d [a, b] bands
      (fun _ vs i => if elOf t vs 1 i < n then elOf t vs 0 (elOf t vs 1 i) else 0)
      (fun _ vs i => (decide (elOf t vs 1 i < n) && markOf t vs 0 (elOf t vs 1 i)) || markOf t vs 1 i) ∧
    (w ≠ 1 → LandsMoved (.vperm h vb t d a b c true) vb h 3 w d [a, b, .v c] bands
      (fun _ vs i => if elOf t vs 1 i < n then elOf t vs 0 (elOf t vs 1 i)
        else if elOf t vs 1 i < 2 * n then elOf t vs 2 (elOf t vs 1 i - n) else 0)
      (fun _ vs i => (decide (elOf t vs 1 i < n) && markOf t vs 0 (elOf t vs 1 i))
        || (decide (n ≤ elOf t vs 1 i ∧ elOf t vs 1 i < 2 * n) && markOf t vs 2 (elOf t vs 1 i - n)) || markOf t vs 1 i)) ∧
    (k.toNat < n → LandsMoved (.vbcast h vb t d a k) vb h 3 w d [a] bands
      (fun _ vs _ => elOf t vs 0 k.toNat) (fun _ vs _ => markOf t vs 0 k.toNat)) ∧
    (k.toNat < n → LandsMoved (.vslide h vb t d a b k) vb h 3 w d [a, b] bands
      (fun _ vs i => if i + k.toNat < n then elOf t vs 0 (i + k.toNat) else elOf t vs 1 (i + k.toNat - n))
      (fun _ vs i => if i + k.toNat < n then markOf t vs 0 (i + k.toNat) else markOf t vs 1 (i + k.toNat - n))) ∧
    LandsMoved (.vzip h vb t d a b f) vb h 3 w d [a, b] bands
      (fun _ vs i => elOf t vs (i % 2) (i / 2 + if f then n / 2 else 0))
      (fun _ vs i => markOf t vs (i % 2) (i / 2 + if f then n / 2 else 0)) ∧
    LandsMoved (.vunzip h vb t d a b f) vb h 3 w d [a, b] bands
      (fun _ vs i => if i < n / 2 then elOf t vs 0 (2 * i + f.toNat) else elOf t vs 1 (2 * (i - n / 2) + f.toNat))
      (fun _ vs i => if i < n / 2 then markOf t vs 0 (2 * i + f.toNat) else markOf t vs 1 (2 * (i - n / 2) + f.toNat)) ∧
    LandsMoved (.vmov h vb t d a) vb h 3 w d [a] bands (fun _ vs i => elOf t vs 0 i) (fun _ vs i => markOf t vs 0 i) ∧
    (∀ (s : State) (band : Band), LaneRuns s h →
      (bandOf (vecBands s h d [(s.here.rS sa).band]) = some band →
        ∃ bits : BitVec 2048, (∀ i, i < n → LaneActive s h w i → lane bits w i = (s.here.rS sa).val.toNat % 2 ^ (8 * w)) ∧
        exec (.vsplat h vb t d sa) s = .next (landRegs (s.popped []) (vslot vb) 3
          [.v d ⟨bits, band, if (s.here.rS sa).poison then lanesGranules w (activeLanes (s.here.rP h.g) w) else 0#4⟩
            (lanesMask w (activeLanes (s.here.rP h.g) w))])) ∧
      (k.toNat < n → bandOf ([(s.here.rS sa).band, (s.here.rV d).band]
          ++ if h.g = 0#4 then [] else [(s.here.rP h.g).band]) = some band →
        (LaneActive s h w k.toNat → ∃ bits : BitVec 2048, lane bits w k.toNat = (s.here.rS sa).val.toNat % 2 ^ (8 * w) ∧
          exec (.vins h vb t d sa k) s = .next (landRegs (s.popped []) (vslot vb) 3
            [.v d ⟨bits, band, if (s.here.rS sa).poison then lanesGranules w [k.toNat] else 0#4⟩ (lanesMask w [k.toNat])])) ∧
        (¬ LaneActive s h w k.toNat → exec (.vins h vb t d sa k) s = .next (s.popped []))))

/-- The condition COND of a compare on numbers, given whether an operand is a NaN and how they compare (R156). -/
def condOf (cond : BitVec 3) (un : Prop) (o : Ordering) : Prop :=
  (cond = 0#3 ∧ ¬ un ∧ o = .eq) ∨ (cond = 1#3 ∧ (un ∨ o ≠ .eq)) ∨ (cond = 2#3 ∧ ¬ un ∧ o = .lt) ∨
  (cond = 3#3 ∧ ¬ un ∧ o ≠ .gt) ∨ (cond = 4#3 ∧ ¬ un ∧ o = .gt) ∨ (cond = 5#3 ∧ ¬ un ∧ o ≠ .lt) ∨
  (cond = 6#3 ∧ un) ∨ (cond = 7#3 ∧ ¬ un)

/-- The active lanes of the segment of lane i, segments of 2^lseg lanes (R162). -/
def segOf (s : State) (h : OpHdr) (w : Nat) (lseg : BitVec 4) (i : Nat) : List Nat :=
  (List.range (256 / w)).filter (fun j => (s.here.rP h.g).bits.getLsbD (w * j) && j / 2 ^ lseg.toNat == i / 2 ^ lseg.toNat)

/-- A vector compare lands `holds` in every bit of an active lane of pD, and 0 elsewhere. -/
def LandsCompare (i : Instr) (vb : Bool) (h : OpHdr) (lat w : Nat) (d : BitVec 4) (a b : VSrc)
    (holds : List VReg → Nat → Prop) : Prop :=
  ∀ (s : State) (vs : List VReg) (band : Band), LaneRuns s h → d ≠ 0#4 → srcVals s.here [a, b] = .ok vs →
    bandOf (vs.map (·.band) ++ if h.g = 0#4 then [] else [(s.here.rP h.g).band, (s.here.rP d).band]) = some band →
    ∃ v : BitVec 256,
      (∀ k, k < 256 → (v.getLsbD k = true ↔ LaneActive s h w (k / w) ∧ holds vs (k / w))) ∧
      exec i s = .next (landRegs (s.popped [a, b]) (vslot vb) lat
        [.p d ⟨v, band, lanePoison w (activeLanes (s.here.rP h.g) w) vs != 0#4⟩])

/-- A reduction lands `f` of the active lanes of its segment in each active lane. -/
def LandsReduced (i : Instr) (vb : Bool) (h : OpHdr) (t : VTy) (d : BitVec 6) (a : VSrc) (lseg : BitVec 4)
    (f : State → BitVec 2048 → List Nat → Nat) : Prop :=
  2 ^ lseg.toNat ≤ 256 / t.bytes →
    LandsMoved i vb h 6 t.bytes d [a] (fun vs => vs.map (·.band))
      (fun s vs k => f s (srcBits vs 0) (segOf s h t.bytes lseg k))
      (fun s vs k => (segOf s h t.bytes lseg k).any (fun j => (vs.getD 0 zeroVReg).poison.getLsbD (t.bytes * j / 64)))

/-- When the op executes, its sources can be read and their bands join: vsel with an unpoisoned C lands in each active
lane the element of A or of B by C's bit of the lane; vcmp and vfcmp with D from 1 to 15 land a predicate whose bits
of an active lane all hold the condition (unordered for a NaN) and whose other bits are 0; vrsum, vrmax, vramax and
vrmin with LSEG in range land in each active lane the reduction of the active lanes of its segment; vext with its lane
active lands the element in sD, sign-extended for the signed integer types, and with the lane inactive writes nothing.
(R53, R146, R147, R148, R149, R153, R156, R162, R163.) -/
def Obligations.VectorSelectsComparesAndReductionsLand : Prop :=
  ∀ (h : OpHdr) (vb : Bool) (t : VTy) (it : ITy) (ft : FTy) (d sd : BitVec 6) (pd c : BitVec 4) (a b : VSrc) (cond : BitVec 3)
    (lseg : BitVec 4) (r : Rms) (k : BitVec 8),
    let w := t.bytes
    let num (bits : BitVec 2048) (j : Nat) : Int := laneInt t.signed bits w j
    let val (bits : BitVec 2048) (j : Nat) : XV := t.fmt.value (lane bits w j)
    (∀ (s : State) (vs : List VReg) (band : Band), LaneRuns s h → srcVals s.here [a, b] = .ok vs →
      (s.here.rP c).poison = false →
      bandOf (vs.map (·.band) ++ [(s.here.rP c).band]
        ++ if h.g = 0#4 then [] else [(s.here.rP h.g).band, (s.here.rV d).band]) = some band →
      ∃ (bits : BitVec 2048) (marks : BitVec 4),
        (∀ i, i < 256 / w → LaneActive s h w i →
          lane bits w i = lane (srcBits vs (if (s.here.rP c).bits.getLsbD (w * i) then 0 else 1)) w i) ∧
        exec (.vsel h vb t d a b c) s = .next (landRegs (s.popped [a, b]) (vslot vb) 2
          [.v d ⟨bits, band, marks⟩ (lanesMask w (activeLanes (s.here.rP h.g) w))])) ∧
    (cond.toNat ≤ 5 → LandsCompare (.vcmp h vb it pd a b cond) vb h 2 it.vty.bytes pd a b
      (fun vs i => condOf cond False (compare (laneInt it.signed (srcBits vs 0) it.vty.bytes i)
        (laneInt it.signed (srcBits vs 1) it.vty.bytes i)))) ∧
    LandsCompare (.vfcmp h vb ft pd a b cond) vb h 4 ft.vty.bytes pd a b
      (fun vs i =>
        let x := ft.fmt.value (lane (srcBits vs 0) ft.vty.bytes i)
        let y := ft.fmt.value (lane (srcBits vs 1) ft.vty.bytes i)
        condOf cond (x.isNan = true ∨ y.isNan = true) (cmpXV x y)) ∧
    ((r = .fmt ∨ t.isFp = true) → LandsReduced (.vrsum h vb t d a lseg r) vb h t d a lseg (fun s bits l =>
      if t.isFp then roundTo t.fmt (rmOf s.here r) (sumXV (rmOf s.here r) (l.map (val bits)))
      else (BitVec.ofInt (8 * w) ((l.map (num bits)).sum)).toNat)) ∧
    LandsReduced (.vrmax h vb t d a lseg) vb h t d a lseg (fun _ bits l =>
      if t.isFp then roundTo t.fmt .rne (foldXV fpMax (l.map (val bits)))
      else (BitVec.ofInt (8 * w) (foldInt max (l.map (num bits)))).toNat) ∧
    LandsReduced (.vramax h vb t d a lseg) vb h t d a lseg (fun _ bits l =>
      if t.isFp then roundTo t.fmt .rne (foldXV fpMax (l.map (fun j => (val bits j).abs)))
      else (BitVec.ofInt (8 * w) (foldInt max (l.map (fun j =>
        if t.signed then min ((num bits j).natAbs : Int) (2 ^ (8 * w - 1) - 1) else num bits j)))).toNat) ∧
    LandsReduced (.vrmin h vb t d a lseg) vb h t d a lseg (fun _ bits l =>
      if t.isFp then roundTo t.fmt .rne (foldXV fpMin (l.map (val bits)))
      else (BitVec.ofInt (8 * w) (foldInt min (l.map (num bits)))).toNat) ∧
    (∀ (s : State) (vs : List VReg) (band : Band), LaneRuns s h → k.toNat < 256 / w → srcVals s.here [a] = .ok vs →
      bandOf (vs.map (·.band) ++ if h.g = 0#4 then [] else [(s.here.rP h.g).band, (s.here.rS sd).band]) = some band →
      (LaneActive s h w k.toNat → exec (.vext h vb t sd a k) s = .next (landRegs (s.popped [a]) (vslot vb) 3
        [.s sd ⟨BitVec.ofInt 64 (num (srcBits vs 0) k.toNat), band,
          (vs.getD 0 zeroVReg).poison.getLsbD (w * k.toNat / 64)⟩])) ∧
      (¬ LaneActive s h w k.toNat → exec (.vext h vb t sd a k) s = .next (s.popped [a])))

/-- The scale byte of block b of 32 elements of a `vquant` (R159). -/
def scaleOf (s : State) (h : OpHdr) (t : FTy) (q : BitVec 4) (bits : BitVec 2048) (b : Nat) : Nat :=
  let w := t.vty.bytes
  scaleByte (amaxXV (((activeLanes (s.here.rP h.g) w).filter (fun i => i / 32 == b)).map
    (fun i => t.fmt.value (lane bits w i))) (.zero false)) (fmtEmax q)

/-- What a vector op lands: the register's bits, the bytes written, the granules marked, and the flags it raises. -/
structure Landed where
  bits : BitVec 2048
  mask : BitVec 256
  marks : BitVec 4
  nan : Bool
  ovf : Bool

/-- The op completes: `lat` beats later vD takes what `good` says, in the joined band. -/
def LandsElements (i : Instr) (vb : Bool) (h : OpHdr) (lat : Nat) (d : BitVec 6) (srcs : List VSrc)
    (good : State → List VReg → Landed → Prop) : Prop :=
  ∀ (s : State) (vs : List VReg) (band : Band), LaneRuns s h → srcVals s.here srcs = .ok vs →
    bandOf (vecBands s h d (vs.map (·.band))) = some band →
    ∃ l : Landed, good s vs l ∧ exec i s = .next (landRegs (s.popped srcs) (vslot vb) lat
      (.v d ⟨l.bits, band, l.marks⟩ l.mask :: flagWrites l.nan l.ovf))

/-- The flags of the conversions of the active elements. -/
def Landed.flagsOf (l : Landed) (cv : Nat → Cv) (act : List Nat) : Prop :=
  l.nan = act.any (fun i => (cv i).cvnan) ∧ l.ovf = act.any (fun i => (cv i).cvovf)

/-- Elements of `wd` bits of which `kept` keep their bits as read at issue: a byte with a written bit is written; a granule
is marked for an active element in it that is poisoned, and stays marked if it holds a kept bit. -/
def Landed.merges (l : Landed) (old : VReg) (wd : Nat) (act : List Nat) (kept : Nat → Prop) (bad : Nat → Bool) (extra : Nat → Prop) : Prop :=
  (∀ i j, kept i → j < wd → l.bits.getLsbD (wd * i + j) = old.bits.getLsbD (wd * i + j)) ∧
  (∀ k, k < 256 → (l.mask.getLsbD k = true ↔ ∃ j, 8 * k ≤ j ∧ j < 8 * k + 8 ∧ ¬ kept (j / wd))) ∧
  (∀ q, q < 4 → (l.marks.getLsbD q = true ↔
    (∃ i, i ∈ act ∧ bad i = true ∧ (wd * i / 512 = q ∨ (wd * i + wd - 1) / 512 = q)) ∨ extra q ∨
    (old.poison.getLsbD q = true ∧ ∃ j, 512 * q ≤ j ∧ j < 512 * q + 512 ∧ kept (j / wd))))

/-- Component k of element e of a source, for elements of n components. -/
def compsOf (t : FTy) (vs : List VReg) (j n e : Nat) : List XV :=
  (List.range n).map (fun k => t.fmt.value (lane (srcBits vs j) t.vty.bytes (n * e + k)))

/-- An algebra op: each component of an element whose first lane is active is the rounding of f (R164). -/
def LandsAlgebra (i : Instr) (vb : Bool) (h : OpHdr) (t : FTy) (d : BitVec 6) (srcs : List VSrc) (r : Rms)
    (f : BitVec 128 → Rm → List VReg → Nat → Nat → XV) : Prop :=
  LandsElements i vb h 5 d srcs (fun s vs l =>
    let tab := algTab s.here
    let n := algDim tab
    let w := t.vty.bytes
    let on (e : Nat) : Prop := e < 256 / w / n ∧ LaneActive s h (w * n) e
    (∀ e k, on e → k < n →
      lane l.bits w (n * e + k) = roundTo t.fmt (rmOf s.here r) (f tab (rmOf s.here r) vs e k) % 2 ^ (8 * w)) ∧
    (∀ k, k < 256 → (l.mask.getLsbD k = true ↔ on (k / (w * n)))) ∧
    (∀ q, q < 4 → (l.marks.getLsbD q = true ↔ ∃ e k v j, on e ∧ k < n ∧ w * (n * e + k) / 64 = q ∧ v ∈ vs ∧ j < n ∧
      v.poison.getLsbD (w * (n * e + j) / 64) = true)) ∧
    l.nan = false ∧ l.ovf = false)

/-- When the op executes with its fields in range, its sources can be read and the bands join, exec answers the next
state with the streams popped and vD due (3 beats; 5 for the algebra ops), bits, bytes written, granule marks and
flags as given. vcvt: each active element is the conversion of its source element, each inactive element keeps its
bits, the bits beyond the elements are 0. vquant: each active element is its value divided by its block's power of two
converted, with the scale bytes at the top. vdequant and vscale2: each active lane is its value times the power of two
of its scale, converted. vamul, vamac, vconj, vnorm: each component of an active element is that of the product, sum,
conjugate or norm under the active algebra (R164), rounded once; poison reaches every granule of the element. NaN and
OVF flags rise when a conversion of an active element raises them. (R53, R65, R80, R81, R146, R148, R149, R157, R158,
R159, R160, R161.) -/
def Obligations.VectorConversionsAndAlgebraOpsLand : Prop :=
  ∀ (h : OpHdr) (vb : Bool) (t : VTy) (ft : FTy) (d c : BitVec 6) (a b : VSrc) (sat nsrc narrow swap : Bool)
    (nfmt dtype q : BitVec 4) (r : Rms),
    let fs := (cvtFmts t nfmt nsrc narrow dtype).1
    let fd := (cvtFmts t nfmt nsrc narrow dtype).2
    let wide := max fs.width fd.width
    let w := ft.vty.bytes
    let n := 256 / w
    let fq := (Fmt.ofCode q).getD .e8m0
    (wfCvt narrow nsrc nfmt dtype = true →
      LandsElements (.vcvt h vb t d a sat nfmt nsrc narrow dtype r) vb h 3 d [a] (fun s vs l =>
        let va := vs.getD 0 zeroVReg
        let act := (List.range (2048 / wide)).filter (fun i => (s.here.rP h.g).bits.getLsbD (wide * i / 8))
        let cv (i : Nat) : Cv := convert fd (rmOf s.here r) sat (fs.value (elem va.bits fs.width i))
        (∀ i ∈ act, elem l.bits fd.width i = (cv i).bits % 2 ^ fd.width) ∧
        (∀ j, fd.width * (2048 / wide) ≤ j → l.bits.getLsbD j = false) ∧
        l.merges (s.here.rV d) fd.width act (fun i => i < 2048 / wide ∧ i ∉ act) (elemPoisoned va fs.width) (fun _ => False) ∧
        l.flagsOf cv act)) ∧
    (wfQfmt q = true →
      LandsElements (.vquant h vb ft d a sat q r) vb h 3 d [a] (fun s vs l =>
        let va := vs.getD 0 zeroVReg
        let act := activeLanes (s.here.rP h.g) w
        let cv (i : Nat) : Cv := convert fq (rmOf s.here r) sat ((ft.fmt.value (lane va.bits w i)).scale
          (127 - (scaleOf s h ft q va.bits (i / 32) : Int)))
        (∀ i ∈ act, elem l.bits fq.width i = (cv i).bits % 2 ^ fq.width) ∧
        (∀ x, x < n / 32 → lane l.bits 1 (256 - n / 32 + x) = scaleOf s h ft q va.bits x) ∧
        (∀ j, fq.width * n ≤ j → j < 8 * (256 - n / 32) → l.bits.getLsbD j = false) ∧
        l.merges (s.here.rV d) fq.width act (fun i => i < n ∧ i ∉ act) (elemPoisoned va (8 * w))
          (fun x => x = 3 ∧ ∃ i ∈ act, elemPoisoned va (8 * w) i = true) ∧
        l.flagsOf cv act) ∧
      LandsElements (.vdequant h vb ft d a q r) vb h 3 d [a] (fun s vs l =>
        let va := vs.getD 0 zeroVReg
        let act := activeLanes (s.here.rP h.g) w
        let e (i : Nat) : Nat := lane va.bits 1 (256 - n / 32 + i / 32)
        let cv (i : Nat) : Cv := convert ft.fmt (rmOf s.here r) false (if e i = 255 then .nan
          else (fq.value (elem va.bits fq.width i)).scale ((e i : Int) - 127))
        (∀ i ∈ act, lane l.bits w i = (cv i).bits % 2 ^ (8 * w)) ∧ l.mask = lanesMask w act ∧
        l.marks = lanesGranules w (act.filter (fun i =>
          elemPoisoned va fq.width i || va.poison.getLsbD ((256 - n / 32 + i / 32) / 64))) ∧
        l.flagsOf cv act)) ∧
    LandsElements (.vscale2 h vb ft d a b r) vb h 3 d [a, b] (fun s vs l =>
      let act := activeLanes (s.here.rP h.g) w
      let cv (i : Nat) : Cv := convert ft.fmt (rmOf s.here r) false
        ((ft.fmt.value (lane (srcBits vs 0) w i)).scale (laneInt true (srcBits vs 1) w i))
      (∀ i ∈ act, lane l.bits w i = (cv i).bits % 2 ^ (8 * w)) ∧ l.mask = lanesMask w act ∧ l.marks = lanePoison w act vs ∧
      l.flagsOf cv act) ∧
    LandsAlgebra (.vamul h vb ft d a b swap r) vb h ft d [a, b] r (fun tab rm vs e k =>
      sumTerms rm (algTerms tab k (compsOf ft vs (if swap then 1 else 0) (algDim tab) e)
        (compsOf ft vs (if swap then 0 else 1) (algDim tab) e))) ∧
    LandsAlgebra (.vamac h vb ft d a b c swap r) vb h ft d [a, b, .v c] r (fun tab rm vs e k =>
      sumTerms rm ((compsOf ft vs 2 (algDim tab) e).getD k .nan ::
        algTerms tab k (compsOf ft vs (if swap then 1 else 0) (algDim tab) e)
          (compsOf ft vs (if swap then 0 else 1) (algDim tab) e))) ∧
    LandsAlgebra (.vconj h vb ft d a) vb h ft d [a] .fmt (fun tab _ vs e k =>
      let x := (compsOf ft vs 0 (algDim tab) e).getD k .nan
      if algConj tab k then x.negate else x) ∧
    LandsAlgebra (.vnorm h vb ft d a r) vb h ft d [a] r (fun tab rm vs e k =>
      let x := compsOf ft vs 0 (algDim tab) e
      if k = 0 then sumTerms rm (algTerms tab 0 x (x.zipIdx.map (fun p => if algConj tab p.2 then p.1.negate else p.1)))
      else .zero false)

/-- When the op executes, its sources can be read and their bands join with the unit's, exec answers the next state
with the unit in the band joined with those of the guard and of A. sminit with ROW + N at most 63 makes slots ROW to
ROW + N one group of fresh rows, makes the other slots of a group that overlapped groups of one, and keeps every other
slot; smstep updates the row by the scores of the active lanes, marks it for a poisoned one, and lands their weights
in vD after 6 beats; smrsc lands K in sD, sign-extended, and clears it; smfin lands x * 2^K / L in each active lane (0
where L is +0) and leaves the unit's numbers as they are; smget lands M, L, E, K, the group and NEW with the group's
size in lanes 0 to 5. A poisoned group poisons every granule of the result. (R311, R313, R314, R315, R316, R317,
R318.) -/
def Obligations.SoftmaxOpsActOnTheUnit : Prop :=
  ∀ (s : State) (h : OpHdr) (n : BitVec 5) (row d : BitVec 6) (a : VSrc) (r : Rms) (vs : List VReg) (band rb : Band),
    let u := s.here.regs.softmax
    let g := (u.row row.toNat).grp
    let grd : List Band := if h.g = 0#4 then [] else [(s.here.rP h.g).band]
    let act := activeLanes (s.here.rP h.g) 4
    let marks (v : Softmax) : BitVec 4 := if v.groupPoison (v.row row.toNat).grp then 15#4 else 0#4
    (OpRuns s h → row.toNat + n.toNat ≤ 63 → bandOf (u.band :: grd) = some band →
      ∃ u' : Softmax, u'.band = band ∧
        (∀ i, i < 64 → row.toNat ≤ i → i ≤ row.toNat + n.toNat → u'.row i = ⟨0xFF800000#32, 0#32, row, 0#32, 0#16, true, false⟩) ∧
        (∀ i, i < 64 → ¬ (row.toNat ≤ i ∧ i ≤ row.toNat + n.toNat) →
          ((∃ j, row.toNat ≤ j ∧ j ≤ row.toNat + n.toNat ∧ (u.row j).grp = (u.row i).grp) →
            u'.row i = ⟨0xFF800000#32, 0#32, BitVec.ofNat 6 i, 0#32, 0#16, true, false⟩) ∧
          ((∀ j, row.toNat ≤ j → j ≤ row.toNat + n.toNat → (u.row j).grp ≠ (u.row i).grp) → u'.row i = u.row i)) ∧
        exec (.sminit h n row) s = .next (s.modSm (fun _ => u'))) ∧
    (LaneRuns s h → srcVals s.here [a] = .ok vs → bandOf (u.band :: vs.map (·.band) ++ grd) = some band →
      bandOf (vecBands s h d [band]) = some rb →
      let st := u.step (rmOf s.here r) row (act.map (fun i => fmtF32.value (lane (srcBits vs 0) 4 i)))
      let u' : Softmax := { st.1.stain row (lanePoison 4 act vs) with band := band }
      (∃ bits : BitVec 2048,
        (∀ k, k < act.length → lane bits 4 (act.getD k 0) = st.2.getD k 0 % 2 ^ 32) ∧
        exec (.smstep h d a row r) s = .next (landRegs ((s.popped [a]).modSm (fun _ => u')) 1#3 6
          [.v d ⟨bits, rb, marks u'⟩ (lanesMask 4 act)])) ∧
      ∃ bits : BitVec 2048,
        (∀ i ∈ act, lane bits 4 i =
          if (u.row row.toNat).l = 0#32 then 0
          else roundTo fmtF32 (rmOf s.here r) (divXV ((fmtF32.value (lane (srcBits vs 0) 4 i)).scale
            (u.row g.toNat).k.toInt) (fmtF32.value (u.row row.toNat).l.toNat)) % 2 ^ 32) ∧
        exec (.smfin h d a row r) s = .next (landRegs ((s.popped [a]).modSm (fun _ =>
          { u.stain row (lanePoison 4 act vs) with band := band })) 1#3 6
          [.v d ⟨bits, rb, marks (u.stain row (lanePoison 4 act vs))⟩ (lanesMask 4 act)])) ∧
    (OpRuns s h → bandOf (u.band :: grd) = some band →
      (bandOf (band :: if h.g = 0#4 then [] else [(s.here.rS d).band]) = some rb →
        exec (.smrsc h d row) s = .next (landRegs
          (s.modSm (fun _ => { u.setRow g.toNat { u.row g.toNat with k := 0#16 } with band := band })) 1#3 6
          [.s d ⟨(u.row g.toNat).k.signExtend 64, rb, u.groupPoison g⟩])) ∧
      (bandOf (vecBands s h d [band]) = some rb →
        ∃ bits : BitVec 2048,
          lane bits 4 0 = (u.row row.toNat).m.toNat ∧ lane bits 4 1 = (u.row row.toNat).l.toNat ∧
          lane bits 4 2 = (u.row g.toNat).e.toNat ∧ lane bits 4 3 = ((u.row g.toNat).k.signExtend 32).toNat ∧
          lane bits 4 4 = g.toNat ∧ lane bits 4 5 = (u.row g.toNat).new.toNat + 2 * ((u.members g).length - 1) ∧
          (∀ i, 6 ≤ i → i < 64 → lane bits 4 i = 0) ∧
          exec (.smget h d row) s = .next (landRegs (s.modSm (fun _ => { u with band := band })) 1#3 6
            [.v d ⟨bits, rb, marks u⟩ (BitVec.allOnes 256)])))

/-- An ld of 1, 2, 4 or 8 bytes of the window lands the little-endian number of its bytes, with the band of the line and
the poison of its granule. -/
def WindowWordLoads : Prop :=
  ∀ (s : State) (h : OpHdr) (d base : BitVec 6) (size : BitVec 3) (kind : Bool) (scope : BitVec 2) (off : BitVec 24) (band : Band),
    let r := s.here.rS base
    let ea := r.val + off.signExtend 64
    let n := 2 ^ size.toNat
    let o := ea.toNat - 0xFFFFFFFFFFE00000
    let line := spmLine s.here.spm (o / 256)
    OpRuns s h → size.toNat ≤ 3 → r.poison = false → ea.toNat % n = 0 → 0xFFFFFFFFFFE00000 ≤ ea.toNat →
    o + n ≤ s.here.spm.size → line.form = false → s.here.dbg = false → bandOf [line.band] = some band →
    ∃ req, exec (.ld h d base size kind scope off) s = .next (addPend s 4#3 6 (.spm req
      [.s d ⟨BitVec.ofNat 64 (((List.range n).map (fun i =>
          (line.bits.extractLsb' (8 * (o % 256 + i)) 8).toNat * 256 ^ i)).sum), band,
        line.poison.getLsbD (o % 256 / 64)⟩]))

/-- When the op executes with an unpoisoned address of the right alignment: ld, vld, qset and mload at A +
SignExt(OFF) land what they read of the window 6 beats later, or start a read of memory that lands 9 beats later; vldr
reads 256 bytes of the window at tile HEAD + t of its ring plus B when the ring is valid, t is below COUNT and FILL
and B is a multiple of 256 inside the tile; vldg and vlds read, for every active lane, at A + B[lane] x w or A + lane
x B, all in the window or all in memory, and write only the active lanes' bytes, joined with the bands of the guard
and the old destination when G is not 0. What a read of the window gives is what its lines hold, none of them in a
state that R216, R217 or R231 makes a fault. An aligned ld of 1, 2, 4 or 8 bytes in the scratchpad share, on a line
without the form bit and outside debug mode, lands 6 beats later the number whose base-256 digits are the bytes from
the offset on, lowest first, zero-extended, with the band of the line and poisoned when the line's 64-byte granule is.
(R3, R185, R213, R216, R228, R229, R231, R235, R236, R237, R246.) -/
def Obligations.LoadsReadTheirAddress : Prop :=
  WindowWordLoads ∧
  ∀ (s : State) (h : OpHdr) (d base : BitVec 6) (q : BitVec 3) (size : BitVec 3) (kind : Bool) (scope : BitVec 2) (off : BitVec 24)
    (a : BitVec 4) (b : BitVec 6) (tile : BitVec 8) (t : VTy),
    let r := s.here.rS base
    let ea := r.val + off.signExtend 64
    let ring := s.here.eng.mat.ring a
    let y := s.here.rS b
    let act := activeLanes (s.here.rP h.g) t.bytes
    let lanes (at_ : Nat → Word) : List Piece := act.map (fun i => ⟨t.bytes * i, at_ i, t.bytes⟩)
    let LaneLoads (i : Instr) (at_ : Nat → Word) : Prop :=
      act ≠ [] → (∀ k ∈ act, (at_ k).toNat % t.bytes = 0) →
        let bs : List Band := if h.g = 0#4 then [] else [(s.here.rP h.g).band, (s.here.rV d).band]
        let req : LoadReq := ⟨.v d (lanesMask t.bytes act) bs, lanes at_, false, 0#2, false, none⟩
        ((∀ k ∈ act, isSpm (at_ k) = true) → ∀ w, WindowReads s req w →
          exec i s = .next (addPend s 4#3 6 (.spm req w))) ∧
        ((∀ k ∈ act, isSpm (at_ k) = false) → exec i s = .next (addPend s 4#3 9 (.load req)))
    (OpRuns s h → r.poison = false →
      (size.toNat ≤ 3 → aligned ea (2 ^ size.toNat) = true →
        LoadsAt (.ld h d base size kind scope off) s 4#3 (.s d) ea (2 ^ size.toNat) kind scope) ∧
      (4 ≤ size.toNat → aligned ea (sizeBytes size) = true →
        LoadsAt (.vld h d base size kind scope off) s 4#3 (.v d (BitVec.allOnes 256) []) ea (sizeBytes size) kind scope) ∧
      (aligned ea 64 = true → LoadsAt (.qset h q base 6#3 kind scope off) s 4#3 (.stream q) ea 64 kind scope)) ∧
    (∀ x, EngineRuns s h base 0#6 0#6 x → x.a.poison = false → aligned (x.a.val + off.signExtend 64) 64 = true →
      LoadsAt (.mload h base 6#3 kind scope off) s 3#3 .mregs (x.a.val + off.signExtend 64) 64 kind scope) ∧
    (OpRuns s h → y.poison = false → ring.valid = true → tile.toNat < ring.count.toNat → tile.toNat < ring.fill.toNat →
      y.val.toNat < ring.tsz.toNat * 256 → y.val.toNat % 256 = 0 →
      let req : LoadReq := ⟨.v d (BitVec.allOnes 256) [], piecesOf (spmEa (ring.base.toNat
        + (ring.head.toNat + tile.toNat) % ring.count.toNat * ring.tsz.toNat * 256 + y.val.toNat)) 256, false, 0#2, false, none⟩
      ∀ w, WindowReads s req w → exec (.vldr h d a b tile) s = .next (addPend s 4#3 6 (.spm req w))) ∧
    (LaneRuns s h → r.poison = false →
      ((∀ k ∈ act, (s.here.rV b).poison.getLsbD (t.bytes * k / 64) = false) →
        LaneLoads (.vldg h t d base b) (fun k => r.val + BitVec.ofNat 64 (lane (s.here.rV b).bits t.bytes k * t.bytes))) ∧
      (y.poison = false → LaneLoads (.vlds h t d base b) (fun k => r.val + BitVec.ofNat 64 k * y.val)))

/-- When the op executes with an unpoisoned address of the right alignment: st, vst and vstm at A + SignExt(OFF) store
the low bytes of sD or vD, vstm only those its guard selects, in the window or through the gate (strong ones behind
the released gate); vstr stores vD in the window at tile TAIL + t of its ring plus B when the ring has room; vsts
stores every active lane of vD at A + lane x B, all in the window or all through the gate. With no active lane vsts
changes nothing. (R213, R216, R228, R229, R232, R233, R234, R236, R237, R238.) -/
def Obligations.StoresWriteTheirAddress : Prop :=
  ∀ (s : State) (h : OpHdr) (d base : BitVec 6) (size : BitVec 3) (kind : Bool) (scope : BitVec 2) (off : BitVec 24)
    (a : BitVec 4) (b : BitVec 6) (tile : BitVec 8) (t : VTy),
    let r := s.here.rS base
    let y := s.here.rS b
    let x := s.here.rS d
    let v := s.here.rV d
    let ea := r.val + off.signExtend 64
    let n := sizeBytes size
    let ring := s.here.eng.mat.ring a
    let o := ring.base.toNat + (ring.tail.toNat + tile.toNat) % ring.count.toNat * ring.tsz.toNat * 256 + y.val.toNat
    let act := activeLanes (s.here.rP h.g) t.bytes
    let at_ (k : Nat) : Word := r.val + BitVec.ofNat 64 k * y.val
    (OpRuns s h → r.poison = false → aligned ea n = true →
      (size.toNat ≤ 3 → StoresAt (.st h d base size kind scope off) s ea n x.band kind scope
        ((List.range n).map (fun i => (i, x.val.extractLsb' (8 * i) 8, x.poison)))) ∧
      (4 ≤ size.toNat → StoresAt (.vst h d base size kind scope off) s ea n v.band kind scope
        ((List.range n).map (fun i => (i, v.bits.extractLsb' (8 * i) 8, v.poison.getLsbD (i / 64)))))) ∧
    (LaneRuns s h → r.poison = false → aligned ea n = true → 4 ≤ size.toNat →
      StoresAt (.vstm h d base size kind scope off) s ea n v.band kind scope
        (((List.range n).filter (fun i => (s.here.rP h.g).bits.getLsbD i)).map
          (fun i => (i, v.bits.extractLsb' (8 * i) 8, v.poison.getLsbD (i / 64))))) ∧
    (OpRuns s h → y.poison = false → ring.valid = true → tile.toNat < ring.count.toNat →
      tile.toNat < ring.count.toNat - ring.fill.toNat → y.val.toNat < ring.tsz.toNat * 256 → y.val.toNat % 256 = 0 →
      o + 256 ≤ s.here.spm.size →
      let data : SpmBytes := (List.range 256).map (fun i => (o + i, v.bits.extractLsb' (8 * i) 8, v.poison.getLsbD (i / 64)))
      spmStoreFault s.here (spmEa o) v.band [o / 256] data = none →
      exec (.vstr h d a b tile) s = .next (s.modCtx s.cur (fun c => c.spmStore v.band data))) ∧
    (LaneRuns s h →
      (act = [] → exec (.vsts h t d base b) s = .next s) ∧
      (act ≠ [] → r.poison = false → y.poison = false → (∀ k ∈ act, (at_ k).toNat % t.bytes = 0) →
        ((∀ k ∈ act, isSpm (at_ k) = true ∧ spmOff (at_ k) + t.bytes ≤ s.here.spm.size) →
          let data : SpmBytes := act.flatMap (fun k => (List.range t.bytes).map (fun i => (spmOff (at_ k) + i,
            v.bits.extractLsb' (8 * (t.bytes * k + i)) 8, v.poison.getLsbD ((t.bytes * k + i) / 64))))
          spmStoreFault s.here (at_ (act.headD 0)) v.band (act.map (fun k => spmOff (at_ k) / 256)).eraseDups data = none →
          exec (.vsts h t d base b) s = .next (s.modCtx s.cur (fun c => c.spmStore v.band data))) ∧
        ((∀ k ∈ act, isSpm (at_ k) = false) → ∀ plan,
          planStore s s.cur .core 0#2 v.band
            (act.flatMap (fun k => (List.range t.bytes).map (fun i => (t.bytes * k + i,
              v.bits.extractLsb' (8 * (t.bytes * k + i)) 8, v.poison.getLsbD ((t.bytes * k + i) / 64)))))
            (act.map (fun k => ⟨t.bytes * k, at_ k, t.bytes⟩)) = .ok plan →
          s.here.stq.gate.length + (plan.entries s.here.nextSeq (at_ (act.headD 0)) v.band false 0#2).length ≤ 128 →
          exec (.vsts h t d base b) s = .next (s.modCtx s.cur (fun c => { c with
            stq := { c.stq with gate := c.stq.gate ++ plan.entries s.here.nextSeq (at_ (act.headD 0)) v.band false 0#2 },
            nextSeq := c.nextSeq + 1 })))))

/-- When the op executes with an unpoisoned, aligned address: vldc whose translated bytes all lie in the Cistern of
the core's own die, in no refreshing bank, lands what it reads 14 beats later; lsq with room in the scale queue, and
nothing before it that its read waits for, reserves at the queue's tail the pairs that it reads, each with the band
and poison of its own line; qclr lands the unbinding 1 beat later; pref of the window changes nothing, and elsewhere,
once no earlier maintenance meets its lines and their translation is known, brings them in, or does nothing but forget
a refused translation; where no page is guarded it changes no context and no byte of memory by bringing them in.
(R214, R220, R221, R227, R231, R235, R241, R244, R245, R246, R263.) -/
def Obligations.CisternScaleStreamAndPrefetchOpsAct : Prop :=
  ∀ (s : State) (h : OpHdr) (d base : BitVec 6) (q : BitVec 3) (size : BitVec 3) (kind : Bool) (scope : BitVec 2) (off : BitVec 24),
    let r := s.here.rS base
    let ea := r.val + off.signExtend 64
    let n := sizeBytes size
    let ps := piecesOf ea n
    let Reserves (s0 : State) (l : List ReadData) : Prop :=
      (∀ dat ∈ l, ∀ i, i < dat.bytes.length / 2 → (linePairs dat)[i]? = some
        ⟨false, (dat.bytes.getD (2 * i) (0, 0#8, false)).2.1, (dat.bytes.getD (2 * i + 1) (0, 0#8, false)).2.1, dat.bands.headD 0#8,
          (dat.bytes.getD (2 * i) (0, 0#8, false)).2.2 || (dat.bytes.getD (2 * i + 1) (0, 0#8, false)).2.2⟩) ∧
      exec (.lsq h base size kind scope off) s = .next (s0.modCtx s.cur (fun c => { c with eng := { c.eng with
          mat := { c.eng.mat with scale := c.eng.mat.scale ++ l.flatMap linePairs } } }))
    let pp := piecesOf (ea - BitVec.ofNat 64 (ea.toNat % n)) n
    OpRuns s h →
      (r.poison = false → 6 ≤ size.toNat → isSpm ea = false → aligned ea n = true →
        ∀ dat w, readMem s s.cur .core false 0#2 spCistern [] 0 ps = .ok dat →
        (∀ k ∈ pieceKeysOf s s.cur ps, spacePa k = .cistern (dieOf s.cur) ∧ k / 256 % 32 ≠ s.refresh.toNat / 2016) →
        loadWrites (.v d (BitVec.allOnes 256) []) dat = .ok w →
        exec (.vldc h d base size off) s = .next (landRegs s 4#3 14 w)) ∧
      (r.poison = false → size ≠ 0#3 → aligned ea n = true → s.here.eng.mat.scale.length + n / 2 ≤ 256 →
        ∀ l, readEach (lsqRead s kind scope) ps = .ok l →
        (isSpm ea = true → readsShadow s.here ps = false → Reserves s l) ∧
        (isSpm ea = false → mayRead s s.cur s.here.nextSeq kind ps = true → Reserves (lsqTouch s kind scope ps) l)) ∧
      exec (.qclr h q) s = .next (landRegs s 4#3 1 [.stream q none]) ∧
      (r.poison = false → 6 ≤ size.toNat → d.toNat ≤ 1 →
        (isSpm ea = true → exec (.pref h d base size off) s = .next s) ∧
        (isSpm ea = false → maintBlocks s.here s.here.nextSeq (lineKeys s s.cur pp) = false →
          (∀ dat, readMem s s.cur .core false 0#2 spLoad [] 0 pp = .ok dat →
            exec (.pref h d base size off) s = .next (touchPieces s s.cur .core pp) ∧
            ((∀ l ∈ unitLeaves s s.cur .core, l.guard = false) →
              (touchPieces s s.cur .core pp).ctxs = s.ctxs ∧ SameMemory s (touchPieces s s.cur .core pp))) ∧
          (∀ f, readMem s s.cur .core false 0#2 spLoad [] 0 pp = .fault f →
            exec (.pref h d base size off) s = .next (s.modCtx s.cur (fun c => c.clearDeny .core f.ea)))))

/-- When the op executes: an amo of a combination R239 admits, with an unpoisoned, aligned address outside the window,
releases the gate and lands at the earliest 9 beats later with its operands as read at issue; cflush, cinval and
cclean of an unpoisoned line address outside the window, in a scope of 1 to 3, whose page is in the translation cache
and permits them, release the gate and leave one maintenance request over the aligned block; radv of 1 to 256 tiles of
a valid ring with room notes the publication for 3 beats later. (R225, R227, R233, R239, R242, R243.) -/
def Obligations.AtomicsAndMaintenanceReleaseTheGate : Prop :=
  ∀ (s : State) (h : OpHdr) (d a b c : BitVec 6) (rel acq : Bool) (scope sz : BitVec 2) (fn : BitVec 4) (size : BitVec 3)
    (off : BitVec 24) (hnd : BitVec 4) (m : BitVec 9) (l : Leaf),
    let x := s.here.rS a
    let ea := x.val + off.signExtend 64
    let n := sizeBytes size
    let released (ctx : Ctx) : Ctx := { ctx with stq := { ctx.stq with gate := [], sb := ctx.stq.sb ++ ctx.stq.gate } }
    let Maintains (i : Instr) (op : BitVec 2) (write : Bool) : Prop :=
      leafFault l ea write 0#2 spStore = none → (write = true → bandStoreOk s.here.band l.band = true) →
      exec i s = .next (s.modCtx s.cur (fun ctx => { released ctx with
        stq := { (released ctx).stq with maint := ctx.stq.maint ++ [⟨ctx.nextSeq, op, scope, l.keyOf ea / n * n, n, l.cls,
          ea - BitVec.ofNat 64 (ea.toNat % n), false⟩] },
        nextSeq := ctx.nextSeq + 1 }))
    let ring := s.here.eng.mat.ring hnd
    OpRuns s h →
      (wfAmo fn sz (c == 0#6) = true → x.poison = false → isSpm x.val = false → x.val.toNat % 2 ^ sz.toNat = 0 →
        exec (.amo h d a b c rel acq scope sz fn) s = .next (addPend (s.modCtx s.cur released) 4#3 9
          (.amo ⟨d, x.val, s.here.rS b, s.here.rS c, rel, acq, scope, sz, fn, none⟩))) ∧
      (6 ≤ size.toNat → x.poison = false → isSpm ea = false → scope ≠ 0#2 → ea.toNat % 64 = 0 →
        translate s s.cur .core ea = .ok l →
        Maintains (.cflush h a size scope off) 0#2 false ∧ Maintains (.cinval h a size scope off) 1#2 true ∧
        Maintains (.cclean h a size scope off) 2#2 false) ∧
      (1 ≤ m.toNat → m.toNat ≤ 256 → ring.valid = true →
        ring.fill.toNat + pendingTiles s.here.eng.mat hnd + m.toNat ≤ ring.count.toNat →
        exec (.radv h hnd m) s = .next (s.modCtx s.cur (fun ctx => { ctx with eng := { ctx.eng with
          mat := { ctx.eng.mat with radv := ctx.eng.mat.radv ++ [(ctx.beat + 3, hnd, m)] } } })))

/-- When a queued matrix op runs, from its registers or from the commit buffer, outside a frozen context, with fewer
than 8 commands in the core's queue and none saved to be put back, and its checks of issue passed, exec answers a next
state in which the command is the last of the queue with the next number of tm, the copied parameters, FMT mode,
algebra table, SPM offset and the join of the bands that it copied (or the mark that they name two tenants), and
nothing else of the contexts, the cores or memory has changed. (R127, R180, R182, R183, R186, R187, R188, R264.) -/
def Obligations.MatrixCommandsEnterTheQueue : Prop :=
  ∀ (s : State) (h : OpHdr) (a base d : BitVec 6) (t : BitVec 2) (rsc dr zi swap : Bool) (rout : BitVec 6) (off : BitVec 24)
    (x : EngArgs),
    let m := s.here.eng.mat
    let p := x.params
    let dim := algDim (m.table (fmtAlg x.fmt))
    let cmd (kind : MKind) (o : Word) (bs : List Band) : MCmd :=
      ⟨s.cur, 0#64, kind, x.m, m.table (fmtAlg x.fmt), fmtAlg x.fmt, fmtRm x.fmt, o, (bandOf bs).getD 0#8, (bandOf bs).isNone,
        s.opProv, s.opWord 3#3⟩
    let Enters (i : Instr) (c : MCmd) : Prop := ∃ s', exec i s = .next s' ∧ EntersQueue s c s'
    (s.core (coreOf s.cur)).mq.length < 8 → m.saved = [] →
    (EngineRuns s h a 0#6 0#6 x → (rsc = false → a = 0#6) → mcallFieldsOk s p rsc dr zi = true →
      (rsc = true → x.a.poison = false) → (dr = true → drainAligned p = true) → mcallPlacesOk s s.cur p dim = true →
      Enters (.mcall h a rsc dr zi swap rout) (cmd (.call (BitVec.ofBool rsc ++ BitVec.ofBool dr ++ BitVec.ofBool zi
        ++ BitVec.ofBool swap) rout (x.a.val.setWidth 16)) 0#64 (paramBands x.m ++ if rsc then [x.a.band] else []))) ∧
    (EngineRuns s h a 0#6 0#6 x → x.a.poison = false →
      Enters (.malg h t a) (cmd (.alg t) x.a.val [x.a.band])) ∧
    (m.frozen = false →
      (EngineRuns s h 0#6 0#6 0#6 x → Enters (.mzero h) (cmd .zero 0#64 [s.here.band])) ∧
      (EngineRuns s h base 0#6 0#6 x → x.a.poison = false →
        Enters (.tload h d base 7#3 off) (cmd (.tload d) (x.a.val + off.signExtend 64) [x.a.band])) ∧
      (EngineRuns s h a 0#6 0#6 x → x.a.poison = false →
        Enters (.mfill h a) (cmd .fill x.a.val [x.a.band]) ∧
        Enters (.mdrainRaw h a) (cmd .drainRaw x.a.val (paramBands x.m))) ∧
      (EngineRuns s h 0#6 0#6 0#6 x → Enters (.mdrain h) (cmd .drain 0#64 (paramBands x.m))))

/-- When the op runs: mset lands an unpoisoned sA with its band in mD, and mget lands mA in sD, both 1 beat later;
while the context is frozen with a routine held, mset.rs puts an unpoisoned sA into state word k (k at most 17) with
the routine's band joined, and mget.rs lands that word; mfreeze freezes a context without a started command at once,
makes one with a started command wait for its freeze point, and does nothing while frozen; mthaw unfreezes, and a held
routine whose region's bands join goes on at the Trimmer run that word 15 names or at its next micro-word, before
which it pulls its latches again; mstat lands the status word and with CLR clears OVF, TOVF and TNAN. (R184, R189,
R190, R192, R210.) -/
def Obligations.MatrixRegisterOpsAct : Prop :=
  ∀ (s : State) (h : OpHdr) (d a : BitVec 6) (md : BitVec 3) (k : BitVec 5) (x : EngArgs) (r : MRun) (clr : Bool),
    let m := s.here.eng.mat
    (EngineRuns s h a 0#6 0#6 x → x.a.poison = false →
      exec (.mset h md a) s = .next (landRegs s 3#3 1 [.m md ⟨x.a.val, x.a.band⟩]) ∧
      (k.toNat ≤ 17 → m.frozen = true → m.run = some r →
        ∀ m' r', raiseBand m (r.setWord k.toNat x.a.val) [x.a.band] = some (m', r') →
        exec (.msetRs h a k) s = .next (s.modMat s.cur (fun _ => { m' with run := some r' })) ∧
          r'.w = r.w.setIfInBounds k.toNat x.a.val)) ∧
    (EngineRuns s h 0#6 0#6 0#6 x →
      exec (.mget h d md) s = .next (landRegs s 3#3 1 [.s d ⟨x.m[md.toNat].val, x.m[md.toNat].band, false⟩]) ∧
      (k.toNat ≤ 17 → m.frozen = true → m.run = some r →
        exec (.mgetRs h d k) s = .next (landRegs s 3#3 1 [.s d ⟨r.w[k.toNat]?.getD 0#64, r.band, false⟩])) ∧
      (m.frozen = true → exec (.mfreeze h) s = .next s) ∧
      (m.frozen = false → m.run = none → exec (.mfreeze h) s = .next (s.modMat s.cur (fun m => { m with frozen := true }))) ∧
      (m.frozen = false → m.run = some r → exec (.mfreeze h) s = .next (s.modCtx s.cur (fun c => { c with
        eng := { c.eng with mat := { c.eng.mat with frozen := true } }, frz := .mfreeze }))) ∧
      (let m0 : Mat := { m with frozen := false, rs := [] }
       let s0 := s.modMat s.cur (fun m => { m with frozen := false, rs := [] })
       ((m.run = none ∨ m.run = some r ∧ r.frozen = false) → exec (.mthaw h) s = .next s0) ∧
       (m.run = some r → r.frozen = true → ∀ m1 r1, raiseBand m0 r (regionBands m0 r.params r.dim) = some (m1, r1) →
         let goes : MRun := { r1 with frozen := false, repull := true, phase := r1.resumePhase }
         ((goes.phase = .finished ∨ r1.indr = false) →
           exec (.mthaw h) s = .next (s0.modMat s.cur (fun _ => { m1 with run := some { goes with trun := TRun.none } }))) ∧
         (∀ e, goes.phase ≠ .finished → r1.indr = true → progEntry s s.cur (pmPROG r.params) = some e →
           exec (.mthaw h) s = .next (s0.modMat s.cur (fun _ =>
             { m1 with run := some { goes with trun := TRun.fresh e r1.band } }))))) ∧
      exec (.mstat h d clr) s = .next (
        let s' := landRegs s 3#3 1 [.s d ⟨mstatWord s s.cur, s.here.band, false⟩]
        if clr then s'.modMat s.cur (fun m => { m with ovf := false, tovf := false, tnan := false }) else s'))

/-- When a micro-word runs, its sources are not reserved and its checks pass: a pull of A, B or M gives the unit the
pulled block and sends a group's blocks on (a lone core's latch then holds the tile and block named); sqpop takes the
scale queue's ready head pair; step accumulates patch (MI, NI); stepk does one block of its iteration, or ends when
the blocks are used up; zacc zeroes the patch's units, in the run's band; exec answers the next state at the next
word, or for an unfinished stepk at the same word with the next block. (R171, R194, R196, R197, R198, R200, R201.) -/
def Obligations.MicroWordsPullStepAndClear : Prop :=
  ∀ (s : State) (r : MRun) (x y ats bts : BitVec 3) (m' : Mat) (r' : MRun) (sends : List (FeId × McBlock)) (i j ta tb : Nat),
    let m := s.here.eng.mat
    let r0 := r.going
    let p := r.params
    MicroRuns s r → x ≠ 7#3 → y ≠ 7#3 → r0.idx x = some i → r0.idx y = some j →
    (∀ (w : Instr) (k : Nat), (w = .pulla x y ∧ k = 0) ∨ (w = .pullb x y ∧ k = 1) ∨ (w = .pullm x y ∧ k = 2) →
      pull s.here k i j m r0 = .ok m' r' sends → r'.mpc + 1 < 4096 →
      exec w s = .next ((deliver s sends).microDone m' r') ∧
      (pmGSZL p = 0 → i < 256 → j < 256 → sends = [] ∧ r'.latValid k = true ∧ r'.latTile k = i ∧ r'.latBlock k = j)) ∧
    (∀ (q : ScalePair) (rest : List ScalePair), m.scale = q :: rest → q.ready = true →
      raiseBand { m with scale := rest } r0 [q.band] = some (m', r') →
      exec .sqpop s = .next (s.microDone m' { ((r'.setField 10 23 1 1).setField 10 24 8 q.ea.toNat).setField 10 32 8 q.eb.toNat
        with pairPoison := q.poison })) ∧
    (i < pmMP p → j < pmNP p →
      (((blockScaled (pmFA p) || blockScaled (pmFB p)) = true → r.spv = true) → r.latValid 0 = true → r.latValid 1 = true →
        (pmSPN p ≠ 0 → r.latValid 2 = true) → (stepPatch m r0 i j).2.mpc + 1 < 4096 →
        exec (.step x y) s = .next (s.microDone (stepPatch m r0 i j).1 (stepPatch m r0 i j).2)) ∧
      (let u := patchRow p r.dim i j / 16
       let z := markUnits (zeroUnits m u (2 * r.dim) r.band) r0 u (2 * r.dim)
       exec (.zacc x y) s = .next (s.microDone z.1 z.2))) ∧
    (ats ≠ 7#3 → bts ≠ 7#3 → r0.idx ats = some ta → r0.idx bts = some tb →
      let b := if r.instk then r.stkb else 0
      let n := pmKTB p (r.c 0)
      let ended (q : MRun) : MRun := (q.setField 10 22 1 0).setField 10 42 8 0
      (n ≤ b → exec (.stepk x y ats bts) s = .next (s.microDone m (ended r0))) ∧
      (b < n → stepkBody s.here i j ta tb b m r0 = .ok m' r' sends →
        (b + 1 < n → exec (.stepk x y ats bts) s = .next ((deliver s sends).modMat s.cur
          (fun _ => { m' with run := some { (r'.setField 10 22 1 1).setField 10 42 8 (b + 1) with waited := 0 } }))) ∧
        (n = b + 1 → (ended r').mpc + 1 < 4096 →
          exec (.stepk x y ats bts) s = .next ((deliver s sends).microDone m' (ended r')))))

/-- When a micro-word runs and its checks pass: drain stands at the first Trimmer run of its patch; loop at its own
depth with a count n above 0 sets C to 0 and N to n one level deeper and goes on, and with n = 0 sets C and N to 0 and
goes on after the matching endl; endl with iterations left goes back to the loop's first word, else it leaves the
level; syncc of a lone core counts the ordinal; waitr of a ring that holds enough goes on; swap flips the swap bit;
ret at depth 0 pops each ring that an operand names by 1 + the highest offset pulled from it and, without DR, finishes
the routine, or with DR starts to drain the region. (R171, R182, R194, R197, R199, R200, R205, R206.) -/
def Obligations.MicroWordsLoopWaitAndReturn : Prop :=
  ∀ (s : State) (r : MRun) (x y lvl cs : BitVec 3) (imm : BitVec 16) (ring : BitVec 2) (tiles : BitVec 9) (i j n e : Nat),
    let m := s.here.eng.mat
    let r0 := r.going
    let p := r.params
    MicroRuns s r →
    (x ≠ 7#3 → y ≠ 7#3 → r0.idx x = some i → r0.idx y = some j → i < pmMP p → j < pmNP p →
      drainFault s s.cur p r.dim = none → progEntry s s.cur (pmPROG p) = some e →
      exec (.drain x y) s = .next (s.modMat s.cur (fun m => m.setActive
        { r0.setDrain i j 0 0 with trun := TRun.fresh e (r0.setDrain i j 0 0).band }))) ∧
    (lvl.toNat = r.depth → lvl.toNat < 4 → r0.count cs imm = some n →
      (n ≠ 0 → (((r0.setC lvl.toNat 0).setN lvl.toNat n).setField 10 18 3 (r.depth + 1)).mpc + 1 < 4096 →
        exec (.loop lvl cs imm) s = .next (s.microDone m (((r0.setC lvl.toNat 0).setN lvl.toNat n).setField 10 18 3 (r.depth + 1)))) ∧
      (n = 0 → ∀ pc, pc = afterEndl s s.cur (r0.mpc + 1) 0 (4096 - (r0.mpc + 1)) → pc < 4096 →
        exec (.loop lvl cs imm) s = .next (s.modMat s.cur (fun _ =>
          { m with run := some { ((r0.setC lvl.toNat 0).setN lvl.toNat 0).setMpc pc with waited := 0 } })))) ∧
    (r.depth ≠ 0 →
      (r.c (r.depth - 1) + 1 < r.n (r.depth - 1) → ∀ pc, pc = loopBody s s.cur 0 r.mpc → pc < 4096 →
        let q := { (r0.setC (r.depth - 1) (r.c (r.depth - 1) + 1)).setMpc pc with waited := 0 }
        exec .endl s = .next (s.modMat s.cur (fun _ => { m with run := some q }))) ∧
      (r.n (r.depth - 1) ≤ r.c (r.depth - 1) + 1 →
        ((r0.setC (r.depth - 1) (r.c (r.depth - 1) + 1)).setField 10 18 3 (r.depth - 1)).mpc + 1 < 4096 →
        exec .endl s = .next (s.microDone m ((r0.setC (r.depth - 1) (r.c (r.depth - 1) + 1)).setField 10 18 3 (r.depth - 1))))) ∧
    (pmGSZL p = 0 → (r0.setOrdinal (r.ordinal + 1)).mpc + 1 < 4096 →
      exec .syncc s = .next (s.microDone m (r0.setOrdinal (r.ordinal + 1)))) ∧
    (ring ≠ 3#2 → (m.ring (r.handle ring.toNat)).valid = true → tiles.toNat ≤ (m.ring (r.handle ring.toNat)).count.toNat →
      tiles.toNat ≤ (m.ring (r.handle ring.toNat)).fill.toNat → exec (.waitr ring tiles) s = .next (s.microDone m r0)) ∧
    ((r0.setField 10 21 1 (if r.swp then 0 else 1)).mpc + 1 < 4096 →
      exec .swap s = .next (s.microDone m (r0.setField 10 21 1 (if r.swp then 0 else 1)))) ∧
    (r.depth = 0 →
      let m' := r.handles.foldl (fun m h => popRing m h (r.popsOf h)) m
      let r' := ((r0.setPops 0 0).setPops 1 0).setPops 2 0
      (∀ flags rout k, r.cmd.kind = .call flags rout k →
        (flags.getLsbD 2 = false → exec .ret s = .next (s.modMat s.cur (fun _ => { m' with run := some { r' with phase := .finished } }))) ∧
        (flags.getLsbD 2 = true → drainFault (s.modMat s.cur (fun _ => m')) s.cur (r'.setField 15 45 1 1).params
            (r'.setField 15 45 1 1).dim = none → progEntry s s.cur (pmPROG (r'.setField 15 45 1 1).params) = some e →
          pmMP (r'.setField 15 45 1 1).params ≠ 0 → pmNP (r'.setField 15 45 1 1).params ≠ 0 →
          ∃ t, exec .ret s = .next t ∧ ∃ q, t.here.eng.mat.active = some q ∧ q.phase = .drainLoop ∧ q.trun.pc = BitVec.ofNat 9 e)))

/-- The run with register W replaced, lane by lane. -/
def StoresW (i : Instr) (s : State) (m : Mat) (r : MRun) (poison : Bool) (f : Nat → BitVec 32) : Prop :=
  ∃ w : Vector (BitVec 32) 64, (∀ k (hk : k < 64), w[k] = f k) ∧
    exec i s = .next (s.trimDone m r (fun t => { t with w := w, wPoison := poison }))

/-- The words of row k of the accumulator share. -/
def accLane (m : Mat) (row i : Nat) : BitVec 32 := accWord m (64 * row + i)

/-- When a Trimmer word runs and its checks pass, exec answers the next state at the next word of the run. tld, tbias,
tmul and tsat read accumulator rows, whose units' bands join the run's; tts, tact, trnd and tmulr replace W lane by
lane by the rounded value of R207; trmax and trsum set Q; tcvt and tqnt convert the lanes to O and set TNAN and TOVF,
tqnt with the scale byte of Q in S; tadd adds a residual row of the window; tst and tsts write W, O or S to the window
at the row and column of the run; tend goes to the next run, or ends the drain. (R72, R73, R206, R207, R208, R209,
R210.) -/
def Obligations.TrimmerWordsAct : Prop :=
  ∀ (s : State) (r : MRun) (src sat sq wide : Bool) (k kl kh : BitVec 6) (sh : BitVec 5) (fn fc : BitVec 4)
    (epse : BitVec 8) (shq : BitVec 6) (f : BitVec 2) (m1 m2 : Mat) (r1 r2 : MRun) (e : Nat),
    let m := s.here.eng.mat
    let t := r.trun
    let lane (i : Nat) : XV := val32 (t.w[i]?.getD 0#32)
    let rd (x : XV) : BitVec 32 := round32 r.rm x
    let sp := s.here.engineSpm
    let stepped : MRun := { r with trun := { t with steps := t.steps + 1 } }
    TrimRuns s r →
    (let row := if src then k.toNat else r.accRow
     (src = true ∨ k = 0#6) → row < 16 * m.units → raiseBand m stepped [unitBand m (row / 16)] = some (m1, r1) →
      StoresW (.trimTld src k) s m1 { r1 with trun := t } (accRowPoison m row) (fun i => accLane m row i)) ∧
    (k.toNat < 16 * m.units → raiseBand m stepped [unitBand m (k.toNat / 16)] = some (m1, r1) →
      StoresW (.tbias k) s m1 { r1 with trun := t } (t.wPoison || accRowPoison m k.toNat)
        (fun i => rd (sumXV r.rm [lane i, val32 (accLane m k.toNat i)])) ∧
      StoresW (.tmul k) s m1 { r1 with trun := t } (t.wPoison || accRowPoison m k.toNat)
        (fun i => rd (mulXV (lane i) (val32 (accLane m k.toNat i))))) ∧
    (kl.toNat < 16 * m.units → kh.toNat < 16 * m.units → raiseBand m stepped [unitBand m (kl.toNat / 16)] = some (m1, r1) →
      raiseBand m1 r1 [unitBand m1 (kh.toNat / 16)] = some (m2, r2) →
      ∃ w : Vector (BitVec 32) 64, (∀ i (hi : i < 64), w[i] = rd (clampXV (lane i) (val32 (accLane m kl.toNat i)) (val32 (accLane m kh.toNat i)))) ∧
        exec (.tsat kl kh) s = .next (s.trimDone m2 { r2 with trun := t } (fun t =>
          { t with w := w, wPoison := t.wPoison || accRowPoison m kl.toNat || accRowPoison m kh.toNat }))) ∧
    StoresW .tts s m r t.wPoison (fun i => round32 .rne (mulXV (lane i)
      (val32 (round32 .rne (mulXV (val32 (pmSA r.params)) (val32 (pmSB r.params))))))) ∧
    (fn.toNat ≤ 5 → (if fn = 1#4 then 1 ≤ sh.toNat ∧ sh.toNat ≤ 16 else sh = 0#5) →
      StoresW (.tact sh fn) s m r t.wPoison (fun i => rd (tactFn fn.toNat sh.toNat (lane i)))) ∧
    StoresW .trnd s m r t.wPoison (fun i => rd (integralXV r.rm (lane i))) ∧
    (f ≠ 3#2 → (f = 2#2 ∨ shq = 0#6 ∧ epse = 0#8) →
      StoresW (.tmulr epse shq f) s m r t.wPoison (fun i => rd (mulXV (lane i) (mulrFactor r epse.toNat shq.toNat f.toNat)))) ∧
    exec .trmax s = .next (s.trimDone m r (fun t => { t with q := rd (amaxXV ((List.range 64).map lane) (.zero false)) })) ∧
    exec (.trsum sq) s = .next (s.trimDone m r (fun t => { t with
      q := rd (sumXV r.rm ((List.range 64).map (fun i => if sq then mulXV (lane i) (lane i) else lane i))) })) ∧
    (∀ (i : Instr) (scale : Int) (sb : BitVec 8),
      (i = .tcvt sat fc ∧ scale = 0 ∧ sb = t.s ∧ 3 ≤ fc.toNat ∧ fc.toNat ≤ 12) ∨
      (i = .tqnt sat fc ∧ scale = 127 - (scaleByte (val32 t.q).abs (fmtEmax fc) : Int)
        ∧ sb = BitVec.ofNat 8 (scaleByte (val32 t.q).abs (fmtEmax fc)) ∧ wfQfmt fc = true) →
      let cv := (List.range 64).map (fun i => convert ((Fmt.ofCode fc).getD .e8m0) r.rm sat ((lane i).scale scale))
      exec i s = .next (s.trimDone { m with tnan := m.tnan || cv.any (·.cvnan), tovf := m.tovf || cv.any (·.cvovf) } r
        (fun t => { t with s := sb, o := some (fc, cv.map (·.bits)) }))) ∧
    (fc = 3#4 ∨ fc = 4#4 ∨ fc = 10#4 ∨ fc = 11#4 ∨ fc = 12#4 →
      let g := (Fmt.ofCode fc).getD .e8m0
      let n := g.width / 8
      let o := pmRES r.params + r.row * pmRPITCH r.params + r.col * n
      o + 64 * n ≤ sp.size → (∀ l ∈ spmRangeLines o (64 * n), (spmLine sp l).form = false) →
      raiseBand m stepped ((spmRangeLines o (64 * n)).map (fun l => (spmLine sp l).band)) = some (m1, r1) →
      StoresW (.tadd fc) s m1 { r1 with trun := t } (t.wPoison || spmRangePoison sp o (64 * n))
        (fun i => rd (sumXV r.rm [lane i, g.value (elemOf (spmNat sp o (64 * n)) g.width i)]))) ∧
    (∀ (i : Instr) (o : Nat) (bytes : List Byte),
      (i = .tst true ∧ o = pmDST r.params + r.row * pmPITCH r.params + r.col * 4 ∧
        bytes = t.w.toList.flatMap (fun x => natBytes x.toNat 4)) ∨
      (∃ c l, i = .tst false ∧ t.o = some (c, l) ∧ o = pmDST r.params + r.row * pmPITCH r.params + r.col * fmtBits c / 8 ∧
        bytes = natBytes (packLanes (fmtBits c) l) (8 * fmtBits c)) ∨
      (i = .tsts ∧ o = pmSCL r.params + r.row * pmNP r.params * r.dim + r.dni * r.dim + r.dj ∧ bytes = [t.s]) →
      let data : SpmBytes := bytes.zipIdx.map (fun x => (o + x.2, x.1, t.wPoison))
      o + bytes.length ≤ sp.size → engineTenantBad s.here.spm r.band data = false →
      exec i s = .next ((s.modCtx s.cur (fun c => { c with spm := c.spm.engineWrite r.band data })).trimDone m
        { r with outLines := (r.outLines ++ linesOf data).eraseDups } id)) ∧
    (∀ mi ni row j, nextRun stepped = some (mi, ni, row, j) → progEntry s s.cur (pmPROG r.params) = some e →
      exec .tend s = .next (s.modMat s.cur (fun _ => m.setActive
        { stepped.setDrain mi ni row j with trun := TRun.fresh e r.band }))) ∧
    (nextRun stepped = none → r.phase = .drainLoop →
      exec .tend s = .next (s.modMat s.cur (fun _ => m.setActive
        { (stepped.setField 15 32 1 0).setField 15 45 1 0 with trun := TRun.none, phase := .finished })))

/-- The entry joins the channel's queue under the channel's next number. -/
def EntersChannel (i : Instr) (s : State) (ch : Bool) (e : CopyEnt) : Prop :=
  ∃ (t : State) (n : Word), n = (s.here.timeline (chIdx ch)).count + 1#64 ∧ exec i s = .next t ∧
    (t.here.chan ch).queue = (s.here.chan ch).queue ++ [{ e with num := n }] ∧
    (t.here.timeline (chIdx ch)).count = n ∧ (t.here.timeline (chIdx ch)).done = (s.here.timeline (chIdx ch)).done ∧
    (t.here.chan (!ch)) = s.here.chan (!ch) ∧ (t.here.chan ch).st = (s.here.chan ch).st ∧
    t.here.regs = s.here.regs ∧ t.here.spm = s.here.spm ∧ (∀ fe, fe ≠ s.cur → t.ctx fe = s.ctx fe) ∧ SameMemory s t

/-- When a copy command runs on a channel that the context holds, from its registers or from the commit buffer, with
fewer than 64 commands queued and its checks of issue passed (unpoisoned operands, a chunk below 2^32 bytes or at most
256 tokens, the signal and basin it reports to named, its element alignment, its pages mapped), exec answers the next
state in which the channel's timeline has counted it and its queue ends with an entry that holds the number, the
options, and the addresses, chunk, staged counts, strides and report places, a ckv's with the address of its pages'
side as DIR names it. (R127, R264, R271, R272, R279, R281, R283, R284, R285.) -/
def Obligations.CopyCommandsEnterTheirChannel : Prop :=
  ∀ (s : State) (h : OpHdr) (a b c : BitVec 6) (sig chg dir ch : Bool) (addm lv : BitVec 3) (x : EngArgs) (pages : List Word),
    let q := s.here.chan ch
    let named (st : Staging) : Prop := (chg = true → st.rbasin ≠ 0#64) ∧ (sig = true → st.rsig ≠ 0#64)
    (ch = true → s.here.ident.chans = 2#8) → q.queue.length < 64 →
    (EngineRuns s h a b c x → x.a.poison = false → x.b.poison = false → x.c.poison = false → named q.st →
      (x.c.val.toNat < 2 ^ 32 → addm.toNat ≤ 3 →
        addAligned { q.st with sbase := x.a.val, dbase := x.b.val, chunk := x.c.val.setWidth 32 } addm 0 = true →
        EntersChannel (.cpy h a b c sig chg addm ch) s ch ⟨1#8, 0#64, addm, chg, sig, false, 0#3,
          { q.st with sbase := x.a.val, dbase := x.b.val, chunk := x.c.val.setWidth 32 }, [], 0#21, s.opProv, s.opWord 6#3, s.here.nextSeq⟩) ∧
      (x.a.val.extractLsb' 21 35 = 0#35 → x.c.val.toNat ≤ 256 →
        ckvPages s.here.eng (x.a.val.extractLsb' 56 8) dir (ckvBlocks (x.a.val.toNat % 2 ^ 21) x.c.val.toNat) = .ok pages →
        EntersChannel (.ckv h a b c dir sig chg ch) s ch ⟨8#8, 0#64, 0#3, chg, sig, dir, 0#3,
          { q.st with sbase := (if dir then x.b.val else x.a.val), dbase := (if dir then x.a.val else x.b.val), chunk := x.c.val.setWidth 32 },
          pages, x.a.val.extractLsb' 0 21, s.opProv, s.opWord 6#3, s.here.nextSeq⟩)) ∧
    (EngineRuns s h 0#6 0#6 0#6 x → named q.st → addm.toNat ≤ 3 → lv.toNat ≤ 6 → addAligned q.st addm lv.toNat = true →
      EntersChannel (.cgo h lv sig chg addm ch) s ch ⟨4#8, 0#64, addm, chg, sig, false, lv, q.st, [], 0#21, s.opProv, s.opWord 6#3, s.here.nextSeq⟩)

/-- When a channel op runs on a channel that the context holds: cnl with A below 2^32 sets count, source stride and
destination stride of its level; cnb with C from 1 to 2^24 sets the bases and the chunk; cred with an aligned aperture
basin address or 0 and an aligned signal address outside the window or 0 sets the report places; cmode notes the mode
for the next beat; cstat lands the status word 1 beat later; cdrain of a channel with no command outstanding lets its
context go on, knowing what the channel's completed commands read and wrote (R265), and otherwise freezes the context
until the last number committed has completed. Operands must not be poisoned. (R127, R265, R271, R274, R282, R283,
R286, R287.) -/
def Obligations.ChannelStateOpsAct : Prop :=
  ∀ (s : State) (h : OpHdr) (a b c d : BitVec 6) (len ch : Bool) (lvl : BitVec 3) (x : EngArgs),
    (ch = true → s.here.ident.chans = 2#8) →
    (EngineRuns s h a b c x → x.a.poison = false → x.b.poison = false → x.c.poison = false →
      (lvl.toNat ≤ 5 → x.a.val.toNat < 2 ^ 32 →
        exec (.cnl h a b c lvl ch) s = .next (s.modChan s.cur ch (fun q => { q with st := { q.st with
          cnt := q.st.cnt.setIfInBounds lvl.toNat (x.a.val.setWidth 32), sstr := q.st.sstr.setIfInBounds lvl.toNat x.b.val,
          dstr := q.st.dstr.setIfInBounds lvl.toNat x.c.val } }))) ∧
      (1 ≤ x.c.val.toNat → x.c.val.toNat ≤ 2 ^ 24 →
        exec (.cnb h a b c ch) s = .next (s.modChan s.cur ch (fun q => { q with st := { q.st with
          sbase := x.a.val, dbase := x.b.val, chunk := x.c.val.setWidth 32 } })))) ∧
    (EngineRuns s h a b 0#6 x → x.a.poison = false → x.b.poison = false →
      (x.a.val = 0#64 ∨ (isSpm x.a.val = true ∨ isPeer x.a.val = true) ∧ x.a.val.toNat % 32 = 0) →
      (x.b.val = 0#64 ∨ isSpm x.b.val = false ∧ x.b.val.toNat % 8 = 0) →
      exec (.cred h a b ch) s = .next (s.modChan s.cur ch (fun q => { q with st := { q.st with
        rbasin := x.a.val, rsig := x.b.val } }))) ∧
    (EngineRuns s h 0#6 0#6 0#6 x →
      exec (.cmode h len ch) s = .next (s.modChan s.cur ch (fun q => { q with modeNew := q.modeNew ++ [(s.here.beat + 1, len)] })) ∧
      exec (.cstat h d ch) s = .next (landRegs s 6#3 1 [.s d ⟨cstatWord s.here ch, s.here.band, false⟩]) ∧
      ((s.here.timeline (chIdx ch)).count.toNat ≤ (s.here.timeline (chIdx ch)).done.toNat →
        exec (.cdrain h ch) s = .next (s.takeSync s.cur (syncTimeline s.cur (chIdx ch)))) ∧
      ((s.here.timeline (chIdx ch)).done.toNat < (s.here.timeline (chIdx ch)).count.toNat →
        exec (.cdrain h ch) s = .next (s.modCtx s.cur (fun q => { q with frz := .cdrain ch (s.here.timeline (chIdx ch)).count }))))

/-- When the op executes on a timeline the context has, with unpoisoned operands and zero reserved fields: fence
(FTYPE 1 to 3) freezes its context after its group; tfence, twait of a number committed but not complete, bwait on an
aligned basin of a bound context of the task, sigwait and mwait on a signal whose place is good begin a wait that is
the newest pending landing; twait of 0 changes nothing, and of another number already complete lets its context go on,
knowing what the completed command read and wrote (R342); tget lands COUNT or DONE of the timeline 1 beat later.
(R261, R340, R341, R342, R343, R345, R346, R347, R348.) -/
def Obligations.FencesAndWaitsFreezeTheirContext : Prop :=
  ∀ (s : State) (h : OpHdr) (a b d : BitVec 6) (tl scope ftype : BitVec 2) (imm : BitVec 11) (i done : Bool) (tmo : BitVec 16)
    (l : Leaf) (key : Nat),
    let t := s.here.timeline tl
    let x := s.here.rS a
    let y := s.here.rS b
    let n : Word := if i then imm.setWidth 64 else y.val
    let waits (f : Frz) : State := (addPend s 7#3 0 (.wait f)).modCtx s.cur (fun c => { c with frz := f })
    OpRuns s h →
    (ftype ≠ 0#2 → exec (.fence h scope ftype) s = .next (s.modCtx s.cur (fun c => { c with frz := .fence ftype scope }))) ∧
    exec (.tfence h scope) s = .next (waits (.tfence scope s.cycle)) ∧
    ((tl = 1#2 → s.here.ident.chans = 2#8) →
      ((if i then b = 0#6 else imm = 0#11) → (i = true ∨ y.poison = false) → n.toNat ≤ t.count.toNat →
        (n = 0#64 → exec (.twait h tl b imm i scope) s = .next s) ∧
        (n ≠ 0#64 → n.toNat ≤ t.done.toNat →
          exec (.twait h tl b imm i scope) s = .next (s.takeSync s.cur (syncTimeline s.cur tl))) ∧
        (t.done.toNat < n.toNat → exec (.twait h tl b imm i scope) s = .next (waits (.twait tl n scope)))) ∧
      exec (.tget h d tl done) s = .next (landRegs s 7#3 1 [.s d ⟨if done then t.done else t.count, s.here.band, false⟩])) ∧
    (y.val.toNat < 2 ^ 32 → y.poison = false → x.poison = false → (isSpm x.val = true ∨ isPeer x.val = true) →
      x.val.toNat % 32 = 0 → peerOk s s.cur x.val 32 = true →
      ∃ s', s'.ctxs = s.ctxs ∧ s'.mem = s.mem ∧ s'.issue = s.issue ∧ s'.cur = s.cur ∧
        (apertureHome s.cur x.val, spmOff x.val) ∈ s'.basinLive ∧
        exec (.bwait h a b) s = .next ((addPend s' 7#3 0 (.wait (.bwait x.val (y.val.setWidth 32)))).modCtx s.cur
          (fun c => { c with frz := .bwait x.val (y.val.setWidth 32) }))) ∧
    (x.poison = false → sigPlace s s.cur x.val false = .ok l key →
      exec (.sigwait h d a) s = .next (waits (.sigwait x.val d)) ∧
      (y.poison = false → exec (.mwait h d a b tmo) s = .next (waits (.mwait x.val d y tmo s.cycle))))

/-- When the op executes in a group that commits, with unpoisoned operands: barv (its context's accesses performed)
and bexp of a signed 32-bit value send an arrival or an expectation to the basin at A, an aligned aperture address in
the window of a bound context of the task; sigdec by B from 1 to 2^48 - 1, its accesses performed at the widest scope
of the signal's class, its signal's place good and its word not poisoned, stores at that place the word with COUNT -
B, or with COUNT 0 and UNDER where COUNT is below B, with STATUS bit 6 set under FAIL, and every byte of memory
outside those eight reads as before. (R259, R335, R336, R339, R344, R346.) -/
def Obligations.BasinAndSignalOpsAct : Prop :=
  ∀ (s : State) (h : OpHdr) (a b : BitVec 6) (fail : Bool) (l : Leaf) (key : Nat),
    let x := s.here.rS a
    let y := s.here.rS b
    OpRuns s h → s.mayAct 0 = true → x.poison = false →
    (∀ (i : Instr) (up : BasinUp),
      (i = .barv h a ∧ up = .arrive ∧ accessesPerformed s.here 1#2 = true) ∨
      (i = .bexp h a b ∧ up = .expect (y.val.setWidth 32) ∧ y.poison = false ∧ y.val = (y.val.setWidth 32).signExtend 64) →
      (isSpm x.val = true ∨ isPeer x.val = true) → x.val.toNat % 32 = 0 → peerOk s s.cur x.val 32 = true →
      ∃ t, exec i s = .next t ∧ t.ctxs = s.ctxs ∧ SameMemory s t ∧
        t.basins = s.basins ++ [⟨apertureHome s.cur x.val, BitVec.ofNat 21 (spmOff x.val), up, s.cur, s.opProv, s.opWord 7#3, none⟩]) ∧
    (y.poison = false → 1 ≤ y.val.toNat → y.val.toNat < 2 ^ 48 → sigPlace s s.cur x.val true = .ok l key →
      (strongWord s s.cur key).2 = false → accessesPerformed s.here l.wide = true →
      ∃ (t : State) (w : Word), exec (.sigdec h a b fail) s = .next t ∧
        (let old := BitVec.ofNat 64 (memNat s.mem key 8)
         let cnt := old.toNat % 2 ^ 48
         w.toNat % 2 ^ 48 = cnt - y.val.toNat ∧
         (w.getLsbD 48 = (old.getLsbD 48 || decide (cnt < y.val.toNat))) ∧
         w.extractLsb' 49 7 = old.extractLsb' 49 7 ∧
         w.extractLsb' 56 8 = old.extractLsb' 56 8 ||| (if fail then 0x40#8 else 0#8)) ∧
        (∀ i, i < 8 → memRead t.mem (key + i) = w.extractLsb' (8 * i) 8) ∧
        (∀ k, ¬ (key ≤ k ∧ k < key + 8) → memRead t.mem k = memRead s.mem k) ∧ t.ctxs = s.ctxs)

/-- When the op executes: launch of an unpoisoned, aligned, readable and legal command, with its context's accesses
performed and room in the launch queue, queues the command for the dispatcher, freezes the context and leaves a
landing for sD; exit discards the Runnel, halts the Milliner and starts the wait for its results; trap asks for an A60
with its code; fmt lands its fields 4 beats later and bandup a level from the context's own up to 3 after 1 beat;
rdtime lands TIME after 1 beat; yield has no effect unless the dispatcher would pre-empt its task, and then marks the
task as being pre-empted and requests a stop of each of its running contexts. (R349, R350, R351, R361, R371, R372,
R374.) -/
def Obligations.TaskAndModeOpsAct : Prop :=
  ∀ (s : State) (h : OpHdr) (a d : BitVec 6) (fail covf cnan walg wrm : Bool) (alg rm : BitVec 2) (code : BitVec 16)
    (dat : ReadData) (keyed : BitVec 512) (k : Nat),
    let x := s.here.rS a
    OpRuns s h →
    (x.poison = false → x.val.toNat % 64 = 0 → accessesPerformed s.here 2#2 = true → s.mayAct 1 = true →
      readCommand s x.val = .ok dat → readAnyPoison dat = false → launchSignals s (readDesc dat.bytes) 5 = (.ok k, keyed) →
      cmdType (readDesc dat.bytes) = 1#8 → cmdReservedOk (readDesc dat.bytes) = true → s.disp.launchq.length < 256 →
      ∃ t, exec (.launch h d a) s = .next t ∧ t.disp.launchq = s.disp.launchq ++ [launchCmd s keyed] ∧
        t.here.frz = .launch d ∧ t.here.regs = s.here.regs ∧ SameMemory s t) ∧
    exec (.exit h fail) s = .next (s.modCtx s.cur (fun c => { c with
      idle := .exitOp fail, exiting := some fail, gen := { c.gen with runnel := [], stat := .halted } })) ∧
    exec (.trap h code) s = .next (s.modCtx s.cur (fun c => { c with stops := { c.stops with a60 := some code } })) ∧
    exec (.fmt h covf cnan walg wrm alg rm) s = .next (landRegs s 7#3 4
      [.fmt (if wrm then some rm else none) (if walg then some alg else none) cnan covf]) ∧
    (x.poison = false → x.val.toNat ≤ 3 → bandLevel s.here.band ≤ x.val.toNat →
      exec (.bandup h a) s = .next (landRegs s 7#3 1 [.band (mkBand (bandTenant s.here.band) x.val.toNat)])) ∧
    exec (.rdtime h d) s = .next (landRegs s 7#3 1 [.s d ⟨s.time, s.here.band, false⟩]) ∧
    (s.task s.here.ident.task = none → exec (.yield h) s = .next s) ∧
    ∀ y, s.task s.here.ident.task = some y → (yieldMeets s y = false → exec (.yield h) s = .next s) ∧
      (s.mayAct 0 = true → yieldMeets s y = true → ∃ t, exec (.yield h) s = .next t ∧
        t.disp = { s.disp with tasks := s.disp.tasks.map (fun k => if k.id = y.id then { k with preempt := true } else k) } ∧
        (∀ fe, fe ∈ y.live → (s.ctx fe).life = .running →
          t.ctx fe = { s.ctx fe with stops := { (s.ctx fe).stops with a61 := true } }) ∧
        (∀ fe, ¬ (fe ∈ y.live ∧ (s.ctx fe).life = .running) → t.ctx fe = s.ctx fe) ∧ SameMemory s t)

/-- When the op executes: wld of an unpoisoned, aligned image whose read waits for nothing and whose entries are legal
into an unlocked segment of the share, with a tag without reserved bits, gives the segment the image's entries, the
tag's slot and block, VALID and the joined band; wlock and wunlk set and clear LOCK of a segment of the share; wx of
an unpoisoned position that a valid entry maps lands, 3 beats later, the row address, the scale address or the entry
itself by MODE 0 to 2, in the joined band, poisoned if the entry is. (R303, R304, R306, R307, R308, R309.) -/
def Obligations.WeirOpsAct : Prop :=
  ∀ (s : State) (h : OpHdr) (a b d : BitVec 6) (seg : BitVec 4) (mode : BitVec 2) (dat : ReadData) (band : Band)
    (e : Word) (pz : Bool) (eb : Band),
    let x := s.here.rS a
    let t := s.here.rS b
    let p := x.val.toNat % 2 ^ 21
    let page : Word := (e.extractLsb' 12 48 ++ 0#12 : BitVec 60).signExtend 64
    let loads (s0 : State) : Prop :=
      ∃ t' : State, exec (.wld h a b seg) s = .next t' ∧
        let g := t'.here.eng.seg seg.toNat
        (∀ i, i < 256 → g.entry i = BitVec.ofNat 64 (bytesNat (((dat.bytes.drop (8 * i)).take 8).map (·.2.1)))) ∧
        (∀ i, i < 256 → g.entryPoison i = ((dat.bytes.drop (8 * i)).take 8).any (·.2.2)) ∧
        g.slot = t.val.extractLsb' 16 8 ∧ g.blkh = t.val.extractLsb' 8 8 ∧ g.valid = true ∧ g.locked = false ∧ g.band = band ∧
        (∀ i, i ≠ seg.toNat → t'.here.eng.seg i = s.here.eng.seg i) ∧ t'.here.regs = s0.here.regs ∧ SameMemory s0 t'
    OpRuns s h →
    (x.poison = false → t.poison = false → t.val.extractLsb' 24 40 = 0#40 → t.val.extractLsb' 0 8 = 0#8 → x.val.toNat % 64 = 0 →
      seg.toNat < s.here.eng.weirSegs → seg.toNat < 16 → (s.here.eng.seg seg.toNat).locked = false →
      bandOf dat.bands = some band → (∀ i ∈ imageEntries dat, weirIllegal i.2.1 = false) →
      let ps := cutPieces 0 x.val 2048 33
      (isSpm x.val = true → readsShadow s.here ps = false → readSpm s.here.spm ps = .ok dat → loads s) ∧
      (isSpm x.val = false → mayRead s s.cur s.here.nextSeq false ps = true →
        readMem s s.cur .core false 0#2 spLoad s.here.ownStores s.here.nextSeq ps = .ok dat → loads (lsqTouch s false 0#2 ps))) ∧
    (seg.toNat < s.here.eng.weirSegs →
      exec (.wlock h seg) s = .next (s.modWeir seg.toNat (fun g => { g with locked := true })) ∧
      exec (.wunlk h seg) s = .next (s.modWeir seg.toNat (fun g => { g with locked := false }))) ∧
    (mode ≠ 3#2 → x.val.extractLsb' 21 35 = 0#35 → x.poison = false →
      weirLookup s.here.eng (x.val.extractLsb' 56 8) p = some (e, pz, eb) → bandOf [x.band, eb] = some band →
      exec (.wx h d a mode) s = .next (landRegs s 7#3 3 [.s d ⟨
        if mode = 0#2 then page + BitVec.ofNat 64 (p % 32 * 128)
        else if mode = 1#2 then page - BitVec.ofNat 64 (page.toNat % 2 ^ 18) + 0x3E000#64 + BitVec.ofNat 64 (64 * (page.toNat / 4096 % 64))
        else e, band, pz⟩]))

/-- When seal or open runs, from its registers or from the commit buffer, and the checks of R377 pass, exec answers
the next state in which tx has counted the command and the context's cipher queue ends with it, holding its ranges,
its length and its key slot; a seal holds the counter, which is then one higher, and an open leaves the counter as it
was. Registers, the scratchpad and memory are unchanged. (R127, R264, R376, R377, R381.) -/
def Obligations.SealAndOpenEnterTheCipherQueue : Prop :=
  ∀ (s : State) (h : OpHdr) (a b c : BitVec 6) (k : BitVec 2) (x : EngArgs) (i : Instr) (isSeal : Bool),
    let n := x.c.val.toNat
    let lines (m : Nat) : Nat := 256 * ((m + 255) / 256)
    (i = .seal_ h a b c k ∧ isSeal = true ∧ cipherFault s.here true x n (lines (48 + n)) k = none) ∨
    (i = .open_ h a b c k ∧ isSeal = false ∧ cipherFault s.here false x (lines (48 + n)) (lines n) k = none) →
    EngineRuns s h a b c x →
    ∃ (t : State) (num : Word), num = (s.here.timeline 3#2).count + 1#64 ∧ exec i s = .next t ∧
      (t.here.timeline 3#2).count = num ∧
      t.here.eng.cipher = s.here.eng.cipher ++ [⟨num, isSeal, BitVec.ofNat 21 (spmOff x.a.val), BitVec.ofNat 21 (spmOff x.b.val),
        x.c.val.setWidth 17, k, if isSeal then s.here.sealcnt else 0#64, s.opProv, s.opWord 7#3, s.cycle⟩] ∧
      t.here.sealcnt = (if isSeal then s.here.sealcnt + 1#64 else s.here.sealcnt) ∧
      t.here.regs = s.here.regs ∧ t.here.spm = s.here.spm ∧ SameMemory s t

/-- `i` writes gd and goes on at the next word: the value `v`, the join of the bands `bs`, the poison `pz`. -/
def GenWrites (i : Instr) (d : BitVec 5) (bs : Ctx → List Band) (pz : Ctx → Bool) (v : Ctx → Word) : Prop :=
  ∀ (s : State) (band : Band), bandOf (bs s.here) = some band →
    exec i s = .next (s.modGen (fun g => { g with
      g := if d = 0#5 then g.g else vset g.g d ⟨v s.here, band, pz s.here⟩, gpc := g.gpc + 1#16 }))

/-- gd := f(ga, gb). -/
def GenRR (i : Instr) (d a b : BitVec 5) (f : Word → Word → Word) : Prop :=
  GenWrites i d (fun c => [(c.rG a).band, (c.rG b).band]) (fun c => (c.rG a).poison || (c.rG b).poison)
    (fun c => f (c.rG a).val (c.rG b).val)

/-- gd := f(ga) with an immediate. -/
def GenRI (i : Instr) (d a : BitVec 5) (f : Word → Word) : Prop :=
  GenWrites i d (fun c => [(c.rG a).band, c.band]) (fun c => (c.rG a).poison) (fun c => f (c.rG a).val)

/-- When the bands of the sources join, exec of each register-register and each immediate instruction of the Milliner
answers the next state in which gd holds the result of R88 or R89, in the joined band (an immediate takes the
context's), poisoned if a source is, GPC stands at the next word, and nothing else has changed; a write to g0 is
discarded. (R84, R86, R88, R89, R92, R95.) -/
def Obligations.GeneratorArithmeticWritesItsRegister : Prop :=
  ∀ (d a b : BitVec 5) (n : BitVec 6) (imm : BitVec 16),
    GenRR (.gadd d a b) d a b (fun x y => BitVec.ofNat 64 (x.toNat + y.toNat)) ∧
    GenRR (.gsub d a b) d a b (fun x y => BitVec.ofInt 64 (x.toNat - y.toNat)) ∧
    GenRR (.gand d a b) d a b (fun x y => x &&& y) ∧
    GenRR (.gor d a b) d a b (fun x y => x ||| y) ∧
    GenRR (.gxor d a b) d a b (fun x y => x ^^^ y) ∧
    GenRR (.gshl d a b) d a b (fun x y => BitVec.ofNat 64 (x.toNat * 2 ^ (y.toNat % 64))) ∧
    GenRR (.gshr d a b) d a b (fun x y => BitVec.ofNat 64 (x.toNat / 2 ^ (y.toNat % 64))) ∧
    GenRR (.gsra d a b) d a b (fun x y => BitVec.ofInt 64 (x.toInt / 2 ^ (y.toNat % 64))) ∧
    GenRR (.gmul d a b) d a b (fun x y => BitVec.ofNat 64 (x.toNat * y.toNat)) ∧
    GenRR (.gslt d a b) d a b (fun x y => if x.toInt < y.toInt then 1#64 else 0#64) ∧
    GenRR (.gsltu d a b) d a b (fun x y => if x.toNat < y.toNat then 1#64 else 0#64) ∧
    GenRI (.gaddi d a imm) d a (fun x => BitVec.ofInt 64 (x.toInt + imm.toInt)) ∧
    GenRI (.gandi d a imm) d a (fun x => x &&& imm.setWidth 64) ∧
    GenRI (.gori d a imm) d a (fun x => x ||| imm.setWidth 64) ∧
    GenRI (.gshli d a n) d a (fun x => BitVec.ofNat 64 (x.toNat * 2 ^ n.toNat)) ∧
    GenRI (.gshri d a n) d a (fun x => BitVec.ofNat 64 (x.toNat / 2 ^ n.toNat)) ∧
    GenRI (.glih d a imm) d a (fun x => BitVec.ofNat 64 (x.toNat * 2 ^ 16 + imm.toNat)) ∧
    GenWrites (.gli d imm) d (fun c => [c.band]) (fun _ => false) (fun _ => BitVec.ofInt 64 imm.toInt)

/-- `i` branches by `o` words when the condition holds of its unpoisoned operands, else goes on. -/
def GenBranches (i : Instr) (a b : BitVec 5) (o : BitVec 16) (f : Word → Word → Prop) : Prop :=
  ∀ (s : State), (s.here.rG a).poison = false → (s.here.rG b).poison = false →
    (f (s.here.rG a).val (s.here.rG b).val →
      exec i s = .next (s.modGen (fun g => { g with gpc := BitVec.ofInt 16 (g.gpc.toNat + o.toInt) }))) ∧
    (¬ f (s.here.rG a).val (s.here.rG b).val →
      exec i s = .next (s.modGen (fun g => { g with gpc := g.gpc + 1#16 })))

/-- Exec of a branch of the Milliner whose operands are not poisoned answers the next state with GPC + SignExt(off16)
if its condition (=, ≠, signed <, signed ≥, unsigned <, unsigned ≥) holds, else GPC + 1; of gj the state with GPC +
SignExt(off21); of gjal and gjr also the index of the next word in gd (discarded for g0), gjr going to ga[15:0] as it
was before. Indexes wrap modulo 2^16, and nothing else changes. (R90, R92.) -/
def Obligations.GeneratorBranchesAndJumpsSetGpc : Prop :=
  ∀ (d a b : BitVec 5) (o : BitVec 16) (o21 : BitVec 21),
    GenBranches (.gbeq a b o) a b o (fun x y => x = y) ∧
    GenBranches (.gbne a b o) a b o (fun x y => x ≠ y) ∧
    GenBranches (.gblt a b o) a b o (fun x y => x.toInt < y.toInt) ∧
    GenBranches (.gbge a b o) a b o (fun x y => y.toInt ≤ x.toInt) ∧
    GenBranches (.gbltu a b o) a b o (fun x y => x.toNat < y.toNat) ∧
    GenBranches (.gbgeu a b o) a b o (fun x y => y.toNat ≤ x.toNat) ∧
    ∀ s : State,
      let dest (g : Gen) : BitVec 16 := BitVec.ofInt 16 (g.gpc.toNat + o21.toInt)
      let link (g : Gen) : Vector SReg 32 :=
        if d = 0#5 then g.g else vset g.g d ⟨(g.gpc + 1#16).setWidth 64, s.here.band, false⟩
      exec (.gj o21) s = .next (s.modGen (fun g => { g with gpc := dest g })) ∧
      exec (.gjal d o21) s = .next (s.modGen (fun g => { g with g := link g, gpc := dest g })) ∧
      ((s.here.rG a).poison = false → exec (.gjr d a) s = .next (s.modGen (fun g => { g with
        g := link g, gpc := (s.here.rG a).val.extractLsb' 0 16 })))

/-- When no gst is outstanding, ga is unpoisoned, ga + SignExt(imm16) is a multiple of 8 outside the window with a
leaf that permits the access, in a space the generator reaches, and nothing holds the access up: gld answers the next
state in which gd holds, with the leaf's band, what a strong load at the widest scope of the region's class reads over
the stores that the gate has released, and the line has come in; where nothing was released and no older store may be
returned, these are the 8 bytes as the cluster sees them. gst, of data whose band and poison may be stored, answers
the next state in which the gate is empty and its entries stand in the store buffer, followed by one strong entry with
gd's 8 bytes (without the CRC bytes of a guarded header) that a later gld, gst or gend waits for. Both go on at the
next word; where no page is guarded neither changes a byte of memory. (R85, R86, R91, R92, R232, R233, R254, R255,
R321.) -/
def Obligations.GeneratorLoadsAndStoresAreStrong : Prop :=
  ∀ (s : State) (d a : BitVec 5) (imm : BitVec 16) (l : Leaf),
    let ea : Word := (s.here.rG a).val + imm.signExtend 64
    let y := s.here.rG d
    let k := l.keyOf ea
    let scope := widestScope l.cls
    let p : Piece := ⟨0, ea, 8⟩
    gstOut s.here = false → (s.here.rG a).poison = false → ea.toNat % 8 = 0 → isSpm ea = false → translate s s.cur .gen ea = .ok l →
    l.page63 ea = false →
    (l.r = true → (l.spaceAt ea = .hbm ∨ l.spaceAt ea = .pool) → genHeld s s.cur l ea false = false → mediaFault s s.cur l ea = none →
      let rd := memPiece s s.cur .gen (some scope) s.here.stq.sb s.here.nextSeq p
      let t := (touchLine (noteRead s s.cur .gen true scope s.here.nextSeq [p]) s.cur l k).modGen (fun g => { g with
        g := if d = 0#5 then g.g else vset g.g d ⟨readWord rd, l.band, rd.any (·.2.2)⟩, gpc := g.gpc + 1#16 })
      exec (.gld d a imm) s = .next t ∧ (l.guard = false → SameMemory s t) ∧
      (s.here.stq.sb = [] → (∀ j, j < 8 → olderUnit s s.cur (some scope) s.here.nextSeq (l.place s.cur) ((k + j) / 8) = none) →
        (∀ j, j < 8 → (readWord rd).extractLsb' (8 * j) 8 = leafByte s s.cur l (k + j)) ∧
        rd.any (·.2.2) = leafPoison s s.cur l k)) ∧
    (l.w = true → (l.spaceAt ea = .hbm ∨ l.spaceAt ea = .pool ∨ l.spaceAt ea = .host) → genHeld s s.cur l ea true = false →
      storePieceFault l ea y.band y.poison = none →
      let e : StoreEnt := ⟨s.here.nextSeq, ea,
        ((List.range 8).map (fun j => (k + j, y.val.extractLsb' (8 * j) 8))).filter (fun b => !l.crcByte b.1),
        if y.poison then [k / 64] else [], y.band, true, scope, l.cls, true, ea - BitVec.ofNat 64 (k % 256), false⟩
      let t := (s.modCtx s.cur (fun c => { c with
        stq := { c.stq with gate := [], sb := c.stq.sb ++ c.stq.gate ++ [e] }, nextSeq := c.nextSeq + 1 })).modGen
          (fun g => { g with gpc := g.gpc + 1#16 })
      exec (.gst d a imm) s = .next t ∧ gstOut t.here = true ∧ SameMemory s t)

/-- The words of a packed group stand at a store address (R33, R35). -/
def PackedAt (s : State) (a : BitVec 18) (ws : List Word) : Prop :=
  a.toNat % 8 = 0 ∧ ws ≠ [] ∧
  (∀ (i : Nat) (w : Word), ws[i]? = some w →
    storeWord8 s s.cur (a + BitVec.ofNat 18 (8 * i)) = some w ∧ w &&& 0xEFFFFFFFFFFFFFFF#64 ≠ 0#64 ∧
    (w.getLsbD 60 = true ↔ i + 1 = ws.length) ∧ (w.getLsbD 59 = true → i = 0)) ∧
  ws.Pairwise (fun x y => (x.extractLsb' 61 3).toNat < (y.extractLsb' 61 3).toNat)

/-- The canonical form of a packed group (R34): each word at its slot, STOP cleared, and the other slots empty. -/
def CanonicalOf (ws : List Word) (g : BitVec 512) : Prop :=
  (∀ w ∈ ws, g.extractLsb' (64 * (w.extractLsb' 61 3).toNat) 64 = w &&& 0xEFFFFFFFFFFFFFFF#64) ∧
  ∀ k, k < 8 → (∀ w ∈ ws, (w.extractLsb' 61 3).toNat ≠ k) → g.extractLsb' (64 * k) 64 = 0#64

/-- `new` is `old` with word `slot` replaced by w. -/
def WordReplaced (old new : BitVec 512) (slot : Nat) (w : Word) : Prop :=
  new.extractLsb' (64 * slot) 64 = w ∧ ∀ k, k < 8 → k ≠ slot → new.extractLsb' (64 * k) 64 = old.extractLsb' (64 * k) 64

/-- When the words from store address (ga + 8 × SignExt(imm11)) mod 2^18 on form a packed group (rising slots, STOP on
the last word alone, MARK on the first at most, mapped pages), tld makes bN its canonical form with STOP cleared, in
the context's band. tpat and tpati replace the field that SEL names, of word `slot` of bN (an empty word takes its
slot number first), by the low bits of ga + SignExt(imm11), or of SignExt(imm11), and bN takes the joined band. tclr
empties one word or all eight. Each goes on at the next word; ga must be unpoisoned. (R33, R34, R35, R36, R93, R94,
R95, R96.) -/
def Obligations.TemplateInstructionsBuildGroups : Prop :=
  ∀ (s : State) (b slot : BitVec 3) (a : BitVec 5) (imm : BitVec 11) (fsel : BitVec 4) (new : BitVec 512) (w : Word) (band : Band),
    let x := s.here.rG a
    let old := s.here.gen.tmpl b
    let held (v : BitVec 512) (bd : Band) : State :=
      s.modGen (fun g => { g with b := vset g.b b ⟨v, bd⟩, gpc := g.gpc + 1#16 })
    let patches (v : Word) : Prop := ∃ lo n,
      [(42, 6), (36, 6), (30, 6), (24, 6), (20, 4), (32, 4), (16, 4), (0, 16), (0, 32), (0, 24), (56, 3), (48, 8), (0, 48)][fsel.toNat]?
        = some (lo, n) ∧
      (∀ j, j < 64 → w.getLsbD j =
        if lo ≤ j ∧ j < lo + n then v.getLsbD (j - lo)
        else if old.bits.extractLsb' (64 * slot.toNat) 64 = 0#64 then decide (61 ≤ j) && slot.getLsbD (j - 61)
        else old.bits.getLsbD (64 * slot.toNat + j)) ∧
      WordReplaced old.bits new slot.toNat w
    (x.poison = false → ∀ ws, PackedAt s (BitVec.ofInt 18 (x.val.toNat + 8 * imm.toInt)) ws → CanonicalOf ws new →
      exec (.tld b a imm) s = .next (held new s.here.band)) ∧
    (x.poison = false → patches (x.val + imm.signExtend 64) → bandOf [old.band, x.band] = some band →
      exec (.tpat b slot fsel a imm) s = .next (held new band)) ∧
    (patches (imm.signExtend 64) → bandOf [old.band, 0#8] = some band → exec (.tpati b slot fsel imm) s = .next (held new band)) ∧
    (WordReplaced old.bits new slot.toNat 0#64 → exec (.tclr b slot) s = .next (held new s.here.band)) ∧
    exec (.tclrAll b) s = .next (held 0#512 s.here.band)

/-- The generator after it has pushed a group at GPC, and has gone on. -/
def Pushed (g : Gen) (words : BitVec 512) (mark : Bool) (band : Band) : Gen :=
  { g with
    eseq := g.eseq + 1#20, gpc := g.gpc + 1#16,
    runnel := g.runnel ++ [⟨words, (0#8 ++ g.gpc ++ g.eseq ++ 0#1 ++ BitVec.ofBool mark ++ 0#18 : BitVec 64), band,
      if mark then some ⟨g.g, g.b, g.gpc + 1#16, g.eprog, g.eseq + 1#20, g.popCount⟩ else none, false⟩] }

/-- When a template holds a group without a fault of R35 and the Runnel accepts it (fewer than 64 groups, and fewer
than 8 mark groups for a mark group), emit answers the next state in which the Runnel's last group is the template's
words, with the provenance of R101, the template's band and, if it is a mark group, the snapshot of the generator as
it stands after the instruction; emitm pushes the words with MARK set on the first. ESEQ and GPC are one higher, and
nothing else has changed. (R35, R38, R97, R99, R101, R108.) -/
def Obligations.EmissionPushesTheTemplate : Prop :=
  ∀ (s : State) (b : BitVec 3) (new : BitVec 512) (f : Nat),
    let g := s.here.gen
    let t := g.tmpl b
    let marks := (g.runnel.filter (fun r => groupMark r.words)).length
    (∀ k, k < f → t.bits.extractLsb' (64 * k) 64 = 0#64) → f < 8 → t.bits.extractLsb' (64 * f) 64 ≠ 0#64 →
    (∀ k, k < 8 → t.bits.extractLsb' (64 * k) 64 ≠ 0#64 → (t.bits.extractLsb' (64 * k + 61) 3).toNat = k) →
    (∀ k, f < k → k < 8 → t.bits.getLsbD (64 * k + 59) = false) →
    g.runnel.length < 64 →
    ((t.bits.getLsbD (64 * f + 59) = true → marks < 8) →
      exec (.emit b) s = .next (s.modGen (fun g => Pushed g t.bits (t.bits.getLsbD (64 * f + 59)) t.band))) ∧
    (marks < 8 → WordReplaced t.bits new f (t.bits.extractLsb' (64 * f) 64 ||| 0x0800000000000000#64) →
      exec (.emitm b) s = .next (s.modGen (fun g => Pushed g new true t.band)))

/-- Packed groups stand one behind the other from a store address on, with their canonical forms. -/
def GroupsAt (s : State) : BitVec 18 → List (List Word × BitVec 512) → Prop
  | _, [] => True
  | a, (ws, g) :: rest => PackedAt s a ws ∧ CanonicalOf ws g ∧ GroupsAt s (a + BitVec.ofNat 18 (8 * ws.length)) rest

/-- The store address of group i. -/
def groupAddr (a : BitVec 18) (gs : List (List Word × BitVec 512)) (i : Nat) : BitVec 18 :=
  a + BitVec.ofNat 18 (8 * ((gs.take i).map (fun p => p.1.length)).sum)

/-- When ga and gb are unpoisoned, no emitr is in progress, gb[15:0] packed groups stand one behind the other from
store address ga mod 2^18 on, and the Runnel has room for all of them, emitr answers a next state in which the Runnel
ends with the canonical forms of these groups in order, in the context's band, with FROMR and their store addresses in
their provenance; EPROG is 0, ESEQ has counted the groups, gd holds gb[15:0] in gb's band, which is the model's choice
(log 26; discarded for g0), and GPC is at the next word. Nothing else of the context has changed. (R98, R99, R101,
R108.) -/
def Obligations.EmitrCopiesGroups : Prop :=
  ∀ (s : State) (d a b : BitVec 5) (gs : List (List Word × BitVec 512)),
    let g := s.here.gen
    let start : BitVec 18 := (s.here.rG a).val.extractLsb' 0 18
    let n := (s.here.rG b).val.toNat % 2 ^ 16
    let marked (w : BitVec 512) : Bool := groupMark w
    (s.here.rG a).poison = false → (s.here.rG b).poison = false → g.eprog.active = false →
    gs.length = n → GroupsAt s start gs → g.runnel.length + n ≤ 64 →
    (g.runnel.filter (fun r => marked r.words)).length + (gs.filter (fun p => marked p.2)).length ≤ 8 →
    ∃ (t : State) (new : List RGroup), exec (.emitr d a b) s = .next t ∧ t.mem = s.mem ∧ new.length = n ∧
      t.here = { s.here with gen := { g with
        runnel := g.runnel ++ new, eprog := zeroEProg, eseq := g.eseq + BitVec.ofNat 20 n, gpc := g.gpc + 1#16,
        g := if d = 0#5 then g.g else vset g.g d ⟨BitVec.ofNat 64 n, (s.here.rG b).band, false⟩ } } ∧
      ∀ (i : Nat) (r : RGroup) (p : List Word × BitVec 512), new[i]? = some r → gs[i]? = some p →
        r.words = p.2 ∧ r.band = s.here.band ∧
        r.prov = (0#8 ++ g.gpc ++ (g.eseq + BitVec.ofNat 20 i) ++ 1#1 ++ BitVec.ofBool (marked p.2) ++ groupAddr start gs i : BitVec 64) ∧
        (r.snap.isSome = marked p.2) ∧ r.lead = false

/-- gwait with an unpoisoned ga, when the Runnel holds at most min(ga, 64) groups, writes their number to gd, in the
context's band, which is the model's choice (log 26); grecv removes the oldest entry of a FIFO that is not empty into
gd with its band; grds writes special register n to gd in the context's band; gwrs of an unpoisoned ga, with an empty
Runnel, no landing pending and no execution of a captured nest to come, writes FMT (fields replaced, flags cleared by
ones), KVPOL (writable bits) or STALLC0 or STALLC1; each goes on at the next word. gtrap parks the Milliner with an
A60 and GPC at the next word, and gend, with no gst outstanding, halts it; groups in the Runnel stay. (R44, R67, R86,
R92, R102, R104, R105, R106.) -/
def Obligations.GeneratorWaitsAndControl : Prop :=
  ∀ (s : State) (d a : BitVec 5) (n : BitVec 16) (code : BitVec 16) (v : Word) (e : FifoEntry) (rest : List FifoEntry),
    let c := s.here
    let x := c.rG a
    let writes (r : SReg) (g : Gen) : Gen :=
      { g with g := if d = 0#5 then g.g else vset g.g d r, gpc := g.gpc + 1#16 }
    (x.poison = false → c.gen.runnel.length ≤ min x.val.toNat 64 →
      exec (.gwait d a) s = .next (s.modGen (writes ⟨BitVec.ofNat 64 c.gen.runnel.length, c.band, false⟩))) ∧
    (c.gen.fifo = e :: rest →
      exec (.grecv d) s = .next (s.modGen (fun g => writes ⟨e.val, e.band, false⟩
        { g with fifo := rest, popped := g.popped ++ [e], popCount := g.popCount + 1 }))) ∧
    (readSr s s.cur n.toNat = some v → exec (.grds d n) s = .next (s.modGen (writes ⟨v, c.band, false⟩))) ∧
    (x.poison = false → c.gen.runnel = [] → c.pend = [] → c.regs.loop.replaying = false →
      (n = 0#16 ∨ n = 4#16 ∨ n = 5#16 ∨ n = 6#16) → ∃ t, exec (.gwrs a n) s = .next t ∧
        t.here = { c with
          gen := { c.gen with gpc := c.gen.gpc + 1#16 }
          stallc := if n = 5#16 then #v[x.val, c.stallc[1]] else if n = 6#16 then #v[c.stallc[0], x.val] else c.stallc
          regs := { c.regs with
            fmt := if n = 0#16 then
                fmtSet c.regs.fmt (x.val.extractLsb' 0 2) (x.val.extractLsb' 2 2) (fmtOvf c.regs.fmt && !x.val.getLsbD 16)
                  (fmtNan c.regs.fmt && !x.val.getLsbD 17)
              else c.regs.fmt
            kvpol := if n = 4#16 then x.val &&& 0xFFFFFFFFFFFF0001#64 else c.regs.kvpol } } ∧ SameMemory s t) ∧
    (∃ t, exec (.gtrap code) s = .next t ∧
      t.here.gen = { c.gen with stat := .parked .a60, gpc := c.gen.gpc + 1#16 } ∧ t.here.regs = c.regs ∧ t.here.life = c.life) ∧
    (gstOut c = false → exec .gend s = .next (s.modGen (fun g => { g with gpc := g.gpc + 1#16, stat := .halted })))

/-- The group g of a front end begins to issue: its words stand next, then its end (R111); a mark group releases the gate and
empties the undo log (R233, R234). -/
def GroupBegins (s t : State) (fe : FeId) (g : RGroup) : Prop :=
  t.cur = fe ∧ SameMemory s t ∧ (t.ctx fe).regs = (s.ctx fe).regs ∧
  t.agenda = (groupSlots g.words).map (fun k => Act.op fe (groupWord g.words k)) ++ [Act.fin fe] ++ s.agenda ∧
  (∃ i : Issue, t.issue = some i ∧ i.fe = fe ∧ i.grp = g ∧ i.mark = groupMark g.words ∧ i.retry = none ∧ i.commit = none) ∧
  (groupMark g.words = true → (t.ctx fe).stq.gate = [] ∧ (t.ctx fe).stq.sb = (s.ctx fe).stq.sb ++ (s.ctx fe).stq.gate ∧
    (t.ctx fe).spm.undo = [])

/-- With no group issuing and no second vector cycle running, a cycle of a core (merge issue or starvation break)
begins the group of its one ready context; of two, that of the context with the denial count 256, A first, else of the
higher priority, A on a tie: its words stand next, in slot order, then its end, and a mark group has released the gate
and emptied the undo log. ESKIP_RESOLVE of an open window whose unpoisoned predicate has landed cancels every entry on
bit 0 = 1 and else commits; ESKIP_ENTRY_ENTER has the oldest entry of a committed window run on its values. (R10, R40,
R108, R111, R112, R126, R127, R233, R234.) -/
def Obligations.GroupsIssueInPriorityOrder : Prop :=
  ∀ (s : State) (core : CoreId) (i : Instr) (ga gb : RGroup) (fe : FeId) (e : EngOp) (rest : List EngOp),
    let a := feA core
    let b := feB core
    let x := s.ctx a
    let y := s.ctx b
    let c := s.ctx fe
    let w := c.regs.win
    ((i = .mergeStageIssue core ∨ (i = .starvationBreak core ∧ starved s core = true)) →
      s.issue = none → (s.core core.toNat).second = none → x.regs.loop.drop = 0#6 → y.regs.loop.drop = 0#6 →
      (front s a = .ready ga → front s b = .blocked → ∃ t, exec i s = .next t ∧ GroupBegins s t a ga) ∧
      (front s a = .blocked → front s b = .ready gb → ∃ t, exec i s = .next t ∧ GroupBegins s t b gb) ∧
      (front s a = .ready ga → front s b = .ready gb →
        (x.denial = 256#9 ∨ y.denial ≠ 256#9 ∧ y.ident.prio.toNat ≤ x.ident.prio.toNat →
          ∃ t, exec i s = .next t ∧ GroupBegins s t a ga) ∧
        (x.denial ≠ 256#9 → (y.denial = 256#9 ∨ x.ident.prio.toNat < y.ident.prio.toNat) →
          ∃ t, exec i s = .next t ∧ GroupBegins s t b gb))) ∧
    (c.life = .running → w.opened = true → w.resolved = false → predPending c w.pred w.seq = false → (c.rP w.pred).poison = false →
      exec (.eskipResolve fe) s = .next (s.modCtx fe (fun c => { c with regs := { c.regs with win :=
        let cancel := (c.rP w.pred).bits.getLsbD 0
        if w.left = 0#5 ∧ (cancel = true ∨ w.entries = []) then EWin.reset
        else { w with resolved := true, committed := !cancel, entries := if cancel then [] else w.entries } } }))) ∧
    (c.life = .running → w.committed = true → w.entries = e :: rest → s.issue = none →
      ∃ t, exec (.eskipEntryEnter fe) s = .next t ∧ t.cur = fe ∧ t.agenda = [Act.op fe e.word, Act.fin fe] ++ s.agenda ∧
        t.ctxs = s.ctxs ∧ SameMemory s t ∧ ∃ j : Issue, t.issue = some j ∧ j.fe = fe ∧ j.commit = some e)

/-- The register writes of a landing whose result is known. -/
def landingWrites (p : Pend) : List RegW :=
  match p.kind with
  | .done w => w
  | .spm _ _ | .load _ | .amo _ | .launch _ | .wait _ => []

/-- For a running context whose pending landings have distinct issue numbers, all that are due having arrived as known
register writes: REGISTER_LANDING answers a next state in which the registers are those before with the writes of each
due landing performed, earlier due beats first and then in the order of issue, and every setting of an FMT flag after
all other writes; exactly the due landings have left the pending list. The accumulators, the engines' queues, the
scratchpad and memory are unchanged. (R53, R67, R114, R356.) -/
def Obligations.LandingsApplyInOrder : Prop :=
  ∀ (s : State) (fe : FeId) (ps : List Pend),
    let c := s.ctx fe
    c.life = .running → (c.pend.map (·.seq)).Nodup → beatReady c = true →
    ps.Pairwise (fun p q => p.due < q.due ∨ p.due = q.due ∧ p.seq < q.seq) →
    (∀ p, p ∈ ps ↔ p ∈ c.pend ∧ p.due ≤ c.beat ∧ p.arrived = true) →
    (∀ p ∈ ps, p.fault = none ∧ ∃ w, p.kind = .done w) →
    let ws := ps.flatMap landingWrites
    ∃ t, exec (.registerLanding fe) s = .next t ∧
      (t.ctx fe).regs = (applyRegWs c (ws.filter (fun x => !regWFlag x) ++ ws.filter regWFlag)).regs ∧
      (t.ctx fe).pend = c.pend.filter (fun q => !(decide (q.due ≤ c.beat) && q.arrived)) ∧
      (t.ctx fe).eng = c.eng ∧ (t.ctx fe).spm = c.spm ∧ (t.ctx fe).stq = c.stq ∧
      (∀ g, g ≠ fe → t.ctx g = s.ctx g) ∧ SameMemory s t

/-- What the cluster of a front end sees at a key, in a region of class `cls`. -/
def seenAt (t : State) (fe : FeId) (cls : BitVec 2) (k : Nat) : Byte :=
  if cls = 0#2 then cachedByte (t.cluster (clusterOf fe)) (memRead t.mem k) k else memRead t.mem k

/-- The pending entry of issue number `seq` has a known result; nothing else of the context has changed. -/
def ResultKnown (s t : State) (fe : FeId) (seq : Nat) (w : List RegW) : Prop :=
  (t.ctx fe).pend = (s.ctx fe).pend.map (fun q => if q.seq = seq then { q with kind := .done w } else q) ∧
  (t.ctx fe).regs = (s.ctx fe).regs ∧ (t.ctx fe).stq = (s.ctx fe).stq ∧ ∀ g, g ≠ fe → t.ctx g = s.ctx g

/-- LOAD_DATA_ARRIVAL of a pending load that may read (R254, R263) makes what its pieces give its known result.
AMO_RESULT_RETURN of an atomic without a fault, and whose function raises no audit, stores the function's value (if it
stores) where the cluster then sees it, and its result is the old value. STORE_PERFORM makes a store's bytes visible
to the cluster and takes it off the store buffer. CACHE_MAINTENANCE_COMPLETE of a clean beyond the cluster writes the
range's dirty bytes to memory. Every byte of memory that these do not name reads as before, but for what the fill of a
guarded line traces (only entries whose translation still holds: R268). SPOUT_READ makes the next vector ready;
LSQ_PAIR_ARRIVAL the oldest pair still due. (R218, R229, R230, R232, R239, R243, R245, R248, R255, R263, R320.) -/
def Obligations.MemoryEventsPerform : Prop :=
  ∀ (s : State) (fe : FeId) (idx : BitVec 6) (idx8 : BitVec 8) (q : BitVec 3) (p : Pend) (dat : ReadData) (w : List RegW) (l : Leaf)
    (nv : Option Nat) (e : StoreEnt) (m : Maint) (v : SpoutVec) (pairs rest : List ScalePair) (pr : ScalePair),
    let c := s.ctx fe
    let cl := s.cluster (clusterOf fe)
    (c.pend[idx.toNat]? = some p → p.outstanding = true → isBound c = true → c.frz ≠ .load →
      (∀ r, p.kind = .load r → mayRead s fe p.seq r.strong r.pieces = true →
        readMem s fe .core r.strong r.scope (if r.cistern then spCistern else spLoad) c.ownStores p.seq r.pieces = .ok dat →
        loadWrites r.dst dat = .ok w →
        let s0 := touchPieces (noteRead s fe .core r.strong r.scope p.seq r.pieces) fe .core r.pieces
        ∃ t, exec (.loadDataArrival fe idx) s = .next t ∧ ResultKnown s0 t fe p.seq w ∧ SameMemory s0 t ∧
          ((∀ x ∈ unitLeaves s fe .core, x.guard = false) → (t.ctx fe).regs = c.regs ∧ SameMemory s t)) ∧
      (∀ r, p.kind = .amo r → amoMayPerform s fe p r.rel = true → translate s fe .core r.ea = .ok l → amoFault l r = none →
        mediaFault s fe l r.ea = none →
        let k := l.keyOf r.ea
        let s0 := fillLine s fe l k
        let n := amoBytes r.sz
        ∀ old : Nat, old < 256 ^ n →
        (∀ j, j < n → BitVec.ofNat 8 (old / 256 ^ j) = if l.crcByte (k + j) then 0#8
          else if l.guard then leafByte s fe l (k + j) else seenAt s fe l.cls (k + j)) →
        stalledRead s k = false → (∀ j, j < n → (poolKey (k + j) && poolDead s) = false) → amoNew r.fn (8 * n) old r.b.val.toNat r.c.val.toNat = (nv, false) →
        ∃ t, exec (.amoResultReturn fe idx) s = .next t ∧
          ResultKnown s0 t fe p.seq [.s r.d ⟨BitVec.ofNat 64 old, l.band, leafPoison s fe l k⟩] ∧
          (nv = none → SameMemory s0 t) ∧
          (∀ x, nv = some x → ∀ j, j < n → l.crcByte (k + j) = false → seenAt t fe l.cls (k + j) = BitVec.ofNat 8 (x / 256 ^ j)) ∧
          (∀ a, (a < k ∨ k + n ≤ a) → memRead t.mem a = memRead s0.mem a) ∧ (l.guard = false → s0 = s))) ∧
    (c.stq.sb[idx8.toNat]? = some e → e.stale = false → storeMayPerform s fe idx8.toNat e = true → (e.data.map (·.1)).Nodup →
      (∀ b ∈ e.data, stalled s b.1 = false ∧ hostGone s b.1 = false ∧ (poolKey b.1 && poolDead s) = false) →
      (∀ x ∈ e.lines, x ∉ cl.badTags) →
      ∃ t, exec (.storePerform fe idx8) s = .next t ∧
        t.ctx fe = { c with stq := { c.stq with sb := ldel c.stq.sb idx8.toNat } } ∧
        (∀ b ∈ e.data, seenAt t fe e.cls b.1 = b.2) ∧
        (∀ a, (∀ b ∈ e.data, b.1 ≠ a) → memRead t.mem a = memRead s.mem a)) ∧
    (c.stq.maint[idx.toNat]? = some m → m.stale = false → maintMay s fe idx.toNat m = true →
      ∃ t, exec (.cacheMaintenanceComplete fe idx) s = .next t ∧
        t.ctx fe = { c with stq := { c.stq with maint := ldel c.stq.maint idx.toNat } } ∧
        (∀ a, ¬ (m.key ≤ a ∧ a < m.key + m.len) → memRead t.mem a = memRead s.mem a) ∧
        (m.scope = 1#2 → SameMemory s t) ∧
        (m.scope ≠ 1#2 → ¬ (m.op = 1#2 ∧ m.cls = 0#2) →
          cl.l1d.Pairwise (fun x y => x.1 < y.1) → cl.ccd.Pairwise (fun x y => x.1 < y.1) →
          ∀ a, m.key ≤ a → a < m.key + m.len →
            memRead t.mem a = ((pget cl.l1d a).orElse (fun _ => pget cl.ccd a)).getD (memRead s.mem a))) ∧
    (isBound c = true → spoutWanted c q = true → nextVector s fe (vget zeroStream c.regs.streams q) = .ok v →
      exec (.spoutRead fe q) s = .next ((spoutFill s fe (vget zeroStream c.regs.streams q)).modCtx fe (fun c => { c with regs := { c.regs with
        streams := vset c.regs.streams q { vget zeroStream c.regs.streams q with ready := some v } } })) ∧
      ((∀ x ∈ unitLeaves s fe .core, x.guard = false) → SameMemory s (spoutFill s fe (vget zeroStream c.regs.streams q)) ∧
        ((spoutFill s fe (vget zeroStream c.regs.streams q)).ctx fe).regs = c.regs)) ∧
    (isBound c = true → c.eng.mat.scale = pairs ++ pr :: rest → (∀ x ∈ pairs, x.ready = true) → pr.ready = false →
      exec (.lsqPairArrival fe) s
        = .next (s.modMat fe (fun m => { m with scale := pairs ++ { pr with ready := true } :: rest })))

/-- A field of KVPOL after n more events (R323). -/
def kvUp (v n : Nat) : Nat := min 65535 (v + n)

/-- When a context's read through a guarded leaf reaches the media and meets an error that stands: KVPOL counts in HDC
a header served by copy B, in SEC a single error, in MZC the groups zeroed under MPOL 0, each stopping at FFFFH, and
nothing else of KVPOL changes; Headwater's counters rise by the number of events; the error stays in the media; the
line is held as delivered from then on, poisoned for an uncorrectable error, or for a parity error under MPOL 1; every
byte of a group with a parity error has bits 1:0 clear. Where both copies of a header fail nothing is cached: a load
gets D43 at its landing, gld stops the Milliner with D43, and a store that the context then performs ends the error.
D41 of an L1 tag comes before D43. The errors that the media hold are free values. (R321, R322, R323, R324, R107,
R217, R231.) -/
def Obligations.GuardedLinesAreDeliveredAndCounted : Prop :=
  ∀ (s : State) (fe : FeId) (l : Leaf) (ea : Word) (e : MediaErr),
    let k := l.keyOf ea
    let n := clusterOf fe
    let t := fillLine s fe l k
    let w := (s.ctx fe).regs.kvpol
    let w' := (t.ctx fe).regs.kvpol
    let bad := (if l.cls = 0#2 then cachedPoison (s.cluster n) (k / 64) (readsPoison s k) else readsPoison s k) || e.ecc == some true || (w.getLsbD 0 && e.par != 0#8)
    (mediaErr s l.guard (k / 64) = some e → e.stands = true → lineHeld s n l.cls (k / 64) = false →
      ((w'.extractLsb' 48 16).toNat = kvUp (w.extractLsb' 48 16).toNat (if e.badA = true ∧ e.badB = false then 1 else 0) ∧
        (w'.extractLsb' 32 16).toNat = kvUp (w.extractLsb' 32 16).toNat (if e.ecc = some false then 1 else 0) ∧
        (w'.extractLsb' 16 16).toNat = kvUp (w.extractLsb' 16 16).toNat
          (if w.getLsbD 0 then 0 else ((List.range 8).filter (fun g => e.par.getLsbD g)).length) ∧
        w'.extractLsb' 0 16 = w.extractLsb' 0 16) ∧
      t.hw.errors = s.hw.errors + (if e.badA then 1 else 0) + (if e.ecc.isSome then 1 else 0)
        + ((List.range 8).filter (fun g => e.par.getLsbD g)).length ∧
      pget t.media (k / 64) = some e ∧ leafPoison s fe l k = bad ∧
      (e.badA = false ∨ e.badB = false → lineHeld t n l.cls (k / 64) = true ∧ leafPoison t fe l k = bad) ∧
      (e.badA = true → e.badB = true → t.filled = s.filled ∧
        ((s.cluster n).badTags.contains (k / 64) = false → mediaFault s fe l ea = some ⟨12, .d43, ea⟩)) ∧
      (∀ j, j < 64 → e.par.getLsbD (j / 8) = true → (mediaByte s l (k / 64 * 64 + j)).extractLsb' 0 2 = 0#2)) ∧
    ((s.cluster n).badTags.contains (k / 64) = true → mediaFault s fe l ea = some ⟨11, .d41, ea⟩) ∧
    (∀ (idx : BitVec 6) (p : Pend) (r : LoadReq) (f : AccFault),
      (s.ctx fe).pend[idx.toNat]? = some p → p.kind = .load r → p.outstanding = true → isBound (s.ctx fe) = true →
      (s.ctx fe).frz ≠ .load → mayRead s fe p.seq r.strong r.pieces = true → (f.cause = .d43 ∨ f.cause = .d41) →
      readMem s fe .core r.strong r.scope (if r.cistern then spCistern else spLoad) (s.ctx fe).ownStores p.seq r.pieces = .fault f →
      r.dst.fault (r.pieces.flatMap (pieceBand s fe .core)) f = f →
      ∃ t, exec (.loadDataArrival fe idx) s = .next t ∧
        (t.ctx fe).pend = (s.ctx fe).pend.map (fun q => if q.seq = p.seq then { q with fault := some (f.cause, f.ea) } else q)) ∧
    (∀ (d a : BitVec 5) (imm : BitVec 16), fe = s.cur → ea = (s.here.rG a).val + imm.signExtend 64 →
      (s.here.rG a).poison = false → ea.toNat % 8 = 0 → isSpm ea = false → translate s s.cur .gen ea = .ok l → l.page63 ea = false →
      l.r = true → (l.spaceAt ea = .hbm ∨ l.spaceAt ea = .pool) → gstOut s.here = false → genHeld s s.cur l ea false = false →
      mediaFault s s.cur l ea = some ⟨12, .d43, ea⟩ →
      ∃ t, exec (.gld d a imm) s = .next t ∧ t.here.gen.stat = .parked .d43 ∧ t.here.gen.g = s.here.gen.g ∧ t.here.gen.gpc = s.here.gen.gpc) ∧
    (∀ b, pget s.media (k / 64) = some e → (poolKey k && poolDead s) = false → l.cls ≠ 0#2 →
      ∃ e', pget (performBytes s fe l.cls [(k, b)]).media (k / 64) = some e' ∧ e'.stands = false)

/-- A context that runs again takes up no command of the matrix unit from its frozen state (R189, R191). -/
def RestsNothing (c : Ctx) : Prop := c.eng.mat.frozen = true ∨ ∀ r, c.eng.mat.run = some r → r.frozen = false

/-- TRANSLATION_FILL of a page that is asked for enters its leaf (permissions, class and band of the region table)
into the unit's cache, or notes the refusal: T20 of an absent page, else the cause. PRI_RESPONSE with code 0 lets a
context stopped at T20 run again, now or once nothing holds it, a parked Milliner retry its word and a parked channel
go on. ATS_INVALIDATION removes the leaves of the tenant's contexts in the range and no other; what of theirs has not
performed there translates again. CISTERN_REFRESH passes the window to the next bank, with the cycles passed since;
BLOCK_STORE_WRITE_APPLY performs the held writes once no matrix command is started; PENDING_TRAP_RECORD_WRITE puts the
held record into the ring and advances TRHEAD. (R107, R221, R226, R227, R268, R269, R277, R359, R362, R363.) -/
def Obligations.TranslationAndCrownEventsAct : Prop :=
  ∀ (s : State) (fe : FeId) (u : XUnit) (va pa : Word) (sz : BitVec 4) (rd wr : Bool) (l : Leaf) (k : Cause) (tenant : BitVec 4)
    (size : BitVec 64) (core : CoreId) (w : BitVec 32) (ch : Bool) (r : TrapRec) (rest : List TrapRec),
    let c := s.ctx fe
    let cl := s.cluster (clusterOf fe)
    let unask (c : Ctx) : List (XUnit × Nat) := c.asked.filter (fun a => !(a == (u, va.toNat / 4096)))
    ((u, va.toNat / 4096) ∈ c.asked →
      exec (.translationFill fe u va .absent) s
        = .next (s.modCtx fe (fun c => { c with asked := unask c, deny := c.deny ++ [(u, va, .t20)] })) ∧
      (fillLeaf s fe va pa sz rd wr (pa.extractLsb' 62 2) = .error k →
        exec (.translationFill fe u va (.page pa sz rd wr)) s
          = .next (s.modCtx fe (fun c => { c with asked := unask c, deny := c.deny ++ [(u, va, k)] }))) ∧
      (fillLeaf s fe va pa sz rd wr (pa.extractLsb' 62 2) = .ok l →
        (∀ g, regionOf s (pa.extractLsb' 62 2) (pa.toNat % 2 ^ 52 / 4096 * 4096) = some g →
          l.fe = fe ∧ l.r = (rd && g.attr.getLsbD 16) ∧ l.w = (wr && g.attr.getLsbD 17) ∧ l.cls = g.attr.extractLsb' 2 2 ∧
          l.band = g.attr.extractLsb' 56 8) ∧
        ∃ t, exec (.translationFill fe u va (.page pa sz rd wr)) s = .next t ∧ l ∈ unitLeaves t fe u ∧
          t.ctx fe = { c with asked := unask c } ∧ SameMemory s t)) ∧
    (c.parkB = some .t20 →
      (c.mayResume = true → RestsNothing c → ∃ t, exec (.priResponse fe .core 0#16) s = .next t ∧
        (t.ctx fe).life = .running ∧ (t.ctx fe).parkB = none ∧ (t.ctx fe).regs = c.regs ∧ SameMemory s t) ∧
      (c.mayResume = false → exec (.priResponse fe .core 0#16) s = .next (s.modCtx fe (fun c => { c with priOk := true })))) ∧
    (c.gen.stat = .parked .t20 → genWord s fe = some w → ∃ t, exec (.priResponse fe .gen 0#16) s = .next t ∧
      (t.ctx fe).gen = { c.gen with stat := .running } ∧ t.agenda = Act.gen fe w :: s.agenda ∧ SameMemory s t) ∧
    ((c.chan ch).parked = some .t20 →
      exec (.priResponse fe (.chan ch) 0#16) s = .next (s.modChan fe ch (fun x => { x with parked := none }))) ∧
    (∃ t, exec (.atsInvalidation tenant va size) s = .next t ∧ SameMemory s t ∧ (t.ctx fe).regs = c.regs ∧
      (c.ident.tenant ≠ tenant → t.ctx fe = c) ∧ (t.ctx fe).stq.sb.map (·.data) = c.stq.sb.map (·.data) ∧
      (c.ident.tenant = tenant → ∀ a : Word, va.toNat / 4096 ≤ a.toNat / 4096 → a.toNat < va.toNat + size.toNat →
        (∀ e ∈ (t.ctx fe).stq.sb, e.va = a → e.stale = true) ∧ (∀ m ∈ (t.ctx fe).stq.maint, m.va = a → m.stale = true)) ∧
      unitLeaves t fe u = (unitLeaves s fe u).filter (fun x =>
        !((s.ctx x.fe).ident.tenant == tenant && decide (x.va < va.toNat + size.toNat ∧ va.toNat < x.va + pageSize x.sz)))) ∧
    exec .cisternRefresh s = .next { s with refresh := BitVec.ofNat 16 ((s.refresh.toNat / 2016 + 1) % 32 * 2016 + s.refreshPast), refreshPast := 0 } ∧
    (matrixBusy s core = false → exec (.blockStoreWriteApply core) s
      = .next (s.setCore core.toNat { (s.core core.toNat).held.foldl applyHeld (s.core core.toNat) with held := [] })) ∧
    (c.held = r :: rest → cl.trctl.getLsbD 4 = true → 4 ≤ (cl.trctl.extractLsb' 0 4).toNat → (cl.trctl.extractLsb' 0 4).toNat ≤ 12 →
      (cl.trhead - cl.trtail).toNat ≠ 2 ^ (cl.trctl.extractLsb' 0 4).toNat → cl.trbase.toNat < 2 ^ 52 →
      ∃ t, exec (.pendingTrapRecordWrite fe) s = .next t ∧ (t.ctx fe).held = rest ∧
        (t.cluster (clusterOf fe)).trhead = cl.trhead + 1#32 ∧
        ∀ j, j < 64 → memRead t.mem (cl.trbase.toNat + 64 * (cl.trhead.toNat % 2 ^ (cl.trctl.extractLsb' 0 4).toNat) + j)
          = BitVec.ofNat 8 ((r.w[j / 8]?.getD 0#64).toNat / 256 ^ (j % 8)))

/-- The context's wait ends, with what it observed of the order of accesses (the state s0); its result, if it has one, lands 1 beat
later. -/
def WaitEnds (i : Instr) (s s0 : State) (fe : FeId) (w : List RegW) : Prop :=
  exec i s = .next (s0.modCtx fe (fun c => { c with frz := .none, pend := c.pend.filterMap (fun p =>
    match p.kind with
    | .wait _ => if w.isEmpty then none else some { p with kind := .done w, due := c.beat + 1 }
    | .done _ | .spm _ _ | .load _ | .amo _ | .launch _ => some p) }))

/-- The routine of a front end waits no more. -/
def RoutineWakes (i : Instr) (s : State) (fe : FeId) (r : MRun) : Prop :=
  exec i s = .next (s.modMat fe (fun m => { m with run := some { r with wait := .none } }))

/-- The release event of a context's wait, when its condition holds, ends the freeze: fence (its accesses returned and
performed), tfence, twait and cdrain (the number complete), bwait (a phase among the last 2^31), and, with no strong
access outstanding and its word read, sigwait (COUNT 0 or STATUS set), mwait (value not B) and MWAIT_TIMEOUT, which
land the word 1 beat later. TFENCE_TIMEOUT stops the context with T23. A stalled Milliner with room, or whose wait is
over, retries its word. A routine's ring, scale-queue and syncc wait ends, every member of a group passing together;
an overrun group is killed. (R99, R102, R171, R201, R205, R261, R286, R342, R345, R346, R347, R364.) -/
def Obligations.WaitsEndWithTheirCondition : Prop :=
  ∀ (s : State) (fe : FeId) (tl : BitVec 2) (scope ty : BitVec 2) (n ea : Word) (ch : Bool) (since : Nat) (ph : BitVec 32)
    (d : BitVec 6) (b : SReg) (tmo : BitVec 16) (l : Leaf) (k : Nat) (w : Word) (gw : BitVec 32) (r : MRun) (kk : BitVec 2) (tile : Nat),
    let c := s.ctx fe
    let home := apertureHome fe ea
    let seen := noteStrong s fe l.wide none (k / 8)
    let reads : Prop := strongOutstanding c = false ∧ sigPlace s fe ea false = .ok l k ∧ strongWord s fe k = (w, false)
    (c.frz = .fence ty scope → loadsReturned c = true → (ty.getLsbD 1 = true → accessesPerformed c scope = true) →
      exec (.fenceComplete fe) s = .next (fenced (s.setCtx fe { c with frz := .none }) fe ty scope)) ∧
    (c.frz = .tfence scope since → WaitEnds (.tfenceComplete fe) s (dropRewritten s fe scope) fe [] ∧
      (since + 2 ^ 24 ≤ s.cycle → (∃ p ∈ c.pend, ∃ f, p.kind = .wait f) →
        ∃ t, exec (.tfenceTimeout fe) s = .next t ∧ (t.ctx fe).life = .stopped ∧ (t.ctx fe).parkB = some .t23)) ∧
    (c.frz = .twait tl n scope → n.toNat ≤ (c.timeline tl).done.toNat → WaitEnds (.twaitRelease fe) s (s.takeSync fe (syncTimeline fe tl)) fe []) ∧
    (c.frz = .cdrain ch n → n.toNat ≤ (c.timeline (chIdx ch)).done.toNat →
      exec (.cdrainRelease fe) s = .next ((s.setCtx fe { c with frz := .none }).takeSync fe (syncTimeline fe (chIdx ch)))) ∧
    (c.frz = .bwait ea ph → peerOk s fe ea 32 = true → basinFault s fe home (spmOff ea) = none →
      1 ≤ ((readBasin (s.ctx home).spm (spmOff ea)).ph - ph).toNat →
      ((readBasin (s.ctx home).spm (spmOff ea)).ph - ph).toNat ≤ 2 ^ 31 →
      WaitEnds (.bwaitRelease fe) s (s.takeSync fe (syncBasin home (spmOff ea))) fe []) ∧
    (c.frz = .sigwait ea d → reads → (w.toNat % 2 ^ 48 = 0 ∨ w.extractLsb' 56 8 ≠ 0#8) →
      WaitEnds (.sigwaitRelease fe) s (seen.takeSync fe (syncSignal k)) fe [.s d ⟨w, l.band, false⟩]) ∧
    (c.frz = .mwait ea d b tmo since → reads →
      (w ≠ b.val → WaitEnds (.mwaitEnd fe) s seen fe [.s d ⟨w, l.band, false⟩]) ∧
      (w = b.val → tmo ≠ 0#16 → since + tmo.toNat * 1024 ≤ s.cycle →
        WaitEnds (.mwaitTimeout fe) s seen fe [.s d ⟨w, l.band, false⟩])) ∧
    (genWord s fe = some gw → ∀ i,
      (i = .runnelSpaceRelease fe ∧ c.gen.stat = .pushStall ∧ runnelRoom c.gen (stalledMark s fe) = true) ∨
      (i = .millinerWaitEnd fe ∧ c.gen.stat = .waitStall ∧ genWaitOver s fe = true) →
      ∃ t, exec i s = .next t ∧ t.ctx fe = { c with gen := { c.gen with stat := .running } } ∧
        t.agenda = Act.gen fe gw :: s.agenda ∧ SameMemory s t) ∧
    (c.eng.mat.run = some r →
      (r.wait = .ring kk tile → tile < (c.eng.mat.ring (r.handle kk.toNat)).fill.toNat → RoutineWakes (.ringWaitRelease fe) s fe r) ∧
      (r.wait = .scale → (∀ p, c.eng.mat.scale.head? = some p → p.ready = true) → RoutineWakes (.scaleQueueWaitRelease fe) s fe r) ∧
      (r.wait = .sync → (pmMembers r.params).Nodup →
        (∀ g ∈ pmMembers r.params, ∃ q, (s.ctx g).eng.mat.run = some q ∧ q.wait = .sync ∧ q.frozen = false ∧
          pmTAG q.params = pmTAG r.params ∧ q.rout = r.rout ∧ q.ordinal = r.ordinal ∧ q.mpc + 1 < 4096) →
        ∃ t, exec (.synccRelease fe) s = .next t ∧ t.cur = s.cur ∧ SameMemory s t ∧
          ∀ g ∈ pmMembers r.params, ∀ q, (s.ctx g).eng.mat.run = some q →
            (t.ctx g).eng.mat.run = some (({ q.setOrdinal (q.ordinal + 1) with wait := .none, waited := 0 }).setMpc (q.mpc + 1))) ∧
      ((r.wait = .sync ∨ ∃ x, r.wait = .mcast x) → 2 ^ 20 ≤ r.waited → (pmMembers r.params).Nodup → fe ∈ pmMembers r.params →
        ∃ t, exec (.cooperativeTimeout fe) s = .next t ∧ (t.ctx fe).life ≠ .running))

/-- With no held write, the oldest command starts if its context is neither frozen nor busy: a call leaves the queue
with its routine at its entry, its region zeroed under ZI, if its places and bands stand; another command takes its
whole effect. A finished command completes under its number. A routine that must freeze rests at a freeze point (an
mdrain only for mfreeze). A seal of n unpoisoned plain bytes whose bands join writes header, ciphertext and tag, in
the joined band with the form bit, and completes. An illegal generator, micro- or Trimmer word takes the context off
its front end, and an unmapped generator fetch parks the Milliner with T21. (R52, R85, R107, R180, R182, R189, R191,
R193, R206, R377, R378, R379.) -/
def Obligations.UnitsStartFreezeAndComplete : Prop :=
  ∀ (s : State) (fe : FeId) (core : CoreId) (cmd : MCmd) (rest : List MCmd) (r : MRun) (m : Mat) (spm : Spm) (flags : BitVec 4)
    (rout : BitVec 6) (k : BitVec 16) (x : CipherCmd) (crest : List CipherCmd) (key : BitVec 256) (band : Band) (w : BitVec 32),
    let n := core.toNat
    let c := s.ctx fe
    let p : Params := cmd.m.map (·.val)
    let units := regionUnits p (algDim cmd.tab)
    let e := mget 0#13 (s.core (coreOf cmd.fe)).rtab rout.toNat
    let gone (t : State) : Prop := isBound (t.ctx fe) = false
    ((fe = feA core ∨ fe = feB core) →
      (cmd.fe = fe → (s.core n).held = [] → (s.core n).mq = cmd :: rest → (∀ q ∈ rest, q.fe ≠ fe ∨ q.num ≠ cmd.num) →
        (s.mat (feA core)).saved = [] → (s.mat (feB core)).saved = [] → wantsFreeze c = false → c.eng.mat.run = none →
        (cmd.kind = .call flags rout k → e.getLsbD 12 = true → flags.getLsbD 3 = false → cmd.mixed = false →
          mcallPlacesOk s fe p (algDim cmd.tab) = true →
          bandOf (cmd.band :: (List.range units).map (fun u =>
            unitBand (if flags.getLsbD 1 then zeroUnits c.eng.mat (pmAUB p) units c.band else c.eng.mat) (pmAUB p + u))) = some band →
          ∃ (t : State) (q : MRun), exec (.matrixCommandStart core) s = .next t ∧ (t.core n).mq = rest ∧
            (t.ctx fe).eng.mat.run = some q ∧ q.cmd = cmd ∧ q.phase = .words ∧ q.mpc = e.toNat % 4096 ∧ q.band = band ∧
            (∀ j, accWord (t.ctx fe).eng.mat j =
              if flags.getLsbD 1 = true ∧ 1024 * pmAUB p ≤ j ∧ j < 1024 * (pmAUB p + units) then 0#32 else accWord c.eng.mat j)) ∧
        ((cmd.kind = .zero ∨ cmd.kind = .drainRaw ∨ cmd.kind = .fill ∨ ∃ row, cmd.kind = .tload row) → plainCmd c cmd = .ok m spm →
          ∃ (t : State) (q : MRun), exec (.matrixCommandStart core) s = .next t ∧ (t.core n).mq = rest ∧ q.phase = .finished ∧
            q.cmd = cmd ∧ (t.ctx fe).eng.mat = { m with run := some q } ∧ (t.ctx fe).spm = spm)) ∧
      (c.eng.mat.bypass = none → c.eng.mat.run = some r → r.phase = .finished →
        (∀ q, (s.ctx (otherFe fe)).eng.mat.bypass = some q → q.fail = none) →
        ∃ t, exec (.matrixCommandComplete core) s = .next t ∧ (t.ctx fe).eng.mat.run = none ∧
          ((t.ctx fe).timeline 2#2).done = r.cmd.num ∧ (t.ctx fe).eng.mat.acc = c.eng.mat.acc ∧ SameMemory s t) ∧
      (c.eng.cipher = x :: crest → isBound c = true → c.eng.cipherRun = true →
        (s.ctx (otherFe fe)).eng.cipher = [] → vget none c.keys x.k = some key → x.isSeal = true → x.dst.toNat % 256 = 0 →
        let lines := (spmRangeLines x.src.toNat x.n.toNat).map (spmLine c.engineSpm)
        let hdr := sealHeader x.ctr c.ident.bid x.k band x.n.toNat
        let out := gcmEncrypt key (sealIv c.ident.bid.toNat x.ctr.toNat) hdr (spmBytesAt c.engineSpm x.src.toNat x.n.toNat)
        bandOf (lines.map (·.band)) = some band → (∀ l ∈ lines, l.form = false) → spmRangePoison c.engineSpm x.src.toNat x.n.toNat = false →
        ∃ t, exec (.cipherCommandComplete core) s = .next t ∧ ((t.ctx fe).timeline 3#2).done = x.num ∧
          (t.ctx fe).eng.cipher = crest ∧ SameMemory s t ∧
          ∀ j b, (hdr ++ out.1 ++ out.2)[j]? = some b →
            spmByte (t.ctx fe).spm (x.dst.toNat + j) = b ∧ (spmLine (t.ctx fe).spm ((x.dst.toNat + j) / 256)).band = band ∧
            (spmLine (t.ctx fe).spm ((x.dst.toNat + j) / 256)).form = true)) ∧
    (c.eng.mat.run = some r → wantsFreeze c = true → r.phase ≠ .finished → r.atFreezePoint = true → r.holds c = true →
      exec (.freezePointReached fe) s = .next (s.modCtx fe (fun c => { c with
        eng := { c.eng with mat := { c.eng.mat with run := some { r with frozen := true } } }
        frz := if c.frz = .mfreeze then .none else c.frz }))) ∧
    (∃ t, exec (.illegalMillinerWord fe w) s = .next t ∧ gone t) ∧
    (∃ t, exec (.generatorFetchFault fe) s = .next t ∧ (t.ctx fe).gen = { c.gen with stat := .parked .t21 } ∧
      (t.ctx fe).life = c.life ∧ (t.ctx fe).regs = c.regs) ∧
    (c.eng.mat.run = some r → r.phase = .words → r.frozen = false → r.indr = false →
      ∃ t, exec (.illegalMicroWord fe w) s = .next t ∧ gone t) ∧
    (c.eng.mat.active = some r → draining r = true → ∃ t, exec (.illegalTrimmerWord fe w) s = .next t ∧ gone t)

/-- COPY_DATA_BEAT of a running channel, between known places that nothing holds up, with bands that may meet and no
poison, no charge and no add: the bytes of the source's piece (those of a unit that the last beat ended in as it read
them) reach the destination, in memory or in a window, and every other byte of memory stays; the channel goes on to
the next offset, index or its end. COPY_COMPLETE frees the entry, completes its number and decrements its signal. At a
bound home whose checks hold, an arrival takes 1 from REM, or adds 1 to NXA when REM is 0; an expectation adds to
BYTES, a charge takes from it; a phase with REM = BYTES = 0 completes at evaluation. (R277, R278, R283, R284, R288,
R289, R290, R336, R337, R338, R339, R344.) -/
def Obligations.CopyAndBasinEventsAct : Prop :=
  ∀ (s : State) (fe : FeId) (ch : Bool) (e : CopyEnt) (rest : List CopyEnt) (ea : Word) (ls ld : CLoc) (band : Band) (l : Leaf)
    (idx : BitVec 16) (m : BasinMsg) (b : Basin) (o : BitVec 21),
    let c := s.ctx fe
    let x := c.chan ch
    let src := (e.addrs x.idx).1 + BitVec.ofNat 64 x.off.toNat
    let dst := (e.addrs x.idx).2 + BitVec.ofNat 64 x.off.toNat
    let n := beatLen e (e.addrs x.idx).2 x.off.toNat
    let piece := readPiece s fe e.seq n ls
    let bytes := carried x.carry src piece.bytes
    let on (y : Chan) : Prop := y = { x.advance e n (ls.space, ld.space) with carry := y.carry, built := y.built }
    (x.queue = e :: rest → isBound c = true → x.parked = none →
      (x.headDone = false → c.resting = false → c.stops.silent = false → e.empty = false → e.add = 0#3 → e.chg = false →
        cutPieces 0 src n 3 = [⟨0, src, n⟩] → copyLoc s fe ch src n false = ls → copyLoc s fe ch dst n true = ld →
        ((∃ h k, ls = .spm h k) ∨ ∃ a k, ls = .mem a k) → (x.off = 0#32 ∨ x.csp = some (ls.space, ld.space)) → ld.space ≠ .cistern →
        cisternWaits s ls = false → locStalls s false ls = false → locStalls s true ld = false →
        bandOf [exportBand piece] = some band → exportFault band (dstBand s ld) ld.isMem = none → piece.poison = false →
        ls.dead s fe = false → fabricOpen s fe = true → ownPending s fe e.seq ls.lines ld.lines = false →
        (∀ u b, x.carry = some (u, b) → b.length = 8) →
        (∀ a k, ld = .mem a k → hostGone s k = false → (∀ j, j < n → (poolKey (k + j) && poolDead s) = false) → ∃ t, exec (.copyDataBeat fe ch false) s = .next t ∧
          (∀ j, j < n → a.crcByte (k + j) = false → memRead t.mem (k + j) = bytes.getD j 0#8) ∧
          (∀ j, (j < k ∨ k + n ≤ j) → memRead t.mem j = memRead (ls.fill s fe).mem j) ∧
          on ((t.ctx fe).chan ch)) ∧
        (∀ h k, ld = .spm h k → k % 256 + n ≤ 256 → ∃ t, exec (.copyDataBeat fe ch false) s = .next t ∧
          (∀ j, j < n → spmByte (t.ctx h).spm (k + j) = bytes.getD j 0#8) ∧ SameMemory (ls.fill s fe) t ∧
          on ((t.ctx fe).chan ch))) ∧
      ((x.headDone = true ∨ e.empty = true ∧ c.resting = false) →
        (e.sig = false → ∃ t, exec (.copyComplete fe ch) s = .next t ∧ ((t.ctx fe).chan ch).queue = rest ∧
          ((t.ctx fe).timeline (chIdx ch)).done = e.num ∧ SameMemory s t) ∧
        (e.sig = true → translate s fe (.chan ch) e.st.rsig = .ok l → l.w = true → l.cls ≠ 0#2 → l.page63 e.st.rsig = false → fabricOpen s fe = true →
          stalledRead s (l.keyOf e.st.rsig) = false → 1 ≤ (s.word8 (l.keyOf e.st.rsig)).toNat % 2 ^ 48 →
          ∃ t, exec (.copyComplete fe ch) s = .next t ∧ ((t.ctx fe).chan ch).queue = rest ∧
            ((t.ctx fe).timeline (chIdx ch)).done = e.num ∧
            t.word8 (l.keyOf e.st.rsig) = s.word8 (l.keyOf e.st.rsig) - 1#64))) ∧
    (s.basins[idx.toNat]? = some m → (∀ y ∈ s.basins.take idx.toNat, ¬ (y.src = m.src ∧ y.home = m.home ∧ y.off = m.off)) →
      isBound (s.ctx m.home) = true → basinFault s m.src m.home m.off.toNat = none → m.off.toNat % 32 = 0 →
      readBasin (s.ctx m.home).spm m.off.toNat = b →
      let applied (i : Instr) (b' : Basin) : Prop := ∃ t, exec i s = .next t ∧ t.basins = ldel s.basins idx.toNat ∧
        readBasin (t.ctx m.home).spm m.off.toNat = b' ∧ SameMemory s t
      (m.up = .arrive → b.rem ≠ 0#16 → applied (.basinArrival idx) { b with rem := b.rem - 1#16 }) ∧
      (m.up = .arrive → b.rem = 0#16 → b.nxa.toNat < b.exp.toNat → applied (.basinArrival idx) { b with nxa := b.nxa + 1#16 }) ∧
      (∀ v, m.up = .expect v → applied (.basinExpectation idx) { b with bytes := b.bytes + v }) ∧
      (∀ v, m.up = .charge v → applied (.basinCharge idx) { b with bytes := b.bytes - v })) ∧
    (isBound c = true → o.toNat % 32 = 0 → o.toNat + 32 ≤ c.spm.size → readBasin c.spm o.toNat = b →
      ∃ t, exec (.basinEvaluate fe o) s = .next t ∧ SameMemory s t ∧
        readBasin (t.ctx fe).spm o.toNat = if b.rem = 0#16 ∧ b.bytes = 0#32
          then { b with ph := b.ph + 1#32, rem := b.exp - b.nxa, nxa := 0#16 } else b)

/-- The task has left the dispatcher. -/
def TaskGone (t : State) (id : BitVec 32) : Prop := t.task id = none

/-- With the trace disabled: an accepted launch or window entry appends a waiting task with the next ID (0 skipped),
the child's priority at most its parent's; a launch answers its context 1 beat later. A waiting task whose dependences
have count 0 and status ok is eligible; one with a dependence status set is abandoned with 0x80; 64 ms add 1 to the
age, up to 16. A selected placement binds: each front end runs, with the registers of R19 and GPC at the entry. The
last context to end retires its task with a decrement of its signal; a failed task whose contexts are gone sets 0x40;
a rinse unbinds; a scan rings queues that are on, and turns those with EN = 0 off. (R19, R20, R23, R330, R331, R332,
R334, R349, R350, R352, R398.) -/
def Obligations.TasksEnterRunAndLeave : Prop :=
  ∀ (s : State) (fe : FeId) (l : LaunchCmd) (rest : List LaunchCmd) (y : Task) (k : Kernel) (place : List FeId) (win q : BitVec 6)
    (victims : List (BitVec 32)),
    let c := s.ctx fe
    let cmd : BitVec 512 := BitVec.ofNat 512 (memNat s.mem (entryAddr win (s.cwq win q) (s.cwq win q).cons.toNat) 64)
    let nextId : BitVec 32 := if s.disp.nextId = 0xFFFFFFFF#32 then 1#32 else s.disp.nextId + 1#32
    let joins (t : State) (m : BitVec 512) (prio : Byte) (tenant : BitVec 4) (queue : Option Nat) : Prop :=
      ∃ n : Task, t.disp.tasks = s.disp.tasks ++ [n] ∧ t.disp.nextId = nextId ∧ n.id = s.disp.nextId ∧ n.st = .waiting ∧
        n.tenant = tenant ∧ n.prio = prio ∧ n.kern = m.extractLsb' 384 32 ∧ n.argp = m.extractLsb' 0 64 ∧
        n.sigc = m.extractLsb' 64 64 ∧ n.queue = queue ∧ n.age = 0
    let waits (a : Word) : Prop := a ≠ 0#64 ∧ stalledRead s a.toNat = false
    s.trace.en = false →
    (s.disp.launchq = l :: rest → l.fe = fe → s.disp.tasks.length < 4096 → s.disp.en = true →
      kernelRefuses s (l.cmd.extractLsb' 384 32) (some l.tenant) = false →
      ∃ t, exec (.launchAccept fe) s = .next t ∧ t.disp.launchq = rest ∧
        joins t l.cmd (if (l.cmd.extractLsb' 416 8).toNat < l.prio.toNat then l.cmd.extractLsb' 416 8 else l.prio) l.tenant none ∧
        (c.life = .running → c.ident.bid = l.bid → (t.ctx fe).frz = .none ∧
          ∀ p ∈ c.pend, ∀ d, p.kind = .launch d →
            { p with kind := .done [.s d ⟨s.disp.nextId.setWidth 64, c.band, false⟩], due := c.beat + 1 } ∈ (t.ctx fe).pend)) ∧
    (s.disp.en = true → winOn s win = true → (s.cwq win q).isOn = true → s.disp.tasks.length < 4096 → sealed s win (s.cwq win q) = true →
      cmd.extractLsb' 432 8 = 1#8 → entryBad s cmd = false → kernelRefuses s (cmd.extractLsb' 384 32) none = false →
      ∃ t, exec (.commandEntryTake win q) s = .next t ∧ (t.cwq win q).cons = (s.cwq win q).cons + 1#64 ∧
        joins t cmd (cmd.extractLsb' 416 8) (winTenant s win) (some (qNum win q))) ∧
    (∃ t, exec .dispatcherScan s = .next t ∧ t.ctxs = s.ctxs ∧ t.disp.tasks = s.disp.tasks ∧
      ((s.cwq win q).en = true → (qWord0 s win q).getLsbD 0 = false → (t.cwq win q).isOn = false ∧ (t.cwq win q).en = false) ∧
      ((s.cwq win q).isOn = true → (qWord0 s win q).getLsbD 0 = true → (t.cwq win q).isOn = true ∧ (t.cwq win q).bell = true)) ∧
    exec .taskAging s = .next { s with disp := { s.disp with tasks := s.disp.tasks.map (fun t =>
      if t.st = .eligible ∧ t.since + 64000000 ≤ s.time.toNat then { t with age := min (t.age + 1) 16, since := t.since + 64000000 }
      else t) } } ∧
    (c.life = .rinsing → c.eng.cipher = [] → ∃ t, exec (.rinseComplete fe) s = .next t ∧ (t.ctx fe).life = .unbound ∧
      (t.ctx fe).regs = Regs.init 0#8 ∧ (t.ctx fe).spm.lines = [] ∧ (t.ctx fe).keys = Vector.replicate 4 none ∧ SameMemory s t) ∧
    (s.task y.id = some y →
      (y.st = .waiting → (∀ a ∈ y.deps.toList, a = 0#64 ∨ waits a ∧ s.word8 a.toNat &&& 0xFF00FFFFFFFFFFFF#64 = 0#64) →
        exec (.taskEligible y.id) s = .next (s.modTask y.id (fun t => { t with st := .eligible, since := s.time.toNat, age := 0, sync := Task.depClock s t }))) ∧
      (y.st = .waiting → (∀ a ∈ y.deps.toList, a = 0#64 ∨ waits a) →
        (∃ a ∈ y.deps.toList, a ≠ 0#64 ∧ (s.word8 a.toNat).extractLsb' 56 8 ≠ 0#8) → y.sigc ≠ 0#64 →
        ∃ t, exec (.taskAbandon y.id) s = .next t ∧ TaskGone t y.id ∧
          t.word8 y.sigc.toNat = s.word8 y.sigc.toNat ||| 0x8000000000000000#64) ∧
      (y.st = .failed → taskBound s y.id = false → y.torn = false → y.sigc ≠ 0#64 →
        ∃ t, exec (.taskFailedRetire y.id) s = .next t ∧ TaskGone t y.id ∧
          t.word8 y.sigc.toNat = s.word8 y.sigc.toNat ||| 0x4000000000000000#64) ∧
      (y.st = .running → y.live = [fe] → y.saved = [] → y.torn = false → y.failExit = false → y.sigc ≠ 0#64 →
        1 ≤ (s.word8 y.sigc.toNat).toNat % 2 ^ 48 →
        c.ident.task = y.id → exitOf c = some false → c.life = .running → settled c = true → c.regs.win.busy = false →
        enginesDone c = true → c.frz.before = true → c.stq.gate = [] → accessesPerformed c 3#2 = true →
        ∃ t, exec (.contextExitComplete fe) s = .next t ∧ isBound (t.ctx fe) = false ∧ TaskGone t y.id ∧
          t.word8 y.sigc.toNat = s.word8 y.sigc.toNat - 1#64) ∧
      (s.disp.en = true → s.disp.hold = false → y.st = .eligible → y.images = false → reaches s y.id = true →
        kernelOf s y.kern = some k → place ≠ [] → validPlace s k place = true → scidxRoom s k = true →
        ∃ t, exec (.dispatcherSelect y.id place victims) s = .next t ∧
          (∃ z, t.task y.id = some z ∧ z.st = .running ∧ z.place = place ∧ z.live = place) ∧
          ∀ (n : Nat) (f : FeId), place[n]? = some f →
            (t.ctx f).life = .running ∧ (t.ctx f).ident.task = y.id ∧ (t.ctx f).ident.tenant = y.tenant ∧
            (t.ctx f).gen.gpc = kEntry k ∧ (t.ctx f).gen.runnel = [] ∧ ((t.ctx f).rG 7#5).val = y.argp ∧
            ∀ i : Nat, i < 6 → ((t.ctx f).rG (BitVec.ofNat 5 (i + 1))).val = BitVec.ofNat 64 (levelIdx k n i) ∧
              ((t.ctx f).rG (BitVec.ofNat 5 (i + 8))).val = BitVec.ofNat 64 (kExt k i)))

/-- RESUME lets a stopped context without a held record run again, or a parked Milliner; KILL and UNBIND without an
image take the context off its front end; STOP and INTR note A61, A62 or A60; SAVE starts the port, which, once the
engines rest, writes header and sections (R386) at IMGADDR; UNBIND after it leaves the image with the task; RESTORE of
an accepted image binds its state, and the port reports it; a gang restored by the dispatcher runs. RELCH unparks a
channel. A pending stop is taken at the checkpoint with a record, and inside a nest at its quiet point. A Crown write
of a weir entry reaches an unlocked segment, of a share or of none. (R305, R332, R348, R352, R358, R359, R360, R365,
R367, R386, R388, R389.) -/
def Obligations.CrownCommandsAct : Prop :=
  ∀ (s : State) (fe : FeId) (ch : Bool) (y : Task) (a : Word) (m : Ctx) (k : Kernel) (off : BitVec 16) (data : Word) (sw : BitVec 16),
    let c := s.ctx fe
    let stops (i : Instr) (f : Stops → Stops) : Prop := exec i s = .next (s.setCtx fe { c with stops := f c.stops })
    let off8 := off.toNat % 4096
    let core : CoreId := fe.extractLsb' 1 8
    let seg (t : State) : WeirSeg := segAt t core (off.toNat / 4096)
    (c.mayResume = true → RestsNothing c → ∃ t, exec (.resume fe) s = .next t ∧ (t.ctx fe).life = .running ∧ (t.ctx fe).parkB = none ∧
      (t.ctx fe).regs = c.regs ∧ (t.ctx fe).pend = c.pend ∧ SameMemory s t) ∧
    (c.life = .running →
      (c.gen.isParked = true → exec (.resume fe) s = .next (s.setCtx fe { c with gen := { c.gen with stat := .running } })) ∧
      stops (.stop fe 0#4) (fun x => { x with a61 := true }) ∧ stops (.stop fe 1#4) (fun x => { x with a62 := true }) ∧
      stops (.intr fe) (fun x => { x with a60 := some (x.a60.getD 0#16) }) ∧
      ((c.chan ch).parked.isSome = true → exec (.relch fe ch) s = .next (s.modChan fe ch (fun x => { x with parked := none }))) ∧
      (c.stops.silent = false → c.stops.engine = [] → c.stops.a60 = some sw → c.clean = true → c.frz = .none → c.idle ≠ .quiet →
        c.regs.loop.active = false → ∃ t, exec (.asyncStopTake fe) s = .next t ∧ (t.ctx fe).life = .stopped ∧
          (t.ctx fe).stops = { c.stops with a60 := none } ∧ (t.ctx fe).regs = c.regs) ∧
      (c.stops.silent = false → c.stops.engine = [] → c.stops.a60 = some sw → c.frz = .none → c.idle ≠ .quiet →
        c.regs.loop.active = true → exec (.asyncStopTake fe) s
          = .next (s.modCtx fe (fun c => { c with regs := { c.regs with loop := { c.regs.loop with stopreq := true } } }))) ∧
      (c.stops.silent = false → c.stops.engine = [] → c.stops.a60 = some sw → c.idle = .quiet → c.pend = [] →
        ∃ t, exec (.quietPoint fe) s = .next t ∧ (t.ctx fe).life = .stopped ∧ (t.ctx fe).chk.regs = c.regs ∧
          (t.ctx fe).chk.record = [] ∧ (t.ctx fe).stq.gate = [] ∧ (t.ctx fe).spm.undo = [])) ∧
    ((c.life = .running ∨ c.life = .stopped) → ∃ t, exec (.kill fe) s = .next t ∧ isBound (t.ctx fe) = false ∧
      ∀ z ∈ t.disp.tasks, z.id = c.ident.task → z.st = .failed) ∧
    (c.life = .stopped → c.img.busy = false →
      (exec (.save fe) s = .next (s.setCtx fe { c.releaseGate with img := { c.img with busy := true, pendSt := 0#4, saved := false } })) ∧
      (c.img.saved = false → ∃ t, exec (.unbind fe) s = .next t ∧ isBound (t.ctx fe) = false) ∧
      (c.img.saved = true → s.task c.ident.task = some y → y.st = .running → y.live = [fe] → y.torn = false →
        ∃ (t : State) (z : Task), exec (.unbind fe) s = .next t ∧ isBound (t.ctx fe) = false ∧ t.task c.ident.task = some z ∧
          z.st = .eligible ∧ z.images = true ∧ z.saved = y.saved ++ [(fe, c.img.addr)])) ∧
    (c.life = .stopped → c.img.busy = true → c.priOk = false → saveReady c = true → ∃ (t : State) (head body : List Byte),
      exec (.imagePortDone fe) s = .next t ∧ head.length = 256 ∧ (t.ctx fe).img.st = 1#4 ∧ (t.ctx fe).img.busy = false ∧
      (t.ctx fe).img.len = BitVec.ofNat 32 (256 + body.length) ∧ (t.ctx fe).regs = c.regs ∧
      (c.prot = false → body = (imageSections ((restEngines s fe).ctx fe).imaged).flatten) ∧
      ∀ j x, (head ++ body)[j]? = some x → memRead t.mem (c.img.addr.toNat + j) = x) ∧
    (checkImage s fe c.img.addr.toNat = (1#4, some m) → kernelOf s m.ident.kern = some k → c.life = .unbound →
      c.img.busy = false → c.held = [] → ∃ t, exec (.restore fe) s = .next t ∧ (t.ctx fe).life = m.life ∧
        (t.ctx fe).regs = m.regs ∧ (t.ctx fe).gen = m.gen ∧ (t.ctx fe).spm = m.spm ∧ (t.ctx fe).pend = m.pend ∧
        (t.ctx fe).img.busy = true ∧ (t.ctx fe).img.pendSt = 1#4) ∧
    (c.life = .unbound → c.img.busy = true → s.task c.ident.task = none →
      exec (.imagePortDone fe) s = .next (s.setCtx fe { c with img := { c.img with busy := false, st := c.img.pendSt } })) ∧
    (s.task y.id = some y → s.disp.en = true → s.disp.hold = false → y.st = .eligible → y.images = true → y.saved = [(fe, a)] →
      reaches s y.id = true → canPlace s y [] = true → checkImage s fe a.toNat = (1#4, some m) →
      kernelOf s m.ident.kern = some k → RestsNothing m → ∃ (t : State) (z : Task), exec (.gangRestore y.id) s = .next t ∧
        (t.ctx fe).life = .running ∧ (t.ctx fe).regs = m.regs ∧ t.task y.id = some z ∧ z.st = .running ∧ z.images = false) ∧
    ((∀ x, segOwner s core (off.toNat / 4096) = some x → crownMayWrite (s.ctx x.1) = true) →
      off8 % 8 = 0 → off8 < 0x800 → (seg s).locked = false → weirIllegal data = false →
      ∃ t, exec (.crownWeirWrite fe off data) s = .next t ∧ (seg t).entry (off8 / 8) = data ∧ (seg t).entryPoison (off8 / 8) = false ∧
        ∀ j, j ≠ off8 / 8 → (seg t).entry j = (seg s).entry j)

/-- Headwater registers a kernel with VALID; a legal region entry that overlaps no other becomes valid, also by its
MMIO address, where it then reads so. A legal GO starts a fill and clears the tag; a held die's fill starts when no
context is bound on it; the last granule copies a readable source to the Cistern and sets DONE (trace disabled); a
media error leaves a leading part copied and sets ERR. A plan that keeps its three owners takes effect at the next
frame boundary. Throttling moves the clock by a step of 100 MHz. E80, E81 and E83 stop each running context that they
touch at its checkpoint and freeze the trace. (R7, R25, R28, R222, R223, R224, R325, R328, R364, R425, R429.) -/
def Obligations.DeviceEventsAct : Prop :=
  ∀ (s : State) (handle : BitVec 32) (desc : List Word) (n : BitVec 6) (w0 data : Word) (die : BitVec 2) (task : Task) (kern : BitVec 32)
    (k : Kernel) (plan : List Byte) (d4 : BitVec 4) (hot : Bool) (touched : List FeId) (fe : FeId) (who : Agent),
    let p := portOf s die.toNat
    let d := 0x8000000000 + 0x20000000 * die.toNat + p.dst.toNat
    let r := { regionAt s n with base := (w0 &&& 0xFFFFFFFFFF000#64) ||| 1#64 }
    let stopped (t : State) (c : Cause) : Prop := (t.ctx fe).life = .stopped ∧ (t.ctx fe).parkB = some c ∧
      (t.ctx fe).regs.s = (s.ctx fe).chk.regs.s ∧ (t.ctx fe).regs.v = (s.ctx fe).chk.regs.v
    (handle.toNat < 65536 → desc.length = 16 → (∀ x ∈ desc[12]?, x = 0#64) →
      ∃ (t : State) (k' : Kernel), exec (.kernelRegister handle desc) s = .next t ∧ kernelOf t handle = some k' ∧
        ∀ i x, desc[i]? = some x → k'[i]?.getD 0#64 = if i = 10 then x ||| 0x10000#64 else x) ∧
    (mayWriteRegion who (regionAt s n) = true → r.first ≤ r.last → r.legal = true → regionOverlaps s n.toNat r = false →
      exec (.regionEntryValidate who n w0) s = .next { s with regions := vset s.regions n r } ∧
      (w0.getLsbD 0 = true → exec (.mmioWrite who (BitVec.ofNat 64 (0xF800000000 + 32 * n.toNat)) w0) s
        = .next { s with regions := vset s.regions n r }) ∧
      mmioRead { s with regions := vset s.regions n r } who (0xF800000000 + 32 * n.toNat) = r.base) ∧
    (p.busy = false → boundOn s die.toNat = 0 → p.dst.toNat + p.len.toNat ≤ 536870912 → fillSource p.src.toNat p.len.toNat = true →
      exec (.fillGo die data) s = .next (setPort s die.toNat { p with
        done := p.done && !data.getLsbD 2, err := p.err && !data.getLsbD 3, busy := true, tag := 0#32 })) ∧
    (p.hold = some (task.id, kern) → s.task task.id = some task → kernelOf s kern = some k → p.busy = false → boundOn s die.toNat = 0 →
      exec (.fillHoldFill die) s = .next (setPort s die.toNat { p with
        src := BitVec.ofNat 64 (kCimg k), dst := 0#64, len := BitVec.ofNat 64 (kClen k), busy := true, tag := 0#32 })) ∧
    (p.busy = true → p.hold = none → s.trace.en = false →
      (deadLine s p.src.toNat p.len.toNat = none → ∃ t, exec (.fillComplete die) s = .next t ∧ portOf t die.toNat = { p with busy := false, done := true } ∧
        (∀ j, j < p.len.toNat → memRead t.mem (d + j) = memRead s.mem (p.src.toNat + j)) ∧
        (∀ j, (j < d ∨ d + p.len.toNat ≤ j) → memRead t.mem j = memRead s.mem j)) ∧
      (∃ (t : State) (g : Nat), exec (.fillMediaError die) s = .next t ∧ g ≤ p.len.toNat / 256 ∧
        portOf t die.toNat = { p with busy := false, err := true } ∧
        (∀ j, j < 256 * g → memRead t.mem (d + j) = memRead s.mem (p.src.toNat + j)) ∧
        (∀ j, (j < d ∨ d + 256 * g ≤ j) → memRead t.mem j = memRead s.mem j))) ∧
    (plan.length = 64 → (∀ x ∈ plan, x.toNat ≤ 18) → 16#8 ∈ plan → 17#8 ∈ plan → 18#8 ∈ plan →
      exec (.fabricPlanWrite plan) s = .next { s with hw := { s.hw with planNew := some plan } }) ∧
    (s.hw.planNew = some plan → exec .fabricFrameBoundary s = .next { s with hw := { s.hw with plan := plan, planNew := none } }) ∧
    (∃ t, exec (.thermalThrottle d4 hot) s = .next t ∧ t.ctxs = s.ctxs ∧
      t.throttle = if hot then min 20 (s.throttle + 1) else s.throttle - 1) ∧
    ((s.ctx fe).life = .running → s.trace.frozen = false →
      (fe ∈ touched → (∃ t, exec (.internalParity touched) s = .next t ∧ stopped t .e80 ∧ t.trace.frozen = true ∧ t.trace.fcause = 0x80#8) ∧
        (∃ t, exec (.fabricTimeout touched) s = .next t ∧ stopped t .e81 ∧ t.trace.frozen = true ∧ t.trace.fcause = 0x81#8)) ∧
      (fe.toNat / 128 = d4.toNat →
        ∃ t, exec (.thermalTrip d4) s = .next t ∧ stopped t .e83 ∧ t.trace.frozen = true ∧ t.trace.fcause = 0x83#8))

/-- With the trace disabled: nothing arrives over a link that is down; a request on a parked port waits; an admitted
read in H bias answers with the bytes, an admitted write stores them except the bytes of a control block after its
word 0 and of a guarded header's CRC; a page that is not admitted or in D bias gives zeros with poison, or drops the
write, and is counted. A doorbell rings a queue that is on, a foreign one is counted, and its read answers with CONS;
behind a held write of the port, or on a parked port, each of the two waits. Enabling a queue accepts a legal
configuration, or sets BADCFG. A teardown or reset turns the queue off, drops its launches, ends or tears its tasks
and stops their contexts silently; when they are gone it reports TDONE, and a reset queue is on again. An
acknowledgement by another host is counted. A trained host link is up. (R353, R369, R393, R394, R395, R396, R397,
R400, R401, R402, R403, R423.) -/
def Obligations.HostAccessesAndQueuesAct : Prop :=
  ∀ (s : State) (port : Bool) (hpa : Word) (write : Option (List Byte)) (data : List Byte) (len : BitVec 8) (pz : Bool) (win q : BitVec 6)
    (i : Instr) (y : Task) (fe : FeId) (n : BitVec 6) (x : Word) (p3 : BitVec 3),
    let r : HostReq := ⟨port, hpa.toNat, write, len.toNat, pz, none⟩
    let l := portLink s port
    let flows : Prop := l.lup = true ∧ s.hw.parked.getLsbD (if port then 1 else 0) = false
    let open' : Prop := ∀ p ∈ r.pages, admitted s port p write.isSome = true ∧ biasOf s p = 1#2
    let clear : Prop := ∀ h ∈ s.heldHost, h.port = port → h.write = none
    let a := hpa.toNat
    let z := s.cwq win q
    let here : Option Nat := some (qNum win q)
    s.trace.en = false →
    (l.lup = false → exec (.hostMemAccess port hpa write len pz) s = .next s) ∧
    (l.lup = true → hostWaits s r = true → exec (.hostMemAccess port hpa write len pz) s = .next { s with heldHost := s.heldHost ++ [r] }) ∧
    (flows → open' →
      (write = none → exec (.hostMemAccess port hpa write len pz) s = .next ((hwRead s a len.toNat).emit (.hostData port (memReads s.mem a len.toNat)
        ((List.range len.toNat).any (fun i => hwPoison s (a + i)))))) ∧
      (write = some data → ∃ t, exec (.hostMemAccess port hpa write len pz) s = .next t ∧ t.ctxs = s.ctxs ∧
        ∀ k, memRead t.mem k = if a ≤ k ∧ k < a + data.length ∧ controlByte k = false ∧ crcByte s k = false then data.getD (k - a) 0#8
          else memRead s.mem k)) ∧
    (flows → (∃ p ∈ r.pages, admitted s port p write.isSome = false ∨ biasOf s p = 0#2) → hostWaits s r = false →
      exec (.hostMemAccess port hpa write len pz) s = .next (match write with
        | some _ => s.countError
        | none => s.countError.emit (.hostData port (List.replicate len.toNat 0#8) true))) ∧
    (l.lup = false → exec (.doorbell port win q) s = .next s ∧ exec (.doorbellRead port win q) s = .next s) ∧
    (flows → clear →
      (winOn s win = true → winPort s win = port → z.isOn = true →
        exec (.doorbell port win q) s = .next (s.putCwq win q { z with bell := true })) ∧
      (winOn s win = false ∨ winPort s win ≠ port → exec (.doorbell port win q) s = .next s.countError) ∧
      (winOn s win = true → winPort s win = port →
        exec (.doorbellRead port win q) s = .next (s.emit (.doorbellValue port z.cons)))) ∧
    (l.lup = true → s.hw.parked.getLsbD (if port then 1 else 0) = true ∨ ¬ clear →
      exec (.doorbell port win q) s = .next { s with heldHost := s.heldHost ++ [⟨port, 0, some [], 0, false, here⟩] } ∧
      exec (.doorbellRead port win q) s = .next { s with heldHost := s.heldHost ++ [⟨port, 0, none, 0, false, here⟩] }) ∧
    (winOn s win = true → (qWord0 s win q).getLsbD 0 = true → z.en = false → z.tearing = false →
      (badConfig s win q (qWord0 s win q) = true →
        exec (.queueEnable win q) s = .next (s.setCwq win q { z with en := true, isOn := false, badcfg := true })) ∧
      (badConfig s win q (qWord0 s win q) = false →
        exec (.queueEnable win q) s = .next (s.setCwq win q { z with
          en := true, isOn := true, badcfg := false, rbase := (qWord0 s win q).extractLsb' 8 12,
          qszl := (qWord0 s win q).extractLsb' 4 4, bell := true }))) ∧
    (winOn s win = true → z.tearing = false →
      ((i = .queueTeardown win q ∧ z.tearReq = true) ∨ (i = .queueReset win q ∧ z.rstReq = true)) →
      (∀ v ∈ s.disp.tasks, v.live = [] ∨ v.st = .running ∨ v.st = .failed) →
      ∃ t, exec i s = .next t ∧ (t.cwq win q).isOn = false ∧ (t.cwq win q).tearing = true ∧ (t.cwq win q).tdone = false ∧
        ((t.cwq win q).resetting = true ↔ i = .queueReset win q) ∧ t.disp.launchq = s.disp.launchq.filter (fun c => c.origin != here) ∧
        (∀ v ∈ t.disp.tasks, v.origin = here → v.torn = true) ∧
        (y ∈ s.disp.tasks → y.origin = here → y.torn = false → y.st = .running → (s.ctx fe).ident.task = y.id →
          isBound (s.ctx fe) = true → (t.ctx fe).stops.silent = true ∧ (t.ctx fe).life = (s.ctx fe).life)) ∧
    (z.tearing = true → (∀ v ∈ s.disp.tasks, v.torn = true → v.origin = here → taskBound s v.id = false) →
      ∃ t, exec (.teardownDone win q) s = .next t ∧
        t.cwq win q = { z with tearing := false, tdone := true, isOn := z.resetting && z.en && z.qszl != 0#4, bell := true } ∧
        ∀ v ∈ t.disp.tasks, v.origin = here → v.torn = false) ∧
    (exec (.hostAcknowledge port n x) s = .next (if hostOwns s n port then s else s.countError)) ∧
    ((2 ≤ p3.toNat → exec (.linkTrained p3) s = .next s) ∧
      (p3.toNat < 2 → port = (p3 == 1#3) → exec (.linkTrained p3) s
        = .next (setPortLink s port { l with lup := true, resyncDue := l.resyncDue || l.lost, lost := false })))

/-- No cluster's cache holds a line of [k, k + n), dirty or clean. -/
def NoneCached (t : State) (k n : Nat) : Prop :=
  ∀ p ∈ t.clusters, (∀ x ∈ p.2.l1d ++ p.2.ccd, inRange k n x = false) ∧ ∀ x ∈ p.2.copies, ¬ (k ≤ 64 * x.1 ∧ 64 * x.1 < k + n)

/-- A bias command is refused as a whole with BERR, or begins with its first page, which changes to FDH or FHD, and
counts a page that stands in the target already. The end of a flip leaves the page in its new state: to H with the
caches' dirty bytes written back and no cache holding the page, to D with a held request to it refused. A
back-invalidation of a BI line answers with its data, and no cache keeps it. An added extent becomes a valid entry
with its tag; a release takes the extent's entries out, drops its cached lines and is granted, or, unforced with a
page pinned, is refused and changes no entry. (R224, R402, R403, R404, R405, R408.) -/
def Obligations.BiasAndCapacityCommandsAct : Prop :=
  ∀ (s : State) (blk : BitVec 2) (dir : Bool) (page : BitVec 40) (r : HostReq) (addr : Word) (g : Region) (n : BitVec 6)
    (base limit attr : Word) (extent : BitVec 16) (forced : Bool),
    let l := linkOf s blk
    let i : Instr := if dir then .biasGoToD blk else .biasGoToH blk
    let src : BitVec 2 := if dir then 1#2 else 0#2
    let target : BitVec 2 := if dir then 0#2 else 1#2
    let first := l.bpage.extractLsb' 12 40
    let p := page.toNat
    let quiet : Prop := ∀ b : BitVec 2, b ≠ 3#2 → (linkOf s b).bbusy = false
    let k := addr.toNat / 64 * 64
    let e : Region := ⟨(base &&& 0xFFFFFFFFFF000#64) ||| 1#64, limit &&& 0xFFFFFFFFFF000#64, attr &&& 0xFF000000000F00BF#64,
      extent.setWidth 64⟩
    let rs := extentRegions s extent
    let pinned : Prop := ∃ x ∈ s.hw.pins, extentHas rs x = true
    (blk ≠ 3#2 →
      (biasRefused s blk = true → exec i s = .next (setLink s blk { l with berr := true })) ∧
      (biasRefused s blk = false → first.toNat < 0x6000000 →
        (biasOf s first.toNat = src → exec i s = .next (setBias
          (setLink s blk { l with bdir := dir, brdir := dir, btot := l.bcnt, bbusy := true, bdone := 0#16, bnext := first, bwait := 0 }) first.toNat (if dir then 3#2 else 2#2))) ∧
        (biasOf s first.toNat = target → l.bcnt = 1#16 → exec i s
          = .next (setLink s blk { l with bdir := dir, brdir := dir, btot := 1#16, bbusy := false, bdone := 1#16, bnext := first + 1#40, bwait := 0 })))) ∧
    (quiet → s.heldHost = [] →
      (biasOf s p = 2#2 → ∃ t, exec (.biasFlipToHDone page) s = .next t ∧ t = setBias (flushCaches s (4096 * p) 4096) p 1#2 ∧
        biasOf t p = 1#2 ∧ NoneCached t (4096 * p) 4096) ∧
      (biasOf s p = 3#2 → exec (.biasFlipToDDone page) s = .next (setBias s p 0#2))) ∧
    (quiet → s.heldHost = [r] → r.bell = none → p ∈ r.pages → biasOf s p = 3#2 →
      exec (.biasFlipToDDone page) s = .next (setBias (refuseHost { s with heldHost := [] } r) p 0#2)) ∧
    (regionOf s 0#2 k = some g → poolKey k = true → g.attr.extractLsb' 4 2 = 1#2 → ∃ t, exec (.poolBackInvalidate addr) s = .next t ∧
      NoneCached t k 64 ∧ t.outputs = s.outputs ++ [.poolAnswer addr (memReads t.mem k 64)] ∧ t.ctxs = s.ctxs) ∧
    ((regionAt s n).valid = true → ∃ t, exec (.dynamicCapacityAdd n base limit attr extent) s = .next t ∧ t.regions = s.regions) ∧
    ((regionAt s n).valid = false → e.first ≤ e.last → e.legal = true → regionOverlaps s n.toNat e = false →
      ∃ t, exec (.dynamicCapacityAdd n base limit attr extent) s = .next t ∧ t.regions = vset s.regions n e ∧ t.ctxs = s.ctxs) ∧
    (extent ≠ 0#16 →
      (pinned → forced = false → ∃ t, exec (.dynamicCapacityRelease extent forced) s = .next t ∧ t.regions = s.regions ∧
        t.ctxs = s.ctxs ∧ t.outputs.getLast? = some (.extentAnswer extent false)) ∧
      (¬ pinned ∨ forced = true → ∃ t, exec (.dynamicCapacityRelease extent forced) s = .next t ∧
        t.outputs.getLast? = some (.extentAnswer extent true) ∧
        (∀ j : BitVec 6, regionAt t j = if (regionAt s j).valid ∧ (regionAt s j).ext.extractLsb' 0 16 = extent
          then { regionAt s j with base := (regionAt s j).base &&& ~~~1#64 } else regionAt s j) ∧
        ∀ v ∈ rs, v.first ≤ v.last → NoneCached t (4096 * v.first) (4096 * (v.last + 1 - v.first))))

/-- The loss of a live pool head marks it lost, takes its port out of the secure and the parked ports, logs each SF
line with a store outstanding on it while the log has room, freezes the trace, and stops no context; a timeout is that
loss, but none runs while the link is parked; the log can be cleared. The loss of a host drops its held requests,
gives a tenant with FBHW = 1 to Headwater, and the contexts keep running. A key is refused in skid mode, for a
selective stream or without a port, else the port is secure; a failed MAC parks a secure port; a rekey in time resumes
it, a late one loses the head or host. (R364, R409, R411, R412, R420, R422.) -/
def Obligations.LossAndLinkEventsAct : Prop :=
  ∀ (s : State) (head : BitVec 2) (port : Bool) (p3 : BitVec 3) (skid sel : Bool) (fe : FeId) (tenant : BitVec 4),
    let hport := head.toNat + 2
    let pn : Nat := if port then 1 else 0
    let bit (v : Byte) (n : Nat) : Bool := v.getLsbD n
    let others (v w : Byte) (n : Nat) : Prop := ∀ m, m ≠ n → v.getLsbD m = w.getLsbD m
    let logs (t : State) (n : Nat) : Prop := s.hw.uwlog.length + (uncertainLines s n).length ≤ 256 →
      t.hw.uwlog = s.hw.uwlog ++ (uncertainLines s n).map (fun l => (64 * l, s.time))
    let f (i : BitVec 4) : BitVec 3 := vget 2#3 s.hw.agent i
    (s.hw.heads.getLsbD head.toNat = true → ∃ t, exec (.poolHeadLoss head) s = .next t ∧ t.ctxs = s.ctxs ∧
      (∀ m, t.hw.heads.getLsbD m = (s.hw.heads.getLsbD m && m != head.toNat)) ∧ bit t.hw.secure hport = false ∧
      bit t.hw.parked hport = false ∧ others t.hw.parked s.hw.parked hport ∧ t.trace.frozen = true ∧ logs t hport) ∧
    (s.hw.heads.getLsbD head.toNat = false → exec (.poolHeadLoss head) s = .next s) ∧
    (exec (.poolRequestTimeout head) s = if bit s.hw.parked hport then .next s else exec (.poolHeadLoss head) s) ∧
    (exec .uncertainWriteLogClear s = .next { s with hw := { s.hw with uwlog := [], uwovf := false } }) ∧
    ((portLink s port).lost = false → ∃ t, exec (.hostLoss port) s = .next t ∧ (portLink t port).lost = true ∧
      (portLink t port).lup = false ∧ t.heldHost = s.heldHost.filter (fun r => r.port != port) ∧ t.trace.frozen = true ∧
      bit t.hw.parked pn = false ∧ bit t.hw.secure pn = false ∧ (t.ctx fe).life = (s.ctx fe).life ∧ (t.ctx fe).regs = (s.ctx fe).regs ∧
      vget 2#3 t.hw.agent tenant
        = if (f tenant).extractLsb' 0 2 = (if port then 1#2 else 0#2) ∧ (f tenant).getLsbD 2 = true then 6#3 else f tenant) ∧
    ((portLink s port).lost = true → exec (.hostLoss port) s = .next s) ∧
    (exec (.hostRequestTimeout port) s = if bit s.hw.parked pn then .next s else exec (.hostLoss port) s) ∧
    (skid = true ∨ sel = true ∨ 6 ≤ p3.toNat → exec (.ideKmKeyProgramming p3 skid sel) s = .next (s.emit (.keyRefused p3))) ∧
    (p3.toNat < 6 →
      (skid = false → sel = false → ∃ t, exec (.ideKmKeyProgramming p3 skid sel) s = .next t ∧ bit t.hw.secure p3.toNat = true ∧
        others t.hw.secure s.hw.secure p3.toNat ∧ t.hw.parked = s.hw.parked ∧ t.ctxs = s.ctxs ∧ SameMemory s t) ∧
      (bit s.hw.secure p3.toNat = true → ∃ t, exec (.ideMacFailure p3) s = .next t ∧ bit t.hw.secure p3.toNat = false ∧
        bit t.hw.parked p3.toNat = true ∧ others t.hw.parked s.hw.parked p3.toNat ∧ others t.hw.secure s.hw.secure p3.toNat ∧
        t.ctxs = s.ctxs) ∧
      (bit s.hw.parked p3.toNat = true →
        (s.heldHost = [] → ∃ t, exec (.ideRekeyComplete p3) s = .next t ∧ bit t.hw.secure p3.toNat = true ∧
          bit t.hw.parked p3.toNat = false ∧ others t.hw.parked s.hw.parked p3.toNat ∧ t.ctxs = s.ctxs ∧ logs t p3.toNat) ∧
        (2 ≤ p3.toNat → exec (.ideRekeyTimeout p3) s = exec (.poolHeadLoss (BitVec.ofNat 2 (p3.toNat - 2))) s) ∧
        (p3.toNat < 2 → exec (.ideRekeyTimeout p3) s = exec (.hostLoss (p3 == 1#3)) s)))

/-- A reset keeps memory and runs the first bank, SEL before the other, that verifies and has fewer than three failed
attempts, else recovery mode; the watchdog's end, 60 s after the reset, counts an attempt and resets. HEALTHY within
the window makes the other bank SEL and RUN and lifts HOLD; live activation opens the window for an image that
verifies; its end keeps the old bank. While the window is open a measurement answers Busy, Redfish 503, and a RESYNC
waits; else the summary is written where it fits. Recovery takes an image into SEL's bank, and no other Redfish
request; a task action places a sealed entry; a changed AGENT drops the tenant's leaves and has its outstanding
accesses translate again; a trace event is written, counted when frozen, or ignored. (R414, R415, R416, R417, R418,
R419, R420, R421, R424, R425, R427.) -/
def Obligations.PlatformEventsAct : Prop :=
  ∀ (s : State) (img : FwImage) (mb : BitVec 8) (win : BitVec 6) (entry : List Word) (tenant : BitVec 4) (data w0 w1 : Word) (pd : Bool)
    (blk : BitVec 2),
    let f := s.fw
    let boots (t : State) (f : Firmware) : Prop := t.mem = s.mem ∧ t.ctxs = [] ∧ t.disp = State.reset.disp ∧ t.regions = State.reset.regions ∧
      t.hw.epoch = s.hw.epoch + 1 ∧ t.fw.att = f.att ∧ t.fw.banks = f.banks ∧ t.fw.act = false ∧
      (bootable f f.sel = true → t.fw.run = f.sel ∧ t.fw.watchdog = true ∧ t.fw.fback = false ∧ t.fw.recov = false) ∧
      (bootable f f.sel = false → bootable f (!f.sel) = true →
        t.fw.run = (!f.sel) ∧ t.fw.watchdog = true ∧ t.fw.fback = true ∧ t.fw.recov = false) ∧
      (bootable f f.sel = false → bootable f (!f.sel) = false → t.fw.recov = true)
    let all := measured s 1#8 ++ measured s 2#8 ++ measured s 3#8 ++ measured s 4#8 ++ measured s 5#8
    let g := if f.watchdog then f.setAtt f.run 0#2 else f
    let put := f.setBank (!f.run) img
    let x := s.cwq win 0#6
    let n := sealedCount s win x (2 ^ x.qszl.toNat)
    let at' := entryAddr win x (x.cons.toNat + n)
    let b := resyncBlk s blk
    let body := summary s false
    let key := if blk = 2#2 then (b.addr &&& ~~~63#64).toNat else hostKey (blk == 1#2) (b.addr &&& ~~~63#64).toNat
    let tr := 0x5F78000000 + 32 * s.trace.wptr.toNat
    (∃ t, exec .deviceReset s = .next t ∧ boots t f) ∧
    (f.watchdog = true → 60000000000 ≤ s.time.toNat → ∃ t, exec .bootWatchdogExpiry s = .next t ∧ boots t (f.setAtt f.run (bankAtt f f.run + 1#2))) ∧
    (f.watchdog = false ∨ s.time.toNat < 60000000000 → exec .bootWatchdogExpiry s = .next s) ∧
    (f.act = false → (f.watchdog = true → exec .healthyWrite s
        = .next { s with fw := { (f.setAtt f.run 0#2) with healthy := true, watchdog := false } }) ∧
      (f.watchdog = false → exec .healthyWrite s = .next { s with fw := { f with healthy := true } }) ∧
      exec .activationTimeout s = .next s) ∧
    (f.act = true →
      (windowLeft s ≠ 0 → (∃ t, exec .healthyWrite s = .next t ∧ t.disp = { s.disp with hold := false } ∧ t.ctxs = s.ctxs ∧
          t.fw = { g with act := false, sel := !f.run, run := !f.run, healthy := true, watchdog := false }) ∧ exec .activationTimeout s = .next s) ∧
      (windowLeft s = 0 → (f.watchdog = false → exec .healthyWrite s = .next { s with fw := { f with healthy := true } }) ∧
        ∃ t, exec .activationTimeout s = .next t ∧
        t.disp = { s.disp with hold := false } ∧ t.ctxs = s.ctxs ∧ t.fw = { f with act := false })) ∧
    (f.act = true ∨ f.recov = true → exec (.liveActivation img) s = .next s.countError) ∧
    (f.act = false → f.recov = false →
      (verifies img = true → exec (.liveActivation img) s
        = .next { s with fw := { put with act := true, actAt := s.time }, disp := { s.disp with hold := true } }) ∧
      (verifies img = false → ∃ t, exec (.liveActivation img) s = .next t ∧ t.fw = put ∧ t.disp = s.disp ∧ t.ctxs = s.ctxs)) ∧
    (exec (.getMeasurements mb) s = .next (s.emit (if f.act then .busy ((windowLeft s + 999999) / 1000000)
      else .measurement mb f.run (fwSvn (bankImage f f.run)) (if mb = 0#8 ∨ mb = 255#8 then all else measured s mb)))) ∧
    (exec .redfishComponentIntegrity s = .next (if f.recov then s.countError
      else s.emit (if f.act then .http503 (max 1 ((windowLeft s + 999999999) / 1000000000))
        else .measurement 0#8 f.run (fwSvn (bankImage f f.run)) all))) ∧
    (exec (.redfishFirmwareUpdate img) s = .next (if f.recov then { s with fw := f.setBank f.sel img } else s)) ∧
    ((f.recov = true ∨ winOn s win = false ∨ x.isOn = false ∨ 2 ^ x.qszl.toNat ≤ n →
        exec (.redfishTaskAction win entry) s = .next s.countError) ∧
      (f.recov = false → winOn s win = true → x.isOn = true → n < 2 ^ x.qszl.toNat →
        ∃ t, exec (.redfishTaskAction win entry) s = .next t ∧ t.cwq win 0#6 = { x with bell := true } ∧
          (∀ k, k < 7 → t.word8 (at' + 8 * k) = entry.getD k 0#64) ∧
          t.word8 (at' + 56) = BitVec.ofNat 64 (x.cons.toNat + n + 1))) ∧
    (∃ t, exec (.agentTableWrite tenant data) s = .next t ∧ SameMemory s t ∧
      (∀ j : BitVec 4, vget 2#3 t.hw.agent j = if j = tenant then data.extractLsb' 0 3 else vget 2#3 s.hw.agent j) ∧
      ((vget 2#3 s.hw.agent tenant).extractLsb' 0 2 = data.extractLsb' 0 2 → t.ctxs = s.ctxs ∧ t.cores = s.cores ∧ t.outputs = s.outputs) ∧
      ((vget 2#3 s.hw.agent tenant).extractLsb' 0 2 ≠ data.extractLsb' 0 2 → t.outputs = s.outputs ++ [.atsInvalidate tenant] ∧
        (∀ fe, t.ctx fe = if (s.ctx fe).ident.tenant = tenant then (s.ctx fe).staleAccesses (fun _ => true) else s.ctx fe) ∧
        ∀ p ∈ t.cores, ∀ l ∈ p.2.leaves ++ p.2.gleaves ++ p.2.cleaves.map (·.2), (s.ctx l.fe).ident.tenant ≠ tenant)) ∧
    (s.trace.en = false → exec (.traceEvent w0 w1) s = .next s) ∧
    (s.trace.en = true → s.trace.frozen = true → ∃ t, exec (.traceEvent w0 w1) s = .next t ∧ t.mem = s.mem ∧
      t.trace.wptr = s.trace.wptr ∧ t.trace.drops.toNat = min (s.trace.drops.toNat + 1) (2 ^ 32 - 1)) ∧
    (s.trace.en = true → s.trace.frozen = false → ∃ t, exec (.traceEvent w0 w1) s = .next t ∧
      t.trace = { s.trace with wptr := s.trace.wptr + 1#26, seq := s.trace.seq + 1#32 } ∧
      t.word8 tr = s.time ∧ t.word8 (tr + 8) = s.trace.seq ++ w0.extractLsb' 0 32 ∧
      t.word8 (tr + 16) = (w0.extractLsb' 32 32).setWidth 64 ∧ t.word8 (tr + 24) = w1 ∧
      ∀ a, a < tr ∨ tr + 32 ≤ a → memRead t.mem a = memRead s.mem a) ∧
    (exec .traceUnfreeze s = .next { s with trace := { s.trace with frozen := false } }) ∧
    (blk ≠ 3#2 →
      (b.busy = true → exec (.resyncGo blk) s = .next s.countError) ∧
      (b.busy = false → f.act = true → exec (.resyncGo blk) s = .next (setResync s blk { b with busy := true })) ∧
      (b.busy = false → f.act = false → (blk ≠ 2#2 → (portLink s (blk == 1#2)).resyncDue = false) →
        (b.len.toNat < body.length → exec (.resyncGo blk) s
          = .next (setResync s blk { b with busy := false, bytes := BitVec.ofNat 32 body.length, short := true })) ∧
        (body.length ≤ b.len.toNat → ∃ t, exec (.resyncGo blk) s = .next t ∧
          resyncBlk t blk = { b with busy := false, bytes := BitVec.ofNat 32 body.length, done := true } ∧
          ∀ j v, body[j]? = some v → memRead t.mem (key + j) = v)) ∧
      (b.busy = false → f.act = false → blk ≠ 2#2 → (portLink s (blk == 1#2)).resyncDue = true →
        ∃ t, exec (.resyncGo blk) s = .next t ∧ (portLink t (blk == 1#2)).resyncDue = false ∧
          (portLink t (blk == 1#2)).parkBuf = [] ∧ t.ctxs = s.ctxs)) ∧
    (f.recov = true → exec (.redfishResync pd) s = .next s.countError) ∧
    ((resyncBlk s 3#2).busy = false → f.act = false → f.recov = false → ∃ t, exec (.redfishResync pd) s = .next t ∧
      t.outputs = s.outputs ++ [.resync body] ∧ SameMemory s t ∧ t.ctxs = s.ctxs)

/-- With an empty agenda a step passes a cycle; a running context whose Milliner runs and whose GPC names a word of
the store then has that word in the agenda. An op word of the issuing group, a word of a running Milliner, a
micro-word or a Trimmer word at the head of the agenda that decodes to i makes the step exec of i there; an
undecodable one raises P00 in its slot, or runs as the illegal word of its set; the end of a group ends it; an event
runs. What a step adds: it takes the entry from the agenda, and notes the front end. (R29, R40, R52, R85, R193, R206.)
-/
def Obligations.StepRunsWhatStandsNext : Prop :=
  ∀ (s : State) (fe : FeId) (rest : List Act) (w : BitVec 64) (v : BitVec 32) (i : Instr) (e : DecodeError) (a : Act),
    let r := { s with agenda := rest }
    let at' := { s with agenda := rest, cur := fe }
    (s.agenda = [] → step s = .next (schedule s)) ∧
    (s.agenda = [] → (s.ctx fe).life = .running → (s.ctx fe).gen.stat = .running → genWord (tick s) fe = some v →
      ∃ t, step s = .next t ∧ Act.gen fe v ∈ t.agenda) ∧
    (s.agenda = a :: rest →
      (a = .ev i → step s = exec i r) ∧ (a = .fin fe → step s = .next (finishGroup r fe)) ∧
      (a = .op fe w → s.issue.any (fun j => j.fe == fe) = true → decodeOp w = .ok i → step s = exec i at') ∧
      (a = .op fe w → s.issue.any (fun j => j.fe == fe) = true → decodeOp w = .error e →
        step s = .next (opFault at' (w.extractLsb' 61 3) .p00 0#64)) ∧
      (a = .gen fe v → (s.ctx fe).life = .running → (s.ctx fe).gen.stat = .running →
        (decodeMilliner v = .ok i → step s = exec i at') ∧
        (decodeMilliner v = .error e → step s = exec (.illegalMillinerWord fe v) at')) ∧
      (a = .micro fe v → (decodeMicro v = .ok i → step s = exec i at') ∧
        (decodeMicro v = .error e → step s = exec (.illegalMicroWord fe v) at')) ∧
      (a = .trim fe v → (decodeTrimmer v = .ok i → step s = exec i at') ∧
        (decodeTrimmer v = .error e → step s = exec (.illegalTrimmerWord fe v) at')))

/-- Each word that the examples of the specification write out in full, one or more of every set, decodes to its
instruction with the operands that the example names: op words of the S, VA, M, L, ST, C and X slots, Milliner words,
micro-words and Trimmer words. (R29, R30, R43, R45, R46, R47, R48, R49, R50, R51.) -/
def Obligations.WordsOfTheSpecDecode : Prop :=
  let h : OpHdr := ⟨false, false, 0#3, 0#4⟩
  let sm : OpHdr := ⟨true, true, 0#3, 0#4⟩
  let st : OpHdr := ⟨true, false, 0#3, 0#4⟩
  decodeOp 0x08011861C0000000#64 = .ok (.add ⟨false, true, 0#3, 0#4⟩ 6#6 6#6 7#6) ∧
  decodeOp 0x00300C5180000000#64 = .ok (.ceq h 3#4 5#6 6#6) ∧
  decodeOp 0x0040003000000002#64 = .ok (.skip h 3#4 2#32) ∧
  decodeOp 0x20230C1083280000#64 = .ok (.vfma ⟨false, false, 0#3, 2#4⟩ false .f32 3#6 (.v 1#6) (.v 2#6) 3#6 .fmt) ∧
  decodeOp 0x2031202000080408#64 = .ok (.vquant h false .f32 8#6 (.v 2#6) true 8#4 .fmt) ∧
  decodeOp 0x2061308000080003#64 = .ok (.smstep h 12#6 (.v 8#6) 3#6 .fmt) ∧
  decodeOp 0x6002045000000000#64 = .ok (.mset h 1#3 5#6) ∧
  decodeOp 0x6001000000000180#64 = .ok (.mcall h 0#6 false true true false 0#6) ∧
  decodeOp 0x9001144070000080#64 = .ok (.ld st 5#6 4#6 3#3 true 0#2 0x80#24) ∧
  decodeOp 0x800B10A0E0000200#64 = .ok (.vldc h 4#6 10#6 7#3 0x200#24) ∧
  decodeOp 0x980A7176C00002F0#64 = .ok (.amo sm 28#6 23#6 27#6 0#6 true false 3#2 3#2 0#4) ∧
  decodeOp 0xA0024470E0001100#64 = .ok (.vst h 17#6 7#6 7#3 false 0#2 0x1100#24) ∧
  decodeOp 0xD80200D38F000000#64 = .ok (.cnl sm 13#6 14#6 15#6 0#3 false) ∧
  decodeOp 0xD804000000000050#64 = .ok (.cgo sm 1#3 false true 0#3 false) ∧
  decodeOp 0xF80100000000000A#64 = .ok (.fence sm 2#2 2#2) ∧
  decodeOp 0xF80D00000000002A#64 = .ok (.trap sm 0x2A#16) ∧
  decodeOp 0xF810004146000001#64 = .ok (.seal_ sm 4#6 5#6 6#6 1#2) ∧
  decodeOp 0xF8151C6000000000#64 = .ok (.wx sm 7#6 6#6 0#2) ∧
  decodeMilliner 0x84496000#32 = .ok (.tpat 0#3 4#3 9#4 12#5 0#11) ∧
  decodeMilliner 0x94000000#32 = .ok (.emitm 0#3) ∧
  decodeMilliner 0x5528FFFC#32 = .ok (.gblt 9#5 8#5 0xFFFC#16) ∧
  decodeMilliner 0xB0000001#32 = .ok (.gtrap 1#16) ∧
  decodeMilliner 0x99EB7000#32 = .ok (.emitr 15#5 11#5 14#5) ∧
  decodeMicro 0x29570000#32 = .ok (.stepk 1#3 2#3 5#3 6#3) ∧
  decodeMicro 0x48000001#32 = .ok (.loop 0#3 0#3 1#16) ∧
  decodeTrimmer 0x08000000#32 = .ok (.trimTld false 0#6) ∧
  decodeTrimmer 0x50000001#32 = .ok (.trsum true) ∧
  decodeTrimmer 0x6800281A#32 = .ok (.tmulr 40#8 6#6 2#2) ∧
  decodeTrimmer 0x58000018#32 = .ok (.tqnt true 8#4)

/-- For every instruction with every operand at every value: if it has an op word, that word decodes to it, and so for
a Milliner word, a micro-word and a Trimmer word; every op has a word; and a word that decodes to an instruction is
the one word that the instruction encodes to, so that no bit of a word is ignored. (R29, R30, R31, R32, R43, R47, R50,
R51.) -/
def Obligations.EncodingAndDecodingAgree : Prop :=
  ∀ i : Instr,
    (∀ w, encodeOp i = some w ↔ decodeOp w = .ok i) ∧ (∀ w, encodeMilliner i = some w ↔ decodeMilliner w = .ok i) ∧
    (∀ w, encodeMicro i = some w ↔ decodeMicro w = .ok i) ∧ (∀ w, encodeTrimmer i = some w ↔ decodeTrimmer w = .ok i) ∧
    ((opHdr i).isSome = true → ∃ w, encodeOp i = some w)

/-- The guard acts lane by lane or byte by byte: vector ops, `vldg`, `vlds`, `vsts`, `vstm` (R42, R146, R236, R237). -/
def GuardByLane (i : Instr) (w : BitVec 64) : Prop :=
  w.extractLsb' 61 3 = 1#3 ∨ w.extractLsb' 61 3 = 2#3 ∨ (∃ h t d a b, i = .vldg h t d a b) ∨ (∃ h t d a b, i = .vlds h t d a b) ∨
  (∃ h t d a b, i = .vsts h t d a b) ∨ ∃ h d a size kind scope off, i = .vstm h d a size kind scope off

/-- For every op instruction, outside the commit buffer: with STAGE k nonzero and SPk = 0 an op with legal fields
leaves the state as it is, as one under a skip, and one with illegal fields does so or raises P00; with SPk = 1 or no
stage it is not squashed by a stage. An op whose guard acts as a whole and has bit 0 = 0 leaves the state as it is. An
op that executes with illegal fields raises P00 in its slot, and one with a poisoned guard D40, or P00 where the
context has no such timeline or channel. (R41.) -/
def Obligations.StagesAndGuardsDecideWhatExecutes : Prop :=
  ∀ (s : State) (i : Instr) (h : OpHdr) (w : BitVec 64), opHdr i = some h → encodeOp i = some w → committing s = none →
    let g := s.here.rP h.g
    let faults (c : Cause) : Prop := exec i s = .next (opFault s (w.extractLsb' 61 3) c 0#64)
    let skipped : Bool := s.issue.any (fun j => j.skipped)
    let stageOff : Prop := h.stage ≠ 0#3 ∧ s.here.regs.loop.sp.getLsbD (h.stage.toNat - 1) = false
    ((stageOff ∨ skipped = true) →
      (i.wf = true → exec i s = .next s) ∧ (i.wf = false → exec i s = .next s ∨ faults .p00)) ∧
    (¬ stageOff → skipped = false →
      (i.wf = true → ¬ GuardByLane i w → g.poison = false → g.bits.getLsbD 0 = false → exec i s = .next s) ∧
      (i.wf = false → g.poison = false → g.bits.getLsbD 0 = true → faults .p00) ∧
      (i.wf = true → g.poison = true → faults .d40 ∨ faults .p00))

/-- The ops that read memory while they issue, so that a guarded line may be counted (R323, R324). -/
def readsAtIssue : Instr → Bool
  | .vldc .. | .lsq .. | .wld .. | .launch .. | .pref .. => true
  | _ => false

/-- When an op of an issuing group answers a next state, the scalar, vector, predicate and matrix registers, and FMT
of every context are as they were (what it writes lands at a later beat), and KVPOL too, unless it reads memory while
it issues (vldc, lsq, wld, launch, pref), the front end is the same, the group still issues, and no register of
another context has changed. No byte of memory has changed, unless the op is a sigdec, or is one of those readers
while the flight trace is enabled. (R40, R53, R114, R232, R239, R336.) -/
def Obligations.IssuingOpsChangeNoRegister : Prop :=
  ∀ (s t : State) (i : Instr), (opHdr i).isSome = true → s.issue.isSome = true → exec i s = .next t →
    t.cur = s.cur ∧ t.issue.isSome = true ∧ t.agenda = s.agenda ∧
    (∀ fe : FeId, (t.ctx fe).regs.s = (s.ctx fe).regs.s ∧ (t.ctx fe).regs.v = (s.ctx fe).regs.v ∧
      (t.ctx fe).regs.p = (s.ctx fe).regs.p ∧ (t.ctx fe).regs.m = (s.ctx fe).regs.m ∧
      (t.ctx fe).regs.fmt = (s.ctx fe).regs.fmt ∧
      (readsAtIssue i = false → (t.ctx fe).regs.kvpol = (s.ctx fe).regs.kvpol)) ∧
    ((∀ h a b f, i ≠ .sigdec h a b f) → (readsAtIssue i = false ∨ s.trace.en = false) → SameMemory s t)

/-- The words of a level-B trap record (R362). -/
def LevelBRecord (r : Nat → Word) (cause : Cause) (faults : List (BitVec 3)) (fe : FeId) (prov word addr : Word) (task : BitVec 32)
    (tenant : BitVec 4) (time : Word) : Prop :=
  (r 0).extractLsb' 0 8 = cause.code ∧ (r 0).getLsbD 8 = false ∧ (∀ b, b < 8 → ((r 0).getLsbD (9 + b) = true ↔ ∃ f ∈ faults, f.toNat = b)) ∧
  (r 0).extractLsb' 17 9 = fe ∧ (r 0).extractLsb' 26 22 = 0#22 ∧ (cause ≠ .t20 → (r 0).extractLsb' 48 16 = 0#16) ∧
  r 1 = prov ∧ r 2 = word ∧ r 3 = addr ∧ r 4 = 0#64 ∧ r 5 = 0#64 ∧ r 6 = (0#28 ++ tenant ++ task : BitVec 64) ∧ r 7 = time

/-- With the trace disabled and no other group to begin: a group without faults leaves the Runnel and its beat passes;
a mark group's checkpoint holds the registers, the snapshot that travelled with it, the landing record, its provenance
and first word. Faults roll the context back to the checkpoint's registers, drop the gate and undo log, and empty the
Runnel; the record carries the lowest slot's cause, the mask of all, FEID, provenance, word, address, task and TIME,
goes to the ring or is held, and the class kills the context or stops it. More than 32 landings after a mark are P01.
Debug shadows stop with A62; a group that cannot issue freezes its context, or stops it where its stream met a
translation fault. (R35, R40, R54, R111, R355, R356, R357, R358, R362, R363, R364.) -/
def Obligations.GroupsEndInCommitFaultOrFreeze : Prop :=
  ∀ (s : State) (i : Issue) (rest : List Act) (f : BitVec 3 × Cause × Word × Word) (z : Frz),
    let fe := i.fe
    let c := s.ctx fe
    let o := i.saved
    let cl := s.cluster (clusterOf fe)
    let a := cl.trbase.toNat + 64 * (cl.trhead.toNat % 2 ^ (cl.trctl.extractLsb' 0 4).toNat)
    let ring := ringEnabled cl && !ringFull cl && o.held.isEmpty
    let record (r : Nat → Word) : Prop := LevelBRecord r f.2.1 (i.faults.map (·.1)) fe i.grp.prov f.2.2.2
      (if f.2.1 = .p00 then storeAddrOf i.grp f.1 else f.2.2.1) o.ident.task o.ident.tenant s.time
    let full : Prop := i.mark = true ∧ 32 < c.pend.length
    let back (d : Ctx) : Prop := d.regs.s = o.chk.regs.s ∧ d.regs.v = o.chk.regs.v ∧ d.regs.p = o.chk.regs.p ∧ d.regs.m = o.chk.regs.m ∧
      d.regs.fmt = o.chk.regs.fmt ∧ d.regs.kvpol = o.chk.regs.kvpol ∧ d.regs.skip = o.chk.regs.skip ∧ d.regs.loop = o.chk.regs.loop ∧
      d.regs.softmax = o.chk.regs.softmax ∧ d.regs.win = o.chk.regs.win ∧ d.stq.gate = [] ∧ d.spm.undo = [] ∧ d.gen.runnel = [] ∧
      d.gen.g = o.chk.gen.g ∧ d.gen.b = o.chk.gen.b ∧ d.gen.gpc = o.chk.gen.gpc ∧ d.gen.eprog = o.chk.gen.eprog
    s.trace.en = false → s.agenda = .fin fe :: rest → s.issue = some i → i.pair = none → i.rival = none →
    (i.retry = none → i.commit = none → i.faults = [] → ¬ full → i.skipped = false → i.replay = false →
      o.regs.loop.active = false → o.regs.win.opened = false →
      ∃ t, step s = .next t ∧ t.agenda = rest ∧ t.issue = none ∧ SameMemory s t ∧ (t.ctx fe).regs = c.regs ∧
        (t.ctx fe).beat = c.beat + 1 ∧ (t.ctx fe).gen.runnel = c.gen.runnel.tail ∧
        (i.mark = false → (t.ctx fe).chk = c.chk ∧ (t.ctx fe).clean = false ∧ (t.ctx fe).pend = (c.fillSrc i).pend) ∧
        (i.mark = true → (t.ctx fe).clean = true ∧ (t.ctx fe).pend = (c.fillSrc i).pend.map (fun p => { p with recorded := true }) ∧
          (t.ctx fe).chk = ⟨c.regs, i.grp.snap.getD c.gen.snap, (t.ctx fe).pend, c.beat + 1, i.grp.prov, firstWord i.grp.words, c.idle == .endOp⟩)) ∧
    (i.retry = none → i.commit = none → f ∈ i.faults → (∀ g ∈ i.faults, (g = f ∨ f.1 < g.1) ∧ g.2.1 ≠ .a62) →
      ∃ t, step s = .next t ∧ t.agenda = rest ∧ t.issue = none ∧
        (ring = false → ∃ r : TrapRec, (t.ctx fe).held = o.held ++ [r] ∧ record (fun k => r.w[k]?.getD 0#64)) ∧
        (ring = true → a + 64 ≤ 2 ^ 60 → record (fun k => t.word8 (a + 8 * k)) ∧ (t.ctx fe).held = o.held ∧
          (t.cluster (clusterOf fe)).trhead = cl.trhead + 1#32) ∧
        (f.2.1.cls = .p → isBound (t.ctx fe) = false ∧ ∀ y ∈ t.disp.tasks, y.id = o.ident.task → y.st = .failed) ∧
        (f.2.1.cls = .t ∨ f.2.1.cls = .d → (t.ctx fe).life = .stopped ∧ (t.ctx fe).parkB = some f.2.1 ∧ back (t.ctx fe))) ∧
    (i.retry = none → i.commit = none → i.faults = [] → full →
      ∃ t, step s = .next t ∧ isBound (t.ctx fe) = false ∧ ∀ y ∈ t.disp.tasks, y.id = o.ident.task → y.st = .failed) ∧
    (i.retry = none → i.commit = none → i.faults ≠ [] → (∀ g ∈ i.faults, g.2.1 = .a62) → o.stops.silent = false → o.stops.engine = [] →
      ∃ t, step s = .next t ∧ (t.ctx fe).life = .stopped ∧ (t.ctx fe).parkB = none ∧ back (t.ctx fe)) ∧
    (i.retry = some z → i.commit = none → (∀ ea b, z ≠ .translate ea b) → (∀ k ea, z ≠ .spout k ea) →
      ∃ t, step s = .next t ∧ t.issue = none ∧ t.ctx fe = { o with deny := c.deny, asked := c.asked, frz := z } ∧ SameMemory s t) ∧
    (∀ k ea, i.retry = some (.spout k ea) → i.commit = none → k.cls = .t →
      ∃ t, step s = .next t ∧ (t.ctx fe).life = .stopped ∧ (t.ctx fe).parkB = some k ∧ back (t.ctx fe)) ∧
    (i.retry = none → (∃ e, i.commit = some e) → i.faults = [] → step s = .next (
      { s with agenda := rest, issue := none }.modCtx fe (fun c => { c with
        regs := { c.regs with win := { c.regs.win with entries := c.regs.win.entries.tail }.close } })))

/-- For every state whose memory is in canonical form (rising addresses, no entry equal to what an unlisted byte reads
as), the step answers a next state whose memory is in canonical form: every instruction and every event, whatever the
rest of the state holds. The canonical form is the model's own (assumption log 1). (R3, R27, R213, R232, R255.) -/
def Obligations.StepKeepsMemoryCanonical : Prop :=
  ∀ s : State, memWf s.mem → ∃ t : State, step s = .next t ∧ memWf t.mem

/-- At reset memory is in canonical form, with nothing listed; every front end is unbound, with nothing held and
IMGADDR, IMGLEN 0; DCTL has PTHR 16, HOLD 0, EN 0; slots 0 to 60 of the fabric plan belong to tenant 0, the last three
to management, trace and refresh; no region entry is valid; every trap ring, host-link block and command window is
off; sources 0 to 9 belong on package, and the others read 0; every tenant's agent is Headwater without FBHW; tracing
is on, not frozen, with nothing dropped; pages of the command windows are H and all others D. (R22, R25, R223, R333,
R363, R365, R368, R395, R396, R402, R420, R425.) -/
def Obligations.ResetLeavesTheStatedValues : Prop :=
  memWf State.reset.mem ∧ State.reset.mem = [] ∧
  (∀ fe, (State.reset.ctx fe).life = .unbound ∧ (State.reset.ctx fe).held = [] ∧ (State.reset.ctx fe).img.addr = 0#64 ∧
    (State.reset.ctx fe).img.len = 0#32) ∧
  (State.reset.disp.pthr = 16#8 ∧ State.reset.disp.hold = false ∧ State.reset.disp.en = false ∧ State.reset.disp.tasks = []) ∧
  (State.reset.hw.plan.length = 64 ∧ (∀ n, n < 61 → State.reset.hw.plan[n]? = some 0#8) ∧ State.reset.hw.plan[61]? = some 16#8 ∧
    State.reset.hw.plan[62]? = some 17#8 ∧ State.reset.hw.plan[63]? = some 18#8) ∧
  (∀ n, (regionAt State.reset n).valid = false) ∧
  (∀ k, (State.reset.cluster k).trctl = 0#6 ∧ (State.reset.cluster k).trbase = 0#64 ∧ (State.reset.cluster k).trhead = 0#32 ∧
    (State.reset.cluster k).trtail = 0#32) ∧
  (∀ b, linkOf State.reset b = HostLink.reset) ∧ HostLink.reset.hevctl = 0#6 ∧ HostLink.reset.bbusy = false ∧ HostLink.reset.bcnt = 0#16 ∧
  (∀ w, winOn State.reset w = false) ∧
  (∀ n : BitVec 6, vget ⟨0#16, false, false, false⟩ State.reset.owners n = ⟨0#16, false, decide (n.toNat < 10), false⟩) ∧
  (∀ t : BitVec 4, vget 0#3 State.reset.hw.agent t = 2#3) ∧
  (State.reset.trace.en = true ∧ State.reset.trace.frozen = false ∧ State.reset.trace.drops = 0#32 ∧ State.reset.trace.wptr = 0#26) ∧
  (∀ page, biasOf State.reset page = if 0x5FFC000 ≤ page ∧ page < 0x6000000 then 1#2 else 0#2)
end

