-- ==== Sys2Proof/Laws/Encoding.lean ====
section
/-! SUPPORT. The fields of a packed op word, read back (R30), and what a decoder that checks its word accepts (R32). -/
namespace Sys2Proof

section Fields
variable (s : BitVec 3) (h : OpHdr) (o : BitVec 8) (d a b c : BitVec 6) (t : BitVec 4) (x : BitVec 16) (i : BitVec 32)
  (z : BitVec 3) (k : BitVec 1) (sc : BitVec 2) (f : BitVec 24)

@[simp] theorem fSlot_packR : fSlot (packR s h o d a b c t x) = s := by
  unfold fSlot packR
  repeat (first | rw [BitVec.extractLsb'_append_eq_of_le (by decide)] | rw [BitVec.extractLsb'_append_eq_of_add_le (by decide)])
  exact BitVec.extractLsb'_eq_self
@[simp] theorem fOpc_packR : fOpc (packR s h o d a b c t x) = o := by
  unfold fOpc packR
  repeat (first | rw [BitVec.extractLsb'_append_eq_of_le (by decide)] | rw [BitVec.extractLsb'_append_eq_of_add_le (by decide)])
  exact BitVec.extractLsb'_eq_self
@[simp] theorem fD_packR : fD (packR s h o d a b c t x) = d := by
  unfold fD packR
  repeat (first | rw [BitVec.extractLsb'_append_eq_of_le (by decide)] | rw [BitVec.extractLsb'_append_eq_of_add_le (by decide)])
  exact BitVec.extractLsb'_eq_self
@[simp] theorem fA_packR : fA (packR s h o d a b c t x) = a := by
  unfold fA packR
  repeat (first | rw [BitVec.extractLsb'_append_eq_of_le (by decide)] | rw [BitVec.extractLsb'_append_eq_of_add_le (by decide)])
  exact BitVec.extractLsb'_eq_self
@[simp] theorem fB_packR : fB (packR s h o d a b c t x) = b := by
  unfold fB packR
  repeat (first | rw [BitVec.extractLsb'_append_eq_of_le (by decide)] | rw [BitVec.extractLsb'_append_eq_of_add_le (by decide)])
  exact BitVec.extractLsb'_eq_self
@[simp] theorem fC_packR : fC (packR s h o d a b c t x) = c := by
  unfold fC packR
  repeat (first | rw [BitVec.extractLsb'_append_eq_of_le (by decide)] | rw [BitVec.extractLsb'_append_eq_of_add_le (by decide)])
  exact BitVec.extractLsb'_eq_self
@[simp] theorem fT_packR : fT (packR s h o d a b c t x) = t := by
  unfold fT packR
  repeat (first | rw [BitVec.extractLsb'_append_eq_of_le (by decide)] | rw [BitVec.extractLsb'_append_eq_of_add_le (by decide)])
  exact BitVec.extractLsb'_eq_self
@[simp] theorem hdrR_packR : hdrR (packR s h o d a b c t x) = h := by
  obtain ⟨st, mk, sg, g⟩ := h
  unfold hdrR packR
  congr 1
  · repeat rw [BitVec.getLsbD_append]
    simp
  · repeat rw [BitVec.getLsbD_append]
    simp
  all_goals
    repeat (first | rw [BitVec.extractLsb'_append_eq_of_le (by decide)] | rw [BitVec.extractLsb'_append_eq_of_add_le (by decide)])
    exact BitVec.extractLsb'_eq_self
/-- A field within AUX. -/
theorem extract_packR (j n : Nat) (hn : j + n ≤ 16) : (packR s h o d a b c t x).extractLsb' j n = x.extractLsb' j n := by
  unfold packR
  rw [BitVec.extractLsb'_append_eq_of_add_le hn]
theorem getLsbD_packR (j : Nat) (hj : j < 16) : (packR s h o d a b c t x).getLsbD j = x.getLsbD j := by
  unfold packR
  rw [BitVec.getLsbD_append, if_pos hj]

@[simp] theorem fSlot_packI : fSlot (packI s h o d a i) = s := by
  unfold fSlot packI
  repeat (first | rw [BitVec.extractLsb'_append_eq_of_le (by decide)] | rw [BitVec.extractLsb'_append_eq_of_add_le (by decide)])
  exact BitVec.extractLsb'_eq_self
@[simp] theorem fOpc_packI : fOpc (packI s h o d a i) = o := by
  unfold fOpc packI
  repeat (first | rw [BitVec.extractLsb'_append_eq_of_le (by decide)] | rw [BitVec.extractLsb'_append_eq_of_add_le (by decide)])
  exact BitVec.extractLsb'_eq_self
@[simp] theorem fD_packI : fD (packI s h o d a i) = d := by
  unfold fD packI
  repeat (first | rw [BitVec.extractLsb'_append_eq_of_le (by decide)] | rw [BitVec.extractLsb'_append_eq_of_add_le (by decide)])
  exact BitVec.extractLsb'_eq_self
@[simp] theorem fA_packI : fA (packI s h o d a i) = a := by
  unfold fA packI
  repeat (first | rw [BitVec.extractLsb'_append_eq_of_le (by decide)] | rw [BitVec.extractLsb'_append_eq_of_add_le (by decide)])
  exact BitVec.extractLsb'_eq_self
@[simp] theorem hdrI_packI : hdrI (packI s h o d a i) = h := by
  obtain ⟨st, mk, sg, g⟩ := h
  unfold hdrI packI
  congr 1
  · repeat rw [BitVec.getLsbD_append]
    simp
  · repeat rw [BitVec.getLsbD_append]
    simp
  all_goals
    repeat (first | rw [BitVec.extractLsb'_append_eq_of_le (by decide)] | rw [BitVec.extractLsb'_append_eq_of_add_le (by decide)])
    exact BitVec.extractLsb'_eq_self
/-- A field within IMM32. -/
theorem extract_packI (j n : Nat) (hn : j + n ≤ 32) : (packI s h o d a i).extractLsb' j n = i.extractLsb' j n := by
  unfold packI
  rw [BitVec.extractLsb'_append_eq_of_add_le hn]
theorem getLsbD_packI (j : Nat) (hj : j < 32) : (packI s h o d a i).getLsbD j = i.getLsbD j := by
  unfold packI
  rw [BitVec.getLsbD_append, if_pos hj]

@[simp] theorem fSlot_packM : fSlot (packM s h o d a z k sc f) = s := by
  unfold fSlot packM
  repeat (first | rw [BitVec.extractLsb'_append_eq_of_le (by decide)] | rw [BitVec.extractLsb'_append_eq_of_add_le (by decide)])
  exact BitVec.extractLsb'_eq_self
@[simp] theorem fOpc_packM : fOpc (packM s h o d a z k sc f) = o := by
  unfold fOpc packM
  repeat (first | rw [BitVec.extractLsb'_append_eq_of_le (by decide)] | rw [BitVec.extractLsb'_append_eq_of_add_le (by decide)])
  exact BitVec.extractLsb'_eq_self
@[simp] theorem fD_packM : fD (packM s h o d a z k sc f) = d := by
  unfold fD packM
  repeat (first | rw [BitVec.extractLsb'_append_eq_of_le (by decide)] | rw [BitVec.extractLsb'_append_eq_of_add_le (by decide)])
  exact BitVec.extractLsb'_eq_self
@[simp] theorem fA_packM : fA (packM s h o d a z k sc f) = a := by
  unfold fA packM
  repeat (first | rw [BitVec.extractLsb'_append_eq_of_le (by decide)] | rw [BitVec.extractLsb'_append_eq_of_add_le (by decide)])
  exact BitVec.extractLsb'_eq_self
@[simp] theorem hdrI_packM : hdrI (packM s h o d a z k sc f) = h := by
  obtain ⟨st, mk, sg, g⟩ := h
  unfold hdrI packM
  congr 1
  · repeat rw [BitVec.getLsbD_append]
    simp
  · repeat rw [BitVec.getLsbD_append]
    simp
  all_goals
    repeat (first | rw [BitVec.extractLsb'_append_eq_of_le (by decide)] | rw [BitVec.extractLsb'_append_eq_of_add_le (by decide)])
    exact BitVec.extractLsb'_eq_self
@[simp] theorem size_packM : (packM s h o d a z k sc f).extractLsb' 29 3 = z := by
  unfold packM
  repeat (first | rw [BitVec.extractLsb'_append_eq_of_le (by decide)] | rw [BitVec.extractLsb'_append_eq_of_add_le (by decide)])
  exact BitVec.extractLsb'_eq_self
@[simp] theorem kind_packM : (packM s h o d a z k sc f).getLsbD 28 = k.getLsbD 0 := by
  unfold packM
  repeat rw [BitVec.getLsbD_append]
  simp
@[simp] theorem scope_packM : (packM s h o d a z k sc f).extractLsb' 26 2 = sc := by
  unfold packM
  repeat (first | rw [BitVec.extractLsb'_append_eq_of_le (by decide)] | rw [BitVec.extractLsb'_append_eq_of_add_le (by decide)])
  exact BitVec.extractLsb'_eq_self
@[simp] theorem off_packM : (packM s h o d a z k sc f).extractLsb' 0 24 = f := by
  unfold packM
  repeat (first | rw [BitVec.extractLsb'_append_eq_of_le (by decide)] | rw [BitVec.extractLsb'_append_eq_of_add_le (by decide)])
  exact BitVec.extractLsb'_eq_self

end Fields

/-- The codes of types, rounding modes and sources, read back. -/
@[simp] theorem VTy.ofBits_bits (t : VTy) : VTy.ofBits t.bits = some t := by cases t <;> rfl
@[simp] theorem ITy.ofBits_bits (t : ITy) : ITy.ofBits t.bits = some t := by cases t <;> rfl
@[simp] theorem FTy.ofBits_bits (t : FTy) : FTy.ofBits t.bits = some t := by cases t <;> rfl
@[simp] theorem BTy.ofBits_bits (t : BTy) : BTy.ofBits t.bits = some t := by cases t <;> rfl
@[simp] theorem Rms.ofBits_bits (r : Rms) : Rms.ofBits r.bits = some r := by
  cases r with
  | fmt => rfl
  | mode m => revert m; decide
@[simp] theorem VSrc.ofBits_num (v : VSrc) : VSrc.ofBits v.isQ v.num = v := by
  cases v with
  | v n => rfl
  | q n => simp [VSrc.ofBits, VSrc.isQ, VSrc.num]

/-- A word whose raw decoding encodes to it is accepted. -/
theorem checkWord_ok {n : Nat} {enc : Instr → Option (BitVec n)} {w : BitVec n} {raw : Option Instr} {i : Instr}
    (hr : raw = some i) (he : enc i = some w) : checkWord enc w raw = .ok i := by
  subst hr
  exact if_pos he
/-- An accepted word is the one word that its instruction encodes to (R32). -/
theorem checkWord_enc {n : Nat} {enc : Instr → Option (BitVec n)} {w : BitVec n} {raw : Option Instr} {i : Instr}
    (h : checkWord enc w raw = .ok i) : enc i = some w := by
  unfold checkWord at h
  split at h
  · cases h
  · split at h
    · cases h; assumption
    · cases h

/-- An op word is decoded by the map of its slot (R29, R43 to R49). -/
theorem decodeOpRaw_S {w : BitVec 64} (h : fSlot w = 0#3) : decodeOpRaw w = decodeS w := by unfold decodeOpRaw; rw [h]; rfl
theorem decodeOpRaw_VA {w : BitVec 64} (h : fSlot w = 1#3) : decodeOpRaw w = decodeV false w := by unfold decodeOpRaw; rw [h]; rfl
theorem decodeOpRaw_VB {w : BitVec 64} (h : fSlot w = 2#3) : decodeOpRaw w = decodeV true w := by unfold decodeOpRaw; rw [h]; rfl
theorem decodeOpRaw_M {w : BitVec 64} (h : fSlot w = 3#3) : decodeOpRaw w = decodeM w := by unfold decodeOpRaw; rw [h]; rfl
theorem decodeOpRaw_L {w : BitVec 64} (h : fSlot w = 4#3) : decodeOpRaw w = decodeL w := by unfold decodeOpRaw; rw [h]; rfl
theorem decodeOpRaw_St {w : BitVec 64} (h : fSlot w = 5#3) : decodeOpRaw w = decodeSt w := by unfold decodeOpRaw; rw [h]; rfl
theorem decodeOpRaw_C {w : BitVec 64} (h : fSlot w = 6#3) : decodeOpRaw w = decodeC w := by unfold decodeOpRaw; rw [h]; rfl
theorem decodeOpRaw_X {w : BitVec 64} (h : fSlot w = 7#3) : decodeOpRaw w = decodeX w := by unfold decodeOpRaw; rw [h]; rfl

/-- A raw decoding that encodes to its word is the decoding of the word. -/
theorem decodeOp_of_raw {w : BitVec 64} {i : Instr} (hr : decodeOpRaw w = some i) (he : encodeOp i = some w) :
    decodeOp w = .ok i := checkWord_ok hr he
/-- A word that decodes is the one that its instruction encodes to (R32). -/
theorem encodeOp_of_decodeOp {w : BitVec 64} {i : Instr} (h : decodeOp w = .ok i) : encodeOp i = some w := checkWord_enc h

end Sys2Proof
end

