-- ==== Sys2Proof/Laws/Sparse.lean ====
section
/-! SUPPORT. The laws of sparse maps: a read after a write, and the canonical form. -/
namespace Sys2Proof.Machine

variable {α : Type}

theorem mget_pset_same (d : α) (l : List (Nat × α)) (k : Nat) (v : α) : mget d (pset l k v) k = v := by
  induction l with
  | nil => simp [pset, mget]
  | cons p t ih =>
    obtain ⟨k', v'⟩ := p
    simp only [pset]
    split
    · simp [mget]
    · split
      · simp [mget]
      · simp [mget, ih, *]

theorem mget_pset_other (d : α) (l : List (Nat × α)) {k k' : Nat} (v : α) (h : k' ≠ k) :
    mget d (pset l k v) k' = mget d l k' := by
  induction l with
  | nil => simp [pset, mget, h]
  | cons p t ih =>
    obtain ⟨a, b⟩ := p
    simp only [pset]
    split
    · simp [mget, h]
    · split
      · subst_vars; simp [mget, h]
      · simp [mget, ih]

theorem mget_filter_same (d : α) (l : List (Nat × α)) (k : Nat) : mget d (l.filter (fun p => p.1 != k)) k = d := by
  induction l with
  | nil => rfl
  | cons p t ih =>
    obtain ⟨a, b⟩ := p
    rw [List.filter_cons]
    split
    · rename_i hp
      have : k ≠ a := fun e => by simp [e] at hp
      simp [mget, this, ih]
    · exact ih

theorem mget_filter_other (d : α) (l : List (Nat × α)) {k k' : Nat} (h : k' ≠ k) :
    mget d (l.filter (fun p => p.1 != k)) k' = mget d l k' := by
  induction l with
  | nil => rfl
  | cons p t ih =>
    obtain ⟨a, b⟩ := p
    rw [List.filter_cons]
    split
    · simp [mget, ih]
    · rename_i hp
      have : a = k := by simpa using hp
      subst this
      simp [mget, ih, h]

variable [DecidableEq α]

/-- A read after a write to the same key gives the value written. -/
@[simp] theorem mget_mset_same (d : α) (l : List (Nat × α)) (k : Nat) (v : α) : mget d (mset d l k v) k = v := by
  unfold mset
  split
  · simp [mget_filter_same, *]
  · exact mget_pset_same d l k v

/-- A write leaves every other key alone. -/
theorem mget_mset_other (d : α) (l : List (Nat × α)) {k k' : Nat} (v : α) (h : k' ≠ k) :
    mget d (mset d l k v) k' = mget d l k' := by
  unfold mset
  split
  · exact mget_filter_other d l h
  · exact mget_pset_other d l v h

theorem mget_mset (d : α) (l : List (Nat × α)) (k k' : Nat) (v : α) :
    mget d (mset d l k v) k' = if k' = k then v else mget d l k' := by
  split
  · subst_vars; simp
  · exact mget_mset_other d l v ‹_›

theorem mem_pset {l : List (Nat × α)} {k : Nat} {v : α} {p : Nat × α} (h : p ∈ pset l k v) : p = (k, v) ∨ p ∈ l := by
  induction l with
  | nil => simpa [pset] using h
  | cons q t ih =>
    obtain ⟨a, b⟩ := q
    simp only [pset] at h
    split at h
    · simpa using h
    · split at h
      · rcases List.mem_cons.mp h with h | h
        · exact .inl h
        · exact .inr (List.mem_cons_of_mem _ h)
      · rcases List.mem_cons.mp h with h | h
        · exact .inr (h ▸ List.mem_cons_self ..)
        · exact (ih h).imp id (List.mem_cons_of_mem _)

theorem pairwise_pset {l : List (Nat × α)} {k : Nat} {v : α} (h : l.Pairwise (fun a b => a.1 < b.1)) :
    (pset l k v).Pairwise (fun a b => a.1 < b.1) := by
  induction l with
  | nil => simp [pset]
  | cons q t ih =>
    obtain ⟨a, b⟩ := q
    obtain ⟨h1, h2⟩ := List.pairwise_cons.mp h
    simp only [pset]
    split
    · rename_i hk
      refine List.pairwise_cons.mpr ⟨fun p hp => ?_, h⟩
      rcases List.mem_cons.mp hp with rfl | hp
      · exact hk
      · exact Nat.lt_trans hk (h1 p hp)
    · split
      · subst_vars; exact List.pairwise_cons.mpr ⟨fun p hp => h1 p hp, h2⟩
      · refine List.pairwise_cons.mpr ⟨fun p hp => ?_, ih h2⟩
        rcases mem_pset hp with rfl | hp
        · simp; omega
        · exact h1 p hp

/-- A write keeps the canonical form. -/
theorem mwf_mset {d : α} {l : List (Nat × α)} (k : Nat) (v : α) (h : mwf d l) : mwf d (mset d l k v) := by
  unfold mset
  split
  · exact ⟨h.1.filter _, fun p hp => h.2 p (List.mem_filter.mp hp).1⟩
  · refine ⟨pairwise_pset h.1, fun p hp => ?_⟩
    rcases mem_pset hp with rfl | hp
    · assumption
    · exact h.2 p hp

end Sys2Proof.Machine
end

