-- ==== Sys2Proof/Laws/State.lean ====
section
/-! SUPPORT. One lemma for each field and each update of the state, and reads of contexts after writes. -/
namespace Sys2Proof.Machine

@[simp] theorem State.setCtx_mem (s : State) (fe : FeId) (c : Ctx) : (s.setCtx fe c).mem = s.mem := rfl
@[simp] theorem State.setCtx_poison (s : State) (fe : FeId) (c : Ctx) : (s.setCtx fe c).poison = s.poison := rfl
@[simp] theorem State.setCtx_hist (s : State) (fe : FeId) (c : Ctx) : (s.setCtx fe c).hist = s.hist := rfl
@[simp] theorem State.setCtx_stamp (s : State) (fe : FeId) (c : Ctx) : (s.setCtx fe c).stamp = s.stamp := rfl
@[simp] theorem State.setCtx_sync (s : State) (fe : FeId) (c : Ctx) : (s.setCtx fe c).sync = s.sync := rfl
@[simp] theorem State.setCtx_media (s : State) (fe : FeId) (c : Ctx) : (s.setCtx fe c).media = s.media := rfl
@[simp] theorem State.setCtx_filled (s : State) (fe : FeId) (c : Ctx) : (s.setCtx fe c).filled = s.filled := rfl
@[simp] theorem State.setCtx_cores (s : State) (fe : FeId) (c : Ctx) : (s.setCtx fe c).cores = s.cores := rfl
@[simp] theorem State.setCtx_clusters (s : State) (fe : FeId) (c : Ctx) : (s.setCtx fe c).clusters = s.clusters := rfl
@[simp] theorem State.setCtx_regions (s : State) (fe : FeId) (c : Ctx) : (s.setCtx fe c).regions = s.regions := rfl
@[simp] theorem State.setCtx_fills (s : State) (fe : FeId) (c : Ctx) : (s.setCtx fe c).fills = s.fills := rfl
@[simp] theorem State.setCtx_refresh (s : State) (fe : FeId) (c : Ctx) : (s.setCtx fe c).refresh = s.refresh := rfl
@[simp] theorem State.setCtx_refreshPast (s : State) (fe : FeId) (c : Ctx) : (s.setCtx fe c).refreshPast = s.refreshPast := rfl
@[simp] theorem State.setCtx_time (s : State) (fe : FeId) (c : Ctx) : (s.setCtx fe c).time = s.time := rfl
@[simp] theorem State.setCtx_cycle (s : State) (fe : FeId) (c : Ctx) : (s.setCtx fe c).cycle = s.cycle := rfl
@[simp] theorem State.setCtx_throttle (s : State) (fe : FeId) (c : Ctx) : (s.setCtx fe c).throttle = s.throttle := rfl
@[simp] theorem State.setCtx_disp (s : State) (fe : FeId) (c : Ctx) : (s.setCtx fe c).disp = s.disp := rfl
@[simp] theorem State.setCtx_hw (s : State) (fe : FeId) (c : Ctx) : (s.setCtx fe c).hw = s.hw := rfl
@[simp] theorem State.setCtx_basins (s : State) (fe : FeId) (c : Ctx) : (s.setCtx fe c).basins = s.basins := rfl
@[simp] theorem State.setCtx_basinLive (s : State) (fe : FeId) (c : Ctx) : (s.setCtx fe c).basinLive = s.basinLive := rfl
@[simp] theorem State.setCtx_links (s : State) (fe : FeId) (c : Ctx) : (s.setCtx fe c).links = s.links := rfl
@[simp] theorem State.setCtx_resync (s : State) (fe : FeId) (c : Ctx) : (s.setCtx fe c).resync = s.resync := rfl
@[simp] theorem State.setCtx_bias (s : State) (fe : FeId) (c : Ctx) : (s.setCtx fe c).bias = s.bias := rfl
@[simp] theorem State.setCtx_heldHost (s : State) (fe : FeId) (c : Ctx) : (s.setCtx fe c).heldHost = s.heldHost := rfl
@[simp] theorem State.setCtx_owners (s : State) (fe : FeId) (c : Ctx) : (s.setCtx fe c).owners = s.owners := rfl
@[simp] theorem State.setCtx_fw (s : State) (fe : FeId) (c : Ctx) : (s.setCtx fe c).fw = s.fw := rfl
@[simp] theorem State.setCtx_trace (s : State) (fe : FeId) (c : Ctx) : (s.setCtx fe c).trace = s.trace := rfl
@[simp] theorem State.setCtx_inputs (s : State) (fe : FeId) (c : Ctx) : (s.setCtx fe c).inputs = s.inputs := rfl
@[simp] theorem State.setCtx_outputs (s : State) (fe : FeId) (c : Ctx) : (s.setCtx fe c).outputs = s.outputs := rfl
@[simp] theorem State.setCtx_agenda (s : State) (fe : FeId) (c : Ctx) : (s.setCtx fe c).agenda = s.agenda := rfl
@[simp] theorem State.setCtx_cur (s : State) (fe : FeId) (c : Ctx) : (s.setCtx fe c).cur = s.cur := rfl
@[simp] theorem State.setCtx_issue (s : State) (fe : FeId) (c : Ctx) : (s.setCtx fe c).issue = s.issue := rfl
@[simp] theorem State.setCtx_fresh (s : State) (fe : FeId) (c : Ctx) : (s.setCtx fe c).fresh = s.fresh := rfl
@[simp] theorem State.setCtx_core (s : State) (fe : FeId) (c : Ctx) (g : Nat) : (s.setCtx fe c).core g = s.core g := rfl
@[simp] theorem State.setCtx_cluster (s : State) (fe : FeId) (c : Ctx) (g : Nat) : (s.setCtx fe c).cluster g = s.cluster g := rfl

@[simp] theorem State.modCtx_mem (s : State) (fe : FeId) (f : Ctx → Ctx) : (s.modCtx fe f).mem = s.mem := rfl
@[simp] theorem State.modCtx_poison (s : State) (fe : FeId) (f : Ctx → Ctx) : (s.modCtx fe f).poison = s.poison := rfl
@[simp] theorem State.modCtx_hist (s : State) (fe : FeId) (f : Ctx → Ctx) : (s.modCtx fe f).hist = s.hist := rfl
@[simp] theorem State.modCtx_stamp (s : State) (fe : FeId) (f : Ctx → Ctx) : (s.modCtx fe f).stamp = s.stamp := rfl
@[simp] theorem State.modCtx_sync (s : State) (fe : FeId) (f : Ctx → Ctx) : (s.modCtx fe f).sync = s.sync := rfl
@[simp] theorem State.modCtx_media (s : State) (fe : FeId) (f : Ctx → Ctx) : (s.modCtx fe f).media = s.media := rfl
@[simp] theorem State.modCtx_filled (s : State) (fe : FeId) (f : Ctx → Ctx) : (s.modCtx fe f).filled = s.filled := rfl
@[simp] theorem State.modCtx_cores (s : State) (fe : FeId) (f : Ctx → Ctx) : (s.modCtx fe f).cores = s.cores := rfl
@[simp] theorem State.modCtx_clusters (s : State) (fe : FeId) (f : Ctx → Ctx) : (s.modCtx fe f).clusters = s.clusters := rfl
@[simp] theorem State.modCtx_regions (s : State) (fe : FeId) (f : Ctx → Ctx) : (s.modCtx fe f).regions = s.regions := rfl
@[simp] theorem State.modCtx_fills (s : State) (fe : FeId) (f : Ctx → Ctx) : (s.modCtx fe f).fills = s.fills := rfl
@[simp] theorem State.modCtx_refresh (s : State) (fe : FeId) (f : Ctx → Ctx) : (s.modCtx fe f).refresh = s.refresh := rfl
@[simp] theorem State.modCtx_refreshPast (s : State) (fe : FeId) (f : Ctx → Ctx) : (s.modCtx fe f).refreshPast = s.refreshPast := rfl
@[simp] theorem State.modCtx_time (s : State) (fe : FeId) (f : Ctx → Ctx) : (s.modCtx fe f).time = s.time := rfl
@[simp] theorem State.modCtx_cycle (s : State) (fe : FeId) (f : Ctx → Ctx) : (s.modCtx fe f).cycle = s.cycle := rfl
@[simp] theorem State.modCtx_throttle (s : State) (fe : FeId) (f : Ctx → Ctx) : (s.modCtx fe f).throttle = s.throttle := rfl
@[simp] theorem State.modCtx_disp (s : State) (fe : FeId) (f : Ctx → Ctx) : (s.modCtx fe f).disp = s.disp := rfl
@[simp] theorem State.modCtx_hw (s : State) (fe : FeId) (f : Ctx → Ctx) : (s.modCtx fe f).hw = s.hw := rfl
@[simp] theorem State.modCtx_basins (s : State) (fe : FeId) (f : Ctx → Ctx) : (s.modCtx fe f).basins = s.basins := rfl
@[simp] theorem State.modCtx_basinLive (s : State) (fe : FeId) (f : Ctx → Ctx) : (s.modCtx fe f).basinLive = s.basinLive := rfl
@[simp] theorem State.modCtx_links (s : State) (fe : FeId) (f : Ctx → Ctx) : (s.modCtx fe f).links = s.links := rfl
@[simp] theorem State.modCtx_resync (s : State) (fe : FeId) (f : Ctx → Ctx) : (s.modCtx fe f).resync = s.resync := rfl
@[simp] theorem State.modCtx_bias (s : State) (fe : FeId) (f : Ctx → Ctx) : (s.modCtx fe f).bias = s.bias := rfl
@[simp] theorem State.modCtx_heldHost (s : State) (fe : FeId) (f : Ctx → Ctx) : (s.modCtx fe f).heldHost = s.heldHost := rfl
@[simp] theorem State.modCtx_owners (s : State) (fe : FeId) (f : Ctx → Ctx) : (s.modCtx fe f).owners = s.owners := rfl
@[simp] theorem State.modCtx_fw (s : State) (fe : FeId) (f : Ctx → Ctx) : (s.modCtx fe f).fw = s.fw := rfl
@[simp] theorem State.modCtx_trace (s : State) (fe : FeId) (f : Ctx → Ctx) : (s.modCtx fe f).trace = s.trace := rfl
@[simp] theorem State.modCtx_inputs (s : State) (fe : FeId) (f : Ctx → Ctx) : (s.modCtx fe f).inputs = s.inputs := rfl
@[simp] theorem State.modCtx_outputs (s : State) (fe : FeId) (f : Ctx → Ctx) : (s.modCtx fe f).outputs = s.outputs := rfl
@[simp] theorem State.modCtx_agenda (s : State) (fe : FeId) (f : Ctx → Ctx) : (s.modCtx fe f).agenda = s.agenda := rfl
@[simp] theorem State.modCtx_cur (s : State) (fe : FeId) (f : Ctx → Ctx) : (s.modCtx fe f).cur = s.cur := rfl
@[simp] theorem State.modCtx_issue (s : State) (fe : FeId) (f : Ctx → Ctx) : (s.modCtx fe f).issue = s.issue := rfl
@[simp] theorem State.modCtx_fresh (s : State) (fe : FeId) (f : Ctx → Ctx) : (s.modCtx fe f).fresh = s.fresh := rfl
@[simp] theorem State.modCtx_core (s : State) (fe : FeId) (f : Ctx → Ctx) (g : Nat) : (s.modCtx fe f).core g = s.core g := rfl
@[simp] theorem State.modCtx_cluster (s : State) (fe : FeId) (f : Ctx → Ctx) (g : Nat) : (s.modCtx fe f).cluster g = s.cluster g := rfl

@[simp] theorem State.setCore_mem (s : State) (n : Nat) (c : Core) : (s.setCore n c).mem = s.mem := rfl
@[simp] theorem State.setCore_poison (s : State) (n : Nat) (c : Core) : (s.setCore n c).poison = s.poison := rfl
@[simp] theorem State.setCore_hist (s : State) (n : Nat) (c : Core) : (s.setCore n c).hist = s.hist := rfl
@[simp] theorem State.setCore_stamp (s : State) (n : Nat) (c : Core) : (s.setCore n c).stamp = s.stamp := rfl
@[simp] theorem State.setCore_sync (s : State) (n : Nat) (c : Core) : (s.setCore n c).sync = s.sync := rfl
@[simp] theorem State.setCore_media (s : State) (n : Nat) (c : Core) : (s.setCore n c).media = s.media := rfl
@[simp] theorem State.setCore_filled (s : State) (n : Nat) (c : Core) : (s.setCore n c).filled = s.filled := rfl
@[simp] theorem State.setCore_ctxs (s : State) (n : Nat) (c : Core) : (s.setCore n c).ctxs = s.ctxs := rfl
@[simp] theorem State.setCore_clusters (s : State) (n : Nat) (c : Core) : (s.setCore n c).clusters = s.clusters := rfl
@[simp] theorem State.setCore_regions (s : State) (n : Nat) (c : Core) : (s.setCore n c).regions = s.regions := rfl
@[simp] theorem State.setCore_fills (s : State) (n : Nat) (c : Core) : (s.setCore n c).fills = s.fills := rfl
@[simp] theorem State.setCore_refresh (s : State) (n : Nat) (c : Core) : (s.setCore n c).refresh = s.refresh := rfl
@[simp] theorem State.setCore_refreshPast (s : State) (n : Nat) (c : Core) : (s.setCore n c).refreshPast = s.refreshPast := rfl
@[simp] theorem State.setCore_time (s : State) (n : Nat) (c : Core) : (s.setCore n c).time = s.time := rfl
@[simp] theorem State.setCore_cycle (s : State) (n : Nat) (c : Core) : (s.setCore n c).cycle = s.cycle := rfl
@[simp] theorem State.setCore_throttle (s : State) (n : Nat) (c : Core) : (s.setCore n c).throttle = s.throttle := rfl
@[simp] theorem State.setCore_disp (s : State) (n : Nat) (c : Core) : (s.setCore n c).disp = s.disp := rfl
@[simp] theorem State.setCore_hw (s : State) (n : Nat) (c : Core) : (s.setCore n c).hw = s.hw := rfl
@[simp] theorem State.setCore_basins (s : State) (n : Nat) (c : Core) : (s.setCore n c).basins = s.basins := rfl
@[simp] theorem State.setCore_basinLive (s : State) (n : Nat) (c : Core) : (s.setCore n c).basinLive = s.basinLive := rfl
@[simp] theorem State.setCore_links (s : State) (n : Nat) (c : Core) : (s.setCore n c).links = s.links := rfl
@[simp] theorem State.setCore_resync (s : State) (n : Nat) (c : Core) : (s.setCore n c).resync = s.resync := rfl
@[simp] theorem State.setCore_bias (s : State) (n : Nat) (c : Core) : (s.setCore n c).bias = s.bias := rfl
@[simp] theorem State.setCore_heldHost (s : State) (n : Nat) (c : Core) : (s.setCore n c).heldHost = s.heldHost := rfl
@[simp] theorem State.setCore_owners (s : State) (n : Nat) (c : Core) : (s.setCore n c).owners = s.owners := rfl
@[simp] theorem State.setCore_fw (s : State) (n : Nat) (c : Core) : (s.setCore n c).fw = s.fw := rfl
@[simp] theorem State.setCore_trace (s : State) (n : Nat) (c : Core) : (s.setCore n c).trace = s.trace := rfl
@[simp] theorem State.setCore_inputs (s : State) (n : Nat) (c : Core) : (s.setCore n c).inputs = s.inputs := rfl
@[simp] theorem State.setCore_outputs (s : State) (n : Nat) (c : Core) : (s.setCore n c).outputs = s.outputs := rfl
@[simp] theorem State.setCore_agenda (s : State) (n : Nat) (c : Core) : (s.setCore n c).agenda = s.agenda := rfl
@[simp] theorem State.setCore_cur (s : State) (n : Nat) (c : Core) : (s.setCore n c).cur = s.cur := rfl
@[simp] theorem State.setCore_issue (s : State) (n : Nat) (c : Core) : (s.setCore n c).issue = s.issue := rfl
@[simp] theorem State.setCore_fresh (s : State) (n : Nat) (c : Core) : (s.setCore n c).fresh = s.fresh := rfl
@[simp] theorem State.setCore_ctx (s : State) (n : Nat) (c : Core) (g : FeId) : (s.setCore n c).ctx g = s.ctx g := rfl
@[simp] theorem State.setCore_cluster (s : State) (n : Nat) (c : Core) (g : Nat) : (s.setCore n c).cluster g = s.cluster g := rfl

@[simp] theorem State.setCluster_mem (s : State) (n : Nat) (c : Cluster) : (s.setCluster n c).mem = s.mem := rfl
@[simp] theorem State.setCluster_poison (s : State) (n : Nat) (c : Cluster) : (s.setCluster n c).poison = s.poison := rfl
@[simp] theorem State.setCluster_hist (s : State) (n : Nat) (c : Cluster) : (s.setCluster n c).hist = s.hist := rfl
@[simp] theorem State.setCluster_stamp (s : State) (n : Nat) (c : Cluster) : (s.setCluster n c).stamp = s.stamp := rfl
@[simp] theorem State.setCluster_sync (s : State) (n : Nat) (c : Cluster) : (s.setCluster n c).sync = s.sync := rfl
@[simp] theorem State.setCluster_media (s : State) (n : Nat) (c : Cluster) : (s.setCluster n c).media = s.media := rfl
@[simp] theorem State.setCluster_filled (s : State) (n : Nat) (c : Cluster) : (s.setCluster n c).filled = s.filled := rfl
@[simp] theorem State.setCluster_ctxs (s : State) (n : Nat) (c : Cluster) : (s.setCluster n c).ctxs = s.ctxs := rfl
@[simp] theorem State.setCluster_cores (s : State) (n : Nat) (c : Cluster) : (s.setCluster n c).cores = s.cores := rfl
@[simp] theorem State.setCluster_regions (s : State) (n : Nat) (c : Cluster) : (s.setCluster n c).regions = s.regions := rfl
@[simp] theorem State.setCluster_fills (s : State) (n : Nat) (c : Cluster) : (s.setCluster n c).fills = s.fills := rfl
@[simp] theorem State.setCluster_refresh (s : State) (n : Nat) (c : Cluster) : (s.setCluster n c).refresh = s.refresh := rfl
@[simp] theorem State.setCluster_refreshPast (s : State) (n : Nat) (c : Cluster) : (s.setCluster n c).refreshPast = s.refreshPast := rfl
@[simp] theorem State.setCluster_time (s : State) (n : Nat) (c : Cluster) : (s.setCluster n c).time = s.time := rfl
@[simp] theorem State.setCluster_cycle (s : State) (n : Nat) (c : Cluster) : (s.setCluster n c).cycle = s.cycle := rfl
@[simp] theorem State.setCluster_throttle (s : State) (n : Nat) (c : Cluster) : (s.setCluster n c).throttle = s.throttle := rfl
@[simp] theorem State.setCluster_disp (s : State) (n : Nat) (c : Cluster) : (s.setCluster n c).disp = s.disp := rfl
@[simp] theorem State.setCluster_hw (s : State) (n : Nat) (c : Cluster) : (s.setCluster n c).hw = s.hw := rfl
@[simp] theorem State.setCluster_basins (s : State) (n : Nat) (c : Cluster) : (s.setCluster n c).basins = s.basins := rfl
@[simp] theorem State.setCluster_basinLive (s : State) (n : Nat) (c : Cluster) : (s.setCluster n c).basinLive = s.basinLive := rfl
@[simp] theorem State.setCluster_links (s : State) (n : Nat) (c : Cluster) : (s.setCluster n c).links = s.links := rfl
@[simp] theorem State.setCluster_resync (s : State) (n : Nat) (c : Cluster) : (s.setCluster n c).resync = s.resync := rfl
@[simp] theorem State.setCluster_bias (s : State) (n : Nat) (c : Cluster) : (s.setCluster n c).bias = s.bias := rfl
@[simp] theorem State.setCluster_heldHost (s : State) (n : Nat) (c : Cluster) : (s.setCluster n c).heldHost = s.heldHost := rfl
@[simp] theorem State.setCluster_owners (s : State) (n : Nat) (c : Cluster) : (s.setCluster n c).owners = s.owners := rfl
@[simp] theorem State.setCluster_fw (s : State) (n : Nat) (c : Cluster) : (s.setCluster n c).fw = s.fw := rfl
@[simp] theorem State.setCluster_trace (s : State) (n : Nat) (c : Cluster) : (s.setCluster n c).trace = s.trace := rfl
@[simp] theorem State.setCluster_inputs (s : State) (n : Nat) (c : Cluster) : (s.setCluster n c).inputs = s.inputs := rfl
@[simp] theorem State.setCluster_outputs (s : State) (n : Nat) (c : Cluster) : (s.setCluster n c).outputs = s.outputs := rfl
@[simp] theorem State.setCluster_agenda (s : State) (n : Nat) (c : Cluster) : (s.setCluster n c).agenda = s.agenda := rfl
@[simp] theorem State.setCluster_cur (s : State) (n : Nat) (c : Cluster) : (s.setCluster n c).cur = s.cur := rfl
@[simp] theorem State.setCluster_issue (s : State) (n : Nat) (c : Cluster) : (s.setCluster n c).issue = s.issue := rfl
@[simp] theorem State.setCluster_fresh (s : State) (n : Nat) (c : Cluster) : (s.setCluster n c).fresh = s.fresh := rfl
@[simp] theorem State.setCluster_ctx (s : State) (n : Nat) (c : Cluster) (g : FeId) : (s.setCluster n c).ctx g = s.ctx g := rfl
@[simp] theorem State.setCluster_core (s : State) (n : Nat) (c : Cluster) (g : Nat) : (s.setCluster n c).core g = s.core g := rfl

@[simp] theorem State.emit_mem (s : State) (o : Output) : (s.emit o).mem = s.mem := rfl
@[simp] theorem State.emit_poison (s : State) (o : Output) : (s.emit o).poison = s.poison := rfl
@[simp] theorem State.emit_hist (s : State) (o : Output) : (s.emit o).hist = s.hist := rfl
@[simp] theorem State.emit_stamp (s : State) (o : Output) : (s.emit o).stamp = s.stamp := rfl
@[simp] theorem State.emit_sync (s : State) (o : Output) : (s.emit o).sync = s.sync := rfl
@[simp] theorem State.emit_media (s : State) (o : Output) : (s.emit o).media = s.media := rfl
@[simp] theorem State.emit_filled (s : State) (o : Output) : (s.emit o).filled = s.filled := rfl
@[simp] theorem State.emit_ctxs (s : State) (o : Output) : (s.emit o).ctxs = s.ctxs := rfl
@[simp] theorem State.emit_cores (s : State) (o : Output) : (s.emit o).cores = s.cores := rfl
@[simp] theorem State.emit_clusters (s : State) (o : Output) : (s.emit o).clusters = s.clusters := rfl
@[simp] theorem State.emit_regions (s : State) (o : Output) : (s.emit o).regions = s.regions := rfl
@[simp] theorem State.emit_fills (s : State) (o : Output) : (s.emit o).fills = s.fills := rfl
@[simp] theorem State.emit_refresh (s : State) (o : Output) : (s.emit o).refresh = s.refresh := rfl
@[simp] theorem State.emit_refreshPast (s : State) (o : Output) : (s.emit o).refreshPast = s.refreshPast := rfl
@[simp] theorem State.emit_time (s : State) (o : Output) : (s.emit o).time = s.time := rfl
@[simp] theorem State.emit_cycle (s : State) (o : Output) : (s.emit o).cycle = s.cycle := rfl
@[simp] theorem State.emit_throttle (s : State) (o : Output) : (s.emit o).throttle = s.throttle := rfl
@[simp] theorem State.emit_disp (s : State) (o : Output) : (s.emit o).disp = s.disp := rfl
@[simp] theorem State.emit_hw (s : State) (o : Output) : (s.emit o).hw = s.hw := rfl
@[simp] theorem State.emit_basins (s : State) (o : Output) : (s.emit o).basins = s.basins := rfl
@[simp] theorem State.emit_basinLive (s : State) (o : Output) : (s.emit o).basinLive = s.basinLive := rfl
@[simp] theorem State.emit_links (s : State) (o : Output) : (s.emit o).links = s.links := rfl
@[simp] theorem State.emit_resync (s : State) (o : Output) : (s.emit o).resync = s.resync := rfl
@[simp] theorem State.emit_bias (s : State) (o : Output) : (s.emit o).bias = s.bias := rfl
@[simp] theorem State.emit_heldHost (s : State) (o : Output) : (s.emit o).heldHost = s.heldHost := rfl
@[simp] theorem State.emit_owners (s : State) (o : Output) : (s.emit o).owners = s.owners := rfl
@[simp] theorem State.emit_fw (s : State) (o : Output) : (s.emit o).fw = s.fw := rfl
@[simp] theorem State.emit_trace (s : State) (o : Output) : (s.emit o).trace = s.trace := rfl
@[simp] theorem State.emit_inputs (s : State) (o : Output) : (s.emit o).inputs = s.inputs := rfl
@[simp] theorem State.emit_agenda (s : State) (o : Output) : (s.emit o).agenda = s.agenda := rfl
@[simp] theorem State.emit_cur (s : State) (o : Output) : (s.emit o).cur = s.cur := rfl
@[simp] theorem State.emit_issue (s : State) (o : Output) : (s.emit o).issue = s.issue := rfl
@[simp] theorem State.emit_fresh (s : State) (o : Output) : (s.emit o).fresh = s.fresh := rfl
@[simp] theorem State.emit_ctx (s : State) (o : Output) (g : FeId) : (s.emit o).ctx g = s.ctx g := rfl
@[simp] theorem State.emit_core (s : State) (o : Output) (g : Nat) : (s.emit o).core g = s.core g := rfl
@[simp] theorem State.emit_cluster (s : State) (o : Output) (g : Nat) : (s.emit o).cluster g = s.cluster g := rfl

@[simp] theorem State.countError_mem (s : State) : (s.countError).mem = s.mem := rfl
@[simp] theorem State.countError_poison (s : State) : (s.countError).poison = s.poison := rfl
@[simp] theorem State.countError_hist (s : State) : (s.countError).hist = s.hist := rfl
@[simp] theorem State.countError_stamp (s : State) : (s.countError).stamp = s.stamp := rfl
@[simp] theorem State.countError_sync (s : State) : (s.countError).sync = s.sync := rfl
@[simp] theorem State.countError_media (s : State) : (s.countError).media = s.media := rfl
@[simp] theorem State.countError_filled (s : State) : (s.countError).filled = s.filled := rfl
@[simp] theorem State.countError_ctxs (s : State) : (s.countError).ctxs = s.ctxs := rfl
@[simp] theorem State.countError_cores (s : State) : (s.countError).cores = s.cores := rfl
@[simp] theorem State.countError_clusters (s : State) : (s.countError).clusters = s.clusters := rfl
@[simp] theorem State.countError_regions (s : State) : (s.countError).regions = s.regions := rfl
@[simp] theorem State.countError_fills (s : State) : (s.countError).fills = s.fills := rfl
@[simp] theorem State.countError_refresh (s : State) : (s.countError).refresh = s.refresh := rfl
@[simp] theorem State.countError_refreshPast (s : State) : (s.countError).refreshPast = s.refreshPast := rfl
@[simp] theorem State.countError_time (s : State) : (s.countError).time = s.time := rfl
@[simp] theorem State.countError_cycle (s : State) : (s.countError).cycle = s.cycle := rfl
@[simp] theorem State.countError_throttle (s : State) : (s.countError).throttle = s.throttle := rfl
@[simp] theorem State.countError_disp (s : State) : (s.countError).disp = s.disp := rfl
@[simp] theorem State.countError_basins (s : State) : (s.countError).basins = s.basins := rfl
@[simp] theorem State.countError_basinLive (s : State) : (s.countError).basinLive = s.basinLive := rfl
@[simp] theorem State.countError_links (s : State) : (s.countError).links = s.links := rfl
@[simp] theorem State.countError_resync (s : State) : (s.countError).resync = s.resync := rfl
@[simp] theorem State.countError_bias (s : State) : (s.countError).bias = s.bias := rfl
@[simp] theorem State.countError_heldHost (s : State) : (s.countError).heldHost = s.heldHost := rfl
@[simp] theorem State.countError_owners (s : State) : (s.countError).owners = s.owners := rfl
@[simp] theorem State.countError_fw (s : State) : (s.countError).fw = s.fw := rfl
@[simp] theorem State.countError_trace (s : State) : (s.countError).trace = s.trace := rfl
@[simp] theorem State.countError_inputs (s : State) : (s.countError).inputs = s.inputs := rfl
@[simp] theorem State.countError_outputs (s : State) : (s.countError).outputs = s.outputs := rfl
@[simp] theorem State.countError_agenda (s : State) : (s.countError).agenda = s.agenda := rfl
@[simp] theorem State.countError_cur (s : State) : (s.countError).cur = s.cur := rfl
@[simp] theorem State.countError_issue (s : State) : (s.countError).issue = s.issue := rfl
@[simp] theorem State.countError_fresh (s : State) : (s.countError).fresh = s.fresh := rfl
@[simp] theorem State.countError_ctx (s : State) (g : FeId) : (s.countError).ctx g = s.ctx g := rfl
@[simp] theorem State.countError_core (s : State) (g : Nat) : (s.countError).core g = s.core g := rfl
@[simp] theorem State.countError_cluster (s : State) (g : Nat) : (s.countError).cluster g = s.cluster g := rfl

@[simp] theorem State.setLinePoison_mem (s : State) (k : Nat) (p : Bool) : (s.setLinePoison k p).mem = s.mem := rfl
@[simp] theorem State.setLinePoison_hist (s : State) (k : Nat) (p : Bool) : (s.setLinePoison k p).hist = s.hist := rfl
@[simp] theorem State.setLinePoison_stamp (s : State) (k : Nat) (p : Bool) : (s.setLinePoison k p).stamp = s.stamp := rfl
@[simp] theorem State.setLinePoison_sync (s : State) (k : Nat) (p : Bool) : (s.setLinePoison k p).sync = s.sync := rfl
@[simp] theorem State.setLinePoison_media (s : State) (k : Nat) (p : Bool) : (s.setLinePoison k p).media = s.media := rfl
@[simp] theorem State.setLinePoison_filled (s : State) (k : Nat) (p : Bool) : (s.setLinePoison k p).filled = s.filled := rfl
@[simp] theorem State.setLinePoison_ctxs (s : State) (k : Nat) (p : Bool) : (s.setLinePoison k p).ctxs = s.ctxs := rfl
@[simp] theorem State.setLinePoison_cores (s : State) (k : Nat) (p : Bool) : (s.setLinePoison k p).cores = s.cores := rfl
@[simp] theorem State.setLinePoison_clusters (s : State) (k : Nat) (p : Bool) : (s.setLinePoison k p).clusters = s.clusters := rfl
@[simp] theorem State.setLinePoison_regions (s : State) (k : Nat) (p : Bool) : (s.setLinePoison k p).regions = s.regions := rfl
@[simp] theorem State.setLinePoison_fills (s : State) (k : Nat) (p : Bool) : (s.setLinePoison k p).fills = s.fills := rfl
@[simp] theorem State.setLinePoison_refresh (s : State) (k : Nat) (p : Bool) : (s.setLinePoison k p).refresh = s.refresh := rfl
@[simp] theorem State.setLinePoison_refreshPast (s : State) (k : Nat) (p : Bool) : (s.setLinePoison k p).refreshPast = s.refreshPast := rfl
@[simp] theorem State.setLinePoison_time (s : State) (k : Nat) (p : Bool) : (s.setLinePoison k p).time = s.time := rfl
@[simp] theorem State.setLinePoison_cycle (s : State) (k : Nat) (p : Bool) : (s.setLinePoison k p).cycle = s.cycle := rfl
@[simp] theorem State.setLinePoison_throttle (s : State) (k : Nat) (p : Bool) : (s.setLinePoison k p).throttle = s.throttle := rfl
@[simp] theorem State.setLinePoison_disp (s : State) (k : Nat) (p : Bool) : (s.setLinePoison k p).disp = s.disp := rfl
@[simp] theorem State.setLinePoison_hw (s : State) (k : Nat) (p : Bool) : (s.setLinePoison k p).hw = s.hw := rfl
@[simp] theorem State.setLinePoison_basins (s : State) (k : Nat) (p : Bool) : (s.setLinePoison k p).basins = s.basins := rfl
@[simp] theorem State.setLinePoison_basinLive (s : State) (k : Nat) (p : Bool) : (s.setLinePoison k p).basinLive = s.basinLive := rfl
@[simp] theorem State.setLinePoison_links (s : State) (k : Nat) (p : Bool) : (s.setLinePoison k p).links = s.links := rfl
@[simp] theorem State.setLinePoison_resync (s : State) (k : Nat) (p : Bool) : (s.setLinePoison k p).resync = s.resync := rfl
@[simp] theorem State.setLinePoison_bias (s : State) (k : Nat) (p : Bool) : (s.setLinePoison k p).bias = s.bias := rfl
@[simp] theorem State.setLinePoison_heldHost (s : State) (k : Nat) (p : Bool) : (s.setLinePoison k p).heldHost = s.heldHost := rfl
@[simp] theorem State.setLinePoison_owners (s : State) (k : Nat) (p : Bool) : (s.setLinePoison k p).owners = s.owners := rfl
@[simp] theorem State.setLinePoison_fw (s : State) (k : Nat) (p : Bool) : (s.setLinePoison k p).fw = s.fw := rfl
@[simp] theorem State.setLinePoison_trace (s : State) (k : Nat) (p : Bool) : (s.setLinePoison k p).trace = s.trace := rfl
@[simp] theorem State.setLinePoison_inputs (s : State) (k : Nat) (p : Bool) : (s.setLinePoison k p).inputs = s.inputs := rfl
@[simp] theorem State.setLinePoison_outputs (s : State) (k : Nat) (p : Bool) : (s.setLinePoison k p).outputs = s.outputs := rfl
@[simp] theorem State.setLinePoison_agenda (s : State) (k : Nat) (p : Bool) : (s.setLinePoison k p).agenda = s.agenda := rfl
@[simp] theorem State.setLinePoison_cur (s : State) (k : Nat) (p : Bool) : (s.setLinePoison k p).cur = s.cur := rfl
@[simp] theorem State.setLinePoison_issue (s : State) (k : Nat) (p : Bool) : (s.setLinePoison k p).issue = s.issue := rfl
@[simp] theorem State.setLinePoison_fresh (s : State) (k : Nat) (p : Bool) : (s.setLinePoison k p).fresh = s.fresh := rfl
@[simp] theorem State.setLinePoison_ctx (s : State) (k : Nat) (p : Bool) (g : FeId) : (s.setLinePoison k p).ctx g = s.ctx g := rfl
@[simp] theorem State.setLinePoison_core (s : State) (k : Nat) (p : Bool) (g : Nat) : (s.setLinePoison k p).core g = s.core g := rfl
@[simp] theorem State.setLinePoison_cluster (s : State) (k : Nat) (p : Bool) (g : Nat) : (s.setLinePoison k p).cluster g = s.cluster g := rfl

theorem feId_toNat_ne {a b : FeId} (h : a ≠ b) : a.toNat ≠ b.toNat := fun e => h (BitVec.eq_of_toNat_eq e)

@[simp] theorem State.ctx_setCtx_same (s : State) (fe : FeId) (c : Ctx) : (s.setCtx fe c).ctx fe = c :=
  mget_mset_same ..
theorem State.ctx_setCtx_other (s : State) {fe g : FeId} (c : Ctx) (h : g ≠ fe) : (s.setCtx fe c).ctx g = s.ctx g :=
  mget_mset_other _ _ _ (feId_toNat_ne h)
theorem State.ctx_setCtx (s : State) (fe g : FeId) (c : Ctx) : (s.setCtx fe c).ctx g = if g = fe then c else s.ctx g := by
  split
  · subst_vars; simp
  · exact s.ctx_setCtx_other c ‹_›
@[simp] theorem State.ctx_modCtx_same (s : State) (fe : FeId) (f : Ctx → Ctx) : (s.modCtx fe f).ctx fe = f (s.ctx fe) :=
  s.ctx_setCtx_same fe _
theorem State.ctx_modCtx_other (s : State) {fe g : FeId} (f : Ctx → Ctx) (h : g ≠ fe) : (s.modCtx fe f).ctx g = s.ctx g :=
  s.ctx_setCtx_other _ h
theorem State.ctx_modCtx (s : State) (fe g : FeId) (f : Ctx → Ctx) :
    (s.modCtx fe f).ctx g = if g = fe then f (s.ctx fe) else s.ctx g := s.ctx_setCtx fe g _
@[simp] theorem State.core_setCore_same (s : State) (n : Nat) (c : Core) : (s.setCore n c).core n = c := mget_mset_same ..
theorem State.core_setCore_other (s : State) {n k : Nat} (c : Core) (h : k ≠ n) : (s.setCore n c).core k = s.core k :=
  mget_mset_other _ _ _ h
@[simp] theorem State.cluster_setCluster_same (s : State) (n : Nat) (c : Cluster) : (s.setCluster n c).cluster n = c :=
  mget_mset_same ..
theorem State.cluster_setCluster_other (s : State) {n k : Nat} (c : Cluster) (h : k ≠ n) :
    (s.setCluster n c).cluster k = s.cluster k := mget_mset_other _ _ _ h

/-- A scalar register after a write of sN; a write of s0 is discarded (R114). -/
theorem Regs.wS_s (r : Regs) (n : BitVec 6) (x : SReg) : (r.wS n x).s = if n = 0#6 then r.s else vset r.s n x := by
  unfold Regs.wS; split <;> rfl
/-- s0 reads 0 (R114). -/
@[simp] theorem Ctx.rS_zero (c : Ctx) : c.rS 0#6 = zeroSReg := rfl
/-- g0 reads 0 (R84). -/
@[simp] theorem Ctx.rG_zero (c : Ctx) : c.rG 0#5 = zeroSReg := rfl
/-- p0 reads all ones (R114). -/
@[simp] theorem Ctx.rP_zero (c : Ctx) : c.rP 0#4 = ⟨BitVec.allOnes 256, 0#8, false⟩ := rfl

/-- A pending landing changes only the pending list, the issue number and the numbers of the newest predicate writes of the
context that issues. -/
theorem addPend_eq (s : State) (slot : BitVec 3) (lat : Nat) (k : PendKind) :
    addPend s slot lat k = s.modCtx s.cur (fun c =>
      { c with pend := c.pend ++ [⟨c.beat + lat, c.nextSeq, slot, s.opWord slot, s.opProv, k, none, false, []⟩],
               nextSeq := c.nextSeq + 1,
               predSeq := k.preds.foldl (fun v n => vset v n c.nextSeq) c.predSeq }) := rfl

end Sys2Proof.Machine
end

