-- ==== Sys2Proof/Laws/Memory.lean ====
section
/-! SUPPORT. The laws of memory: reads after writes, and the canonical form. -/
namespace Sys2Proof.Machine

@[simp] theorem memRead_memWrite_same (m : List Host.Cell) (k : Nat) (b : Byte) : memRead (memWrite m k b) k = b :=
  mget_mset_same ..
theorem memRead_memWrite_other (m : List Host.Cell) {k a : Nat} (b : Byte) (h : a ≠ k) :
    memRead (memWrite m k b) a = memRead m a := mget_mset_other _ _ _ h

/-- The bytes that a write does not reach read as before. -/
theorem memRead_memWrites_other {m : List Host.Cell} {k a : Nat} {l : List Byte} (h : ¬ (k ≤ a ∧ a < k + l.length)) :
    memRead (memWrites m k l) a = memRead m a := by
  induction l generalizing m k with
  | nil => rfl
  | cons b t ih =>
    simp only [List.length_cons] at h
    simp only [memWrites]
    rw [ih (by omega), memRead_memWrite_other _ _ (by omega)]

/-- Byte i of a write reads back. -/
theorem memRead_memWrites_at {m : List Host.Cell} {k i : Nat} {l : List Byte} (h : i < l.length) :
    memRead (memWrites m k l) (k + i) = l[i] := by
  induction l generalizing m k i with
  | nil => simp at h
  | cons b t ih =>
    simp only [memWrites]
    cases i with
    | zero => rw [Nat.add_zero, memRead_memWrites_other (by omega)]; simp
    | succ j =>
      have := ih (m := memWrite m k b) (k := k + 1) (i := j) (by simpa using h)
      rw [show k + (j + 1) = k + 1 + j by omega, this]; simp

/-- A read of memory gives the bytes from its address on. -/
theorem memReads_eq (m : List Host.Cell) (k n : Nat) : memReads m k n = (List.range n).map (fun i => memRead m (k + i)) := by
  induction n generalizing k with
  | zero => rfl
  | succ n ih =>
    simp only [memReads, ih, List.range_succ_eq_map, List.map_cons, List.map_map, Nat.add_zero]
    congr 1
    apply List.map_congr_left
    intro i _
    simp only [Function.comp, Nat.succ_eq_add_one]
    congr 1; omega

@[simp] theorem length_natBytes (x n : Nat) : (natBytes x n).length = n := by
  induction n generalizing x with
  | zero => rfl
  | succ n ih => simp [natBytes, ih]

/-- Every operation on memory keeps its canonical form. -/
theorem memWf_memWrite {m : List Host.Cell} (k : Nat) (b : Byte) (h : memWf m) : memWf (memWrite m k b) := mwf_mset k b h
theorem memWf_memWrites {m : List Host.Cell} (k : Nat) (l : List Byte) (h : memWf m) : memWf (memWrites m k l) := by
  induction l generalizing m k with
  | nil => exact h
  | cons b t ih => exact ih _ (memWf_memWrite k b h)
theorem memWf_filter {m : List Host.Cell} (p : Host.Cell → Bool) (h : memWf m) : memWf (m.filter p) :=
  ⟨h.1.filter _, fun q hq => h.2 q (List.mem_filter.mp hq).1⟩

end Sys2Proof.Machine
end

