-- ==== Sys2Proof/Laws/Ops.lean ====
section
/-! SUPPORT. What each shared operation of the ops does, said once. -/
namespace Sys2Proof.Machine

/-- An op that executes and whose fields are in range has its effect. -/
theorem guardedOp_runs {s : State} {slot : BitVec 3} {h : OpHdr} {f : State → State} (hr : OpRuns s h) :
    guardedOp s slot h true f = f s := by
  obtain ⟨h1, h2, h3⟩ := hr
  simp [-BitVec.getLsbD_eq_getElem, guardedOp, h1, h2, h3]

theorem laneOp_runs {s : State} {slot : BitVec 3} {h : OpHdr} {f : State → State} (hr : LaneRuns s h) :
    laneOp s slot h true f = f s := by
  obtain ⟨h1, h2⟩ := hr
  simp [laneOp, h1, h2]

/-- An op with a field out of range raises P00 once it executes (R31, R141). -/
theorem guardedOp_range {s : State} {slot : BitVec 3} {h : OpHdr} {f : State → State} (hr : OpRuns s h) :
    guardedOp s slot h false f = opFault s slot .p00 0#64 := by
  obtain ⟨h1, h2, h3⟩ := hr
  simp [-BitVec.getLsbD_eq_getElem, guardedOp, h1, h2, h3]

/-- A squashed op has no effect (R41, R125). -/
theorem guardedOp_squashed {s : State} {slot : BitVec 3} {h : OpHdr} {ok : Bool} {f : State → State}
    (hs : opSquashed s h = true) : guardedOp s slot h ok f = s := by simp [guardedOp, hs]

theorem laneOp_squashed {s : State} {slot : BitVec 3} {h : OpHdr} {ok : Bool} {f : State → State}
    (hs : opSquashed s h = true) : laneOp s slot h ok f = s := by simp [laneOp, hs]

/-- An op with a false guard has no effect (R42). -/
theorem guardedOp_false {s : State} {slot : BitVec 3} {h : OpHdr} {ok : Bool} {f : State → State}
    (hp : (s.here.rP h.g).poison = false) (hg : (s.here.rP h.g).bits.getLsbD 0 = false) :
    guardedOp s slot h ok f = s := by simp [-BitVec.getLsbD_eq_getElem, guardedOp, hp, hg]

theorem landScalar_of_bandOf {s : State} {slot lat d v bs poison band} (hb : bandOf bs = some band) :
    landScalar s slot lat d v bs poison = landRegs s slot lat [.s d ⟨v, band, poison⟩] := by simp [landScalar, hb]

theorem landPred_of_bandOf {s : State} {slot lat d v bs poison band} (hb : bandOf bs = some band) :
    landPred s slot lat d v bs poison = landRegs s slot lat [.p d ⟨v, band, poison⟩] := by simp [landPred, hb]

/-- Sources with two nonzero tenants raise P06 (R114). -/
theorem landScalar_of_conflict {s : State} {slot lat d v bs poison} (hb : bandOf bs = none) :
    landScalar s slot lat d v bs poison = opFault s slot .p06 0#64 := by simp [landScalar, hb]

/-- A fault of an op of the issuing group is noted in the group. -/
theorem opFault_issuing {s : State} {slot cause addr} {i : Issue} (hi : s.issue = some i) :
    opFault s slot cause addr
      = { s with issue := some { i with faults := i.faults ++ [(slot, cause, addr, s.opWord slot)] } } := by
  simp [opFault, hi]

end Sys2Proof.Machine
end

