-- ==== Sys2Proof/Tests/Slice0.lean ====
section
/-! SUPPORT. Tests of the model, and the witnesses of the statements. The words, the values and the ill-formed terms come
from the specification (the rule is named); a witness shows a concrete state and operands that meet the hypotheses of a
statement, clause by clause. -/
open Sys2Proof Sys2Proof.Machine
namespace Sys2Proof.Tests
set_option Elab.async false

/-! ### Helpers -/

/-- A header without STOP, MARK, stage or guard. -/
def hd : OpHdr := ⟨false, false, 0#3, 0#4⟩
/-- The same with guard p1. -/
def hg : OpHdr := ⟨false, false, 0#3, 1#4⟩
/-- The same with guard p2. -/
def h2 : OpHdr := ⟨false, false, 0#3, 2#4⟩

/-- A register value of band 0 without poison. -/
def val (x : Word) : SReg := ⟨x, 0#8, false⟩

/-- Scalar registers: s1 = 0, s2 = the first address of the window, s3 = 64, s4 = 2, s5 = 2^40, s6 = 1. -/
def sregs : Vector SReg 64 :=
  vset (vset (vset (vset (vset (Regs.init 0#8).s 2#6 (val 0xFFFFFFFFFFE00000#64)) 3#6 (val 64#64)) 4#6 (val 2#64))
    5#6 (val 0x10000000000#64)) 6#6 (val 1#64)

/-- A running context with two channels, 16 lines of scratchpad, an accumulator unit and a predicate p1 of ones. -/
def cx : Ctx := { Ctx.reset with
  life := .running
  ident := ⟨7#32, 1#32, 1#32, 0#9, 0#4, 5#8, 2#8, none⟩
  regs := { Regs.init 0#8 with s := sregs, p := vset (Regs.init 0#8).p 1#4 ⟨BitVec.allOnes 256, 0#8, false⟩ }
  gen := { Gen.reset with stat := .running }
  spm := ⟨4096, [], [], []⟩
  eng := { Engines.reset with mat := { Mat.reset with units := 4 } } }

/-- A group of front end 0 that issues. -/
def grp : RGroup := ⟨0x08011861C0000000#512, 0#64, 0#8, none, false⟩
def iss (c : Ctx) : Issue := ⟨0#9, c, [], grp, false, false, false, false, 0#8, [], none, none, none, none⟩

/-- The device with context c on front end 0, whose group issues, and the trace off. -/
def dev (c : Ctx) : State := { State.reset with
  ctxs := [(0, c)], issue := some (iss c), trace := ⟨false, false, 0#8, 0#32, 0#26, 0#32⟩ }
def w0 : State := dev cx

/-- The value of a computation that succeeds. -/
def okIs {ε α : Type} [DecidableEq α] (r : Except ε α) (a : α) : Bool :=
  match r with
  | .ok x => decide (x = a)
  | .error _ => false
theorem ok_of_okIs {ε α : Type} [DecidableEq α] {r : Except ε α} {a : α} (h : okIs r a = true) : r = .ok a := by
  cases r <;> simp_all [okIs]

/-- The value of an access that succeeds. -/
def excVal {ε α : Type} : Except ε α → Option α
  | .ok x => some x
  | .error _ => none
def accVal {α : Type} : Acc α → Option α
  | .ok x => some x
  | .miss _ | .fault _ => none
theorem exc_ok {ε α : Type} {r : Except ε α} {P : α → Prop} [DecidablePred P]
    (h : (excVal r).any (fun a => decide (P a)) = true) : ∃ a, r = .ok a ∧ P a := by
  cases r <;> simp_all [excVal]
theorem acc_ok {α : Type} {r : Acc α} {P : α → Prop} [DecidablePred P]
    (h : (accVal r).any (fun a => decide (P a)) = true) : ∃ a, r = .ok a ∧ P a := by
  cases r <;> simp_all [accVal]

/-- The first GiB of addresses reaches HBM, the next the Cistern of die 0, for every unit of front end 0. -/
def hbmLeaf : Leaf := ⟨0#9, 0, 14#4, 0, 0#8, true, true, false, 0#2, 1#2, 0#2⟩
def cisLeaf : Leaf := ⟨0#9, 0x40000000, 14#4, 0x8000000000, 0#8, true, true, false, 0#2, 1#2, 0#2⟩
def mapped (c : Ctx) : State := { dev c with
  cores := [(0, { Core.reset with
    leaves := [hbmLeaf, cisLeaf]
    gleaves := [hbmLeaf, cisLeaf]
    cleaves := [(0#2, hbmLeaf), (1#2, hbmLeaf)] })] }
/-- The values that an engine op reads from the registers of its context. -/
def argsOf (c : Ctx) (a b d : BitVec 6) : EngArgs := ⟨c.rS a, c.rS b, c.rS d, c.regs.m, c.regs.fmt⟩
theorem engineRuns {s : State} {h : OpHdr} {a b d : BitVec 6} (h1 : committing s = none) (h2 : windowCovers s = false) (h3 : OpRuns s h) :
    EngineRuns s h a b d (argsOf s.here a b d) := Or.inr ⟨h1, h2, h3, rfl⟩

/-! ### Witnesses: scalar ops -/

theorem witness_integerRegisterOps : OpRuns w0 hd ∧ bandOf [(w0.here.rS 3#6).band, (w0.here.rS 4#6).band] = some 0#8 := by
  unfold OpRuns; decide +kernel
theorem witness_divisions : OpRuns w0 hd ∧ bandOf [(w0.here.rS 3#6).band, (w0.here.rS 0#6).band] = some 0#8 := by
  unfold OpRuns; decide +kernel
theorem witness_bitFields : OpRuns w0 hd ∧ bandOf [(w0.here.rS 3#6).band] = some 0#8 ∧ (63#6).toNat + (0#6).toNat ≤ 63 ∧
    (w0.here.rP 1#4).poison = false ∧
    bandOf [(w0.here.rS 3#6).band, (w0.here.rS 4#6).band, (w0.here.rP 1#4).band] = some 0#8 := by
  unfold OpRuns; decide +kernel
theorem witness_bfi (x y : Word) (i : Nat) (_ : i < 64) : x.getLsbD i
    = if (0#6).toNat ≤ i ∧ i ≤ (0#6).toNat + (63#6).toNat then x.getLsbD (i - (0#6).toNat) else y.getLsbD i := by
  have : i ≤ 63 := by omega
  simp [this]
theorem witness_immediateOps : OpRuns w0 hd ∧ bandOf [(w0.here.rS 3#6).band, w0.immBand] = some 0#8 ∧
    bandOf [w0.immBand] = some 0#8 := by
  unfold OpRuns; decide +kernel
/-- Both outcomes of a compare, and a predicate of one byte. -/
theorem witness_compares : OpRuns w0 hd ∧ (15#4 : BitVec 4) ≠ 0#4 ∧
    bandOf [(w0.here.rS 3#6).band, (w0.here.rS 4#6).band] = some 0#8 ∧ bandOf [(w0.here.rS 3#6).band, w0.immBand] = some 0#8 ∧
    ((w0.here.rS 3#6).val = (w0.here.rS 4#6).val → (0#256 : BitVec 256) = BitVec.allOnes 256) ∧
    (¬ (w0.here.rS 3#6).val ≠ (w0.here.rS 4#6).val → BitVec.allOnes 256 = 0#256) ∧
    ((w0.here.rS 3#6).val.toInt = (64#32).toInt) ∧
    bandOf [(w0.here.rP 1#4).band, (w0.here.rP 2#4).band] = some 0#8 ∧ bandOf [(w0.here.rS 6#6).band] = some 0#8 ∧
    ∀ i, i < 256 → (1#256 : BitVec 256).getLsbD i = decide (i / VTy.i8.bytes < (w0.here.rS 6#6).val.toNat) := by
  unfold OpRuns; decide +kernel

/-- A context in the third of four groups of a body that is captured. -/
def loopCx : Ctx := { cx with regs := { cx.regs with loop := { Loop.reset with
  active := true, len := 4#6, cap := 2#6, depth := 6#3, nend := 5#48, ntot := 5#48 } } }
theorem witness_skips : hd.g = 0#4 ∧ OpRuns w0 hd ∧ 1 ≤ (64#32).toNat ∧ (64#32).toNat ≤ 64 ∧ bodyLeft w0.here = none ∧
    (w0.here.rP 1#4).poison = false ∧ 1 ≤ (16#5).toNat ∧ (16#5).toNat ≤ 16 ∧
    OpRuns (dev loopCx) hd ∧ bodyLeft (dev loopCx).here = some 1 ∧ 1 ≤ (1#32).toNat ∧ (1#32).toNat ≤ 1 := by
  unfold OpRuns; decide +kernel
/-- Fifteen entries in use, and a register to read and one to write. -/
def fifoCx : Ctx := { cx with gen := { cx.gen with
  fifo := List.replicate 14 ⟨0#64, 0#8, false⟩, popped := [⟨0#64, 0#8, false⟩] } }
theorem witness_messages : OpRuns (dev fifoCx) hd ∧ ((dev fifoCx).here.rS 3#6).poison = false ∧
    (dev fifoCx).here.gen.fifo.length + (dev fifoCx).here.gen.popped.length < 16 ∧
    bandOf [(dev fifoCx).here.band] = some 0#8 ∧ ((9#32 : BitVec 32) = 9#32 ∧ (0#64 : Word) = (dev fifoCx).time) ∧
    ((0#32 : BitVec 32) = 0#32 ∧ (0#64 : Word) = (dev fifoCx).here.regs.fmt) ∧
    bandLevel ((dev fifoCx).here.rS 3#6).band ≤ bandLevel (dev fifoCx).here.band ∧ ((6#32 : BitVec 32) = 6#32) := by
  unfold OpRuns; decide +kernel
def boundsCx (b : BitVec 32) : Ctx :=
  { cx with regs := { cx.regs with loop := { Loop.reset with bnd := Vector.replicate 6 b, len := 32#6 } } }
/-- Bounds 255 give a product below 2^48, bounds 0 the product 0; and a context inside a nest. -/
theorem witness_loops : OpRuns w0 hd ∧ w0.here.regs.loop.active = false ∧ (5#32).toNat ≤ 5 ∧ (w0.here.rS 3#6).poison = false ∧
    1 ≤ (32#32).toNat ∧ (32#32).toNat ≤ 32 ∧ 1 ≤ (1#6).toNat ∧
    (OpRuns (dev (boundsCx 255#32)) hd ∧ (dev (boundsCx 255#32)).here.regs.loop.active = false ∧ 1 ≤ (6#3).toNat ∧ (6#3).toNat ≤ 6 ∧
      (dev (boundsCx 255#32)).here.regs.loop.len ≠ 0#6 ∧
      (274941996890625 = (((dev (boundsCx 255#32)).here.regs.loop.bnd.toList.take (6#3).toNat).map (fun x => x.toNat)).prod) ∧
      274941996890625 < 2 ^ 48 ∧ 274941996890625 ≠ 0) ∧
    (0 = (((dev (boundsCx 0#32)).here.regs.loop.bnd.toList.take (1#3).toNat).map (fun x => x.toNat)).prod) ∧
    OpRuns (dev loopCx) hd ∧ (dev loopCx).here.regs.loop.active = true ∧ bandOf [(dev loopCx).here.band] = some 0#8 := by
  unfold OpRuns; decide +kernel

/-! ### Witnesses: vector and softmax ops -/

/-- Stream q0 has a vector ready; p2 is 0 but for the bytes of its last lane. -/
def vecCx : Ctx := { cx with regs := { cx.regs with
  p := vset cx.regs.p 2#4 ⟨BitVec.ofNat 256 (15 * 2 ^ 252), 0#8, false⟩
  streams := vset cx.regs.streams 0#3 ⟨true, 0#512, 0, 0, some ⟨zeroVReg, false, false, none, 0#2⟩, none⟩ } }
def wv : State := dev vecCx

theorem witness_vectorIntegerOps : LaneRuns wv h2 ∧ LaneActive wv h2 4 63 ∧ ∃ vs, srcVals wv.here [.v 1#6, .q 0#3, .v 3#6] = .ok vs ∧
    bandOf (vecBands wv h2 2#6 (vs.map (·.band))) = some 0#8 := by
  refine ⟨by unfold LaneRuns; decide +kernel, by unfold LaneActive; decide +kernel, exc_ok (by unfold vecBands; decide +kernel)⟩
theorem witness_vectorFloatOps : LaneRuns wv hd ∧ ∃ vs, srcVals wv.here [.q 0#3, .v 2#6] = .ok vs ∧
    bandOf (vecBands wv hd 2#6 (vs.map (·.band))) = some 0#8 := by
  refine ⟨by unfold LaneRuns; decide +kernel, exc_ok (by unfold vecBands; decide +kernel)⟩
/-- The last lane of each width; `vins` with its lane active and inactive. -/
theorem witness_vectorMoves : LaneRuns wv h2 ∧ VTy.i16.bytes ≠ 1 ∧ (63#8).toNat < 256 / VTy.f32.bytes ∧ LaneActive wv h2 4 63 ∧
    ¬ LaneActive wv h2 4 62 ∧ bandOf (vecBands wv h2 2#6 [(wv.here.rS 3#6).band]) = some 0#8 ∧
    bandOf ([(wv.here.rS 3#6).band, (wv.here.rV 2#6).band] ++ if h2.g = 0#4 then [] else [(wv.here.rP h2.g).band]) = some 0#8 ∧
    ∃ vs, srcVals wv.here [.v 1#6, .v 2#6, .v 3#6] = .ok vs ∧ bandOf (vecBands wv h2 2#6 (vs.map (·.band))) = some 0#8 := by
  unfold LaneRuns LaneActive vecBands
  refine ⟨by decide +kernel, by decide, by decide, by decide +kernel, by decide +kernel, by decide +kernel, by decide +kernel,
    exc_ok (by decide +kernel)⟩
theorem witness_vectorSelectsComparesReductions : LaneRuns wv h2 ∧ (15#4 : BitVec 4) ≠ 0#4 ∧ (wv.here.rP 1#4).poison = false ∧
    (5#3).toNat ≤ 5 ∧ 2 ^ (6#4).toNat ≤ 256 / VTy.f32.bytes ∧ (Rms.fmt = .fmt ∨ VTy.f32.isFp = true) ∧
    (63#8).toNat < 256 / VTy.f32.bytes ∧ LaneActive wv h2 4 63 ∧ ¬ LaneActive wv h2 4 0 ∧
    ∃ vs, srcVals wv.here [.v 1#6, .q 0#3] = .ok vs ∧
      (bandOf (vs.map (·.band) ++ [(wv.here.rP 1#4).band] ++ if h2.g = 0#4 then [] else [(wv.here.rP h2.g).band, (wv.here.rV 2#6).band])
        = some 0#8 ∧
      bandOf (vs.map (·.band) ++ if h2.g = 0#4 then [] else [(wv.here.rP h2.g).band, (wv.here.rP 15#4).band]) = some 0#8 ∧
      bandOf (vs.map (·.band) ++ if h2.g = 0#4 then [] else [(wv.here.rP h2.g).band, (wv.here.rS 3#6).band]) = some 0#8) := by
  unfold LaneRuns LaneActive
  refine ⟨by decide +kernel, by decide, by decide +kernel, by decide, by decide, by decide, by decide, by decide +kernel,
    by decide +kernel, exc_ok (by decide +kernel)⟩
theorem witness_vectorConversionsAlgebra : LaneRuns wv hd ∧ wfCvt true true 9#4 0#4 = true ∧ wfCvt false false 0#4 8#4 = true ∧
    wfQfmt 9#4 = true ∧ wfQfmt 0#4 = true ∧ ∃ vs, srcVals wv.here [.v 1#6, .q 0#3, .v 3#6] = .ok vs ∧
      bandOf (vecBands wv hd 2#6 (vs.map (·.band))) = some 0#8 := by
  unfold LaneRuns vecBands
  refine ⟨by decide +kernel, by decide, by decide, by decide, by decide, exc_ok (by decide +kernel)⟩
theorem witness_softmaxOps : OpRuns wv hd ∧ LaneRuns wv h2 ∧ (63#6).toNat + (0#5).toNat ≤ 63 ∧
    (32#6).toNat + (31#5).toNat ≤ 63 ∧ bandOf [wv.here.regs.softmax.band] = some 0#8 ∧
    bandOf (vecBands wv hd 2#6 [wv.here.regs.softmax.band]) = some 0#8 ∧
    ∃ vs, srcVals wv.here [.v 1#6] = .ok vs ∧
      (bandOf (wv.here.regs.softmax.band :: vs.map (·.band) ++ [(wv.here.rP h2.g).band]) = some 0#8 ∧
       bandOf (vecBands wv h2 2#6 [0#8]) = some 0#8 ∧
       bandOf (vecBands wv h2 2#6 (wv.here.regs.softmax.band :: vs.map (·.band))) = some 0#8) := by
  unfold OpRuns LaneRuns vecBands
  refine ⟨by decide +kernel, by decide +kernel, by decide, by decide, by decide +kernel,
    by decide +kernel, exc_ok (by decide +kernel)⟩

/-! ### Witnesses: memory -/

theorem reads_of {s : State} {r : LoadReq} (h0 : (s.here.dbg && r.pieces.any (readsPendingWord s.here.spm)) = false)
    (h : ((excVal (readSpm s.here.spm r.pieces)).bind (fun d => excVal (loadWrites r.dst d))).isSome = true) :
    ∃ w, WindowReads s r w := by
  unfold WindowReads
  cases hr : readSpm s.here.spm r.pieces with
  | error e => simp [hr, excVal] at h
  | ok d =>
    cases hw : loadWrites r.dst d with
    | error e => simp [hr, hw, excVal] at h
    | ok w => exact ⟨w, h0, d, rfl, hw⟩

/-- A legal stream descriptor of one bf16 element without steps (R246). -/
def desc : BitVec 512 :=
  BitVec.ofNat 512 (2 ^ 160 + 2 ^ 176 + 2 ^ 192 + 2 * 2 ^ 208 + 10 * 2 ^ 220 + 6 * 2 ^ 224)
/-- Line 14 of the window holds the descriptor; ring 0 has 4 tiles of 512 bytes, two of them filled, its head at the last. -/
def memCx : Ctx := { cx with
  regs := { cx.regs with s := vset cx.regs.s 7#6 (val 256#64) }
  spm := ⟨4096, [(14, ⟨desc.setWidth 2048, 0#8, false, 0#4⟩)], [], []⟩
  eng := { cx.eng with mat := { cx.eng.mat with
    rings := vset cx.eng.mat.rings 0#4 ⟨4#9, 2#11, 0#21, true, 2#9, 0#8, 3#8⟩
    scale := List.replicate 128 ⟨true, 0#8, 0#8, 0#8, false⟩ } } }
def wm : State := mapped memCx

/-- The last bytes of the window for each width, and memory; a ring's tile; lanes in the window (64 bytes apart, to its end)
and in memory. -/
theorem witness_loads : OpRuns wm hd ∧ LaneRuns wm h2 ∧ (wm.here.rS 2#6).poison = false ∧
    ((3#3).toNat ≤ 3 ∧ aligned ((wm.here.rS 2#6).val + (0xFF8#24).signExtend 64) (2 ^ (3#3).toNat) = true ∧
      isSpm ((wm.here.rS 2#6).val + (0xFF8#24).signExtend 64) = true ∧
      ∃ w, WindowReads wm ⟨.s 8#6, piecesOf ((wm.here.rS 2#6).val + (0xFF8#24).signExtend 64) 8, false, 0#2, false, none⟩ w) ∧
    (aligned ((wm.here.rS 1#6).val + (0xFF8#24).signExtend 64) 8 = true ∧ isSpm ((wm.here.rS 1#6).val + (0xFF8#24).signExtend 64) = false) ∧
    (4 ≤ (7#3).toNat ∧ aligned ((wm.here.rS 2#6).val + (0xF00#24).signExtend 64) (sizeBytes 7#3) = true ∧
      ∃ w, WindowReads wm ⟨.v 8#6 (BitVec.allOnes 256) [], piecesOf ((wm.here.rS 2#6).val + (0xF00#24).signExtend 64) 256,
        false, 0#2, false, none⟩ w) ∧
    (aligned ((wm.here.rS 2#6).val + (0xE00#24).signExtend 64) 64 = true ∧
      (∃ w, WindowReads wm ⟨.stream 1#3, piecesOf ((wm.here.rS 2#6).val + (0xE00#24).signExtend 64) 64, true, 1#2, false, none⟩ w) ∧
      EngineRuns wm hd 2#6 0#6 0#6 (argsOf wm.here 2#6 0#6 0#6) ∧ (argsOf wm.here 2#6 0#6 0#6).a.poison = false ∧
      ∃ w, WindowReads wm ⟨.mregs, piecesOf ((argsOf wm.here 2#6 0#6 0#6).a.val + (0xE00#24).signExtend 64) 64, false, 0#2, false, none⟩ w) ∧
    ((wm.here.rS 7#6).poison = false ∧ (wm.here.eng.mat.ring 0#4).valid = true ∧ (1#8).toNat < (wm.here.eng.mat.ring 0#4).count.toNat ∧
      (1#8).toNat < (wm.here.eng.mat.ring 0#4).fill.toNat ∧
      (wm.here.rS 7#6).val.toNat < (wm.here.eng.mat.ring 0#4).tsz.toNat * 256 ∧ (wm.here.rS 7#6).val.toNat % 256 = 0 ∧
      ∃ w, WindowReads wm ⟨.v 8#6 (BitVec.allOnes 256) [], piecesOf (spmEa 256) 256, false, 0#2, false, none⟩ w) := by
  have hr : OpRuns wm hd := by unfold OpRuns; decide +kernel
  refine ⟨hr, by unfold LaneRuns; decide +kernel, by decide +kernel,
    ⟨by decide, by decide +kernel, by decide +kernel, reads_of (by decide +kernel) (by decide +kernel)⟩,
    ⟨by decide +kernel, by decide +kernel⟩,
    ⟨by decide, by decide +kernel, reads_of (by decide +kernel) (by decide +kernel)⟩,
    ⟨by decide +kernel, reads_of (by decide +kernel) (by decide +kernel), engineRuns (by decide +kernel) (by decide +kernel) hr,
      by decide +kernel, reads_of (by decide +kernel) (by decide +kernel)⟩,
    ⟨by decide +kernel, by decide +kernel, by decide +kernel, by decide +kernel, by decide +kernel, by decide +kernel,
      reads_of (by decide +kernel) (by decide +kernel)⟩⟩
/-- Lane accesses: vlds at a distance of 64 bytes reaches the window's last lane; from s1 it reads memory. -/
theorem witness_laneLoads : LaneRuns wm hg ∧ activeLanes (wm.here.rP 1#4) 4 ≠ [] ∧ (wm.here.rS 3#6).poison = false ∧
    (∀ k ∈ activeLanes (wm.here.rP 1#4) 4, (wm.here.rV 9#6).poison.getLsbD (4 * k / 64) = false) ∧
    (∀ k ∈ activeLanes (wm.here.rP 1#4) 4, ((wm.here.rS 2#6).val + BitVec.ofNat 64 k * (wm.here.rS 3#6).val).toNat % 4 = 0) ∧
    (∀ k ∈ activeLanes (wm.here.rP 1#4) 4, isSpm ((wm.here.rS 2#6).val + BitVec.ofNat 64 k * (wm.here.rS 3#6).val) = true) ∧
    (∀ k ∈ activeLanes (wm.here.rP 1#4) 4, isSpm ((wm.here.rS 1#6).val + BitVec.ofNat 64 k * (wm.here.rS 3#6).val) = false) ∧
    ∃ w, WindowReads wm ⟨.v 8#6 (lanesMask 4 (activeLanes (wm.here.rP 1#4) 4)) [(wm.here.rP 1#4).band, (wm.here.rV 8#6).band], (activeLanes (wm.here.rP 1#4) 4).map (fun i =>
      ⟨4 * i, (wm.here.rS 2#6).val + BitVec.ofNat 64 i * (wm.here.rS 3#6).val, 4⟩), false, 0#2, false, none⟩ w := by
  refine ⟨by unfold LaneRuns; decide +kernel, by decide +kernel, by decide +kernel, by decide +kernel, by decide +kernel,
    by decide +kernel, by decide +kernel, reads_of (by decide +kernel) (by decide +kernel)⟩
theorem witness_windowWordLoad :
    let ea := (wm.here.rS 2#6).val + (0xFF8#24).signExtend 64
    let o := ea.toNat - 0xFFFFFFFFFFE00000
    OpRuns wm hd ∧ (3#3).toNat ≤ 3 ∧ (wm.here.rS 2#6).poison = false ∧ ea.toNat % 2 ^ (3#3).toNat = 0 ∧
    0xFFFFFFFFFFE00000 ≤ ea.toNat ∧ o + 2 ^ (3#3).toNat ≤ wm.here.spm.size ∧ (spmLine wm.here.spm (o / 256)).form = false ∧
    wm.here.dbg = false ∧ bandOf [(spmLine wm.here.spm (o / 256)).band] = some 0#8 := by
  unfold OpRuns; decide +kernel

/-- Eight bytes of s3. -/
def bytes8 : SpmBytes := (List.range 8).map (fun i => (i, (wm.here.rS 3#6).val.extractLsb' (8 * i) 8, (wm.here.rS 3#6).poison))
def lanes4 (base : Word) : SpmBytes := (activeLanes (wm.here.rP 1#4) 4).flatMap (fun k => (List.range 4).map (fun i =>
  (spmOff (base + BitVec.ofNat 64 k * (wm.here.rS 3#6).val) + i,
    (wm.here.rV 9#6).bits.extractLsb' (8 * (4 * k + i)) 8, (wm.here.rV 9#6).poison.getLsbD ((4 * k + i) / 64))))
/-- A gate with room for exactly one entry. -/
def wgate : State := mapped { memCx with stq := ⟨List.replicate 127 ⟨0, 0#64, [], [], 0#8, false, 0#2, 1#2, false, 0#64, false⟩, [], []⟩ }
theorem witness_stores :
    OpRuns wm hd ∧ LaneRuns wm hg ∧ aligned ((wm.here.rS 2#6).val + (0xFF8#24).signExtend 64) 8 = true ∧
    (isSpm ((wm.here.rS 2#6).val + (0xFF8#24).signExtend 64) = true ∧
      spmOff ((wm.here.rS 2#6).val + (0xFF8#24).signExtend 64) + 8 ≤ wm.here.spm.size ∧
      spmStoreFault wm.here ((wm.here.rS 2#6).val + (0xFF8#24).signExtend 64) 0#8 [15] (bytes8.map (fun p => (4088 + p.1, p.2))) = none) ∧
    (isSpm ((wgate.here.rS 1#6).val + (0xFF8#24).signExtend 64) = false ∧ ∃ plan,
      planStore wgate wgate.cur .core 0#2 0#8 bytes8 (piecesOf ((wgate.here.rS 1#6).val + (0xFF8#24).signExtend 64) 8) = .ok plan ∧
      wgate.here.stq.gate.length + (plan.entries wgate.here.nextSeq 0xFF8#64 0#8 false 0#2).length ≤ 128) ∧
    (4 ≤ (7#3).toNat ∧ aligned ((wm.here.rS 2#6).val + (0xF00#24).signExtend 64) (sizeBytes 7#3) = true ∧
      spmOff ((wm.here.rS 2#6).val + (0xF00#24).signExtend 64) + 256 ≤ wm.here.spm.size) ∧
    ((wm.here.rS 7#6).poison = false ∧ (1#8).toNat < (wm.here.eng.mat.ring 0#4).count.toNat - (wm.here.eng.mat.ring 0#4).fill.toNat ∧
      spmStoreFault wm.here (spmEa 768) 0#8 [3] ((List.range 256).map (fun i => (768 + i, 0#8, false))) = none) ∧
    (activeLanes (wm.here.rP 1#4) 4 ≠ [] ∧ activeLanes (wm.here.rP 3#4) 4 = [] ∧ (∀ k ∈ activeLanes (wm.here.rP 1#4) 4,
        isSpm ((wm.here.rS 2#6).val + BitVec.ofNat 64 k * (wm.here.rS 3#6).val) = true ∧
        spmOff ((wm.here.rS 2#6).val + BitVec.ofNat 64 k * (wm.here.rS 3#6).val) + 4 ≤ wm.here.spm.size) ∧
      spmStoreFault wm.here (wm.here.rS 2#6).val 0#8
        ((activeLanes (wm.here.rP 1#4) 4).map (fun k => spmOff ((wm.here.rS 2#6).val + BitVec.ofNat 64 k * (wm.here.rS 3#6).val) / 256)).eraseDups
        (lanes4 (wm.here.rS 2#6).val) = none ∧
      ∃ plan, planStore wm wm.cur .core 0#2 0#8
        ((activeLanes (wm.here.rP 1#4) 4).flatMap (fun k => (List.range 4).map (fun i => (4 * k + i, 0#8, false))))
        ((activeLanes (wm.here.rP 1#4) 4).map (fun k => ⟨4 * k, (wm.here.rS 1#6).val + BitVec.ofNat 64 k * (wm.here.rS 3#6).val, 4⟩))
          = .ok plan ∧ wm.here.stq.gate.length + (plan.entries wm.here.nextSeq 0#64 0#8 false 0#2).length ≤ 128) := by
  refine ⟨by unfold OpRuns; decide +kernel, by unfold LaneRuns; decide +kernel, by decide +kernel,
    ⟨by decide +kernel, by decide +kernel, by decide +kernel⟩, ⟨by decide +kernel, acc_ok (by decide +kernel)⟩,
    ⟨by decide, by decide +kernel, by decide +kernel⟩, ⟨by decide +kernel, by decide +kernel, by decide +kernel⟩,
    ⟨by decide +kernel, by decide +kernel, by decide +kernel, by decide +kernel, acc_ok (by decide +kernel)⟩⟩
/-- `vldc` in bank 1 of the core's own die while bank 0 refreshes. `lsq` of 128 pairs into a queue that holds 128: from the
window, and from memory where nothing is outstanding. `pref` of a known page. -/
theorem witness_cisternScale :
    OpRuns wm hd ∧ (wm.here.rS 1#6).poison = false ∧ 6 ≤ (7#3).toNat ∧
    (let ea : Word := 0x40000100#64
     isSpm ea = false ∧ aligned ea 256 = true ∧ (∀ k ∈ pieceKeysOf wm wm.cur (piecesOf ea 256), spacePa k = .cistern (dieOf wm.cur) ∧ k / 256 % 32 ≠ wm.refresh.toNat / 2016) ∧
      ∃ dat, readMem wm wm.cur .core false 0#2 spCistern [] 0 (piecesOf ea 256) = .ok dat ∧
        (excVal (loadWrites (.v 8#6 (BitVec.allOnes 256) []) dat)).isSome = true) ∧
    ((7#3 : BitVec 3) ≠ 0#3 ∧ wm.here.eng.mat.scale.length + 256 / 2 ≤ 256 ∧
      (∃ l, readEach (lsqRead wm true 2#2) (piecesOf (wm.here.rS 2#6).val 256) = .ok l ∧ (l.flatMap linePairs).length = 128) ∧
      readsShadow wm.here (piecesOf (wm.here.rS 2#6).val 256) = false ∧
      (∃ l, readEach (lsqRead wm true 2#2) (piecesOf (wm.here.rS 1#6).val 256) = .ok l ∧ (l.flatMap linePairs).length = 128) ∧
      mayRead wm wm.cur wm.here.nextSeq true (piecesOf (wm.here.rS 1#6).val 256) = true) ∧
    (1#6).toNat ≤ 1 ∧
    (let pp := piecesOf ((wm.here.rS 1#6).val - BitVec.ofNat 64 ((wm.here.rS 1#6).val.toNat % 256)) 256
     maintBlocks wm.here wm.here.nextSeq (lineKeys wm wm.cur pp) = false ∧
     (∃ dat, readMem wm wm.cur .core false 0#2 spLoad [] 0 pp = .ok dat ∧ dat.bands = dat.bands) ∧
     ∀ l ∈ unitLeaves wm wm.cur .core, l.guard = false) := by
  refine ⟨by unfold OpRuns; decide +kernel, by decide +kernel, by decide, ⟨by decide +kernel, by decide +kernel, by decide +kernel, acc_ok (by decide +kernel)⟩,
    ⟨by decide, by decide +kernel, acc_ok (by decide +kernel), by decide +kernel, acc_ok (by decide +kernel), by decide +kernel⟩, by decide,
    by decide +kernel, acc_ok (by decide +kernel), by decide +kernel⟩
theorem witness_atomicsMaintenance :
    OpRuns wm hd ∧ wfAmo 10#4 2#2 (0#6 == 0#6) = true ∧ wfAmo 9#4 3#2 (1#6 == 0#6) = true ∧ (wm.here.rS 1#6).poison = false ∧
    isSpm (wm.here.rS 1#6).val = false ∧ (wm.here.rS 1#6).val.toNat % 2 ^ (3#2).toNat = 0 ∧
    (6 ≤ (7#3).toNat ∧ (2#2 : BitVec 2) ≠ 0#2 ∧ (wm.here.rS 1#6).val.toNat % 64 = 0 ∧ translate wm wm.cur .core (wm.here.rS 1#6).val = .ok hbmLeaf ∧
      leafFault hbmLeaf (wm.here.rS 1#6).val true 0#2 spStore = none ∧ bandStoreOk wm.here.band hbmLeaf.band = true) ∧
    (1 ≤ (2#9).toNat ∧ (2#9).toNat ≤ 256 ∧ (wm.here.eng.mat.ring 0#4).valid = true ∧
      (wm.here.eng.mat.ring 0#4).fill.toNat + pendingTiles wm.here.eng.mat 0#4 + (2#9).toNat ≤ (wm.here.eng.mat.ring 0#4).count.toNat) := by
  unfold OpRuns; decide +kernel

/-! ### Witnesses: the matrix unit -/

/-- One patch of int8 operands, one K tile of n blocks; rings 0 and 1; PITCH 256. -/
def prm (n : Nat) : Vector MReg 8 :=
  #v[⟨BitVec.ofNat 64 (3 + 3 * 16 + 1 * 2 ^ 12 + n * 2 ^ 24), 0#8⟩, ⟨BitVec.ofNat 64 (1 + 16 + n * 2 ^ 32), 0#8⟩, ⟨0#64, 0#8⟩, ⟨0#64, 0#8⟩,
    ⟨0x10000000000#64, 0#8⟩, ⟨0#64, 0#8⟩, ⟨0#64, 0#8⟩, ⟨0#64, 0#8⟩]
def mcmd (kind : MKind) (n : Nat) : MCmd := ⟨0#9, 1#64, kind, prm n, realTable, 0#2, 0#2, 0#64, 0#8, false, 0#64, 0#64⟩
/-- A routine that has started at word 0. -/
def mrun (kind : MKind) (n : Nat) : MRun := MRun.start (mcmd kind n) 0 0 false .words
/-- Rings 0 and 1 with one full tile each, and the run that the context holds. -/
def matCx (n : Nat) (run : Option MRun) (frozen : Bool) : Ctx := { cx with
  regs := { cx.regs with m := prm n }
  spm := ⟨16384, [], [], []⟩
  eng := { cx.eng with mat := { cx.eng.mat with
    rings := vset (vset cx.eng.mat.rings 0#4 ⟨1#9, 16#11, 0#21, true, 1#9, 0#8, 0#8⟩) 1#4 ⟨1#9, 32#11, 4096#21, true, 1#9, 0#8, 0#8⟩
    scale := [⟨true, 0#8, 0#8, 0#8, false⟩]
    run := run
    frozen := frozen } } }
/-- Program 0 is listed, and the core's queue holds seven commands. -/
def matDev (c : Ctx) : State := { dev c with
  cores := [(0, { Core.reset with
    ptab := [(0, 512#10)]
    mq := List.replicate 7 (mcmd .zero 1)
    bstore := [(0, 0x48000001#32), (1, 0x50000000#32)] })] }

theorem witness_matrixCommands :
    let s := matDev (matCx 1 none false)
    let x := argsOf s.here 3#6 0#6 0#6
    (s.core (coreOf s.cur)).mq.length < 8 ∧ s.here.eng.mat.saved = [] ∧ EngineRuns s hd 3#6 0#6 0#6 x ∧
    EngineRuns s hd 0#6 0#6 0#6 (argsOf s.here 0#6 0#6 0#6) ∧
    mcallFieldsOk s x.params true true false = true ∧ x.a.poison = false ∧ drainAligned x.params = true ∧
    mcallPlacesOk s s.cur x.params (algDim (s.here.eng.mat.table (fmtAlg x.fmt))) = true ∧
    s.here.eng.mat.frozen = false := by
  have hr (h : OpHdr) (e : h = hd) : OpRuns (matDev (matCx 1 none false)) h := by subst e; unfold OpRuns; decide +kernel
  exact ⟨by decide +kernel, by decide +kernel, engineRuns (by decide +kernel) (by decide +kernel) (hr _ rfl),
    engineRuns (by decide +kernel) (by decide +kernel) (hr _ rfl), by decide +kernel, by decide +kernel, by decide +kernel,
    by decide +kernel, by decide +kernel⟩
/-- A context without a run, one with a started routine, and one frozen with its routine held. -/
theorem witness_matrixRegisters :
    let s0 := matDev (matCx 1 none false)
    let s1 := matDev (matCx 1 (some (mrun .zero 1)) false)
    let s2 := matDev (matCx 1 (some (mrun .zero 1)) true)
    (EngineRuns s0 hd 3#6 0#6 0#6 (argsOf s0.here 3#6 0#6 0#6) ∧ s0.here.eng.mat.frozen = false ∧ s0.here.eng.mat.run = none) ∧
    (EngineRuns s1 hd 3#6 0#6 0#6 (argsOf s1.here 3#6 0#6 0#6) ∧ s1.here.eng.mat.frozen = false ∧ s1.here.eng.mat.run = some (mrun .zero 1)) ∧
    (EngineRuns s2 hd 3#6 0#6 0#6 (argsOf s2.here 3#6 0#6 0#6) ∧ (argsOf s2.here 3#6 0#6 0#6).a.poison = false ∧ (17#5).toNat ≤ 17 ∧
      s2.here.eng.mat.frozen = true ∧ s2.here.eng.mat.run = some (mrun .zero 1) ∧
      (raiseBand s2.here.eng.mat ((mrun .zero 1).setWord 17 64#64) [0#8]).isSome = true) := by
  have hr (r : Option MRun) (f : Bool) (e : r = none ∨ r = some (mrun .zero 1)) : OpRuns (matDev (matCx 1 r f)) hd := by
    rcases e with e | e <;> subst e <;> cases f <;> (unfold OpRuns; decide +kernel)
  refine ⟨⟨engineRuns (by decide +kernel) (by decide +kernel) (hr _ _ (.inl rfl)), by decide +kernel, by decide +kernel⟩,
    ⟨engineRuns (by decide +kernel) (by decide +kernel) (hr _ _ (.inr rfl)), by decide +kernel, by decide +kernel⟩,
    ⟨engineRuns (by decide +kernel) (by decide +kernel) (hr _ _ (.inr rfl)), by decide +kernel, by decide +kernel,
      by decide +kernel, by decide +kernel, by decide +kernel⟩⟩

/-- The result of a part of a micro-word that ends well. -/
def mresRun : MRes → Option MRun
  | .ok _ r _ => some r
  | .wait _ | .fault _ => none
theorem mres_ok {x : MRes} {P : MRun → Prop} [DecidablePred P] (h : (mresRun x).any (fun r => decide (P r)) = true) :
    ∃ m r l, x = .ok m r l ∧ P r := by
  cases x <;> simp_all [mresRun]

/-- A run whose latches hold a block of A and of B. -/
def latched (n : Nat) : MRun := { ((mrun (.call 0#4 0#6 0#16) n).setLatch 0 0 0).setLatch 1 0 0 with
  latA := some ⟨List.replicate 64 0, List.replicate 64 false⟩
  latB := some ⟨List.replicate 64 0, List.replicate 64 false⟩ }
theorem witness_microWords :
    let s := matDev (matCx 1 (some (latched 1)) false)
    let r := latched 1
    MicroRuns s r ∧ (4#3 : BitVec 3) ≠ 7#3 ∧ (5#3 : BitVec 3) ≠ 7#3 ∧ r.going.idx 4#3 = some 0 ∧ r.going.idx 5#3 = some 0 ∧
    (∃ m' r' sends, pull s.here 0 0 0 s.here.eng.mat r.going = .ok m' r' sends ∧ r'.mpc + 1 < 4096) ∧
    (∃ m' r' sends, pull s.here 1 0 0 s.here.eng.mat r.going = .ok m' r' sends ∧ r'.mpc + 1 < 4096) ∧ pmGSZL r.params = 0 ∧
    (s.here.eng.mat.scale = [⟨true, 0#8, 0#8, 0#8, false⟩] ∧
      (raiseBand { s.here.eng.mat with scale := [] } r.going [0#8]).isSome = true) ∧
    (0 < pmMP r.params ∧ 0 < pmNP r.params ∧ (blockScaled (pmFA r.params) || blockScaled (pmFB r.params)) = false ∧ r.latValid 0 = true ∧
      r.latValid 1 = true ∧ pmSPN r.params = 0 ∧ (stepPatch s.here.eng.mat r.going 0 0).2.mpc + 1 < 4096) ∧
    (r.instk = false ∧ 0 < pmKTB r.params (r.c 0) ∧ pmKTB r.params (r.c 0) = 0 + 1 ∧
      ∃ m' r' sends, stepkBody s.here 0 0 0 0 0 s.here.eng.mat r.going = .ok m' r' sends ∧
        ((r'.setField 10 22 1 0).setField 10 42 8 0).mpc + 1 < 4096) ∧
    (0 + 1 < pmKTB (latched 2).params ((latched 2).c 0) ∧
      MicroRuns (matDev (matCx 2 (some (latched 2)) false)) (latched 2) ∧
      ∃ m' r' sends, stepkBody (matDev (matCx 2 (some (latched 2)) false)).here 0 0 0 0 0
        (matDev (matCx 2 (some (latched 2)) false)).here.eng.mat (latched 2).going = .ok m' r' sends ∧ r'.mpc = 0) := by
  intro s r
  refine ⟨by unfold MicroRuns; decide +kernel, by decide, by decide, by decide +kernel, by decide +kernel,
    mres_ok (by decide +kernel), mres_ok (by decide +kernel), by decide +kernel, ⟨by decide +kernel, by decide +kernel⟩,
    ⟨by decide +kernel, by decide +kernel, by decide +kernel, by decide +kernel, by decide +kernel, by decide +kernel, by decide +kernel⟩,
    ⟨by decide +kernel, by decide +kernel, by decide +kernel, mres_ok (by decide +kernel)⟩,
    ⟨by decide +kernel, by unfold MicroRuns; decide +kernel, mres_ok (by decide +kernel)⟩⟩
/-- A finished K tile: no block is left (n ≤ b). -/
theorem witness_microStepkEnd : pmKTB (latched 1).params ((latched 1).setC 0 1 |>.c 0) ≤ 0 := by decide +kernel

/-- A run one loop deep, with its last word at 1. -/
def looped (c : Nat) : MRun := ((((mrun (.call 4#4 0#6 0#16) 1).setField 10 18 3 1).setC 0 c).setN 0 3).setMpc 1
theorem witness_microLoops :
    let r := mrun (.call 4#4 0#6 0#16) 1
    let s := matDev (matCx 1 (some r) false)
    let t := matDev (matCx 1 (some (looped 0)) false)
    MicroRuns s r ∧
    ((4#3 : BitVec 3) ≠ 7#3 ∧ r.going.idx 4#3 = some 0 ∧ 0 < pmMP r.params ∧ 0 < pmNP r.params ∧
      drainFault s s.cur r.params r.dim = none ∧ progEntry s s.cur (pmPROG r.params) = some 0) ∧
    ((0#3).toNat = r.depth ∧ (0#3).toNat < 4 ∧ r.going.count 0#3 1#16 = some 1 ∧ r.going.count 0#3 0#16 = some 0 ∧
      afterEndl s s.cur (r.mpc + 1) 0 (4096 - (r.mpc + 1)) < 4096) ∧
    (MicroRuns t (looped 0) ∧ (looped 0).depth ≠ 0 ∧ (looped 0).c ((looped 0).depth - 1) + 1 < (looped 0).n ((looped 0).depth - 1) ∧
      loopBody t t.cur 0 (looped 0).mpc < 4096) ∧
    ((looped 2).depth ≠ 0 ∧ (looped 2).n ((looped 2).depth - 1) ≤ (looped 2).c ((looped 2).depth - 1) + 1) ∧
    (pmGSZL r.params = 0 ∧ (r.going.setOrdinal (r.ordinal + 1)).mpc + 1 < 4096) ∧
    ((0#2 : BitVec 2) ≠ 3#2 ∧ (s.here.eng.mat.ring (r.handle 0)).valid = true ∧
      (1#9).toNat ≤ (s.here.eng.mat.ring (r.handle 0)).count.toNat ∧ (1#9).toNat ≤ (s.here.eng.mat.ring (r.handle 0)).fill.toNat) ∧
    (r.going.setField 10 21 1 (if r.swp then 0 else 1)).mpc + 1 < 4096 ∧
    (r.depth = 0 ∧ r.cmd.kind = .call 4#4 0#6 0#16 ∧ (4#4).getLsbD 2 = true ∧ (0#4 : BitVec 4).getLsbD 2 = false ∧
      pmMP (((r.going.setPops 0 0).setPops 1 0).setPops 2 0 |>.setField 15 45 1 1).params ≠ 0) := by
  unfold MicroRuns; decide +kernel

/-- A drain of the only patch, at the last word of a run. -/
def trimmed (row j : Nat) : MRun := { (mrun .drain 1).setDrain 0 0 row j with
  phase := .drainLoop
  trun := { TRun.fresh 510 0#8 with
    steps := 63
    o := some (3#4, List.replicate 64 1) } }
theorem witness_trimmerWords :
    let r := trimmed 0 0
    let s := matDev (matCx 1 (some r) false)
    let stepped : MRun := { r with trun := { r.trun with steps := r.trun.steps + 1 } }
    TrimRuns s r ∧ r.accRow < 16 * s.here.eng.mat.units ∧ (63#6).toNat < 16 * s.here.eng.mat.units ∧
    (raiseBand s.here.eng.mat stepped [unitBand s.here.eng.mat 3]).isSome = true ∧
    ((raiseBand s.here.eng.mat stepped [unitBand s.here.eng.mat 3]).bind (fun x => raiseBand x.1 x.2 [unitBand x.1 0])).isSome = true ∧
    ((5#4).toNat ≤ 5 ∧ 1 ≤ (16#5).toNat ∧ (16#5).toNat ≤ 16) ∧ ((2#2 : BitVec 2) ≠ 3#2 ∧ (2#2 : BitVec 2) = 2#2) ∧
    (3 ≤ (12#4).toNat ∧ (12#4).toNat ≤ 12 ∧ wfQfmt 9#4 = true) ∧
    (let o := pmRES r.params + r.row * pmRPITCH r.params + r.col * 4
     o + 64 * 4 ≤ s.here.spm.size ∧ (∀ l ∈ spmRangeLines o (64 * 4), (spmLine s.here.engineSpm l).form = false) ∧
      (raiseBand s.here.eng.mat stepped ((spmRangeLines o (64 * 4)).map (fun l => (spmLine s.here.engineSpm l).band))).isSome = true) ∧
    (r.trun.o = some (3#4, List.replicate 64 1) ∧
      pmDST r.params + r.row * pmPITCH r.params + r.col * fmtBits 3#4 / 8 + 64 ≤ s.here.spm.size ∧
      engineTenantBad s.here.spm r.band ((List.range 64).map (fun i => (i, 1#8, false))) = false ∧
      engineTenantBad s.here.spm r.band [(pmSCL r.params, 0x7F#8, false)] = false) ∧
    ((nextRun stepped).isSome = true ∧ progEntry s s.cur (pmPROG r.params) = some 0) ∧
    (nextRun { trimmed 31 0 with trun := { (trimmed 31 0).trun with steps := 64 } } = none ∧ (trimmed 31 0).phase = .drainLoop ∧
      TrimRuns (matDev (matCx 1 (some (trimmed 31 0)) false)) (trimmed 31 0)) := by
  unfold TrimRuns; decide +kernel

/-! ### Witnesses: copy channels, waits, tasks, weir, cipher -/

/-- A weir segment that maps token block 0 of slot 0, and channel 1 with one free place, its report places named. -/
def copyCx : Ctx := { memCx with
  regs := { memCx.regs with s := vset memCx.regs.s 8#6 (val 0x1000000#64) }
  sealcnt := 0xFFFFFFFFFFFFFFFE#64
  keys := vset memCx.keys 3#2 (some 5#256)
  eng := { memCx.eng with
    weirSegs := 16
    weir := vset memCx.eng.weir 15#4 ⟨[(0, 0x00001003#64)], [], 0#8, 0#8, true, false, 0#8⟩
    ch := vset memCx.eng.ch 1#2 { Chan.reset with
      queue := List.replicate 63 ⟨1#8, 0#64, 0#3, false, false, false, 0#3, Staging.reset, [], 0#21, 0#64, 0#64, 0⟩
      st := { Staging.reset with
        rbasin := 0xFFFFFFFFFFE00020#64
        rsig := 8#64
        chunk := 4#32 } } } }
def wc : State := mapped copyCx
theorem runs_wc : OpRuns wc hd := by unfold OpRuns; decide +kernel

theorem witness_copyCommands :
    let x := argsOf wc.here 3#6 7#6 3#6
    let z := argsOf wc.here 0#6 3#6 7#6
    let q := wc.here.chan true
    wc.here.ident.chans = 2#8 ∧ q.queue.length < 64 ∧ EngineRuns wc hd 3#6 7#6 3#6 x ∧
    (x.a.poison = false ∧ x.b.poison = false ∧ x.c.poison = false) ∧ (q.st.rbasin ≠ 0#64 ∧ q.st.rsig ≠ 0#64) ∧
    (x.c.val.toNat < 2 ^ 32 ∧ (3#3).toNat ≤ 3 ∧
      addAligned { q.st with sbase := x.a.val, dbase := x.b.val, chunk := x.c.val.setWidth 32 } 3#3 0 = true) ∧
    (EngineRuns wc hd 0#6 3#6 7#6 z ∧ z.a.val.extractLsb' 21 35 = 0#35 ∧ (argsOf wc.here 0#6 3#6 6#6).c.val.toNat ≤ 256 ∧
      ∃ pages, ckvPages wc.here.eng (z.a.val.extractLsb' 56 8) true (ckvBlocks (z.a.val.toNat % 2 ^ 21) 1) = .ok pages ∧ pages = [0x1000#64]) ∧
    (EngineRuns wc hd 0#6 0#6 0#6 (argsOf wc.here 0#6 0#6 0#6) ∧ (6#3).toNat ≤ 6 ∧ addAligned q.st 3#3 6 = true) := by
  refine ⟨by decide +kernel, by decide +kernel, engineRuns (by decide +kernel) (by decide +kernel) runs_wc, by decide +kernel,
    by decide +kernel, by decide +kernel,
    ⟨engineRuns (by decide +kernel) (by decide +kernel) runs_wc, by decide +kernel, by decide +kernel, exc_ok (by decide +kernel)⟩,
    ⟨engineRuns (by decide +kernel) (by decide +kernel) runs_wc, by decide, by decide +kernel⟩⟩
/-- A channel with a command outstanding, and the values at the ends of their ranges. -/
theorem witness_channelState :
    let x := argsOf wc.here 3#6 7#6 8#6
    let y := argsOf wc.here 2#6 7#6 0#6
    wc.here.ident.chans = 2#8 ∧ EngineRuns wc hd 3#6 7#6 8#6 x ∧ (x.a.poison = false ∧ x.b.poison = false ∧ x.c.poison = false) ∧
    ((5#3).toNat ≤ 5 ∧ x.a.val.toNat < 2 ^ 32) ∧ (1 ≤ x.c.val.toNat ∧ x.c.val.toNat ≤ 2 ^ 24) ∧
    (EngineRuns wc hd 2#6 7#6 0#6 y ∧ y.a.poison = false ∧ y.b.poison = false ∧ isSpm y.a.val = true ∧ y.a.val.toNat % 32 = 0 ∧
      isSpm y.b.val = false ∧ y.b.val.toNat % 8 = 0) ∧
    EngineRuns wc hd 0#6 0#6 0#6 (argsOf wc.here 0#6 0#6 0#6) ∧
    (wc.here.timeline (chIdx true)).count.toNat ≤ (wc.here.timeline (chIdx true)).done.toNat ∧
    (let s := mapped { copyCx with eng := { copyCx.eng with tl := vset copyCx.eng.tl 1#2 ⟨64#64, 63#64⟩ } }
     OpRuns s hd ∧ (s.here.timeline (chIdx true)).done.toNat < (s.here.timeline (chIdx true)).count.toNat) := by
  refine ⟨by decide +kernel, engineRuns (by decide +kernel) (by decide +kernel) runs_wc, by decide +kernel, by decide +kernel,
    by decide +kernel, ⟨engineRuns (by decide +kernel) (by decide +kernel) runs_wc, by decide +kernel⟩,
    engineRuns (by decide +kernel) (by decide +kernel) runs_wc, by decide +kernel, by unfold OpRuns; decide +kernel⟩

/-- Numbers committed and not complete on timeline 1. -/
def wt : State := mapped { copyCx with eng := { copyCx.eng with tl := vset copyCx.eng.tl 1#2 ⟨64#64, 63#64⟩ } }
theorem witness_fencesWaits :
    OpRuns wt hd ∧ (1#2 : BitVec 2) ≠ 0#2 ∧ wt.here.ident.chans = 2#8 ∧
    ((wt.here.rS 3#6).poison = false ∧ (wt.here.rS 3#6).val.toNat ≤ (wt.here.timeline 1#2).count.toNat ∧
      (wt.here.timeline 1#2).done.toNat < (wt.here.rS 3#6).val.toNat ∧ (1#11).toNat ≤ (wt.here.timeline 1#2).done.toNat ∧ (1#11).setWidth 64 ≠ 0#64 ∧
      (if true then (0#6 : BitVec 6) = 0#6 else (1#11 : BitVec 11) = 0#11)) ∧
    ((wt.here.rS 3#6).val.toNat < 2 ^ 32 ∧ (wt.here.rS 2#6).poison = false ∧ isSpm (wt.here.rS 2#6).val = true ∧
      (wt.here.rS 2#6).val.toNat % 32 = 0 ∧ peerOk wt wt.cur (wt.here.rS 2#6).val 32 = true) ∧
    sigPlace wt wt.cur (wt.here.rS 3#6).val false = .ok hbmLeaf 64 := by
  refine ⟨by unfold OpRuns; decide +kernel, by decide, by decide +kernel, by decide +kernel, by decide +kernel, rfl⟩
/-- A count of 3 in memory at 64. -/
def ws : State := { wt with mem := [(64, 3#8)] }
theorem witness_basinSignals :
    OpRuns ws hd ∧ ws.mayAct 0 = true ∧ (ws.here.rS 2#6).poison = false ∧
    ((∃ i up, (i = Instr.barv hd 2#6 ∧ up = BasinUp.arrive ∧ accessesPerformed ws.here 1#2 = true)) ∧ isSpm (ws.here.rS 2#6).val = true ∧
      (ws.here.rS 2#6).val.toNat % 32 = 0 ∧ peerOk ws ws.cur (ws.here.rS 2#6).val 32 = true) ∧
    ((ws.here.rS 3#6).val = ((ws.here.rS 3#6).val.setWidth 32).signExtend 64) ∧
    ((ws.here.rS 3#6).poison = false ∧ 1 ≤ (ws.here.rS 4#6).val.toNat ∧ (ws.here.rS 5#6).val.toNat < 2 ^ 48 ∧
      sigPlace ws ws.cur (ws.here.rS 3#6).val true = .ok hbmLeaf 64 ∧ (strongWord ws ws.cur 64).2 = false ∧
      accessesPerformed ws.here hbmLeaf.wide = true) := by
  refine ⟨by unfold OpRuns; decide +kernel, by decide +kernel, by decide +kernel, ⟨⟨_, _, rfl, rfl, by decide +kernel⟩, by decide +kernel⟩,
    by decide +kernel, ⟨by decide +kernel, by decide +kernel, by decide +kernel, rfl, by decide +kernel, by decide +kernel⟩⟩

/-- A command of type 1 at 256, and a launch queue with one free place. -/
def wl : State := { wt with
  mem := [(310, 1#8)]
  disp := { wt.disp with launchq := List.replicate 255 ⟨0#9, 0#512, 0#32, 0#4, 0#8, none, []⟩ } }
def sigKey : CmdSig × BitVec 512 → Option (Nat × BitVec 512)
  | (.ok k, c) => some (k, c)
  | (.miss _, _) | (.fault _ _, _) | (.bad, _) => none
theorem sig_ok {x : CmdSig × BitVec 512} (h : (sigKey x).isSome = true) : ∃ k c, x = (.ok k, c) := by
  rcases x with ⟨⟨⟩, _⟩ <;> simp_all [sigKey]
theorem witness_taskMode :
    OpRuns wl hd ∧ (wl.here.rS 7#6).poison = false ∧ (wl.here.rS 7#6).val.toNat % 64 = 0 ∧ accessesPerformed wl.here 2#2 = true ∧
    wl.mayAct 1 = true ∧ (∃ dat, readCommand wl (wl.here.rS 7#6).val = .ok dat ∧
      (readAnyPoison dat = false ∧ cmdType (readDesc dat.bytes) = 1#8 ∧ cmdReservedOk (readDesc dat.bytes) = true ∧
        (sigKey (launchSignals wl (readDesc dat.bytes) 5)).isSome = true)) ∧ wl.disp.launchq.length < 256 ∧
    ((wl.here.rS 6#6).poison = false ∧ (wl.here.rS 6#6).val.toNat ≤ 3 ∧ bandLevel wl.here.band ≤ (wl.here.rS 6#6).val.toNat) ∧
    wl.task wl.here.ident.task = none := by
  refine ⟨by unfold OpRuns; decide +kernel, by decide +kernel, by decide +kernel, by decide +kernel, by decide +kernel,
    acc_ok (by decide +kernel), by decide +kernel⟩

theorem witness_weirOps :
    OpRuns wc hd ∧ (wc.here.rS 7#6).poison = false ∧ (wc.here.rS 0#6).val.extractLsb' 24 40 = 0#40 ∧
    (wc.here.rS 0#6).val.extractLsb' 0 8 = 0#8 ∧ (wc.here.rS 7#6).val.toNat % 64 = 0 ∧
    (14#4).toNat < wc.here.eng.weirSegs ∧ (wc.here.eng.seg (14#4).toNat).locked = false ∧
    (isSpm (wc.here.rS 2#6).val = true ∧ readsShadow wc.here (cutPieces 0 (wc.here.rS 2#6).val 2048 33) = false ∧ ∃ dat, readSpm wc.here.spm (cutPieces 0 (wc.here.rS 2#6).val 2048 33) = .ok dat ∧
      (bandOf dat.bands = some 0#8 ∧ ∀ i ∈ imageEntries dat, weirIllegal i.2.1 = false)) ∧
    (isSpm (wc.here.rS 7#6).val = false ∧ mayRead wc wc.cur wc.here.nextSeq false (cutPieces 0 (wc.here.rS 7#6).val 2048 33) = true ∧
      ∃ dat, readMem wc wc.cur .core false 0#2 spLoad wc.here.ownStores wc.here.nextSeq
        (cutPieces 0 (wc.here.rS 7#6).val 2048 33) = .ok dat ∧
      (bandOf dat.bands = some 0#8 ∧ ∀ i ∈ imageEntries dat, weirIllegal i.2.1 = false)) ∧
    ((2#2 : BitVec 2) ≠ 3#2 ∧ (wc.here.rS 6#6).val.extractLsb' 21 35 = 0#35 ∧
      weirLookup wc.here.eng ((wc.here.rS 6#6).val.extractLsb' 56 8) ((wc.here.rS 6#6).val.toNat % 2 ^ 21) = some (0x1003#64, false, 0#8) ∧
      bandOf [(wc.here.rS 6#6).band, 0#8] = some 0#8) := by
  refine ⟨runs_wc, by decide +kernel, by decide +kernel, by decide +kernel, by decide +kernel, by decide +kernel, by decide +kernel,
    ⟨by decide +kernel, by decide +kernel, exc_ok (by decide +kernel)⟩, ⟨by decide +kernel, by decide +kernel, acc_ok (by decide +kernel)⟩,
    by decide +kernel⟩
/-- `seal` with the last counter value that may be used; `open` of an object of the same size. -/
theorem witness_cipherOps :
    let c := { copyCx with regs := { copyCx.regs with s := vset (vset copyCx.regs.s 9#6 (val 0xFFFFFFFFFFE00800#64)) 10#6 (val 2000#64) } }
    let s := mapped c
    let x := argsOf s.here 2#6 9#6 10#6
    let y := argsOf s.here 2#6 9#6 7#6
    (EngineRuns s hd 2#6 9#6 10#6 x ∧ cipherFault s.here true x x.c.val.toNat (256 * ((48 + x.c.val.toNat + 255) / 256)) 3#2 = none) ∧
    (EngineRuns s hd 2#6 9#6 7#6 y ∧
      cipherFault s.here false y (256 * ((48 + y.c.val.toNat + 255) / 256)) (256 * ((y.c.val.toNat + 255) / 256)) 3#2 = none) := by
  intro c s x y
  have h : OpRuns s hd := by unfold OpRuns; decide +kernel
  exact ⟨⟨engineRuns (by decide +kernel) (by decide +kernel) h, by decide +kernel⟩,
    ⟨engineRuns (by decide +kernel) (by decide +kernel) h, by decide +kernel⟩⟩

/-! ### Witnesses: the Milliner -/

/-- g1 = 64, g2 = 2, g3 = 8; page 0 of the store is mapped and holds two packed groups: words of slots 0 and 1 with STOP on
the second, and a mark group of one word. -/
def genCx : Ctx := { cx with
  pages := [(0, 64#7)]
  regs := { cx.regs with fmt := 0x30005#64 }
  gen := { cx.gen with
    g := vset (vset (vset cx.gen.g 1#5 (val 64#64)) 2#5 (val 2#64)) 3#5 (val 8#64)
    b := vset cx.gen.b 0#3 ⟨0x08011861C0000000#512, 0#8⟩
    runnel := List.replicate 55 ⟨0x0001#512, 0#64, 0#8, none, false⟩ ++ List.replicate 7 grp } }
def genDev (c : Ctx) : State := { mapped c with
  cores := [(0, { Core.reset with
    gleaves := [hbmLeaf]
    istore := [(2, 0xC0000000#32), (3, 0x00011861#32), (5, 0x30230C10#32), (6, 0xC0000000#32), (7, 0x18011861#32)] })] }
def wg : State := genDev genCx
def pw0 : Word := 0x00011861C0000000#64
def pw1 : Word := 0x30230C1000000000#64
def pw2 : Word := 0x18011861C0000000#64

theorem witness_generatorArithmetic : bandOf [(wg.here.rG 1#5).band, (wg.here.rG 2#5).band] = some 0#8 ∧
    bandOf [(wg.here.rG 1#5).band, wg.here.band] = some 0#8 ∧ bandOf [wg.here.band] = some 0#8 := by decide +kernel
/-- A condition that holds, and one that does not. -/
theorem witness_generatorBranches : (wg.here.rG 1#5).poison = false ∧ (wg.here.rG 2#5).poison = false ∧
    (wg.here.rG 2#5).val.toInt < (wg.here.rG 1#5).val.toInt ∧ ¬ (wg.here.rG 2#5).val = (wg.here.rG 1#5).val := by decide +kernel
theorem witness_generatorLoadsStores :
    let ea : Word := (wg.here.rG 1#5).val + (0xFFF8#16).signExtend 64
    let k := hbmLeaf.keyOf ea
    (wg.here.rG 1#5).poison = false ∧ ea.toNat % 8 = 0 ∧ isSpm ea = false ∧ translate wg wg.cur .gen ea = .ok hbmLeaf ∧ hbmLeaf.page63 ea = false ∧
    gstOut wg.here = false ∧
    (hbmLeaf.r = true ∧ hbmLeaf.spaceAt ea = .hbm ∧ genHeld wg wg.cur hbmLeaf ea false = false ∧ mediaFault wg wg.cur hbmLeaf ea = none) ∧
    wg.here.stq.sb = [] ∧ (∀ j, j < 8 → olderUnit wg wg.cur (some (widestScope hbmLeaf.cls)) wg.here.nextSeq (hbmLeaf.place wg.cur) ((k + j) / 8) = none) ∧
    (hbmLeaf.w = true ∧ genHeld wg wg.cur hbmLeaf ea true = false ∧
      storePieceFault hbmLeaf ea (wg.here.rG 2#5).band (wg.here.rG 2#5).poison = none) := by decide +kernel

/-- The words pw0 and pw1 stand packed at store address 8, pw2 at 24. -/
theorem packed_two : PackedAt wg 8#18 [pw0, pw1] := by
  refine ⟨by decide, by decide, ?_, by decide +kernel⟩
  intro i w h
  rcases i with _ | _ | i
  · simp at h; subst h; decide +kernel
  · simp at h; subst h; decide +kernel
  · simp at h
theorem packed_one : PackedAt wg 24#18 [pw2] := by
  refine ⟨by decide, by decide, ?_, by decide +kernel⟩
  intro i w h
  rcases i with _ | i
  · simp at h; subst h; decide +kernel
  · simp at h
def canon2 : BitVec 512 := BitVec.ofNat 512 (0x00011861C0000000 + 0x20230C1000000000 * 2 ^ 64)
def canon1 : BitVec 512 := 0x08011861C0000000#512
theorem canon_two : CanonicalOf [pw0, pw1] canon2 := by
  simp only [CanonicalOf, List.forall_mem_cons, List.not_mem_nil, false_implies, implies_true, and_true]; decide +kernel
theorem canon_one : CanonicalOf [pw2] canon1 := by
  simp only [CanonicalOf, List.forall_mem_cons, List.not_mem_nil, false_implies, implies_true, and_true]; decide +kernel

/-- `tld` of two words; `tpat` of field 9 in the full word 0 and of field 12 in the empty word 7; `tclr` of word 0. -/
theorem witness_templates :
    let old := (wg.here.gen.tmpl 0#3).bits
    ((wg.here.rG 3#5).poison = false ∧ PackedAt wg (BitVec.ofInt 18 ((wg.here.rG 3#5).val.toNat + 8 * (0#11).toInt)) [pw0, pw1] ∧
      CanonicalOf [pw0, pw1] canon2) ∧
    (let v := (wg.here.rG 1#5).val + (0x7FF#11).signExtend 64
     let w : Word := 0x08011861C000003F#64
     (∀ j, j < 64 → w.getLsbD j = if 0 ≤ j ∧ j < 0 + 24 then v.getLsbD (j - 0) else old.getLsbD (64 * 0 + j)) ∧
      old.extractLsb' 0 64 ≠ 0#64 ∧ WordReplaced old 0x08011861C000003F#512 0 w ∧ bandOf [(wg.here.gen.tmpl 0#3).band, (wg.here.rG 1#5).band] = some 0#8) ∧
    (let w : Word := 0xE000FFFFFFFFFFFF#64
     (∀ j, j < 64 → w.getLsbD j = if 0 ≤ j ∧ j < 0 + 48 then ((0x7FF#11).signExtend 64).getLsbD (j - 0)
        else decide (61 ≤ j) && (7#3).getLsbD (j - 61)) ∧
      old.extractLsb' 448 64 = 0#64 ∧ WordReplaced old (BitVec.ofNat 512 (0xE000FFFFFFFFFFFF * 2 ^ 448 + 0x08011861C0000000)) 7 w) ∧
    WordReplaced old 0#512 0 0#64 := by
  refine ⟨⟨by decide +kernel, packed_two, canon_two⟩, by unfold WordReplaced; decide +kernel, by unfold WordReplaced; decide +kernel,
    by unfold WordReplaced; decide +kernel⟩
/-- The Runnel has room for one more group, a mark group. -/
def wg63 : State := genDev { genCx with gen := { genCx.gen with runnel := (⟨0x0001#512, 0#64, 0#8, none, false⟩ : RGroup) :: genCx.gen.runnel } }
theorem witness_emission :
    let t := wg63.here.gen.tmpl 0#3
    (∀ k, k < 0 → t.bits.extractLsb' (64 * k) 64 = 0#64) ∧ 0 < 8 ∧ t.bits.extractLsb' (64 * 0) 64 ≠ 0#64 ∧
    (∀ k, k < 8 → t.bits.extractLsb' (64 * k) 64 ≠ 0#64 → (t.bits.extractLsb' (64 * k + 61) 3).toNat = k) ∧
    (∀ k, 0 < k → k < 8 → t.bits.getLsbD (64 * k + 59) = false) ∧ wg63.here.gen.runnel.length = 63 ∧
    (wg63.here.gen.runnel.filter (fun r => groupMark r.words)).length < 8 ∧
    WordReplaced t.bits t.bits 0 (t.bits.extractLsb' (64 * 0) 64 ||| 0x0800000000000000#64) := by
  intro t
  refine ⟨fun k h => absurd h (Nat.not_lt_zero k), by decide, by decide +kernel, by decide +kernel, ?_, by decide +kernel, by decide +kernel,
    by unfold WordReplaced; decide +kernel⟩
  intro k h0 h8
  have : ∀ k, k < 8 → 0 < k → (wg63.here.gen.tmpl 0#3).bits.getLsbD (64 * k + 59) = false := by decide +kernel
  exact this k h8 h0
/-- Two groups, of which one is a mark group, into a Runnel of 62 groups with 7 mark groups. -/
theorem witness_emitr :
    let gs := [([pw0, pw1], canon2), ([pw2], canon1)]
    (wg.here.rG 3#5).poison = false ∧ (wg.here.rG 2#5).poison = false ∧ wg.here.gen.eprog.active = false ∧
    gs.length = (wg.here.rG 2#5).val.toNat % 2 ^ 16 ∧ GroupsAt wg ((wg.here.rG 3#5).val.extractLsb' 0 18) gs ∧
    wg.here.gen.runnel.length + 2 ≤ 64 ∧
    (wg.here.gen.runnel.filter (fun r => groupMark r.words)).length + (gs.filter (fun p => groupMark p.2)).length ≤ 8 := by
  refine ⟨by decide +kernel, by decide +kernel, by decide +kernel, by decide +kernel, ⟨packed_two, canon_two, packed_one, canon_one, trivial⟩,
    by decide +kernel, by decide +kernel⟩
/-- An empty Runnel and nothing pending; an entry in the FIFO; ga above 64. -/
def wwait : State := genDev { genCx with gen := { genCx.gen with
  runnel := []
  fifo := [⟨7#64, 0#8, false⟩] } }
theorem witness_generatorWaits :
    (wg.here.rG 1#5).poison = false ∧ wg.here.gen.runnel.length ≤ min (wg.here.rG 1#5).val.toNat 64 ∧
    wwait.here.gen.fifo = [⟨7#64, 0#8, false⟩] ∧ readSr wg wg.cur (9#16).toNat = some 0#64 ∧
    ((wwait.here.rG 1#5).poison = false ∧ wwait.here.gen.runnel = [] ∧ wwait.here.pend = [] ∧ wwait.here.regs.loop.replaying = false ∧
      ((6#16 : BitVec 16) = 0#16 ∨ (6#16 : BitVec 16) = 4#16 ∨ (6#16 : BitVec 16) = 5#16 ∨ (6#16 : BitVec 16) = 6#16)) := by
  decide +kernel


/-! ### Images of zero bytes -/

/-- c reads x from n zero bytes of items and k zero bytes of sideband. -/
def ZeroRead {α : Type} (c : Codec α) (n k : Nat) (x : α) : Prop :=
  ∀ m, ∃ g, c.get (List.replicate (n + m) 0#8) = some (g, List.replicate m 0#8) ∧
    ∀ j, g (List.replicate (k + j) 0#8) = some (x, List.replicate j 0#8)
theorem bytesNat_zeros (n : Nat) : bytesNat (List.replicate n 0#8) = 0 := by
  induction n with
  | zero => rfl
  | succ n ih => simp [List.replicate_succ, bytesNat, ih]
theorem take_zeros (n m : Nat) : takeBytes n (List.replicate (n + m) 0#8) = some (List.replicate n 0#8, List.replicate m 0#8) := by
  simp [takeBytes, List.take_replicate, List.drop_replicate]
theorem zero_bits (n : Nat) : ZeroRead (codecBits n) (8 * ((n + 63) / 64)) 0 0#n := fun m =>
  ⟨_, (by simp only [codecBits, take_zeros, Option.map_some]; rfl), fun j => by simp [bytesNat_zeros]⟩
theorem zero_side (n : Nat) : ZeroRead (codecSide n) 0 ((n + 7) / 8) 0#n := fun m =>
  ⟨_, (by simp only [codecSide, Nat.zero_add]; rfl), fun j => by simp [take_zeros, bytesNat_zeros]⟩
theorem zero_iso {α β : Type} {c : Codec α} {n k : Nat} {x : α} (f : α → β) (g : β → α) (h : ZeroRead c n k x) :
    ZeroRead (c.iso f g) n k (f x) := fun m => by
  obtain ⟨r, h1, h2⟩ := h m
  exact ⟨_, (by simp only [Codec.iso, h1, Option.map_some]; rfl), fun j => by simp [h2]⟩
theorem zero_pair {α β : Type} {a : Codec α} {b : Codec β} {n k n' k' : Nat} {x : α} {y : β} (h : ZeroRead a n k x)
    (h' : ZeroRead b n' k' y) : ZeroRead (a.pair b) (n + n') (k + k') (x, y) := fun m => by
  obtain ⟨r, h1, h2⟩ := h (n' + m)
  obtain ⟨q, h3, h4⟩ := h' m
  exact ⟨_, (by simp only [Codec.pair, Nat.add_assoc, h1, h3]; rfl), fun j => by simp only [Nat.add_assoc, h2, h4, Option.map_some]⟩
theorem zero_many {α : Type} {c : Codec α} {n k : Nat} {x : α} (h : ZeroRead c n k x) (i : Nat) :
    ZeroRead (c.many i) (i * n) (i * k) (List.replicate i x) := by
  have hi : ∀ i m, ∃ gs, itemsGet c i (List.replicate (i * n + m) 0#8) = some (gs, List.replicate m 0#8) ∧
      ∀ j, sidesGet gs (List.replicate (i * k + j) 0#8) = some (List.replicate i x, List.replicate j 0#8) := by
    intro i
    induction i with
    | zero => exact fun m => ⟨[], by simp [itemsGet], fun j => by simp [sidesGet]⟩
    | succ i ih =>
      intro m
      obtain ⟨r, h1, h2⟩ := h (i * n + m)
      obtain ⟨gs, h3, h4⟩ := ih m
      refine ⟨r :: gs, ?_, fun j => ?_⟩
      · rw [show (i + 1) * n + m = n + (i * n + m) by rw [Nat.succ_mul]; omega]
        simp only [itemsGet, h1, h3, Option.map_some]
      · rw [show (i + 1) * k + j = k + (i * k + j) by rw [Nat.succ_mul]; omega]
        simp only [sidesGet, h2, h4, Option.map_some, List.replicate_succ]
  intro m
  obtain ⟨gs, h1, h2⟩ := hi i m
  exact ⟨_, (by simp only [Codec.many, h1, Option.map_some]), h2⟩
theorem zero_list {α : Type} (c : Codec α) : ZeroRead c.list 8 0 [] := fun m =>
  ⟨_, (by simp only [Codec.list, take_zeros, bytesNat_zeros, itemsGet, Option.map_some]; rfl), fun j => by simp [sidesGet]⟩
theorem zero_opt {α : Type} (c : Codec α) : ZeroRead c.opt 8 0 none := zero_iso _ _ (zero_list c)
theorem zero_unit {α : Type} (a : α) (is : α → Bool) (l : List (Alt α)) : ZeroRead (codecSum (codecUnit a is :: l)) 8 0 a := fun m =>
  ⟨_, (by simp only [codecSum, take_zeros, bytesNat_zeros, List.getElem?_cons_zero, codecUnit]; rfl), fun j => by simp⟩
theorem zero_read {α : Type} {c : Codec α} {n k : Nat} {x : α} (h : ZeroRead c n k x) (j : Nat) (hj : n + k ≤ j) :
    c.read (List.replicate j 0#8) = some x := by
  obtain ⟨d, rfl⟩ : ∃ d, j = n + (k + d) := ⟨j - n - k, by omega⟩
  obtain ⟨g, h1, h2⟩ := h (k + d)
  simp [Codec.read, h1, h2]

/-- What a codec reads from zero bytes. -/
structure ZeroOf {α : Type} (c : Codec α) where
  n : Nat
  k : Nat
  x : α
  ok : ZeroRead c n k x
def zBits (n : Nat) : ZeroOf (codecBits n) := ⟨_, _, _, zero_bits n⟩
def zSide (n : Nat) : ZeroOf (codecSide n) := ⟨_, _, _, zero_side n⟩
def zIso {α β : Type} {c : Codec α} {f : α → β} {g : β → α} (h : ZeroOf c) : ZeroOf (c.iso f g) := ⟨_, _, _, zero_iso f g h.ok⟩
def zPair {α β : Type} {a : Codec α} {b : Codec β} (h : ZeroOf a) (h' : ZeroOf b) : ZeroOf (a.pair b) := ⟨_, _, _, zero_pair h.ok h'.ok⟩
def zList {α : Type} (c : Codec α) : ZeroOf c.list := ⟨_, _, _, zero_list c⟩
def zOpt {α : Type} (c : Codec α) : ZeroOf c.opt := ⟨_, _, _, zero_opt c⟩
def zUnit {α : Type} (a : α) (is : α → Bool) (l : List (Alt α)) : ZeroOf (codecSum (codecUnit a is :: l)) := ⟨_, _, _, zero_unit a is l⟩
def zVec {α : Type} {c : Codec α} (i : Nat) (d : α) (h : ZeroOf c) : ZeroOf (c.vec i d) := ⟨_, _, _, zero_iso _ _ (zero_many h.ok i)⟩
def zDense {α : Type} [DecidableEq α] {c : Codec α} (i : Nat) (d : α) (h : ZeroOf c) : ZeroOf (c.dense i d) :=
  ⟨_, _, _, zero_iso _ _ (zero_many h.ok i)⟩
def zS : ZeroOf codecSReg := zIso (zPair (zBits 64) (zPair (zSide 8) (zIso (zSide 1))))
def zP : ZeroOf codecPReg := zIso (zPair (zBits 256) (zPair (zSide 8) (zIso (zSide 1))))
def zV : ZeroOf codecVReg := zIso (zPair (zBits 2048) (zPair (zSide 8) (zSide 4)))
def zT : ZeroOf codecTReg := zIso (zPair (zBits 512) (zSide 8))
def zM : ZeroOf codecMReg := zIso (zPair (zBits 64) (zSide 8))
def zNat : ZeroOf codecNat := zIso (zBits 64)
def zBool : ZeroOf codecBool := zIso (zBits 1)
def zPoison : ZeroOf codecPoison := zIso (zSide 1)
def zEprog : ZeroOf codecEProg := zIso (zPair zBool (zPair (zBits 16) (zBits 18)))
def zSnap : ZeroOf codecSnap := zIso (zPair (zVec 32 zeroSReg zS) (zPair (zVec 8 zeroTReg zT)
  (zPair (zBits 16) (zPair zEprog (zPair (zBits 20) zNat)))))
def zLoop : ZeroOf codecLoop := zIso (zPair (zVec 6 0#32 (zBits 32)) (zPair (zBits 6) (zPair (zBits 3)
  (zPair zBool (zPair (zBits 3) (zPair (zBits 6) (zPair (zBits 5) (zPair (zBits 48) (zPair (zBits 48)
  (zPair (zBits 48) (zPair (zBits 48) (zPair zBool (zPair (zVec 6 0#32 (zBits 32)) (zPair (zList _)
  (zPair (zBits 7) (zPair (zBits 6) zBool))))))))))))))))
def zWin : ZeroOf codecWin := zIso (zPair zBool (zPair (zBits 4) (zPair zBool (zPair (zBits 5)
  (zPair (zBits 5) (zPair zBool (zPair zBool (zPair (zList _) (zPair zNat (zPair (zBits 64)
  (zBits 64)))))))))))
def zStream : ZeroOf codecStream := zIso (zPair zBool (zPair (zBits 512) (zPair zNat (zPair zNat
  (zPair (zOpt _) (zOpt _))))))
def zRow : ZeroOf codecSmRow := zIso (zPair (zBits 32) (zPair (zBits 32) (zPair (zBits 6)
  (zPair (zBits 32) (zPair (zBits 16) (zPair zBool zPoison))))))
def zSoftmax : ZeroOf codecSoftmax := zIso (zPair (zVec 64 (SmRow.reset 0) zRow) (zSide 8))
def zRegs : ZeroOf codecRegs := zIso (zPair (zVec 64 zeroSReg zS) (zPair (zVec 16 zeroPReg zP)
  (zPair (zVec 64 zeroVReg zV) (zPair (zVec 8 zeroMReg zM) (zPair (zBits 64) (zPair (zBits 64) (zPair (zBits 7)
  (zPair zLoop (zPair zSoftmax (zPair (zVec 8 zeroStream zStream) zWin))))))))))
def zCodec1 : ZeroOf codec1 := zPair (zVec 32 zeroSReg zS) (zPair (zVec 8 zeroTReg zT) (zPair (zBits 16)
  (zPair zEprog (zPair (zBits 20) (zPair (zList _) (zPair (zList _) (zPair zNat
  (zPair (zDense 64 0#7 (zBits 7)) (zPair zSnap (zUnit _ _ _))))))))))
def zStops : ZeroOf codecStops := zIso (zPair (zOpt _) (zPair zBool (zPair zBool (zList _))))
def zCodec3 : ZeroOf codec3 := zPair (zVec 64 zeroSReg zS) (zPair (zVec 16 zeroPReg zP) (zPair (zBits 7)
  (zPair zLoop (zPair zWin (zPair (zBits 64) (zPair (zBits 4) (zPair (zBits 8) (zPair (zBits 8)
  (zPair (zBits 8) (zPair (zBits 64) (zPair (zBits 64) (zPair zStops (zPair (zUnit _ _ _) (zPair (zOpt _)
  (zPair (zBits 9) zBool)))))))))))))))
def zRing : ZeroOf codecRing := zIso (zPair (zBits 64) (zBits 64))
def zCodec5 : ZeroOf codec5 := zPair (zVec 8 zeroMReg zM) (zPair (zVec 16 zeroRing zRing) (zPair (zList _)
  (zPair (zList _) (zPair (zOpt _) (zPair (zList _) (zPair (zList _) (zPair zBool (zPair zBool
  (zPair zBool (zPair zBool (zList _)))))))))))
theorem zero_acc : ZeroRead codecAcc 4 0 0#32 := fun m =>
  ⟨_, (by simp only [codecAcc, take_zeros, Option.map_some]; rfl), fun j => by rw [Nat.zero_add]; rfl⟩
def zAcc : ZeroOf codecAcc := ⟨_, _, _, zero_acc⟩
def zCodec6 (n : Nat) : ZeroOf (codec6 n) := zPair (zDense (1024 * n) 0#32 zAcc)
  (zPair (zDense n 0#8 (zSide 8)) (zDense (16 * n) false zPoison))
def zCodec7 : ZeroOf codec7 := zPair (zVec 4 realTable (zBits 128)) (zList _)
def zCodec9 : ZeroOf codec9 := zPair (zPair zRegs (zPair zSnap (zPair (zList _) (zPair zNat
  (zPair (zBits 64) (zPair (zBits 64) zBool)))))) (zPair (zList _) (zPair zNat (zPair zNat
  (zVec 16 0 zNat))))
def zLine : ZeroOf codecLine := zIso (zPair (zBits 2048) (zPair (zSide 8) (zSide 5)))
def zTimeline : ZeroOf codecTimeline := zIso (zPair (zBits 64) (zBits 64))
def zCodec15 : ZeroOf codec15 := zPair (zBits 64) (zList _)

/-- Section 11 of zero bytes holds two channels without a command. -/
theorem zero_chans (f : Nat) : ∃ c w, readChans f (List.replicate 512 0#8) = some (c, w) := by
  unfold readChans
  rw [if_neg (by decide +kernel)]
  exact ⟨_, _, rfl⟩
theorem zero_read_of {α : Type} {c : Codec α} (z : ZeroOf c) (j : Nat) (hj : z.n + z.k ≤ j) : c.read (List.replicate j 0#8) = some z.x :=
  zero_read z.ok j hj

/-- The directory of an image whose sections all stand behind the header, in the same bytes. -/
def zeroDir : List Byte :=
  (List.range 15).flatMap (fun i => natBytes (i + 1 + 256 * 4 + 2 ^ 36 * (if i = 10 then 8 else 2048)) 8)
/-- The header of an image of `cx` at front end fe, whose sections hold zero bytes. -/
def zeroHead (fe : FeId) : List Byte := imageHead cx fe 0#64 ++ List.replicate 16 0#8 ++ zeroDir ++ List.replicate 40 0#8

theorem sectionOf_zeros {h : List Byte} {n id : Nat} {e : Nat × Nat × Nat} (he : (dirEntries h).find? (fun x => x.1 == id) = some e) (h4 : e.2.1 = 4)
    (hn : 64 * e.2.2 ≤ n) : sectionOf h (List.replicate n 0#8) id = List.replicate (64 * e.2.2) 0#8 := by
  simp only [sectionOf, he, h4, List.take_replicate, List.drop_replicate]
  congr 1; omega
/-- An image whose sections hold zero bytes holds a context: of the kernel and at the place that its header names, whose matrix unit
holds no run. -/
theorem readImage_zeros (fe : FeId) (f : Nat) (k : Kernel) (hw : kWindow k = 0) (hu : kUnits k = 0) (hs : kWeir k = 0)
    (h : dirEntries (zeroHead fe) = (List.range 15).map (fun i => (i + 1, 4, if i = 10 then 8 else 2048))) :
    ∃ m, readImage f k (zeroHead fe) (List.replicate 131072 0#8) = some m ∧ m.eng.mat.run = none ∧
      m.ident.kern = BitVec.ofNat 32 (bytesAt (zeroHead fe) 16 4) := by
  have sec (i : Nat) (n : Nat) (hi : ((List.range 15).map (fun i => (i + 1, 4, if i = 10 then 8 else 2048))).find? (fun x => x.1 == i) = some (i, 4, n))
      (hn : 64 * n ≤ 131072) : sectionOf (zeroHead fe) (List.replicate 131072 0#8) i = List.replicate (64 * n) 0#8 :=
    sectionOf_zeros (h ▸ hi) rfl hn
  obtain ⟨c, w, hc⟩ := zero_chans f
  simp only [readImage, hw, hu, hs, sec 1 2048 rfl (by decide), sec 2 2048 rfl (by decide), sec 3 2048 rfl (by decide), sec 4 2048 rfl (by decide),
    sec 5 2048 rfl (by decide), sec 6 2048 rfl (by decide), sec 7 2048 rfl (by decide), sec 8 2048 rfl (by decide), sec 9 2048 rfl (by decide),
    sec 10 2048 rfl (by decide), sec 11 8 rfl (by decide), sec 12 2048 rfl (by decide), sec 13 2048 rfl (by decide), sec 14 2048 rfl (by decide),
    sec 15 2048 rfl (by decide), zero_read_of zCodec1 131072 (by decide),
    zero_read_of (zList codecGroup) 131072 (by decide), zero_read_of zCodec3 131072 (by decide),
    zero_read_of (zVec 64 zeroVReg zV) 131072 (by decide), zero_read_of zCodec5 131072 (by decide), zero_read_of (zCodec6 0) 131072 (by decide),
    zero_read_of zCodec7 131072 (by decide), zero_read_of (zVec 8 zeroStream zStream) 131072 (by decide), zero_read_of zCodec9 131072 (by decide),
    zero_read_of (zDense (0 / 256) zeroSpmLine zLine) 131072 (by decide), show 64 * 8 = 512 from rfl, hc,
    show (codec12 0).read (List.replicate 131072 0#8) = some [] from rfl, zero_read_of zSoftmax 131072 (by decide),
    zero_read_of (zVec 4 ⟨0#64, 0#64⟩ zTimeline) 131072 (by decide), zero_read_of zCodec15 131072 (by decide)]
  exact ⟨_, rfl, rfl, rfl⟩
/-- A poison-free device without a valid region gives clean lines. -/
theorem hwPoison_reset {s : State} (hp : s.poison = []) (hr : s.regions = State.reset.regions) (hd : poolDead s = false) (k : Nat) :
    hwPoison s k = false := by
  have : regionOf s 0#2 k = none := by
    unfold regionOf
    rw [hr, List.find?_eq_none]
    intro r hm
    have : r = ⟨0#64, 0#64, 0#64, 0#64⟩ := by simpa [State.reset] using hm
    subst this; simp
  simp [hwPoison, readsPoison, State.linePoison, hp, hd, hwErr, this, mediaErr, mget]
/-- The image of zero bytes at 2000H is accepted at its front end. -/
theorem checkImage_zeros {s : State} {fe : FeId} {k : Kernel} (hm : s.mem = memWrites [] 0x2000 (zeroHead fe)) (hp : s.poison = [])
    (hr : s.regions = State.reset.regions) (hd : poolDead s = false) (hk : kernelOf s 1#32 = some k) (hw : kWindow k = 0) (hu : kUnits k = 0)
    (hs : kWeir k = 0) (h1 : imagePlaceOk fe (zeroHead fe) = true) (h2 : (byteAt (zeroHead fe) 6).getLsbD 0 = false)
    (h3 : BitVec.ofNat 32 (bytesAt (zeroHead fe) 16 4) = 1#32)
    (h : dirEntries (zeroHead fe) = (List.range 15).map (fun i => (i + 1, 4, if i = 10 then 8 else 2048))) :
    ∃ m, checkImage s fe 0x2000 = (1#4, some m) ∧ m.eng.mat.run = none ∧ m.ident.kern = 1#32 := by
  obtain ⟨m, a, b, c⟩ := readImage_zeros fe s.fresh k hw hu hs h
  have hl : (zeroHead fe).length = 256 := by
    have : zeroDir.length = 120 := by decide +kernel
    simp only [zeroHead, imageHead, wordBytes, List.length_append, List.length_replicate, this]
    rfl
  have hh : memReads s.mem 0x2000 256 = zeroHead fe := by
    rw [memReads_eq, hm]
    refine List.ext_getElem (by simp [hl]) (fun i h1 h2 => ?_)
    rw [List.getElem_map, List.getElem_range, memRead_memWrites_at h2]
  have hb : memReads s.mem (0x2000 + 256) 131072 = List.replicate 131072 0#8 := by
    rw [memReads_eq, hm]
    refine List.ext_getElem (by rw [List.length_map, List.length_range, List.length_replicate]) (fun i h1 h2 => ?_)
    rw [List.getElem_map, List.getElem_range, memRead_memWrites_other (by rw [hl]; omega), List.getElem_replicate]
    rfl
  have he : dirExtent (zeroHead fe) = 131072 := by unfold dirExtent; rw [h]; decide +kernel
  refine ⟨m, ?_, b, by rw [c, h3]⟩
  unfold checkImage
  simp only [hh, h1, h2, he, hb, openImage, h3, hk, a, Bool.false_and, Bool.not_true, Bool.false_eq_true, ↓reduceIte, rangePoisoned,
    hwPoison_reset hp hr hd, List.any_eq_true, and_false, exists_false]
/-! ### Witnesses: the merge stage, landings, memory events, translation, waits -/

/-- A group of one `add`, and two contexts of core 0 with such groups or none, of priorities p and q. -/
def addGrp : RGroup := ⟨0x00011861C0000000#512, 0#64, 0#8, none, false⟩
def two (a b : List RGroup) (p q : Byte) (d : BitVec 9) : State := { w0 with
  issue := none
  ctxs := [(0, { cx with
      gen := { cx.gen with runnel := a }
      ident := { cx.ident with prio := p }
      denial := d }),
    (1, { cx with
      gen := { cx.gen with runnel := b }
      ident := { cx.ident with
        prio := q
        feid := 1#9 } })] }
/-- An open window over p1, undecided, and a committed one with an entry. -/
def winCx (committed : Bool) : Ctx := { cx with regs := { cx.regs with
  win := ⟨true, 1#4, false, 0#5, 1#5, committed, committed, [⟨3#3, 0x6002045000000000#64, 0#64, val 0#64, val 0#64, val 0#64, prm0, 0#64⟩], 0, 0#64, 0#64⟩ } }
where prm0 : Vector MReg 8 := Vector.replicate 8 ⟨0#64, 0#8⟩
theorem witness_mergeOrder :
    (let s := two [addGrp] [] 5#8 5#8 0#9
     s.issue = none ∧ (s.core (0#8 : CoreId).toNat).second = none ∧ (s.ctx (feA 0#8)).regs.loop.drop = 0#6 ∧
      (s.ctx (feB 0#8)).regs.loop.drop = 0#6 ∧ front s (feA 0#8) = .ready addGrp ∧ front s (feB 0#8) = .blocked) ∧
    (let s := two [] [addGrp] 5#8 5#8 0#9
     front s (feA 0#8) = .blocked ∧ front s (feB 0#8) = .ready addGrp) ∧
    (let s := two [addGrp] [addGrp] 5#8 5#8 0#9
     front s (feA 0#8) = .ready addGrp ∧ front s (feB 0#8) = .ready addGrp ∧ (s.ctx (feB 0#8)).denial ≠ 256#9 ∧
      (s.ctx (feB 0#8)).ident.prio.toNat ≤ (s.ctx (feA 0#8)).ident.prio.toNat) ∧
    (let s := two [addGrp] [addGrp] 4#8 5#8 255#9
     front s (feA 0#8) = .ready addGrp ∧ front s (feB 0#8) = .ready addGrp ∧ (s.ctx (feA 0#8)).denial ≠ 256#9 ∧
      (s.ctx (feA 0#8)).ident.prio.toNat < (s.ctx (feB 0#8)).ident.prio.toNat) ∧
    (let s := two [addGrp] [addGrp] 4#8 5#8 256#9
     s.issue = none ∧ starved s 0#8 = true ∧ (s.ctx (feA 0#8)).denial = 256#9 ∧ front s (feA 0#8) = .ready addGrp) ∧
    (let c := (dev (winCx false)).ctx 0#9
     c.life = .running ∧ c.regs.win.opened = true ∧ c.regs.win.resolved = false ∧
      predPending c c.regs.win.pred c.regs.win.seq = false ∧ (c.rP c.regs.win.pred).poison = false) ∧
    (let s := { dev (winCx true) with issue := none }
     (s.ctx 0#9).life = .running ∧ (s.ctx 0#9).regs.win.committed = true ∧ (s.ctx 0#9).regs.win.entries ≠ [] ∧ s.issue = none) := by
  decide +kernel

def pendOf (due seq : Nat) (k : PendKind) : Pend := ⟨due, seq, 0#3, 0#64, 0#64, k, none, false, []⟩
/-- Two landings due in beats 4 and 5, and none later. -/
def landCx : Ctx := { cx with
  beat := 5
  pend := [pendOf 4 1 (.done [.s 3#6 (val 9#64)]), pendOf 5 0 (.done [.flags true false])] }
theorem witness_landings :
    let c := (dev landCx).ctx 0#9
    c.life = .running ∧ (c.pend.map (·.seq)).Nodup ∧ beatReady c = true ∧
    c.pend.Pairwise (fun p q => p.due < q.due ∨ p.due = q.due ∧ p.seq < q.seq) ∧
    (∀ p, p ∈ c.pend ↔ p ∈ c.pend ∧ p.due ≤ c.beat ∧ p.arrived = true) ∧
    (∀ p ∈ c.pend, p.fault = none ∧ ∃ w, p.kind = .done w) := by
  have h : ∀ p ∈ landCx.pend, p.due ≤ landCx.beat ∧ p.arrived = true ∧ p.fault = none := by decide +kernel
  refine ⟨by decide +kernel, by decide +kernel, by decide +kernel, by decide +kernel, fun p => ⟨fun m => ⟨m, (h p m).1, (h p m).2.1⟩, fun m => m.1⟩,
    fun p m => ⟨(h p m).2.2, ?_⟩⟩
  have : p ∈ [pendOf 4 1 (.done [.s 3#6 (val 9#64)]), pendOf 5 0 (.done [.flags true false])] := m
  simp only [List.mem_cons, List.not_mem_nil, or_false] at this
  rcases this with rfl | rfl <;> exact ⟨_, rfl⟩

/-- A pending load, or a pending atomic of 8 bytes, at address 64, whose word holds 3; a store of 4 bytes on its way and a
clean of its line, in scope 2. -/
def evCx (k : PendKind) : Ctx := { memCx with
  pend := [pendOf 20 5 k]
  stq := ⟨[], [⟨0, 64#64, [(64, 1#8), (65, 2#8)], [], 0#8, false, 0#2, 1#2, false, 0#64, false⟩], []⟩
  nextSeq := 6
  regs := { memCx.regs with streams := vset memCx.regs.streams 1#3 ⟨true, desc, 0, 0, none, none⟩ }
  eng := { memCx.eng with mat := { memCx.eng.mat with
    scale := [⟨true, 0#8, 0#8, 0#8, false⟩, ⟨false, 0#8, 0#8, 0#8, false⟩] } } }
def loadReq : LoadReq := ⟨.s 8#6, piecesOf 128#64 8, false, 0#2, false, none⟩
def amoReq : AmoReq := ⟨8#6, 128#64, val 1#64, val 0#64, false, false, 0#2, 3#2, 0#4, none⟩
def wload : State := { mapped (evCx (.load loadReq)) with mem := [(128, 3#8)] }
def wamo : State := { mapped (evCx (.amo amoReq)) with mem := [(128, 3#8)] }
def wmaint : State := mapped { evCx (.done []) with stq := ⟨[], [], [⟨2, 2#2, 2#2, 0, 256, 1#2, 0#64, false⟩]⟩ }
def amoVal (x : Option Nat × Bool) : Bool := !x.2
theorem witness_memoryEvents :
    ((wload.ctx 0#9).pend[(0#6).toNat]? = some (pendOf 20 5 (.load loadReq)) ∧ (pendOf 20 5 (.load loadReq)).outstanding = true ∧
      isBound (wload.ctx 0#9) = true ∧ (wload.ctx 0#9).frz ≠ .load ∧ mayRead wload 0#9 5 loadReq.strong loadReq.pieces = true ∧
      ∃ dat, readMem wload 0#9 .core false 0#2 spLoad (wload.ctx 0#9).ownStores 5 loadReq.pieces = .ok dat ∧
        (excVal (loadWrites loadReq.dst dat)).isSome = true) ∧
    ((wamo.ctx 0#9).pend[(0#6).toNat]? = some (pendOf 20 5 (.amo amoReq)) ∧ amoMayPerform wamo 0#9 (pendOf 20 5 (.amo amoReq)) false = true ∧
      translate wamo 0#9 .core 128#64 = .ok hbmLeaf ∧ amoFault hbmLeaf amoReq = none ∧
      mediaFault wamo 0#9 hbmLeaf 128#64 = none ∧ 3 < 256 ^ 8 ∧
      (∀ j, j < 8 → BitVec.ofNat 8 (3 / 256 ^ j) = if hbmLeaf.crcByte (128 + j) then 0#8
        else if hbmLeaf.guard then leafByte wamo 0#9 hbmLeaf (128 + j) else seenAt wamo 0#9 1#2 (128 + j)) ∧
      stalledRead wamo 128 = false ∧ (∀ j, j < 8 → (poolKey (128 + j) && poolDead wamo) = false) ∧ (amoNew 0#4 64 3 1 0).2 = false) ∧
    (let e : StoreEnt := ⟨0, 64#64, [(64, 1#8), (65, 2#8)], [], 0#8, false, 0#2, 1#2, false, 0#64, false⟩
     (wload.ctx 0#9).stq.sb[(0#8).toNat]? = some e ∧ e.stale = false ∧ storeMayPerform wload 0#9 0 e = true ∧ (e.data.map (·.1)).Nodup ∧
      (∀ b ∈ e.data, stalled wload b.1 = false ∧ hostGone wload b.1 = false ∧ (poolKey b.1 && poolDead wload) = false) ∧
      ∀ x ∈ e.lines, x ∉ (wload.cluster 0).badTags) ∧
    (let m : Maint := ⟨2, 2#2, 2#2, 0, 256, 1#2, 0#64, false⟩
     (wmaint.ctx 0#9).stq.maint[(0#6).toNat]? = some m ∧ m.stale = false ∧ maintMay wmaint 0#9 0 m = true ∧ m.scope ≠ 1#2 ∧ ¬ (m.op = 1#2 ∧ m.cls = 0#2) ∧
      (wmaint.cluster 0).l1d.Pairwise (fun x y => x.1 < y.1) ∧ (wmaint.cluster 0).ccd.Pairwise (fun x y => x.1 < y.1)) ∧
    (spoutWanted (wload.ctx 0#9) 1#3 = true ∧ ∃ v, nextVector wload 0#9 (vget zeroStream (wload.ctx 0#9).regs.streams 1#3) = .ok v ∧ v.fault = none) ∧
    ((wload.ctx 0#9).eng.mat.scale = [⟨true, 0#8, 0#8, 0#8, false⟩] ++ ⟨false, 0#8, 0#8, 0#8, false⟩ :: []) := by
  refine ⟨⟨by decide +kernel, by decide +kernel, by decide +kernel, by decide +kernel, by decide +kernel, acc_ok (by decide +kernel)⟩,
    by unfold seenAt; decide +kernel, by decide +kernel, by decide +kernel, ⟨by decide +kernel, exc_ok (by decide +kernel)⟩, by decide +kernel⟩

/-- The whole of HBM as one region of class 1, readable and writable; a page asked for by the core's cache. -/
def hbmRegion : Region := ⟨1#64, 0x5FFFFFF000#64, 0x30004#64, 0#64⟩
def wask : State := { dev { cx with asked := [(.core, 0)] } with regions := vset State.reset.regions 0#6 hbmRegion }
def trapRec : TrapRec := ⟨Vector.replicate 8 1#64⟩
/-- A context stopped at T20 without a record; a parked Milliner and channel; a held record with room in a ring of 16. -/
def parkedCx : Ctx := { genCx0 with
  life := .stopped
  parkB := some .t20
  gen := { genCx0.gen with stat := .parked .t20 }
  eng := { genCx0.eng with ch := vset genCx0.eng.ch 1#2 { Chan.reset with parked := some .t20 } } }
where genCx0 : Ctx := { cx with pages := [(0, 64#7)] }
theorem witness_translationEvents :
    ((XUnit.core, (0xFFF#64 : Word).toNat / 4096) ∈ (wask.ctx 0#9).asked ∧
      (∃ l, fillLeaf wask 0#9 0xFFF#64 0x1000#64 0#4 true true ((0x1000#64 : Word).extractLsb' 62 2) = .ok l ∧ l.fe = 0#9) ∧
      (fillLeaf wask 0#9 0xFFF#64 0x6000000000#64 0#4 true true ((0x6000000000#64 : Word).extractLsb' 62 2) = .error .t22)) ∧
    ((dev parkedCx).ctx 0#9).parkB = some .t20 ∧ ((dev parkedCx).ctx 0#9).mayResume = true ∧
    (((dev parkedCx).ctx 0#9).gen.stat = .parked .t20 ∧ genWord (dev parkedCx) 0#9 = some 0#32) ∧
    (((dev parkedCx).ctx 0#9).chan true).parked = some .t20 ∧ matrixBusy (dev parkedCx) 0#8 = false ∧
    (let s := { dev { cx with held := [trapRec] } with clusters := [(0, { Cluster.reset with
        trbase := 0x10000#64
        trctl := 0x14#6
        trhead := 15#32 })] }
     (s.ctx 0#9).held = trapRec :: [] ∧ (s.cluster 0).trctl.getLsbD 4 = true ∧ 4 ≤ ((s.cluster 0).trctl.extractLsb' 0 4).toNat ∧
      ((s.cluster 0).trctl.extractLsb' 0 4).toNat ≤ 12 ∧
      ((s.cluster 0).trhead - (s.cluster 0).trtail).toNat ≠ 2 ^ ((s.cluster 0).trctl.extractLsb' 0 4).toNat ∧ (s.cluster 0).trbase.toNat < 2 ^ 52) := by
  refine ⟨⟨by decide +kernel, exc_ok (by decide +kernel), rfl⟩, by decide +kernel⟩
/-- A context that may run again at once, and one that waits for its record. -/
theorem witness_priResponse : RestsNothing ((dev parkedCx).ctx 0#9) ∧
    ((dev { parkedCx with held := [trapRec] }).ctx 0#9).parkB = some .t20 ∧
    ((dev { parkedCx with held := [trapRec] }).ctx 0#9).mayResume = false := by
  refine ⟨.inr (fun r h => ?_), by decide +kernel⟩
  have : ((dev parkedCx).ctx 0#9).eng.mat.run = none := by decide +kernel
  rw [this] at h; cases h

/-- The context waits in f with its landing pending; a basin with phase 1 at offset 0; a word at 64; time has passed. -/
def waitDev (f : Frz) (w : Byte) : State := { mapped { memCx with
    frz := f
    pend := [pendOf 3 4 (.wait f)]
    spm := ⟨4096, [(0, ⟨BitVec.ofNat 2048 (1 + 2 * 2 ^ 32 + 1 * 2 ^ 48), 0#8, false, 0#4⟩)], [], []⟩ } with
  mem := if w = 0#8 then [] else [(64, w)]
  issue := none
  cycle := 2 ^ 26 }
theorem witness_waits :
    ((waitDev (.fence 3#2 2#2) 0#8).ctx 0#9).frz = .fence 3#2 2#2 ∧ loadsReturned ((waitDev (.fence 3#2 2#2) 0#8).ctx 0#9) = true ∧
      accessesPerformed ((waitDev (.fence 3#2 2#2) 0#8).ctx 0#9) 2#2 = true ∧
    (let s := waitDev (.tfence 2#2 (2 ^ 26 - 2 ^ 24)) 0#8
     (s.ctx 0#9).frz = .tfence 2#2 (2 ^ 26 - 2 ^ 24) ∧ 2 ^ 26 - 2 ^ 24 + 2 ^ 24 ≤ s.cycle) ∧
    (let s := waitDev (.twait 2#2 0#64 2#2) 0#8
     (0#64 : Word).toNat ≤ ((s.ctx 0#9).timeline 2#2).done.toNat) ∧
    (let s := waitDev (.cdrain true 0#64) 0#8
     (0#64 : Word).toNat ≤ ((s.ctx 0#9).timeline (chIdx true)).done.toNat) ∧
    (let s := waitDev (.bwait 0xFFFFFFFFFFE00000#64 0#32) 0#8
     peerOk s 0#9 0xFFFFFFFFFFE00000#64 32 = true ∧ basinFault s 0#9 (apertureHome 0#9 0xFFFFFFFFFFE00000#64) 0 = none ∧
      1 ≤ ((readBasin (s.ctx (apertureHome 0#9 0xFFFFFFFFFFE00000#64)).spm 0).ph - 0#32).toNat ∧
      ((readBasin (s.ctx (apertureHome 0#9 0xFFFFFFFFFFE00000#64)).spm 0).ph - 0#32).toNat ≤ 2 ^ 31) ∧
    (let s := waitDev (.sigwait 64#64 8#6) 0#8
     strongOutstanding (s.ctx 0#9) = false ∧ (0#64 : Word).toNat % 2 ^ 48 = 0) ∧
    (let s := waitDev (.mwait 64#64 8#6 (val 3#64) 1#16 (2 ^ 26 - 1024)) 3#8
     strongOutstanding (s.ctx 0#9) = false ∧ strongWord s 0#9 64 = (3#64, false) ∧ (1#16 : BitVec 16) ≠ 0#16 ∧
      2 ^ 26 - 1024 + (1#16).toNat * 1024 ≤ s.cycle) ∧
    strongWord (waitDev (.mwait 64#64 8#6 (val 3#64) 1#16 0) 4#8) 0#9 64 = (4#64, false) := by
  decide +kernel
theorem witness_waitPlaces : sigPlace (waitDev (.sigwait 64#64 8#6) 0#8) 0#9 64#64 false = .ok hbmLeaf 64 := rfl
/-- A stalled Milliner with room, and one whose wait is over; a routine that waits for a ring, a pair, the group, or too long. -/
def stallDev (st : GenStat) : State := { wg with ctxs := [(0, { genCx with
  gen := { genCx.gen with
    runnel := []
    stat := st
    fifo := [⟨7#64, 0#8, false⟩] }
  pages := [(0, 64#7)] })] }
def waiting (w : MWait) : MRun := { mrun .zero 1 with
  wait := w
  waited := 2 ^ 20 }
theorem witness_unitWaits :
    (genWord (stallDev .pushStall) 0#9 = some 0#32 ∧ ((stallDev .pushStall).ctx 0#9).gen.stat = .pushStall ∧
      runnelRoom ((stallDev .pushStall).ctx 0#9).gen (stalledMark (stallDev .pushStall) 0#9) = true) ∧
    ((stallDev .waitStall).ctx 0#9).gen.stat = .waitStall ∧
    ((matDev (matCx 1 (some (waiting (.ring 0#2 0))) false)).ctx 0#9).eng.mat.run = some (waiting (.ring 0#2 0)) ∧
    (let s := matDev (matCx 1 (some (waiting (.ring 0#2 0))) false)
     0 < ((s.ctx 0#9).eng.mat.ring ((waiting (.ring 0#2 0)).handle (0#2).toNat)).fill.toNat) ∧
    (let s := matDev (matCx 1 (some (waiting .scale)) false)
     ∀ p, (s.ctx 0#9).eng.mat.scale.head? = some p → p.ready = true) ∧
    ((waiting .sync).wait = .sync ∧ (pmMembers (waiting .sync).params).Nodup ∧ pmMembers (waiting .sync).params = [0#9] ∧
      (waiting .sync).frozen = false ∧ (waiting .sync).mpc + 1 < 4096 ∧ 2 ^ 20 ≤ (waiting .sync).waited) := by
  refine ⟨by decide +kernel, by decide +kernel, by decide +kernel, by decide +kernel, ?_, by decide +kernel⟩
  intro s p h
  have : some (⟨true, 0#8, 0#8, 0#8, false⟩ : ScalePair) = some p := h
  injection this with e; subst e; rfl

/-! ### Guarded lines -/

/-- A guarded page of class 1 from 0 to 256 KiB, and a device whose media hold errors at some of its lines: a parity error in
group 1 at line 2, a single and an uncorrectable error at lines 3 and 4, headers served by copy B or lost in page 62. -/
def gdLeaf : Leaf := ⟨0#9, 0, 6#4, 0, 0#8, true, true, true, 0#2, 1#2, 0#2⟩
def gdDev (c : Ctx) : State := { dev c with
  cores := [(0, { Core.reset with
    leaves := [gdLeaf]
    gleaves := [gdLeaf] })]
  mem := memWrites [] 136 [0x3B#8, 0x42#8, 0xC5#8, 0x00#8, 0x7F#8, 0x39#8, 0x44#8, 0x81#8]
  media := [(2, ⟨false, false, none, 2#8, 0#64⟩), (3, ⟨false, false, some false, 0#8, 0#64⟩), (4, ⟨false, false, some true, 0#8, 0#64⟩),
    (3968, ⟨true, false, none, 0#8, 0#64⟩), (3969, ⟨true, true, none, 0#8, 0#64⟩)] }
def gdReq (ea : Word) : LoadReq := ⟨.s 8#6, piecesOf ea 8, false, 0#2, false, none⟩
/-- The context under policy MPOL, with a load at `ea` on its way and `ea` in g1. -/
def gdCx (mpol : Bool) (ea : Word) : Ctx := { evCx (.load (gdReq ea)) with
  stq := ⟨[], [], []⟩
  gen := { cx.gen with g := vset cx.gen.g 1#5 ⟨ea, 0#8, false⟩ }
  regs := { memCx.regs with kvpol := if mpol then 1#64 else 0xFFFF000000000000#64 } }
def accF {α : Type} : Acc α → Option AccFault
  | .fault f => some f
  | .miss _ | .ok _ => none
theorem acc_fault {α : Type} {x : Acc α} {f : AccFault} (h : accF x = some f) : x = .fault f := by
  cases x <;> simp_all [accF]
/-- The error stands and the line is not held, at each kind of error. -/
theorem witness_guardedLines : ∀ ea : Nat, ea = 136 ∨ ea = 192 ∨ ea = 256 ∨ ea = 0x3E000 ∨ ea = 0x3E040 →
    (mediaErr (gdDev (gdCx false 136#64)) gdLeaf.guard (ea / 64)).any MediaErr.stands = true ∧
    lineHeld (gdDev (gdCx false 136#64)) 0 gdLeaf.cls (ea / 64) = false ∧ (poolKey ea && poolDead (gdDev (gdCx false 136#64))) = false ∧
    gdLeaf.cls ≠ 0#2 := by
  intro ea h
  rcases h with rfl | rfl | rfl | rfl | rfl <;> decide +kernel
theorem witness_guardedFaults :
    (let s := gdDev (gdCx false 0x3E040#64)
     let p := pendOf 20 5 (.load (gdReq 0x3E040#64))
     (s.ctx 0#9).pend[(0#6).toNat]? = some p ∧ p.outstanding = true ∧ isBound (s.ctx 0#9) = true ∧ (s.ctx 0#9).frz ≠ .load ∧
      mayRead s 0#9 p.seq false (gdReq 0x3E040#64).pieces = true ∧
      (gdReq 0x3E040#64).dst.fault ((gdReq 0x3E040#64).pieces.flatMap (pieceBand s 0#9 .core)) ⟨12, .d43, 0x3E040#64⟩ = ⟨12, .d43, 0x3E040#64⟩ ∧
      accF (readMem s 0#9 .core false 0#2 spLoad (s.ctx 0#9).ownStores 5 (gdReq 0x3E040#64).pieces) = some ⟨12, .d43, 0x3E040#64⟩ ∧
      (s.here.rG 1#5).poison = false ∧ isSpm 0x3E040#64 = false ∧ translate s s.cur .gen 0x3E040#64 = .ok gdLeaf ∧
      gdLeaf.page63 0x3E040#64 = false ∧ gdLeaf.spaceAt 0x3E040#64 = .hbm ∧ gstOut s.here = false ∧ genHeld s s.cur gdLeaf 0x3E040#64 false = false ∧
      mediaFault s s.cur gdLeaf 0x3E040#64 = some ⟨12, .d43, 0x3E040#64⟩) ∧
    (let s := { gdDev (gdCx false 136#64) with clusters := [(0, { Cluster.reset with
        badTags := [2] })] }
     (s.cluster 0).badTags.contains (136 / 64) = true) := by decide +kernel

/-- The worked example of R324: the group is delivered with bits 1:0 clear and MZC rises by 1 under MPOL 0; under MPOL 1 the line
is delivered poisoned and nothing is counted. -/
theorem test_guardedGroup :
    leafBytes (gdDev (gdCx false 136#64)) 0#9 gdLeaf 136 8 = [0x38#8, 0x40#8, 0xC4#8, 0x00#8, 0x7C#8, 0x38#8, 0x44#8, 0x80#8] ∧
    ((fillLine (gdDev (gdCx false 136#64)) 0#9 gdLeaf 136).ctx 0#9).regs.kvpol = 0xFFFF000000010000#64 ∧
    leafPoison (gdDev (gdCx false 136#64)) 0#9 gdLeaf 136 = false ∧ leafPoison (gdDev (gdCx true 136#64)) 0#9 gdLeaf 136 = true ∧
    ((fillLine (gdDev (gdCx true 136#64)) 0#9 gdLeaf 136).ctx 0#9).regs.kvpol = 1#64 := by decide +kernel
/-- R321, R323: a header from copy B leaves HDC at FFFFH; a single error counts in SEC; a second read of the line, in the cache, counts
nothing (R324). -/
theorem test_guardedCounts :
    ((fillLine (gdDev (gdCx false 136#64)) 0#9 gdLeaf 0x3E000).ctx 0#9).regs.kvpol = 0xFFFF000000000000#64 ∧
    ((fillLine (fillLine (gdDev (gdCx false 136#64)) 0#9 gdLeaf 192) 0#9 gdLeaf 200).ctx 0#9).regs.kvpol = 0xFFFF000100000000#64 := by
  decide +kernel
/-! ### Witnesses: engines, channels, basins -/

/-- A call whose routine starts at word 0, alone in its core's queue. -/
def callDev (flags : BitVec 4) : State := { dev (matCx 1 none false) with
  cores := [(0, { Core.reset with
    rtab := [(0, 0x1000#13)]
    mq := [mcmd (.call flags 0#6 0#16) 1] })] }
def cmdOk : CmdOut → Bool
  | .ok _ _ => true
  | .fault _ _ => false
theorem cmd_ok {x : CmdOut} (h : cmdOk x = true) : ∃ m spm, x = .ok m spm := by
  cases x <;> simp_all [cmdOk]
/-- A seal of 208 bytes, which with header and tag fill one line. -/
def sealCmd : CipherCmd := ⟨1#64, true, 0#21, 256#21, 208#17, 0#2, 0#64, 0#64, 0#64, 0⟩
def sealCx : Ctx := { cx with
  keys := vset cx.keys 0#2 (some 7#256)
  eng := { cx.eng with
    cipher := [sealCmd]
    cipherRun := true } }
theorem witness_unitsStart :
    let s := callDev 2#4
    let c := s.ctx 0#9
    let cmd := mcmd (.call 2#4 0#6 0#16) 1
    let units := regionUnits (cmd.m.map (·.val)) (algDim cmd.tab)
    ((0#9 : FeId) = feA 0#8 ∧ cmd.fe = 0#9 ∧ (s.core 0).held = [] ∧ (s.core 0).mq = cmd :: [] ∧ (s.mat (feA 0#8)).saved = [] ∧
      (s.mat (feB 0#8)).saved = [] ∧ wantsFreeze c = false ∧ c.eng.mat.run = none) ∧
    ((mget 0#13 (s.core (coreOf cmd.fe)).rtab (0#6).toNat).getLsbD 12 = true ∧ (2#4).getLsbD 3 = false ∧ cmd.mixed = false ∧
      mcallPlacesOk s 0#9 (cmd.m.map (·.val)) (algDim cmd.tab) = true ∧
      bandOf (cmd.band :: (List.range units).map (fun u => unitBand (zeroUnits c.eng.mat (pmAUB (cmd.m.map (·.val))) units c.band)
        (pmAUB (cmd.m.map (·.val)) + u))) = some 0#8) ∧
    (∃ m spm, plainCmd c (mcmd .zero 1) = .ok m spm) ∧ (∃ m spm, plainCmd c (mcmd .drainRaw 1) = .ok m spm) ∧
    (let r := { mrun .zero 1 with phase := .finished }
     let t := dev (matCx 1 (some r) false)
     (t.ctx 0#9).eng.mat.bypass = none ∧ (t.ctx 0#9).eng.mat.run = some r ∧ r.phase = .finished) := by
  refine ⟨by decide +kernel, by decide +kernel, cmd_ok (by decide +kernel), cmd_ok (by decide +kernel), by decide +kernel⟩
theorem witness_sealFreezeIllegal :
    (let c := (dev sealCx).ctx 0#9
     c.eng.cipher = sealCmd :: [] ∧ isBound c = true ∧ c.eng.cipherRun = true ∧ ((dev sealCx).ctx (otherFe 0#9)).eng.cipher = [] ∧
      vget none c.keys sealCmd.k = some 7#256 ∧ sealCmd.isSeal = true ∧ sealCmd.dst.toNat % 256 = 0 ∧
      bandOf (((spmRangeLines 0 208).map (spmLine c.engineSpm)).map (·.band)) = some 0#8 ∧
      (∀ l ∈ (spmRangeLines 0 208).map (spmLine c.engineSpm), l.form = false) ∧ spmRangePoison c.engineSpm 0 208 = false) ∧
    (let s := dev (matCx 1 (some (mrun (.call 0#4 0#6 0#16) 1)) true)
     (s.ctx 0#9).eng.mat.run = some (mrun (.call 0#4 0#6 0#16) 1) ∧ wantsFreeze (s.ctx 0#9) = true ∧ (mrun (.call 0#4 0#6 0#16) 1).phase ≠ .finished ∧
      (mrun (.call 0#4 0#6 0#16) 1).atFreezePoint = true ∧ (mrun (.call 0#4 0#6 0#16) 1).holds (s.ctx 0#9) = true ∧ (mrun (.call 0#4 0#6 0#16) 1).phase = .words ∧ (mrun (.call 0#4 0#6 0#16) 1).frozen = false ∧ (mrun (.call 0#4 0#6 0#16) 1).indr = false) ∧
    ((dev (matCx 1 (some (trimmed 0 0)) false)).ctx 0#9).eng.mat.active = some (trimmed 0 0) ∧ draining (trimmed 0 0) = true := by
  decide +kernel

/-- A copy of 64 bytes from 64 to dst that channel 0 begins, or has finished. -/
def cpyEnt (sig : Bool) (dst : Word) : CopyEnt :=
  ⟨1#8, 1#64, 0#3, false, sig, false, 0#3, { Staging.reset with
    sbase := 64#64
    dbase := dst
    chunk := 64#32
    rsig := 8#64 }, [], 0#21, 0#64, 0#64, 0⟩
def cpyDev (sig fin : Bool) (dst : Word) : State := { mapped { memCx with eng := { memCx.eng with
    ch := vset memCx.eng.ch 0#2 { Chan.reset with
      queue := [cpyEnt sig dst]
      headDone := fin } } } with
  mem := [(8, 1#8)]
  basins := [⟨0#9, 0#21, .arrive, 0#9, 0#64, 0#64, none⟩] }
theorem witness_copyBeats (dst : Word) (h : dst = 0x1000#64 ∨ dst = 0xFFFFFFFFFFE000C0#64) :
    let s := cpyDev false false dst
    let e := cpyEnt false dst
    let x := (s.ctx 0#9).chan false
    let r := readPiece s 0#9 e.seq 64 (.mem hbmLeaf 64)
    x.queue = e :: [] ∧ isBound (s.ctx 0#9) = true ∧ x.parked = none ∧ x.headDone = false ∧ (s.ctx 0#9).resting = false ∧
    (s.ctx 0#9).stops.silent = false ∧ e.empty = false ∧ e.add = 0#3 ∧ e.chg = false ∧ (e.addrs x.idx).1 + BitVec.ofNat 64 x.off.toNat = 64#64 ∧
    (e.addrs x.idx).2 + BitVec.ofNat 64 x.off.toNat = dst ∧ beatLen e (e.addrs x.idx).2 x.off.toNat = 64 ∧
    cutPieces 0 64#64 64 3 = [⟨0, 64#64, 64⟩] ∧ x.off = 0#32 ∧ cisternWaits s (.mem hbmLeaf 64) = false ∧
    locStalls s false (.mem hbmLeaf 64) = false ∧ bandOf [exportBand r] = some 0#8 ∧
    r.poison = false ∧ (CLoc.mem hbmLeaf 64).dead s 0#9 = false ∧
    locStalls s true (.mem hbmLeaf 0x1000) = false ∧ exportFault 0#8 (dstBand s (.mem hbmLeaf 0x1000)) true = none ∧
    (CLoc.mem hbmLeaf 0x1000).space ≠ .cistern ∧ hostGone s 0x1000 = false ∧ (∀ j, j < 64 → (poolKey (0x1000 + j) && poolDead s) = false) ∧
    exportFault 0#8 (dstBand s (.spm 0#9 192)) false = none ∧ fabricOpen s 0#9 = true ∧ x.carry = none ∧
    ownPending s 0#9 e.seq (CLoc.mem hbmLeaf 64).lines (CLoc.mem hbmLeaf 0x1000).lines = false ∧
    ownPending s 0#9 e.seq (CLoc.mem hbmLeaf 64).lines (CLoc.spm 0#9 192).lines = false ∧ 192 % 256 + 64 ≤ 256 := by
  rcases h with rfl | rfl <;> decide +kernel
theorem witness_copyPlaces :
    copyLoc (cpyDev false false 0x1000#64) 0#9 false 64#64 64 false = .mem hbmLeaf 64 ∧
    copyLoc (cpyDev false false 0x1000#64) 0#9 false 0x1000#64 64 true = .mem hbmLeaf 0x1000 ∧
    copyLoc (cpyDev false false 0xFFFFFFFFFFE000C0#64) 0#9 false 0xFFFFFFFFFFE000C0#64 64 true = .spm 0#9 192 := ⟨rfl, rfl, rfl⟩
/-- Copies that have finished, without and with a report; and a basin of REM 1, of REM 0, and one whose phase is complete. -/
theorem witness_copyCompleteBasins :
    (((cpyDev false true 0x1000#64).ctx 0#9).chan false).headDone = true ∧ (cpyEnt false 0x1000#64).sig = false ∧
    (let s := cpyDev true true 0x1000#64
     let e := cpyEnt true 0x1000#64
     e.sig = true ∧ translate s 0#9 (.chan false) e.st.rsig = .ok hbmLeaf ∧ hbmLeaf.w = true ∧ hbmLeaf.cls ≠ 0#2 ∧ hbmLeaf.page63 e.st.rsig = false ∧ fabricOpen s 0#9 = true ∧
      stalledRead s (hbmLeaf.keyOf e.st.rsig) = false ∧ 1 ≤ (s.word8 (hbmLeaf.keyOf e.st.rsig)).toNat % 2 ^ 48) ∧
    (let s := { waitDev .none 0#8 with basins := [⟨0#9, 0#21, .arrive, 0#9, 0#64, 0#64, none⟩] }
     let m : BasinMsg := ⟨0#9, 0#21, .arrive, 0#9, 0#64, 0#64, none⟩
     s.basins[(0#16).toNat]? = some m ∧ isBound (s.ctx m.home) = true ∧ basinFault s m.src m.home m.off.toNat = none ∧ m.off.toNat % 32 = 0 ∧
      (readBasin (s.ctx m.home).spm m.off.toNat).rem ≠ 0#16) ∧
    (let c := { memCx with spm := ⟨32, [(0, ⟨BitVec.ofNat 2048 (2 * 2 ^ 32 + 2 ^ 64), 0#8, false, 0#4⟩)], [], []⟩ }
     let b := readBasin c.spm 0
     b.rem = 0#16 ∧ b.nxa.toNat < b.exp.toNat ∧ isBound c = true ∧ (0#21).toNat % 32 = 0 ∧ (0#21).toNat + 32 ≤ c.spm.size ∧
      b.bytes = 0#32) := by
  decide +kernel

/-! ### Witnesses: tasks -/

/-- A kernel of one context, with VALID (R325). -/
def kern1 : Kernel := #v[0#64, 0x500000000#64, 0#64, 0x20000#64, 0#64, 0#64, 0#64, 0#64, 0#64, 0#64, 0x10000#64, 0#64, 0#64, 0#64, 0#64, 0#64]
def task1 : Task :=
  ⟨7#32, .eligible, 0#64, 8#64, #v[64#64, 0#64, 0#64, 0#64], 1#32, 5#8, 0#4, 0, 0, none, none, [], [], false, [], [], 0, false, false, false, [], []⟩
def launch1 : LaunchCmd := ⟨0#9, BitVec.ofNat 512 (2 ^ 384), 1#32, 0#4, 5#8, none, []⟩
/-- A dispatcher that is on, with kernel 1, the tasks ts and window 0; context c on front end 0; memory m. -/
def tdev (c : Ctx) (ts : List Task) (m : List Host.Cell) : State := { mapped c with
  issue := none
  mem := m
  hw := { State.reset.hw with kernels := [(1, kern1)] }
  disp := { State.reset.disp with
    en := true
    tasks := ts
    launchq := [launch1]
    windows := vset State.reset.disp.windows 0#6 0x80#8
    queues := [(0, { CwQueue.reset with
      en := true
      isOn := true
      rbase := 16#12 })] } }
/-- Entry 0 of window 0's first queue is a task of kernel 1 with its seal, and the queue's control block has EN = 1. -/
def entryMem : List Host.Cell := [(0x5FFC000000, 1#8), (0x5FFC010030, 1#8), (0x5FFC010036, 1#8), (0x5FFC010038, 1#8)]

theorem witness_taskArrivals :
    (let s := tdev cx [task1] []
     s.trace.en = false ∧ s.disp.launchq = launch1 :: [] ∧ launch1.fe = 0#9 ∧ s.disp.tasks.length < 4096 ∧ s.disp.en = true ∧
      kernelRefuses s (launch1.cmd.extractLsb' 384 32) (some launch1.tenant) = false) ∧
    (let s := tdev cx [task1] entryMem
     let cmd : BitVec 512 := BitVec.ofNat 512 (memNat s.mem (entryAddr 0#6 (s.cwq 0#6 0#6) (s.cwq 0#6 0#6).cons.toNat) 64)
     winOn s 0#6 = true ∧ (s.cwq 0#6 0#6).isOn = true ∧ sealed s 0#6 (s.cwq 0#6 0#6) = true ∧ cmd.extractLsb' 432 8 = 1#8 ∧ entryBad s cmd = false ∧
      kernelRefuses s (cmd.extractLsb' 384 32) none = false ∧ (qWord0 s 0#6 0#6).getLsbD 0 = true) ∧
    (let s := tdev cx [task1] []
     (s.cwq 0#6 0#6).en = true ∧ (qWord0 s 0#6 0#6).getLsbD 0 = false) ∧
    ((tdev { cx with life := .rinsing } [] []).ctx 0#9).life = .rinsing ∧ ((tdev { cx with life := .rinsing } [] []).ctx 0#9).eng.cipher = [] := by
  decide +kernel

/-- A context that has ended by `exit`. -/
def exitCx : Ctx := { cx with
  idle := .exitOp false
  gen := { cx.gen with stat := .halted }
  exiting := some false }
theorem witness_taskStates :
    (let y := { task1 with st := .waiting }
     let s := tdev cx [y] []
     s.task y.id = some y ∧ y.st = .waiting ∧ (∀ a ∈ y.deps.toList, a = 0#64 ∨ (a ≠ 0#64 ∧ stalledRead s a.toNat = false) ∧
        s.word8 a.toNat &&& 0xFF00FFFFFFFFFFFF#64 = 0#64)) ∧
    (let y := { task1 with st := .waiting }
     let s := tdev cx [y] [(71, 0x40#8)]
     s.task y.id = some y ∧ (∀ a ∈ y.deps.toList, a = 0#64 ∨ a ≠ 0#64 ∧ stalledRead s a.toNat = false) ∧
      (∃ a ∈ y.deps.toList, a ≠ 0#64 ∧ (s.word8 a.toNat).extractLsb' 56 8 ≠ 0#8) ∧ y.sigc ≠ 0#64) ∧
    (let y := { task1 with st := .failed }
     let s := tdev Ctx.reset [y] []
     s.task y.id = some y ∧ taskBound s y.id = false ∧ y.torn = false ∧ y.sigc ≠ 0#64) ∧
    (let y := { task1 with
        st := .running
        live := [0#9] }
     let s := tdev exitCx [y] [(8, 1#8)]
     let c := s.ctx 0#9
     s.task y.id = some y ∧ y.live = [0#9] ∧ y.saved = [] ∧ y.torn = false ∧ y.failExit = false ∧ 1 ≤ (s.word8 y.sigc.toNat).toNat % 2 ^ 48 ∧
      c.ident.task = y.id ∧ exitOf c = some false ∧ c.life = .running ∧ settled c = true ∧ c.regs.win.busy = false ∧ enginesDone c = true ∧
      c.frz.before = true ∧ c.stq.gate = [] ∧ accessesPerformed c 3#2 = true) := by
  refine ⟨⟨by decide +kernel, by decide +kernel, ?_⟩, ⟨by decide +kernel, ?_, ⟨64#64, ?_, by decide +kernel⟩, by decide +kernel⟩,
    by decide +kernel, by decide +kernel⟩
  · intro a h
    have : a ∈ [64#64, 0#64, 0#64, 0#64] := h
    simp only [List.mem_cons, List.not_mem_nil, or_false] at this
    rcases this with rfl | rfl | rfl | rfl <;> decide +kernel
  · intro a h
    have : a ∈ [64#64, 0#64, 0#64, 0#64] := h
    simp only [List.mem_cons, List.not_mem_nil, or_false] at this
    rcases this with rfl | rfl | rfl | rfl <;> decide +kernel
  · show (64#64 : Word) ∈ [64#64, 0#64, 0#64, 0#64]
    simp

/-- Nine front ends A: at most eight cores are disabled (R1), so that one of these stands on an enabled core. -/
def nine : List FeId := [2#9, 4#9, 6#9, 8#9, 10#9, 12#9, 14#9, 16#9, 18#9]
theorem enabled_core : ∃ fe ∈ nine, Config.disabled (BitVec.ofNat 8 (coreOf fe)) = false := by
  by_contra hc
  have all : ∀ fe ∈ nine, Config.disabled (BitVec.ofNat 8 (coreOf fe)) = true := fun fe h => by
    cases e : Config.disabled (BitVec.ofNat 8 (coreOf fe)) with
    | true => rfl
    | false => exact absurd ⟨fe, h, e⟩ hc
  have sub : nine.map (fun fe => some (BitVec.ofNat 8 (coreOf fe) : CoreId)) ⊆ Config.disabledCores.toList := by
    intro x hx
    obtain ⟨fe, h, rfl⟩ := List.mem_map.mp hx
    have := all fe h
    simpa [Config.disabled] using this
  have nd : (nine.map (fun fe => some (BitVec.ofNat 8 (coreOf fe) : CoreId))).Nodup := by decide +kernel
  have := (List.subperm_of_subset nd sub).length_le
  simp [nine] at this
/-- A selected placement: task 7 waits to be placed on a free front end of an enabled core. -/
theorem witness_taskPlacement : ∃ fe : FeId,
    let s := tdev Ctx.reset [task1] []
    s.task task1.id = some task1 ∧ s.disp.en = true ∧ s.disp.hold = false ∧ task1.st = .eligible ∧ task1.images = false ∧
    reaches s task1.id = true ∧ kernelOf s task1.kern = some kern1 ∧ [fe] ≠ [] ∧ validPlace s kern1 [fe] = true ∧ scidxRoom s kern1 = true := by
  obtain ⟨fe, h, e⟩ := enabled_core
  refine ⟨fe, by decide +kernel, by decide +kernel, by decide +kernel, by decide +kernel, by decide +kernel, by decide +kernel,
    by decide +kernel, by simp, ?_, by decide +kernel⟩
  simp only [validPlace, List.all_cons, List.all_nil, fits, e]
  simp only [nine, List.mem_cons, List.not_mem_nil, or_false] at h
  rcases h with rfl | rfl | rfl | rfl | rfl | rfl | rfl | rfl | rfl <;> decide +kernel

/-- A kernel of one context may be placed when one front end of an enabled core of die 0 is free. -/
theorem placeable_of {s : State} {k : Kernel} {fr : List FeId} {fe : FeId} (hd : kDies k = 1) (hc : kCores k = 1) (ha : kAlign k = 0)
    (hf : fits s k fr fe = true) (hq : ∃ q, q < 64 ∧ fe = feA (BitVec.ofNat 8 (64 * 0 + q))) : placeable s k fr = true := by
  obtain ⟨q, hq, rfl⟩ := hq
  have hcf : coreFits s k fr 0 q = true := by simp only [coreFits, hf, Bool.true_or]
  have h1 : dieFits s k fr 0 = true := by
    simp only [dieFits, ha, hc, ↓reduceIte, decide_eq_true_eq]
    exact List.length_pos_of_mem (List.mem_filter.mpr ⟨List.mem_range.mpr hq, hcf⟩)
  simp only [placeable, hd, decide_eq_true_eq]
  exact List.length_pos_of_mem (List.mem_filter.mpr ⟨List.mem_range.mpr (by decide : 0 < 4), h1⟩)
/-- A yield that gives way: the running task 7, and task 8 that may be placed. -/
theorem witness_yield :
    let y := { task1 with st := .running }
    let s := { tdev cx [y, { task1 with id := 8#32 }] [] with issue := some (iss cx) }
    OpRuns s hd ∧ s.mayAct 0 = true ∧ s.task s.here.ident.task = some y ∧ yieldMeets s y = true := by
  intro y s
  refine ⟨by unfold OpRuns; decide +kernel, by decide +kernel, by decide +kernel, ?_⟩
  have hp : placeable s kern1 y.live = true := by
    obtain ⟨fe, h, e⟩ := enabled_core
    refine placeable_of (fe := fe) (by decide +kernel) (by decide +kernel) (by decide +kernel) ?_ ?_
    · simp only [fits, e]
      simp only [nine, List.mem_cons, List.not_mem_nil, or_false] at h
      rcases h with rfl | rfl | rfl | rfl | rfl | rfl | rfl | rfl | rfl <;> decide +kernel
    · simp only [nine, List.mem_cons, List.not_mem_nil, or_false] at h
      rcases h with rfl | rfl | rfl | rfl | rfl | rfl | rfl | rfl | rfl
      exacts [⟨1, by decide⟩, ⟨2, by decide⟩, ⟨3, by decide⟩, ⟨4, by decide⟩, ⟨5, by decide⟩, ⟨6, by decide⟩, ⟨7, by decide⟩, ⟨8, by decide⟩,
        ⟨9, by decide⟩]
  have hk : kernelOf s 1#32 = some kern1 := by decide +kernel
  have hr : scidxRoom s kern1 = true := by decide +kernel
  have hm : ({ task1 with id := 8#32 }, 1) ∈ candidates s := by decide +kernel
  have h0 : (s.disp.en && !s.disp.hold && y.st == .running && !y.preempt && !y.torn) = true := by decide +kernel
  unfold yieldMeets
  rw [h0, Bool.true_and, List.any_eq_true]
  refine ⟨_, hm, ?_⟩
  simp only [canPlace, task1, hk, hr, hp, Bool.and_true]
  decide


/-! ### Witnesses: the Crown, kernels, fills, class E events -/

/-- A running context whose Milliner and channel 1 are parked, with A60 asked for. -/
def runParked : Ctx := { parkedCx with
  life := .running
  parkB := none
  stops := ⟨some 3#16, false, false, false, []⟩ }
/-- A stopped context; a saved image may go with it. -/
def stoppedCx (busy saved : Bool) : Ctx := { cx with
  life := .stopped
  img := ⟨busy, 0#4, 0#4, 0x2000#64, 0#32, saved⟩ }
def imgTask (fe : FeId) : Task := { task1 with
  images := true
  saved := [(fe, 0x2000#64)] }
/-- An image of zero bytes at 2000H for front end fe. -/
def imgDev (c : Ctx) (fe : FeId) (ts : List Task) : State := { tdev c ts [] with
  mem := memWrites [] 0x2000 (zeroHead fe) }
theorem imgDev_mem (c : Ctx) (fe : FeId) (ts : List Task) : (imgDev c fe ts).mem = memWrites [] 0x2000 (zeroHead fe) := by
  simp only [imgDev]
theorem imgDev_rest (c : Ctx) (fe : FeId) (ts : List Task) : (imgDev c fe ts).poison = [] ∧ (imgDev c fe ts).regions = State.reset.regions :=
  ⟨rfl, rfl⟩
theorem image_zeros {s : State} {fe : FeId} (hm : s.mem = memWrites [] 0x2000 (zeroHead fe)) (hp : s.poison = [])
    (hr : s.regions = State.reset.regions) (hd : poolDead s = false) (hk : kernelOf s 1#32 = some kern1)
    (h : imagePlaceOk fe (zeroHead fe) = true ∧ (byteAt (zeroHead fe) 6).getLsbD 0 = false ∧
      BitVec.ofNat 32 (bytesAt (zeroHead fe) 16 4) = 1#32 ∧
      dirEntries (zeroHead fe) = (List.range 15).map (fun i => (i + 1, 4, if i = 10 then 8 else 2048))) :
    ∃ m, checkImage s fe 0x2000 = (1#4, some m) ∧ kernelOf s m.ident.kern = some kern1 ∧ RestsNothing m := by
  obtain ⟨h1, h2, h3, h4⟩ := h
  obtain ⟨m, a, b, c⟩ := checkImage_zeros hm hp hr hd hk (by decide +kernel) (by decide +kernel) (by decide +kernel) h1 h2 h3 h4
  exact ⟨m, a, by rw [c, hk], .inr (fun r h => by rw [b] at h; cases h)⟩
theorem witness_crown :
    ((dev parkedCx).ctx 0#9).mayResume = true ∧
    (let c := (dev runParked).ctx 0#9
     c.life = .running ∧ c.gen.isParked = true ∧ (c.chan true).parked.isSome = true ∧ c.stops.silent = false ∧ c.stops.engine = [] ∧
      c.stops.a60 = some 3#16 ∧ c.clean = true ∧ c.frz = .none ∧ c.idle ≠ .quiet ∧ c.regs.loop.active = false) ∧
    (let c := (dev { runParked with regs := { runParked.regs with loop := { runParked.regs.loop with active := true } } }).ctx 0#9
     c.stops.a60 = some 3#16 ∧ c.frz = .none ∧ c.idle ≠ .quiet ∧ c.regs.loop.active = true) ∧
    (let c := (dev { runParked with idle := .quiet }).ctx 0#9
     c.life = .running ∧ c.stops.a60 = some 3#16 ∧ c.idle = .quiet ∧ c.pend = []) ∧
    (((dev (stoppedCx false false)).ctx 0#9).life = .stopped ∧ ((dev (stoppedCx false false)).ctx 0#9).img.busy = false ∧
      ((dev (stoppedCx false false)).ctx 0#9).img.saved = false) ∧
    (let y := { task1 with
        st := .running
        live := [0#9] }
     let s := tdev (stoppedCx false true) [y] []
     (s.ctx 0#9).life = .stopped ∧ (s.ctx 0#9).img.busy = false ∧ (s.ctx 0#9).img.saved = true ∧
      s.task (s.ctx 0#9).ident.task = some y ∧ y.st = .running ∧ y.live = [0#9] ∧ y.torn = false) ∧
    (let c := (dev (stoppedCx true false)).ctx 0#9
     c.life = .stopped ∧ c.img.busy = true ∧ c.priOk = false ∧ saveReady c = true ∧ c.prot = false) ∧
    (let s := dev { Ctx.reset with img := ⟨true, 0#4, 2#4, 0#64, 0#32, false⟩ }
     (s.ctx 0#9).life = .unbound ∧ (s.ctx 0#9).img.busy = true ∧ s.task (s.ctx 0#9).ident.task = none) ∧
    (let c := { stoppedCx false false with eng := { cx.eng with weirSegs := 2 } }
     let s := dev c
     segOwner s ((0#9 : FeId).extractLsb' 1 8) ((0x1010#16).toNat / 4096) = some (0#9, 1) ∧ crownMayWrite (s.ctx 0#9) = true ∧
      segOwner s ((0#9 : FeId).extractLsb' 1 8) ((0x5010#16).toNat / 4096) = none ∧ (segAt s 0#8 5).locked = false ∧
      (0x1010#16).toNat % 4096 % 8 = 0 ∧ (0x1010#16).toNat % 4096 < 0x800 ∧ (segAt s 0#8 1).locked = false ∧
      weirIllegal 1#64 = false) := by
  decide +kernel
/-- The image at IMGADDR of an unbound front end is accepted. -/
theorem witness_restore :
    let s := imgDev { Ctx.reset with img := ⟨false, 0#4, 0#4, 0x2000#64, 0#32, false⟩ } 0#9 []
    (∃ m, checkImage s 0#9 (s.ctx 0#9).img.addr.toNat = (1#4, some m) ∧ kernelOf s m.ident.kern = some kern1 ∧ RestsNothing m) ∧
    (s.ctx 0#9).life = .unbound ∧ (s.ctx 0#9).img.busy = false ∧ (s.ctx 0#9).held = [] :=
  ⟨image_zeros (imgDev_mem _ _ _) (imgDev_rest _ _ _).1 (imgDev_rest _ _ _).2 (by decide +kernel) (by decide +kernel) (by decide +kernel), by decide +kernel⟩
theorem fits_images {s : State} {fe : FeId} {y : Task} {k : Kernel} {a : Word} (hk : kernelOf s y.kern = some k) (hi : y.images = true)
    (hs : y.saved = [(fe, a)]) (hf : fits s k [] fe = true) : canPlace s y [] = true := by
  simp only [canPlace, hk, hi, ↓reduceIte, savedFits, hs, List.all_cons, List.all_nil, hf, Bool.and_self]
/-- A gang of one whose image memory holds, restored to a free front end of an enabled core. -/
theorem witness_gangRestore : ∃ fe : FeId,
    let s := imgDev Ctx.reset fe [imgTask fe]
    s.task task1.id = some (imgTask fe) ∧ s.disp.en = true ∧ s.disp.hold = false ∧ (imgTask fe).st = .eligible ∧ (imgTask fe).images = true ∧
    (imgTask fe).saved = [(fe, 0x2000#64)] ∧ reaches s task1.id = true ∧ canPlace s (imgTask fe) [] = true ∧
    ∃ m, checkImage s fe (0x2000#64 : Word).toNat = (1#4, some m) ∧ kernelOf s m.ident.kern = some kern1 ∧ RestsNothing m := by
  obtain ⟨fe, h, e⟩ := enabled_core
  refine ⟨fe, ?_⟩
  simp only [nine, List.mem_cons, List.not_mem_nil, or_false] at h
  rcases h with rfl | rfl | rfl | rfl | rfl | rfl | rfl | rfl | rfl <;>
  exact ⟨by decide +kernel, by decide +kernel, by decide +kernel, by decide +kernel, by decide +kernel, by decide +kernel, by decide +kernel,
    fits_images (k := kern1) (by decide +kernel) rfl rfl (by simp only [fits, e]; decide +kernel),
    image_zeros (imgDev_mem _ _ _) (imgDev_rest _ _ _).1 (imgDev_rest _ _ _).2 (by decide +kernel) (by decide +kernel) (by decide +kernel)⟩

/-- A die whose fill port has the given state, and nothing bound. -/
def fillDev (busy : Bool) (hold : Option (BitVec 32 × BitVec 32)) : State := { tdev Ctx.reset [task1] [] with
  ctxs := []
  trace := ⟨false, false, 0#8, 0#32, 0#26, 0#32⟩
  fills := vset State.reset.fills 0#2 ⟨0x1000#64, 0x300#64, 1024#64, busy, false, false, 5#32, hold, 0⟩ }
/-- A plan that keeps an owner each for management, trace and refresh. -/
def plan1 : List Byte := List.replicate 60 1#8 ++ [2#8, 16#8, 17#8, 18#8]
theorem witness_deviceEvents :
    ((65535#32).toNat < 65536 ∧ kern1.toList.length = 16 ∧ ∀ x ∈ kern1.toList[12]?, x = 0#64) ∧
    (let s := { w0 with regions := vset State.reset.regions 3#6 { hbmRegion with base := 0#64 } }
     let r := { regionAt s 3#6 with base := ((1#64 : Word) &&& 0xFFFFFFFFFF000#64) ||| 1#64 }
     mayWriteRegion .headwater (regionAt s 3#6) = true ∧ r.first ≤ r.last ∧ r.legal = true ∧ regionOverlaps s 3 r = false ∧
      (1#64 : Word).getLsbD 0 = true) ∧
    (let s := fillDev false none
     let p := portOf s 0
     p.busy = false ∧ boundOn s 0 = 0 ∧ p.dst.toNat + p.len.toNat ≤ 536870912 ∧ fillSource p.src.toNat p.len.toNat = true) ∧
    (let s := fillDev false (some (7#32, 1#32))
     let p := portOf s 0
     p.hold = some (task1.id, 1#32) ∧ s.task task1.id = some task1 ∧ kernelOf s 1#32 = some kern1 ∧ p.busy = false ∧ boundOn s 0 = 0) ∧
    (let s := fillDev true none
     (portOf s 0).busy = true ∧ (portOf s 0).hold = none ∧ s.trace.en = false ∧
      deadLine s (portOf s 0).src.toNat (portOf s 0).len.toNat = none) ∧
    (plan1.length = 64 ∧ (∀ x ∈ plan1, x.toNat ≤ 18) ∧ 16#8 ∈ plan1 ∧ 17#8 ∈ plan1 ∧ 18#8 ∈ plan1) ∧
    ({ w0 with hw := { w0.hw with planNew := some plan1 } } : State).hw.planNew = some plan1 ∧
    ((w0.ctx 0#9).life = .running ∧ w0.trace.frozen = false ∧ (0#9 : FeId) ∈ [(0#9 : FeId)] ∧ (0#9 : FeId).toNat / 128 = (0#4 : BitVec 4).toNat) := by
  have hp : ∀ x ∈ plan1, x.toNat ≤ 18 := by
    intro x h
    simp only [plan1, List.mem_append, List.mem_replicate, List.mem_cons, List.not_mem_nil, or_false] at h
    rcases h with ⟨-, rfl⟩ | rfl | rfl | rfl | rfl <;> decide
  refine ⟨⟨by decide, by decide, ?_⟩, by decide +kernel, by decide +kernel, by decide +kernel, by decide +kernel,
    ⟨by decide, hp, by decide, by decide, by decide⟩, rfl, by decide +kernel⟩
  intro x h
  have : (0#64 : Word) = x := by simpa [kern1] using h
  exact this.symm

/-! ### Witnesses: hosts, bias, pool, links -/

/-- Host port 0 up, with an aperture over pages 0 to FFFFH; page 1 in H bias, page 2 in FDH, page 3 in FHD, page 4 in D; HBM one region. -/
def upLink : HostLink := { HostLink.reset with
  lup := true
  bpage := 0x4000#64
  bcnt := 1#16
  aper := vset HostLink.reset.aper 0#4 (1#64, 0xFFFF003#64) }
def hdev : State := { tdev cx [task1] [] with
  trace := ⟨false, false, 0#8, 0#32, 0#26, 0#32⟩
  regions := vset State.reset.regions 0#6 hbmRegion
  links := vset State.reset.links 0#2 upLink
  bias := [(1, 1#2), (2, 2#2), (3, 3#2)] }
def hreq (page : Nat) (w : Option (List Byte)) : HostReq := ⟨false, 4096 * page, w, 64, false, none⟩
/-- Queue 0 of window 0 as given, with the first byte b of its control block. -/
def qdev (q : CwQueue) (ts : List Task) (b : List Host.Cell) : State := { hdev with
  mem := b
  disp := { hdev.disp with
    tasks := ts
    queues := [(0, q)] } }
def onQueue : CwQueue := { CwQueue.reset with
  isOn := true
  rbase := 16#12
  qszl := 4#4
  tearReq := true
  rstReq := true }
/-- RBASE 16, QSZL 4, EN = 1; and the same with RBASE 3. -/
def goodBlock : List Host.Cell := [(0x5FFC000000, 0x41#8), (0x5FFC000001, 16#8)]
def badBlock : List Host.Cell := [(0x5FFC000000, 0x41#8), (0x5FFC000001, 3#8)]
def tornTask (torn : Bool) : Task := { task1 with
  st := .running
  live := [0#9]
  queue := some 0
  origin := some 0
  torn := torn }
theorem witness_hosts :
    (hdev.trace.en = false ∧ (portLink hdev true).lup = false ∧ (portLink hdev false).lup = true ∧ hostWaits hdev (hreq 2 none) = true ∧
      hdev.hw.parked.getLsbD 0 = false) ∧
    ((∀ p ∈ (hreq 1 none).pages, admitted hdev false p false = true ∧ biasOf hdev p = 1#2) ∧
      (∀ p ∈ (hreq 1 (some [5#8, 6#8])).pages, admitted hdev false p true = true ∧ biasOf hdev p = 1#2)) ∧
    ((∃ p ∈ (hreq 4 none).pages, admitted hdev false p false = false ∨ biasOf hdev p = 0#2) ∧ hostWaits hdev (hreq 4 none) = false) ∧
    (let s := qdev onQueue [] []
     winOn s 0#6 = true ∧ winPort s 0#6 = false ∧ (s.cwq 0#6 0#6).isOn = true ∧ winOn s 63#6 = false ∧
      (∀ h ∈ s.heldHost, h.port = false → h.write = none)) ∧
    (let s := { hdev with heldHost := [hreq 2 (some [5#8])] }
     ¬ (∀ h ∈ s.heldHost, h.port = false → h.write = none) ∧ (portLink s false).lup = true ∧
      ({ hdev with hw := { hdev.hw with parked := 1#8 } } : State).hw.parked.getLsbD 0 = true) ∧
    (let s := qdev CwQueue.reset [] goodBlock
     winOn s 0#6 = true ∧ (qWord0 s 0#6 0#6).getLsbD 0 = true ∧ (s.cwq 0#6 0#6).en = false ∧ (s.cwq 0#6 0#6).tearing = false ∧
      badConfig s 0#6 0#6 (qWord0 s 0#6 0#6) = false) ∧
    (let s := qdev CwQueue.reset [] badBlock
     (qWord0 s 0#6 0#6).getLsbD 0 = true ∧ badConfig s 0#6 0#6 (qWord0 s 0#6 0#6) = true) ∧
    (let s := qdev onQueue [tornTask false] []
     winOn s 0#6 = true ∧ (s.cwq 0#6 0#6).tearing = false ∧ (s.cwq 0#6 0#6).tearReq = true ∧ (s.cwq 0#6 0#6).rstReq = true ∧
      (∀ v ∈ s.disp.tasks, v.live = [] ∨ v.st = .running ∨ v.st = .failed) ∧ tornTask false ∈ s.disp.tasks ∧
      (tornTask false).origin = some (qNum 0#6 0#6) ∧ (tornTask false).torn = false ∧ (tornTask false).st = .running ∧
      (s.ctx 0#9).ident.task = (tornTask false).id ∧ isBound (s.ctx 0#9) = true) ∧
    (let s := { qdev { onQueue with tearing := true } [tornTask true] [] with ctxs := [] }
     (s.cwq 0#6 0#6).tearing = true ∧ (∀ v ∈ s.disp.tasks, v.torn = true → v.origin = some (qNum 0#6 0#6) → taskBound s v.id = false)) ∧
    ((0#3 : BitVec 3).toNat < 2 ∧ false = ((0#3 : BitVec 3) == 1#3)) := by
  have hpages : (hreq 1 none).pages = [1] ∧ (hreq 1 (some [5#8, 6#8])).pages = [1] := by decide +kernel
  refine ⟨by decide +kernel, ⟨?_, ?_⟩, ⟨⟨4, by decide +kernel⟩, by decide +kernel⟩, ⟨by decide +kernel, by decide +kernel, by decide +kernel,
    by decide +kernel, fun h m => absurd m List.not_mem_nil⟩,
    ⟨fun h => absurd (h (hreq 2 (some [5#8])) (List.mem_singleton.mpr rfl) rfl) (by decide), by decide +kernel, by decide +kernel⟩,
    by decide +kernel, by decide +kernel, ?_, ?_, by decide⟩
  · rw [hpages.1]; simp only [List.forall_mem_singleton]; decide +kernel
  · rw [hpages.2]; simp only [List.forall_mem_singleton]; decide +kernel
  · refine ⟨by decide +kernel, by decide +kernel, by decide +kernel, by decide +kernel, ?_, List.mem_singleton.mpr rfl, by decide +kernel⟩
    intro v m
    rw [List.mem_singleton.mp (show v ∈ [tornTask false] from m)]
    decide
  · refine ⟨by decide +kernel, ?_⟩
    intro v m
    rw [List.mem_singleton.mp (show v ∈ [tornTask true] from m)]
    decide +kernel

/-- An extent of the pool with tag 9, cached back-invalidate; page 100001H of it pinned or not. -/
def extRegion : Region := ⟨0x100000000001#64, 0x1000000FF000#64, 0x30198#64, 9#64⟩
def poolDev (pins : List Nat) : State := { hdev with
  regions := vset hdev.regions 5#6 extRegion
  hw := { hdev.hw with pins := pins } }
theorem witness_bias :
    (0#2 ≠ (3#2 : BitVec 2) ∧ biasRefused hdev 0#2 = false ∧ ((linkOf hdev 0#2).bpage.extractLsb' 12 40).toNat < 0x6000000 ∧
      biasOf hdev 4 = 0#2 ∧ ((linkOf hdev 0#2).bpage.extractLsb' 12 40).toNat = 4 ∧ (linkOf hdev 0#2).bcnt = 1#16 ∧
      biasRefused hdev 1#2 = true) ∧
    (let s := { hdev with links := vset hdev.links 0#2 { upLink with bpage := 0x1000#64 } }
     biasRefused s 0#2 = false ∧ biasOf s ((linkOf s 0#2).bpage.extractLsb' 12 40).toNat = 1#2) ∧
    ((linkOf hdev 0#2).bbusy = false ∧ (linkOf hdev 1#2).bbusy = false ∧ (linkOf hdev 2#2).bbusy = false ∧ hdev.heldHost = [] ∧
      biasOf hdev (2#40).toNat = 2#2 ∧ biasOf hdev (3#40).toNat = 3#2) ∧
    (let s := { hdev with heldHost := [hreq 3 none] }
     s.heldHost = [hreq 3 none] ∧ (hreq 3 none).bell = none ∧ (3#40).toNat ∈ (hreq 3 none).pages) ∧
    (let s := poolDev []
     regionOf s 0#2 0x100000000000 = some extRegion ∧ poolKey 0x100000000000 = true ∧ extRegion.attr.extractLsb' 4 2 = 1#2 ∧
      (regionAt s 5#6).valid = true ∧ (9#16 : BitVec 16) ≠ 0#16 ∧ ¬ (∃ x ∈ s.hw.pins, extentHas (extentRegions s 9#16) x = true)) ∧
    (let s := poolDev [0x100000001]
     ∃ x ∈ s.hw.pins, extentHas (extentRegions s 9#16) x = true) ∧
    (let e : Region := ⟨((0x200000000000#64 : Word) &&& 0xFFFFFFFFFF000#64) ||| 1#64, (0x20000003F000#64 : Word) &&& 0xFFFFFFFFFF000#64,
        (0x30198#64 : Word) &&& 0xFF000000000F00BF#64, (9#16 : BitVec 16).setWidth 64⟩
     (regionAt hdev 5#6).valid = false ∧ e.first ≤ e.last ∧ e.legal = true ∧ regionOverlaps hdev 5 e = false) := by
  decide +kernel

/-- Heads 0 to 3 live; ports 2 and 0 secure, ports 3 and 1 parked; tenant 1's agent is host 0 with FBHW. -/
def linkDev : State := { hdev with hw := { hdev.hw with
  secure := 5#8
  parked := 10#8
  agent := vset hdev.hw.agent 1#4 4#3 } }
theorem witness_links :
    linkDev.hw.heads.getLsbD (0#2 : BitVec 2).toNat = true ∧ ({ linkDev with hw := { linkDev.hw with heads := 14#4 } } : State).hw.heads.getLsbD 0 = false ∧
    linkDev.hw.uwlog.length + (uncertainLines linkDev 2).length ≤ 256 ∧ (portLink linkDev false).lost = false ∧
    ((vget 2#3 linkDev.hw.agent 1#4).extractLsb' 0 2 = 0#2 ∧ (vget 2#3 linkDev.hw.agent 1#4).getLsbD 2 = true) ∧
    (portLink { linkDev with links := vset linkDev.links 0#2 { upLink with lost := true } } false).lost = true ∧
    linkDev.hw.secure.getLsbD (0#3 : BitVec 3).toNat = true ∧ linkDev.hw.parked.getLsbD (3#3 : BitVec 3).toNat = true ∧
    linkDev.hw.parked.getLsbD (1#3 : BitVec 3).toNat = true ∧ linkDev.heldHost = [] ∧ 2 ≤ (3#3 : BitVec 3).toNat ∧ (1#3 : BitVec 3).toNat < 2 := by
  decide +kernel

/-! ### Witnesses: the platform -/

/-- A signed image with the highest security version, which every minimum allows, and one without a signature. -/
def goodFw : FwImage := ⟨natBytes 0x46574D47 4 ++ natBytes 0xFFFFFFFF 4 ++ natBytes 0 4, true⟩
def badFw : FwImage := ⟨[], false⟩
theorem goodFw_verifies : verifies goodFw = true := by
  have h : fwSvn goodFw = 0xFFFFFFFF#32 := by decide +kernel
  have h1 : (bytesAt goodFw.bytes 0 4 == 0x46574D47 && decide (bytesAt goodFw.bytes 8 4 ≤ 67100000) && goodFw.signed) = true := by
    decide +kernel
  unfold verifies
  rw [h1, h, Bool.true_and, BitVec.ule, decide_eq_true_eq]
  have : (0xFFFFFFFF#32 : BitVec 32).toNat = 4294967295 := rfl
  omega
def fwDev (x y : FwImage) (act wd rec : Bool) (t : Word) : State := { hdev with
  time := t
  fw := { State.reset.fw with
    banks := #v[x, y]
    act := act
    watchdog := wd
    recov := rec }
  resync := vset (vset State.reset.resync 0#2 ⟨0x1000#64, 0#32, false, false, false, false, 0#32⟩) 2#2
    ⟨0x1000#64, 1000000#32, false, false, false, false, 0#32⟩ }
theorem witness_platform :
    (bootable (fwDev goodFw badFw false true false 0#64).fw false = true) ∧
    (bootable (fwDev badFw goodFw false true false 0#64).fw false = false ∧ bootable (fwDev badFw goodFw false true false 0#64).fw (!false) = true) ∧
    (bootable (fwDev badFw badFw false true false 0#64).fw false = false ∧ bootable (fwDev badFw badFw false true false 0#64).fw true = false) ∧
    verifies goodFw = true ∧ verifies badFw = false ∧
    ((fwDev goodFw badFw false true false 60000000000#64).fw.watchdog = true ∧
      60000000000 ≤ (fwDev goodFw badFw false true false 60000000000#64).time.toNat ∧ (fwDev goodFw badFw true false false 0#64).fw.act = true ∧
      windowLeft (fwDev goodFw badFw true false false 0#64) ≠ 0 ∧ windowLeft (fwDev goodFw badFw true false false 200000000#64) = 0 ∧
      (fwDev goodFw badFw true false false 200000000#64).fw.watchdog = false ∧
      (fwDev goodFw badFw false false true 0#64).fw.recov = true) ∧
    (let s := qdev onQueue [] []
     let x := s.cwq 0#6 0#6
     s.fw.recov = false ∧ winOn s 0#6 = true ∧ x.isOn = true ∧ sealedCount s 0#6 x (2 ^ x.qszl.toNat) < 2 ^ x.qszl.toNat) ∧
    ((vget 2#3 hdev.hw.agent 1#4).extractLsb' 0 2 = (2#64 : Word).extractLsb' 0 2 ∧
      (vget 2#3 hdev.hw.agent 1#4).extractLsb' 0 2 ≠ (0#64 : Word).extractLsb' 0 2) ∧
    (let s := fwDev goodFw badFw false false false 0#64
     (resyncBlk s 0#2).busy = false ∧ s.fw.act = false ∧ (portLink s false).resyncDue = false ∧
      (resyncBlk s 0#2).len.toNat < (summary s false).length ∧ (summary s false).length ≤ (resyncBlk s 2#2).len.toNat ∧
      (resyncBlk s 3#2).busy = false) ∧
    (portLink { hdev with links := vset hdev.links 0#2 { upLink with resyncDue := true } } false).resyncDue = true := by
  have e : ∀ x y a w r t, bankImage (fwDev x y a w r t).fw false = x ∧ bankImage (fwDev x y a w r t).fw true = y ∧
      bankAtt (fwDev x y a w r t).fw false = 0#2 ∧ bankAtt (fwDev x y a w r t).fw true = 0#2 := fun x y a w r t => ⟨rfl, rfl, rfl, rfl⟩
  have bv : verifies badFw = false := rfl
  have z : decide ((0#2 : BitVec 2).toNat < 3) = true := rfl
  have bt : ∀ f b, bankImage f b = goodFw → bankAtt f b = 0#2 → bootable f b = true := fun f b h1 h2 => by
    rw [bootable, h1, h2, goodFw_verifies, z]; rfl
  have bf : ∀ f b, bankImage f b = badFw → bootable f b = false := fun f b h1 => by
    rw [bootable, h1, bv]; rfl
  exact ⟨bt _ _ (e ..).1 (e ..).2.2.1, ⟨bf _ _ (e ..).1, bt _ _ (e ..).2.1 (e ..).2.2.2⟩, ⟨bf _ _ (e ..).1, bf _ _ (e ..).2.1⟩,
    goodFw_verifies, bv, by decide +kernel, by decide +kernel, by decide +kernel, by decide +kernel, by decide +kernel⟩

/-! ### Witnesses: steps, stages and guards, groups, the invariant -/

/-- A device with the agenda a, context c on front end 0 (where its store page 0 is mapped and empty, GPC names the word 0) and an issuing group. -/
def agendaDev (c : Ctx) (a : List Act) : State := { dev c with agenda := a }
theorem witness_steps :
    let s := dev { cx with pages := [(0, 64#7)] }
    ({ s with agenda := [] } : State).agenda = [] ∧ (s.ctx 0#9).life = .running ∧ (s.ctx 0#9).gen.stat = .running ∧
    genWord (tick s) 0#9 = some 0#32 ∧ s.issue.any (fun j => j.fe == 0#9) = true ∧
    decodeOp 0x08011861C0000000#64 = .ok (.add ⟨false, true, 0#3, 0#4⟩ 6#6 6#6 7#6) ∧ decodeOp 0x00FF000000000000#64 = .error .unassigned ∧
    decodeMilliner 0x94000000#32 = .ok (.emitm 0#3) ∧ decodeMilliner 0#32 = .error .unassigned ∧
    decodeMicro 0x48000001#32 = .ok (.loop 0#3 0#3 1#16) ∧ decodeMicro 0#32 = .error .unassigned ∧
    decodeTrimmer 0x50000001#32 = .ok (.trsum true) ∧ decodeTrimmer 0#32 = .error .unassigned := by
  decide +kernel

/-- A context whose SP1 is 0; and one whose p1 is poisoned and p2 all zeros. -/
def stageCx : Ctx := { cx with regs := { cx.regs with loop := { Loop.reset with sp := 0#7 } } }
def poisonCx : Ctx := { cx with regs := { cx.regs with p := vset cx.regs.p 1#4 ⟨BitVec.allOnes 256, 0#8, true⟩ } }
theorem witness_stages :
    (committing w0 = none ∧ committing (dev stageCx) = none ∧ committing (dev poisonCx) = none) ∧
    (opHdr (.add ⟨false, false, 1#3, 0#4⟩ 8#6 3#6 4#6) = some ⟨false, false, 1#3, 0#4⟩ ∧
      (encodeOp (.add ⟨false, false, 1#3, 0#4⟩ 8#6 3#6 4#6)).isSome = true ∧ (1#3 : BitVec 3) ≠ 0#3 ∧
      (dev stageCx).here.regs.loop.sp.getLsbD ((1#3 : BitVec 3).toNat - 1) = false) ∧
    ({ w0 with issue := some { iss cx with skipped := true } } : State).issue.any (fun j => j.skipped) = true ∧
    ((Instr.add h2 8#6 3#6 4#6).wf = true ∧ (w0.here.rP 2#4).poison = false ∧ (w0.here.rP 2#4).bits.getLsbD 0 = false ∧
      w0.issue.any (fun j => j.skipped) = false ∧ hd.stage = 0#3) ∧
    ((Instr.ceq hg 0#4 3#6 4#6).wf = false ∧ (encodeOp (.ceq hg 0#4 3#6 4#6)).isSome = true ∧ (w0.here.rP 1#4).poison = false ∧
      (w0.here.rP 1#4).bits.getLsbD 0 = true) ∧
    ((Instr.add hg 8#6 3#6 4#6).wf = true ∧ ((dev poisonCx).here.rP 1#4).poison = true) := by
  decide +kernel
/-- The op of `witness_stages` is not one whose guard acts by lane. -/
theorem witness_wholeGuard : ∃ w, encodeOp (.add h2 8#6 3#6 4#6) = some w ∧ ¬ GuardByLane (.add h2 8#6 3#6 4#6) w := by
  refine ⟨_, rfl, ?_⟩
  unfold GuardByLane
  rintro (h | h | ⟨_, _, _, _, _, h⟩ | ⟨_, _, _, _, _, h⟩ | ⟨_, _, _, _, _, h⟩ | ⟨_, _, _, _, _, _, _, h⟩) <;> first | exact absurd h (by decide) | cases h
theorem witness_issuingOps : (opHdr (.add hd 8#6 3#6 4#6)).isSome = true ∧ w0.issue.isSome = true ∧
    ∃ t, exec (.add hd 8#6 3#6 4#6) w0 = .next t := ⟨rfl, rfl, _, rfl⟩
theorem witness_canonical : memWf State.reset.mem ∧ memWf (memWrites [] 0x100 [1#8, 0#8, 2#8]) := by decide +kernel

/-- Thirty-three landings in flight. -/
def fullCx : Ctx := { cx with pend := (List.range 33).map (fun i => pendOf 100 i (.done [])) }
/-- A ring of 16 records in front end 0's cluster. -/
def ringOn (s : State) : State := { s with clusters := [(0, { Cluster.reset with
  trbase := 0x10000#64
  trctl := 0x14#6 })] }
def faultAt (k : BitVec 3) (c : Cause) : BitVec 3 × Cause × Word × Word := (k, c, 64#64, 0#64)
theorem witness_groups :
    (let s := agendaDev cx [.fin 0#9]
     s.trace.en = false ∧ s.agenda = [.fin (iss cx).fe] ∧ s.issue = some (iss cx) ∧ (iss cx).pair = none ∧ (iss cx).rival = none ∧
      (iss cx).retry = none ∧ (iss cx).commit = none ∧ (iss cx).faults = [] ∧ ¬ ((iss cx).mark = true ∧ 32 < (s.ctx 0#9).pend.length) ∧
      (iss cx).skipped = false ∧ (iss cx).replay = false ∧ (iss cx).saved.regs.loop.active = false ∧ (iss cx).saved.regs.win.opened = false) ∧
    (let i := { iss cx with mark := true }
     i.mark = true ∧ ¬ (i.mark = true ∧ 32 < (w0.ctx 0#9).pend.length)) ∧
    (let c := (dev fullCx).ctx 0#9
     { iss fullCx with mark := true }.mark = true ∧ 32 < c.pend.length) ∧
    ((∀ k ∈ [Cause.p05, Cause.t20, Cause.d41], k ≠ .a62) ∧ Cause.p05.cls = .p ∧ Cause.t20.cls = .t ∧ Cause.d41.cls = .d) ∧
    (let l := [faultAt 5#3 .d41, faultAt 4#3 .t20]
     faultAt 4#3 .t20 ∈ l ∧ ∀ g ∈ l, (g = faultAt 4#3 .t20 ∨ (4#3 : BitVec 3) < g.1) ∧ g.2.1 ≠ .a62) ∧
    ((ringEnabled ((w0.cluster (clusterOf 0#9))) && !ringFull (w0.cluster (clusterOf 0#9)) && cx.held.isEmpty) = false) ∧
    (let cl := (ringOn w0).cluster (clusterOf 0#9)
     (ringEnabled cl && !ringFull cl && cx.held.isEmpty) = true ∧
      cl.trbase.toNat + 64 * (cl.trhead.toNat % 2 ^ (cl.trctl.extractLsb' 0 4).toNat) + 64 ≤ 2 ^ 60) ∧
    (let l := [faultAt 0#3 .a62]
     l ≠ [] ∧ ∀ g ∈ l, g.2.1 = .a62) := by
  have two : ∀ g ∈ [faultAt 5#3 .d41, faultAt 4#3 .t20], (g = faultAt 4#3 .t20 ∨ (4#3 : BitVec 3) < g.1) ∧ g.2.1 ≠ .a62 := by
    intro g h
    simp only [List.mem_cons, List.not_mem_nil, or_false] at h
    rcases h with rfl | rfl <;> decide
  have one : ∀ g ∈ [faultAt 0#3 .a62], g.2.1 = .a62 := by
    intro g h
    rw [List.mem_singleton.mp h]
    rfl
  refine ⟨by decide +kernel, by decide +kernel, by decide +kernel, ⟨?_, rfl, rfl, rfl⟩, ⟨by decide, two⟩, by decide +kernel, by decide +kernel, ⟨by decide, one⟩⟩
  intro k h
  simp only [List.mem_cons, List.not_mem_nil, or_false] at h
  rcases h with rfl | rfl | rfl <;> decide
/-- A group that waits for another condition than a leaf, and one that commits a buffered entry. -/
theorem witness_retry : (∀ ea b, Frz.group ≠ .translate ea b) ∧ (∀ k ea, Frz.group ≠ .spout k ea) ∧ Cause.t22.cls = .t ∧
    (iss cx).saved.stops.silent = false ∧ (iss cx).saved.stops.engine = [] ∧ ({ iss cx with retry := some .group } : Issue).commit = none ∧
    ∃ e, ({ iss cx with commit := some ⟨3#3, 0#64, 0#64, val 0#64, val 0#64, val 0#64, Vector.replicate 8 ⟨0#64, 0#8⟩, 0#64⟩ } : Issue).commit = some e :=
  ⟨fun _ _ => nofun, fun _ _ => nofun, rfl, rfl, rfl, rfl, ⟨_, rfl⟩⟩
/-- An enabled trace, frozen or not. -/
theorem witness_trace : State.reset.trace.en = true ∧ State.reset.trace.frozen = false ∧
    (State.reset.traceFreeze ⟨2#8, 0x80#8, 0#16, 0#64, 0#64⟩ 0x80#8).trace.frozen = true := by decide +kernel

/-! ### Decoding: one word for each op, its opcode from R43 to R46 and R49 to R51 and its fields where R29, R30 and the rule of the op
put them -/

theorem test_decode_scalar_1 : [((0x0801D631C0200000#64 : Word), (.add ⟨false, true, 0#3, 2#4⟩ 53#6 35#6 7#6 : Instr)),
    ((0x000271B140200000#64 : Word), (.sub ⟨false, false, 0#3, 2#4⟩ 28#6 27#6 5#6 : Instr)),
    ((0x0803F4FA40300000#64 : Word), (.and ⟨false, true, 0#3, 3#4⟩ 61#6 15#6 41#6 : Instr)),
    ((0x1304937240100000#64 : Word), (.or ⟨true, false, 3#3, 1#4⟩ 36#6 55#6 9#6 : Instr)),
    ((0x1105935B00900000#64 : Word), (.xor ⟨true, false, 1#3, 9#4⟩ 36#6 53#6 44#6 : Instr)),
    ((0x050692E140300000#64 : Word), (.andn ⟨false, false, 5#3, 3#4⟩ 36#6 46#6 5#6 : Instr)),
    ((0x0E077A6F00A00000#64 : Word), (.shl ⟨false, true, 6#3, 10#4⟩ 30#6 38#6 60#6 : Instr)),
    ((0x1B08B72400500000#64 : Word), (.shr ⟨true, true, 3#3, 5#4⟩ 45#6 50#6 16#6 : Instr)),
    ((0x1D094E7FC0E00000#64 : Word), (.sra ⟨true, true, 5#3, 14#4⟩ 19#6 39#6 63#6 : Instr)),
    ((0x0A0A2BC800A00000#64 : Word), (.rot ⟨false, true, 2#3, 10#4⟩ 10#6 60#6 32#6 : Instr)),
    ((0x050BB579C0A00000#64 : Word), (.min ⟨false, false, 5#3, 10#4⟩ 45#6 23#6 39#6 : Instr)),
    ((0x110C7EDAC0800000#64 : Word), (.max ⟨true, false, 1#3, 8#4⟩ 31#6 45#6 43#6 : Instr)),
    ((0x0F0DB99E40900000#64 : Word), (.minu ⟨false, true, 7#3, 9#4⟩ 46#6 25#6 57#6 : Instr)),
    ((0x0D0EA08800500000#64 : Word), (.maxu ⟨false, true, 5#3, 5#4⟩ 40#6 8#6 32#6 : Instr)),
    ((0x0A0F69AEC0700000#64 : Word), (.mul ⟨false, true, 2#3, 7#4⟩ 26#6 26#6 59#6 : Instr)),
    ((0x0710912E40C00000#64 : Word), (.mulh ⟨false, false, 7#3, 12#4⟩ 36#6 18#6 57#6 : Instr)),
    ((0x1E11B39640B00000#64 : Word), (.mulhu ⟨true, true, 6#3, 11#4⟩ 44#6 57#6 25#6 : Instr)),
    ((0x02123EB3C0400000#64 : Word), (.div ⟨false, false, 2#3, 4#4⟩ 15#6 43#6 15#6 : Instr)),
    ((0x141304A6C0900000#64 : Word), (.divu ⟨true, false, 4#3, 9#4⟩ 1#6 10#6 27#6 : Instr)),
    ((0x1014EB8C80E00000#64 : Word), (.rem ⟨true, false, 0#3, 14#4⟩ 58#6 56#6 50#6 : Instr)),
    ((0x1E157E9680300000#64 : Word), (.remu ⟨true, true, 6#3, 3#4⟩ 31#6 41#6 26#6 : Instr)),
    ((0x03162C8000E00000#64 : Word), (.clz ⟨false, false, 3#3, 14#4⟩ 11#6 8#6 : Instr)),
    ((0x00178C7000400000#64 : Word), (.ctz ⟨false, false, 0#3, 4#4⟩ 35#6 7#6 : Instr)),
    ((0x03182A9000C00000#64 : Word), (.popc ⟨false, false, 3#3, 12#4⟩ 10#6 41#6 : Instr)),
    ((0x1F19237000301FDE#64 : Word), (.bfx ⟨true, true, 7#3, 3#4⟩ 8#6 55#6 true 63#6 30#6 : Instr)),
    ((0x191A1F0580400C11#64 : Word), (.bfi ⟨true, true, 1#3, 4#4⟩ 7#6 48#6 22#6 48#6 17#6 : Instr)),
    ((0x031B2AD8CFB00000#64 : Word), (.sel ⟨false, false, 3#3, 11#4⟩ 10#6 45#6 35#6 15#4 : Instr)),
    ((0x1420ECBB5B0EE770#64 : Word), (.addi ⟨true, false, 4#3, 11#4⟩ 59#6 11#6 1527703408#32 : Instr)),
    ((0x1321D5A7BD685168#64 : Word), (.andi ⟨true, false, 3#3, 7#4⟩ 53#6 26#6 3177730408#32 : Instr)),
    ((0x0D220B304787F93C#64 : Word), (.ori ⟨false, true, 5#3, 0#4⟩ 2#6 51#6 1200093500#32 : Instr))].all (fun p => decide (decodeOp p.1 = .ok p.2)) = true := by decide +kernel
theorem test_decode_scalar_2 : [((0x1523D3CEB91EE9E6#64 : Word), (.xori ⟨true, false, 5#3, 14#4⟩ 52#6 60#6 3105810918#32 : Instr)),
    ((0x13243DF3325B55DE#64 : Word), (.shli ⟨true, false, 3#3, 3#4⟩ 15#6 31#6 844846558#32 : Instr)),
    ((0x0825EEAF5810D60F#64 : Word), (.shri ⟨false, true, 0#3, 15#4⟩ 59#6 42#6 1477498383#32 : Instr)),
    ((0x0B26E4CF6F15B6AE#64 : Word), (.srai ⟨false, true, 3#3, 15#4⟩ 57#6 12#6 1863693998#32 : Instr)),
    ((0x0F27C00CF26149EE#64 : Word), (.li ⟨false, true, 7#3, 12#4⟩ 48#6 4066462190#32 : Instr)),
    ((0x02282A60E7A4630A#64 : Word), (.lih ⟨false, false, 2#3, 0#4⟩ 10#6 38#6 3886310154#32 : Instr)),
    ((0x0D2992442188287F#64 : Word), (.muli ⟨false, true, 5#3, 4#4⟩ 36#6 36#6 562571391#32 : Instr)),
    ((0x023038DD40D00000#64 : Word), (.ceq ⟨false, false, 2#3, 13#4⟩ 14#4 13#6 53#6 : Instr)),
    ((0x0B31250C40900000#64 : Word), (.cne ⟨false, true, 3#3, 9#4⟩ 9#4 16#6 49#6 : Instr)),
    ((0x1A323F05C0100000#64 : Word), (.clt ⟨true, true, 2#3, 1#4⟩ 15#4 48#6 23#6 : Instr)),
    ((0x123339DC80000000#64 : Word), (.cltu ⟨true, false, 2#3, 0#4⟩ 14#4 29#6 50#6 : Instr)),
    ((0x0234228BC0400000#64 : Word), (.cle ⟨false, false, 2#3, 4#4⟩ 8#4 40#6 47#6 : Instr)),
    ((0x0F353E4100300000#64 : Word), (.cleu ⟨false, true, 7#3, 3#4⟩ 15#4 36#6 4#6 : Instr)),
    ((0x083625D38FCD7F41#64 : Word), (.ceqi ⟨false, true, 0#3, 3#4⟩ 9#4 29#6 2412609345#32 : Instr)),
    ((0x0D37312673CCEF04#64 : Word), (.clti ⟨false, true, 5#3, 6#4⟩ 12#4 18#6 1942810372#32 : Instr)),
    ((0x0B380C7080E00000#64 : Word), (.pand ⟨false, true, 3#3, 14#4⟩ 3#4 7#4 2#4 : Instr)),
    ((0x19391C2100700000#64 : Word), (.por ⟨true, true, 1#3, 7#4⟩ 7#4 2#4 4#4 : Instr)),
    ((0x053A14F0C0400000#64 : Word), (.pxor ⟨false, false, 5#3, 4#4⟩ 5#4 15#4 3#4 : Instr)),
    ((0x063B0CB000F00000#64 : Word), (.pnot ⟨false, false, 6#3, 15#4⟩ 3#4 11#4 : Instr)),
    ((0x0E3C1CD000A50000#64 : Word), (.pset ⟨false, true, 6#3, 10#4⟩ 7#4 13#6 .u32 : Instr)),
    ((0x0840009A756B728A#64 : Word), (.skip ⟨false, true, 0#3, 10#4⟩ 9#4 1969975946#32 : Instr)),
    ((0x0D41009900000004#64 : Word), (.eskip ⟨false, true, 5#3, 9#4⟩ 9#4 false 4#5 : Instr)),
    ((0x0442003000800000#64 : Word), (.post ⟨false, false, 4#3, 8#4⟩ 3#6 : Instr)),
    ((0x16436808263CFA5F#64 : Word), (.rdsr ⟨true, false, 6#3, 8#4⟩ 26#6 641530463#32 : Instr)),
    ((0x14440341B02E3D8E#64 : Word), (.wrsr ⟨true, false, 4#3, 1#4⟩ 52#6 2955820430#32 : Instr)),
    ((0x1445000000000000#64 : Word), (.endq ⟨true, false, 4#3, 0#4⟩ : Instr)),
    ((0x13500112DCDED205#64 : Word), (.lset ⟨true, false, 3#3, 2#4⟩ 17#6 3705590277#32 : Instr)),
    ((0x1551000DED3A32A9#64 : Word), (.lbody ⟨true, false, 5#3, 13#4⟩ 3980014249#32 : Instr)),
    ((0x0352000000300002#64 : Word), (.lgo ⟨false, false, 3#3, 3#4⟩ 2#3 : Instr)),
    ((0x0353000000900000#64 : Word), (.lbrk ⟨false, false, 3#3, 9#4⟩ : Instr))].all (fun p => decide (decodeOp p.1 = .ok p.2)) = true := by decide +kernel
theorem test_decode_scalar_3 : [((0x0F54480000500003#64 : Word), (.lidx ⟨false, true, 7#3, 5#4⟩ 18#6 3#3 : Instr)),
    ((0x10550000BBAB27F7#64 : Word), (.lstage ⟨true, false, 0#3, 0#4⟩ 3148556279#32 : Instr))].all (fun p => decide (decodeOp p.1 = .ok p.2)) = true := by decide +kernel
theorem test_decode_vector_1 : [((0x3701D7FC80350000#64 : Word), (.vadd ⟨true, false, 7#3, 3#4⟩ false .u32 53#6 (.v 63#6) (.v 50#6) : Instr)),
    ((0x4502BF3180650000#64 : Word), (.vsub ⟨false, false, 5#3, 6#4⟩ true .u32 47#6 (.v 51#6) (.v 6#6) : Instr)),
    ((0x2403106900D18000#64 : Word), (.vmul ⟨false, false, 4#3, 13#4⟩ false .u8 4#6 (.q 6#3) (.v 36#6) : Instr)),
    ((0x37044A1ABF510000#64 : Word), (.vmac ⟨true, false, 7#3, 5#4⟩ false .u8 18#6 (.v 33#6) (.v 42#6) 63#6 : Instr)),
    ((0x440530610062C000#64 : Word), (.vadds ⟨false, false, 4#3, 6#4⟩ true .i16 12#6 (.q 6#3) (.q 4#3) : Instr)),
    ((0x2106285980800000#64 : Word), (.vsubs ⟨false, false, 1#3, 8#4⟩ false .i8 10#6 (.v 5#6) (.v 38#6) : Instr)),
    ((0x4207BD3080C24000#64 : Word), (.vmin ⟨false, false, 2#3, 12#4⟩ true .i16 47#6 (.v 19#6) (.q 2#3) : Instr)),
    ((0x3008085C00708000#64 : Word), (.vmax ⟨true, false, 0#3, 7#4⟩ false .i8 2#6 (.q 5#3) (.v 48#6) : Instr)),
    ((0x4309048000F20000#64 : Word), (.vabs ⟨false, false, 3#3, 15#4⟩ true .i16 1#6 (.v 8#6) : Instr)),
    ((0x2C0A41A1C0224000#64 : Word), (.vshl ⟨false, true, 4#3, 2#4⟩ false .i16 16#6 (.v 26#6) (.q 7#3) : Instr)),
    ((0x570BA19080904000#64 : Word), (.vshr ⟨true, false, 7#3, 9#4⟩ true .i8 40#6 (.v 25#6) (.q 2#3) : Instr)),
    ((0x5A0C10CF80030000#64 : Word), (.vsra ⟨true, true, 2#3, 0#4⟩ true .u16 4#6 (.v 12#6) (.v 62#6) : Instr)),
    ((0x5F0DEA7F00E00000#64 : Word), (.vand ⟨true, true, 7#3, 14#4⟩ true .i8 58#6 (.v 39#6) (.v 60#6) : Instr)),
    ((0x390E643040E2C000#64 : Word), (.vor ⟨true, true, 1#3, 14#4⟩ false .i16 25#6 (.q 3#3) (.q 1#3) : Instr)),
    ((0x3A0FBBFF80800000#64 : Word), (.vxor ⟨true, true, 2#3, 8#4⟩ false .i8 46#6 (.v 63#6) (.v 62#6) : Instr)),
    ((0x4010752C00F50000#64 : Word), (.vmulhr ⟨false, false, 0#3, 15#4⟩ true .u32 29#6 (.v 18#6) (.v 48#6) : Instr)),
    ((0x4811D99951A10001#64 : Word), (.vdot4 ⟨false, true, 0#3, 10#4⟩ true .u8 54#6 (.v 25#6) (.v 37#6) 17#6 true : Instr)),
    ((0x3912C4000EB6C000#64 : Word), (.vsel ⟨true, true, 1#3, 11#4⟩ false .bf16 49#6 (.q 0#3) (.q 0#3) 14#4 : Instr)),
    ((0x4420545D80D88000#64 : Word), (.vfadd ⟨false, false, 4#3, 13#4⟩ true .f32 21#6 (.q 5#3) (.v 54#6) .fmt : Instr)),
    ((0x4021A24400D72000#64 : Word), (.vfsub ⟨false, false, 0#3, 13#4⟩ true .f16 40#6 (.v 36#6) (.v 16#6) (.mode 0#2) : Instr)),
    ((0x5C22C21780972800#64 : Word), (.vfmul ⟨true, true, 4#3, 9#4⟩ true .f16 48#6 (.v 33#6) (.v 30#6) (.mode 1#2) : Instr)),
    ((0x52233BFE7B562800#64 : Word), (.vfma ⟨true, false, 2#3, 5#4⟩ true .bf16 14#6 (.v 63#6) (.v 57#6) 59#6 (.mode 1#2) : Instr)),
    ((0x532430114076C000#64 : Word), (.vfmin ⟨true, false, 3#3, 7#4⟩ true .bf16 12#6 (.q 1#3) (.q 5#3) : Instr)),
    ((0x4625C30000C74000#64 : Word), (.vfmax ⟨false, false, 6#3, 12#4⟩ true .f16 48#6 (.v 48#6) (.q 0#3) : Instr)),
    ((0x5A264B1000660000#64 : Word), (.vfabs ⟨true, true, 2#3, 6#4⟩ true .bf16 18#6 (.v 49#6) : Instr)),
    ((0x5C270FC000060000#64 : Word), (.vfneg ⟨true, true, 4#3, 0#4⟩ true .bf16 3#6 (.v 60#6) : Instr)),
    ((0x462841C000E72000#64 : Word), (.vrcp ⟨false, false, 6#3, 14#4⟩ true .f16 16#6 (.v 28#6) (.mode 0#2) : Instr)),
    ((0x2929CC000016A800#64 : Word), (.vrsqrt ⟨false, true, 1#3, 1#4⟩ false .bf16 51#6 (.q 0#3) (.mode 1#2) : Instr)),
    ((0x392A518000363000#64 : Word), (.vexp2 ⟨true, true, 1#3, 3#4⟩ false .bf16 20#6 (.v 24#6) (.mode 2#2) : Instr)),
    ((0x402B49F000973000#64 : Word), (.vlog2 ⟨false, false, 0#3, 9#4⟩ true .f16 18#6 (.v 31#6) (.mode 2#2) : Instr))].all (fun p => decide (decodeOp p.1 = .ok p.2)) = true := by decide +kernel
theorem test_decode_vector_2 : [((0x262C0460C096C006#64 : Word), (.vfcmp ⟨false, false, 6#3, 9#4⟩ false .bf16 1#4 (.q 6#3) (.q 3#3) 6#3 : Instr)),
    ((0x572E1AE640150001#64 : Word), (.vcmp ⟨true, false, 7#3, 1#4⟩ true .u32 6#4 (.v 46#6) (.v 25#6) 1#3 : Instr)),
    ((0x4730C9D000643D32#64 : Word), (.vcvt ⟨false, false, 7#3, 6#4⟩ true .i32 50#6 (.v 29#6) true 4#4 true true 2#4 (.mode 3#2) : Instr)),
    ((0x4731112000D82401#64 : Word), (.vquant ⟨false, false, 7#3, 13#4⟩ true .f32 4#6 (.v 18#6) true 1#4 (.mode 0#2) : Instr)),
    ((0x28326A800016000C#64 : Word), (.vdequant ⟨false, true, 0#3, 1#4⟩ false .bf16 26#6 (.v 40#6) 12#4 .fmt : Instr)),
    ((0x2B33F3B180586800#64 : Word), (.vscale2 ⟨false, true, 3#3, 5#4⟩ false .f32 60#6 (.v 59#6) (.q 6#3) (.mode 1#2) : Instr)),
    ((0x513848600001800F#64 : Word), (.vrsum ⟨true, false, 1#3, 0#4⟩ true .u8 18#6 (.q 6#3) 15#4 .fmt : Instr)),
    ((0x3C39119000D10006#64 : Word), (.vrmax ⟨true, true, 4#3, 13#4⟩ false .u8 4#6 (.v 25#6) 6#4 : Instr)),
    ((0x4D3AA73000F00001#64 : Word), (.vramax ⟨false, true, 5#3, 15#4⟩ true .i8 41#6 (.v 51#6) 1#4 : Instr)),
    ((0x493B36B000140006#64 : Word), (.vrmin ⟨false, true, 1#3, 1#4⟩ true .i32 13#6 (.v 43#6) 6#4 : Instr)),
    ((0x54405010C7A4C001#64 : Word), (.vperm ⟨true, false, 4#3, 10#4⟩ true .i32 20#6 (.q 1#3) (.q 3#3) 7#6 true : Instr)),
    ((0x5E41F01000F200CE#64 : Word), (.vbcast ⟨true, true, 6#3, 15#4⟩ true .i16 60#6 (.v 1#6) 206#8 : Instr)),
    ((0x454260A000A70084#64 : Word), (.vext ⟨false, false, 5#3, 10#4⟩ true .f16 24#6 (.v 10#6) 132#8 : Instr)),
    ((0x3343A83000D1007C#64 : Word), (.vins ⟨true, false, 3#3, 13#4⟩ false .u8 42#6 3#6 124#8 : Instr)),
    ((0x4944A01E4024802D#64 : Word), (.vslide ⟨false, true, 1#3, 2#4⟩ true .i32 40#6 (.q 1#3) (.v 57#6) 45#8 : Instr)),
    ((0x2F45DCF940780001#64 : Word), (.vzip ⟨false, true, 7#3, 7#4⟩ false .f32 55#6 (.v 15#6) (.v 37#6) true : Instr)),
    ((0x5C4674310083C000#64 : Word), (.vunzip ⟨true, true, 4#3, 8#4⟩ true .u16 29#6 (.q 3#3) (.q 4#3) false : Instr)),
    ((0x4C47881000788000#64 : Word), (.vmov ⟨false, true, 4#3, 7#4⟩ true .f32 34#6 (.q 1#3) : Instr)),
    ((0x4048D9D000F30000#64 : Word), (.vsplat ⟨false, false, 0#3, 15#4⟩ true .u16 54#6 29#6 : Instr)),
    ((0x4B50358BC0363000#64 : Word), (.vamul ⟨false, true, 3#3, 3#4⟩ true .bf16 13#6 (.v 24#6) (.v 47#6) false (.mode 2#2) : Instr)),
    ((0x455160010366C000#64 : Word), (.vamac ⟨false, false, 5#3, 6#4⟩ true .bf16 24#6 (.q 0#3) (.q 4#3) 3#6 false .fmt : Instr)),
    ((0x5A52387000968000#64 : Word), (.vconj ⟨true, true, 2#3, 9#4⟩ true .bf16 14#6 (.q 7#3) : Instr)),
    ((0x4953901000C8A000#64 : Word), (.vnorm ⟨false, true, 1#3, 12#4⟩ true .f32 36#6 (.q 1#3) (.mode 0#2) : Instr)),
    ((0x3C600000009003BE#64 : Word), (.sminit ⟨true, true, 4#3, 9#4⟩ 14#5 62#6 : Instr)),
    ((0x3E61E2E000D8202A#64 : Word), (.smstep ⟨true, true, 6#3, 13#4⟩ 56#6 (.v 46#6) 42#6 (.mode 0#2) : Instr)),
    ((0x3062E80000D0000B#64 : Word), (.smrsc ⟨true, false, 0#3, 13#4⟩ 58#6 11#6 : Instr)),
    ((0x2663C80000B8B804#64 : Word), (.smfin ⟨false, false, 6#3, 11#4⟩ 50#6 (.q 0#3) 4#6 (.mode 3#2) : Instr)),
    ((0x3564280000500017#64 : Word), (.smget ⟨true, false, 5#3, 5#4⟩ 10#6 23#6 : Instr))].all (fun p => decide (decodeOp p.1 = .ok p.2)) = true := by decide +kernel
theorem test_decode_matrix : [((0x61010193000002B6#64 : Word), (.mcall ⟨false, false, 1#3, 3#4⟩ 25#6 true false true false 54#6 : Instr)),
    ((0x780207A000C00000#64 : Word), (.mset ⟨true, true, 0#3, 12#4⟩ 1#3 58#6 : Instr)),
    ((0x6B0200C000F00033#64 : Word), (.msetRs ⟨false, true, 3#3, 15#4⟩ 12#6 19#5 : Instr)),
    ((0x6A035C1000C00000#64 : Word), (.mget ⟨false, true, 2#3, 12#4⟩ 23#6 1#3 : Instr)),
    ((0x6003AC000010003B#64 : Word), (.mgetRs ⟨false, false, 0#3, 1#4⟩ 43#6 27#5 : Instr)),
    ((0x6F040DB000900000#64 : Word), (.malg ⟨false, true, 7#3, 9#4⟩ 3#2 27#6 : Instr)),
    ((0x6E05000000B00000#64 : Word), (.mdrain ⟨false, true, 6#3, 11#4⟩ : Instr)),
    ((0x7005028000000001#64 : Word), (.mdrainRaw ⟨true, false, 0#3, 0#4⟩ 40#6 : Instr)),
    ((0x7706036000E00000#64 : Word), (.mfill ⟨true, false, 7#3, 14#4⟩ 54#6 : Instr)),
    ((0x7907000000200000#64 : Word), (.mfreeze ⟨true, true, 1#3, 2#4⟩ : Instr)),
    ((0x7D08000000200000#64 : Word), (.mthaw ⟨true, true, 5#3, 2#4⟩ : Instr)),
    ((0x6209F00000200001#64 : Word), (.mstat ⟨false, false, 2#3, 2#4⟩ 60#6 true : Instr)),
    ((0x6A0A03702421B1AF#64 : Word), (.mload ⟨false, true, 2#3, 0#4⟩ 55#6 1#3 false 1#2 2208175#24 : Instr)),
    ((0x730BD972A0C19500#64 : Word), (.tload ⟨true, false, 3#3, 2#4⟩ 54#6 23#6 5#3 12686592#24 : Instr)),
    ((0x6C0C000000E00000#64 : Word), (.mzero ⟨false, true, 4#3, 14#4⟩ : Instr))].all (fun p => decide (decodeOp p.1 = .ok p.2)) = true := by decide +kernel
theorem test_decode_load : [((0x9B01A21858096DE5#64 : Word), (.ld ⟨true, true, 3#3, 8#4⟩ 40#6 33#6 2#3 true 2#2 617957#24 : Instr)),
    ((0x8A02B158881D75CD#64 : Word), (.vld ⟨false, true, 2#3, 8#4⟩ 44#6 21#6 4#3 false 2#2 1930701#24 : Instr)),
    ((0x99038CBDC0800065#64 : Word), (.vldr ⟨true, true, 1#3, 8#4⟩ 35#6 11#4 55#6 101#8 : Instr)),
    ((0x9D045B1180450000#64 : Word), (.vldg ⟨true, true, 5#3, 4#4⟩ .u32 22#6 49#6 6#6 : Instr)),
    ((0x8005454A40980000#64 : Word), (.vlds ⟨false, false, 0#3, 9#4⟩ .f32 17#6 20#6 41#6 : Instr)),
    ((0x83060134B8833EDE#64 : Word), (.lsq ⟨false, false, 3#3, 4#4⟩ 19#6 5#3 true 2#2 8601310#24 : Instr)),
    ((0x870716A72400AB69#64 : Word), (.qset ⟨false, false, 7#3, 7#4⟩ 5#3 42#6 1#3 false 1#2 43881#24 : Instr)),
    ((0x9508100000700000#64 : Word), (.qclr ⟨true, false, 5#3, 7#4⟩ 4#3 : Instr)),
    ((0x85092C9F20EFC46D#64 : Word), (.pref ⟨false, false, 5#3, 15#4⟩ 11#6 9#6 1#3 15713389#24 : Instr)),
    ((0x890AA4AE2B200391#64 : Word), (.amo ⟨false, true, 1#3, 2#4⟩ 41#6 10#6 56#6 43#6 true true 2#2 1#2 1#4 : Instr)),
    ((0x9B0BE815200FC056#64 : Word), (.vldc ⟨true, true, 3#3, 5#4⟩ 58#6 1#6 1#3 1032278#24 : Instr))].all (fun p => decide (decodeOp p.1 = .ok p.2)) = true := by decide +kernel
theorem test_decode_store : [((0xB30113B5E49CD5F3#64 : Word), (.st ⟨true, false, 3#3, 5#4⟩ 4#6 59#6 7#3 false 1#2 10278387#24 : Instr)),
    ((0xAB02D68D544CDE3F#64 : Word), (.vst ⟨false, true, 3#3, 13#4⟩ 53#6 40#6 2#3 true 1#2 5037631#24 : Instr)),
    ((0xB603C0F780D00015#64 : Word), (.vstr ⟨true, false, 6#3, 13#4⟩ 48#6 15#4 30#6 21#8 : Instr)),
    ((0xA104A83200830000#64 : Word), (.vsts ⟨false, false, 1#3, 8#4⟩ .u16 42#6 3#6 8#6 : Instr)),
    ((0xB405B33DB8A45A53#64 : Word), (.vstm ⟨true, false, 4#3, 13#4⟩ 44#6 51#6 5#3 true 2#2 10771027#24 : Instr)),
    ((0xA20603A84C33E928#64 : Word), (.cflush ⟨false, false, 2#3, 8#4⟩ 58#6 2#3 3#2 3402024#24 : Instr)),
    ((0xB607027A48E85667#64 : Word), (.cinval ⟨true, false, 6#3, 10#4⟩ 39#6 2#3 2#2 15226471#24 : Instr)),
    ((0xB00803EDC49201D6#64 : Word), (.cclean ⟨true, false, 0#3, 13#4⟩ 62#6 6#3 1#2 9568726#24 : Instr)),
    ((0xA909003000500011#64 : Word), (.radv ⟨false, true, 1#3, 5#4⟩ 3#4 17#9 : Instr))].all (fun p => decide (decodeOp p.1 = .ok p.2)) = true := by decide +kernel
theorem test_decode_copy : [((0xC20103F2ADB00002#64 : Word), (.cpy ⟨false, false, 2#3, 11#4⟩ 63#6 10#6 45#6 false false 1#3 false : Instr)),
    ((0xC10200DD7EB0000E#64 : Word), (.cnl ⟨false, false, 1#3, 11#4⟩ 13#6 53#6 62#6 7#3 false : Instr)),
    ((0xC3030080C3600000#64 : Word), (.cnb ⟨false, false, 3#3, 6#4⟩ 8#6 3#6 3#6 false : Instr)),
    ((0xD2040000003001D7#64 : Word), (.cgo ⟨true, false, 2#3, 3#4⟩ 7#3 false true 3#3 true : Instr)),
    ((0xD505000000800001#64 : Word), (.cdrain ⟨true, false, 5#3, 8#4⟩ true : Instr)),
    ((0xDF06000900000001#64 : Word), (.cmode ⟨true, true, 7#3, 9#4⟩ false true : Instr)),
    ((0xD507B80000F00000#64 : Word), (.cstat ⟨true, false, 5#3, 15#4⟩ 46#6 false : Instr)),
    ((0xCA0800188DD00041#64 : Word), (.ckv ⟨false, true, 2#3, 13#4⟩ 1#6 34#6 13#6 true false false true : Instr)),
    ((0xCA090265C0F00001#64 : Word), (.cred ⟨false, true, 2#3, 15#4⟩ 38#6 23#6 true : Instr))].all (fun p => decide (decodeOp p.1 = .ok p.2)) = true := by decide +kernel
theorem test_decode_system : [((0xF301000000F00005#64 : Word), (.fence ⟨true, false, 3#3, 15#4⟩ 1#2 1#2 : Instr)),
    ((0xF502000000B00004#64 : Word), (.tfence ⟨true, false, 5#3, 11#4⟩ 1#2 : Instr)),
    ((0xF603002380004DB8#64 : Word), (.twait ⟨true, false, 6#3, 0#4⟩ 2#2 14#6 621#11 true 2#2 : Instr)),
    ((0xF7048C3000400000#64 : Word), (.tget ⟨true, false, 7#3, 4#4⟩ 35#6 3#2 false : Instr)),
    ((0xF70500B000A00000#64 : Word), (.barv ⟨true, false, 7#3, 10#4⟩ 11#6 : Instr)),
    ((0xFB06016780400000#64 : Word), (.bexp ⟨true, true, 3#3, 4#4⟩ 22#6 30#6 : Instr)),
    ((0xEC0702F280400000#64 : Word), (.bwait ⟨false, true, 4#3, 4#4⟩ 47#6 10#6 : Instr)),
    ((0xFA08015F80700000#64 : Word), (.sigdec ⟨true, true, 2#3, 7#4⟩ 21#6 62#6 false : Instr)),
    ((0xE10964A000600000#64 : Word), (.sigwait ⟨false, false, 1#3, 6#4⟩ 25#6 10#6 : Instr)),
    ((0xFE0A347A4080E952#64 : Word), (.mwait ⟨true, true, 6#3, 8#4⟩ 13#6 7#6 41#6 59730#16 : Instr)),
    ((0xF60B0C1000E00000#64 : Word), (.launch ⟨true, false, 6#3, 14#4⟩ 3#6 1#6 : Instr)),
    ((0xF40C000000E00000#64 : Word), (.exit ⟨true, false, 4#3, 14#4⟩ false : Instr)),
    ((0xF80D00070000E873#64 : Word), (.trap ⟨true, true, 0#3, 7#4⟩ 59507#16 : Instr)),
    ((0xF30E00050000007B#64 : Word), (.fmt ⟨true, false, 3#3, 5#4⟩ false true true true 2#2 3#2 : Instr)),
    ((0xF60F011000500000#64 : Word), (.bandup ⟨true, false, 6#3, 5#4⟩ 17#6 : Instr)),
    ((0xF810022B2BD00001#64 : Word), (.seal_ ⟨true, true, 0#3, 13#4⟩ 34#6 44#6 43#6 1#2 : Instr)),
    ((0xEF11003463300001#64 : Word), (.open_ ⟨false, true, 7#3, 3#4⟩ 3#6 17#6 35#6 1#2 : Instr)),
    ((0xE912023380E0000C#64 : Word), (.wld ⟨false, true, 1#3, 14#4⟩ 35#6 14#6 12#4 : Instr)),
    ((0xED13000000D0000C#64 : Word), (.wlock ⟨false, true, 5#3, 13#4⟩ 12#4 : Instr)),
    ((0xE61400000030000C#64 : Word), (.wunlk ⟨false, false, 6#3, 3#4⟩ 12#4 : Instr)),
    ((0xEC15684000C00001#64 : Word), (.wx ⟨false, true, 4#3, 12#4⟩ 26#6 4#6 1#2 : Instr)),
    ((0xFD16000000800000#64 : Word), (.yield ⟨true, true, 5#3, 8#4⟩ : Instr)),
    ((0xEE17D00000700000#64 : Word), (.rdtime ⟨false, true, 6#3, 7#4⟩ 52#6 : Instr))].all (fun p => decide (decodeOp p.1 = .ok p.2)) = true := by decide +kernel
theorem test_decode_milliner : [((0x07ED7800#32 : BitVec 32), (.gadd 31#5 13#5 15#5 : Instr)),
    ((0x08E62800#32 : BitVec 32), (.gsub 7#5 6#5 5#5 : Instr)),
    ((0x0FD91800#32 : BitVec 32), (.gand 30#5 25#5 3#5 : Instr)),
    ((0x135AA800#32 : BitVec 32), (.gor 26#5 26#5 21#5 : Instr)),
    ((0x14F0A800#32 : BitVec 32), (.gxor 7#5 16#5 21#5 : Instr)),
    ((0x1A584000#32 : BitVec 32), (.gshl 18#5 24#5 8#5 : Instr)),
    ((0x1F7F2800#32 : BitVec 32), (.gshr 27#5 31#5 5#5 : Instr)),
    ((0x2196A800#32 : BitVec 32), (.gsra 12#5 22#5 21#5 : Instr)),
    ((0x277BD000#32 : BitVec 32), (.gmul 27#5 27#5 26#5 : Instr)),
    ((0x2B6E77D6#32 : BitVec 32), (.gaddi 27#5 14#5 30678#16 : Instr)),
    ((0x2D598C5C#32 : BitVec 32), (.gandi 10#5 25#5 35932#16 : Instr)),
    ((0x32A5C7A5#32 : BitVec 32), (.gori 21#5 5#5 51109#16 : Instr)),
    ((0x37700017#32 : BitVec 32), (.gshli 27#5 16#5 23#6 : Instr)),
    ((0x3B5C000F#32 : BitVec 32), (.gshri 26#5 28#5 15#6 : Instr)),
    ((0x3D20B447#32 : BitVec 32), (.gli 9#5 46151#16 : Instr)),
    ((0x41B640E9#32 : BitVec 32), (.glih 13#5 22#5 16617#16 : Instr)),
    ((0x45D63000#32 : BitVec 32), (.gslt 14#5 22#5 6#5 : Instr)),
    ((0x4A01D000#32 : BitVec 32), (.gsltu 16#5 1#5 26#5 : Instr)),
    ((0x4F1A47FE#32 : BitVec 32), (.gbeq 24#5 26#5 18430#16 : Instr)),
    ((0x5188A787#32 : BitVec 32), (.gbne 12#5 8#5 42887#16 : Instr)),
    ((0x554B7AC4#32 : BitVec 32), (.gblt 10#5 11#5 31428#16 : Instr)),
    ((0x5A0E9F95#32 : BitVec 32), (.gbge 16#5 14#5 40853#16 : Instr)),
    ((0x5EA3A8C6#32 : BitVec 32), (.gbltu 21#5 3#5 43206#16 : Instr)),
    ((0x63AC271B#32 : BitVec 32), (.gbgeu 29#5 12#5 10011#16 : Instr)),
    ((0x641DB821#32 : BitVec 32), (.gj 1947681#21 : Instr)),
    ((0x695B579F#32 : BitVec 32), (.gjal 10#5 1791903#21 : Instr)),
    ((0x6DA20000#32 : BitVec 32), (.gjr 13#5 2#5 : Instr)),
    ((0x707B9089#32 : BitVec 32), (.gld 3#5 27#5 37001#16 : Instr)),
    ((0x77ABC8B7#32 : BitVec 32), (.gst 29#5 11#5 51383#16 : Instr)),
    ((0x81008EA7#32 : BitVec 32), (.tld 2#3 17#5 1703#11 : Instr)),
    ((0x85EA0D43#32 : BitVec 32), (.tpat 3#3 6#3 10#4 1#5 1347#11 : Instr)),
    ((0x88A20540#32 : BitVec 32), (.tpati 1#3 2#3 2#4 1344#11 : Instr)),
    ((0x8DB00000#32 : BitVec 32), (.tclr 3#3 3#3 : Instr)),
    ((0x8E810000#32 : BitVec 32), (.tclrAll 5#3 : Instr)),
    ((0x90800000#32 : BitVec 32), (.emit 1#3 : Instr)),
    ((0x96800000#32 : BitVec 32), (.emitm 5#3 : Instr)),
    ((0x98BC4000#32 : BitVec 32), (.emitr 5#5 28#5 8#5 : Instr)),
    ((0xA0D90000#32 : BitVec 32), (.gwait 6#5 25#5 : Instr)),
    ((0xA5E00000#32 : BitVec 32), (.grecv 15#5 : Instr)),
    ((0xA980C8EF#32 : BitVec 32), (.grds 12#5 51439#16 : Instr)),
    ((0xAC053563#32 : BitVec 32), (.gwrs 5#5 13667#16 : Instr)),
    ((0xB000E773#32 : BitVec 32), (.gtrap 59251#16 : Instr)),
    ((0xB4000000#32 : BitVec 32), (.gend : Instr))].all (fun p => decide (decodeMilliner p.1 = .ok p.2)) = true := by decide +kernel
theorem test_decode_micro : [((0x0CE00000#32 : BitVec 32), (.pulla 4#3 7#3 : Instr)),
    ((0x15400000#32 : BitVec 32), (.pullb 5#3 2#3 : Instr)),
    ((0x1DC00000#32 : BitVec 32), (.pullm 5#3 6#3 : Instr)),
    ((0x25E00000#32 : BitVec 32), (.step 5#3 7#3 : Instr)),
    ((0x29D78000#32 : BitVec 32), (.stepk 1#3 6#3 5#3 7#3 : Instr)),
    ((0x36E00000#32 : BitVec 32), (.zacc 6#3 7#3 : Instr)),
    ((0x38000000#32 : BitVec 32), (.sqpop : Instr)),
    ((0x43400000#32 : BitVec 32), (.drain 3#3 2#3 : Instr)),
    ((0x4CC0368E#32 : BitVec 32), (.loop 4#3 6#3 13966#16 : Instr)),
    ((0x50000000#32 : BitVec 32), (.endl : Instr)),
    ((0x58000000#32 : BitVec 32), (.syncc : Instr)),
    ((0x66290000#32 : BitVec 32), (.waitr 3#2 41#9 : Instr)),
    ((0x68000000#32 : BitVec 32), (.swap : Instr)),
    ((0x70000000#32 : BitVec 32), (.ret : Instr))].all (fun p => decide (decodeMicro p.1 = .ok p.2)) = true := by decide +kernel
theorem test_decode_trimmer : [((0x0EB00000#32 : BitVec 32), (.trimTld true 43#6 : Instr)),
    ((0x13900000#32 : BitVec 32), (.tbias 57#6 : Instr)),
    ((0x18800000#32 : BitVec 32), (.tmul 8#6 : Instr)),
    ((0x20000000#32 : BitVec 32), (.tts : Instr)),
    ((0x28000122#32 : BitVec 32), (.tact 18#5 2#4 : Instr)),
    ((0x30000000#32 : BitVec 32), (.trnd : Instr)),
    ((0x38000017#32 : BitVec 32), (.tcvt true 7#4 : Instr)),
    ((0x40FD4000#32 : BitVec 32), (.tsat 15#6 53#6 : Instr)),
    ((0x48000000#32 : BitVec 32), (.trmax : Instr)),
    ((0x50000000#32 : BitVec 32), (.trsum false : Instr)),
    ((0x58000018#32 : BitVec 32), (.tqnt true 8#4 : Instr)),
    ((0x60000009#32 : BitVec 32), (.tadd 9#4 : Instr)),
    ((0x68000F7E#32 : BitVec 32), (.tmulr 15#8 31#6 2#2 : Instr)),
    ((0x70000000#32 : BitVec 32), (.tst false : Instr)),
    ((0x78000000#32 : BitVec 32), (.tsts : Instr)),
    ((0x80000000#32 : BitVec 32), (.tend : Instr))].all (fun p => decide (decodeTrimmer p.1 = .ok p.2)) = true := by decide +kernel

/-! ### Ill-formed terms: one for each check of `Instr.wf` (R31, R32, R35, R45 and the rule of each op) -/

theorem test_wf_refuses_scalar : [Instr.nop hg 0#3, .bfx hd 1#6 2#6 false 32#6 32#6, .bfi hd 1#6 2#6 3#6 63#6 1#6, .ceq hd 0#4 1#6 2#6,
    .cne hd 0#4 1#6 2#6, .clt hd 0#4 1#6 2#6, .cltu hd 0#4 1#6 2#6, .cle hd 0#4 1#6 2#6, .cleu hd 0#4 1#6 2#6, .ceqi hd 0#4 1#6 0#32,
    .clti hd 0#4 1#6 0#32, .pand hd 0#4 1#4 2#4, .por hd 0#4 1#4 2#4, .pxor hd 0#4 1#4 2#4, .pnot hd 0#4 1#4, .pset hd 0#4 1#6 .f32,
    .skip hd 1#4 0#32, .skip hd 1#4 65#32, .eskip hd 1#4 false 0#5, .eskip hd 1#4 false 17#5, .rdsr hd 1#6 10#32, .wrsr hd 1#6 1#32,
    .wrsr hd 1#6 10#32, .lset hd 1#6 6#32, .lbody hd 0#32, .lbody hd 33#32, .lstage hd 8#32, .lgo hd 0#3, .lgo hd 7#3, .lidx hd 1#6 6#3,
    .shli hd 1#6 2#6 64#32, .shri hd 1#6 2#6 64#32, .srai hd 1#6 2#6 64#32].all
    (fun i => !i.wf) = true := by decide +kernel
theorem test_wf_refuses_vector : [Instr.vfcmp hd false .f32 0#4 (.v 1#6) (.v 2#6) 0#3, .vcmp hd false .i8 0#4 (.v 1#6) (.v 2#6) 0#3,
    .vcmp hd false .i8 1#4 (.v 1#6) (.v 2#6) 6#3, .vcvt hd false .f32 1#6 (.v 2#6) false 4#4 false true 0#4 .fmt,
    .vcvt hd false .f32 1#6 (.v 2#6) false 0#4 false false 9#4 .fmt, .vcvt hd false .f32 1#6 (.v 2#6) false 5#4 true true 1#4 .fmt,
    .vcvt hd false .f32 1#6 (.v 2#6) false 0#4 true false 0#4 .fmt, .vquant hd false .f32 1#6 (.v 2#6) false 3#4 .fmt,
    .vquant hd false .f32 1#6 (.v 2#6) false 10#4 .fmt, .vdequant hd false .f32 1#6 (.v 2#6) 4#4 .fmt,
    .vrsum hd false .f32 1#6 (.v 2#6) 7#4 .fmt, .vrsum hd false .i8 1#6 (.v 2#6) 1#4 (.mode 0#2), .vrmax hd false .f32 1#6 (.v 2#6) 7#4,
    .vramax hd false .f16 1#6 (.v 2#6) 8#4, .vrmin hd false .i8 1#6 (.v 2#6) 9#4, .vperm hd false .i8 1#6 (.v 2#6) (.v 3#6) 4#6 true,
    .vperm hd false .f32 1#6 (.v 2#6) (.v 3#6) 4#6 false, .vbcast hd false .f32 1#6 (.v 2#6) 64#8, .vext hd false .f16 1#6 (.v 2#6) 128#8,
    .vins hd false .i32 1#6 2#6 64#8, .vslide hd false .u16 1#6 (.v 2#6) (.v 3#6) 128#8, .sminit hd 1#5 63#6].all
    (fun i => !i.wf) = true := by decide +kernel
theorem test_wf_refuses_engines : [Instr.mcall hd 1#6 false false false false 0#6, .mcall hd 1#6 true false true false 0#6, .msetRs hd 1#6 18#5,
    .mgetRs hd 1#6 18#5, .mload hd 1#6 7#3 false 0#2 0#24, .tload hd 1#6 2#6 6#3 0#24, .ld hd 1#6 2#6 4#3 true 0#2 0#24,
    .vld hd 1#6 2#6 3#3 false 0#2 0#24, .vldc hd 1#6 2#6 5#3 0#24, .lsq hd 1#6 0#3 false 0#2 0#24, .qset hd 1#3 2#6 7#3 false 0#2 0#24,
    .pref hd 0#6 1#6 5#3 0#24, .pref hd 2#6 1#6 7#3 0#24, .amo hd 1#6 2#6 3#6 0#6 false false 0#2 1#2 0#4,
    .amo hd 1#6 2#6 3#6 4#6 false false 0#2 2#2 0#4, .amo hd 1#6 2#6 3#6 0#6 false false 0#2 2#2 13#4,
    .amo hd 1#6 2#6 3#6 0#6 false false 0#2 3#2 10#4, .amo hd 1#6 2#6 3#6 0#6 false false 0#2 2#2 11#4,
    .amo hd 1#6 2#6 3#6 4#6 false false 0#2 1#2 9#4,
    .st hd 1#6 2#6 4#3 true 0#2 0#24, .vst hd 1#6 2#6 3#3 false 0#2 0#24, .vstm hd 1#6 2#6 3#3 false 0#2 0#24, .cflush hd 1#6 5#3 0#2 0#24,
    .cinval hd 1#6 5#3 0#2 0#24, .cclean hd 1#6 5#3 0#2 0#24, .radv hd 1#4 0#9, .radv hd 1#4 257#9,
    .cpy hd 1#6 2#6 3#6 false false 4#3 false, .cnl hd 1#6 2#6 3#6 6#3 false, .cgo hd 7#3 false false 0#3 false,
    .cgo hd 1#3 false false 4#3 false, .fence hd 0#2 0#2, .twait hd 0#2 1#6 0#11 true 0#2, .twait hd 0#2 1#6 1#11 false 0#2,
    .wx hd 1#6 2#6 3#2].all (fun i => !i.wf) = true := by decide +kernel
theorem test_wf_refuses_side : [Instr.tpat 0#3 0#3 13#4 0#5 0#11, .tpati 0#3 0#3 13#4 0#11, .grds 1#5 10#16, .gwrs 1#5 9#16, .pulla 7#3 0#3,
    .pulla 0#3 7#3, .pullb 7#3 0#3, .pullm 0#3 7#3, .step 7#3 0#3, .stepk 0#3 0#3 7#3 0#3, .stepk 0#3 0#3 0#3 7#3, .zacc 7#3 0#3, .drain 0#3 7#3,
    .loop 0#3 6#3 1#16, .waitr 3#2 0#9, .trimTld false 1#6, .tact 0#5 6#4, .tact 0#5 1#4, .tact 17#5 1#4, .tact 1#5 0#4, .tcvt false 2#4,
    .tcvt false 13#4, .tqnt false 3#4, .tadd 5#4, .tmulr 0#8 0#6 3#2, .tmulr 0#8 1#6 0#2, .tmulr 1#8 0#6 1#2].all
    (fun i => !i.wf) = true := by decide +kernel
/-- Their neighbours within the range are accepted. -/
theorem test_wf_accepts : [Instr.bfx hd 1#6 2#6 false 31#6 32#6, .skip hd 1#4 64#32, .eskip hd 1#4 true 16#5, .rdsr hd 1#6 9#32, .wrsr hd 1#6 6#32,
    .lbody hd 32#32, .lstage hd 7#32, .shli hd 1#6 2#6 63#32, .lgo hd 6#3, .vrsum hd false .f32 1#6 (.v 2#6) 6#4 (.mode 1#2), .vbcast hd false .f32 1#6 (.v 2#6) 63#8,
    .sminit hd 1#5 62#6, .amo hd 1#6 2#6 3#6 4#6 true true 3#2 3#2 9#4, .amo hd 1#6 2#6 3#6 0#6 false false 2#2 1#2 12#4, .radv hd 1#4 256#9,
    .twait hd 3#2 0#6 2047#11 true 3#2, .tact 16#5 1#4, .tmulr 40#8 6#6 2#2].all (fun i => i.wf) = true := by decide +kernel

/-! ### Words that no instruction has (R32, R43 to R47, R52) -/

/-- Unassigned opcodes, a reserved bit, types 9 and i8 of an FP op, RMS 1, p16 in D, q8 in A, softmax in VB, bit 25 of format M. -/
theorem test_refused_words : [0x001C000000000000#64, 0x00FF000000000000#64, 0x0001000000010000#64, 0x2001000000090000#64,
    0x2020000000000000#64, 0x2020000000080800#64, 0x0030400000000000#64, 0x2001008000048000#64, 0x4061000000080000#64,
    0x8001000002000000#64].all (fun w => (excVal (decodeOp w)).isNone) = true := by decide +kernel
theorem test_refused_side : [0#32, 0x78000000#32, 0x7C000000#32, 0x9C000000#32, 0xB8000000#32, 0x04000001#32].all
      (fun w => (excVal (decodeMilliner w)).isNone) = true ∧
    [0#32, 0x78000000#32, 0x70000001#32].all (fun w => (excVal (decodeMicro w)).isNone) = true ∧
    [0#32, 0x88000000#32, 0x80000001#32].all (fun w => (excVal (decodeTrimmer w)).isNone) = true := by decide +kernel
/-- A `nop` of the M slot. -/
theorem test_nop : decodeOp 0x6000000000000000#64 = .ok (.nop hd 3#3) := rfl

/-! ### Results that the examples of the specification give -/

/-- What an op lands, as the newest entry of the context's landings. -/
def lands (i : Instr) (s : State) : List RegW :=
  match exec i s with
  | .next t => match t.here.pend.getLast? with
    | some p => match p.kind with
      | .done w => w
      | .spm _ _ | .load _ | .amo _ | .launch _ | .wait _ => []
    | none => []
  | .fault _ | .refused _ => []
/-- The scalar that an op lands. -/
def landsS (i : Instr) (s : State) : Option Word :=
  match lands i s with
  | [.s _ r] => some r.val
  | _ => none
/-- Context cx with s8 = x and s9 = y. -/
def pairDev (x y : Word) : State := dev { cx with regs := { cx.regs with s := vset (vset cx.regs.s 8#6 (val x)) 9#6 (val y) } }
theorem test_div_by_zero : landsS (.div hd 10#6 8#6 9#6) (pairDev 7#64 0#64) = some (BitVec.allOnes 64) := by decide +kernel
theorem test_div_min : landsS (.div hd 10#6 8#6 9#6) (pairDev 0x8000000000000000#64 (BitVec.allOnes 64)) = some 0x8000000000000000#64 := by
  decide +kernel
theorem test_rem_sign : landsS (.rem hd 10#6 8#6 9#6) (pairDev (BitVec.ofInt 64 (-7)) 2#64) = some (BitVec.allOnes 64) := by decide +kernel
theorem test_mulh : landsS (.mulh hd 10#6 8#6 9#6) (pairDev (BitVec.allOnes 64) 1#64) = some (BitVec.allOnes 64) := by decide +kernel
theorem test_bfx : landsS (.bfx hd 10#6 8#6 true 7#6 4#6) (pairDev 0x8F0#64 0#64) = some 0xFFFFFFFFFFFFFF8F#64 := by decide +kernel
/-- R123: `pset.f32` with 3 sets bits 0 to 11. -/
theorem test_pset : lands (.pset hd 5#4 8#6 .f32) (pairDev 3#64 0#64) = [.p 5#4 ⟨0xFFF#256, 0#8, false⟩] := by decide +kernel

def algCx (fmt : Word) (a b : BitVec 2048) (alg : BitVec 128) : Ctx := { cx with
  regs := { cx.regs with
    fmt := fmt
    v := vset (vset cx.regs.v 1#6 ⟨a, 0#8, 0#4⟩) 2#6 ⟨b, 0#8, 0#4⟩ }
  eng := { cx.eng with mat := { cx.eng.mat with alg := vset cx.eng.mat.alg 1#2 alg } } }
/-- The low 128 bits of the vector that an op lands. -/
def landsV (i : Instr) (s : State) : Option (BitVec 128) :=
  (lands i s).findSome? (fun w => match w with
    | .v _ r _ => some (r.bits.extractLsb' 0 128)
    | .s .. | .p .. | .m .. | .fmt .. | .flags .. | .sr .. | .band _ | .stream .. => none)
/-- R83 and the example of R165: (1, 2, 0, 0) ⊗ (3, 0, 4, 0) in the quaternions is (3, 6, 4, 8), swapped (3, 6, 4, -8). -/
def quat : BitVec 128 := 0x2ECD675CF6E7C57654#128
def vamulDev : State := dev (algCx 4#64 (BitVec.ofNat 2048 0x400000003F800000) (BitVec.ofNat 2048 0x408000000000000040400000) quat)
theorem test_vamul : landsV (.vamul hd false .f32 3#6 (.v 1#6) (.v 2#6) false .fmt) vamulDev
    = some 0x410000004080000040C0000040400000#128 := by decide +kernel
theorem test_vamul_swap : landsV (.vamul hd false .f32 3#6 (.v 1#6) (.v 2#6) true .fmt) vamulDev
    = some 0xC10000004080000040C0000040400000#128 := by decide +kernel
/-- R83: the descriptor of the quaternions is legal, of dimension 4. -/
theorem test_quaternions : algLegal quat = true ∧ algDim quat = 4 := by decide +kernel

/-- R159: 500 gives 0x7E and an overflow under `.sat`, 300 gives 0x79, -0.75 gives 0xB4. -/
theorem test_e4m3 : [0x43FA0000#32, 0x43960000#32, 0xBF400000#32].map (fun x => (convert fmtE4M3 .rne true (val32 x)).bits) = [0x7E, 0x79, 0xB4] := by
  decide +kernel
/-- R76: the accumulator term is truncated at the group's weight: 1 + 2^-23, 2^30, -2^30 sum to 1. -/
theorem test_groupRound : (groupRound .rne [val32 0x3F800001#32, val32 0x4E800000#32, val32 0xCE800000#32]).1 = 0x3F800000#32 := by decide +kernel
/-- R323: REF 1 goes to 0 and then, with an audit event, to FFFFH. -/
theorem test_kvdec : amoNew 12#4 16 1 0 0 = (some 0, false) ∧ amoNew 12#4 16 0 0 0 = (some 0xFFFF, true) := by decide +kernel

/-- R308 and its example: segment 3 has slot 5, half block 0; its entry 31 names page 1000 0340 5000H. -/
def wxCx : Ctx := { cx with
  regs := { cx.regs with s := vset cx.regs.s 6#6 (val 0x05000000000003E8#64) }
  eng := { cx.eng with
    weirSegs := 8
    weir := vset cx.eng.weir 3#4 ⟨[(31, 0x100003405003#64)], [], 5#8, 0#8, true, false, 0#8⟩ } }
theorem test_wx_pay : landsS (.wx hd 7#6 6#6 0#2) (dev wxCx) = some 0x100003405400#64 := by decide +kernel
theorem test_wx_hdr : landsS (.wx hd 7#6 6#6 1#2) (dev wxCx) = some 0x10000343E140#64 := by decide +kernel

/-- R315's example: three blocks of scores in row 0; E and K afterwards. -/
def smBlock (u : Softmax) (l : List (BitVec 32)) : Softmax := (u.step .rne 0#6 (l.map val32)).1
def smAfter : Softmax := smBlock (smBlock (smBlock (Softmax.reset 0#8)
  [0x3F800000#32, 0x40400000#32, 0x40000000#32, 0xFF800000#32]) [0x40800000#32, 0x41300000#32, 0x40C00000#32, 0x40A00000#32])
  [0x41600000#32, 0x41400000#32, 0#32, 0x41300000#32]
theorem test_softmax : (smAfter.row 0).e = 14#32 ∧ (smAfter.row 0).k = BitVec.ofInt 16 (-11) ∧ (smAfter.row 0).l = 0x3FC0FE00#32 := by decide +kernel

/-- R398's example: entry 70 of window 3's queue with RBASE 8 and QSZL 6. -/
theorem test_entry : entryAddr 3#6 { CwQueue.reset with rbase := 8#12, qszl := 6#4 } 70 = 0x5FFC308180 := by decide +kernel
/-- R409's example: with head 4 (number 2) lost, granules 6 and 7 go to ports 2 and 3. -/
theorem test_heads : let s : State := { w0 with hw := { w0.hw with heads := 11#4 } }
    keyPort s (0x100000000000 + 256 * 6) = some 2 ∧ keyPort s (0x100000000000 + 256 * 7) = some 3 := by decide +kernel
/-- FIPS 180-4: the digest of `abc`. -/
theorem test_sha384 : sha384 [0x61#8, 0x62#8, 0x63#8]
    = 0xCB00753F45A35E8BB5A03D699AC65007272C32AB0EDED1631A8B605A43FF5BED8086072BA1E7CC2358BAECA134C825A7#384 := by decide +kernel
/-- The first test of AES-256 in the specification of GCM: a key and an IV of zeros, no data. -/
theorem test_gcm : gcmEncrypt 0#256 (List.replicate 12 0#8) [] []
    = ([], beBytes 0x530F8AFBC74536B9A963B4F1C4CB738B 16) := by decide +kernel
end Sys2Proof.Tests
end

section
/-! SUPPORT. The shared operations that leave memory alone: an equation for each (R3, R213). -/
namespace Sys2Proof.Machine

/-- A fold of operations that leave memory alone leaves it alone. -/
theorem foldl_mem {α : Type} {f : State → α → State} (hf : ∀ s a, (f s a).mem = s.mem) (l : List α) (s : State) :
    (l.foldl f s).mem = s.mem := by
  induction l generalizing s with
  | nil => rfl
  | cons a t ih => rw [List.foldl_cons, ih, hf]

/-! ### Ops -/
@[simp] theorem setPortLink_mem {s port l} : (setPortLink s port l).mem = s.mem := by simp [setPortLink]
@[simp] theorem discardEngines_mem {s fe} : (discardEngines s fe).mem = s.mem := by simp [discardEngines]
@[simp] theorem unbindCtx_mem {s fe} : (unbindCtx s fe).mem = s.mem := by simp [unbindCtx]

@[simp] theorem departCtx_mem {s fe} : (departCtx s fe).mem = s.mem := by
  unfold departCtx
  dsimp only
  repeat' split
  all_goals simp

@[simp] theorem stopOthers_mem {s fe task} : (stopOthers s fe task).mem = s.mem := by simp [stopOthers]
@[simp] theorem killCtx_mem {s fe} : (killCtx s fe).mem = s.mem := by simp [killCtx]

@[simp] theorem classOutcome_mem {s fe cause} : (classOutcome s fe cause).mem = s.mem := by
  unfold classOutcome
  split <;> simp

@[simp] theorem pageRequest_mem {s fe cause addr} : (pageRequest s fe cause addr).mem = s.mem := by
  unfold pageRequest
  dsimp only
  repeat' split
  all_goals simp

@[simp] theorem addPend_mem {s slot lat k} : (addPend s slot lat k).mem = s.mem := by simp [addPend]
@[simp] theorem landRegs_mem {s slot lat w} : (landRegs s slot lat w).mem = s.mem := by simp [landRegs]

/-! ### LoopEngine -/
@[simp] theorem State.modLoop_mem {s f} : (State.modLoop s f).mem = s.mem := by simp [State.modLoop]

/-! ### Mem -/

@[simp] theorem askLeaf_mem {s fe u ea} : (askLeaf s fe u ea).mem = s.mem := by
  unfold askLeaf
  dsimp only
  repeat' split
  all_goals simp

@[simp] theorem recordStore_mem {s agent scope rel place keys} : (recordStore s agent scope rel place keys).mem = s.mem := by
  simp [recordStore]
@[simp] theorem State.postSync_mem {s place c} : (State.postSync s place c).mem = s.mem := by simp [State.postSync]
@[simp] theorem State.takeSync_mem {s fe place} : (State.takeSync s fe place).mem = s.mem := by simp [State.takeSync]
@[simp] theorem dropFilled_mem {s p} : (dropFilled s p).mem = s.mem := by simp [dropFilled]

@[simp] theorem mediaWritten_mem {s n k} : (mediaWritten s n k).mem = s.mem := by
  unfold mediaWritten
  dsimp only
  repeat' split
  all_goals simp

@[simp] theorem performPoison_mem {s data plines} : (performPoison s data plines).mem = s.mem :=
  foldl_mem (fun s l => by split <;> simp) ..

@[simp] theorem noteRead_mem {s fe u strong scope seq ps} : (noteRead s fe u strong scope seq ps).mem = s.mem := by
  unfold noteRead
  dsimp only
  repeat' split
  all_goals simp

@[simp] theorem noteStrong_mem {s fe scope place unit} : (noteStrong s fe scope place unit).mem = s.mem := by
  unfold noteStrong
  split <;> simp

@[simp] theorem opMiss_mem {s ea write} : (opMiss s ea write).mem = s.mem := by
  unfold opMiss
  split <;> simp

@[simp] theorem opWaitFor_mem {s f} : (opWaitFor s f).mem = s.mem := by
  unfold opWaitFor
  split <;> simp

@[simp] theorem opWait_mem {s} : (opWait s).mem = s.mem := by simp [opWait]

/-! ### LoadStore -/
@[simp] theorem lsqReserve_mem {s l} : (lsqReserve s l).mem = s.mem := by simp [lsqReserve]

/-! ### Milliner -/
@[simp] theorem State.modGen_mem {s f} : (State.modGen s f).mem = s.mem := by simp [State.modGen]
@[simp] theorem genWait_mem {s} : (genWait s).mem = s.mem := by simp [genWait]
@[simp] theorem genPushStall_mem {s} : (genPushStall s).mem = s.mem := by simp [genPushStall]

@[simp] theorem genRetry_mem {s fe} : (genRetry s fe).mem = s.mem := by
  unfold genRetry
  split <;> simp

/-! ### Matrix -/
@[simp] theorem State.modMat_mem {s fe f} : (State.modMat s fe f).mem = s.mem := by simp [State.modMat]
@[simp] theorem State.setRun_mem {s fe r} : (State.setRun s fe r).mem = s.mem := by simp [State.setRun]

/-! ### Basin -/
@[simp] theorem setBasin_mem {s home o b} : (setBasin s home o b).mem = s.mem := by simp [setBasin]

@[simp] theorem State.liveBasin_mem {s home o} : (State.liveBasin s home o).mem = s.mem := by
  unfold State.liveBasin
  split <;> simp

@[simp] theorem sendBasin_mem {s ea up src prov word ch} : (sendBasin s ea up src prov word ch).mem = s.mem := by
  simp [sendBasin]

/-! ### MatrixOps -/
@[simp] theorem takeNum_mem {s fe tl} : (takeNum s fe tl).1.mem = s.mem := by simp [takeNum]
@[simp] theorem doneNum_mem {s fe tl n} : (doneNum s fe tl n).mem = s.mem := by simp [doneNum]

@[simp] theorem queueCmd_mem {s cmd} : (queueCmd s cmd).mem = s.mem := by
  unfold queueCmd
  dsimp only
  repeat' split
  all_goals simp

@[simp] theorem bypassRun_mem {s fe r} : (bypassRun s fe r).mem = s.mem := by simp [bypassRun]

@[simp] theorem queueOrBypass_mem {s cmd} : (queueOrBypass s cmd).mem = s.mem := by
  unfold queueOrBypass
  dsimp only
  repeat' split
  all_goals simp

@[simp] theorem dequeue_mem {s k cmd} : (dequeue s k cmd).mem = s.mem := by simp [dequeue]
@[simp] theorem giveTable_mem {s k fe t d} : (giveTable s k fe t d).mem = s.mem := by simp [giveTable]

@[simp] theorem refillQueue_mem {s fe} : (refillQueue s fe).mem = s.mem := by
  unfold refillQueue
  dsimp only
  repeat' split
  all_goals simp

/-! ### Weir -/
@[simp] theorem State.modWeir_mem {s n f} : (State.modWeir s n f).mem = s.mem := by simp [State.modWeir]

@[simp] theorem setSegAt_mem {s core n g} : (setSegAt s core n g).mem = s.mem := by
  unfold setSegAt
  split <;> simp

@[simp] theorem crownWeir_mem {s core off data} : (crownWeir s core off data).mem = s.mem := by
  unfold crownWeir
  dsimp only
  repeat' split
  all_goals simp

/-! ### Copy -/
@[simp] theorem State.modChan_mem {s fe ch f} : (State.modChan s fe ch f).mem = s.mem := by simp [State.modChan]
@[simp] theorem chanDone_mem {s fe ch n} : (chanDone s fe ch n).mem = s.mem := by simp [chanDone]

/-! ### Sync -/

@[simp] theorem holdRelease_mem {s} : (holdRelease s).mem = s.mem := by
  unfold holdRelease
  dsimp only
  repeat' split
  all_goals simp

@[simp] theorem fenced_mem {s fe ty scope} : (fenced s fe ty scope).mem = s.mem := by
  unfold fenced
  dsimp only
  repeat' split
  all_goals simp

@[simp] theorem beginWait_mem {s f} : (beginWait s f).mem = s.mem := by simp [beginWait]
@[simp] theorem endWait_mem {s fe w} : (endWait s fe w).mem = s.mem := by simp [endWait]
@[simp] theorem dropRewritten_mem {s fe scope} : (dropRewritten s fe scope).mem = s.mem := by simp [dropRewritten]

@[simp] theorem issueBasin_mem {s ea up} : (issueBasin s ea up).mem = s.mem := by
  unfold issueBasin
  split <;> simp

@[simp] theorem postBasin_mem {s ea} : (postBasin s ea).mem = s.mem := by
  unfold postBasin
  split <;> simp

@[simp] theorem submitLaunch_mem {s d cmd} : (submitLaunch s d cmd).mem = s.mem := by
  unfold submitLaunch
  dsimp only
  repeat' split
  all_goals simp

/-! ### System -/
@[simp] theorem queueCipher_mem {s isSeal x k} : (queueCipher s isSeal x k).mem = s.mem := by simp [queueCipher]
@[simp] theorem popCipher_mem {s fe num} : (popCipher s fe num).mem = s.mem := by simp [popCipher]

/-! ### Merge -/
@[simp] theorem beginGroup_mem {s x pair rival} : (beginGroup s x pair rival).mem = s.mem := by simp [beginGroup]
@[simp] theorem undoGroup_mem {s i} : (undoGroup s i).mem = s.mem := by simp [undoGroup]
@[simp] theorem State.modStops_mem {s fe f} : (State.modStops s fe f).mem = s.mem := by simp [State.modStops]

@[simp] theorem denied_mem {s fe} : (denied s fe).mem = s.mem := by
  unfold denied
  split <;> simp

@[simp] theorem commitEntry_mem {s i} : (commitEntry s i).mem = s.mem := by simp [commitEntry]

@[simp] theorem beginOther_mem {s fe} : (beginOther s fe).mem = s.mem := by
  unfold beginOther
  repeat' split
  all_goals simp

@[simp] theorem headCycle_mem {s fe} : (headCycle s fe).mem = s.mem := by
  unfold headCycle
  dsimp only
  repeat' split
  all_goals simp

@[simp] theorem idleCycle_mem {was s fe} : (idleCycle was s fe).mem = s.mem := by
  unfold idleCycle
  split <;> simp

@[simp] theorem issueCycle_mem {s core a b} : (issueCycle s core a b).mem = s.mem := by
  unfold issueCycle
  dsimp only
  repeat' split
  all_goals simp

@[simp] theorem mergeCycle_mem {s core} : (mergeCycle s core).mem = s.mem := by
  unfold mergeCycle
  dsimp only
  repeat' split
  all_goals simp

/-! ### Spout -/
@[simp] theorem setReady_mem {s fe q r} : (setReady s fe q r).mem = s.mem := by simp [setReady]

/-! ### Landing -/

@[simp] theorem giveScidx_mem {s fe} : (giveScidx s fe).mem = s.mem := by
  unfold giveScidx
  dsimp only
  repeat' split
  all_goals simp

@[simp] theorem amoAcquire_mem {s fe r place unit} : (amoAcquire s fe r place unit).mem = s.mem := by simp [amoAcquire]

@[simp] theorem amoRelease_mem {s fe r} : (amoRelease s fe r).mem = s.mem := by
  unfold amoRelease
  split <;> simp

@[simp] theorem State.modSb_mem {s fe f} : (State.modSb s fe f).mem = s.mem := by simp [State.modSb]
@[simp] theorem State.modMaint_mem {s fe f} : (State.modMaint s fe f).mem = s.mem := by simp [State.modMaint]

@[simp] theorem putMark_mem {s p} : (putMark s p).mem = s.mem := by
  unfold putMark
  split <;> simp

@[simp] theorem addLeaf_mem {s fe u l} : (addLeaf s fe u l).mem = s.mem := by
  unfold addLeaf
  split <;> simp

@[simp] theorem answered_mem {s fe u va deny} : (answered s fe u va deny).mem = s.mem := by simp [answered]
@[simp] theorem dropLeaves_mem {s stale} : (dropLeaves s stale).mem = s.mem := by simp [dropLeaves]
@[simp] theorem crownStores_mem {s core l} : (crownStores s core l).mem = s.mem := by simp [crownStores]

/-! ### Caches -/

@[simp] theorem strikeEcc_mem {s} : (strikeEcc s).mem = s.mem := by
  unfold strikeEcc
  dsimp only
  repeat' split
  all_goals simp

/-! ### Tasks -/
@[simp] theorem State.modTask_mem {s id f} : (State.modTask s id f).mem = s.mem := by simp [State.modTask]
@[simp] theorem State.dropTask_mem {s id} : (State.dropTask s id).mem = s.mem := by simp [State.dropTask]
@[simp] theorem mapKernel_mem {s fe k pages} : (mapKernel s fe k pages).mem = s.mem := by simp [mapKernel]
@[simp] theorem runGang_mem {s l} : (runGang s l).mem = s.mem := foldl_mem (fun _ _ => State.modCtx_mem ..) ..

@[simp] theorem preemptTask_mem {s id} : (preemptTask s id).mem = s.mem := by
  unfold preemptTask
  split
  · rfl
  · exact (foldl_mem (fun _ _ => State.modCtx_mem ..) ..).trans State.modTask_mem

@[simp] theorem setPort_mem {s die p} : (setPort s die p).mem = s.mem := by simp [setPort]
@[simp] theorem holdDies_mem {s t k} : (holdDies s t k).mem = s.mem := foldl_mem (fun _ _ => setPort_mem) ..

/-! ### Crown -/

@[simp] theorem killCmd_mem {s fe} : (killCmd s fe).mem = s.mem := by
  unfold killCmd
  dsimp only
  repeat' split
  all_goals simp

@[simp] theorem stopCmd_mem {s fe arg} : (stopCmd s fe arg).mem = s.mem := by
  unfold stopCmd
  dsimp only
  repeat' split
  all_goals simp

@[simp] theorem intrCmd_mem {s fe} : (intrCmd s fe).mem = s.mem := by
  unfold intrCmd
  dsimp only
  repeat' split
  all_goals simp

@[simp] theorem relchCmd_mem {s fe ch} : (relchCmd s fe ch).mem = s.mem := by
  unfold relchCmd
  dsimp only
  repeat' split
  all_goals simp

@[simp] theorem advanceEntry_mem {s i} : (advanceEntry s i).mem = s.mem := by simp [advanceEntry]

@[simp] theorem saveCmd_mem {s fe} : (saveCmd s fe).mem = s.mem := by
  unfold saveCmd
  dsimp only
  repeat' split
  all_goals simp

@[simp] theorem restEngines_mem {s fe} : (restEngines s fe).mem = s.mem := by simp [restEngines]

/-! ### Host -/
@[simp] theorem State.putCwq_mem {s w q x} : (State.putCwq s w q x).mem = s.mem := by simp [State.putCwq]

@[simp] theorem noteRequest_mem {s a b} : (noteRequest s a b).mem = s.mem := by
  unfold noteRequest
  dsimp only
  repeat' split
  all_goals simp

@[simp] theorem ringBell_mem {s port win q} : (ringBell s port win q).mem = s.mem := by
  unfold ringBell
  dsimp only
  repeat' split
  all_goals simp

@[simp] theorem silenceTask_mem {s id} : (silenceTask s id).mem = s.mem := by simp [silenceTask]
@[simp] theorem setBias_mem {s page b} : (setBias s page b).mem = s.mem := by simp [setBias]
@[simp] theorem setLink_mem {s blk l} : (setLink s blk l).mem = s.mem := by simp [setLink]

@[simp] theorem biasRun_mem {s blk n} : (biasRun s blk n).mem = s.mem := by
  induction n generalizing s with
  | zero => simp [biasRun]
  | succ n ih =>
    unfold biasRun
    dsimp only
    repeat' split
    all_goals simp [ih]

@[simp] theorem biasNext_mem {s page} : (biasNext s page).mem = s.mem := foldl_mem (fun _ _ => by simp) ..

@[simp] theorem biasGo_mem {s blk dir} : (biasGo s blk dir).mem = s.mem := by
  unfold biasGo
  dsimp only
  repeat' split
  all_goals simp

@[simp] theorem logUncertain_mem {s line} : (logUncertain s line).mem = s.mem := by
  unfold logUncertain
  split <;> simp

@[simp] theorem reissue_mem {s port} : (reissue s port).mem = s.mem := foldl_mem (fun _ _ => logUncertain_mem) ..
@[simp] theorem setPorts_mem {s port parked secure} : (setPorts s port parked secure).mem = s.mem := by simp [setPorts]
@[simp] theorem dropTenant_mem {s tenant} : (dropTenant s tenant).mem = s.mem := by simp [dropTenant]
@[simp] theorem foldl_emit_mem {α : Type} {f : α → Output} {l : List α} {s : State} :
    (l.foldl (fun s a => s.emit (f a)) s).mem = s.mem := foldl_mem (fun _ _ => State.emit_mem ..) ..

@[simp] theorem switchAgent_mem {s port i} : (switchAgent s port i).mem = s.mem := by
  unfold switchAgent
  dsimp only
  repeat' split
  all_goals simp

@[simp] theorem setRegion_mem {s n r} : (setRegion s n r).mem = s.mem := by simp [setRegion]

@[simp] theorem validateRegion_mem {s n word0} : (validateRegion s n word0).mem = s.mem := by
  unfold validateRegion
  dsimp only
  repeat' split
  all_goals simp

/-! ### Platform -/
@[simp] theorem setResync_mem {s b x} : (setResync s b x).mem = s.mem := by simp [setResync]

@[simp] theorem agentWrite_mem {s tenant data} : (agentWrite s tenant data).mem = s.mem := by
  unfold agentWrite
  dsimp only
  repeat' split
  all_goals simp

@[simp] theorem fillGo_mem {s die} : (fillGo s die).mem = s.mem := by
  unfold fillGo
  dsimp only
  repeat' split
  all_goals simp

@[simp] theorem fillControl_mem {s die data} : (fillControl s die data).mem = s.mem := by
  unfold fillControl
  split <;> simp

/-! ### Mmio -/

@[simp] theorem writeRegion_mem {s who n word data} : (writeRegion s who n word data).mem = s.mem := by
  unfold writeRegion
  dsimp only
  repeat' split
  all_goals simp

@[simp] theorem writeAperture_mem {s who blk o data} : (writeAperture s who blk o data).mem = s.mem := by
  unfold writeAperture
  split <;> simp

@[simp] theorem writeDctl_mem {s data} : (writeDctl s data).mem = s.mem := by simp [writeDctl]
@[simp] theorem writeOwner_mem {s n data} : (writeOwner s n data).mem = s.mem := by simp [writeOwner]
@[simp] theorem writeTrctl_mem {s data} : (writeTrctl s data).mem = s.mem := by simp [writeTrctl]

@[simp] theorem writeFill_mem {s die o data} : (writeFill s die o data).mem = s.mem := by
  unfold writeFill
  dsimp only
  repeat' split
  all_goals simp

@[simp] theorem writeTrapRing_mem {s k o data} : (writeTrapRing s k o data).mem = s.mem := by
  unfold writeTrapRing
  dsimp only
  repeat' split
  all_goals simp

/-! ### Routine -/

@[simp] theorem microWait_mem {s r w} : (microWait s r w).mem = s.mem := by
  unfold microWait
  split <;> simp

@[simp] theorem deliver_mem {s l} : (deliver s l).mem = s.mem := by
  induction l generalizing s with
  | nil => rfl
  | cons a t ih =>
    unfold deliver
    dsimp only
    rw [ih]
    split <;> simp

@[simp] theorem wakeRun_mem {s fe r} : (wakeRun s fe r).mem = s.mem := by simp [wakeRun]

@[simp] theorem countWait_mem {s fe} : (countWait s fe).mem = s.mem := by
  unfold countWait
  repeat' split
  all_goals simp

/-! ### Softmax -/
@[simp] theorem State.modSm_mem {s f} : (State.modSm s f).mem = s.mem := by simp [State.modSm]

/-! ### Schedule -/

@[simp] theorem tick_mem {s} : (tick s).mem = s.mem := by
  unfold tick
  exact foldl_mem (fun _ _ => by simp) ..

end Sys2Proof.Machine
end

section
/-! SUPPORT. The shared operations that may write memory: each keeps its canonical form (R3, R213, R232, R255). A lemma
about an operation that goes on by a given function asks that this function keeps the form from the state that it gets.
Where a lemma of the state that holds by rfl meets a side condition, `simp` is told to leave a proof of it
(`-implicitDefEqProofs`): a side condition is checked up to reducible unfolding only. -/
namespace Sys2Proof.Machine

/-- Memory is in canonical form (assumption log 1): `memWf`, as one fact that `simp` does not take apart. -/
def Canonical (m : List Host.Cell) : Prop := memWf m
theorem canonical_iff {m : List Host.Cell} : Canonical m ↔ memWf m := Iff.rfl

/-! ### Memory -/
@[simp] theorem canonical_memWrites {m : List Host.Cell} {k : Nat} {l : List Byte} (h : Canonical m) :
    Canonical (memWrites m k l) := memWf_memWrites k l h
@[simp] theorem canonical_memWrite {m : List Host.Cell} {k : Nat} {b : Byte} (h : Canonical m) : Canonical (memWrite m k b) :=
  memWf_memWrite k b h
@[simp] theorem canonical_filter {m : List Host.Cell} {p : Host.Cell → Bool} (h : Canonical m) : Canonical (m.filter p) :=
  memWf_filter p h

@[simp] theorem canonical_foldl_memWrite {m : List Host.Cell} {l : List (Nat × Byte)} (h : Canonical m) :
    Canonical (l.foldl (fun m x => memWrite m x.1 x.2) m) := by
  induction l generalizing m with
  | nil => exact h
  | cons x t ih => exact ih (canonical_memWrite h)

/-- A fold of operations that keep the canonical form keeps it. -/
theorem canonical_foldl {α : Type} {f : State → α → State} (hf : ∀ s a, Canonical s.mem → Canonical (f s a).mem)
    (l : List α) {s : State} (h : Canonical s.mem) : Canonical (l.foldl f s).mem := by
  induction l generalizing s with
  | nil => exact h
  | cons a t ih => exact ih (hf s a h)

/-! ### Ops -/

@[simp] theorem canonical_traceEv {s e} (h : Canonical s.mem) : Canonical (State.traceEv s e).mem := by
  unfold State.traceEv
  split
  · exact h
  · split
    · exact h
    · exact canonical_memWrites h

@[simp] theorem canonical_hostEvent {s n o rec} (h : Canonical s.mem) : Canonical (hostEvent s n o rec).mem := by
  unfold hostEvent
  dsimp only
  split
  · simpa using canonical_memWrites h
  · simpa using h

@[simp] theorem canonical_raiseEvent {s n rec} (h : Canonical s.mem) : Canonical (raiseEvent s n rec).mem := by
  unfold raiseEvent
  dsimp only
  repeat' split
  all_goals simp -implicitDefEqProofs [h]

@[simp] theorem canonical_traceFreeze {s e code} (h : Canonical s.mem) : Canonical (State.traceFreeze s e code).mem := by
  unfold State.traceFreeze
  split <;> simp [h]

@[simp] theorem canonical_writeRec {s fe r} (h : Canonical s.mem) : Canonical (writeRec s fe r).mem := by
  simp -implicitDefEqProofs [writeRec, canonical_memWrites h]

@[simp] theorem canonical_putRec {s fe r} (h : Canonical s.mem) : Canonical (putRec s fe r).mem := by
  unfold putRec
  dsimp only
  repeat' split
  all_goals simp [h]

@[simp] theorem canonical_trapB {s fe cause mask prov word addr} (h : Canonical s.mem) :
    Canonical (trapB s fe cause mask prov word addr).mem := by simp -implicitDefEqProofs [trapB, h]

@[simp] theorem canonical_trapG {s fe cause sw word addr} (h : Canonical s.mem) :
    Canonical (trapG s fe cause sw word addr).mem := by
  unfold trapG
  repeat' split
  all_goals simp [h]

@[simp] theorem canonical_trapEngine {s fe cause isCh ch prov word addr chan idx} (h : Canonical s.mem) :
    Canonical (trapEngine s fe cause isCh ch prov word addr chan idx).mem := by simp [trapEngine, h]
@[simp] theorem canonical_trapAsync {s fe cause eng sw} (h : Canonical s.mem) :
    Canonical (trapAsync s fe cause eng sw).mem := by simp [trapAsync, h]

@[simp] theorem canonical_opFault {s slot cause addr} (h : Canonical s.mem) : Canonical (opFault s slot cause addr).mem := by
  unfold opFault
  split <;> simp [h]

@[simp] theorem canonical_reservedZero {s slot ok r} (h : Canonical s.mem) (hr : Canonical r.mem) :
    Canonical (reservedZero s slot ok r).mem := by
  unfold reservedZero
  split <;> simp [h, hr]

@[simp] theorem canonical_guardedOp {s slot hd ok f} (h : Canonical s.mem) (hf : Canonical (f s).mem) :
    Canonical (guardedOp s slot hd ok f).mem := by
  unfold guardedOp
  dsimp only
  repeat' split
  all_goals simp [h, hf]

@[simp] theorem canonical_laneOp {s slot hd ok f} (h : Canonical s.mem) (hf : Canonical (f s).mem) :
    Canonical (laneOp s slot hd ok f).mem := by
  unfold laneOp
  repeat' split
  all_goals simp [h, hf]

/-! ### Scalar -/

@[simp] theorem canonical_landScalar {s slot lat d v bs poison} (h : Canonical s.mem) :
    Canonical (landScalar s slot lat d v bs poison).mem := by
  unfold landScalar
  split <;> simp [h]

@[simp] theorem canonical_landPred {s slot lat d v bs poison} (h : Canonical s.mem) :
    Canonical (landPred s slot lat d v bs poison).mem := by
  unfold landPred
  split <;> simp [h]

@[simp] theorem canonical_scalarRR {hd lat d a b f s} (h : Canonical s.mem) : Canonical (scalarRR hd lat d a b f s).mem := by
  simp [scalarRR, h]
@[simp] theorem canonical_scalarR {hd ok d a f s} (h : Canonical s.mem) : Canonical (scalarR hd ok d a f s).mem := by
  simp [scalarR, h]
@[simp] theorem canonical_scalarI {hd ok lat d a f s} (h : Canonical s.mem) : Canonical (scalarI hd ok lat d a f s).mem := by
  simp [scalarI, h]
@[simp] theorem canonical_scalarCmp {hd d a b f s} (h : Canonical s.mem) : Canonical (scalarCmp hd d a b f s).mem := by
  simp [scalarCmp, h]
@[simp] theorem canonical_scalarCmpI {hd d a f s} (h : Canonical s.mem) : Canonical (scalarCmpI hd d a f s).mem := by
  simp [scalarCmpI, h]
@[simp] theorem canonical_predRR {hd d a b f s} (h : Canonical s.mem) : Canonical (predRR hd d a b f s).mem := by
  simp [predRR, h]

/-! ### LoopEngine -/

@[simp] theorem canonical_loopSetup {hd ok f s} (h : Canonical s.mem) (hf : Canonical (f s).mem) :
    Canonical (loopSetup hd ok f s).mem := by
  refine canonical_guardedOp h ?_
  split <;> simp [h, hf]

/-! ### Mem -/
@[simp] theorem canonical_mediaEvents {s src line e} (h : Canonical s.mem) : Canonical (mediaEvents s src line e).mem :=
  canonical_foldl (fun _ _ h => by simp -implicitDefEqProofs [h]) _ h

@[simp] theorem canonical_fillLine {s fe l k} (h : Canonical s.mem) : Canonical (fillLine s fe l k).mem := by
  unfold fillLine
  repeat' split
  all_goals simp -implicitDefEqProofs [h]

@[simp] theorem canonical_mediaTaken {s fe u cause ea} (h : Canonical s.mem) :
    Canonical (mediaTaken s fe u cause ea).mem := by
  unfold mediaTaken
  dsimp only
  repeat' split
  all_goals simp -implicitDefEqProofs [h]

@[simp] theorem canonical_touchLine {s fe l k} (h : Canonical s.mem) : Canonical (touchLine s fe l k).mem := by
  unfold touchLine
  dsimp only
  repeat' split
  all_goals simp [h]

@[simp] theorem canonical_performBytes {s fe cls l} (h : Canonical s.mem) : Canonical (performBytes s fe cls l).mem := by
  induction l generalizing s with
  | nil => exact h
  | cons a t ih =>
    unfold performBytes
    refine ih ?_
    repeat' split
    all_goals simp [h]

@[simp] theorem canonical_performStoreAs {s fe agent rel e} (h : Canonical s.mem) :
    Canonical (performStoreAs s fe agent rel e).mem := by
  unfold performStoreAs
  dsimp only
  repeat' split
  all_goals simp [h]

@[simp] theorem canonical_performStore {s fe e} (h : Canonical s.mem) : Canonical (performStore s fe e).mem := by
  simp [performStore, h]

@[simp] theorem canonical_performOrPark {s fe agent rel e} (h : Canonical s.mem) :
    Canonical (performOrPark s fe agent rel e).mem := by
  unfold performOrPark
  repeat' split
  all_goals simp [h]

@[simp] theorem canonical_touchPieces {s fe u ps} (h : Canonical s.mem) : Canonical (touchPieces s fe u ps).mem :=
  canonical_foldl (fun _ _ h => by split <;> simp [h]) _ h
@[simp] theorem canonical_accFault {s slot f} (h : Canonical s.mem) : Canonical (accFault s slot f).mem := by
  simp -implicitDefEqProofs [accFault, h]

/-! ### Operands -/

@[simp] theorem canonical_loadSpm {s slot lat r} (h : Canonical s.mem) : Canonical (loadSpm s slot lat r).mem := by
  unfold loadSpm
  dsimp only
  repeat' split
  all_goals simp [h]

@[simp] theorem canonical_loadAt {s slot dst base ea b strong scope} (h : Canonical s.mem) :
    Canonical (loadAt s slot dst base ea b strong scope).mem := by
  unfold loadAt
  repeat' split
  all_goals simp [h]

/-! ### LoadStore -/

@[simp] theorem canonical_laneLoad {s hd d w poison addr} (h : Canonical s.mem) :
    Canonical (laneLoad s hd d w poison addr).mem := by
  unfold laneLoad
  dsimp only
  repeat' split
  all_goals simp [h]

@[simp] theorem canonical_lsqTouch {s strong scope ps} (h : Canonical s.mem) :
    Canonical (lsqTouch s strong scope ps).mem := by simp [lsqTouch, h]

@[simp] theorem canonical_storeMem {s slot ea band strong scope data ps} (h : Canonical s.mem) :
    Canonical (storeMem s slot ea band strong scope data ps).mem := by
  unfold storeMem
  dsimp only
  repeat' split
  all_goals simp [h]

@[simp] theorem canonical_storeSpm {s slot ea band lines data} (h : Canonical s.mem) :
    Canonical (storeSpm s slot ea band lines data).mem := by
  unfold storeSpm
  split <;> simp [h]

@[simp] theorem canonical_storeAt {s base ea n band strong scope data} (h : Canonical s.mem) :
    Canonical (storeAt s base ea n band strong scope data).mem := by
  unfold storeAt
  repeat' split
  all_goals simp [h]

@[simp] theorem canonical_maintOp {s hd base size scope off op write} (h : Canonical s.mem) :
    Canonical (maintOp s hd base size scope off op write).mem := by
  refine canonical_guardedOp h ?_
  dsimp only
  repeat' split
  all_goals simp [h]

/-! ### Milliner -/
@[simp] theorem canonical_genFault {s cause addr} (h : Canonical s.mem) : Canonical (genFault s cause addr).mem := by
  simp [genFault, h]
@[simp] theorem canonical_genIllegal {s} (h : Canonical s.mem) : Canonical (genIllegal s).mem := by simp [genIllegal, h]

@[simp] theorem canonical_genResult {s d v bs poison} (h : Canonical s.mem) : Canonical (genResult s d v bs poison).mem := by
  unfold genResult
  split <;> simp [h]

@[simp] theorem canonical_genRR {s d a b f} (h : Canonical s.mem) : Canonical (genRR s d a b f).mem := by simp [genRR, h]
@[simp] theorem canonical_genRI {s d a f} (h : Canonical s.mem) : Canonical (genRI s d a f).mem := by simp [genRI, h]

@[simp] theorem canonical_genBranch {s a b o f} (h : Canonical s.mem) : Canonical (genBranch s a b o f).mem := by
  unfold genBranch
  dsimp only
  repeat' split
  all_goals simp [h]

@[simp] theorem canonical_genAccess {s x ea write f} (h : Canonical s.mem) (hf : ∀ l, Canonical (f s l).mem) :
    Canonical (genAccess s x ea write f).mem := by
  unfold genAccess
  repeat' split
  all_goals simp -implicitDefEqProofs [h, hf]

@[simp] theorem canonical_patch {s b slot sel v band} (h : Canonical s.mem) : Canonical (patch s b slot sel v band).mem := by
  unfold patch
  dsimp only
  repeat' split
  all_goals simp [h]

@[simp] theorem canonical_emitGroup {s words band} (h : Canonical s.mem) : Canonical (emitGroup s words band).mem := by
  unfold emitGroup
  repeat' split
  all_goals simp [h]

@[simp] theorem canonical_emitrGo {s d n band k} (h : Canonical s.mem) : Canonical (emitrGo s d n band k).mem := by
  induction k generalizing s with
  | zero => simp [emitrGo, h]
  | succ k ih =>
    unfold emitrGo
    dsimp only
    repeat' split
    all_goals simp [h, ih]

/-! ### Window -/

@[simp] theorem canonical_bufferOp {s slot x} (h : Canonical s.mem) : Canonical (bufferOp s slot x).mem := by
  unfold bufferOp
  dsimp only
  repeat' split
  all_goals simp [h]

@[simp] theorem canonical_engineOp {s slot hd ok a b c f} (h : Canonical s.mem) (hf : ∀ x, Canonical (f x s).mem) :
    Canonical (engineOp s slot hd ok a b c f).mem := by
  unfold engineOp
  split
  · exact hf _
  · refine canonical_guardedOp h ?_
    dsimp only
    split <;> simp [h, hf]

@[simp] theorem canonical_resolveWindow {s fe} (h : Canonical s.mem) : Canonical (resolveWindow s fe).mem := by
  unfold resolveWindow
  dsimp only
  repeat' split
  all_goals simp [h]

/-! ### Matrix -/
@[simp] theorem canonical_mtrap {s fe r cause word addr} (h : Canonical s.mem) :
    Canonical (mtrap s fe r cause word addr).mem := by simp [mtrap, h]

/-! ### Basin -/
@[simp] theorem canonical_putWord8 {s k w} (h : Canonical s.mem) : Canonical (State.putWord8 s k w).mem := by
  simp [State.putWord8, h]
@[simp] theorem canonical_decSignal {s agent scope c key w} (h : Canonical s.mem) :
    Canonical (decSignal s agent scope c key w).mem := by simp [decSignal, h]

@[simp] theorem canonical_basinTrap {s m cause} (h : Canonical s.mem) : Canonical (basinTrap s m cause).mem := by
  unfold basinTrap
  split <;> simp [h]

@[simp] theorem canonical_applyBasin {s m} (h : Canonical s.mem) : Canonical (applyBasin s m).mem := by
  unfold applyBasin
  repeat' split
  all_goals simp [h]

@[simp] theorem canonical_arriveBasin {s idx want} (h : Canonical s.mem) : Canonical (arriveBasin s idx want).mem := by
  unfold arriveBasin
  repeat' split
  all_goals simp [h]

/-! ### MatrixOps -/

@[simp] theorem canonical_startDrain {s fe r} (h : Canonical s.mem) : Canonical (startDrain s fe r).mem := by
  unfold startDrain
  dsimp only
  repeat' split
  all_goals simp [h]

@[simp] theorem canonical_resumeMatrix {s fe} (h : Canonical s.mem) : Canonical (resumeMatrix s fe).mem := by
  unfold resumeMatrix
  dsimp only
  repeat' split
  all_goals simp [h]

@[simp] theorem canonical_startCall {s cmd flags rout k} (h : Canonical s.mem) :
    Canonical (startCall s cmd flags rout k).mem := by
  unfold startCall
  dsimp only
  repeat' split
  all_goals simp [h]

@[simp] theorem canonical_startMdrain {s cmd} (h : Canonical s.mem) : Canonical (startMdrain s cmd).mem := by
  unfold startMdrain
  split <;> simp [h]

@[simp] theorem canonical_startPlain {s cmd} (h : Canonical s.mem) : Canonical (startPlain s cmd).mem := by
  unfold startPlain
  split <;> simp [h]

@[simp] theorem canonical_completeCmd {s fe} (h : Canonical s.mem) : Canonical (completeCmd s fe).mem := by
  unfold completeCmd
  dsimp only
  repeat' split
  all_goals simp [h]

/-! ### Weir -/

@[simp] theorem canonical_loadSegment {s seg ea tag d} (h : Canonical s.mem) :
    Canonical (loadSegment s seg ea tag d).mem := by
  unfold loadSegment
  dsimp only
  repeat' split
  all_goals simp [h]

@[simp] theorem canonical_setLock {s hd seg v} (h : Canonical s.mem) : Canonical (setLock s hd seg v).mem := by
  refine canonical_guardedOp h ?_
  split <;> simp [h]

/-! ### Copy -/

@[simp] theorem canonical_copyOp {s hd ok a b c ch f} (h : Canonical s.mem) (hf : ∀ x, Canonical (f x s).mem) :
    Canonical (copyOp s hd ok a b c ch f).mem := by
  refine canonical_engineOp h fun x => ?_
  split <;> simp [h, hf]

@[simp] theorem canonical_commitCopy {s ch e} (h : Canonical s.mem) : Canonical (commitCopy s ch e).mem := by
  unfold commitCopy
  dsimp only
  repeat' split
  all_goals simp [h]

@[simp] theorem canonical_copyWriteBytes {s fe lf k l} (h : Canonical s.mem) : Canonical (copyWriteBytes s fe lf k l).mem := by
  induction l generalizing s k with
  | nil => exact h
  | cons b t ih =>
    unfold copyWriteBytes
    split
    · exact ih h
    · exact ih (by simp [h])

@[simp] theorem canonical_landBeat {s fe ch dst e bytes poison form} (h : Canonical s.mem) :
    Canonical (landBeat s fe ch dst e bytes poison form).mem := by
  unfold landBeat
  repeat' split
  all_goals simp [h]

@[simp] theorem canonical_fill {s fe x2} (h : Canonical s.mem) : Canonical (CLoc.fill s fe x2).mem := by
  unfold CLoc.fill
  split <;> simp [h]

@[simp] theorem canonical_parkChan {s fe ch x e cause ea} (h : Canonical s.mem) :
    Canonical (parkChan s fe ch x e cause ea).mem := by simp -implicitDefEqProofs [parkChan, h]

@[simp] theorem canonical_chanFault {s fe ch x e cause ea} (h : Canonical s.mem) :
    Canonical (chanFault s fe ch x e cause ea).mem := by
  unfold chanFault
  split <;> simp [h]

@[simp] theorem canonical_chargeBeat {s fe ch e n} (h : Canonical s.mem) : Canonical (chargeBeat s fe ch e n).mem := by
  unfold chargeBeat
  repeat' split
  all_goals simp [h]

@[simp] theorem canonical_hopFailed {s fe e} (h : Canonical s.mem) : Canonical (hopFailed s fe e).mem := by
  simp -implicitDefEqProofs [hopFailed, h]

/-! ### Sync -/

@[simp] theorem canonical_afterRelease {s scope f} (h : Canonical s.mem) (hf : Canonical (f s).mem) :
    Canonical (afterRelease s scope f).mem := by
  unfold afterRelease
  split
  · exact hf
  · simp [h]

@[simp] theorem canonical_faultWait {s fe cause ea} (h : Canonical s.mem) : Canonical (faultWait s fe cause ea).mem := by
  unfold faultWait
  split <;> simp -implicitDefEqProofs [h]

@[simp] theorem canonical_withSig {s x write f} (h : Canonical s.mem) (hf : ∀ l k, Canonical (f s l k).mem) :
    Canonical (withSig s x write f).mem := by
  unfold withSig
  repeat' split
  all_goals simp [h, hf]

@[simp] theorem canonical_withBasin {s x f} (h : Canonical s.mem) (hf : Canonical (f s).mem) :
    Canonical (withBasin s x f).mem := by
  unfold withBasin
  repeat' split
  all_goals simp [h, hf]

@[simp] theorem canonical_waitRead {s fe ea f} (h : Canonical s.mem)
    (hf : ∀ l k w, Canonical (f (noteStrong s fe (Leaf.wide l) none (k / 8)) l w).mem) :
    Canonical (waitRead s fe ea f).mem := by
  unfold waitRead
  dsimp only
  repeat' split
  all_goals simp [h, hf]

/-! ### System -/

@[simp] theorem canonical_cipherOp {hd a b c k isSeal src dst s} (h : Canonical s.mem) :
    Canonical (cipherOp hd a b c k isSeal src dst s).mem := by
  refine canonical_engineOp h fun x => ?_
  dsimp only
  split <;> simp [h]

/-! ### Vector -/

@[simp] theorem canonical_vecOp {s vb hd ok srcs f} (h : Canonical s.mem)
    (hf : ∀ vs, Canonical (f (s.modCtx s.cur (fun c => srcs.foldl popSrc c)) vs).mem) :
    Canonical (vecOp s vb hd ok srcs f).mem := by
  refine canonical_laneOp h ?_
  split <;> simp [h, hf]

@[simp] theorem canonical_landVec {s vb hd lat d bits mask poison bands keep nan ovf} (h : Canonical s.mem) :
    Canonical (landVec s vb hd lat d bits mask poison bands keep nan ovf).mem := by
  unfold landVec
  dsimp only
  repeat' split
  all_goals simp [h]

@[simp] theorem canonical_vecLane {s vb hd lat w d srcs f} (h : Canonical s.mem) :
    Canonical (vecLane s vb hd lat w d srcs f).mem := by simp -implicitDefEqProofs [vecLane, h]
@[simp] theorem canonical_vecInt {s vb hd lat t d a b f} (h : Canonical s.mem) :
    Canonical (vecInt s vb hd lat t d a b f).mem := by simp [vecInt, h]
@[simp] theorem canonical_vecBits {s vb hd t d a b f} (h : Canonical s.mem) : Canonical (vecBits s vb hd t d a b f).mem := by
  simp [vecBits, h]
@[simp] theorem canonical_vecFp {s vb hd lat t d srcs rms f} (h : Canonical s.mem) :
    Canonical (vecFp s vb hd lat t d srcs rms f).mem := by simp [vecFp, h]

@[simp] theorem canonical_vecCmp {s vb hd ok lat w d a b f} (h : Canonical s.mem) :
    Canonical (vecCmp s vb hd ok lat w d a b f).mem := by
  refine canonical_vecOp h fun vs => ?_
  dsimp only
  split <;> simp -implicitDefEqProofs [h]

@[simp] theorem canonical_landBits {s vb hd lat d new wmask poison bands nan ovf} (h : Canonical s.mem) :
    Canonical (landBits s vb hd lat d new wmask poison bands nan ovf).mem := by simp [landBits, h]
@[simp] theorem canonical_vecReduce {s vb hd t d a lseg f} (h : Canonical s.mem) :
    Canonical (vecReduce s vb hd t d a lseg f).mem :=
  canonical_vecOp h fun _ => canonical_landVec (by simpa using h)
@[simp] theorem canonical_vecPick {s vb hd ok t d srcs idx pick} (h : Canonical s.mem) :
    Canonical (vecPick s vb hd ok t d srcs idx pick).mem := by simp -implicitDefEqProofs [vecPick, h]
@[simp] theorem canonical_vecAlg {s vb hd t d srcs rms f} (h : Canonical s.mem) :
    Canonical (vecAlg s vb hd t d srcs rms f).mem := by simp -implicitDefEqProofs [vecAlg, h]

/-! ### Merge -/
@[simp] theorem canonical_stopAt {s fe cause eng sw} (h : Canonical s.mem) : Canonical (stopAt s fe cause eng sw).mem := by
  simp [stopAt, h]
@[simp] theorem canonical_silentStop {s fe} (h : Canonical s.mem) : Canonical (silentStop s fe).mem := by simp [silentStop, h]

@[simp] theorem canonical_takeStop {s fe} (h : Canonical s.mem) : Canonical (takeStop s fe).mem := by
  unfold takeStop
  dsimp only
  repeat' split
  all_goals simp [h]

@[simp] theorem canonical_debugStop {s fe} (h : Canonical s.mem) : Canonical (debugStop s fe).mem := by simp [debugStop, h]

@[simp] theorem canonical_faultGroup {s i fs} (h : Canonical s.mem) : Canonical (faultGroup s i fs).mem := by
  unfold faultGroup
  dsimp only
  repeat' split
  all_goals simp [h]

@[simp] theorem canonical_freezeBefore {s i f} (h : Canonical s.mem) : Canonical (freezeBefore s i f).mem := by
  unfold freezeBefore
  split <;> simp [h]

@[simp] theorem canonical_commitGroup {s i} (h : Canonical s.mem) : Canonical (commitGroup s i).mem := by
  unfold commitGroup
  dsimp only
  repeat' split
  all_goals simp [h]

@[simp] theorem canonical_finishGroup {s fe} (h : Canonical s.mem) : Canonical (finishGroup s fe).mem := by
  unfold finishGroup
  repeat' split
  all_goals simp [h]

/-! ### Spout -/
@[simp] theorem canonical_spoutFill {s fe st} (h : Canonical s.mem) : Canonical (spoutFill s fe st).mem :=
  canonical_foldl (fun _ _ h => by split <;> simp [h]) _ (by simp [h])

/-! ### Landing -/

@[simp] theorem canonical_landAll {s fe flags n} (h : Canonical s.mem) : Canonical (landAll s fe flags n).mem := by
  induction n generalizing s flags with
  | zero => exact h
  | succ n ih =>
    unfold landAll
    dsimp only
    repeat' split
    all_goals simp -implicitDefEqProofs [h, ih]

@[simp] theorem canonical_landContext {s fe} (h : Canonical s.mem) : Canonical (landContext s fe).mem := by
  unfold landContext
  dsimp only
  repeat' split
  all_goals simp [h]

@[simp] theorem canonical_arrive {s fe p r} (h : Canonical s.mem) : Canonical (arrive s fe p r).mem := by
  unfold arrive
  dsimp only
  repeat' split
  all_goals simp -implicitDefEqProofs [h]

@[simp] theorem canonical_audit {s fe ea key old prov} (h : Canonical s.mem) :
    Canonical (audit s fe ea key old prov).mem := by simp [audit, h]

@[simp] theorem canonical_tagFault {s fe e} (h : Canonical s.mem) : Canonical (tagFault s fe e).mem := by
  unfold tagFault
  dsimp only
  repeat' split
  all_goals simp -implicitDefEqProofs [h]

@[simp] theorem canonical_renew {s fe va check gone go} (h : Canonical s.mem) (hgone : Canonical (gone s).mem)
    (hgo : ∀ l, Canonical (go s l).mem) : Canonical (renew s fe va check gone go).mem := by
  unfold renew
  dsimp only
  repeat' split
  all_goals simp -implicitDefEqProofs [h, hgone, hgo]

@[simp] theorem foldl_putMark_mem {l : List (Nat × Bool)} {s : State} : (l.foldl putMark s).mem = s.mem :=
  foldl_mem (fun _ _ => putMark_mem) ..
@[simp] theorem foldl_mediaWritten_mem {α : Type} {l : List α} {s : State} {n : Nat} {f : α → Nat} :
    (l.foldl (fun s x => mediaWritten s n (f x)) s).mem = s.mem := foldl_mem (fun _ _ => mediaWritten_mem) ..

@[simp] theorem canonical_maintain {s fe m} (h : Canonical s.mem) : Canonical (maintain s fe m).mem := by
  unfold maintain
  dsimp only
  repeat' split
  all_goals simp [h]

@[simp] theorem canonical_hwRead {s a n} (h : Canonical s.mem) : Canonical (hwRead s a n).mem :=
  canonical_foldl (fun _ _ h => by repeat' split
                                   all_goals simp [h]) _ h

@[simp] theorem canonical_putPrirc {s fe code} (h : Canonical s.mem) : Canonical (putPrirc s fe code).mem := by
  unfold putPrirc
  dsimp only
  repeat' split
  all_goals simp [h]

@[simp] theorem canonical_resumeCtx {s fe} (h : Canonical s.mem) : Canonical (resumeCtx s fe).mem := by
  unfold resumeCtx
  dsimp only
  repeat' split
  all_goals simp -implicitDefEqProofs [h]

@[simp] theorem canonical_releasePri {s fe} (h : Canonical s.mem) : Canonical (releasePri s fe).mem := by
  unfold releasePri
  dsimp only
  repeat' split
  all_goals simp [h]

/-! ### Caches -/
@[simp] theorem canonical_giveUpLine {s n line whole} (h : Canonical s.mem) : Canonical (giveUpLine s n line whole).mem := by
  simp [giveUpLine, h]

@[simp] theorem canonical_giveUpSome {k whole n l s} (h : Canonical s.mem) : Canonical (giveUpSome k whole n l s).mem := by
  induction n generalizing l s with
  | zero => simpa [giveUpSome] using h
  | succ n ih =>
    cases l with
    | nil => simpa [giveUpSome] using h
    | cons a t => exact ih (by simp [h])

@[simp] theorem canonical_keepRoom {s k} (h : Canonical s.mem) : Canonical (keepRoom s k).mem := by simp [keepRoom, h]

@[simp] theorem canonical_foldl_keepRoom {l : List (Nat × Cluster)} {s : State} (h : Canonical s.mem) :
    Canonical (l.foldl (fun s p => keepRoom s p.1) s).mem := by
  induction l generalizing s with
  | nil => exact h
  | cons p t ih =>
    rw [List.foldl_cons]
    exact ih (canonical_keepRoom h)

@[simp] theorem canonical_evictLines {s} (h : Canonical s.mem) : Canonical (evictLines s).mem := by
  have hk := canonical_foldl_keepRoom (l := s.clusters) h
  unfold evictLines
  generalize s.clusters.foldl (fun s p => keepRoom s p.1) s = t at hk
  dsimp only
  repeat' split
  all_goals simp [hk]

/-! ### Tasks -/
@[simp] theorem canonical_taskEvent {s id code} (h : Canonical s.mem) : Canonical (taskEvent s id code).mem := by
  simp [taskEvent, h]

@[simp] theorem canonical_statusSet {s sig status} (h : Canonical s.mem) : Canonical (statusSet s sig status).mem := by
  unfold statusSet
  split <;> simp [h]

@[simp] theorem canonical_taskDone {s t} (h : Canonical s.mem) : Canonical (taskDone s t).mem := by
  unfold taskDone
  split <;> simp [h]

@[simp] theorem canonical_bindCtx {s t k x scidx} (h : Canonical s.mem) : Canonical (bindCtx s t k x scidx).mem := by
  simp [bindCtx, h]

@[simp] theorem canonical_bindGang {s t k place} (h : Canonical s.mem) : Canonical (bindGang s t k place).mem := by
  unfold bindGang
  refine canonical_taskEvent ?_
  simpa using canonical_foldl (fun _ _ h => canonical_bindCtx h) _ h

@[simp] theorem canonical_acceptTask {s cmd prio tenant queue origin parent sync} (h : Canonical s.mem) :
    Canonical (acceptTask s cmd prio tenant queue origin parent sync).1.mem := by
  unfold acceptTask
  dsimp only
  split
  · exact canonical_taskEvent (canonical_statusSet (canonical_taskEvent h))
  · exact canonical_taskEvent h

@[simp] theorem canonical_setCwq {s w q x} (h : Canonical s.mem) : Canonical (State.setCwq s w q x).mem := by
  simp [State.setCwq, h]

@[simp] theorem canonical_handleEntry {s w q cmd} (h : Canonical s.mem) : Canonical (handleEntry s w q cmd).mem := by
  have hrefused : ∀ x e, Canonical ((s.setCwq w q x).countError.traceEv e).mem := by simp -implicitDefEqProofs [h]
  unfold handleEntry
  dsimp only
  repeat' split
  all_goals simp -implicitDefEqProofs [h, hrefused]

@[simp] theorem canonical_abandonTask {s t} (h : Canonical s.mem) : Canonical (abandonTask s t).mem := by simp [abandonTask, h]

@[simp] theorem canonical_taskLeft {s id} (h : Canonical s.mem) : Canonical (taskLeft s id).mem := by
  unfold taskLeft
  repeat' split
  all_goals simp [h]

@[simp] theorem foldl_setLinePoison_mem {α : Type} {l : List α} {s : State} {k : α → Nat} {p : α → Bool} :
    (l.foldl (fun s x => State.setLinePoison s (k x) (p x)) s).mem = s.mem :=
  foldl_mem (fun _ _ => State.setLinePoison_mem ..) ..
@[simp] theorem canonical_fillBytes {s die p n} (h : Canonical s.mem) : Canonical (fillBytes s die p n).mem := by
  simp [fillBytes, h]

@[simp] theorem canonical_fillFails {s die n} (h : Canonical s.mem) : Canonical (fillFails s die n).mem := by
  have hfilled : ∀ p k e, Canonical ((fillBytes s die.toNat p k).traceEv e).mem := by simp [h]
  unfold fillFails
  dsimp only
  repeat' split
  all_goals simp [hfilled]

/-! ### Crown -/

@[simp] theorem canonical_resumeCmd {s fe} (h : Canonical s.mem) : Canonical (resumeCmd s fe).mem := by
  unfold resumeCmd
  dsimp only
  repeat' split
  all_goals simp [h]

@[simp] theorem canonical_putImageBytes {s a l} (h : Canonical s.mem) : Canonical (putImageBytes s a l).mem := by
  simp [putImageBytes, h]

@[simp] theorem canonical_writeImage {s fe} (h : Canonical s.mem) : Canonical (writeImage s fe).mem := by
  unfold writeImage
  dsimp only
  repeat' split
  all_goals simp [h]

@[simp] theorem canonical_unbindCmd {s fe} (h : Canonical s.mem) : Canonical (unbindCmd s fe).mem := by
  unfold unbindCmd
  dsimp only
  repeat' split
  all_goals simp [h]

@[simp] theorem canonical_restoreOne {s fe a} (h : Canonical s.mem) : Canonical (restoreOne s fe a).1.mem := by
  unfold restoreOne
  dsimp only
  repeat' split
  all_goals simp [h]

@[simp] theorem foldl_departCtx_mem {l : List FeId} {s : State} : (l.foldl departCtx s).mem = s.mem :=
  foldl_mem (fun _ _ => departCtx_mem) ..

@[simp] theorem canonical_restoreRefused {s id fe st} (h : Canonical s.mem) : Canonical (restoreRefused s id fe st).mem := by
  unfold restoreRefused
  dsimp only
  split <;> simp [h]

@[simp] theorem canonical_runRestored {s t} (h : Canonical s.mem) : Canonical (runRestored s t).mem := by
  refine canonical_taskEvent ?_
  simpa using canonical_foldl (fun _ _ h => canonical_resumeCtx h) _ h

@[simp] theorem canonical_restoreAll {s id l} (h : Canonical s.mem) : Canonical (restoreAll s id l).mem := by
  induction l generalizing s with
  | nil =>
    unfold restoreAll
    split <;> simp -implicitDefEqProofs [h]
  | cons a t ih =>
    unfold restoreAll
    dsimp only
    split <;> simp -implicitDefEqProofs [h, ih]

@[simp] theorem canonical_restoreCmd {s fe} (h : Canonical s.mem) : Canonical (restoreCmd s fe).mem := by
  unfold restoreCmd
  dsimp only
  repeat' split
  all_goals simp -implicitDefEqProofs [h]

/-! ### Host -/

@[simp] theorem canonical_scanQueue {s n} (h : Canonical s.mem) : Canonical (scanQueue s n).mem := by
  unfold scanQueue
  dsimp only
  repeat' split
  all_goals simp [h]

@[simp] theorem canonical_refuseHost {s r} (h : Canonical s.mem) : Canonical (refuseHost s r).mem := by
  unfold refuseHost
  repeat' split
  all_goals simp -implicitDefEqProofs [h]

@[simp] theorem foldl_noteRequest_mem {l : List (Nat × Byte)} {s : State} :
    (l.foldl (fun s x => noteRequest s x.1 x.2) s).mem = s.mem := foldl_mem (fun _ _ => noteRequest_mem) ..

@[simp] theorem canonical_performHost {s r} (h : Canonical s.mem) : Canonical (performHost s r).mem := by
  unfold performHost
  split <;> simp [h]

@[simp] theorem canonical_hostAccess {s r} (h : Canonical s.mem) : Canonical (hostAccess s r).mem := by
  unfold hostAccess
  split <;> simp [h]

@[simp] theorem canonical_serveHost {s r} (h : Canonical s.mem) : Canonical (serveHost s r).mem := by
  unfold serveHost
  repeat' split
  all_goals simp [h]

@[simp] theorem canonical_releaseHost {s l} (h : Canonical s.mem) : Canonical (releaseHost s l).mem := by
  induction l generalizing s with
  | nil => exact h
  | cons r t ih =>
    unfold releaseHost
    split <;> simp [h, ih]

@[simp] theorem canonical_retryHost {s} (h : Canonical s.mem) : Canonical (retryHost s).mem := by simp [retryHost, h]

@[simp] theorem canonical_tearTask {s t} (h : Canonical s.mem) : Canonical (tearTask s t).mem := by
  unfold tearTask
  split <;> simp [h]

@[simp] theorem canonical_tearQueue {s w q resetting} (h : Canonical s.mem) : Canonical (tearQueue s w q resetting).mem :=
  canonical_foldl (fun _ _ h => canonical_tearTask h) _ (by simp [h])
@[simp] theorem canonical_flushCaches {s k n} (h : Canonical s.mem) : Canonical (flushCaches s k n).mem := by
  simp [flushCaches, h]

@[simp] theorem canonical_foreignStore {s} (h : Canonical s.mem) : Canonical (foreignStore s).mem := by
  unfold foreignStore
  dsimp only
  split
  · exact h
  · split
    · exact h
    · simpa using canonical_foldl_memWrite (canonical_foldl (fun _ _ h => canonical_flushCaches h) _ h)

@[simp] theorem canonical_eventE {s n cause src w} (h : Canonical s.mem) : Canonical (eventE s n cause src w).mem := by
  simp [eventE, h]

@[simp] theorem canonical_loseHead {s head} (h : Canonical s.mem) : Canonical (loseHead s head).mem := by
  unfold loseHead
  split <;> simp [h]

@[simp] theorem canonical_noticeLoss {s port} (h : Canonical s.mem) : Canonical (noticeLoss s port).mem :=
  canonical_foldl (fun _ _ h => by split <;> simp [h]) _ h
@[simp] theorem foldl_switchAgent_mem {l : List Nat} {s : State} {port : Bool} :
    (l.foldl (fun s i => switchAgent s port i) s).mem = s.mem :=
  foldl_mem (fun _ _ => switchAgent_mem) ..

@[simp] theorem canonical_loseHost {s port} (h : Canonical s.mem) : Canonical (loseHost s port).mem := by
  unfold loseHost
  dsimp only
  split <;> simp [h]

@[simp] theorem canonical_acknowledge {s port n data} (h : Canonical s.mem) : Canonical (acknowledge s port n data).mem := by
  unfold acknowledge
  repeat' split
  all_goals simp [h]

@[simp] theorem canonical_capacityEvent {s extent code} (h : Canonical s.mem) :
    Canonical (capacityEvent s extent code).mem := by simp [capacityEvent, h]
@[simp] theorem canonical_drainStores {s hit} (h : Canonical s.mem) : Canonical (drainStores s hit).mem :=
  canonical_foldl (fun _ _ h => by simpa using canonical_foldl (fun _ _ h => canonical_performStore h) _ h) _ h

/-! ### Platform -/
@[simp] theorem canonical_resetWith {s f} (h : Canonical s.mem) : Canonical (resetWith s f).mem := by simp [resetWith, h]
@[simp] theorem canonical_drainPark {s l} (h : Canonical s.mem) : Canonical (drainPark s l).mem :=
  canonical_foldl (fun _ _ h => canonical_performStoreAs h) _ h
@[simp] theorem canonical_logDiscards {s l} (h : Canonical s.mem) : Canonical (logDiscards s l).mem :=
  canonical_foldl (fun _ _ h => by dsimp only; split <;> simp [h]) _ h

@[simp] theorem canonical_applyPdisc {s port pdisc} (h : Canonical s.mem) : Canonical (applyPdisc s port pdisc).mem := by
  unfold applyPdisc
  dsimp only
  repeat' split
  all_goals simp [h]

@[simp] theorem canonical_serveResync {s b afterAct} (h : Canonical s.mem) : Canonical (serveResync s b afterAct).mem := by
  unfold serveResync
  dsimp only
  repeat' split
  all_goals simp [h]

@[simp] theorem canonical_askResync {s b} (h : Canonical s.mem) : Canonical (askResync s b).mem := by
  unfold askResync
  dsimp only
  repeat' split
  all_goals simp [h]

@[simp] theorem canonical_serveWaiting {s} (h : Canonical s.mem) : Canonical (serveWaiting s).mem :=
  canonical_foldl (fun _ _ h => by split <;> simp [h]) _ h
@[simp] theorem canonical_activationEvent {s code} (h : Canonical s.mem) : Canonical (activationEvent s code).mem := by
  simp [activationEvent, h]
@[simp] theorem canonical_closeWindow {s f code} (h : Canonical s.mem) : Canonical (closeWindow s f code).mem := by
  simp [closeWindow, h]

@[simp] theorem canonical_healthy {s} (h : Canonical s.mem) : Canonical (healthy s).mem := by
  unfold healthy
  dsimp only
  repeat' split
  all_goals simp [h]

@[simp] theorem canonical_holdCtx {cause s fe} (h : Canonical s.mem) : Canonical (holdCtx cause s fe).mem := by
  unfold holdCtx
  dsimp only
  repeat' split
  all_goals simp [h]

@[simp] theorem canonical_classE {s cause src touched} (h : Canonical s.mem) : Canonical (classE s cause src touched).mem :=
  canonical_foldl (fun _ _ h => canonical_holdCtx h) _ (by simp [h])

/-! ### Mmio -/

@[simp] theorem canonical_writeResync {s b o data} (h : Canonical s.mem) : Canonical (writeResync s b o data).mem := by
  unfold writeResync
  repeat' split
  all_goals simp [h]

@[simp] theorem canonical_writeLink {s who blk o data} (h : Canonical s.mem) :
    Canonical (writeLink s who blk o data).mem := by
  unfold writeLink
  repeat' split
  all_goals simp [h]

@[simp] theorem canonical_writeWindow {s w data} (h : Canonical s.mem) : Canonical (writeWindow s w data).mem := by
  unfold writeWindow
  dsimp only
  repeat' split
  all_goals simp [h]

@[simp] theorem canonical_writeFwctl {s data} (h : Canonical s.mem) : Canonical (writeFwctl s data).mem := by
  unfold writeFwctl
  split <;> simp [h]

@[simp] theorem canonical_writeHeadwater {s o data} (h : Canonical s.mem) : Canonical (writeHeadwater s o data).mem := by
  unfold writeHeadwater
  repeat' split
  all_goals simp [h]

@[simp] theorem canonical_writeIo {s who o data} (h : Canonical s.mem) : Canonical (writeIo s who o data).mem := by
  unfold writeIo
  dsimp only
  repeat' split
  all_goals simp [h]

@[simp] theorem canonical_crownCmd {s fe cmd arg} (h : Canonical s.mem) : Canonical (crownCmd s fe cmd arg).mem := by
  unfold crownCmd
  split <;> simp [h]

@[simp] theorem canonical_writeControl {s fe o data} (h : Canonical s.mem) : Canonical (writeControl s fe o data).mem := by
  unfold writeControl
  repeat' split
  all_goals simp -implicitDefEqProofs [h]

@[simp] theorem canonical_writeCore {s core o data} (h : Canonical s.mem) : Canonical (writeCore s core o data).mem := by
  unfold writeCore
  repeat' split
  all_goals simp [h]

@[simp] theorem canonical_writeCluster {s who k o data} (h : Canonical s.mem) :
    Canonical (writeCluster s who k o data).mem := by
  unfold writeCluster
  repeat' split
  all_goals simp [h]

@[simp] theorem canonical_mmioWrite {s who a data} (h : Canonical s.mem) : Canonical (mmioWrite s who a data).mem := by
  unfold mmioWrite
  dsimp only
  repeat' split
  all_goals simp [h]

/-! ### Routine -/

@[simp] theorem canonical_microFault {s r cause} (h : Canonical s.mem) : Canonical (microFault s r cause).mem := by
  unfold microFault
  split <;> simp [h]

@[simp] theorem canonical_microGoto {s m r pc} (h : Canonical s.mem) : Canonical (microGoto s m r pc).mem := by
  unfold microGoto
  split <;> simp [h]

@[simp] theorem canonical_microNext {s m r} (h : Canonical s.mem) : Canonical (microNext s m r).mem := by simp [microNext, h]

@[simp] theorem canonical_microEnd {s r x f} (h : Canonical s.mem) (hf : ∀ l m r, Canonical (f (deliver s l) m r).mem) :
    Canonical (microEnd s r x f).mem := by
  unfold microEnd
  split <;> simp [h, hf]

@[simp] theorem canonical_microOp {s ok f} (h : Canonical s.mem) (hf : ∀ r, Canonical (f r).mem) :
    Canonical (microOp s ok f).mem := by
  unfold microOp
  repeat' split
  all_goals simp [h, hf]

@[simp] theorem canonical_pullOp {s k ts bs} (h : Canonical s.mem) : Canonical (pullOp s k ts bs).mem :=
  canonical_microOp h fun _ => canonical_microEnd h fun _ _ _ => canonical_microNext (by simpa using h)

@[simp] theorem canonical_passSync {s fe} (h : Canonical s.mem) : Canonical (passSync s fe).mem := by
  unfold passSync
  split <;> simp [h]

@[simp] theorem canonical_groupTimeout {s fe} (h : Canonical s.mem) : Canonical (groupTimeout s fe).mem := by
  unfold groupTimeout
  repeat' split
  all_goals simp [h]

/-! ### Trimmer -/

@[simp] theorem canonical_trimFault {s r cause} (h : Canonical s.mem) : Canonical (trimFault s r cause).mem := by
  unfold trimFault
  split <;> simp [h]

@[simp] theorem canonical_trimOp {s ok f} (h : Canonical s.mem) (hf : ∀ r, Canonical (f r).mem) :
    Canonical (trimOp s ok f).mem := by
  unfold trimOp
  repeat' split
  all_goals simp [h, hf]

@[simp] theorem canonical_trimNext {s m r} (h : Canonical s.mem) : Canonical (trimNext s m r).mem := by
  unfold trimNext
  split <;> simp [h]

@[simp] theorem canonical_trimW {s r w} (h : Canonical s.mem) : Canonical (trimW s r w).mem := by simp [trimW, h]

@[simp] theorem canonical_rowRead {s r row f} (h : Canonical s.mem) (hf : ∀ m r v b, Canonical (f m r v b).mem) :
    Canonical (rowRead s r row f).mem := by
  unfold rowRead
  dsimp only
  repeat' split
  all_goals simp [h, hf]

@[simp] theorem canonical_constOp {s k f} (h : Canonical s.mem) : Canonical (constOp s k f).mem :=
  canonical_trimOp h fun _ => canonical_rowRead h fun _ _ _ _ => canonical_trimNext h
@[simp] theorem canonical_trimConvert {s r sat fc scale} (h : Canonical s.mem) :
    Canonical (trimConvert s r sat fc scale).mem := by simp [trimConvert, h]

@[simp] theorem canonical_trimWrite {s r o bytes} (h : Canonical s.mem) : Canonical (trimWrite s r o bytes).mem := by
  unfold trimWrite
  dsimp only
  repeat' split
  all_goals simp -implicitDefEqProofs [h]

/-! ### Schedule -/
@[simp] theorem canonical_ambient {s} (h : Canonical s.mem) : Canonical (ambient s).mem := by simp [ambient, h]
@[simp] theorem canonical_schedule {s} (h : Canonical s.mem) : Canonical (schedule s).mem := by simp [schedule, h]

end Sys2Proof.Machine
end

section
/-! SUPPORT. Every instruction and every event answers a next state with memory in canonical form. -/
namespace Sys2Proof.Machine

/-- The answer is a next state with memory in canonical form. -/
def Keeps (o : Out) : Prop := ∃ t, o = .next t ∧ Canonical t.mem
@[simp] theorem keeps_next {t : State} : Keeps (.next t) ↔ Canonical t.mem := by simp [Keeps]
theorem keeps_next_of_mem {s t : State} (e : t.mem = s.mem) (h : Canonical s.mem) : Keeps (.next t) := keeps_next.2 (e ▸ h)

@[simp] theorem execMcall_keeps {hd a rsc dr zi swap rout s} (h : Canonical s.mem) :
    Keeps (execMcall hd a rsc dr zi swap rout s) := by
  refine keeps_next.2 (canonical_reservedZero h (canonical_engineOp h fun _ => ?_))
  dsimp only
  repeat' split
  all_goals simp [h]

/-- The state that a data beat answers has memory in canonical form. -/
def Beat.Keeps : Beat → Prop
  | .ok s _ _ _ => Canonical s.mem
  | .ask _ | .wait | .fault _ _ => True

theorem beatBody_keeps {s fe ch e src dst off n ecc csp ps locs d x} (h : Canonical s.mem) :
    (beatBody s fe ch e src dst off n ecc csp ps locs d x).Keeps := by
  unfold beatBody
  dsimp only
  repeat' split
  all_goals simp [Beat.Keeps, h]

theorem canonical_foldl_fill {α : Type} {fe : FeId} {loc : α → CLoc} {l : List α} {s : State} (h : Canonical s.mem) :
    Canonical (l.foldl (fun s x => (loc x).fill s fe) s).mem := canonical_foldl (fun _ _ h => canonical_fill h) _ h

theorem dataBeat_keeps {s fe ch x e ecc} (h : Canonical s.mem) : (dataBeat s fe ch x e ecc).Keeps := by
  unfold dataBeat
  dsimp only
  split
  · trivial
  · trivial
  · repeat' split
    any_goals trivial
    all_goals exact beatBody_keeps (canonical_foldl_fill h)

theorem copySignal_keeps {s fe ch e} (h : Canonical s.mem) : (copySignal s fe ch e).Keeps := by
  unfold copySignal
  dsimp only
  repeat' split
  all_goals simp [Beat.Keeps, h]

@[simp] theorem execCopyDataBeat_keeps {fe ch ecc s} (h : Canonical s.mem) : Keeps (execCopyDataBeat fe ch ecc s) := by
  refine keeps_next.2 ?_
  split
  · exact h
  · next e _ _ =>
    have hfailed : Canonical (hopFailed s fe e).mem := canonical_hopFailed h
    have hbeat := dataBeat_keeps (fe := fe) (ch := ch) (x := (s.ctx fe).chan ch) (e := e) (ecc := ecc) h
    split
    · exact h
    · generalize dataBeat s fe ch ((s.ctx fe).chan ch) e ecc = r at hbeat
      cases r with
      | ask ea => simp [h]
      | wait => exact h
      | fault c ea =>
        dsimp only
        split <;> simp [h, hfailed]
      | ok t csp carry built =>
        have ht : Canonical t.mem := hbeat
        dsimp only
        split <;> simp [ht]

@[simp] theorem execCopyComplete_keeps {fe ch s} (h : Canonical s.mem) : Keeps (execCopyComplete fe ch s) := by
  refine keeps_next.2 ?_
  split
  · exact h
  · next e _ _ =>
    have hsig := copySignal_keeps (s := chanDone s fe ch e.num) (fe := fe) (ch := ch) (e := e) (by simpa using h)
    split
    · exact h
    · dsimp only
      generalize copySignal (chanDone s fe ch e.num) fe ch e = r at hsig
      cases r with
      | ask ea => simp [h]
      | wait => simp [h]
      | fault c ea => simp [h]
      | ok t csp carry built =>
        have ht : Canonical t.mem := hsig
        simp [ht]

@[simp] theorem execTwait_keeps {hd tl b imm11 i scope s} (h : Canonical s.mem) :
    Keeps (execTwait hd tl b imm11 i scope s) := by
  refine keeps_next.2 (canonical_reservedZero h (canonical_guardedOp h ?_))
  dsimp only
  repeat' split
  all_goals simp [h]

@[simp] theorem execSigdec_keeps {hd a b fail s} (h : Canonical s.mem) : Keeps (execSigdec hd a b fail s) := by
  refine keeps_next.2 (canonical_guardedOp h ?_)
  dsimp only
  split
  · simp [h]
  · split
    · simp [h]
    · refine canonical_withSig h fun l key => ?_
      split
      · simp [h]
      · refine canonical_afterRelease h ?_
        split <;> simp [h]

@[simp] theorem execSigwaitRelease_keeps {fe s} (h : Canonical s.mem) : Keeps (execSigwaitRelease fe s) := by
  refine keeps_next.2 ?_
  split
  · refine canonical_waitRead h fun l key w => ?_
    split <;> simp [h]
  all_goals exact h

@[simp] theorem execMwaitEnd_keeps {fe s} (h : Canonical s.mem) : Keeps (execMwaitEnd fe s) := by
  refine keeps_next.2 ?_
  split
  · refine canonical_waitRead h fun l key w => ?_
    split <;> simp [h]
  all_goals exact h

@[simp] theorem execMwaitTimeout_keeps {fe s} (h : Canonical s.mem) : Keeps (execMwaitTimeout fe s) := by
  refine keeps_next.2 ?_
  split
  · split
    · refine canonical_waitRead h fun l key w => ?_
      split <;> simp [h]
    · exact h
  all_goals exact h

@[simp] theorem execLaunch_keeps {hd d a s} (h : Canonical s.mem) : Keeps (execLaunch hd d a s) := by
  refine keeps_next.2 (canonical_guardedOp h ?_)
  dsimp only
  split
  · simp [h]
  · split
    · simp [h]
    · refine canonical_afterRelease h ?_
      repeat' split
      all_goals simp [h]

@[simp] theorem execAmoResultReturn_keeps {fe idx s} (h : Canonical s.mem) : Keeps (execAmoResultReturn fe idx s) := by
  have hread : ∀ l k, Canonical (fillLine s fe l k).mem := fun _ _ => canonical_fillLine h
  have hstore : ∀ l k r place unit r' e,
      Canonical (performStore (amoRelease (amoAcquire (fillLine s fe l k) fe r place unit) fe r') fe e).mem :=
    fun _ _ _ _ _ _ _ => canonical_performStore (by simp [h])
  refine keeps_next.2 ?_
  dsimp only
  repeat' split
  all_goals simp [h, hread, hstore]

@[simp] theorem execPriResponse_keeps {fe unit code s} (h : Canonical s.mem) : Keeps (execPriResponse fe unit code s) := by
  refine keeps_next.2 ?_
  split
  · exact canonical_traceEv (canonical_raiseEvent (canonical_putPrirc h))
  · repeat' split
    all_goals simp -implicitDefEqProofs [h]

@[simp] theorem foldl_preemptTask_mem {l : List (BitVec 32)} {s : State} : (l.foldl preemptTask s).mem = s.mem :=
  foldl_mem (fun _ _ => preemptTask_mem) ..

@[simp] theorem execDispatcherSelect_keeps {task place victims s} (h : Canonical s.mem) :
    Keeps (execDispatcherSelect task place victims s) := by
  refine keeps_next.2 ?_
  dsimp only
  repeat' split
  all_goals simp [h]

@[simp] theorem execDispatcherScan_keeps {s} (h : Canonical s.mem) : Keeps (execDispatcherScan s) :=
  keeps_next.2 (canonical_foldl (fun _ _ h => canonical_scanQueue h) _ h)
@[simp] theorem foldl_dropTask_mem {l : List Task} {s : State} : (l.foldl (fun s t => s.dropTask t.id) s).mem = s.mem :=
  foldl_mem (fun _ _ => State.dropTask_mem) ..

@[simp] theorem execTeardownDone_keeps {win q s} (h : Canonical s.mem) : Keeps (execTeardownDone win q s) := by
  refine keeps_next.2 ?_
  split <;> simp [h]

@[simp] theorem canonical_foldl_refuseHost {l : List HostReq} {s : State} (h : Canonical s.mem) :
    Canonical (l.foldl refuseHost s).mem := canonical_foldl (fun _ _ h => canonical_refuseHost h) _ h

@[simp] theorem execBiasFlipToDDone_keeps {page s} (h : Canonical s.mem) : Keeps (execBiasFlipToDDone page s) := by
  refine keeps_next.2 ?_
  dsimp only
  split <;> simp [h]

@[simp] theorem canonical_foldl_traceEv {α : Type} {l : List α} {e : α → TraceEv} {s : State} (h : Canonical s.mem) :
    Canonical (l.foldl (fun s x => s.traceEv (e x)) s).mem := canonical_foldl (fun _ _ h => canonical_traceEv h) _ h
@[simp] theorem canonical_foldl_flushCaches {α : Type} {l : List α} {k n : α → Nat} {s : State} (h : Canonical s.mem) :
    Canonical (l.foldl (fun s x => flushCaches s (k x) (n x)) s).mem :=
  canonical_foldl (fun _ _ h => canonical_flushCaches h) _ h

@[simp] theorem execDynamicCapacityRelease_keeps {extent forced s} (h : Canonical s.mem) :
    Keeps (execDynamicCapacityRelease extent forced s) := by
  have hasked := canonical_capacityEvent (extent := extent) (code := 7#8) h
  refine keeps_next.2 ?_
  dsimp only
  split
  · simp [hasked]
  · exact canonical_foldl_flushCaches (canonical_drainStores (by simp [hasked]))

@[simp] theorem canonical_foldl_passSync {l : List FeId} {s : State} (h : Canonical s.mem) :
    Canonical (l.foldl passSync s).mem := canonical_foldl (fun _ _ h => canonical_passSync h) _ h

@[simp] theorem execSynccRelease_keeps {fe s} (h : Canonical s.mem) : Keeps (execSynccRelease fe s) := by
  refine keeps_next.2 ?_
  repeat' split
  all_goals simp [h]

@[simp] theorem canonical_foldl_groupTimeout {l : List FeId} {s : State} (h : Canonical s.mem) :
    Canonical (l.foldl groupTimeout s).mem := canonical_foldl (fun _ _ h => canonical_groupTimeout h) _ h

@[simp] theorem execCooperativeTimeout_keeps {fe s} (h : Canonical s.mem) : Keeps (execCooperativeTimeout fe s) := by
  refine keeps_next.2 ?_
  repeat' split
  all_goals simp [h]

@[simp] theorem execTsat_keeps {kl kh s} (h : Canonical s.mem) : Keeps (execTsat kl kh s) :=
  keeps_next.2 (canonical_trimOp h fun _ => canonical_rowRead h fun _ _ _ _ =>
    canonical_rowRead (by simpa using h) fun _ _ _ _ => canonical_trimNext h)

@[simp] theorem execBasinEvaluate_keeps {fe off s} (h : Canonical s.mem) : Keeps (execBasinEvaluate fe off s) := by
  unfold execBasinEvaluate
  dsimp only
  repeat' split
  all_goals simp [h]

/-- Every instruction and event, by the shared operation that its meaning calls: `exec` answers `.next` of it by definition. The
others take the branches of their meaning one by one. -/
theorem exec_keeps (i : Instr) {s : State} (hs : Canonical s.mem) : Keeps (exec i s) := by
  cases i with
  | nop | vrsum | vperm | amo | gj | gjal | gjr | tld | tpat | tclr | tclrAll | emitr | gwait | grecv | grds | gwrs | gtrap
   | gend | mergeStageIssue | starvationBreak | pendingTrapRecordWrite | loadDataArrival | storePerform
   | cacheMaintenanceComplete | eskipResolve | eskipEntryEnter | quietPoint | asyncStopTake | runnelSpaceRelease
   | millinerWaitEnd | spoutRead | lsqPairArrival | translationFill | atsInvalidation | cisternRefresh | matrixCommandStart
   | ringWaitRelease | scaleQueueWaitRelease | freezePointReached | blockStoreWriteApply | bwaitRelease | twaitRelease
   | cdrainRelease | fenceComplete | tfenceComplete | tfenceTimeout | launchAccept | contextExitComplete | taskFailedRetire
   | rinseComplete | commandEntryTake | taskEligible | taskAbandon | taskAging | gangRestore | fillHoldFill | kernelRegister
   | imagePortDone | regionEntryValidate | fillComplete | fillMediaError | fabricPlanWrite | fabricFrameBoundary
   | hostMemAccess | doorbell | doorbellRead | queueEnable | queueTeardown | queueReset | biasFlipToHDone | poolBackInvalidate
   | poolRequestTimeout | ideMacFailure | ideRekeyComplete | ideRekeyTimeout | hostRequestTimeout | dynamicCapacityAdd
   | resyncGo | redfishResync | bootWatchdogExpiry | liveActivation | activationTimeout | getMeasurements
   | redfishComponentIntegrity | redfishFirmwareUpdate | redfishTaskAction | traceEvent | traceUnfreeze | thermalThrottle
   | illegalMicroWord | illegalTrimmerWord | cipherCommandComplete | linkTrained | ideKmKeyProgramming
   | uncertainWriteLogClear =>
    refine keeps_next.2 ?_
    dsimp -failIfUnchanged only
    repeat' split
    all_goals simp -implicitDefEqProofs [hs]
  | add | sub | and | or | xor | andn | shl | shr | sra | rot | min | max | minu | maxu | mul | mulh | mulhu | div | divu
   | rem | remu => exact keeps_next.2 (canonical_scalarRR hs)
  | clz | ctz | popc | bfx => exact keeps_next.2 (canonical_scalarR hs)
  | bfi | sel | li | pset | skip | eskip | post | rdsr | wrsr | endq | lgo | lbrk | lidx | sminit | smrsc | smget | ld | vld
   | vldc | vldr | lsq | qset | qclr | pref | st | vst | vstr | radv | fence | tfence | tget | barv | bexp | bwait | sigwait
   | mwait | exit | trap | fmt | bandup | wld | wx | yield | rdtime =>
    refine keeps_next.2 (canonical_guardedOp hs ?_)
    dsimp -failIfUnchanged only
    repeat' split
    all_goals simp -implicitDefEqProofs [hs]
  | addi | andi | ori | xori | shli | shri | srai | lih | muli => exact keeps_next.2 (canonical_scalarI hs)
  | ceq | cne | clt | cltu | cle | cleu => exact keeps_next.2 (canonical_scalarCmp hs)
  | ceqi | clti => exact keeps_next.2 (canonical_scalarCmpI hs)
  | pand | por | pxor | pnot => exact keeps_next.2 (canonical_predRR hs)
  | lset | lbody | lstage =>
    refine keeps_next.2 (canonical_loopSetup hs ?_)
    dsimp -failIfUnchanged only
    repeat' split
    all_goals simp -implicitDefEqProofs [hs]
  | vadd | vsub | vmul | vadds | vsubs | vmin | vmax | vmulhr => exact keeps_next.2 (canonical_vecInt hs)
  | vmac | vabs | vdot4 => exact keeps_next.2 (canonical_vecLane hs)
  | vshl | vshr | vsra | vand | vor | vxor => exact keeps_next.2 (canonical_vecBits hs)
  | vsel | vcvt | vquant | vdequant | vscale2 | vext | vins | vsplat | smstep | smfin =>
    refine keeps_next.2 (canonical_vecOp hs fun _ => ?_)
    dsimp -failIfUnchanged only
    repeat' split
    all_goals simp -implicitDefEqProofs [hs]
  | vfadd | vfsub | vfmul | vfma | vfmin | vfmax | vfabs | vfneg | vrcp | vrsqrt | vexp2 | vlog2 =>
    exact keeps_next.2 (canonical_vecFp hs)
  | vfcmp | vcmp => exact keeps_next.2 (canonical_vecCmp hs)
  | vrmax | vramax | vrmin => exact keeps_next.2 (canonical_vecReduce hs)
  | vbcast | vslide | vzip | vunzip | vmov => exact keeps_next.2 (canonical_vecPick hs)
  | vamul | vamac | vconj | vnorm => exact keeps_next.2 (canonical_vecAlg hs)
  | mcall => exact execMcall_keeps hs
  | mset | msetRs | mget | mgetRs | malg | mdrain | mdrainRaw | mfill | mfreeze | mthaw | mstat | mload | tload | mzero =>
    refine keeps_next.2 (canonical_engineOp hs fun _ => ?_)
    dsimp -failIfUnchanged only
    repeat' split
    all_goals simp -implicitDefEqProofs [hs]
  | vldg | vlds | vstm | vsts =>
    refine keeps_next.2 (canonical_laneOp hs ?_)
    dsimp -failIfUnchanged only
    repeat' split
    all_goals simp -implicitDefEqProofs [hs]
  | cflush | cinval | cclean => exact keeps_next.2 (canonical_maintOp hs)
  | cpy | cnl | cnb | cgo | cdrain | cmode | cstat | ckv | cred =>
    refine keeps_next.2 (canonical_copyOp hs fun _ => ?_)
    dsimp -failIfUnchanged only
    repeat' split
    all_goals simp -implicitDefEqProofs [hs]
  | twait => exact execTwait_keeps hs
  | sigdec => exact execSigdec_keeps hs
  | launch => exact execLaunch_keeps hs
  | seal_ | open_ => exact keeps_next.2 (canonical_cipherOp hs)
  | wlock | wunlk => exact keeps_next.2 (canonical_setLock hs)
  | gadd | gsub | gand | gor | gxor | gshl | gshr | gsra | gmul | gslt | gsltu => exact keeps_next.2 (canonical_genRR hs)
  | gaddi | gandi | gori | gshli | gshri | glih => exact keeps_next.2 (canonical_genRI hs)
  | gli => exact keeps_next.2 (canonical_genResult hs)
  | gbeq | gbne | gblt | gbge | gbltu | gbgeu => exact keeps_next.2 (canonical_genBranch hs)
  | gld | gst =>
    refine keeps_next.2 (canonical_genAccess hs fun _ => ?_)
    dsimp -failIfUnchanged only
    repeat' split
    all_goals simp -implicitDefEqProofs [hs]
  | tpati => exact keeps_next.2 (canonical_patch hs)
  | emit | emitm => exact keeps_next.2 (canonical_emitGroup hs)
  | pulla | pullb | pullm => exact keeps_next.2 (canonical_pullOp hs)
  | step | stepk | zacc | sqpop | drain | loop | endl | syncc | waitr | swap | ret =>
    refine keeps_next.2 (canonical_microOp hs fun _ => ?_)
    dsimp -failIfUnchanged only
    repeat' split
    all_goals simp -implicitDefEqProofs [hs]
  | trimTld | tts | tact | trnd | tcvt | trmax | trsum | tqnt | tadd | tmulr | tst | tsts | tend =>
    refine keeps_next.2 (canonical_trimOp hs fun _ => ?_)
    dsimp -failIfUnchanged only
    repeat' split
    all_goals simp -implicitDefEqProofs [hs]
  | tbias | tmul => exact keeps_next.2 (canonical_constOp hs)
  | tsat => exact execTsat_keeps hs
  | registerLanding => exact keeps_next.2 (canonical_landContext hs)
  | amoResultReturn => exact execAmoResultReturn_keeps hs
  | priResponse => exact execPriResponse_keeps hs
  | matrixCommandComplete => exact keeps_next.2 (canonical_completeCmd (canonical_completeCmd hs))
  | synccRelease => exact execSynccRelease_keeps hs
  | cooperativeTimeout => exact execCooperativeTimeout_keeps hs
  | copyDataBeat => exact execCopyDataBeat_keeps hs
  | copyComplete => exact execCopyComplete_keeps hs
  | basinArrival | basinExpectation | basinCharge => exact keeps_next.2 (canonical_arriveBasin hs)
  | basinEvaluate => exact execBasinEvaluate_keeps hs
  | sigwaitRelease => exact execSigwaitRelease_keeps hs
  | mwaitEnd => exact execMwaitEnd_keeps hs
  | mwaitTimeout => exact execMwaitTimeout_keeps hs
  | dispatcherScan => exact execDispatcherScan_keeps hs
  | dispatcherSelect => exact execDispatcherSelect_keeps hs
  | resume => exact keeps_next.2 (canonical_resumeCmd hs)
  | kill => exact keeps_next_of_mem killCmd_mem hs
  | stop => exact keeps_next_of_mem stopCmd_mem hs
  | intr => exact keeps_next_of_mem intrCmd_mem hs
  | save => exact keeps_next_of_mem saveCmd_mem hs
  | restore => exact keeps_next.2 (canonical_restoreCmd hs)
  | relch => exact keeps_next_of_mem relchCmd_mem hs
  | unbind => exact keeps_next.2 (canonical_unbindCmd hs)
  | mmioWrite => exact keeps_next.2 (canonical_mmioWrite hs)
  | crownWeirWrite => exact keeps_next_of_mem crownWeir_mem hs
  | fillGo => exact keeps_next_of_mem fillControl_mem hs
  | teardownDone => exact execTeardownDone_keeps hs
  | biasGoToH | biasGoToD => exact keeps_next_of_mem biasGo_mem hs
  | biasFlipToDDone => exact execBiasFlipToDDone_keeps hs
  | poolHeadLoss => exact keeps_next.2 (canonical_loseHead hs)
  | hostLoss => exact keeps_next.2 (canonical_loseHost hs)
  | hostAcknowledge => exact keeps_next.2 (canonical_acknowledge hs)
  | dynamicCapacityRelease => exact execDynamicCapacityRelease_keeps hs
  | deviceReset => exact keeps_next.2 (canonical_resetWith hs)
  | healthyWrite => exact keeps_next.2 (canonical_healthy hs)
  | agentTableWrite => exact keeps_next_of_mem agentWrite_mem hs
  | thermalTrip | internalParity | fabricTimeout => exact keeps_next.2 (canonical_classE hs)
  | illegalMillinerWord | generatorFetchFault => exact keeps_next.2 (canonical_trapG hs)

/-! ### The step -/

theorem runOp_keeps {s fe w} (h : Canonical s.mem) : Keeps (runOp s fe w) := by
  unfold runOp
  split
  · exact keeps_next.2 h
  · split
    · exact exec_keeps _ h
    · exact keeps_next.2 (canonical_opFault h)

theorem runGen_keeps {s fe w} (h : Canonical s.mem) : Keeps (runGen s fe w) := by
  unfold runGen
  split
  · exact keeps_next.2 h
  · split <;> exact exec_keeps _ h

theorem runMicro_keeps {s fe w} (h : Canonical s.mem) : Keeps (runMicro s fe w) := by
  unfold runMicro
  split <;> exact exec_keeps _ h

theorem runTrim_keeps {s fe w} (h : Canonical s.mem) : Keeps (runTrim s fe w) := by
  unfold runTrim
  split <;> exact exec_keeps _ h

theorem runAct_keeps (a : Act) {s : State} (h : Canonical s.mem) : Keeps (runAct s a) := by
  cases a with
  | op fe w => exact runOp_keeps h
  | gen fe w => exact runGen_keeps h
  | micro fe w => exact runMicro_keeps h
  | trim fe w => exact runTrim_keeps h
  | fin fe => exact keeps_next.2 (canonical_finishGroup h)
  | ev i => exact exec_keeps i h

theorem step_keeps {s : State} (h : Canonical s.mem) : Keeps (step s) := by
  unfold step
  split
  · exact keeps_next.2 (canonical_schedule h)
  · exact runAct_keeps _ h

/-- Settles O59: an entry of the agenda runs, or the next cycle is scheduled, and every operation that writes memory keeps its
canonical form. -/
theorem stepKeepsMemoryCanonical : Obligations.StepKeepsMemoryCanonical := fun _ h => step_keeps h

end Sys2Proof.Machine
end

section
/-! SUPPORT. What a load of the window reads and lands (O15). -/
namespace Sys2Proof.Machine

/-- A load of the window whose read and result hold no fault lands what it reads (R216, R231). -/
theorem loadSpm_of_windowReads {s : State} {slot : BitVec 3} {lat : Nat} {r : LoadReq} {w : List RegW}
    (hw : WindowReads s r w) : loadSpm s slot lat r = addPend s slot lat (.spm r w) := by
  obtain ⟨hdbg, dat, hread, hland⟩ := hw
  have hshadow : readsShadow (s.ctx s.cur) r.pieces = false := hdbg
  have hread' : readSpm (s.ctx s.cur).spm r.pieces = .ok dat := hread
  simp [loadSpm, hshadow, hread', hland]

/-- A load at an unpoisoned, aligned address reads the window at once, or starts a read of memory (R231, R235). -/
theorem loadsAt_of_exec {i : Instr} {s : State} {slot : BitVec 3} {dst : LoadDst} {base : SReg} {ea : Word} {n : Nat}
    {strong : Bool} {scope : BitVec 2} (hp : base.poison = false) (ha : aligned ea n = true)
    (he : exec i s = .next (loadAt s slot dst base ea n strong scope)) : LoadsAt i s slot dst ea n strong scope := by
  refine ⟨fun hin w hw => ?_, fun hout => ?_⟩
  · rw [he, ← loadSpm_of_windowReads hw]
    simp [loadAt, hin, hp, ha]
  · rw [he]
    simp [loadAt, hout, hp, ha]

/-- The size codes of a scalar access count powers of two (R30). -/
theorem sizeBytes_scalar {size : BitVec 3} (h : size.toNat ≤ 3) : sizeBytes size = 2 ^ size.toNat := by
  revert size; decide

/-- An engine op that runs has its effect on the values it runs on (R127). -/
theorem engineOp_runs {s : State} {slot : BitVec 3} {h : OpHdr} {a b c : BitVec 6} {x : EngArgs}
    {f : EngArgs → State → State} (hr : EngineRuns s h a b c x) : engineOp s slot h true a b c f = f x s := by
  rcases hr with ⟨e, hc, rfl⟩ | ⟨hc, hwin, hop, rfl⟩
  · simp [engineOp, hc]
  · simp [engineOp, hc, guardedOp_runs hop, hwin, State.here]

/-- A ring read inside a valid tile at a multiple of 256 bytes raises nothing (R231, R237). -/
theorem ringFault_none {r : Ring} {b : Word} {tile : BitVec 8} (hv : r.valid = true) (ht : tile.toNat < r.count.toNat)
    (hb : b.toNat < r.tsz.toNat * 256) (ha : b.toNat % 256 = 0) : ringFault r b tile = none := by
  simp [ringFault, ha, hv, ht, hb]

/-- A lane-wise load at unpoisoned, aligned addresses of active lanes: all in the window it reads at once, all elsewhere it
starts a read of memory (R236). -/
theorem laneLoad_of_aligned {s : State} {h : OpHdr} {d : BitVec 6} {w : Nat} {addr : Nat → Word} {act : List Nat}
    (hact : act = activeLanes (s.here.rP h.g) w) (hne : act ≠ [])
    (hal : ∀ k ∈ act, (addr k).toNat % w = 0) :
    let req : LoadReq := ⟨.v d (lanesMask w act) (guardBands s.here h d), act.map (fun i => ⟨w * i, addr i, w⟩),
      false, 0#2, false, none⟩
    ((∀ k ∈ act, isSpm (addr k) = true) → laneLoad s h d w false addr = loadSpm s 4#3 6 req) ∧
    ((∀ k ∈ act, isSpm (addr k) = false) → laneLoad s h d w false addr = addPend s 4#3 9 (.load req)) := by
  have hbad : (act.map (fun i => (⟨w * i, addr i, w⟩ : Piece))).find? (fun p => p.ea.toNat % w != 0) = none := by
    simpa using hal
  obtain ⟨k, hk⟩ := List.exists_mem_of_ne_nil act hne
  subst hact
  refine ⟨fun hin => ?_, fun hout => ?_⟩
  · have hall : (List.map (fun i => (⟨w * i, addr i, w⟩ : Piece)) (activeLanes (s.here.rP h.g) w)).all
        (fun p => isSpm p.ea) = true := by simpa using hin
    simp only [laneLoad, hbad, hall]
    simp [hne]
    rfl
  · have hall : (List.map (fun i => (⟨w * i, addr i, w⟩ : Piece)) (activeLanes (s.here.rP h.g) w)).all
        (fun p => isSpm p.ea) = false := by
      simpa using ⟨k, hk, hout k hk⟩
    have hany : (List.map (fun i => (⟨w * i, addr i, w⟩ : Piece)) (activeLanes (s.here.rP h.g) w)).any
        (fun p => isSpm p.ea) = false := by simpa using hout
    simp only [laneLoad, hbad, hall, hany]
    simp [hne]
    rfl

/-- An aligned access of at most 8 bytes needs its address at a multiple of its size (R228). -/
theorem aligned_word {ea : Word} {n : Nat} (hn : n ∣ 8) : aligned ea n = (ea.toNat % n == 0) := by
  have hn8 : n ≤ 8 := Nat.le_of_dvd (by decide) hn
  have h256 : n ≠ 256 := by omega
  simp [aligned, alignOf, h256, Nat.min_eq_left (show n ≤ 64 by omega)]

section Loads
variable {s : State} {h : OpHdr} {d base : BitVec 6} {q size : BitVec 3} {kind : Bool} {scope : BitVec 2} {off : BitVec 24}

/-- ld reads at A + SignExt(OFF) (R235). -/
theorem ld_loadsAt (hop : OpRuns s h) (hp : (s.here.rS base).poison = false) (hsz : size.toNat ≤ 3)
    (ha : aligned ((s.here.rS base).val + off.signExtend 64) (2 ^ size.toNat) = true) :
    LoadsAt (.ld h d base size kind scope off) s 4#3 (.s d) ((s.here.rS base).val + off.signExtend 64)
      (2 ^ size.toNat) kind scope := by
  refine loadsAt_of_exec hp ha ?_
  change execLd h d base size kind scope off s = _
  rw [execLd, decide_eq_true hsz, guardedOp_runs hop, sizeBytes_scalar hsz]
  rfl

/-- vld reads at A + SignExt(OFF) (R235). -/
theorem vld_loadsAt (hop : OpRuns s h) (hp : (s.here.rS base).poison = false) (hsz : 4 ≤ size.toNat)
    (ha : aligned ((s.here.rS base).val + off.signExtend 64) (sizeBytes size) = true) :
    LoadsAt (.vld h d base size kind scope off) s 4#3 (.v d (BitVec.allOnes 256) [])
      ((s.here.rS base).val + off.signExtend 64) (sizeBytes size) kind scope := by
  refine loadsAt_of_exec hp ha ?_
  change execVld h d base size kind scope off s = _
  rw [execVld, decide_eq_true hsz, guardedOp_runs hop]
  rfl

/-- qset reads its descriptor at A + SignExt(OFF) (R246). -/
theorem qset_loadsAt (hop : OpRuns s h) (hp : (s.here.rS base).poison = false)
    (ha : aligned ((s.here.rS base).val + off.signExtend 64) 64 = true) :
    LoadsAt (.qset h q base 6#3 kind scope off) s 4#3 (.stream q) ((s.here.rS base).val + off.signExtend 64)
      64 kind scope := by
  refine loadsAt_of_exec hp ha ?_
  change execQset h q base 6#3 kind scope off s = _
  rw [execQset, beq_self_eq_true, guardedOp_runs hop]
  rfl

/-- mload reads its parameter block at A + SignExt(OFF), A as its registers or its entry of the commit buffer give it
(R127, R185). -/
theorem mload_loadsAt {x : EngArgs} (hr : EngineRuns s h base 0#6 0#6 x) (hp : x.a.poison = false)
    (ha : aligned (x.a.val + off.signExtend 64) 64 = true) :
    LoadsAt (.mload h base 6#3 kind scope off) s 3#3 .mregs (x.a.val + off.signExtend 64) 64 kind scope := by
  refine loadsAt_of_exec hp ha ?_
  change execMload h base 6#3 kind scope off s = _
  rw [execMload, beq_self_eq_true, engineOp_runs hr]
  rfl

/-- vldr reads 256 bytes of a valid tile of its ring (R237). -/
theorem vldr_reads {a : BitVec 4} {b : BitVec 6} {tile : BitVec 8} {ring : Ring} {y : SReg} {w : List RegW} (hop : OpRuns s h)
    (hring : s.here.eng.mat.ring a = ring) (hy : s.here.rS b = y) (hp : y.poison = false) (hv : ring.valid = true)
    (hcount : tile.toNat < ring.count.toNat) (hfill : tile.toNat < ring.fill.toNat)
    (hb : y.val.toNat < ring.tsz.toNat * 256) (ha : y.val.toNat % 256 = 0)
    (hw : WindowReads s ⟨.v d (BitVec.allOnes 256) [], piecesOf (spmEa (ringTileOff ring (ring.head.toNat + tile.toNat)
      + y.val.toNat)) 256, false, 0#2, false, none⟩ w) :
    exec (.vldr h d a b tile) s = .next (addPend s 4#3 6 (.spm ⟨.v d (BitVec.allOnes 256) [],
      piecesOf (spmEa (ringTileOff ring (ring.head.toNat + tile.toNat) + y.val.toNat)) 256, false, 0#2, false, none⟩ w)) := by
  subst hring hy
  change execVldr h d a b tile s = _
  rw [execVldr, guardedOp_runs hop, ← loadSpm_of_windowReads hw]
  dsimp only
  rw [if_neg (by simpa using hp)]
  rw [show ringFault ((s.ctx s.cur).eng.mat.ring a) ((s.ctx s.cur).rS b).val tile = none from
    ringFault_none hv hcount hb ha]
  dsimp only
  rw [if_neg (by simpa using hfill)]
  rfl

/-- A lane-wise load op whose active lanes stand at unpoisoned, aligned addresses reads them all in the window at once, or
starts a read of memory (R236). -/
theorem laneLoads_of_exec {i : Instr} {t : VTy} {poison : Bool} {addr : Nat → Word}
    (he : exec i s = .next (laneLoad s h d t.bytes poison addr)) (hp : poison = false)
    (hne : activeLanes (s.here.rP h.g) t.bytes ≠ [])
    (hal : ∀ k ∈ activeLanes (s.here.rP h.g) t.bytes, (addr k).toNat % t.bytes = 0) :
    let act := activeLanes (s.here.rP h.g) t.bytes
    let req : LoadReq := ⟨.v d (lanesMask t.bytes act) (guardBands s.here h d),
      act.map (fun i => ⟨t.bytes * i, addr i, t.bytes⟩), false, 0#2, false, none⟩
    ((∀ k ∈ act, isSpm (addr k) = true) → ∀ w, WindowReads s req w → exec i s = .next (addPend s 4#3 6 (.spm req w))) ∧
    ((∀ k ∈ act, isSpm (addr k) = false) → exec i s = .next (addPend s 4#3 9 (.load req))) := by
  intro act req
  subst hp
  obtain ⟨hwin, hmem⟩ := laneLoad_of_aligned (d := d) rfl hne hal
  exact ⟨fun hin w hw => by rw [he, hwin hin, loadSpm_of_windowReads hw], fun hout => by rw [he, hmem hout]⟩

/-- vldg reads lane i at A + B[i] × w (R236). -/
theorem exec_vldg {t : VTy} {b : BitVec 6} (hl : LaneRuns s h) :
    exec (.vldg h t d base b) s = .next (laneLoad s h d t.bytes
      ((s.here.rS base).poison || (activeLanes (s.here.rP h.g) t.bytes).any
        (fun i => (s.here.rV b).poison.getLsbD (t.bytes * i / 64)))
      (fun k => (s.here.rS base).val + BitVec.ofNat 64 (lane (s.here.rV b).bits t.bytes k * t.bytes))) :=
  congrArg Host.Outcome.next (laneOp_runs hl)

/-- vlds reads lane i at A + i × B (R236). -/
theorem exec_vlds {t : VTy} {b : BitVec 6} (hl : LaneRuns s h) :
    exec (.vlds h t d base b) s = .next (laneLoad s h d t.bytes
      ((s.here.rS base).poison || (s.here.rS b).poison)
      (fun k => (s.here.rS base).val + BitVec.ofNat 64 k * (s.here.rS b).val)) :=
  congrArg Host.Outcome.next (laneOp_runs hl)

end Loads

/-- The number of little-endian bytes is the sum of its base-256 digits (R3). -/
theorem bytesNat_map_range (f : Nat → Byte) (n : Nat) :
    bytesNat ((List.range n).map f) = ((List.range n).map (fun i => (f i).toNat * 256 ^ i)).sum := by
  induction n generalizing f with
  | zero => rfl
  | succ n ih =>
    simp only [List.range_succ_eq_map, List.map_cons, List.map_map, bytesNat, List.sum_cons]
    have hscale : ((List.range n).map ((fun i => (f i).toNat * 256 ^ i) ∘ Nat.succ)).sum
        = 256 * ((List.range n).map (fun i => ((f ∘ Nat.succ) i).toNat * 256 ^ i)).sum := by
      rw [← List.sum_map_mul_left]
      congr 1
      refine List.map_congr_left fun i _ => ?_
      simp only [Function.comp, Nat.succ_eq_add_one, pow_succ]
      ring
    rw [ih, hscale]
    simp

/-- An aligned access of at most 8 bytes is one piece. -/
theorem piecesOf_word {ea : Word} {n : Nat} (hn : n ∣ 8) (ha : ea.toNat % n = 0) : piecesOf ea n = [⟨0, ea, n⟩] := by
  have hn8 : n ≤ 8 := Nat.le_of_dvd (by decide) hn
  have hpos : n ≠ 0 := by rintro rfl; simp at hn
  have hfit : ea.toNat % 64 + n ≤ 64 := by interval_cases n <;> omega
  have hmin : min n (64 - ea.toNat % 64) = n := by omega
  simp [piecesOf, cutPieces, hpos, hmin]

/-- The offset in the window of an address in the aperture (R213). -/
theorem spmOff_of_aperture {ea : Word} (h : 0xFFFFFFFFFFE00000 ≤ ea.toNat) : spmOff ea = ea.toNat - 0xFFFFFFFFFFE00000 := by
  have := ea.isLt
  unfold spmOff
  omega

/-- A piece inside the share and on a line without the form bit reads what its line holds (R216, R229). -/
theorem readSpm_piece {m : Spm} {p : Piece} {band : Band} (hsize : spmOff p.ea + p.len ≤ m.size)
    (hform : (spmLine m (spmOff p.ea / 256)).form = false)
    (hband : bandOf [(spmLine m (spmOff p.ea / 256)).band] = some band) :
    readSpm m [p] = .ok ⟨spmPiece m p, [(spmLine m (spmOff p.ea / 256)).band]⟩ := by
  simp [readSpm, spmPieceFaults, firstFault, hform, hband, Nat.not_lt.mpr hsize]

/-- The bytes of a piece that stays in one granule of one line: those of the line, each with the granule's mark. -/
theorem spmPiece_granule {m : Spm} {p : Piece} (h : spmOff p.ea % 64 + p.len ≤ 64) :
    spmPiece m p = (List.range p.len).map (fun i =>
      (p.off + i, lineByte (spmLine m (spmOff p.ea / 256)).bits (spmOff p.ea % 256 + i),
        (spmLine m (spmOff p.ea / 256)).poison.getLsbD (spmOff p.ea % 256 / 64))) := by
  refine List.map_congr_left fun i hi => ?_
  have hi' : i < p.len := List.mem_range.mp hi
  dsimp only
  rw [show (spmOff p.ea + i) / 256 = spmOff p.ea / 256 by omega,
    show (spmOff p.ea + i) % 256 = spmOff p.ea % 256 + i by omega,
    show (spmOff p.ea % 256 + i) / 64 = spmOff p.ea % 256 / 64 by omega]

/-- A scalar load of bytes of one granule writes their number, with the band read and the granule's mark (R235). -/
theorem loadWrites_word {d : BitVec 6} {n off : Nat} {f : Nat → Byte} {p : Bool} {b band : Band} (hn : n ≠ 0)
    (hband : bandOf [b] = some band) :
    loadWrites (.s d) ⟨(List.range n).map (fun i => (off + i, f i, p)), [b]⟩
      = .ok [.s d ⟨BitVec.ofNat 64 (((List.range n).map (fun i => (f i).toNat * 256 ^ i)).sum), band, p⟩] := by
  have hany : ((List.range n).map (fun i => ((off + i, f i, p) : Nat × Byte × Bool))).any (·.2.2) = p := by
    obtain ⟨k, rfl⟩ := Nat.exists_eq_succ_of_ne_zero hn
    simp [List.range_succ_eq_map]
  simp only [loadWrites, hband, readWord, readAnyPoison, hany, List.map_map]
  exact congrArg (fun v => Except.ok [RegW.s d ⟨BitVec.ofNat 64 v, band, p⟩]) (bytesNat_map_range f n)

/-- The window gives an aligned word of at most 8 bytes as the number of its bytes, with the line's band and the granule's
mark (R3, R216, R229, R235). -/
theorem windowReads_word {s : State} {d : BitVec 6} {ea : Word} {n : Nat} {strong : Bool} {scope : BitVec 2} {band : Band}
    {line : SpmLine} (hline : spmLine s.here.spm (spmOff ea / 256) = line) (hn : n ∣ 8) (ha : ea.toNat % n = 0)
    (hdbg : s.here.dbg = false) (hsize : spmOff ea + n ≤ s.here.spm.size) (hform : line.form = false)
    (hband : bandOf [line.band] = some band) :
    WindowReads s ⟨.s d, piecesOf ea n, strong, scope, false, none⟩
      [.s d ⟨BitVec.ofNat 64 (((List.range n).map (fun i =>
        (line.bits.extractLsb' (8 * (spmOff ea % 256 + i)) 8).toNat * 256 ^ i)).sum), band,
        line.poison.getLsbD (spmOff ea % 256 / 64)⟩] := by
  subst hline
  have hpos : n ≠ 0 := by rintro rfl; simp at hn
  have hn8 : n ≤ 8 := Nat.le_of_dvd (by decide) hn
  have hfit : spmOff ea % 64 + n ≤ 64 := by
    unfold spmOff; interval_cases n <;> omega
  have hread : readSpm s.here.spm (piecesOf ea n) = _ :=
    (congrArg (readSpm s.here.spm) (piecesOf_word hn ha)).trans (readSpm_piece (p := ⟨0, ea, n⟩) hsize hform hband)
  refine ⟨by simp [hdbg], _, hread, ?_⟩
  rw [spmPiece_granule hfit]
  exact loadWrites_word hpos hband

/-- An aligned ld of the window lands the number of its bytes (R216, R231, R235). -/
theorem windowWordLoads : WindowWordLoads := by
  intro s h d base size kind scope off band r ea n o line hop hsz hp hal hwin hfit hform hdbg hband
  have hin : isSpm ea = true := decide_eq_true hwin
  have ho : spmOff ea = o := spmOff_of_aperture hwin
  have hn : n ∣ 8 := pow_dvd_pow 2 hsz
  have hread := windowReads_word (s := s) (d := d) (ea := ea) (n := n) (strong := kind) (scope := scope)
    (line := line) (ho ▸ rfl) hn hal hdbg (by rw [ho]; exact hfit) hform hband
  rw [ho] at hread
  exact ⟨_, (ld_loadsAt hop hp hsz (by rw [aligned_word hn, hal]; rfl)).1 hin _ hread⟩


/-- Settles O15: each op is its shared load at an unpoisoned, aligned address (`loadsAt_of_exec`, `laneLoads_of_exec`), and a
word of the window is one piece of one granule (`windowReads_word`). -/
theorem loadsReadTheirAddress : Obligations.LoadsReadTheirAddress := by
  unfold Obligations.LoadsReadTheirAddress
  refine ⟨windowWordLoads, ?_⟩
  intro s h d base q size kind scope off a b tile t r ea ring y act lanes LaneLoads
  refine ⟨fun hop hp => ⟨ld_loadsAt hop hp, vld_loadsAt hop hp, qset_loadsAt hop hp⟩, fun x => mload_loadsAt, ?_, ?_⟩
  · intro hop hp hv hcount hfill hb ha req w hw
    exact vldr_reads hop rfl rfl hp hv hcount hfill hb ha hw
  · intro hl hp
    refine ⟨fun hmarks hne hal => laneLoads_of_exec (exec_vldg hl) ?_ hne hal,
      fun hy hne hal => laneLoads_of_exec (exec_vlds hl) ?_ hne hal⟩
    · have hany : act.any (fun i => (s.here.rV b).poison.getLsbD (t.bytes * i / 64)) = false :=
        List.any_eq_false.mpr fun k hk => by rw [hmarks k hk]; decide
      exact Bool.or_eq_false_iff.mpr ⟨hp, hany⟩
    · exact Bool.or_eq_false_iff.mpr ⟨hp, hy⟩

end Sys2Proof.Machine
end

section
/-! SUPPORT. What the front of a context reads, and how a group begins (O38). -/
namespace Sys2Proof.Machine

/-- `t` differs from `s` only in contexts, and context `fe` only in what it is frozen on. -/
def SameButFrz (s t : State) (fe : FeId) (f : Frz) : Prop :=
  (∃ x, t = { s with ctxs := x }) ∧ t.ctx fe = { s.ctx fe with frz := f }

section Front
variable {s t : State} {fe : FeId} {f : Frz}

theorem translate_of_sameButFrz (h : SameButFrz s t fe f) (u : XUnit) (ea : Word) :
    translate t fe u ea = translate s fe u ea := by
  obtain ⟨⟨x, rfl⟩, hc⟩ := h
  unfold translate
  rw [hc]
  cases u <;> rfl

theorem pieceKeysOf_of_sameButFrz (h : SameButFrz s t fe f) (ps : List Piece) : pieceKeysOf t fe ps = pieceKeysOf s fe ps := by
  simp only [pieceKeysOf, translate_of_sameButFrz h]

theorem srcVals_frz (c : Ctx) (l : List VSrc) : srcVals { c with frz := f } l = srcVals c l := by
  induction l with
  | nil => rfl
  | cons x l ih =>
    simp only [srcVals, ih]
    cases x <;> rfl

/-- What holds an op before its issue does not depend on what its context is frozen on. -/
theorem opBlocked_of_sameButFrz (h : SameButFrz s t fe f) (i : Instr) : opBlocked t fe i = opBlocked s fe i := by
  have hkeys := pieceKeysOf_of_sameButFrz h
  obtain ⟨⟨x, rfl⟩, hc⟩ := h
  unfold opBlocked
  simp only [hc, hkeys, srcVals_frz]
  rfl

/-- An op is held before its issue by its group, or by a full copy queue (R111). -/
theorem opBlocked_cases {i : Instr} (h : opBlocked s fe i = some f) : f = .group ∨ ∃ ch, f = .copyFull ch := by
  unfold opBlocked at h
  split at h
  all_goals
    simp only [Option.ite_none_right_eq_some, Option.some.injEq] at h
    obtain ⟨-, rfl⟩ := h
    simp

theorem fabricOpen_of_sameButFrz (h : SameButFrz s t fe f) : fabricOpen t fe = fabricOpen s fe := by
  obtain ⟨⟨x, rfl⟩, hc⟩ := h
  unfold fabricOpen
  rw [hc]

theorem stalledRead_of_sameButFrz (h : SameButFrz s t fe f) (k : Nat) : stalledRead t k = stalledRead s k := by
  obtain ⟨x, rfl⟩ := h.1
  rfl

theorem genAwaits_of_sameButFrz (h : SameButFrz s t fe f) : genAwaits t fe = genAwaits s fe := by
  obtain ⟨⟨x, rfl⟩, hc⟩ := h
  unfold genAwaits genWord storeWord
  rw [hc]
  rfl

theorem headBlock_of_sameCtx (h : SameButFrz s t fe (s.ctx fe).frz) (g : RGroup) : headBlock t fe g = headBlock s fe g := by
  have hc : t.ctx fe = s.ctx fe := h.2
  unfold headBlock
  rw [hc, funext (opBlocked_of_sameButFrz h), funext (translate_of_sameButFrz h .core), fabricOpen_of_sameButFrz h,
    funext (stalledRead_of_sameButFrz h)]

/-- The front of a context reads no other context. -/
theorem front_of_sameCtx (h : SameButFrz s t fe (s.ctx fe).frz) : front t fe = front s fe := by
  have hc : t.ctx fe = s.ctx fe := h.2
  unfold front headFront emptyFront
  simp only [headBlock_of_sameCtx h, genAwaits_of_sameButFrz h, hc]

/-- A group that blocks its context, which was not frozen, blocks it still once the context is frozen before it (R111). -/
theorem headBlock_frozen {g : RGroup} (h : SameButFrz s t fe f) (hfrz : (s.ctx fe).frz = .none)
    (hb : headBlock s fe g = some f) : (headBlock t fe g).isSome = true ∧ f.before = true := by
  have hop := opBlocked_of_sameButFrz h
  have hc := h.2
  unfold headBlock at hb
  dsimp only at hb
  rw [hfrz] at hb
  obtain ⟨hskip, hfind⟩ := Option.ite_none_left_eq_some.mp hb
  change (groupOps g.words).findSome? (fun x => opBlocked s fe x.2) = some f at hfind
  obtain ⟨x, -, hx⟩ := List.exists_of_findSome?_eq_some hfind
  have hskip' : ¬ (t.ctx fe).regs.skip ≠ 0#7 := by rw [hc]; exact hskip
  have hfrz' : (t.ctx fe).frz = f := by rw [hc]
  unfold headBlock
  dsimp only
  rw [if_neg hskip', hfrz', funext hop]
  rcases opBlocked_cases hx with rfl | ⟨ch, rfl⟩
  · refine ⟨?_, rfl⟩
    dsimp only
    split
    · rfl
    · rw [hfind]; rfl
  · exact ⟨by rw [hfind]; rfl, rfl⟩

/-- A blocked context stays blocked when it freezes before its head group (R111). -/
theorem front_frozen {g : RGroup} (h : SameButFrz s t fe f) (hg : headGroup (s.ctx fe) = some g) (hfrz : (s.ctx fe).frz = .none)
    (hb : headBlock s fe g = some f) : front t fe = front s fe := by
  obtain ⟨hblock, hbefore⟩ := headBlock_frozen h hfrz hb
  have hc := h.2
  have hhead : headFront t fe = headFront s fe := by
    have hg' : headGroup (t.ctx fe) = some g := by rw [hc]; exact hg
    unfold headFront
    simp only [hg, hg', hb, hblock]
    rw [hc]
    rfl
  unfold front
  simp only [hc, hhead, hfrz, hbefore]
  rfl

end Front

/-! ### A cycle of a core -/

theorem sameButFrz_modCtx_other (s : State) {fe g : FeId} (h : fe ≠ g) (f : Ctx → Ctx) :
    SameButFrz s (s.modCtx g f) fe (s.ctx fe).frz :=
  ⟨⟨_, rfl⟩, s.ctx_modCtx_other f h⟩

theorem SameButFrz.trans {s t u : State} {fe : FeId} {f f' : Frz} (h : SameButFrz s t fe f) (h' : SameButFrz t u fe f') :
    SameButFrz s u fe f' := by
  obtain ⟨⟨x, rfl⟩, hc⟩ := h
  obtain ⟨⟨y, rfl⟩, hc'⟩ := h'
  exact ⟨⟨y, rfl⟩, by rw [hc', hc]⟩

/-- No group is dropped where none is to be dropped (R134). -/
theorem dropGroups_zero {c : Ctx} (h : c.regs.loop.drop = 0#6) : c.dropGroups = c := by
  simp [Ctx.dropGroups, h]

section Head
variable {s : State} {fe : FeId}

/-- The state at the head of a cycle where no group is to be dropped. -/
theorem sameButFrz_dropGroups (hd : (s.ctx fe).regs.loop.drop = 0#6) :
    SameButFrz s (s.modCtx fe Ctx.dropGroups) fe (s.ctx fe).frz :=
  ⟨⟨_, rfl⟩, by rw [State.ctx_modCtx_same, dropGroups_zero hd]⟩

theorem headCycle_other {g : FeId} (h : g ≠ fe) : SameButFrz s (headCycle s fe) g (s.ctx g).frz := by
  have h1 := sameButFrz_modCtx_other s h Ctx.dropGroups
  unfold headCycle
  dsimp only
  split
  · split
    · refine h1.trans ?_
      rw [← show ((s.modCtx fe Ctx.dropGroups).ctx g).frz = (s.ctx g).frz by rw [h1.2]]
      exact sameButFrz_modCtx_other _ h _
    · exact h1
  · exact h1

/-- The head of a cycle where no group is to be dropped changes nothing that the front of its context reads, but for what
the context is frozen on (R111). -/
theorem headCycle_self (hd : (s.ctx fe).regs.loop.drop = 0#6) :
    ∃ f, SameButFrz s (headCycle s fe) fe f ∧ front (headCycle s fe) fe = front s fe ∧
      (front s fe ≠ .blocked → f = (s.ctx fe).frz) := by
  have h1 := sameButFrz_dropGroups hd
  have hc : (s.modCtx fe Ctx.dropGroups).ctx fe = s.ctx fe := h1.2
  have hfront := front_of_sameCtx h1
  unfold headCycle
  dsimp only
  split
  next g hg =>
    split
    next hb =>
      obtain ⟨hblocked, hfrz, -⟩ := hb
      rw [hc] at hg hfrz
      have h2 : SameButFrz s ((s.modCtx fe Ctx.dropGroups).modCtx fe (fun c =>
          { c with frz := (headBlock (s.modCtx fe Ctx.dropGroups) fe g).getD c.frz })) fe
          ((headBlock s fe g).getD (s.ctx fe).frz) :=
        ⟨⟨_, rfl⟩, by rw [State.ctx_modCtx_same, headBlock_of_sameCtx h1, hc]⟩
      refine ⟨_, h2, ?_, fun hne => absurd (hfront ▸ hblocked) hne⟩
      cases hblock : headBlock s fe g with
      | none => rw [hblock] at h2; exact front_of_sameCtx h2
      | some f => rw [hblock] at h2; exact front_frozen h2 hg hfrz hblock
    next => exact ⟨_, h1, hfront, fun _ => rfl⟩
  next => exact ⟨_, h1, hfront, fun _ => rfl⟩

end Head

/-- What the heads of both contexts of a core leave for its cycle: both fronts as before, and a context that is not blocked as
before. -/
structure CycleHead (s t : State) (core : CoreId) : Prop where
  ctxs : ∃ x, t = { s with ctxs := x }
  frontA : front t (feA core) = front s (feA core)
  frontB : front t (feB core) = front s (feB core)
  ctxA : front s (feA core) ≠ .blocked → t.ctx (feA core) = s.ctx (feA core)
  ctxB : front s (feB core) ≠ .blocked → t.ctx (feB core) = s.ctx (feB core)

theorem feA_ne_feB (core : CoreId) : feA core ≠ feB core := by
  revert core; decide
theorem coreOf_feA (core : CoreId) : coreOf (feA core) = core.toNat := by
  revert core; decide
theorem coreOf_feB (core : CoreId) : coreOf (feB core) = core.toNat := by
  revert core; decide

theorem cycleHead_headCycle {s : State} {core : CoreId} (ha : (s.ctx (feA core)).regs.loop.drop = 0#6)
    (hb : (s.ctx (feB core)).regs.loop.drop = 0#6) :
    CycleHead s (headCycle (headCycle s (feA core)) (feB core)) core := by
  have hne := feA_ne_feB core
  obtain ⟨f, ha1, hfrontA, hsameA⟩ := headCycle_self ha
  have hb1 := headCycle_other (s := s) hne.symm
  have hcb : (headCycle s (feA core)).ctx (feB core) = s.ctx (feB core) := hb1.2
  have hfrontB1 := front_of_sameCtx hb1
  obtain ⟨f', hb2, hfrontB, hsameB⟩ := headCycle_self (s := headCycle s (feA core)) (fe := feB core) (by rw [hcb]; exact hb)
  have ha2 := headCycle_other (s := headCycle s (feA core)) hne
  refine ⟨(hb1.trans hb2).1, (front_of_sameCtx ha2).trans hfrontA, hfrontB.trans hfrontB1, fun h => ?_, fun h => ?_⟩
  · rw [show (headCycle (headCycle s (feA core)) (feB core)).ctx (feA core) = _ from ha2.2, ha1.2, hsameA h]
  · rw [hb2.2, hsameB (hfrontB1 ▸ h), hcb]

/-- A context with a ready group is a candidate where no second vector cycle runs (R13, R112). -/
theorem cand_ready {s : State} {fe : FeId} {g : RGroup} (h2 : (s.core (coreOf fe)).second = none) (h : front s fe = .ready g) :
    cand s fe = some ⟨fe, g, (s.ctx fe).regs.skip != 0#7, (s.ctx fe).ident.prio.toNat, (s.ctx fe).denial.toNat⟩ := by
  simp [cand, h2, h]

theorem cand_blocked {s : State} {fe : FeId} (h : front s fe = .blocked) : cand s fe = none := by
  simp [cand, h]

theorem Cand.may_of_second {s : State} {x : Cand} (h : (s.core (coreOf x.fe)).second = none) : x.may s = true := by
  simp [Cand.may, h]

/-- A cycle without idle contexts and without a second vector cycle is the choice among the candidates (R112). -/
theorem mergeCycle_eq {s t : State} {core : CoreId} (ht : headCycle (headCycle s (feA core)) (feB core) = t)
    (ha : front t (feA core) ≠ .idle) (hb : front t (feB core) ≠ .idle) (h2 : (t.core core.toNat).second = none) :
    mergeCycle s core = issueCycle t core (cand t (feA core)) (cand t (feB core)) := by
  simp [mergeCycle, ht, idleCycle, ha, hb, h2]

/-- A group that begins on the head of a cycle stands next, its context as before (R111, R233, R234). -/
theorem groupBegins_beginGroup {s t : State} {x : Cand} {pair rival : Option FeId} (ht : ∃ y, t = { s with ctxs := y })
    (hc : t.ctx x.fe = s.ctx x.fe) : GroupBegins s (beginGroup t x pair rival) x.fe x.grp := by
  have hagenda : t.agenda = s.agenda := by obtain ⟨y, rfl⟩ := ht; rfl
  have hmem : t.mem = s.mem := by obtain ⟨y, rfl⟩ := ht; rfl
  have hctx : (beginGroup t x pair rival).ctx x.fe = { (if groupMark x.grp.words
      then { (s.ctx x.fe).releaseGate with spm := { (s.ctx x.fe).spm with undo := [] } } else s.ctx x.fe) with
      frz := .none, idle := .none } := by
    rw [← hc]; exact State.ctx_setCtx_same ..
  refine ⟨rfl, fun a => congrArg (memRead · a) hmem, ?_, by rw [← hagenda]; rfl, ⟨_, rfl, rfl, rfl, rfl, rfl, rfl⟩,
    fun hm => ?_⟩
  · rw [hctx]; split <;> rfl
  · rw [hctx, if_pos hm]; exact ⟨rfl, rfl, rfl⟩

/-- The one candidate of a cycle begins its group. -/
theorem issueCycle_one {s : State} {core : CoreId} {x : Cand} (h : x.may s = true) :
    issueCycle s core (some x) none = beginGroup s x none none ∧
    issueCycle s core none (some x) = beginGroup s x none none := by
  simp [issueCycle, h, denied, Option.filter]

/-- Of two candidates the winner begins its group (R112, R113). -/
theorem issueCycle_two {s : State} {core : CoreId} {x y : Cand} (hx : x.may s = true) (hy : y.may s = true) :
    ∃ pair rival, issueCycle s core (some x) (some y) = beginGroup s (winner x y).1 pair rival := by
  simp only [issueCycle, Option.filter_some_pos hx, Option.filter_some_pos hy]
  split
  · exact ⟨_, _, rfl⟩
  · exact ⟨_, _, rfl⟩

/-- The first candidate wins on its denial count, or when the second one's is not full and its priority is not higher; else the
second one wins (R112). -/
theorem winner_first {x y : Cand} (h : x.denial = 256 ∨ y.denial ≠ 256 ∧ y.prio ≤ x.prio) : (winner x y).1 = x := by
  unfold winner
  rcases h with h | ⟨hd, hp⟩
  · rw [if_pos h]
  · rw [if_neg hd, if_neg (Nat.not_lt.mpr hp), ite_self]
theorem winner_second {x y : Cand} (hx : x.denial ≠ 256) (h : y.denial = 256 ∨ x.prio < y.prio) : (winner x y).1 = y := by
  unfold winner
  rw [if_neg hx]
  rcases h with h | h
  · rw [if_pos h]
  · rw [if_pos h, ite_self]

section Cycle
variable {s : State} {core : CoreId} {i : Instr}

/-- MERGE_STAGE_ISSUE, and STARVATION_BREAK where a context is starved, is a cycle of the core once no group issues (R112). -/
theorem exec_cycle (hi : i = .mergeStageIssue core ∨ (i = .starvationBreak core ∧ starved s core = true))
    (hissue : s.issue = none) : exec i s = .next (mergeCycle s core) := by
  rcases hi with rfl | ⟨rfl, hst⟩
  · change execMergeStageIssue core s = _
    simp [execMergeStageIssue, hissue]
  · change execStarvationBreak core s = _
    simp [execStarvationBreak, hissue, hst]

variable (h2 : (s.core core.toNat).second = none) (ha : (s.ctx (feA core)).regs.loop.drop = 0#6)
  (hb : (s.ctx (feB core)).regs.loop.drop = 0#6)
include h2 ha hb

/-- A cycle of a core with no idle context issues among the candidates that its two fronts give (R112). -/
theorem mergeCycle_candidates (hia : front s (feA core) ≠ .idle) (hib : front s (feB core) ≠ .idle) :
    ∃ t, CycleHead s t core ∧ (t.core core.toNat).second = none ∧
      mergeCycle s core = issueCycle t core (cand t (feA core)) (cand t (feB core)) := by
  have hh := cycleHead_headCycle ha hb
  have hcore : ((headCycle (headCycle s (feA core)) (feB core)).core core.toNat).second = none := by
    obtain ⟨x, hx⟩ := hh.ctxs
    rw [hx]; exact h2
  exact ⟨_, hh, hcore, mergeCycle_eq rfl (by rwa [hh.frontA]) (by rwa [hh.frontB]) hcore⟩

theorem mergeCycle_onlyA {g : RGroup} (hfa : front s (feA core) = .ready g) (hfb : front s (feB core) = .blocked) :
    GroupBegins s (mergeCycle s core) (feA core) g := by
  obtain ⟨t, hh, hs2, heq⟩ := mergeCycle_candidates h2 ha hb (by simp [hfa]) (by simp [hfb])
  rw [← coreOf_feA] at hs2
  rw [heq, cand_ready hs2 (hh.frontA.trans hfa), cand_blocked (hh.frontB.trans hfb),
    (issueCycle_one (Cand.may_of_second hs2)).1]
  exact groupBegins_beginGroup hh.ctxs (hh.ctxA (by simp [hfa]))

theorem mergeCycle_onlyB {g : RGroup} (hfa : front s (feA core) = .blocked) (hfb : front s (feB core) = .ready g) :
    GroupBegins s (mergeCycle s core) (feB core) g := by
  obtain ⟨t, hh, hs2, heq⟩ := mergeCycle_candidates h2 ha hb (by simp [hfa]) (by simp [hfb])
  rw [← coreOf_feB] at hs2
  rw [heq, cand_ready hs2 (hh.frontB.trans hfb), cand_blocked (hh.frontA.trans hfa),
    (issueCycle_one (Cand.may_of_second hs2)).2]
  exact groupBegins_beginGroup hh.ctxs (hh.ctxB (by simp [hfb]))

/-- With two ready contexts the winner of R112 begins its group. -/
theorem mergeCycle_two {ga gb : RGroup} (hfa : front s (feA core) = .ready ga) (hfb : front s (feB core) = .ready gb) :
    let x := s.ctx (feA core)
    let y := s.ctx (feB core)
    let ca : Cand := ⟨feA core, ga, x.regs.skip != 0#7, x.ident.prio.toNat, x.denial.toNat⟩
    let cb : Cand := ⟨feB core, gb, y.regs.skip != 0#7, y.ident.prio.toNat, y.denial.toNat⟩
    GroupBegins s (mergeCycle s core) (winner ca cb).1.fe (winner ca cb).1.grp := by
  intro x y ca cb
  obtain ⟨t, hh, hs2, heq⟩ := mergeCycle_candidates h2 ha hb (by simp [hfa]) (by simp [hfb])
  have hcA := hh.ctxA (by simp [hfa])
  have hcB := hh.ctxB (by simp [hfb])
  have hsA : (t.core (coreOf (feA core))).second = none := by rw [coreOf_feA]; exact hs2
  have hsB : (t.core (coreOf (feB core))).second = none := by rw [coreOf_feB]; exact hs2
  have hcandA : cand t (feA core) = some ca := by rw [cand_ready hsA (hh.frontA.trans hfa), hcA]
  have hcandB : cand t (feB core) = some cb := by rw [cand_ready hsB (hh.frontB.trans hfb), hcB]
  obtain ⟨pair, rival, hwin⟩ := issueCycle_two (core := core) (Cand.may_of_second (x := ca) hsA)
    (Cand.may_of_second (x := cb) hsB)
  rw [heq, hcandA, hcandB, hwin]
  refine groupBegins_beginGroup hh.ctxs ?_
  unfold winner
  split_ifs
  · exact hcA
  · exact hcB
  · exact hcB
  · exact hcA

end Cycle

/-- A window whose predicate has landed resolves, and closes when nothing is left of it (R127, R128). -/
theorem EWin.resolve_eq {w : EWin} {p : PReg} (ho : w.opened = true) :
    w.resolve p = if w.left = 0#5 ∧ (p.bits.getLsbD 0 = true ∨ w.entries = []) then EWin.reset
      else { w with resolved := true, committed := !p.bits.getLsbD 0,
                    entries := if p.bits.getLsbD 0 then [] else w.entries } := by
  cases hp : p.bits.getLsbD 0 <;>
    simp [-BitVec.getLsbD_eq_getElem, EWin.resolve, EWin.close, hp, ho]

/-- ESKIP_RESOLVE of a running context's open window whose predicate has landed unpoisoned (R127). -/
theorem exec_eskipResolve {s : State} {fe : FeId} (hlife : (s.ctx fe).life = .running) (ho : (s.ctx fe).regs.win.opened = true)
    (hr : (s.ctx fe).regs.win.resolved = false)
    (hpend : predPending (s.ctx fe) (s.ctx fe).regs.win.pred (s.ctx fe).regs.win.seq = false)
    (hp : ((s.ctx fe).rP (s.ctx fe).regs.win.pred).poison = false) :
    exec (.eskipResolve fe) s = .next (s.setCtx fe { s.ctx fe with regs := { (s.ctx fe).regs with
      win := (s.ctx fe).regs.win.resolve ((s.ctx fe).rP (s.ctx fe).regs.win.pred) } }) := by
  change execEskipResolve fe s = _
  simp [execEskipResolve, resolveWindow, hlife, ho, hr, hpend, hp, State.modCtx]

/-- ESKIP_ENTRY_ENTER has the oldest entry of a committed window run next (R127). -/
theorem exec_eskipEntryEnter {s : State} {fe : FeId} {e : EngOp} {rest : List EngOp} (hlife : (s.ctx fe).life = .running)
    (hcom : (s.ctx fe).regs.win.committed = true) (he : (s.ctx fe).regs.win.entries = e :: rest) (hissue : s.issue = none) :
    exec (.eskipEntryEnter fe) s = .next { s with
      issue := some ⟨fe, s.ctx fe, (s.core (coreOf fe)).mq,
        ⟨setGroupWord 0#512 e.slot.toNat e.word, e.prov, (s.ctx fe).band, none, false⟩,
        false, false, false, false, (s.ctx fe).band, [], none, none, some e, none⟩
      cur := fe, agenda := [Act.op fe e.word, Act.fin fe] ++ s.agenda } := by
  change execEskipEntryEnter fe s = _
  simp [execEskipEntryEnter, hlife, hcom, he, hissue]

/-- Settles O38: the heads of a cycle leave both fronts as they are (`cycleHead_headCycle`), so the candidates are the ready
contexts and the winner's group begins. -/
theorem groupsIssueInPriorityOrder : Obligations.GroupsIssueInPriorityOrder := by
  unfold Obligations.GroupsIssueInPriorityOrder
  intro s core i ga gb fe e rest a b x y c w
  refine ⟨fun hi hissue h2 ha hb => ?_, fun hlife ho hr hpend hp => ?_, fun hlife hcom he hissue => ?_⟩
  · have hexec := exec_cycle hi hissue
    refine ⟨fun hfa hfb => ⟨_, hexec, mergeCycle_onlyA h2 ha hb hfa hfb⟩,
      fun hfa hfb => ⟨_, hexec, mergeCycle_onlyB h2 ha hb hfa hfb⟩, fun hfa hfb => ?_⟩
    have hwin := mergeCycle_two h2 ha hb hfa hfb
    dsimp only at hwin
    refine ⟨fun hx => ⟨_, hexec, ?_⟩, fun hx hy => ⟨_, hexec, ?_⟩⟩
    · rw [winner_first] at hwin
      · exact hwin
      · exact hx.imp (congrArg BitVec.toNat) (And.imp_left (mt (fun h => BitVec.eq_of_toNat_eq h)))
    · rw [winner_second] at hwin
      · exact hwin
      · exact mt (fun h => BitVec.eq_of_toNat_eq h) hx
      · exact hy.imp_left (congrArg BitVec.toNat)
  · rw [exec_eskipResolve hlife ho hr hpend hp, EWin.resolve_eq ho]
    rfl
  · exact ⟨_, exec_eskipEntryEnter hlife hcom he hissue, rfl, rfl, rfl, fun _ => rfl, _, rfl, rfl, rfl⟩

end Sys2Proof.Machine
end

section
/-! SUPPORT. Kernels, the region table and the fill ports (O48). -/
namespace Sys2Proof.Machine

theorem pget_pset_same {α : Type} (l : List (Nat × α)) (k : Nat) (v : α) : pget (pset l k v) k = some v := by
  induction l with
  | nil => simp [pset, pget]
  | cons p t ih =>
    obtain ⟨k', v'⟩ := p
    simp only [pset]
    split
    · simp [pget]
    · split
      · simp [pget]
      · rename_i _ hne
        simp [pget, hne, ih]

/-- The descriptor that KERNEL_REGISTER keeps: the words given, with VALID (R325). -/
def registeredKernel (desc : List Word) : Kernel :=
  Vector.ofFn (fun i : Fin 16 => if i.val = 10 then (desc[i.val]?.getD 0#64) ||| 0x10000#64 else desc[i.val]?.getD 0#64)

theorem registeredKernel_word {desc : List Word} {i : Nat} {x : Word} (hl : desc.length = 16) (hx : desc[i]? = some x) :
    (registeredKernel desc)[i]?.getD 0#64 = if i = 10 then x ||| 0x10000#64 else x := by
  have hi : i < 16 := by rw [← hl]; exact (List.getElem?_eq_some_iff.mp hx).1
  rw [registeredKernel, Vector.getElem?_ofFn, dif_pos hi]
  simp only [hx, Option.getD_some]

/-- A kernel without a Cistern image registers under its handle (R325, R328). -/
theorem exec_kernelRegister {s : State} {handle : BitVec 32} {desc : List Word} (hh : handle.toNat < 65536)
    (hl : desc.length = 16) (himg : kCimg (registeredKernel desc) = 0) :
    exec (.kernelRegister handle desc) s
      = .next { s with hw := { s.hw with kernels := pset s.hw.kernels handle.toNat (registeredKernel desc) } } := by
  change execKernelRegister handle desc s = _
  unfold registeredKernel at himg
  simp only [execKernelRegister, registeredKernel, himg, hl, Nat.not_le.mpr hh, ne_eq, not_true_eq_false, or_self,
    if_false, if_true, false_and]

theorem kernelRegister_registers {s : State} {handle : BitVec 32} {desc : List Word} (hh : handle.toNat < 65536)
    (hl : desc.length = 16) (himg : ∀ x ∈ desc[12]?, x = 0#64) :
    ∃ (t : State) (k' : Kernel), exec (.kernelRegister handle desc) s = .next t ∧ kernelOf t handle = some k' ∧
      ∀ i x, desc[i]? = some x → k'[i]?.getD 0#64 = if i = 10 then x ||| 0x10000#64 else x := by
  obtain ⟨x, hx⟩ : ∃ x, desc[12]? = some x := ⟨_, List.getElem?_eq_getElem (by omega)⟩
  have hzero : kCimg (registeredKernel desc) = 0 := by
    rw [kCimg, kField, registeredKernel_word hl hx, if_neg (by decide), himg x hx]
    rfl
  refine ⟨_, registeredKernel desc, exec_kernelRegister hh hl hzero, ?_, fun i x hx => registeredKernel_word hl hx⟩
  unfold kernelOf
  rw [if_neg (by omega)]
  exact pget_pset_same ..

/-! ### The region table (R223, R224) -/

/-- A legal entry that overlaps no other becomes valid (R224). -/
theorem validateRegion_legal {s : State} {n : BitVec 6} {w0 : Word} {r : Region}
    (hr : { regionAt s n with base := (w0 &&& 0xFFFFFFFFFF000#64) ||| 1#64 } = r) (hle : r.first ≤ r.last)
    (hlegal : r.legal = true) (hover : regionOverlaps s n.toNat r = false) :
    validateRegion s n w0 = { s with regions := vset s.regions n r } := by
  subst hr
  unfold validateRegion
  exact if_pos ⟨hle, hlegal, hover⟩

/-- The offset of word 0 of an entry holds a register (R28). -/
theorem ioReg_region (n : BitVec 6) : ioReg (32 * n.toNat) = true := by
  have h8 : 32 * n.toNat % 8 = 0 := by omega
  have hlt : 32 * n.toNat < 0x800 := by omega
  simp [ioReg, h8, hlt]

/-- The MMIO address of word 0 of an entry (R28). -/
theorem mmioWrite_region (s : State) (who : Agent) (n : BitVec 6) (data : Word) :
    mmioWrite s who (0xF800000000 + 32 * n.toNat) data = writeRegion s who n 0 data := by
  have hn := n.isLt
  unfold mmioWrite
  rw [if_neg (by omega), if_pos (by omega), Nat.add_sub_cancel_left]
  unfold writeIo
  rw [ioReg_region, if_neg (by decide), if_pos (by omega), Nat.mul_div_cancel_left _ (by decide), Nat.mul_mod_right]
  simp

/-- An agent that may write an entry reads the word that stands there (R7, R28). -/
theorem mmioRead_region {s : State} {who : Agent} {n : BitVec 6} {r : Region} (hwho : mayWriteRegion who r = true) :
    mmioRead s who (0xF800000000 + 32 * n.toNat) = (regionAt s n).base := by
  have hn := n.isLt
  have hmay : mayReadIo who (32 * n.toNat) = true := by
    cases who with
    | headwater => rfl
    | crown k => rfl
    | host0 => cases hwho
    | host1 => cases hwho
  unfold mmioRead
  rw [if_neg (by omega), if_pos (by omega), Nat.add_sub_cancel_left]
  dsimp only
  rw [ioReg_region, hmay]
  unfold readIo
  rw [if_pos (by decide), if_pos (by omega), Nat.mul_div_cancel_left _ (by decide), Nat.mul_mod_right]
  simp [readRegion]

theorem regionAt_vset (s : State) (n : BitVec 6) (r : Region) : regionAt { s with regions := vset s.regions n r } n = r := by
  simp [regionAt, vget, vset, n.isLt]

/-! ### The fill ports (R222, R328) -/

theorem portOf_setPort (s : State) (die : BitVec 2) (p : FillPort) : portOf (setPort s die.toNat p) die.toNat = p := by
  simp [portOf, setPort, die.isLt]

theorem setPort_setPort (s : State) (die : Nat) (p q : FillPort) : setPort (setPort s die p) die q = setPort s die q := by
  simp [setPort]

/-- A legal GO starts the fill (R222). -/
theorem exec_fillGo {s : State} {die : BitVec 2} {data : Word} {p : FillPort} (hp : portOf s die.toNat = p)
    (hbusy : p.busy = false) (hbound : boundOn s die.toNat = 0) (hdst : p.dst.toNat + p.len.toNat ≤ 536870912)
    (hsrc : fillSource p.src.toNat p.len.toNat = true) :
    exec (.fillGo die data) s = .next (setPort s die.toNat { p with
      done := p.done && !data.getLsbD 2, err := p.err && !data.getLsbD 3, busy := true, tag := 0#32 }) := by
  subst hp
  have hgo : (data ||| 1#64).getLsbD 0 = true := by simp
  have h2 : (data ||| 1#64).getLsbD 2 = data.getLsbD 2 := by simp
  have h3 : (data ||| 1#64).getLsbD 3 = data.getLsbD 3 := by simp
  have hbound' : ∀ q, boundOn (setPort s die.toNat q) die.toNat = 0 := fun _ => hbound
  change Host.Outcome.next (fillControl s die (data ||| 1#64)) = _
  unfold fillControl fillGo
  simp only [hgo, h2, h3, if_true, portOf_setPort, setPort_setPort, hbound', hsrc, hbusy, Nat.not_lt.mpr hdst]
  rfl

/-- The fill of a held die starts (R328). -/
theorem exec_fillHoldFill {s : State} {die : BitVec 2} {p : FillPort} {id kern : BitVec 32} {task : Task} {k : Kernel}
    (hp : portOf s die.toNat = p) (hhold : p.hold = some (id, kern)) (htask : s.task id = some task)
    (hk : kernelOf s kern = some k) (hbusy : p.busy = false) (hbound : boundOn s die.toNat = 0) :
    exec (.fillHoldFill die) s = .next (setPort s die.toNat { p with
      src := BitVec.ofNat 64 (kCimg k), dst := 0#64, len := BitVec.ofNat 64 (kClen k), busy := true, tag := 0#32 }) := by
  subst hp
  change execFillHoldFill die s = _
  simp [execFillHoldFill, hhold, htask, hk, fillReady, hbusy, hbound]

/-- `t` has the memory, the fill ports and the trace of `s`. -/
structure SameStore (s t : State) : Prop where
  mem : t.mem = s.mem
  fills : t.fills = s.fills
  trace : t.trace = s.trace

theorem SameStore.refl (s : State) : SameStore s s := ⟨rfl, rfl, rfl⟩
theorem SameStore.trans {s t u : State} (h : SameStore s t) (h' : SameStore t u) : SameStore s u :=
  ⟨h'.mem.trans h.mem, h'.fills.trans h.fills, h'.trace.trans h.trace⟩

theorem traceEv_disabled {s : State} (h : s.trace.en = false) (e : TraceEv) : s.traceEv e = s := by
  simp [State.traceEv, h]

/-- The events of a read that meets a media error touch memory only through the trace (R323). -/
theorem mediaEvents_sameStore {s : State} (h : s.trace.en = false) (src : BitVec 16) (line : Nat) (e : MediaErr) :
    SameStore s (mediaEvents s src line e) := by
  refine List.foldlRecOn e.events _ (.refl s) fun t ht c _ => ht.trans ?_
  rw [traceEv_disabled (s := t.countError) (by rw [State.countError_trace, ht.trace]; exact h)]
  exact ⟨rfl, rfl, rfl⟩

/-- Headwater's reads change no byte while the trace is disabled (R323, R324). -/
theorem hwRead_sameStore {s : State} (h : s.trace.en = false) (a n : Nat) : SameStore s (hwRead s a n) := by
  refine List.foldlRecOn _ _ (.refl s) fun t ht i _ => ht.trans ?_
  split
  · exact .refl t
  next e _ =>
    split
    · exact (⟨rfl, rfl, rfl⟩ : SameStore t { t with media := pset t.media ((a + 64 * i) / 64) e }).trans
        (mediaEvents_sameStore (by rw [← h, ← ht.trace]) _ _ _)
    · exact .refl t

/-- The first n bytes of a fill reach the Cistern (R222). -/
theorem fillBytes_store {s : State} (h : s.trace.en = false) (die : Nat) (p : FillPort) (n : Nat) :
    SameStore { s with mem := memWrites s.mem (cisternBase die + p.dst.toNat) (memReads s.mem p.src.toNat n) }
      (fillBytes s die p n) := by
  obtain ⟨hmem, hfills, htrace⟩ := hwRead_sameStore h p.src.toNat n
  refine List.foldlRecOn _ _ ?_ fun t ht i _ => ht.trans ⟨rfl, rfl, rfl⟩
  exact ⟨by dsimp only; rw [hmem], hfills, htrace⟩

@[simp] theorem length_memReads (m : List Host.Cell) (k n : Nat) : (memReads m k n).length = n := by
  simp [memReads_eq]

/-- A copy of memory reads as its source in the place it is written to, and as before elsewhere. -/
theorem memRead_copy (m : List Host.Cell) (d a n : Nat) :
    (∀ j, j < n → memRead (memWrites m d (memReads m a n)) (d + j) = memRead m (a + j)) ∧
    (∀ j, j < d ∨ d + n ≤ j → memRead (memWrites m d (memReads m a n)) j = memRead m j) := by
  refine ⟨fun j hj => ?_, fun j hj => memRead_memWrites_other (by rw [length_memReads]; omega)⟩
  rw [memRead_memWrites_at (by rw [length_memReads]; exact hj)]
  simp [memReads_eq]

section Fill
variable {s : State} {die : BitVec 2} {p : FillPort} (hp : portOf s die.toNat = p) (hbusy : p.busy = true)
  (hhold : p.hold = none) (hen : s.trace.en = false)
include hp hbusy hhold hen

/-- The last granule of a readable source sets DONE (R222). -/
theorem fillComplete_copies (hdead : deadLine s p.src.toNat p.len.toNat = none) :
    let d := cisternBase die.toNat + p.dst.toNat
    ∃ t, exec (.fillComplete die) s = .next t ∧ portOf t die.toNat = { p with busy := false, done := true } ∧
      (∀ j, j < p.len.toNat → memRead t.mem (d + j) = memRead s.mem (p.src.toNat + j)) ∧
      (∀ j, (j < d ∨ d + p.len.toNat ≤ j) → memRead t.mem j = memRead s.mem j) := by
  subst hp
  have hstore := fillBytes_store hen die.toNat (portOf s die.toNat) (portOf s die.toNat).len.toNat
  obtain ⟨hin, hout⟩ := memRead_copy s.mem (cisternBase die.toNat + (portOf s die.toNat).dst.toNat)
    (portOf s die.toNat).src.toNat (portOf s die.toNat).len.toNat
  refine ⟨setPort (fillBytes s die.toNat (portOf s die.toNat) (portOf s die.toNat).len.toNat) die.toNat
    { portOf s die.toNat with busy := false, done := true }, ?_, portOf_setPort .., ?_, ?_⟩
  · change execFillComplete die s = _
    simp [execFillComplete, hbusy, hdead, hhold]
  · intro j hj
    exact (congrArg (memRead · _) hstore.mem).trans (hin j hj)
  · intro j hj
    exact (congrArg (memRead · _) hstore.mem).trans (hout j hj)

/-- A media error leaves a leading part of the source copied and sets ERR (R222). -/
theorem fillMediaError_copies :
    let d := cisternBase die.toNat + p.dst.toNat
    ∃ (t : State) (g : Nat), exec (.fillMediaError die) s = .next t ∧ g ≤ p.len.toNat / 256 ∧
      portOf t die.toNat = { p with busy := false, err := true } ∧
      (∀ j, j < 256 * g → memRead t.mem (d + j) = memRead s.mem (p.src.toNat + j)) ∧
      (∀ j, (j < d ∨ d + 256 * g ≤ j) → memRead t.mem j = memRead s.mem j) := by
  subst hp
  let g := (Config.freeWord s.fresh).toNat % ((portOf s die.toNat).len.toNat / 256 + 1)
  let s1 : State := { s with fresh := s.fresh + 1 }
  have hstore := fillBytes_store (s := s1) hen die.toNat (portOf s die.toNat) (256 * g)
  have hen' : (fillBytes s1 die.toNat (portOf s die.toNat) (256 * g)).trace.en = false := by rw [hstore.trace]; exact hen
  obtain ⟨hin, hout⟩ := memRead_copy s.mem (cisternBase die.toNat + (portOf s die.toNat).dst.toNat)
    (portOf s die.toNat).src.toNat (256 * g)
  have hfails : fillFails s1 die g = setPort (fillBytes s1 die.toNat (portOf s die.toNat) (256 * g)) die.toNat
      { portOf s die.toNat with busy := false, err := true } := by
    unfold fillFails
    dsimp only
    rw [show portOf s1 die.toNat = portOf s die.toNat from rfl, hhold, traceEv_disabled hen']
  refine ⟨fillFails s1 die g, g, ?_, Nat.lt_succ_iff.mp (Nat.mod_lt _ (Nat.succ_pos _)), ?_, ?_, ?_⟩
  · change execFillMediaError die s = _
    simp [execFillMediaError, hbusy, s1, g]
  · rw [hfails]; exact portOf_setPort ..
  · intro j hj
    rw [hfails]; exact (congrArg (memRead · _) hstore.mem).trans (hin j hj)
  · intro j hj
    rw [hfails]; exact (congrArg (memRead · _) hstore.mem).trans (hout j hj)

end Fill

/-! ### Class E events (R364, R425) -/

theorem traceEv_ctx (s : State) (e : TraceEv) (fe : FeId) : (s.traceEv e).ctx fe = s.ctx fe := by
  unfold State.traceEv
  split_ifs <;> rfl

theorem traceEv_throttle (s : State) (e : TraceEv) : (s.traceEv e).throttle = s.throttle := by
  unfold State.traceEv
  split_ifs <;> rfl

/-- The trace of `t` is frozen with the cause of that of `s`. -/
def StaysFrozen (s t : State) : Prop := t.trace.frozen = true ∧ t.trace.fcause = s.trace.fcause

theorem StaysFrozen.of_trace {s t : State} (h : s.trace.frozen = true) (ht : t.trace = s.trace) : StaysFrozen s t :=
  ⟨by rw [ht]; exact h, by rw [ht]⟩
theorem StaysFrozen.trans {s t u : State} (h : StaysFrozen s t) (h' : StaysFrozen t u) : StaysFrozen s u :=
  ⟨h'.1, h'.2.trans h.2⟩

/-- A frozen trace stays frozen, with its cause, whatever event comes (R425). -/
theorem traceEv_frozen {s : State} (h : s.trace.frozen = true) (e : TraceEv) :
    StaysFrozen s (s.traceEv e) := by
  unfold State.traceEv
  rw [h]
  split_ifs <;> exact ⟨h, rfl⟩

theorem hostEvent_frame (s : State) (n : BitVec 6) (o : Owner) (rec : List Word) :
    (hostEvent s n o rec).ctxs = s.ctxs ∧ (hostEvent s n o rec).trace = s.trace := by
  unfold hostEvent
  dsimp only
  split_ifs <;> exact ⟨rfl, rfl⟩

/-- An event changes no context and not the trace (R369). -/
theorem raiseEvent_frame (s : State) (n : BitVec 6) (rec : List Word) :
    (raiseEvent s n rec).ctxs = s.ctxs ∧ (raiseEvent s n rec).trace = s.trace := by
  unfold raiseEvent
  dsimp only
  split_ifs <;> simp [hostEvent_frame]

theorem writeRec_frame (s : State) (fe : FeId) (r : TrapRec) :
    (writeRec s fe r).ctxs = s.ctxs ∧ (writeRec s fe r).trace = s.trace := by
  simp [writeRec, raiseEvent_frame]

theorem State.ctx_of_ctxs {s t : State} (h : t.ctxs = s.ctxs) (fe : FeId) : t.ctx fe = s.ctx fe := by
  unfold State.ctx; rw [h]

/-- A trap record changes no context but its own, of which at most the records that it holds (R363). -/
theorem putRec_ctx (s : State) (g fe : FeId) (r : TrapRec) :
    ∃ l, (putRec s g r).ctx fe = { s.ctx fe with held := l } ∧ (fe ≠ g → l = (s.ctx fe).held) := by
  unfold putRec
  dsimp only
  split
  · exact ⟨_, by rw [State.ctx_of_ctxs (writeRec_frame _ _ _).1, traceEv_ctx], fun _ => rfl⟩
  · rw [State.ctx_modCtx]
    split
    next h => subst h; exact ⟨_, by rw [State.setCluster_ctx, traceEv_ctx], fun hne => absurd rfl hne⟩
    next => exact ⟨_, by rw [State.setCluster_ctx, traceEv_ctx], fun _ => rfl⟩

theorem putRec_frozen {s : State} (h : s.trace.frozen = true) (g : FeId) (r : TrapRec) : StaysFrozen s (putRec s g r) := by
  unfold putRec
  dsimp only
  split
  · exact (traceEv_frozen h _).trans (.of_trace (traceEv_frozen h _).1 (writeRec_frame _ _ _).2)
  · exact traceEv_frozen h _

/-- The outcome of a class E cause is a stop. -/
theorem classOutcome_e {s : State} {fe : FeId} {cause : Cause} (h : cause.cls = .e) :
    classOutcome s fe cause = s.modCtx fe (fun c => { c with life := .stopped, parkB := some cause }) := by
  simp [classOutcome, h]

/-- A class E cause asks for no page. -/
theorem pageRequest_e {s : State} {fe : FeId} {cause : Cause} {addr : Word} (h : cause.cls = .e) :
    pageRequest s fe cause addr = s := by
  have hne : cause ≠ .t20 := by rintro rfl; cases h
  simp [pageRequest, hne]

/-- A context goes back to its checkpoint, stops for the cause, and holds at most a record more (R364, R367). -/
def StoppedAt (c t : Ctx) (cause : Cause) : Prop :=
  t.life = .stopped ∧ t.parkB = some cause ∧ t.regs.s = c.chk.regs.s ∧ t.regs.v = c.chk.regs.v

section ClassE
variable {s : State} {fe : FeId} {cause : Cause} (hcls : cause.cls = .e)
include hcls

/-- A running context that a class E event touches stops at its checkpoint (R364, R367). -/
theorem holdCtx_self (hlife : (s.ctx fe).life = .running) : StoppedAt (s.ctx fe) ((holdCtx cause s fe).ctx fe) cause := by
  unfold holdCtx
  dsimp only
  rw [if_pos hlife, trapB, pageRequest_e hcls, classOutcome_e hcls, State.ctx_modCtx_same]
  obtain ⟨l, hl, -⟩ := putRec_ctx (s.modCtx fe Ctx.rollback) fe fe
    (mkRec (s.modCtx fe Ctx.rollback) fe cause false 0#8 false false 0#16 (priFail (s.modCtx fe Ctx.rollback) fe cause)
      (s.ctx fe).chk.prov (s.ctx fe).chk.word 0#64 0#64 0#64)
  rw [hl, State.ctx_modCtx_same]
  exact ⟨rfl, rfl, rfl, rfl⟩

/-- A class E event leaves a context that does not run, and every context that it does not touch. -/
theorem holdCtx_ctx {g : FeId} (h : fe ≠ g ∨ (s.ctx g).life ≠ .running) : (holdCtx cause s g).ctx fe = s.ctx fe := by
  unfold holdCtx
  dsimp only
  split
  next hlife =>
    have hne : fe ≠ g := h.resolve_right (fun hn => hn hlife)
    rw [trapB, pageRequest_e hcls, classOutcome_e hcls, State.ctx_modCtx_other _ _ hne]
    obtain ⟨l, hl, hsame⟩ := putRec_ctx (s.modCtx g Ctx.rollback) g fe
      (mkRec (s.modCtx g Ctx.rollback) g cause false 0#8 false false 0#16 (priFail (s.modCtx g Ctx.rollback) g cause)
        (s.ctx g).chk.prov (s.ctx g).chk.word 0#64 0#64 0#64)
    rw [hl, hsame hne, State.ctx_modCtx_other _ _ hne]
  next => rfl

theorem holdCtx_frozen (h : s.trace.frozen = true) (g : FeId) : StaysFrozen s (holdCtx cause s g) := by
  unfold holdCtx
  dsimp only
  split
  · rw [trapB, pageRequest_e hcls, classOutcome_e hcls]
    exact putRec_frozen (s := s.modCtx g Ctx.rollback) h g _
  · exact ⟨h, rfl⟩

/-- A context that does not run is left by the stops of a class E event. -/
theorem foldl_holdCtx_resting (l : List FeId) (h : (s.ctx fe).life ≠ .running) :
    (l.foldl (holdCtx cause) s).ctx fe = s.ctx fe := by
  refine List.foldlRecOn (motive := fun t : State => t.ctx fe = s.ctx fe) l _ rfl fun t ht g _ => ?_
  by_cases hg : fe = g
  · subst hg
    rw [holdCtx_ctx hcls (.inr (by rw [ht]; exact h)), ht]
  · rw [holdCtx_ctx hcls (.inl hg), ht]

/-- Each running context among those touched stops at its checkpoint. -/
theorem foldl_holdCtx_stops (l : List FeId) (hmem : fe ∈ l) (hlife : (s.ctx fe).life = .running) :
    StoppedAt (s.ctx fe) ((l.foldl (holdCtx cause) s).ctx fe) cause := by
  induction l generalizing s with
  | nil => cases hmem
  | cons g l ih =>
    rw [List.foldl_cons]
    by_cases hg : fe = g
    · subst hg
      have hstop := holdCtx_self hcls hlife
      rw [foldl_holdCtx_resting hcls l (by rw [hstop.1]; decide)]
      exact hstop
    · have hctx := holdCtx_ctx (s := s) hcls (.inl hg)
      rw [← hctx]
      exact ih ((List.mem_cons.mp hmem).resolve_left hg) (by rw [hctx]; exact hlife)

theorem foldl_holdCtx_frozen (l : List FeId) (h : s.trace.frozen = true) : StaysFrozen s (l.foldl (holdCtx cause) s) :=
  List.foldlRecOn l _ ⟨h, rfl⟩ fun _ ht g _ => ht.trans (holdCtx_frozen hcls ht.1 g)

end ClassE

/-- A class E event changes no context before the stops, and freezes a trace that was not frozen with its cause (R364, R425). -/
theorem eventE_frame {s : State} (h : s.trace.frozen = false) (n : BitVec 6) (cause : Cause) (src : BitVec 16) (w : Word)
    (fe : FeId) : (eventE s n cause src w).ctx fe = s.ctx fe ∧ (eventE s n cause src w).trace.frozen = true ∧
      (eventE s n cause src w).trace.fcause = cause.code := by
  unfold eventE
  rw [State.ctx_of_ctxs (raiseEvent_frame _ _ _).1, (raiseEvent_frame _ _ _).2]
  unfold State.traceFreeze
  rw [h, if_neg (by decide)]
  dsimp only
  rw [State.ctx_of_ctxs (raiseEvent_frame _ _ _).1, (raiseEvent_frame _ _ _).2]
  exact ⟨traceEv_ctx .., rfl, rfl⟩

/-- A class E event stops each running context that it touches and freezes the trace (R364, R425). -/
theorem classE_stops {s : State} {cause : Cause} {src : BitVec 16} {l : List FeId} {fe : FeId} (hcls : cause.cls = .e)
    (hmem : fe ∈ l) (hlife : (s.ctx fe).life = .running) (hfrozen : s.trace.frozen = false) :
    StoppedAt (s.ctx fe) ((classE s cause src l).ctx fe) cause ∧ (classE s cause src l).trace.frozen = true ∧
      (classE s cause src l).trace.fcause = cause.code := by
  obtain ⟨hctx, hfr, hcause⟩ := eventE_frame hfrozen 2#6 cause src 0#64 fe
  have hstop := foldl_holdCtx_stops hcls l hmem (s := eventE s 2#6 cause src 0#64) (by rw [hctx]; exact hlife)
  obtain ⟨hfr', hcause'⟩ := foldl_holdCtx_frozen hcls l hfr
  rw [hctx] at hstop
  exact ⟨hstop, hfr', hcause'.trans hcause⟩

/-- The contexts of a die are its front ends (R11). -/
theorem mem_dieContexts {fe : FeId} {d : Nat} (h : fe.toNat / 128 = d) :
    fe ∈ (List.range 128).map (fun i => (BitVec.ofNat 9 (128 * d + i) : FeId)) := by
  refine List.mem_map.mpr ⟨fe.toNat % 128, List.mem_range.mpr (Nat.mod_lt _ (by decide)), ?_⟩
  rw [← h, Nat.div_add_mod]
  exact BitVec.ofNat_toNat ..

/-- A thermal trip is E83 for every context on its die (R429). -/
theorem exec_thermalTrip {s : State} {die : BitVec 4} (h : die.toNat < 4) :
    exec (.thermalTrip die) s = .next (classE s .e83 (die.setWidth 16)
      ((List.range 128).map (fun i => BitVec.ofNat 9 (128 * die.toNat + i)))) := by
  change execThermalTrip die s = _
  rw [execThermalTrip, if_pos h]

/-! ### The fabric plan (R25) and throttling (R429) -/

theorem exec_fabricPlanWrite {s : State} {plan : List Byte} (hl : plan.length = 64) (howner : ∀ x ∈ plan, x.toNat ≤ 18)
    (h16 : 16#8 ∈ plan) (h17 : 17#8 ∈ plan) (h18 : 18#8 ∈ plan) :
    exec (.fabricPlanWrite plan) s = .next { s with hw := { s.hw with planNew := some plan } } := by
  have hall : plan.all (fun x => decide (x.toNat ≤ 18)) = true := by simpa using howner
  change execFabricPlanWrite plan s = _
  simp [execFabricPlanWrite, planOk, hl, hall, h16, h17, h18]

theorem exec_fabricFrameBoundary {s : State} {plan : List Byte} (h : s.hw.planNew = some plan) :
    exec .fabricFrameBoundary s = .next { s with hw := { s.hw with plan := plan, planNew := none } } := by
  change execFabricFrameBoundary s = _
  simp [execFabricFrameBoundary, h]

theorem traceEv_ctxs (s : State) (e : TraceEv) : (s.traceEv e).ctxs = s.ctxs := by
  unfold State.traceEv
  split_ifs <;> rfl

theorem thermalThrottle_steps (s : State) (die : BitVec 4) (hot : Bool) : ∃ t, exec (.thermalThrottle die hot) s = .next t ∧
    t.ctxs = s.ctxs ∧ t.throttle = if hot then min 20 (s.throttle + 1) else s.throttle - 1 :=
  ⟨_, rfl, traceEv_ctxs .., traceEv_throttle ..⟩

/-- Settles O48: each event by the lemma about its own operation above; a class E event stops a touched context once
(`foldl_holdCtx_stops`) and leaves the trace frozen (`foldl_holdCtx_frozen`). -/
theorem deviceEventsAct : Obligations.DeviceEventsAct := by
  unfold Obligations.DeviceEventsAct
  intro s handle desc n w0 data die task kern k plan d4 hot touched fe who p d r stopped
  refine ⟨kernelRegister_registers, ?_, fun hbusy hbound hdst hsrc => exec_fillGo rfl hbusy hbound hdst hsrc,
    fun hhold htask hk hbusy hbound => exec_fillHoldFill rfl hhold htask hk hbusy hbound,
    fun hbusy hhold hen => ⟨fillComplete_copies rfl hbusy hhold hen, fillMediaError_copies rfl hbusy hhold hen⟩,
    exec_fabricPlanWrite, exec_fabricFrameBoundary, thermalThrottle_steps s d4 hot, ?_⟩
  · intro hwho hle hlegal hover
    have hvalid := validateRegion_legal (s := s) (n := n) (w0 := w0) (r := r) rfl hle hlegal hover
    refine ⟨?_, fun hbit => ?_, ?_⟩
    · change execRegionEntryValidate who n w0 s = _
      rw [execRegionEntryValidate, if_pos hwho, hvalid]
    · change Host.Outcome.next (mmioWrite s who (BitVec.ofNat 64 (0xF800000000 + 32 * n.toNat)).toNat w0) = _
      have hn := n.isLt
      rw [BitVec.toNat_ofNat, Nat.mod_eq_of_lt (by omega), mmioWrite_region, ← hvalid]
      simp only [writeRegion, hwho, hbit]
      rfl
    · rw [mmioRead_region hwho, regionAt_vset]
  · intro hlife hfrozen
    refine ⟨fun hmem => ⟨⟨_, rfl, classE_stops rfl hmem hlife hfrozen⟩, ⟨_, rfl, classE_stops rfl hmem hlife hfrozen⟩⟩,
      fun hdie => ?_⟩
    have hd : d4.toNat < 4 := by have := fe.isLt; omega
    exact ⟨_, exec_thermalTrip hd, classE_stops rfl (mem_dieContexts hdie) hlife hfrozen⟩

end Sys2Proof.Machine
end

section
/-! SUPPORT. What the tables hold after reset (O60). -/
namespace Sys2Proof.Machine

/-- An element of a vector of equal elements is that element, in range or beyond its end. -/
theorem vget_replicate {α : Type} {n w : Nat} (d : α) (i : BitVec w) : vget d (Vector.replicate n d) i = d := by
  simp only [vget, Vector.getElem?_replicate]
  split <;> rfl

/-- An index of w bits is in range of a vector of 2^w elements. -/
theorem vget_replicate_full {α : Type} {n w : Nat} (d x : α) (i : BitVec w) (h : 2 ^ w ≤ n) :
    vget d (Vector.replicate n x) i = x := by
  simp [vget, Nat.lt_of_lt_of_le i.isLt h]

theorem vget_ofFn {α : Type} {n w : Nat} (d : α) (f : Fin n → α) (i : BitVec w) (h : i.toNat < n) :
    vget d (Vector.ofFn f) i = f ⟨i.toNat, h⟩ := by
  simp [vget, h]

/-- Slots 0 to 60 of the plan belong to tenant 0 after reset (R25). -/
theorem planReset_tenant {n : Nat} (h : n < 61) : planReset[n]? = some 0#8 := by
  rw [planReset, List.getElem?_append_left (by simpa using h), List.getElem?_replicate, if_pos h]

/-- Settles O60: the maps are empty and the tables hold one value throughout, so each read gives its default. -/
theorem resetLeavesTheStatedValues : Obligations.ResetLeavesTheStatedValues := by
  unfold Obligations.ResetLeavesTheStatedValues
  have hregion (n : BitVec 6) : (regionAt State.reset n).valid = false := by
    have h : regionAt State.reset n = ⟨0#64, 0#64, 0#64, 0#64⟩ := vget_replicate ..
    rw [h]; rfl
  have hwin (w : BitVec 6) : winOn State.reset w = false := by
    have h : vget 0#8 State.reset.disp.windows w = 0#8 := vget_replicate ..
    rw [winOn, h]; rfl
  have hbias (page : Nat) : biasOf State.reset page = if 0x5FFC000 ≤ page ∧ page < 0x6000000 then 1#2 else 0#2 := by
    simp only [biasOf, windowPage, decide_eq_true_eq]; rfl
  exact ⟨⟨List.Pairwise.nil, nofun⟩, rfl, fun fe => ⟨rfl, rfl, rfl, rfl⟩, ⟨rfl, rfl, rfl, rfl⟩,
    ⟨rfl, fun _ => planReset_tenant, rfl, rfl, rfl⟩, hregion, fun k => ⟨rfl, rfl, rfl, rfl⟩,
    fun _ => vget_replicate .., rfl, rfl, rfl, hwin, fun n => vget_ofFn _ _ n n.isLt,
    fun t => vget_replicate_full _ _ t (by decide), ⟨rfl, rfl, rfl, rfl⟩, hbias⟩

end Sys2Proof.Machine
end

section
/-! SUPPORT. Words of memory and the updates of signals (R335, R336). -/
namespace Sys2Proof.Machine

theorem bytesNat_natBytes (x n : Nat) : bytesNat (natBytes x n) = x % 256 ^ n := by
  induction n generalizing x with
  | zero => simp [natBytes, bytesNat, Nat.mod_one]
  | succ n ih =>
    rw [natBytes, bytesNat, ih, BitVec.toNat_ofNat]
    exact (Nat.mod_mul (a := 256)).symm.trans (congrArg (x % ·) Nat.pow_succ'.symm)

/-- The bytes just written read back. -/
theorem memReads_memWrites_same (m : List Host.Cell) (k : Nat) (l : List Byte) :
    memReads (memWrites m k l) k l.length = l := by
  rw [memReads_eq]
  refine List.ext_getElem (by simp) fun i _ hi => ?_
  simp [memRead_memWrites_at hi]

/-- A read apart from a write reads as before. -/
theorem memReads_memWrites_apart {m : List Host.Cell} {k a n : Nat} {l : List Byte} (h : a + n ≤ k ∨ k + l.length ≤ a) :
    memReads (memWrites m k l) a n = memReads m a n := by
  rw [memReads_eq, memReads_eq]
  refine List.map_congr_left fun i hi => memRead_memWrites_other ?_
  have := List.mem_range.mp hi
  omega

@[simp] theorem word8_putWord8_same (s : State) (k : Nat) (w : Word) : (s.putWord8 k w).word8 k = w := by
  have h : memReads (memWrites s.mem k (natBytes w.toNat 8)) k 8 = natBytes w.toNat 8 := by
    simpa using memReads_memWrites_same s.mem k (natBytes w.toNat 8)
  have hw := w.isLt
  rw [State.word8, State.putWord8, memNat, h, bytesNat_natBytes, Nat.mod_eq_of_lt (by omega), BitVec.ofNat_toNat,
    BitVec.setWidth_eq]

theorem word8_putWord8_apart (s : State) {k a : Nat} (w : Word) (h : a + 8 ≤ k ∨ k + 8 ≤ a) :
    (s.putWord8 k w).word8 a = s.word8 a := by
  rw [State.word8, State.putWord8, memNat, memReads_memWrites_apart (by simpa using h)]
  rfl

/-- A decrement or a status set leaves the word given at the signal (R336). -/
theorem decSignal_word8 (s : State) (agent : Nat) (scope : BitVec 2) (c : Clock) (key : Nat) (w : Word) :
    (decSignal s agent scope c key w).word8 key = w := word8_putWord8_same ..

/-- The bits above COUNT, as a number. -/
theorem toNat_and_signalHigh (w : Word) : (w &&& 0xFFFF000000000000#64).toNat = w.toNat / 2 ^ 48 * 2 ^ 48 := by
  have h : w &&& 0xFFFF000000000000#64 = (w >>> 48) <<< 48 := by
    refine BitVec.eq_of_getLsbD_eq fun i hi => ?_
    interval_cases i <;> simp
  have hw := w.isLt
  rw [h, BitVec.toNat_shiftLeft, BitVec.toNat_ushiftRight, Nat.shiftLeft_eq, Nat.shiftRight_eq_div_pow]
  exact Nat.mod_eq_of_lt (by omega)

/-- A decrement by 1 of a positive COUNT that sets no status subtracts 1 from the word (R336). -/
theorem signalDec_one {w : Word} (h : 1 ≤ w.toNat % 2 ^ 48) : signalDec w 1 0#8 = w - 1#64 := by
  have hw := w.isLt
  have hcnt : (BitVec.ofNat 64 (w.toNat % 2 ^ 48 - 1)).toNat = w.toNat % 2 ^ 48 - 1 := by
    rw [BitVec.toNat_ofNat]; exact Nat.mod_eq_of_lt (by omega)
  have hhigh : signalDec w 1 0#8 = (w &&& 0xFFFF000000000000#64) ||| BitVec.ofNat 64 (w.toNat % 2 ^ 48 - 1) := by
    simp only [signalDec, if_pos h]
    simp
  apply BitVec.eq_of_toNat_eq
  rw [hhigh, BitVec.toNat_or, toNat_and_signalHigh, hcnt, ← Nat.shiftLeft_eq, ← Nat.shiftLeft_add_eq_or_of_lt (by omega),
    Nat.shiftLeft_eq, BitVec.toNat_sub]
  simp only [BitVec.toNat_ofNat]
  omega

end Sys2Proof.Machine
end

section
/-! SUPPORT. Tasks in the dispatcher's list: how one is found after an update of all, or after one has left (R20, R330). -/
namespace Sys2Proof.Machine

theorem State.task_id {s : State} {id : BitVec 32} {t : Task} (h : s.task id = some t) : t.id = id := by
  simpa using List.find?_some h

/-- An update of every task that keeps the IDs finds the same task, updated. -/
theorem State.task_of_map {s u : State} {f : Task → Task} (hf : ∀ t, (f t).id = t.id)
    (hu : u.disp.tasks = s.disp.tasks.map f) (id : BitVec 32) : u.task id = (s.task id).map f := by
  have hcomp : ((fun t : Task => t.id == id) ∘ f) = fun t => t.id == id := by funext t; simp [hf]
  rw [State.task, hu, List.find?_map, hcomp]
  rfl

theorem State.task_modTask {s : State} {id : BitVec 32} {f : Task → Task} (hf : ∀ t, (f t).id = t.id) :
    (s.modTask id f).task id = (s.task id).map f := by
  have hid (t : Task) : (if t.id = id then f t else t).id = t.id := by split <;> simp [hf]
  rw [State.task_of_map (u := s.modTask id f) hid rfl]
  exact Option.map_congr fun t ht => if_pos (State.task_id ht)

theorem taskGone_dropTask (s : State) (id : BitVec 32) : TaskGone (s.dropTask id) id := by
  simp [TaskGone, State.task, State.dropTask, List.find?_eq_none]

theorem taskEvent_disabled {s : State} (h : s.trace.en = false) (id : BitVec 32) (code : Byte) : taskEvent s id code = s :=
  traceEv_disabled h _

/-- A task that leaves after an update of its signal is gone, and its signal holds the word given. -/
theorem taskLeaves {s u : State} {sig w : Word} {agent : Nat} {scope : BitVec 2} {c : Clock} (h : s.trace.en = false)
    (hu : u = decSignal s agent scope c sig.toNat w) (id : BitVec 32) (code : Byte) :
    TaskGone (taskEvent (u.dropTask id) id code) id ∧ (taskEvent (u.dropTask id) id code).word8 sig.toNat = w := by
  subst hu
  rw [taskEvent_disabled (by exact h)]
  exact ⟨taskGone_dropTask .., decSignal_word8 ..⟩

/-- A task whose signal takes a status is gone, and the status stands (R330, R336). -/
theorem statusSet_leaves {s : State} {sig : Word} (h : s.trace.en = false) (hsig : sig ≠ 0#64) (status : Byte)
    (id : BitVec 32) (code : Byte) :
    TaskGone (taskEvent ((statusSet s sig status).dropTask id) id code) id ∧
      (taskEvent ((statusSet s sig status).dropTask id) id code).word8 sig.toNat = signalSet (s.word8 sig.toNat) status :=
  taskLeaves h (if_neg hsig) id code

end Sys2Proof.Machine
end

section
/-! SUPPORT. Acceptance of commands as tasks (R325, R331, R349, R398). -/
namespace Sys2Proof.Machine

/-- The task that an accepted command becomes (R330, R349). -/
def waitingTask (id : BitVec 32) (cmd : BitVec 512) (prio : Byte) (tenant : BitVec 4) (queue origin : Option Nat) (sync : Clock) :
    Task :=
  { id := id, st := .waiting, argp := cmdArgp cmd, sigc := cmdSigc cmd, deps := Vector.ofFn (fun i : Fin 4 => cmdDep cmd i.val),
    kern := cmdKern cmd, prio := prio, tenant := tenant, age := 0, since := 0, queue := queue, origin := origin, place := [],
    live := [], images := false, saved := [], scidx := [], boundAt := 0, failExit := false, preempt := false, torn := false,
    sync := sync, left := [] }

theorem nextTaskId_eq (n : BitVec 32) : nextTaskId n = if n = 0xFFFFFFFF#32 then 1#32 else n + 1#32 := by
  have h : n + 1#32 = 0#32 ↔ n = 0xFFFFFFFF#32 := by constructor <;> intro <;> bv_omega
  simp only [nextTaskId, h]

/-- The dispatcher's state after it has appended a task under the next ID. -/
def State.joined (s : State) (x : Task) : State :=
  { s with disp := { s.disp with nextId := nextTaskId s.disp.nextId, tasks := s.disp.tasks ++ [x] } }

/-- A command whose kernel is not refused joins the dispatcher's tasks under the next ID (R330, R331). -/
theorem acceptTask_accepts {s : State} {cmd : BitVec 512} {parent : Option (BitVec 4)} (h : s.trace.en = false)
    (hk : kernelRefuses s (cmdKern cmd) parent = false) (prio : Byte) (tenant : BitVec 4) (queue origin : Option Nat)
    (sync : Clock) : acceptTask s cmd prio tenant queue origin parent sync =
      (s.joined (waitingTask s.disp.nextId cmd prio tenant queue origin sync), s.disp.nextId) := by
  unfold acceptTask
  dsimp only
  rw [taskEvent_disabled (id := s.disp.nextId) (code := 1#8) (by exact h), if_neg (ne_true_of_eq_false (by exact hk))]
  rfl

/-- What the fields of the new task are, by the places of the command's fields (R329). -/
theorem waitingTask_joins {s t : State} {cmd : BitVec 512} {prio : Byte} {tenant : BitVec 4} {queue origin : Option Nat}
    {sync : Clock} (htasks : t.disp.tasks = s.disp.tasks ++ [waitingTask s.disp.nextId cmd prio tenant queue origin sync])
    (hnext : t.disp.nextId = nextTaskId s.disp.nextId) :
    ∃ n : Task, t.disp.tasks = s.disp.tasks ++ [n] ∧
      t.disp.nextId = (if s.disp.nextId = 0xFFFFFFFF#32 then 1#32 else s.disp.nextId + 1#32) ∧ n.id = s.disp.nextId ∧
      n.st = .waiting ∧ n.tenant = tenant ∧ n.prio = prio ∧ n.kern = cmd.extractLsb' 384 32 ∧
      n.argp = cmd.extractLsb' 0 64 ∧ n.sigc = cmd.extractLsb' 64 64 ∧ n.queue = queue ∧ n.age = 0 :=
  ⟨_, htasks, hnext.trans (nextTaskId_eq _), rfl, rfl, rfl, rfl, rfl, rfl, rfl, rfl, rfl⟩

/-- The pending `launch` of a context lands its task's ID 1 beat later (R349). -/
theorem launched_mem {c : Ctx} {p : Pend} {d : BitVec 6} (id : BitVec 32) (hp : p ∈ c.pend) (hd : p.kind = .launch d) :
    { p with kind := .done [.s d ⟨id.setWidth 64, c.band, false⟩], due := c.beat + 1 } ∈ (c.launched id).pend := by
  refine List.mem_map.mpr ⟨p, hp, ?_⟩
  rw [hd]

/-- The command at the head of the launch queue becomes a task, and its context is answered while it runs (R349). -/
theorem launchAccept_accepts {s : State} {fe : FeId} {l : LaunchCmd} {rest : List LaunchCmd} (htr : s.trace.en = false)
    (hq : s.disp.launchq = l :: rest) (hfe : l.fe = fe) (hn : s.disp.tasks.length < 4096) (hen : s.disp.en = true)
    (hk : kernelRefuses s (cmdKern l.cmd) (some l.tenant) = false) :
    ∃ t, exec (.launchAccept fe) s = .next t ∧ t.disp.launchq = rest ∧ t.disp.nextId = nextTaskId s.disp.nextId ∧
      t.disp.tasks = s.disp.tasks ++ [waitingTask s.disp.nextId l.cmd (if cmdPrio l.cmd < l.prio then cmdPrio l.cmd else l.prio)
        l.tenant none l.origin l.clock] ∧
      ((s.ctx fe).life = .running → (s.ctx fe).ident.bid = l.bid → t.ctx fe = (s.ctx fe).launched s.disp.nextId) := by
  let s1 : State := { s with disp := { s.disp with launchq := rest } }
  have hk1 : kernelRefuses s1 (cmdKern l.cmd) (some l.tenant) = false := hk
  have hacc := acceptTask_accepts (s := s1) htr hk1 (if cmdPrio l.cmd < l.prio then cmdPrio l.cmd else l.prio) l.tenant none
    l.origin l.clock
  let a := s1.joined (waitingTask s.disp.nextId l.cmd (if cmdPrio l.cmd < l.prio then cmdPrio l.cmd else l.prio) l.tenant none
    l.origin l.clock)
  have hexec : exec (.launchAccept fe) s = .next (if (s.ctx fe).life = .running ∧ (s.ctx fe).ident.bid = l.bid
      then a.modCtx fe (·.launched s.disp.nextId) else a) := by
    change execLaunchAccept fe s = _
    have hno : ¬ (l.fe ≠ fe ∨ 4096 ≤ s.disp.tasks.length ∨ s.disp.en = false) := by simp [hfe, hen]; omega
    simp only [execLaunchAccept, hq, if_neg hno]
    rw [hacc]
    rfl
  rw [hexec]
  split
  next hrun => exact ⟨_, rfl, rfl, rfl, rfl, fun _ _ => State.ctx_modCtx_same ..⟩
  next hrun => exact ⟨_, rfl, rfl, rfl, rfl, fun h h' => absurd ⟨h, h'⟩ hrun⟩

theorem qNum_inj {w w' q q' : BitVec 6} (h : qNum w' q' = qNum w q) : w' = w ∧ q' = q := by
  have := q.isLt
  have := q'.isLt
  unfold qNum at h
  constructor <;> apply BitVec.eq_of_toNat_eq <;> omega

theorem cwq_putCwq (s : State) (w q w' q' : BitVec 6) (x : CwQueue) :
    (s.putCwq w' q' x).cwq w q = if w' = w ∧ q' = q then x else s.cwq w q := by
  change mget _ (mset _ _ _ _) _ = _
  rw [mget_mset]
  by_cases h : w' = w ∧ q' = q
  · obtain ⟨rfl, rfl⟩ := h; simp
  · rw [if_neg h, if_neg fun e => h (qNum_inj e.symm)]; rfl

/-- Words 1 and 2 of the control block are memory; the dispatcher's own words change as without them (R397). -/
theorem cwq_setCwq (s : State) (w q w' q' : BitVec 6) (x : CwQueue) :
    (s.setCwq w' q' x).cwq w q = if w' = w ∧ q' = q then x else s.cwq w q := cwq_putCwq s w q w' q' x

/-- The entry at CONS of a queue that is on becomes a task of the window's tenant (R398). -/
theorem commandEntryTake_accepts {s : State} {win q : BitVec 6} {cmd : BitVec 512} (htr : s.trace.en = false)
    (hcmd : BitVec.ofNat 512 (memNat s.mem (entryAddr win (s.cwq win q) (s.cwq win q).cons.toNat) 64) = cmd)
    (hen : s.disp.en = true) (hwin : winOn s win = true) (hon : (s.cwq win q).isOn = true) (hn : s.disp.tasks.length < 4096)
    (hseal : sealed s win (s.cwq win q) = true) (htype : cmdType cmd = 1#8) (hbad : entryBad s cmd = false)
    (hk : kernelRefuses s (cmdKern cmd) none = false) :
    ∃ t, exec (.commandEntryTake win q) s = .next t ∧ (t.cwq win q).cons = (s.cwq win q).cons + 1#64 ∧
      t.disp.nextId = nextTaskId s.disp.nextId ∧ t.disp.tasks = s.disp.tasks ++
        [waitingTask s.disp.nextId cmd (cmdPrio cmd) (winTenant s win) (some (qNum win q)) (some (qNum win q)) []] := by
  have hhandle : handleEntry s win q cmd = (acceptTask s cmd (cmdPrio cmd) (winTenant s win) (some (qNum win q))
      (some (qNum win q)) none []).1 := by
    simp [handleEntry, htype, hbad]
  refine ⟨(handleEntry s win q cmd).setCwq win q { (handleEntry s win q cmd).cwq win q with cons := (s.cwq win q).cons + 1#64 },
    ?_, by rw [cwq_setCwq, if_pos ⟨rfl, rfl⟩], ?_⟩
  · change execCommandEntryTake win q s = _
    simp [execCommandEntryTake, hen, hwin, hon, Nat.not_le.mpr hn, hseal, hcmd]
  · rw [hhandle, acceptTask_accepts htr hk]
    exact ⟨rfl, rfl⟩

end Sys2Proof.Machine
end

section
/-! SUPPORT. The dispatcher's scan of the queues (R398). -/
namespace Sys2Proof.Machine

/-- What a scan makes of a queue whose control block holds the bit EN. -/
def CwQueue.scanned (x : CwQueue) (en : Bool) : CwQueue :=
  if x.en && !en then { x with en := false, isOn := false } else if x.isOn then { x with bell := true } else x

theorem CwQueue.scanned_scanned (x : CwQueue) (en : Bool) : (x.scanned en).scanned en = x.scanned en := by
  unfold CwQueue.scanned
  by_cases hoff : (x.en && !en) = true
  · simp [hoff]
  · by_cases hon : x.isOn = true
    · simp [hoff, hon]
    · simp [hoff, hon]

theorem qNum_index (w q : BitVec 6) : BitVec.ofNat 6 (qNum w q / 64) = w ∧ BitVec.ofNat 6 (qNum w q % 64) = q := by
  have := q.isLt
  unfold qNum
  rw [show (64 * w.toNat + q.toNat) / 64 = w.toNat by omega, show (64 * w.toNat + q.toNat) % 64 = q.toNat by omega]
  simp

/-- The words that the dispatcher writes into a control block are not word 0 of any (R397). -/
theorem qWord0_setCwq (s : State) (w q w' q' : BitVec 6) (x : CwQueue) : qWord0 (s.setCwq w' q' x) w q = qWord0 s w q := by
  have hq := q.isLt
  have hq' := q'.isLt
  unfold qWord0 State.setCwq
  dsimp only
  rw [word8_putWord8_apart, word8_putWord8_apart]
  · rfl
  all_goals
    unfold qBlock winBase
    omega

/-- The scan of a queue keeps word 0 of every control block and applies `scanned` to that queue only. -/
theorem scanQueue_cwq (s : State) (n : Nat) (w q : BitVec 6) : qWord0 (scanQueue s n) w q = qWord0 s w q ∧
    (scanQueue s n).cwq w q = if BitVec.ofNat 6 (n / 64) = w ∧ BitVec.ofNat 6 (n % 64) = q
      then (s.cwq w q).scanned ((qWord0 s w q).getLsbD 0) else s.cwq w q := by
  unfold scanQueue
  generalize BitVec.ofNat 6 (n / 64) = w'
  generalize BitVec.ofNat 6 (n % 64) = q'
  dsimp only
  have hput (x : CwQueue) : qWord0 (s.putCwq w' q' x) w q = qWord0 s w q := rfl
  by_cases h : w' = w ∧ q' = q
  · obtain ⟨rfl, rfl⟩ := h
    rw [if_pos (show w' = w' ∧ q' = q' from ⟨rfl, rfl⟩), CwQueue.scanned]
    split_ifs <;> simp [cwq_setCwq, cwq_putCwq, qWord0_setCwq, hput]
  · rw [if_neg h]
    split_ifs <;> simp [cwq_setCwq, cwq_putCwq, qWord0_setCwq, hput, h]

/-- A scan over some queues: one that it comes to has been scanned. -/
theorem foldl_scanQueue_cwq (l : List Nat) (s : State) (w q : BitVec 6) : (l.foldl scanQueue s).cwq w q =
    if ∃ n ∈ l, BitVec.ofNat 6 (n / 64) = w ∧ BitVec.ofNat 6 (n % 64) = q
      then (s.cwq w q).scanned ((qWord0 s w q).getLsbD 0) else s.cwq w q := by
  induction l generalizing s with
  | nil => simp
  | cons n l ih =>
    obtain ⟨hword, hcwq⟩ := scanQueue_cwq s n w q
    rw [List.foldl_cons, ih, hword, hcwq]
    by_cases h : BitVec.ofNat 6 (n / 64) = w ∧ BitVec.ofNat 6 (n % 64) = q
    · simp [h, CwQueue.scanned_scanned]
    · simp only [List.exists_mem_cons_iff, h, false_or, if_false]

theorem mget_of_not_mem {α : Type} (d : α) {l : List (Nat × α)} {k : Nat} (h : k ∉ l.map (·.1)) : mget d l k = d := by
  induction l with
  | nil => rfl
  | cons p t ih =>
    rw [List.map_cons, List.mem_cons, not_or] at h
    rw [mget, if_neg h.1, ih h.2]

/-- The scan comes to each queue that is not in its reset state. -/
theorem dispatcherScan_cwq {s : State} {w q : BitVec 6} (h : s.cwq w q ≠ CwQueue.reset) :
    ((s.disp.queues.map (·.1)).foldl scanQueue s).cwq w q = (s.cwq w q).scanned ((qWord0 s w q).getLsbD 0) := by
  have hmem : qNum w q ∈ s.disp.queues.map (·.1) := by
    by_contra hno
    exact h (mget_of_not_mem _ hno)
  rw [foldl_scanQueue_cwq, if_pos ⟨_, hmem, qNum_index w q⟩]

theorem scanQueue_frame (s : State) (n : Nat) : (scanQueue s n).ctxs = s.ctxs ∧ (scanQueue s n).disp.tasks = s.disp.tasks := by
  unfold scanQueue
  dsimp only
  split_ifs <;> exact ⟨rfl, rfl⟩

theorem foldl_scanQueue_frame (l : List Nat) (s : State) :
    (l.foldl scanQueue s).ctxs = s.ctxs ∧ (l.foldl scanQueue s).disp.tasks = s.disp.tasks :=
  List.foldlRecOn (motive := fun t : State => t.ctxs = s.ctxs ∧ t.disp.tasks = s.disp.tasks) l _ ⟨rfl, rfl⟩
    fun t ht n _ => ⟨(scanQueue_frame t n).1.trans ht.1, (scanQueue_frame t n).2.trans ht.2⟩

/-- A scan turns off the queues with EN = 0 and rings those that are on (R398). -/
theorem dispatcherScan_scans (s : State) (w q : BitVec 6) : ∃ t, exec .dispatcherScan s = .next t ∧ t.ctxs = s.ctxs ∧
    t.disp.tasks = s.disp.tasks ∧
    ((s.cwq w q).en = true → (qWord0 s w q).getLsbD 0 = false → (t.cwq w q).isOn = false ∧ (t.cwq w q).en = false) ∧
    ((s.cwq w q).isOn = true → (qWord0 s w q).getLsbD 0 = true → (t.cwq w q).isOn = true ∧ (t.cwq w q).bell = true) := by
  obtain ⟨hctxs, htasks⟩ := foldl_scanQueue_frame (s.disp.queues.map (·.1)) s
  refine ⟨_, rfl, hctxs, htasks, fun hen hoff => ?_, fun hon hkeep => ?_⟩
  · rw [dispatcherScan_cwq (fun e => by rw [e] at hen; cases hen), hoff]
    simp [CwQueue.scanned, hen]
  · rw [dispatcherScan_cwq (fun e => by rw [e] at hon; cases hon), hkeep]
    simp [CwQueue.scanned, hon]

end Sys2Proof.Machine
end

section
/-! SUPPORT. Eligible, abandoned, failed and finished tasks, and the Rinse (R20, R23, R330, R350, R352, R383). -/
namespace Sys2Proof.Machine

section Task
variable {s : State} {y : Task} (hy : s.task y.id = some y)

/-- The dependences can be read now. -/
def DepsReadable (s : State) (y : Task) : Prop := ∀ a ∈ y.deps.toList, a = 0#64 ∨ stalledRead s a.toNat = false

theorem depsStall_eq_false (h : DepsReadable s y) : depsStall s y = false := by
  refine List.any_eq_false.mpr fun a ha => ?_
  rcases h a ha with rfl | h'
  · simp
  · simp [h']

theorem mem_depWords {w : Word} : w ∈ Task.depWords s y ↔ ∃ a ∈ y.deps.toList, a ≠ 0#64 ∧ s.word8 a.toNat = w := by
  simp [Task.depWords, and_assoc]

/-- COUNT and STATUS are 0 where the word has no bit outside the reserved ones (R335). -/
theorem signal_zero {w : Word} (h : w &&& 0xFF00FFFFFFFFFFFF#64 = 0#64) : w.toNat % 2 ^ 48 = 0 ∧ w.extractLsb' 56 8 = 0#8 := by
  have hbit (i : Nat) (hi : (0xFF00FFFFFFFFFFFF#64 : Word).getLsbD i = true) : w.getLsbD i = false := by
    have := congrArg (BitVec.getLsbD · i) h
    simpa [BitVec.getLsbD_and, hi] using this
  constructor
  · have hlow : w.extractLsb' 0 48 = 0#48 := by
      refine BitVec.eq_of_getLsbD_eq fun i hi => ?_
      rw [BitVec.getLsbD_extractLsb', Nat.zero_add, hbit i (by interval_cases i <;> decide)]
      simp
    have := congrArg BitVec.toNat hlow
    simpa [BitVec.extractLsb'_toNat] using this
  · refine BitVec.eq_of_getLsbD_eq fun i hi => ?_
    rw [BitVec.getLsbD_extractLsb', hbit (56 + i) (by interval_cases i <;> decide)]
    simp

include hy

theorem exec_taskEligible (hst : y.st = .waiting) (hread : DepsReadable s y)
    (hdeps : ∀ a ∈ y.deps.toList, a = 0#64 ∨ s.word8 a.toNat &&& 0xFF00FFFFFFFFFFFF#64 = 0#64) :
    exec (.taskEligible y.id) s = .next (s.modTask y.id (fun t =>
      { t with st := .eligible, since := s.time.toNat, age := 0, sync := Task.depClock s t })) := by
  have hall : (Task.depWords s y).all (fun w => w.toNat % 2 ^ 48 == 0 && w.extractLsb' 56 8 == 0#8) = true := by
    refine List.all_eq_true.mpr fun w hw => ?_
    obtain ⟨a, ha, hne, rfl⟩ := mem_depWords.mp hw
    obtain ⟨hcount, hstatus⟩ := signal_zero ((hdeps a ha).resolve_left hne)
    simp only [hcount, hstatus]
    rfl
  change execTaskEligible y.id s = _
  simp only [execTaskEligible, hy]
  rw [if_pos ⟨hst, by rw [depsStall_eq_false hread]; rfl, hall⟩]

/-- A task with a dependence in error leaves with status 0x80 (R20, R330). -/
theorem taskAbandon_abandons (htr : s.trace.en = false) (hst : y.st = .waiting) (hread : DepsReadable s y)
    (hbad : ∃ a ∈ y.deps.toList, a ≠ 0#64 ∧ (s.word8 a.toNat).extractLsb' 56 8 ≠ 0#8) (hsig : y.sigc ≠ 0#64) :
    ∃ t, exec (.taskAbandon y.id) s = .next t ∧ TaskGone t y.id ∧
      t.word8 y.sigc.toNat = s.word8 y.sigc.toNat ||| 0x8000000000000000#64 := by
  have hany : (Task.depWords s y).any (fun w => w.extractLsb' 56 8 != 0#8) = true := by
    obtain ⟨a, ha, hne, hstatus⟩ := hbad
    exact List.any_eq_true.mpr ⟨_, mem_depWords.mpr ⟨a, ha, hne, rfl⟩, by simpa using hstatus⟩
  refine ⟨abandonTask s y, ?_, statusSet_leaves htr hsig 0x80#8 y.id 4#8⟩
  change execTaskAbandon y.id s = _
  simp only [execTaskAbandon, hy]
  rw [if_pos ⟨hst, by rw [depsStall_eq_false hread]; rfl, hany⟩]

/-- A failed task whose contexts are gone leaves with status 0x40 (R330, R352). -/
theorem taskFailedRetire_retires (htr : s.trace.en = false) (hst : y.st = .failed) (hbound : taskBound s y.id = false)
    (htorn : y.torn = false) (hsig : y.sigc ≠ 0#64) :
    ∃ t, exec (.taskFailedRetire y.id) s = .next t ∧ TaskGone t y.id ∧
      t.word8 y.sigc.toNat = s.word8 y.sigc.toNat ||| 0x4000000000000000#64 := by
  refine ⟨_, ?_, statusSet_leaves htr hsig 0x40#8 y.id 5#8⟩
  change execTaskFailedRetire y.id s = _
  simp only [execTaskFailedRetire, hy]
  rw [if_pos (by simp [hst, hbound, htorn])]

end Task

/-- A departing context is no longer bound: it is unbound, or it is being rinsed (R22, R383). -/
theorem departCtx_unbinds (s : State) (fe : FeId) : isBound ((departCtx s fe).ctx fe) = false := by
  unfold departCtx
  dsimp only
  split
  · rw [State.ctx_modCtx_same]; rfl
  · rw [unbindCtx, State.ctx_setCtx_same]; rfl

/-- The dispatcher no longer counts the front end as one of the task's (R330). -/
theorem departCtx_task (s : State) (fe : FeId) (id : BitVec 32) : (departCtx s fe).task id = (s.task id).map (fun t =>
    if t.id = (s.ctx fe).ident.task then { t with live := t.live.filter (· != fe) } else t) := by
  refine State.task_of_map (fun t => by split <;> rfl) ?_ id
  unfold departCtx
  dsimp only
  split <;> rfl

theorem unbindCtx_trace (s : State) (fe : FeId) : (unbindCtx s fe).trace = s.trace := by simp [unbindCtx]

theorem departCtx_trace (s : State) (fe : FeId) : (departCtx s fe).trace = s.trace := by
  unfold departCtx
  dsimp only
  split
  · rw [State.modCtx_trace]
  · rw [unbindCtx_trace]

/-- A task that its last context has left, without a failure and without images, retires with a decrement of its signal (R330). -/
theorem taskLeft_retires {s : State} {id : BitVec 32} {t : Task} {sig : Word} (htr : s.trace.en = false) (ht : s.task id = some t)
    (hst : t.st = .running) (hlive : t.live = []) (htorn : t.torn = false) (hsaved : t.saved = []) (hfail : t.failExit = false)
    (hsigc : t.sigc = sig) (hsig : sig ≠ 0#64) (hcount : 1 ≤ (s.word8 sig.toNat).toNat % 2 ^ 48) :
    (taskLeft s id).ctxs = s.ctxs ∧ TaskGone (taskLeft s id) id ∧
      (taskLeft s id).word8 sig.toNat = s.word8 sig.toNat - 1#64 := by
  subst hsigc
  have hleft : taskLeft s id = taskEvent ((taskDone s t).dropTask id) id 3#8 := by
    simp [taskLeft, ht, hst, hlive, htorn, hsaved, hfail]
  have hdone : taskDone s t = decSignal s agentDevice (signalScope s t.sigc.toNat) t.left t.sigc.toNat
      (signalDec (s.word8 t.sigc.toNat) 1 0#8) := if_neg hsig
  rw [hleft, ← signalDec_one hcount]
  exact ⟨by rw [taskEvent, traceEv_ctxs, hdone]; rfl, taskLeaves htr hdone id 3#8⟩

/-- What the exit of a context releases to the waits on its task's signal (R350). -/
def exitClock (s : State) (fe : FeId) : Clock :=
  Clock.join (s.clockOf fe) [(agentChan fe false, s.stamp), (agentChan fe true, s.stamp)]

/-- The task after the exit of a context that reports no failure. -/
def Task.exited (t : Task) (out : Clock) : Task := { t with failExit := t.failExit || false, left := Clock.join t.left out }

section Exit
variable {s : State} {fe : FeId} {y : Task} (htask : (s.ctx fe).ident.task = y.id)
include htask

/-- A context that has ended, released its stores and seen them perform leaves its task (R350). -/
theorem exec_contextExitComplete (hexit : exitOf (s.ctx fe) = some false) (hrun : (s.ctx fe).life = .running)
    (hsettled : settled (s.ctx fe) = true) (hwin : (s.ctx fe).regs.win.busy = false) (hdone : enginesDone (s.ctx fe) = true)
    (hfrz : (s.ctx fe).frz.before = true) (hgate : (s.ctx fe).stq.gate = []) (hperf : accessesPerformed (s.ctx fe) 3#2 = true) :
    exec (.contextExitComplete fe) s
      = .next (taskLeft (departCtx (s.modTask y.id (·.exited (exitClock s fe))) fe) y.id) := by
  change execContextExitComplete fe s = _
  simp only [execContextExitComplete, hexit]
  rw [if_neg (by simp [hrun, hsettled, hwin, hdone, hfrz]), if_neg (by simp [hgate]), if_neg (by simp [hperf]), htask]
  rfl

/-- The last context of a running task to depart retires it (R330). -/
theorem lastContext_retires (htr : s.trace.en = false) (hy : s.task y.id = some y) (hst : y.st = .running) (hlive : y.live = [fe])
    (hsaved : y.saved = []) (htorn : y.torn = false) (hfail : y.failExit = false) (hsig : y.sigc ≠ 0#64)
    (hcount : 1 ≤ (s.word8 y.sigc.toNat).toNat % 2 ^ 48) (out : Clock) :
    let t := taskLeft (departCtx (s.modTask y.id (·.exited out)) fe) y.id
    isBound (t.ctx fe) = false ∧ TaskGone t y.id ∧ t.word8 y.sigc.toNat = s.word8 y.sigc.toNat - 1#64 := by
  let d := departCtx (s.modTask y.id (·.exited out)) fe
  have htr' : d.trace.en = false := by rw [departCtx_trace]; exact htr
  have hword : d.word8 y.sigc.toNat = s.word8 y.sigc.toNat := by
    rw [State.word8, departCtx_mem]; rfl
  have hfound : d.task y.id = some { y.exited out with live := [] } := by
    rw [departCtx_task, State.task_modTask (f := (·.exited out)) (fun _ => rfl), hy]
    change some (if y.id = (s.ctx fe).ident.task then _ else _) = _
    rw [if_pos htask.symm]
    simp [Task.exited, hlive]
  obtain ⟨hctxs, hgone, hsigc⟩ := taskLeft_retires (sig := y.sigc) htr' hfound hst rfl htorn hsaved
    (by simp [Task.exited, hfail]) rfl hsig (by rw [hword]; exact hcount)
  exact ⟨by rw [State.ctx_of_ctxs hctxs]; exact departCtx_unbinds .., hgone, by rw [← hword]; exact hsigc⟩

end Exit

/-- The end of a Rinse clears what the context held and unbinds its front end (R382, R383). -/
theorem rinseComplete_unbinds {s : State} {fe : FeId} (hlife : (s.ctx fe).life = .rinsing)
    (hcipher : (s.ctx fe).eng.cipher = []) :
    ∃ t, exec (.rinseComplete fe) s = .next t ∧ (t.ctx fe).life = .unbound ∧ (t.ctx fe).regs = Regs.init 0#8 ∧
      (t.ctx fe).spm.lines = [] ∧ (t.ctx fe).keys = Vector.replicate 4 none ∧ SameMemory s t := by
  have hctx : (unbindCtx s fe).ctx fe =
      { Ctx.reset with
        img := (s.ctx fe).img, dbg := (s.ctx fe).dbg, held := (s.ctx fe).held, nextSeq := (s.ctx fe).nextSeq
        stq := { (s.ctx fe).stq with gate := [] } } := State.ctx_setCtx_same ..
  refine ⟨unbindCtx s fe, ?_, ?_⟩
  · change execRinseComplete fe s = _
    simp [execRinseComplete, hlife, hcipher]
  · rw [hctx]
    exact ⟨rfl, rfl, rfl, rfl, fun _ => by rw [unbindCtx_mem]⟩

end Sys2Proof.Machine
end

section
/-! SUPPORT. The binding of a gang (R18, R19, R21, R334). -/
namespace Sys2Proof.Machine

/-- `t` has the contexts and the dispatcher of `s`. -/
structure SameCtxsDisp (s t : State) : Prop where
  ctxs : t.ctxs = s.ctxs
  disp : t.disp = s.disp

theorem SameCtxsDisp.refl (s : State) : SameCtxsDisp s s := ⟨rfl, rfl⟩
theorem SameCtxsDisp.trans {s t u : State} (h : SameCtxsDisp s t) (h' : SameCtxsDisp t u) : SameCtxsDisp s u :=
  ⟨h'.ctxs.trans h.ctxs, h'.disp.trans h.disp⟩

theorem traceEv_sameCtxsDisp (s : State) (e : TraceEv) : SameCtxsDisp s (s.traceEv e) := by
  unfold State.traceEv
  split_ifs <;> exact ⟨rfl, rfl⟩

/-- The events of a read that meets a media error change neither the contexts nor the dispatcher (R323). -/
theorem mediaEvents_sameCtxsDisp (s : State) (src : BitVec 16) (line : Nat) (e : MediaErr) :
    SameCtxsDisp s (mediaEvents s src line e) :=
  List.foldlRecOn e.events _ (.refl s) fun t ht _ _ =>
    ht.trans ((⟨rfl, rfl⟩ : SameCtxsDisp t t.countError).trans (traceEv_sameCtxsDisp ..))

/-- Headwater's reads change neither the contexts nor the dispatcher (R323, R324). -/
theorem hwRead_sameCtxsDisp (s : State) (a n : Nat) : SameCtxsDisp s (hwRead s a n) := by
  refine List.foldlRecOn _ _ (.refl s) fun t ht i _ => ht.trans ?_
  split
  · exact .refl t
  next e _ =>
    split
    · exact (⟨rfl, rfl⟩ : SameCtxsDisp t { t with media := pset t.media ((a + 64 * i) / 64) e }).trans
        (mediaEvents_sameCtxsDisp ..)
    · exact .refl t

/-- The context that binding writes, with its store pages (R19, R334). -/
def boundCtx (s : State) (t : Task) (k : Kernel) (x : FeId × Nat) (scidx : Option (BitVec 16)) : Ctx :=
  { bindState s (s.ctx x.1) x.1 t k x.2 scidx with pages := storePages s x.1 t.kern k }

theorem mapKernel_sameCtxsDisp (s : State) (fe : FeId) (k : Kernel) (pages : List (Nat × BitVec 7)) :
    SameCtxsDisp s (mapKernel s fe k pages) := by
  constructor <;> simp [mapKernel, crownStores]

/-- Binding writes the context of its own front end; besides, it changes what a front end or the dispatcher does not hold. -/
theorem bindCtx_sameCtxsDisp (s : State) (t : Task) (k : Kernel) (x : FeId × Nat) (scidx : Option (BitVec 16)) :
    SameCtxsDisp (s.setCtx x.1 (boundCtx s t k x scidx)) (bindCtx s t k x scidx) := by
  obtain ⟨hctxs, hdisp⟩ := hwRead_sameCtxsDisp s (kData k) (min (kDataLen k) (kWindow k))
  let u := (hwRead s (kData k) (min (kDataLen k) (kWindow k))).setCtx x.1 (boundCtx s t k x scidx)
  have hread : SameCtxsDisp (s.setCtx x.1 (boundCtx s t k x scidx)) u :=
    ⟨congrArg (mset Ctx.reset · x.1.toNat (boundCtx s t k x scidx)) hctxs, hdisp⟩
  have hmap := hread.trans (mapKernel_sameCtxsDisp u x.1 k (storePages s x.1 t.kern k))
  unfold bindCtx
  dsimp only
  generalize hm : mapKernel _ _ _ _ = m
  have hum : mapKernel u x.1 k (storePages s x.1 t.kern k) = m := hm
  rw [hum] at hmap
  exact hmap.trans ⟨rfl, rfl⟩

theorem bindCtx_self (s : State) (t : Task) (k : Kernel) (x : FeId × Nat) (scidx : Option (BitVec 16)) :
    (bindCtx s t k x scidx).ctx x.1 = boundCtx s t k x scidx := by
  rw [State.ctx_of_ctxs (bindCtx_sameCtxsDisp s t k x scidx).ctxs, State.ctx_setCtx_same]

theorem bindCtx_other {s : State} {t : Task} {k : Kernel} {x : FeId × Nat} {scidx : Option (BitVec 16)} {f : FeId}
    (h : f ≠ x.1) :
    (bindCtx s t k x scidx).ctx f = s.ctx f := by
  rw [State.ctx_of_ctxs (bindCtx_sameCtxsDisp s t k x scidx).ctxs, State.ctx_setCtx_other _ _ h]

/-- A context of the task with what binding gives it: the entry point, an empty Runnel and the registers of its position (R19). -/
structure BoundAs (c : Ctx) (t : Task) (k : Kernel) (pos : Nat) : Prop where
  task : c.ident.task = t.id
  tenant : c.ident.tenant = t.tenant
  gpc : c.gen.gpc = kEntry k
  runnel : c.gen.runnel = []
  argp : (c.rG 7#5).val = t.argp
  index : ∀ i : Nat, i < 6 → (c.rG (BitVec.ofNat 5 (i + 1))).val = BitVec.ofNat 64 (levelIdx k pos i)
  extent : ∀ i : Nat, i < 6 → (c.rG (BitVec.ofNat 5 (i + 8))).val = BitVec.ofNat 64 (kExt k i)

theorem bindRegs_val (k : Kernel) (pos : Nat) (argp : Word) (band : Band) (n : BitVec 5) :
    (vget zeroSReg (bindRegs k pos argp band) n).val =
      if 1 ≤ n.toNat ∧ n.toNat ≤ 6 then BitVec.ofNat 64 (levelIdx k pos (n.toNat - 1))
      else if n.toNat = 7 then argp
      else if 8 ≤ n.toNat ∧ n.toNat ≤ 13 then BitVec.ofNat 64 (kExt k (n.toNat - 8))
      else 0#64 := by
  rw [bindRegs, vget_ofFn _ _ n n.isLt]

theorem boundCtx_gen (s : State) (t : Task) (k : Kernel) (x : FeId × Nat) (scidx : Option (BitVec 16)) :
    (boundCtx s t k x scidx).gen.g = bindRegs k x.2 t.argp (mkBand t.tenant.toNat (bandLevel (kBand k))) := rfl

theorem boundCtx_boundAs (s : State) (t : Task) (k : Kernel) (x : FeId × Nat) (scidx : Option (BitVec 16)) :
    BoundAs (boundCtx s t k x scidx) t k x.2 := by
  have hreg (n : BitVec 5) (hn : n ≠ 0#5) : ((boundCtx s t k x scidx).rG n).val
      = (vget zeroSReg (bindRegs k x.2 t.argp (mkBand t.tenant.toNat (bandLevel (kBand k)))) n).val := by
    rw [Ctx.rG, if_neg hn, boundCtx_gen]
  refine ⟨rfl, rfl, rfl, rfl, by rw [hreg _ (by decide), bindRegs_val]; rfl, fun i hi => ?_, fun i hi => ?_⟩
  · rw [hreg _ (by interval_cases i <;> decide), bindRegs_val, BitVec.toNat_ofNat, Nat.mod_eq_of_lt (by omega),
      if_pos (by omega), Nat.add_sub_cancel]
  · rw [hreg _ (by interval_cases i <;> decide), bindRegs_val, BitVec.toNat_ofNat, Nat.mod_eq_of_lt (by omega),
      if_neg (by omega), if_neg (by omega), if_pos (by omega), Nat.add_sub_cancel]

theorem BoundAs.run {c : Ctx} {t : Task} {k : Kernel} {pos : Nat} (h : BoundAs c t k pos) :
    BoundAs { c with life := .running } t k pos :=
  ⟨h.task, h.tenant, h.gpc, h.runnel, h.argp, h.index, h.extent⟩

section Gang
variable {s : State} {t : Task} {k : Kernel} {ids : List (BitVec 16)} {f : FeId}

/-- Binds the members of a gang, each at its position. -/
def bindAll (s : State) (t : Task) (k : Kernel) (ids : List (BitVec 16)) (l : List (FeId × Nat)) : State :=
  l.foldl (fun s x => bindCtx s t k x ids[x.2]?) s

theorem bindAll_other {l : List (FeId × Nat)} (h : f ∉ l.map (·.1)) : (bindAll s t k ids l).ctx f = s.ctx f := by
  refine List.foldlRecOn (motive := fun u : State => u.ctx f = s.ctx f) l _ rfl fun u hu x hx => ?_
  rw [bindCtx_other fun e => h (List.mem_map.mpr ⟨x, hx, e.symm⟩), hu]

theorem bindAll_disp (l : List (FeId × Nat)) : (bindAll s t k ids l).disp = s.disp :=
  List.foldlRecOn (motive := fun u : State => u.disp = s.disp) l _ rfl fun u hu x _ =>
    (bindCtx_sameCtxsDisp u t k x _).disp.trans hu

/-- Each member keeps what it was given: the places of a gang differ. -/
theorem bindAll_boundAs {l : List (FeId × Nat)} (hl : (l.map (·.1)).Nodup) {n : Nat} (hx : (f, n) ∈ l) :
    BoundAs ((bindAll s t k ids l).ctx f) t k n := by
  induction l generalizing s with
  | nil => cases hx
  | cons x l ih =>
    obtain ⟨hnot, hl⟩ := List.nodup_cons.mp hl
    rcases List.mem_cons.mp hx with rfl | hx
    · change BoundAs ((bindAll _ t k ids l).ctx f) t k n
      rw [bindAll_other hnot, bindCtx_self s t k (f, n)]
      exact boundCtx_boundAs ..
    · exact ih hl hx

/-- The members run once the gang is bound; nothing else of them changes (R21). -/
theorem runGang_ctx (l : List FeId) :
    (runGang s l).ctx f = if f ∈ l then { s.ctx f with life := .running } else s.ctx f := by
  induction l generalizing s with
  | nil => simp [runGang]
  | cons g l ih =>
    change (runGang (s.modCtx g (fun c => { c with life := .running })) l).ctx f = _
    rw [ih, State.ctx_modCtx]
    by_cases hg : f = g
    · subst hg; simp
    · simp [hg]

theorem runGang_disp (l : List FeId) : (runGang s l).disp = s.disp :=
  List.foldlRecOn (motive := fun u : State => u.disp = s.disp) l _ rfl fun _ hu _ _ => hu

/-- The places of a valid placement differ: each stands on a core of its own (R18). -/
theorem validPlace_nodup {place : List FeId} (h : validPlace s k place = true) : place.Nodup := by
  have hpair : place.zipIdx.all (fun a => place.zipIdx.all (pairOk k a)) = true := (Bool.and_eq_true_iff.mp h).2
  refine List.pairwise_iff_getElem.mpr fun i j hi hj hij heq => ?_
  have hmem (n : Nat) (hn : n < place.length) : (place[n], n) ∈ place.zipIdx :=
    List.mk_mem_zipIdx_iff_getElem?.mpr (List.getElem?_eq_getElem hn)
  have hok := List.all_eq_true.mp (List.all_eq_true.mp hpair _ (hmem i hi)) _ (hmem j hj)
  simp [pairOk, heq, Nat.ne_of_lt hij] at hok

end Gang

/-- The task of a gang that has been bound (R332). -/
def Task.bound (t : Task) (place : List FeId) (ids : List (BitVec 16)) (binds : Nat) : Task :=
  { t with st := .running, age := 0, place := place, live := place, scidx := ids, boundAt := binds }

/-- The save-counter indexes that a protected gang takes (R388). -/
def gangScidx (s : State) (k : Kernel) (place : List FeId) : List (BitVec 16) :=
  if 2 ≤ bandLevel (kBand k) then freeScidx s place.length else []

section Select
variable {s : State} {y : Task} {k : Kernel} {place : List FeId}

theorem bindGang_ctx (f : FeId) : (bindGang s y k place).ctx f
    = (runGang (bindAll s y k (gangScidx s k place) place.zipIdx) place).ctx f :=
  traceEv_ctx ..

/-- The gang's task runs on its placement (R332). -/
theorem bindGang_task (hy : s.task y.id = some y) : ∃ z, (bindGang s y k place).task y.id = some z ∧ z.st = .running ∧
    z.place = place ∧ z.live = place := by
  let a := bindAll s y k (gangScidx s k place) place.zipIdx
  let b := runGang a place
  have hb : b.task y.id = some y := by
    rw [State.task, runGang_disp, bindAll_disp]; exact hy
  have hdisp : (bindGang s y k place).disp.tasks
      = (b.modTask y.id (·.bound place (gangScidx s k place) a.disp.binds)).disp.tasks := by
    rw [bindGang, taskEvent, (traceEv_sameCtxsDisp _ _).disp]
    rfl
  refine ⟨y.bound place (gangScidx s k place) a.disp.binds, ?_, rfl, rfl, rfl⟩
  rw [State.task, hdisp]
  exact (State.task_modTask (f := (·.bound place (gangScidx s k place) a.disp.binds)) fun _ => rfl).trans (by rw [hb]; rfl)

/-- A selected placement binds the gang, and each of its contexts runs at its position (R19, R332, R334). -/
theorem dispatcherSelect_binds {victims : List (BitVec 32)} (hy : s.task y.id = some y) (hen : s.disp.en = true)
    (hhold : s.disp.hold = false) (hst : y.st = .eligible) (himg : y.images = false) (hreach : reaches s y.id = true)
    (hk : kernelOf s y.kern = some k) (hne : place ≠ []) (hvalid : validPlace s k place = true) (hroom : scidxRoom s k = true) :
    ∃ t, exec (.dispatcherSelect y.id place victims) s = .next t ∧
      (∃ z, t.task y.id = some z ∧ z.st = .running ∧ z.place = place ∧ z.live = place) ∧
      ∀ (n : Nat) (f : FeId), place[n]? = some f → (t.ctx f).life = .running ∧ BoundAs (t.ctx f) y k n := by
  refine ⟨bindGang s y k place, ?_, bindGang_task hy, fun n f hf => ?_⟩
  · change execDispatcherSelect y.id place victims s = _
    simp [execDispatcherSelect, hy, hen, hhold, hst, himg, hreach, hk, hne, hvalid, hroom]
  · have hbound : BoundAs ((bindAll s y k (gangScidx s k place) place.zipIdx).ctx f) y k n :=
      bindAll_boundAs (by rw [List.zipIdx_map_fst]; exact validPlace_nodup hvalid) (List.mk_mem_zipIdx_iff_getElem?.mpr hf)
    rw [bindGang_ctx, runGang_ctx, if_pos (List.mem_of_getElem? hf)]
    exact ⟨rfl, hbound.run⟩

end Select

/-- Settles O46: each event by the lemma about its own operation above; a gang's members keep what binding gave each of them
(`bindAll_boundAs`), since the places of a valid placement differ (`validPlace_nodup`). -/
theorem tasksEnterRunAndLeave : Obligations.TasksEnterRunAndLeave := by
  unfold Obligations.TasksEnterRunAndLeave
  intro s fe l rest y k place win q victims c cmd nextId joins waits htr
  refine ⟨fun hq hfe hn hen hk => ?_, fun hen hwin hon hn hseal htype hbad hk => ?_, dispatcherScan_scans s win q, rfl,
    rinseComplete_unbinds, fun hy => ⟨fun hst hdeps => ?_, fun hst hdeps => ?_, taskFailedRetire_retires hy htr, ?_, ?_⟩⟩
  · obtain ⟨t, hexec, hrest, hnext, htasks, hctx⟩ := launchAccept_accepts htr hq hfe hn hen hk
    refine ⟨t, hexec, hrest, waitingTask_joins htasks hnext, fun hrun hbid => ?_⟩
    rw [hctx hrun hbid]
    exact ⟨rfl, fun p hp d hd => launched_mem _ hp hd⟩
  · obtain ⟨t, hexec, hcons, hnext, htasks⟩ := commandEntryTake_accepts htr rfl hen hwin hon hn hseal htype hbad hk
    exact ⟨t, hexec, hcons, waitingTask_joins htasks hnext⟩
  · exact exec_taskEligible hy hst (fun a ha => (hdeps a ha).imp_right (·.1.2)) (fun a ha => (hdeps a ha).imp_right (·.2))
  · exact taskAbandon_abandons hy htr hst (fun a ha => (hdeps a ha).imp_right (·.2))
  · intro hst hlive hsaved htorn hfail hsig hcount htask hexit hrun hsettled hwin hdone hfrz hgate hperf
    exact ⟨_, exec_contextExitComplete htask hexit hrun hsettled hwin hdone hfrz hgate hperf,
      lastContext_retires htask htr hy hst hlive hsaved htorn hfail hsig hcount _⟩
  · intro hen hhold hst himg hreach hk hne hvalid hroom
    obtain ⟨t, hexec, htask, hplace⟩ :=
      dispatcherSelect_binds (victims := victims) hy hen hhold hst himg hreach hk hne hvalid hroom
    refine ⟨t, hexec, htask, fun n f hf => ?_⟩
    obtain ⟨hlife, hbound⟩ := hplace n f hf
    exact ⟨hlife, hbound.task, hbound.tenant, hbound.gpc, hbound.runnel, hbound.argp,
      fun i hi => ⟨hbound.index i hi, hbound.extent i hi⟩⟩

end Sys2Proof.Machine
end

section
/-! SUPPORT. Every encoder is read back by the map of its set (R29 to R32, R43 to R51). -/
namespace Sys2Proof

section Parts
variable {m n j k : Nat} {x : BitVec m} {y : BitVec n}

/-! The laws of the parts of a packed word, found by `simp` also where the width of the word is a numeral. -/

@[simp] theorem extract_append_high (h : n ≤ j) :
    BitVec.extractLsb' j k (no_index (x ++ y)) = x.extractLsb' (j - n) k :=
  BitVec.extractLsb'_append_eq_of_le h

@[simp] theorem extract_append_low (h : j + k ≤ n) : BitVec.extractLsb' j k (no_index (x ++ y)) = y.extractLsb' j k :=
  BitVec.extractLsb'_append_eq_of_add_le h

theorem getLsbD_append_parts :
    BitVec.getLsbD (no_index (x ++ y)) j = if j < n then y.getLsbD j else x.getLsbD (j - n) :=
  BitVec.getLsbD_append

end Parts

/-- The pipes VA and VB have the slots 1 and 2 (R29). -/
theorem vslot_ne {vb : Bool} {k : BitVec 3} (h1 : k ≠ 1#3) (h2 : k ≠ 2#3) : vslot vb ≠ k := by
  cases vb
  · exact h1.symm
  · exact h2.symm

theorem vslot_inj {vb vb' : Bool} : vslot vb = vslot vb' ↔ vb = vb' := by
  cases vb <;> cases vb' <;> decide

theorem vslot_eq_one {vb : Bool} : vslot vb = 1#3 ↔ vb = false := by
  cases vb <;> decide

section Ops
variable {i : Instr} {w : BitVec 64}

/-- The word of an op of the S slot is read back by the slot's opcode map. -/
theorem decodeS_of_encodeOp (he : encodeOp i = some w) (hs : fSlot w = 0#3) : decodeS w = some i := by
  cases i
  case nop =>
    cases he
    obtain rfl := (fSlot_packR ..).symm.trans hs
    rw [decodeS, fOpc_packR, hdrR_packR]
    rfl
  case add | sub | and | or | xor | andn | shl | shr | sra | rot | min | max | minu | maxu | mul | mulh | mulhu |
      div | divu | rem | remu | clz | ctz | popc | bfx | bfi | sel | ceq | cne | clt | cltu | cle | cleu | pand |
      por | pxor | pnot | post | endq | lgo | lbrk | lidx =>
    cases he
    unfold decodeS
    rw [fOpc_packR]
    refine congrArg some ?_
    simp [-BitVec.getLsbD_eq_getElem, extract_packR, getLsbD_packR, getLsbD_append_parts]
  case addi | andi | ori | xori | shli | shri | srai | li | lih | muli | ceqi | clti | skip | eskip | rdsr | wrsr |
      lset | lbody | lstage =>
    cases he
    unfold decodeS
    rw [fOpc_packI]
    refine congrArg some ?_
    simp [-BitVec.getLsbD_eq_getElem, extract_packI, getLsbD_packI, getLsbD_append_parts]
  case pset =>
    cases he
    unfold decodeS
    rw [fOpc_packR]
    change bind _ _ = _
    simp
  all_goals cases he <;> simp [vslot_ne] at hs

/-- The word of an op of a vector pipe is read back by the pipes' opcode map (R45). -/
theorem decodeV_of_encodeOp {vb : Bool} (he : encodeOp i = some w) (hs : vslot vb = fSlot w) : decodeV vb w = some i := by
  cases i
  case nop =>
    cases he
    obtain rfl := hs.trans (fSlot_packR ..)
    unfold decodeV
    rw [fOpc_packR, hdrR_packR]
    rfl
  case vadd | vsub | vmul | vmac | vadds | vsubs | vmin | vmax | vabs | vshl | vshr | vsra | vand | vor | vxor |
      vmulhr | vdot4 | vsel | vfadd | vfsub | vfmul | vfma | vfmin | vfmax | vfabs | vfneg | vrcp | vrsqrt | vexp2 |
      vlog2 | vfcmp | vcmp | vcvt | vquant | vdequant | vscale2 | vrsum | vrmax | vramax | vrmin | vperm | vbcast |
      vext | vins | vslide | vzip | vunzip | vmov | vsplat | vamul | vamac | vconj | vnorm =>
    cases he
    obtain rfl := vslot_inj.mp (hs.trans (fSlot_packR ..))
    unfold decodeV
    rw [fOpc_packR]
    change bind _ _ = _
    simp [-BitVec.getLsbD_eq_getElem, extract_packR, getLsbD_packR, getLsbD_append_parts]
  case sminit | smstep | smrsc | smfin | smget =>
    cases he
    obtain rfl := vslot_eq_one.mp (hs.trans (fSlot_packR ..))
    unfold decodeV
    rw [fOpc_packR]
    change ite _ _ _ = _
    simp [-BitVec.getLsbD_eq_getElem, extract_packR, getLsbD_packR, getLsbD_append_parts]
  all_goals cases he <;> simp [vslot_ne] at hs

/-- The word of an op of the M slot is read back by the slot's opcode map. -/
theorem decodeM_of_encodeOp (he : encodeOp i = some w) (hs : fSlot w = 3#3) : decodeM w = some i := by
  cases i
  case nop =>
    cases he
    obtain rfl := (fSlot_packR ..).symm.trans hs
    rw [decodeM, fOpc_packR, hdrR_packR]
    rfl
  case malg | mfill | mfreeze | mthaw | mstat | mzero =>
    cases he
    unfold decodeM
    rw [fOpc_packR]
    refine congrArg some ?_
    simp [-BitVec.getLsbD_eq_getElem, getLsbD_packR, getLsbD_append_parts]
  case mcall =>
    cases he
    unfold decodeM
    rw [fOpc_packI]
    refine congrArg some ?_
    simp [-BitVec.getLsbD_eq_getElem, extract_packI, getLsbD_packI, getLsbD_append_parts]
  case mload | tload =>
    cases he
    unfold decodeM
    rw [fOpc_packM]
    refine congrArg some ?_
    simp [-BitVec.getLsbD_eq_getElem]
  case msetRs | mset | mgetRs | mget | mdrainRaw | mdrain =>
    cases he
    unfold decodeM
    rw [fOpc_packR]
    change ite _ _ _ = _
    simp [-BitVec.getLsbD_eq_getElem, extract_packR, getLsbD_packR, getLsbD_append_parts]
  all_goals cases he <;> simp [vslot_ne] at hs

/-- The word of an op of the L slot is read back by the slot's opcode map. -/
theorem decodeL_of_encodeOp (he : encodeOp i = some w) (hs : fSlot w = 4#3) : decodeL w = some i := by
  cases i
  case nop =>
    cases he
    obtain rfl := (fSlot_packR ..).symm.trans hs
    rw [decodeL, fOpc_packR, hdrR_packR]
    rfl
  case vldr | qclr | amo =>
    cases he
    unfold decodeL
    rw [fOpc_packR]
    refine congrArg some ?_
    simp [-BitVec.getLsbD_eq_getElem, extract_packR, getLsbD_packR, getLsbD_append_parts]
  case ld | vld | lsq | qset | pref | vldc =>
    cases he
    unfold decodeL
    rw [fOpc_packM]
    refine congrArg some ?_
    simp [-BitVec.getLsbD_eq_getElem]
  case vldg | vlds =>
    cases he
    unfold decodeL
    rw [fOpc_packR]
    change bind _ _ = _
    simp
  all_goals cases he <;> simp [vslot_ne] at hs

/-- The word of an op of the ST slot is read back by the slot's opcode map. -/
theorem decodeSt_of_encodeOp (he : encodeOp i = some w) (hs : fSlot w = 5#3) : decodeSt w = some i := by
  cases i
  case nop =>
    cases he
    obtain rfl := (fSlot_packR ..).symm.trans hs
    rw [decodeSt, fOpc_packR, hdrR_packR]
    rfl
  case vstr | radv =>
    cases he
    unfold decodeSt
    rw [fOpc_packR]
    refine congrArg some ?_
    simp [-BitVec.getLsbD_eq_getElem, extract_packR]
  case st | vst | vstm | cflush | cinval | cclean =>
    cases he
    unfold decodeSt
    rw [fOpc_packM]
    refine congrArg some ?_
    simp [-BitVec.getLsbD_eq_getElem]
  case vsts =>
    cases he
    unfold decodeSt
    rw [fOpc_packR]
    change bind _ _ = _
    simp
  all_goals cases he <;> simp [vslot_ne] at hs

/-- The word of an op of the C slot is read back by the slot's opcode map. -/
theorem decodeC_of_encodeOp (he : encodeOp i = some w) (hs : fSlot w = 6#3) : decodeC w = some i := by
  cases i
  case nop =>
    cases he
    obtain rfl := (fSlot_packR ..).symm.trans hs
    rw [decodeC, fOpc_packR, hdrR_packR]
    rfl
  case cpy | cnl | cnb | cgo | cdrain | cstat | ckv | cred =>
    cases he
    unfold decodeC
    rw [fOpc_packR]
    refine congrArg some ?_
    simp [-BitVec.getLsbD_eq_getElem, extract_packR, getLsbD_packR, getLsbD_append_parts]
  case cmode =>
    cases he
    unfold decodeC
    rw [fOpc_packI]
    refine congrArg some ?_
    simp [-BitVec.getLsbD_eq_getElem, getLsbD_packI, getLsbD_append_parts]
  all_goals cases he <;> simp [vslot_ne] at hs

/-- The word of an op of the X slot is read back by the slot's opcode map. -/
theorem decodeX_of_encodeOp (he : encodeOp i = some w) (hs : fSlot w = 7#3) : decodeX w = some i := by
  cases i
  case nop =>
    cases he
    obtain rfl := (fSlot_packR ..).symm.trans hs
    rw [decodeX, fOpc_packR, hdrR_packR]
    rfl
  case fence | tfence | twait | tget | barv | bexp | bwait | sigdec | sigwait | mwait | launch | exit | bandup |
      seal_ | open_ | wld | wlock | wunlk | wx | yield | rdtime =>
    cases he
    unfold decodeX
    rw [fOpc_packR]
    refine congrArg some ?_
    simp [-BitVec.getLsbD_eq_getElem, extract_packR, getLsbD_packR, getLsbD_append_parts]
  case trap | fmt =>
    cases he
    unfold decodeX
    rw [fOpc_packI]
    refine congrArg some ?_
    simp [-BitVec.getLsbD_eq_getElem, extract_packI, getLsbD_packI, getLsbD_append_parts]
  all_goals cases he <;> simp [vslot_ne] at hs

/-- The word of an op is read back by the opcode map of its slot (R29, R43 to R47). -/
theorem decodeOpRaw_of_encodeOp (he : encodeOp i = some w) : decodeOpRaw w = some i := by
  unfold decodeOpRaw
  split
  next hs => exact decodeS_of_encodeOp he hs
  next hs => exact decodeV_of_encodeOp he hs.symm
  next hs => exact decodeV_of_encodeOp he hs.symm
  next hs => exact decodeM_of_encodeOp he hs
  next hs => exact decodeL_of_encodeOp he hs
  next hs => exact decodeSt_of_encodeOp he hs
  next hs => exact decodeC_of_encodeOp he hs
  next h0 h1 h2 h3 h4 h5 h6 =>
    refine decodeX_of_encodeOp he ?_
    generalize fSlot w = k at h0 h1 h2 h3 h4 h5 h6 ⊢
    simp only [imp_false] at h0 h1 h2 h3 h4 h5 h6
    bv_omega

end Ops

section Words
variable {i : Instr} {w : BitVec 32}

theorem decodeMillinerRaw_of_encodeMilliner (he : encodeMilliner i = some w) : decodeMillinerRaw w = some i := by
  cases i
  case gadd | gsub | gand | gor | gxor | gshl | gshr | gsra | gmul | gaddi | gandi | gori | gshli | gshri | gli |
      glih | gslt | gsltu | gbeq | gbne | gblt | gbge | gbltu | gbgeu | gj | gjal | gjr | gld | gst | tld | tpat |
      tpati | tclrAll | tclr | emit | emitm | emitr | gwait | grecv | grds | gwrs | gtrap | gend =>
    cases he
    simp [-BitVec.getLsbD_eq_getElem, decodeMillinerRaw, getLsbD_append_parts]
  all_goals cases he

theorem decodeMicroRaw_of_encodeMicro (he : encodeMicro i = some w) : decodeMicroRaw w = some i := by
  cases i
  case pulla | pullb | pullm | step | stepk | zacc | sqpop | drain | loop | endl | syncc | waitr | swap | ret =>
    cases he
    simp [-BitVec.getLsbD_eq_getElem, decodeMicroRaw]
  all_goals cases he

theorem decodeTrimmerRaw_of_encodeTrimmer (he : encodeTrimmer i = some w) : decodeTrimmerRaw w = some i := by
  cases i
  case trimTld | tbias | tmul | tts | tact | trnd | tcvt | tsat | trmax | trsum | tqnt | tadd | tmulr | tst | tsts |
      tend =>
    cases he
    simp [-BitVec.getLsbD_eq_getElem, decodeTrimmerRaw, getLsbD_append_parts]
  all_goals cases he

end Words

/-- Every op has a word (R29, R30). -/
theorem isSome_encodeOp (i : Instr) : (encodeOp i).isSome = (Machine.opHdr i).isSome := by
  cases i <;> rfl

/-- A decoder that checks its word, over a map that reads every encoded word back, accepts exactly the words that its encoder
gives (R32). -/
theorem checkWord_iff {n : Nat} {enc : Instr → Option (BitVec n)} {w : BitVec n} {raw : Option Instr} {i : Instr}
    (hraw : enc i = some w → raw = some i) : enc i = some w ↔ checkWord enc w raw = .ok i :=
  ⟨fun he => checkWord_ok (hraw he) he, checkWord_enc⟩

/-- Settles O55: each map reads back what its encoder writes (`decodeOpRaw_of_encodeOp` and its like for the side sets), and a
decoder accepts a word only if its instruction encodes to it (`checkWord_iff`). -/
theorem encodingAndDecodingAgree : Obligations.EncodingAndDecodingAgree := by
  unfold Obligations.EncodingAndDecodingAgree
  exact fun i => ⟨fun _ => checkWord_iff decodeOpRaw_of_encodeOp, fun _ => checkWord_iff decodeMillinerRaw_of_encodeMilliner,
    fun _ => checkWord_iff decodeMicroRaw_of_encodeMicro, fun _ => checkWord_iff decodeTrimmerRaw_of_encodeTrimmer,
    fun h => Option.isSome_iff_exists.mp ((isSome_encodeOp i).trans h)⟩

end Sys2Proof
end

section
/-! SUPPORT. The values and the effects of the S slot (O1, O6, O7). -/
namespace Sys2Proof.Machine

/-! ### Values of R117 -/

theorem shl64_eq (x y : Word) : shl64 x y = BitVec.ofNat 64 (x.toNat * 2 ^ (y.toNat % 64)) :=
  BitVec.eq_of_toNat_eq (by simp [shl64, Nat.shiftLeft_eq])

theorem shr64_eq (x y : Word) : shr64 x y = BitVec.ofNat 64 (x.toNat / 2 ^ (y.toNat % 64)) := by
  refine BitVec.eq_of_toNat_eq ?_
  rw [shr64, BitVec.toNat_ushiftRight, Nat.shiftRight_eq_div_pow, BitVec.toNat_ofNat,
    Nat.mod_eq_of_lt (a := _ / _) (Nat.lt_of_le_of_lt (Nat.div_le_self ..) x.isLt)]

theorem sra64_eq (x y : Word) : sra64 x y = BitVec.ofInt 64 (x.toInt / 2 ^ (y.toNat % 64)) := by
  simp [sra64, BitVec.sshiftRight, Int.shiftRight_eq_div_pow]

theorem mul_eq_ofInt (x y : Word) : x * y = BitVec.ofInt 64 (x.toInt * y.toInt) := by
  rw [BitVec.ofInt_mul, BitVec.ofInt_toInt, BitVec.ofInt_toInt]

/-- Bits 127:64 of the 128-bit form of a number are its quotient by 2^64. -/
theorem extract_high_ofInt (p : Int) : (BitVec.ofInt 128 p).extractLsb' 64 64 = BitVec.ofInt 64 (p / 2 ^ 64) := by
  refine BitVec.eq_of_toNat_eq ?_
  rw [BitVec.extractLsb'_toNat, BitVec.toNat_ofInt, BitVec.toNat_ofInt, Nat.shiftRight_eq_div_pow]
  omega

theorem mulhS_eq (x y : Word) : mulhS x y = BitVec.ofInt 64 (x.toInt * y.toInt / 2 ^ 64) := by
  rw [mulhS, BitVec.signExtend, BitVec.signExtend, ← BitVec.ofInt_mul, extract_high_ofInt]

theorem mulhU_eq (x y : Word) : mulhU x y = BitVec.ofNat 64 (x.toNat * y.toNat / 2 ^ 64) := by
  refine BitVec.eq_of_toNat_eq ?_
  have hprod := Nat.mul_lt_mul'' x.isLt y.isLt
  rw [mulhU, BitVec.extractLsb'_toNat, BitVec.toNat_mul, BitVec.toNat_setWidth_of_le (by decide),
    BitVec.toNat_setWidth_of_le (by decide), BitVec.toNat_ofNat, Nat.shiftRight_eq_div_pow]
  generalize x.toNat * y.toNat = p at hprod ⊢
  omega

theorem minS_eq (x y : Word) : minS x y = if x.toInt < y.toInt then x else y := by simp [minS, BitVec.slt_iff_toInt_lt]
theorem maxS_eq (x y : Word) : maxS x y = if x.toInt < y.toInt then y else x := by simp [maxS, BitVec.slt_iff_toInt_lt]
theorem minU_eq (x y : Word) : minU x y = if x.toNat < y.toNat then x else y := by simp [minU, BitVec.ult_iff_lt, BitVec.lt_def]
theorem maxU_eq (x y : Word) : maxU x y = if x.toNat < y.toNat then y else x := by simp [maxU, BitVec.ult_iff_lt, BitVec.lt_def]

/-- A two-source op that executes lands its value (R114, R117). -/
theorem landsRR_of_scalarRR {i : Instr} {h : OpHdr} {lat : Nat} {d a b : BitVec 6} {f g : Word → Word → Word}
    (hexec : ∀ s, exec i s = .next (scalarRR h lat d a b g s)) (hval : ∀ x y, g x y = f x y) : LandsRR i h lat d a b f := by
  intro s band hrun hband
  rw [hexec, scalarRR, guardedOp_runs hrun, landScalar_of_bandOf hband, hval]
  rfl

/-- Settles O1: each op is `scalarRR` of its function, whose value is the one of R117. -/
theorem integerRegisterOpsLandTheirResult : Obligations.IntegerRegisterOpsLandTheirResult := by
  unfold Obligations.IntegerRegisterOpsLandTheirResult
  intro h d a b
  have same {i : Instr} {lat : Nat} {f : Word → Word → Word} (hexec : ∀ s, exec i s = .next (scalarRR h lat d a b f s)) :
      LandsRR i h lat d a b f := landsRR_of_scalarRR hexec fun _ _ => rfl
  exact ⟨same fun _ => rfl, same fun _ => rfl, same fun _ => rfl, same fun _ => rfl, same fun _ => rfl, same fun _ => rfl,
    landsRR_of_scalarRR (fun _ => rfl) shl64_eq, landsRR_of_scalarRR (fun _ => rfl) shr64_eq,
    landsRR_of_scalarRR (fun _ => rfl) sra64_eq, same fun _ => rfl,
    landsRR_of_scalarRR (fun _ => rfl) minS_eq, landsRR_of_scalarRR (fun _ => rfl) maxS_eq,
    landsRR_of_scalarRR (fun _ => rfl) minU_eq, landsRR_of_scalarRR (fun _ => rfl) maxU_eq,
    landsRR_of_scalarRR (fun _ => rfl) mul_eq_ofInt, landsRR_of_scalarRR (fun _ => rfl) mulhS_eq,
    landsRR_of_scalarRR (fun _ => rfl) mulhU_eq⟩

/-! ### Skips, `nop` and `end` (R37, R124, R126, R131) -/

/-- The body of the nest has room for a skip of n groups (R125). -/
def BodyHolds (c : Ctx) (n : Nat) : Prop := ∀ k, bodyLeft c = some k → n ≤ k

theorem exec_skip {s : State} {h : OpHdr} {a : BitVec 4} {n : BitVec 32} (hrun : OpRuns s h)
    (hn : 1 ≤ n.toNat ∧ n.toNat ≤ 64) (hbody : BodyHolds s.here n.toNat) (hp : (s.here.rP a).poison = false) :
    exec (.skip h a n) s = .next (if (s.here.rP a).bits.getLsbD 0
      then s.modCtx s.cur (fun c => { c with regs := { c.regs with skip := n.setWidth 7 } }) else s) := by
  change execSkip h a n s = _
  rw [execSkip, decide_eq_true hn, guardedOp_runs hrun]
  cases hk : bodyLeft (s.ctx s.cur) with
  | none => simp [hk, hp]
  | some k => simp [hk, hp, hbody k hk]

theorem exec_eskip {s : State} {h : OpHdr} {a : BitVec 4} {m : BitVec 5} {hint : Bool} (hrun : OpRuns s h)
    (hm : 1 ≤ m.toNat ∧ m.toNat ≤ 16) (hbody : BodyHolds s.here m.toNat) (hp : (s.here.rP a).poison = false) :
    exec (.eskip h a hint m) s = .next (s.modCtx s.cur (fun c => { c with regs := { c.regs with
      win := ⟨true, a, hint, m, 0#5, false, false, [], c.predWriter a, s.opProv, s.opWord 0#3⟩ } })) := by
  change execEskip h a hint m s = _
  rw [execEskip, decide_eq_true hm, guardedOp_runs hrun]
  cases hk : bodyLeft (s.ctx s.cur) with
  | none => simp [hk, hp, slotS]
  | some k => simp [hk, hp, hbody k hk, slotS]

/-- Settles O6: the range check, the check of the body and the check of the predicate pass, so each op has its effect. -/
theorem skipsNopAndEndAct : Obligations.SkipsNopAndEndAct := by
  unfold Obligations.SkipsNopAndEndAct
  intro s h slot a n m hint
  refine ⟨fun hg => ?_, fun hrun h1 h64 hbody hp => exec_skip hrun ⟨h1, h64⟩ hbody hp,
    fun hrun h1 h16 hbody hp => exec_eskip hrun ⟨h1, h16⟩ hbody hp, fun hrun => ?_⟩
  · change execNop h slot s = _
    rw [execNop, if_pos hg]
  · change execEndq h s = _
    rw [execEndq, guardedOp_runs hrun]

/-! ### Messages and special registers (R102, R129, R130) -/

theorem ctxidWord_eq (c : Ctx) :
    ctxidWord c = BitVec.ofNat 64 (c.ident.feid.toNat * 2 ^ 32 + c.ident.bid.toNat) := by
  refine BitVec.eq_of_toNat_eq ?_
  have hfe := c.ident.feid.isLt
  have hbid := c.ident.bid.isLt
  rw [ctxidWord, BitVec.toNat_append, BitVec.toNat_append, ← Nat.shiftLeft_add_eq_or_of_lt hbid, BitVec.toNat_ofNat]
  simp only [BitVec.toNat_ofNat, Nat.zero_mod, Nat.shiftLeft_eq, Nat.zero_mul, Nat.zero_or]
  omega

theorem refWord_eq (s : State) :
    refWord s = BitVec.ofNat 64 (s.refresh.toNat / 2016 * 2 ^ 16 + s.refresh.toNat) := by
  refine BitVec.eq_of_toNat_eq ?_
  have hr := s.refresh.isLt
  have hhigh : (BitVec.ofNat 64 (s.refresh.toNat / 2016) <<< 16).toNat = (s.refresh.toNat / 2016) <<< 16 := by
    rw [BitVec.toNat_shiftLeft, BitVec.toNat_ofNat, Nat.shiftLeft_eq, Nat.shiftLeft_eq]
    omega
  rw [refWord, BitVec.toNat_or, hhigh, BitVec.toNat_setWidth_of_le (by decide), BitVec.toNat_ofNat,
    ← Nat.shiftLeft_add_eq_or_of_lt hr, Nat.shiftLeft_eq]
  omega

/-- What `rdsr` lands: the register with the number n, in the context's band (R130). -/
theorem exec_rdsr {s : State} {h : OpHdr} {d : BitVec 6} {n : BitVec 32} {v : Word} {band : Band} (hrun : OpRuns s h)
    (hband : bandOf [s.here.band] = some band) (hn : n.toNat ≤ 9) (hv : readSr s s.cur n.toNat = some v) :
    exec (.rdsr h d n) s = .next (landRegs s 0#3 1 [.s d ⟨v, band, false⟩]) := by
  change execRdsr h d n s = _
  rw [execRdsr, decide_eq_true hn, guardedOp_runs hrun]
  simp only [hv]
  rw [landScalar_of_bandOf hband]
  rfl

/-- What `wrsr` lands: the writes of its register, after 4 beats for FMT and 1 for the others (R130). -/
theorem exec_wrsr {s : State} {h : OpHdr} {a : BitVec 6} {n : BitVec 32} (hrun : OpRuns s h)
    (hp : (s.here.rS a).poison = false) (hlevel : bandLevel (s.here.rS a).band ≤ bandLevel s.here.band)
    (hn : srWritable n.toNat = true) :
    exec (.wrsr h a n) s = .next (landRegs s 0#3 (if n = 0#32 then 4 else 1) (srWrites n.toNat (s.here.rS a).val)) := by
  change execWrsr h a n s = _
  rw [execWrsr, hn, guardedOp_runs hrun]
  simp [hp, Nat.not_lt.mpr hlevel, slotS]

/-- Settles O7. -/
theorem messagesAndSpecialRegistersAct : Obligations.MessagesAndSpecialRegistersAct := by
  unfold Obligations.MessagesAndSpecialRegistersAct
  intro s h a d band hrun
  refine ⟨fun hp hroom => ?_, fun hband n v hv => ?_, fun hp hlevel => ⟨exec_wrsr hrun hp hlevel rfl, ?_⟩⟩
  · change execPost h a s = _
    rw [execPost, guardedOp_runs hrun]
    simp [hp, fifoUse, Nat.not_le.mpr hroom]
  · have hread : n.toNat ≤ 9 ∧ readSr s s.cur n.toNat = some v := by
      obtain ⟨rfl, rfl⟩ | ⟨rfl, rfl⟩ | ⟨rfl, rfl⟩ | ⟨rfl, rfl⟩ | ⟨rfl, rfl⟩ | ⟨rfl, rfl⟩ | ⟨rfl, rfl⟩ | ⟨rfl, rfl⟩ |
        ⟨rfl, rfl⟩ | ⟨rfl, rfl⟩ := hv
      case inr.inl => exact ⟨by decide, congrArg some (ctxidWord_eq s.here)⟩
      case inr.inr.inr.inr.inr.inr.inr.inr.inl => exact ⟨by decide, congrArg some (refWord_eq s)⟩
      all_goals exact ⟨by decide, rfl⟩
    exact exec_rdsr hrun hband hread.1 hread.2
  · rintro n (rfl | rfl | rfl) <;> exact exec_wrsr hrun hp hlevel rfl

end Sys2Proof.Machine
end

section
/-! SUPPORT. Vector ops that run: their sources, the pops, lanes of a built register, and what they land (R142 to R149). -/
namespace Sys2Proof.Machine

/-! ### Pops (R144, R248) -/

/-- `d` has the registers of `c` but for streams and the flags of FMT. -/
structure PopKeeps (c d : Ctx) : Prop where
  s : d.regs.s = c.regs.s
  v : d.regs.v = c.regs.v
  p : d.regs.p = c.regs.p
  rm : fmtRm d.regs.fmt = fmtRm c.regs.fmt
  alg : fmtAlg d.regs.fmt = fmtAlg c.regs.fmt
  eng : d.eng = c.eng

theorem PopKeeps.refl (c : Ctx) : PopKeeps c c := ⟨rfl, rfl, rfl, rfl, rfl, rfl⟩
theorem PopKeeps.trans {c d e : Ctx} (h : PopKeeps c d) (h' : PopKeeps d e) : PopKeeps c e :=
  ⟨h'.s.trans h.s, h'.v.trans h.v, h'.p.trans h.p, h'.rm.trans h.rm, h'.alg.trans h.alg, h'.eng.trans h.eng⟩

theorem PopKeeps.rS {c d : Ctx} (h : PopKeeps c d) (n : BitVec 6) : d.rS n = c.rS n := by rw [Ctx.rS, Ctx.rS, h.s]
theorem PopKeeps.rV {c d : Ctx} (h : PopKeeps c d) (n : BitVec 6) : d.rV n = c.rV n := by rw [Ctx.rV, Ctx.rV, h.v]
theorem PopKeeps.rP {c d : Ctx} (h : PopKeeps c d) (n : BitVec 4) : d.rP n = c.rP n := by rw [Ctx.rP, Ctx.rP, h.p]
theorem PopKeeps.rmOf {c d : Ctx} (h : PopKeeps c d) (r : Rms) : rmOf d r = rmOf c r := by
  cases r with
  | fmt => rw [Machine.rmOf, Machine.rmOf, h.rm]
  | mode m => rfl
theorem PopKeeps.algTab {c d : Ctx} (h : PopKeeps c d) : algTab d = algTab c := by
  rw [Machine.algTab, Machine.algTab, h.alg, h.eng]

@[simp] theorem fmtRm_fmtSet (f : Word) (rm alg : BitVec 2) (ovf nan : Bool) : fmtRm (fmtSet f rm alg ovf nan) = rm := by
  simp [fmtRm, fmtSet]
@[simp] theorem fmtAlg_fmtSet (f : Word) (rm alg : BitVec 2) (ovf nan : Bool) : fmtAlg (fmtSet f rm alg ovf nan) = alg := by
  simp [fmtAlg, fmtSet]

theorem flagWrites_popKeeps (c : Ctx) (nan ovf : Bool) : PopKeeps c (applyRegWs c (flagWrites nan ovf)) := by
  unfold flagWrites
  split
  · constructor <;> simp [applyRegWs, applyRegW]
  · exact .refl c

theorem popStream_popKeeps (c : Ctx) (n : BitVec 3) (keep : Bool) (fuel : Nat) : PopKeeps c (popStream c n keep fuel) := by
  induction fuel generalizing c n keep with
  | zero => exact .refl c
  | succ fuel ih =>
    have hpop (streams : Vector Stream 8) (nan ovf : Bool) :
        PopKeeps c (applyRegWs { c with regs := { c.regs with streams := streams } } (flagWrites nan ovf)) := by
      have hc : PopKeeps c { c with regs := { c.regs with streams := streams } } := ⟨rfl, rfl, rfl, rfl, rfl, rfl⟩
      exact hc.trans (flagWrites_popKeeps ..)
    unfold popStream
    dsimp only
    split
    · exact .refl c
    · split
      · split
        · exact (hpop ..).trans (ih ..)
        · exact hpop ..
      · exact hpop ..

theorem popSrc_popKeeps (c : Ctx) (x : VSrc) : PopKeeps c (popSrc c x) := by
  cases x with
  | v n => exact .refl c
  | q n => exact popStream_popKeeps ..

/-- The pops of the sources change only streams and the flags of FMT. -/
theorem popped_popKeeps (s : State) (srcs : List VSrc) : PopKeeps s.here ((s.popped srcs).ctx s.cur) := by
  rw [State.popped, State.ctx_modCtx_same]
  exact List.foldlRecOn srcs popSrc (motive := PopKeeps s.here) (.refl _) fun c hc x _ => hc.trans (popSrc_popKeeps c x)

@[simp] theorem popped_cur (s : State) (srcs : List VSrc) : (s.popped srcs).cur = s.cur := rfl

/-! ### Sources -/

theorem length_srcVals {c : Ctx} {srcs : List VSrc} {vs : List VReg} (h : srcVals c srcs = .ok vs) : vs.length = srcs.length := by
  induction srcs generalizing vs with
  | nil => cases h; rfl
  | cons x l ih =>
    unfold srcVals at h
    split at h <;> cases h
    next hl => simp [ih hl]

theorem srcVals_one {c : Ctx} {a : VSrc} {vs : List VReg} (h : srcVals c [a] = .ok vs) : ∃ x, vs = [x] :=
  List.length_eq_one_iff.mp (length_srcVals h)
theorem srcVals_two {c : Ctx} {a b : VSrc} {vs : List VReg} (h : srcVals c [a, b] = .ok vs) : ∃ x y, vs = [x, y] :=
  List.length_eq_two.mp (length_srcVals h)
theorem srcVals_three {c : Ctx} {a b d : VSrc} {vs : List VReg} (h : srcVals c [a, b, d] = .ok vs) : ∃ x y z, vs = [x, y, z] :=
  List.length_eq_three.mp (length_srcVals h)

/-- A vector op that executes and whose sources can be read has its effect, with its streams popped (R144). -/
theorem vecOp_runs {s : State} {vb : Bool} {h : OpHdr} {srcs : List VSrc} {f : State → List VReg → State} {vs : List VReg}
    (hrun : LaneRuns s h) (hsrc : srcVals s.here srcs = .ok vs) : vecOp s vb h true srcs f = f (s.popped srcs) vs := by
  rw [vecOp, laneOp_runs hrun]
  simp only [hsrc]
  rfl

/-- A vector result whose bands join lands (R148). -/
theorem landVec_of_vecBands {s u : State} {vb : Bool} {h : OpHdr} {lat : Nat} {d : BitVec 6} {bits : BitVec 2048}
    {mask : BitVec 256} {marks : BitVec 4} {bs : List Band} {band : Band} {nan ovf : Bool} (hk : PopKeeps s.here u.here)
    (hband : bandOf (vecBands s h d bs) = some band) :
    landVec u vb h lat d bits mask marks bs false nan ovf
      = landRegs u (vslot vb) lat (.v d ⟨bits, band, marks⟩ mask :: flagWrites nan ovf) := by
  have hbs : bs ++ guardBand u.here h ++ (if h.g != 0#4 then [(u.here.rV d).band] else []) = vecBands s h d bs := by
    rw [guardBand, vecBands, hk.rV, hk.rP, List.append_assoc]
    by_cases hg : h.g = 0#4 <;> simp [hg]
  simp only [landVec, Bool.false_or, hbs, hband]

/-! ### Lanes -/

theorem packLanes_lt (n : Nat) (l : List Nat) : packLanes n l < 2 ^ (n * l.length) := by
  induction l with
  | nil => simp [packLanes]
  | cons x l ih =>
    rw [packLanes, List.length_cons, Nat.mul_add_one, Nat.add_comm (n * _), Nat.pow_add]
    have hx : x % 2 ^ n < 2 ^ n := Nat.mod_lt _ (Nat.two_pow_pos n)
    calc x % 2 ^ n + 2 ^ n * packLanes n l
        < 2 ^ n + 2 ^ n * packLanes n l := by omega
      _ = 2 ^ n * (packLanes n l + 1) := by rw [Nat.mul_add_one, Nat.add_comm]
      _ ≤ 2 ^ n * 2 ^ (n * l.length) := Nat.mul_le_mul_left _ ih

/-- Element i of packed elements. -/
theorem packLanes_get {n i : Nat} {l : List Nat} (h : i < l.length) : packLanes n l / 2 ^ (n * i) % 2 ^ n = l[i] % 2 ^ n := by
  induction l generalizing i with
  | nil => simp at h
  | cons x l ih =>
    cases i with
    | zero => simp [packLanes]
    | succ i =>
      have hx : x % 2 ^ n / 2 ^ n = 0 := Nat.div_eq_of_lt (Nat.mod_lt _ (Nat.two_pow_pos n))
      rw [packLanes, Nat.mul_add_one, Nat.add_comm (n * i), Nat.pow_add, ← Nat.div_div_eq_div_mul,
        Nat.add_mul_div_left _ _ (Nat.two_pow_pos n), hx, Nat.zero_add]
      exact ih (by simpa using h)

/-- A lane as a part of the register's number. -/
theorem lane_eq (bits : BitVec 2048) (w i : Nat) : lane bits w i = bits.toNat / 2 ^ (8 * w * i) % 2 ^ (8 * w) := by
  rw [lane, BitVec.extractLsb'_toNat, Nat.shiftRight_eq_div_pow]

theorem lane_lt (bits : BitVec 2048) (w i : Nat) : lane bits w i < 2 ^ (8 * w) := (bits.extractLsb' ..).isLt

/-- An active lane of a built register holds its value, as many bits as it has. -/
theorem lane_buildLanes {w i : Nat} {act : List Nat} {f : Nat → Nat} (hi : i < 256 / w) (hact : i ∈ act) :
    lane (buildLanes w act f) w i = f i % 2 ^ (8 * w) := by
  let l := (List.range (256 / w)).map (fun i => if act.contains i then f i else 0)
  have hlen : l.length = 256 / w := by simp [l]
  have hfit : packLanes (8 * w) l < 2 ^ 2048 :=
    Nat.lt_of_lt_of_le (packLanes_lt ..) (Nat.pow_le_pow_right (by decide)
      (by rw [hlen, Nat.mul_assoc]; exact Nat.mul_le_mul_left 8 (Nat.mul_div_le 256 w)))
  have hget : l[i]'(by omega) = f i := by simp [l, hact]
  rw [lane_eq, buildLanes, BitVec.toNat_ofNat, Nat.mod_eq_of_lt hfit, packLanes_get (by omega), hget]

theorem mem_activeLanes {g : PReg} {w i : Nat} : i ∈ activeLanes g w ↔ i < 256 / w ∧ g.bits.getLsbD (w * i) = true := by
  rw [activeLanes, List.mem_filter, List.mem_range]

theorem laneActive_iff {s : State} {h : OpHdr} {w i : Nat} (hi : i < 256 / w) :
    LaneActive s h w i ↔ i ∈ activeLanes (s.here.rP h.g) w := by
  rw [mem_activeLanes, LaneActive]
  exact (and_iff_right hi).symm

theorem vecAct_popped (s : State) (srcs : List VSrc) (h : OpHdr) (w : Nat) :
    vecAct (s.popped srcs) h w = activeLanes (s.here.rP h.g) w := by
  rw [vecAct, popped_cur, (popped_popKeeps s srcs).rP]

/-- A lane-wise op lands its values in the active lanes (R146 to R149). -/
theorem landsLanes_of_vecLane {i : Instr} {vb : Bool} {h : OpHdr} {lat w : Nat} {d : BitVec 6} {srcs : List VSrc}
    {f g : State → List VReg → Nat → Nat} (hexec : ∀ s, exec i s = .next (vecLane s vb h lat w d srcs (g s)))
    (hval : ∀ s vs k, srcVals s.here srcs = .ok vs → g s vs k % 2 ^ (8 * w) = f s vs k % 2 ^ (8 * w)) :
    LandsLanes i vb h lat w d srcs f := by
  intro s vs band hrun hsrc hband
  refine ⟨buildLanes w (activeLanes (s.here.rP h.g) w) (g s vs), fun k hk hact => ?_, ?_⟩
  · rw [lane_buildLanes hk ((laneActive_iff hk).mp hact), hval s vs k hsrc]
  · rw [hexec, vecLane, vecOp_runs hrun hsrc, vecAct_popped, landVec_of_vecBands (popped_popKeeps s srcs) hband]
    rfl

end Sys2Proof.Machine
end

section
/-! SUPPORT. The values of the integer and floating-point vector ops (O9, O10). -/
namespace Sys2Proof.Machine

theorem satInt_eq {x lo hi : Int} (h : lo ≤ hi) : satInt x lo hi = max lo (min x hi) := by
  unfold satInt
  split_ifs <;> omega

theorem satTy_eq (t : ITy) (x : Int) : satTy t x = satTo t x := by
  cases t <;> exact satInt_eq (by decide)

theorem mulhr_eq (t : ITy) (x y : Int) : mulhr t x y = if t.signed
    then satTo t ((x * y + 2 ^ (8 * t.vty.bytes - 2)) / 2 ^ (8 * t.vty.bytes - 1))
    else (x * y + 2 ^ (8 * t.vty.bytes - 1)) / 2 ^ (8 * t.vty.bytes) := by
  rw [← satTy_eq]
  rfl

theorem sshiftRight_toNat (n x c : Nat) : ((BitVec.ofNat n x).sshiftRight c).toNat = (BitVec.ofInt n ((BitVec.ofNat n x).toInt / 2 ^ c)).toNat := by
  rw [BitVec.sshiftRight, Int.shiftRight_eq_div_pow]
  norm_cast

theorem dot4_eq (sa sb : Bool) (a b : BitVec 2048) (j : Nat) : dot4 sa sb a b j
    = ((List.range 4).map (fun k => laneInt sa a 1 (4 * j + k) * laneInt sb b 1 (4 * j + k))).sum :=
  List.sum_eq_foldl.symm

section Ops
variable {i : Instr} {h : OpHdr} {vb : Bool} {lat : Nat} {t : ITy} {d : BitVec 6} {a b : VSrc}

theorem landsLanes_of_vecInt {f : Int → Int → Int} {g : State → List VReg → Nat → Nat}
    (hexec : ∀ s, exec i s = .next (vecInt s vb h lat t d a b f))
    (hval : ∀ s vs k, g s vs k = wrapTo t (f (laneOf t vs 0 k) (laneOf t vs 1 k))) :
    LandsLanes i vb h lat t.vty.bytes d [a, b] g :=
  landsLanes_of_vecLane hexec fun s vs k _ => by rw [hval]; rfl

theorem landsLanes_of_vecBits {f : Nat → Nat → Nat} {g : State → List VReg → Nat → Nat}
    (hexec : ∀ s, exec i s = .next (vecBits s vb h t d a b f))
    (hval : ∀ s vs k, g s vs k = f (rawOf t vs 0 k) (rawOf t vs 1 k)) :
    LandsLanes i vb h 2 t.vty.bytes d [a, b] g :=
  landsLanes_of_vecLane hexec fun s vs k _ => by rw [hval]; rfl

end Ops

/-- Settles O9: each op is the lane-wise op of a function of R153 or R154. -/
theorem vectorIntegerOpsLandTheirLanes : Obligations.VectorIntegerOpsLandTheirLanes := by
  unfold Obligations.VectorIntegerOpsLandTheirLanes
  intro h vb t d a b c y mixb w n
  refine ⟨landsLanes_of_vecInt (fun _ => rfl) fun _ _ _ => rfl, landsLanes_of_vecInt (fun _ => rfl) fun _ _ _ => rfl,
    landsLanes_of_vecInt (fun _ => rfl) fun _ _ _ => rfl, landsLanes_of_vecLane (fun _ => rfl) fun _ _ _ _ => rfl,
    landsLanes_of_vecInt (fun _ => rfl) fun _ _ _ => by rw [satTy_eq], landsLanes_of_vecInt (fun _ => rfl) fun _ _ _ => by rw [satTy_eq],
    landsLanes_of_vecInt (fun _ => rfl) fun _ _ _ => rfl, landsLanes_of_vecInt (fun _ => rfl) fun _ _ _ => rfl,
    landsLanes_of_vecLane (fun _ => rfl) fun _ _ _ _ => rfl,
    landsLanes_of_vecBits (fun _ => rfl) fun _ _ _ => ?_, landsLanes_of_vecBits (fun _ => rfl) fun _ _ _ => ?_,
    landsLanes_of_vecBits (fun _ => rfl) fun _ _ _ => ?_,
    landsLanes_of_vecBits (fun _ => rfl) fun _ _ _ => rfl, landsLanes_of_vecBits (fun _ => rfl) fun _ _ _ => rfl,
    landsLanes_of_vecBits (fun _ => rfl) fun _ _ _ => rfl, landsLanes_of_vecInt (fun _ => rfl) fun _ _ _ => ?_,
    landsLanes_of_vecLane (fun _ => rfl) fun _ _ _ _ => ?_⟩
  · rw [← ite_not]
    simp only [Nat.not_lt, Nat.shiftLeft_eq]
    rfl
  · rw [← ite_not]
    simp only [Nat.not_lt, Nat.shiftRight_eq_div_pow]
    rfl
  · rw [sshiftRight_toNat, Nat.min_comm]
    rfl
  · rw [mulhr_eq, apply_ite (wrapTo t)]
  · rw [dot4_eq]
    rfl

/-! ### Floating point (R150, R155) -/

section Fp
variable {i : Instr} {h : OpHdr} {vb : Bool} {lat : Nat} {t : FTy} {d : BitVec 6} {a b : VSrc} {c : BitVec 6} {r : Rms}
  {f : Rm → List XV → XV} {g : State → List VReg → Nat → Nat}

/-- The values of lane k of the sources. -/
def laneValues (t : FTy) (vs : List VReg) (k : Nat) : List XV := vs.map (fun v => laneXV t.fmt v.bits t.vty.bytes k)

theorem landsLanes_of_vecFp {srcs : List VSrc} (hexec : ∀ s, exec i s = .next (vecFp s vb h lat t d srcs r f))
    (hval : ∀ s vs k, srcVals s.here srcs = .ok vs →
      g s vs k = roundTo t.fmt (rmOf s.here r) (f (rmOf s.here r) (laneValues t vs k))) :
    LandsLanes i vb h lat t.vty.bytes d srcs g :=
  landsLanes_of_vecLane hexec fun s vs k hsrc => by rw [hval s vs k hsrc]; rfl

theorem laneValues_one {s : State} {vs : List VReg} (k : Nat) (hsrc : srcVals s.here [a] = .ok vs) :
    laneValues t vs k = [valueOf t vs 0 k] := by
  obtain ⟨x, rfl⟩ := srcVals_one hsrc
  rfl
theorem laneValues_two {s : State} {vs : List VReg} (k : Nat) (hsrc : srcVals s.here [a, b] = .ok vs) :
    laneValues t vs k = [valueOf t vs 0 k, valueOf t vs 1 k] := by
  obtain ⟨x, y, rfl⟩ := srcVals_two hsrc
  rfl
theorem laneValues_three {s : State} {vs : List VReg} (k : Nat) (hsrc : srcVals s.here [a, b, .v c] = .ok vs) :
    laneValues t vs k = [valueOf t vs 0 k, valueOf t vs 1 k, valueOf t vs 2 k] := by
  obtain ⟨x, y, z, rfl⟩ := srcVals_three hsrc
  rfl

theorem landsLanes_of_vecFp_one {f : Rm → XV → XV}
    (hexec : ∀ s, exec i s = .next (vecFp s vb h lat t d [a] r (fun rm l => f rm (xvAt l 0)))) :
    LandsLanes i vb h lat t.vty.bytes d [a]
      (fun s vs k => roundTo t.fmt (rmOf s.here r) (f (rmOf s.here r) (valueOf t vs 0 k))) :=
  landsLanes_of_vecFp hexec fun s vs k hsrc => by rw [laneValues_one k hsrc]; rfl

theorem landsLanes_of_vecFp_two {f : Rm → XV → XV → XV}
    (hexec : ∀ s, exec i s = .next (vecFp s vb h lat t d [a, b] r (fun rm l => f rm (xvAt l 0) (xvAt l 1)))) :
    LandsLanes i vb h lat t.vty.bytes d [a, b]
      (fun s vs k => roundTo t.fmt (rmOf s.here r) (f (rmOf s.here r) (valueOf t vs 0 k) (valueOf t vs 1 k))) :=
  landsLanes_of_vecFp hexec fun s vs k hsrc => by rw [laneValues_two k hsrc]; rfl

end Fp

/-- Settles O10: each op rounds one exact function of the values of a lane. -/
theorem vectorFloatOpsLandTheirLanes : Obligations.VectorFloatOpsLandTheirLanes := by
  unfold Obligations.VectorFloatOpsLandTheirLanes
  intro h vb t d a b c r w rnd
  exact ⟨landsLanes_of_vecFp_two (f := fun rm x y => sumXV rm [x, y]) fun _ => rfl,
    landsLanes_of_vecFp_two (f := fun rm x y => sumXV rm [x, y.negate]) fun _ => rfl,
    landsLanes_of_vecFp_two (f := fun _ => mulXV) fun _ => rfl,
    landsLanes_of_vecFp (fun _ => rfl) fun s vs k hsrc => by rw [laneValues_three k hsrc]; rfl,
    landsLanes_of_vecFp_two (f := fun _ => fpMin) fun _ => rfl, landsLanes_of_vecFp_two (f := fun _ => fpMax) fun _ => rfl,
    landsLanes_of_vecFp_one (f := fun _ => XV.abs) fun _ => rfl, landsLanes_of_vecFp_one (f := fun _ => XV.negate) fun _ => rfl,
    landsLanes_of_vecFp_one (f := fun _ => rcpXV) fun _ => rfl, landsLanes_of_vecFp_one (f := fun _ => rsqrtXV) fun _ => rfl,
    landsLanes_of_vecFp_one (f := fun _ => exp2XV) fun _ => rfl, landsLanes_of_vecFp_one (f := fun _ => log2XV) fun _ => rfl⟩

end Sys2Proof.Machine
end

section
/-! SUPPORT. Vector ops that move elements (R163), and the join of bands in another order (O11). -/
namespace Sys2Proof.Machine

/-! ### The join of bands (R373) -/

theorem bandTenant_bandJoin (a b : Band) : bandTenant (bandJoin a b) = if bandTenant a = 0 then bandTenant b else bandTenant a := by
  have hx : (if bandTenant a = 0 then bandTenant b else bandTenant a) < 16 := by
    split
    · exact Nat.div_lt_of_lt_mul b.isLt
    · exact Nat.div_lt_of_lt_mul a.isLt
  simp only [bandJoin, mkBand, bandLevel]
  generalize (if bandTenant a = 0 then bandTenant b else bandTenant a) = x at hx ⊢
  rw [bandTenant, BitVec.toNat_ofNat]
  omega

theorem bandLevel_bandJoin (a b : Band) : bandLevel (bandJoin a b) = max (bandLevel a) (bandLevel b) := by
  simp only [bandJoin, mkBand, bandLevel, BitVec.toNat_ofNat]
  omega

/-- A third band joins two others in either order, unless they conflict. -/
theorem bandJoin_right_comm {a b c : Band} (h : bandConflict b c = false) :
    bandJoin (bandJoin a b) c = bandJoin (bandJoin a c) b := by
  have htenant : bandTenant b = 0 ∨ bandTenant c = 0 ∨ bandTenant b = bandTenant c := by
    simpa [bandConflict, or_iff_not_imp_left] using h
  have hjoin (x y : Band) : bandJoin x y
      = mkBand (if bandTenant x = 0 then bandTenant y else bandTenant x) (max (bandLevel x) (bandLevel y)) := rfl
  rw [hjoin, hjoin (bandJoin a c), bandTenant_bandJoin, bandTenant_bandJoin, bandLevel_bandJoin, bandLevel_bandJoin]
  congr 1
  · split_ifs <;> omega
  · omega

/-- Of three bands two conflict, in whatever order the last two join. -/
theorem bandConflict_right_comm (a b c : Band) :
    (bandConflict a b || bandConflict (bandJoin a b) c) = (bandConflict a c || bandConflict (bandJoin a c) b) := by
  simp only [bandConflict, bandTenant_bandJoin]
  grind

theorem bandConflict_of_joins {a b c : Band} (h : (bandConflict a b || bandConflict (bandJoin a b) c) = false) :
    bandConflict b c = false := by
  simp only [bandConflict, bandTenant_bandJoin] at h ⊢
  grind

/-- The order of two bands matters neither for a conflict nor for the join. -/
theorem bandOf_swap (a b c : Band) : bandOf [a, b, c] = bandOf [a, c, b] := by
  have hbad := bandConflict_right_comm (bandJoin 0#8 a) b c
  simp only [bandOf, bandJoins, Bool.or_assoc, ← hbad]
  cases hc : bandConflict (bandJoin 0#8 a) b || bandConflict (bandJoin (bandJoin 0#8 a) b) c with
  | false => rw [bandJoin_right_comm (bandConflict_of_joins hc)]
  | true => simp

/-! ### Moved elements -/

/-- The element that a pick names. -/
def pickedLane (t : VTy) (vs : List VReg) : Option (Nat × Nat) → Nat
  | some (k, j) => elOf t vs k j
  | none => 0
/-- The mark of its granule. -/
def pickedMark (t : VTy) (vs : List VReg) : Option (Nat × Nat) → Bool
  | some (k, j) => markOf t vs k j
  | none => false

section Moves
variable {i : Instr} {h : OpHdr} {vb : Bool} {lat w : Nat} {t : VTy} {d : BitVec 6} {srcs : List VSrc}

/-- An op that lands a value and a mark for each active lane, computed from the state before it and the state with its streams
popped (R146 to R149). -/
theorem landsMoved_of_vecOp {bs bs' : List VReg → List Band} {f : State → List VReg → Nat → Nat} {p : State → List VReg → Nat → Bool}
    {val : State → State → List VReg → Nat → Nat} {mark : State → State → List VReg → Nat → Bool}
    (hexec : ∀ s, exec i s = .next (vecOp s vb h true srcs (fun u vs =>
      landVec u vb h lat d (buildLanes w (vecAct u h w) (val s u vs)) (lanesMask w (vecAct u h w))
        (lanesGranules w ((vecAct u h w).filter (mark s u vs))) (bs' vs) false false false)))
    (hbs : ∀ (s : State) vs, srcVals s.here srcs = .ok vs → bs' vs = bs vs)
    (hval : ∀ s vs, srcVals s.here srcs = .ok vs → ∀ k ∈ activeLanes (s.here.rP h.g) w,
      val s (s.popped srcs) vs k % 2 ^ (8 * w) = f s vs k % 2 ^ (8 * w))
    (hmark : ∀ s vs, srcVals s.here srcs = .ok vs → ∀ k ∈ activeLanes (s.here.rP h.g) w,
      mark s (s.popped srcs) vs k = p s vs k) :
    LandsMoved i vb h lat w d srcs bs f p := by
  intro s vs band hrun hsrc hband
  refine ⟨buildLanes w (activeLanes (s.here.rP h.g) w) (val s (s.popped srcs) vs), _, fun k hk hact => ?_, rfl, ?_⟩
  · have hmem := (laneActive_iff hk).mp hact
    rw [lane_buildLanes hk hmem, hval s vs hsrc k hmem]
  · rw [hexec, vecOp_runs hrun hsrc, vecAct_popped, hbs s vs hsrc, landVec_of_vecBands (popped_popKeeps s srcs) hband,
      List.filter_congr (hmark s vs hsrc)]
    rfl

/-- A permute lands the elements that its pick names (R149, R163). -/
theorem landsMoved_of_vecPick {ok idx : Bool} {pick : List VReg → Pick} {f : State → List VReg → Nat → Nat}
    {p : State → List VReg → Nat → Bool} (hexec : ∀ s, exec i s = .next (vecPick s vb h ok t d srcs idx pick))
    (hok : ok = true) (hval : ∀ s vs k, pickedLane t vs (pick vs k) = f s vs k)
    (hmark : ∀ s vs k, (pickedMark t vs (pick vs k) || idx && markOf t vs 1 k) = p s vs k) :
    LandsMoved i vb h 3 t.bytes d srcs (fun vs => vs.map (·.band)) f p := by
  subst hok
  exact landsMoved_of_vecOp (val := fun _ _ vs k => pickedLane t vs (pick vs k))
    (mark := fun _ _ vs k => pickedMark t vs (pick vs k) || idx && markOf t vs 1 k) hexec
    (fun _ _ _ => rfl) (fun s vs _ k _ => by rw [hval s]) fun s vs _ k _ => hmark s vs k

end Moves

section Scalars
variable {s : State} {h : OpHdr} {vb : Bool} {t : VTy} {d a : BitVec 6} {k : BitVec 8} {band : Band}

/-- The lanes of `vsplat` and `vins`: the low bits of the scalar. -/
def splatBits (s : State) (t : VTy) (a : BitVec 6) (act : List Nat) : BitVec 2048 :=
  buildLanes t.bytes act (fun _ => lowBits (s.here.rS a).val t.bytes)

theorem lane_splatBits {act : List Nat} {i : Nat} (hi : i < 256 / t.bytes) (hact : i ∈ act) :
    lane (splatBits s t a act) t.bytes i = (s.here.rS a).val.toNat % 2 ^ (8 * t.bytes) := by
  rw [splatBits, lane_buildLanes hi hact, lowBits, Nat.mod_mod]

/-- `vsplat` writes the scalar to the active lanes (R149, R163). -/
theorem exec_vsplat (hrun : LaneRuns s h) (hband : bandOf (vecBands s h d [(s.here.rS a).band]) = some band) :
    exec (.vsplat h vb t d a) s = .next (landRegs (s.popped []) (vslot vb) 3
      [.v d ⟨splatBits s t a (activeLanes (s.here.rP h.g) t.bytes), band,
          if (s.here.rS a).poison then lanesGranules t.bytes (activeLanes (s.here.rP h.g) t.bytes) else 0#4⟩
        (lanesMask t.bytes (activeLanes (s.here.rP h.g) t.bytes))]) := by
  have hk := popped_popKeeps s []
  change execVsplat h vb t d a s = _
  rw [execVsplat, vecOp_runs hrun rfl]
  dsimp only
  rw [popped_cur, hk.rS, vecAct_popped, landVec_of_vecBands hk hband]
  rfl

/-- The active lanes that `vins` writes: its own, if that is active. -/
theorem insLanes {g : PReg} {w k : Nat} (hk : k < 256 / w) :
    (activeLanes g w).filter (· == k) = if g.bits.getLsbD (w * k) then [k] else [] := by
  have hlane : (List.range (256 / w)).filter (· == k) = [k] := by
    rw [List.filter_beq, List.count_eq_one_of_mem List.nodup_range (List.mem_range.mpr hk), List.replicate_one]
  rw [activeLanes, List.filter_comm, hlane, List.filter_singleton, Bool.cond_eq_ite]

/-- `vins` with its lane active writes that lane alone; with it inactive it writes nothing (R148, R163). -/
theorem exec_vins (hrun : LaneRuns s h) (hk : k.toNat < 256 / t.bytes)
    (hband : bandOf ([(s.here.rS a).band, (s.here.rV d).band] ++ if h.g = 0#4 then [] else [(s.here.rP h.g).band]) = some band) :
    exec (.vins h vb t d a k) s = .next (if (s.here.rP h.g).bits.getLsbD (t.bytes * k.toNat)
      then landRegs (s.popped []) (vslot vb) 3 [.v d ⟨splatBits s t a [k.toNat], band,
        if (s.here.rS a).poison then lanesGranules t.bytes [k.toNat] else 0#4⟩ (lanesMask t.bytes [k.toNat])]
      else s.popped []) := by
  have hpop := popped_popKeeps s []
  change execVins h vb t d a k s = _
  rw [execVins, VTy.lanes, decide_eq_true hk, vecOp_runs hrun rfl]
  dsimp only
  rw [popped_cur, hpop.rS, hpop.rV, hpop.rP, insLanes hk, guardBand, hpop.rP]
  split
  · rw [landVec, guardBand, popped_cur, hpop.rV, hpop.rP]
    have hkeep : bandOf ([(s.here.rS a).band] ++ (if h.g = 0#4 then [] else [(s.here.rP h.g).band]) ++ [(s.here.rV d).band])
        = some band := by
      rw [← hband]
      by_cases hg : h.g = 0#4
      · simp [hg]
      · rw [if_neg hg]
        exact bandOf_swap ..
    simp only [List.isEmpty_cons, Bool.false_and, Bool.true_or, if_true, hkeep]
    rfl
  · rw [hband]
    rfl

end Scalars

/-- Settles O11: each permute is the pick of R163, and `vsplat` and `vins` build their lanes from one scalar. -/
theorem vectorMovesLandTheirLanes : Obligations.VectorMovesLandTheirLanes := by
  unfold Obligations.VectorMovesLandTheirLanes
  intro h vb t d a b c sa k f w n bands
  refine ⟨landsMoved_of_vecPick (fun _ => rfl) rfl (fun s vs i => ?_) fun s vs i => ?_,
    fun hw => landsMoved_of_vecPick (fun _ => rfl) (bne_iff_ne.mpr hw) (fun s vs i => ?_) fun s vs i => ?_,
    fun hk => landsMoved_of_vecPick (fun _ => rfl) (decide_eq_true hk) (fun s vs i => rfl) fun s vs i => ?_,
    fun hk => landsMoved_of_vecPick (fun _ => rfl) (decide_eq_true hk) (fun s vs i => ?_) fun s vs i => ?_,
    landsMoved_of_vecPick (fun _ => rfl) rfl (fun s vs i => rfl) fun s vs i => ?_,
    landsMoved_of_vecPick (fun _ => rfl) rfl (fun s vs i => ?_) fun s vs i => ?_,
    landsMoved_of_vecPick (fun _ => rfl) rfl (fun s vs i => rfl) fun s vs i => ?_,
    fun s band hrun => ⟨fun hband => ?_, fun hk hband => ⟨fun hact => ?_, fun hact => ?_⟩⟩⟩
  · change pickedLane t vs (if elOf t vs 1 i < n then some (0, elOf t vs 1 i) else none) = _
    split <;> rfl
  · change (pickedMark t vs (if elOf t vs 1 i < n then some (0, elOf t vs 1 i) else none) || markOf t vs 1 i) = _
    split <;> simp [pickedMark, *]
  · change pickedLane t vs (if elOf t vs 1 i < n then some (0, elOf t vs 1 i)
      else if decide (elOf t vs 1 i < 2 * n) then some (2, elOf t vs 1 i - n) else none) = _
    simp only [decide_eq_true_eq]
    split_ifs <;> rfl
  · change (pickedMark t vs (if elOf t vs 1 i < n then some (0, elOf t vs 1 i)
      else if decide (elOf t vs 1 i < 2 * n) then some (2, elOf t vs 1 i - n) else none) || markOf t vs 1 i) = _
    simp only [decide_eq_true_eq]
    split_ifs with h1 h2
    · simp [pickedMark, h1, Nat.not_le.mpr h1]
    · simp [pickedMark, h1, h2, Nat.not_lt.mp h1]
    · simp [pickedMark, h1, h2]
  · simp [pickedMark]
  · exact apply_ite (pickedLane t vs) ..
  · exact (Bool.or_false _).trans (apply_ite (pickedMark t vs) ..)
  · exact Bool.or_false _
  · cases f <;> exact apply_ite (pickedLane t vs) ..
  · cases f <;> exact (Bool.or_false _).trans (apply_ite (pickedMark t vs) ..)
  · exact Bool.or_false _
  · exact ⟨_, fun i hi hact => lane_splatBits hi ((laneActive_iff hi).mp hact), exec_vsplat hrun hband⟩
  · exact ⟨_, lane_splatBits hk (List.mem_singleton_self _), (exec_vins hrun hk hband).trans (congrArg _ (if_pos hact))⟩
  · exact (exec_vins hrun hk hband).trans (congrArg _ (if_neg hact))

end Sys2Proof.Machine
end

section
/-! SUPPORT. Selects, compares, reductions and `vext` (O12). -/
namespace Sys2Proof.Machine

/-! ### Masks and granules of lanes -/

theorem bytes_pos (t : VTy) : 0 < t.bytes := by cases t <;> decide
theorem bytes_dvd (t : VTy) : t.bytes ∣ 256 := by cases t <;> decide

/-- Bit k of the mask of one lane. -/
theorem getLsbD_laneMask {w : Nat} (hw : 0 < w) (i k : Nat) :
    (BitVec.ofNat 256 (2 ^ w - 1) <<< (w * i)).getLsbD k = true ↔ k < 256 ∧ k / w = i := by
  have hlane : k / w = i ↔ w * i ≤ k ∧ k - w * i < w := by
    rw [Nat.div_eq_iff hw, Nat.mul_comm]
    omega
  simp only [hlane, BitVec.getLsbD_shiftLeft, BitVec.getLsbD_ofNat, Nat.testBit_two_pow_sub_one, Bool.and_eq_true,
    Bool.not_eq_true', decide_eq_true_eq, decide_eq_false_iff_not]
  omega

/-- Bit k of a mask of lanes stands for a byte of a listed lane. -/
theorem getLsbD_lanesMask {w : Nat} (hw : 0 < w) (l : List Nat) (k : Nat) :
    (lanesMask w l).getLsbD k = true ↔ k < 256 ∧ k / w ∈ l := by
  have hfold (acc : BitVec 256) : (l.foldl (fun a i => a ||| (BitVec.ofNat 256 (2 ^ w - 1) <<< (w * i))) acc).getLsbD k = true ↔
      acc.getLsbD k = true ∨ k < 256 ∧ k / w ∈ l := by
    induction l generalizing acc with
    | nil => simp
    | cons i l ih =>
      rw [List.foldl_cons, ih, BitVec.getLsbD_or, Bool.or_eq_true, getLsbD_laneMask hw, List.mem_cons, and_or_left, or_assoc]
  rw [lanesMask, hfold]
  simp

theorem getLsbD_quarterMask (f : Nat → Bool) {q : Nat} (hq : q < 4) : (quarterMask f).getLsbD q = f q := by
  interval_cases q <;> simp [-BitVec.getLsbD_eq_getElem, quarterMask, getLsbD_append_parts]

/-- A register's marks meet the granules of some lanes when one of these lanes is marked. -/
theorem marks_meet_lanes {w : Nat} {p : BitVec 4} {l : List Nat} (hl : ∀ j ∈ l, w * j < 256) :
    (p &&& lanesGranules w l != 0#4) = l.any (fun j => p.getLsbD (w * j / 64)) := by
  have hbit {q : Nat} (hq : q < 4) : (p &&& lanesGranules w l).getLsbD q = (p.getLsbD q && l.any (fun j => w * j / 64 == q)) := by
    rw [BitVec.getLsbD_and, lanesGranules, getLsbD_quarterMask _ hq]
  rw [Bool.eq_iff_iff, bne_iff_ne]
  constructor
  · refine fun h => by_contra fun hnone => h (BitVec.eq_of_getLsbD_eq fun q hq => ?_)
    rw [hbit hq]
    simp only [List.any_eq_true, not_exists, not_and] at hnone
    simp only [BitVec.getLsbD_zero, Bool.and_eq_false_iff, List.any_eq_false, beq_iff_eq]
    exact or_iff_not_imp_left.mpr fun hp j hj hjq => hnone j hj (hjq ▸ Bool.not_eq_false _ ▸ hp)
  · intro h
    obtain ⟨j, hj, hp⟩ := List.any_eq_true.mp h
    have hjl := hl j hj
    intro hz
    have := hbit (q := w * j / 64) (by omega)
    rw [hz, hp, Bool.true_and, BitVec.getLsbD_zero] at this
    exact (List.any_eq_false.mp this.symm) j hj (beq_self_eq_true _)

/-! ### Compares (R156) -/

theorem condHolds_iff {cond : BitVec 3} {b : Bool} {un : Prop} {o : Ordering} (hb : b = true ↔ un) :
    condHolds cond b o = true ↔ condOf cond un o := by
  unfold condOf
  simp only [← hb]
  cases b <;> cases o <;> revert cond <;> decide

section Ops
variable {i : Instr} {h : OpHdr} {vb ok : Bool} {lat w : Nat} {a b : VSrc}

/-- A compare lands its condition in the active lanes (R146, R148, R149, R156). -/
theorem landsCompare_of_vecCmp {t : VTy} {d : BitVec 4} {f : List VReg → Nat → Bool} {holds : List VReg → Nat → Prop}
    (hexec : ∀ s, exec i s = .next (vecCmp s vb h ok lat t.bytes d a b f)) (hok : ok = true)
    (hf : ∀ vs k, f vs k = true ↔ holds vs k) : LandsCompare i vb h lat t.bytes d a b holds := by
  subst hok
  intro s vs band hrun hd hsrc hband
  have hk := popped_popKeeps s [a, b]
  refine ⟨lanesMask t.bytes ((activeLanes (s.here.rP h.g) t.bytes).filter (f vs)), fun k hk256 => ?_, ?_⟩
  · have hlane : k / t.bytes < 256 / t.bytes := Nat.div_lt_div_of_lt_of_dvd (bytes_dvd t) hk256
    rw [getLsbD_lanesMask (bytes_pos t), List.mem_filter, hf, laneActive_iff hlane]
    exact and_iff_right hk256
  · have hbands : bandOf (vs.map (·.band) ++ (if h.g = 0#4 then [] else [(s.here.rP h.g).band])
        ++ (if h.g = 0#4 then [] else [(s.here.rP d).band])) = some band := by
      rw [← hband]
      by_cases hg : h.g = 0#4 <;> simp [hg]
    rw [hexec, vecCmp, Bool.true_and, bne_iff_ne.mpr hd, vecOp_runs hrun hsrc]
    dsimp only
    rw [vecAct_popped, popped_cur, guardBand, hk.rP, hk.rP]
    simp only [hbands]

end Ops

/-! ### Reductions (R162) -/

section Reduce
variable {i : Instr} {h : OpHdr} {vb : Bool} {t : VTy} {d : BitVec 6} {a : VSrc} {lseg : BitVec 4}

/-- A segment that fits a register has at most its lanes, as powers of two. -/
theorem lseg_le {lseg : BitVec 4} (hseg : 2 ^ lseg.toNat ≤ 256 / t.bytes) : lseg.toNat ≤ t.logLanes := by
  have hlanes : 256 / t.bytes = 2 ^ t.logLanes := by cases t <;> rfl
  rw [hlanes] at hseg
  exact (Nat.pow_le_pow_iff_right (by decide)).mp hseg

theorem seg_dvd {lseg : BitVec 4} (hseg : 2 ^ lseg.toNat ≤ 256 / t.bytes) : 2 ^ lseg.toNat ∣ 256 / t.bytes := by
  have hlanes : 256 / t.bytes = 2 ^ t.logLanes := by cases t <;> rfl
  rw [hlanes]
  exact pow_dvd_pow 2 (lseg_le hseg)

/-- The active lanes of the segment of a lane. -/
theorem filter_activeLanes_seg (s : State) (h : OpHdr) (w : Nat) (lseg : BitVec 4) (k : Nat) :
    (activeLanes (s.here.rP h.g) w).filter (fun j => j / 2 ^ lseg.toNat == k / 2 ^ lseg.toNat) = segOf s h w lseg k := by
  rw [activeLanes, List.filter_filter, segOf]
  exact List.filter_congr fun j _ => Bool.and_comm ..

/-- A reduction lands its function of each segment's active lanes (R149, R162). -/
theorem landsReduced_of_vecReduce {f g : State → BitVec 2048 → List Nat → Nat}
    (hexec : ∀ s, exec i s = .next (vecReduce s vb h t d a lseg (g s))) (hval : ∀ s bits l, g s bits l = f s bits l) :
    LandsReduced i vb h t d a lseg f := by
  obtain rfl : g = f := funext fun s => funext fun bits => funext fun l => hval s bits l
  intro hseg
  refine landsMoved_of_vecOp (w := t.bytes) (bs' := fun vs => [(vs.getD 0 zeroVReg).band])
    (val := fun s u vs k => ((List.range (256 / t.bytes / 2 ^ lseg.toNat)).map (fun x =>
      let l := (vecAct u h t.bytes).filter (fun j => j / 2 ^ lseg.toNat == x)
      (if l.isEmpty then 0 else g s (srcBits vs 0) l))).getD (k / 2 ^ lseg.toNat) 0)
    (mark := fun _ u vs k => ((vs.getD 0 zeroVReg).poison &&& lanesGranules t.bytes
      ((vecAct u h t.bytes).filter (fun j => j / 2 ^ lseg.toNat == k / 2 ^ lseg.toNat))) != 0#4)
    (fun s => ?_) (fun s vs hsrc => ?_) (fun s vs hsrc k hk => ?_) fun s vs hsrc k hk => ?_
  · rw [hexec, vecReduce, decide_eq_true (lseg_le hseg)]
    rfl
  · obtain ⟨x, rfl⟩ := srcVals_one hsrc
    rfl
  · have hlane : k / 2 ^ lseg.toNat < 256 / t.bytes / 2 ^ lseg.toNat :=
      Nat.div_lt_div_of_lt_of_dvd (seg_dvd hseg) (mem_activeLanes.mp hk).1
    have hne : (segOf s h t.bytes lseg k).isEmpty = false := by
      rw [← filter_activeLanes_seg, List.isEmpty_eq_false_iff_exists_mem]
      exact ⟨k, List.mem_filter.mpr ⟨hk, beq_self_eq_true _⟩⟩
    rw [List.getD_eq_getElem?_getD, List.getElem?_map, List.getElem?_range hlane, vecAct_popped]
    simp only [Option.map_some, Option.getD_some, filter_activeLanes_seg, hne]
    rfl
  · rw [vecAct_popped, filter_activeLanes_seg, marks_meet_lanes]
    intro j hj
    rw [← filter_activeLanes_seg] at hj
    have hj' := (mem_activeLanes.mp (List.mem_filter.mp hj).1).1
    exact (Nat.lt_div_iff_mul_lt' (bytes_dvd t) j).mp hj'

theorem segInts_sum (bits : BitVec 2048) (l : List Nat) :
    (segInts t bits l).foldl (· + ·) 0 = (l.map (laneInt t.signed bits t.bytes)).sum := List.sum_eq_foldl.symm

/-- Sat(|x|) of a lane (R162). -/
theorem satInt_natAbs_lane (t : VTy) (bits : BitVec 2048) (j : Nat) :
    satInt ((laneInt t.signed bits t.bytes j).natAbs : Int) (intRange t.signed (8 * t.bytes)).1 (intRange t.signed (8 * t.bytes)).2
      = if t.signed then min ((laneInt t.signed bits t.bytes j).natAbs : Int) (2 ^ (8 * t.bytes - 1) - 1)
        else laneInt t.signed bits t.bytes j := by
  have hlane := lane_lt bits t.bytes j
  have hpow : (2 : Int) ^ (8 * t.bytes - 1) = ((2 ^ (8 * t.bytes - 1) : Nat) : Int) := by push_cast; rfl
  have hpos : 0 < 2 ^ (8 * t.bytes - 1) := by positivity
  cases hs : t.signed
  · simp only [satInt, intRange, laneInt, Bool.false_and, Bool.false_eq_true, if_false, Int.natAbs_natCast]
    rw [if_neg (by omega), if_neg (by omega)]
  · simp only [satInt, intRange, if_true, hpow]
    generalize (laneInt true bits t.bytes j).natAbs = n
    rw [if_neg (by omega)]
    split <;> omega

end Reduce

/-- `vext` with its lane active lands the element; with it inactive it writes nothing (R149, R163). -/
theorem exec_vext {s : State} {h : OpHdr} {vb : Bool} {t : VTy} {d : BitVec 6} {a : VSrc} {k : BitVec 8} {vs : List VReg} {band : Band}
    (hrun : LaneRuns s h) (hk : k.toNat < 256 / t.bytes) (hsrc : srcVals s.here [a] = .ok vs)
    (hband : bandOf (vs.map (·.band) ++ if h.g = 0#4 then [] else [(s.here.rP h.g).band, (s.here.rS d).band]) = some band) :
    exec (.vext h vb t d a k) s = .next (if (s.here.rP h.g).bits.getLsbD (t.bytes * k.toNat)
      then landRegs (s.popped [a]) (vslot vb) 3 [.s d ⟨BitVec.ofInt 64 (laneInt t.signed (srcBits vs 0) t.bytes k.toNat), band,
        (vs.getD 0 zeroVReg).poison.getLsbD (t.bytes * k.toNat / 64)⟩]
      else s.popped [a]) := by
  obtain ⟨x, rfl⟩ := srcVals_one hsrc
  have hpop := popped_popKeeps s [a]
  have hbands : bandOf ([x.band] ++ (if h.g = 0#4 then [] else [(s.here.rP h.g).band])
      ++ (if h.g = 0#4 then [] else [(s.here.rS d).band])) = some band := by
    rw [← hband]
    by_cases hg : h.g = 0#4 <;> simp [hg]
  change execVext h vb t d a k s = _
  rw [execVext, VTy.lanes, decide_eq_true hk, vecOp_runs hrun hsrc]
  dsimp only
  rw [popped_cur, guardBand, hpop.rS, hpop.rP]
  simp only [List.getD_cons_zero, hbands]
  rfl

/-- `vsel` lands the lane of the source that bit w x i of its predicate selects (R147, R153). -/
theorem exec_vsel {s : State} {h : OpHdr} {vb : Bool} {t : VTy} {d : BitVec 6} {a b : VSrc} {c : BitVec 4} {vs : List VReg} {band : Band}
    (hrun : LaneRuns s h) (hsrc : srcVals s.here [a, b] = .ok vs) (hc : (s.here.rP c).poison = false)
    (hband : bandOf (vecBands s h d (vs.map (·.band) ++ [(s.here.rP c).band])) = some band) :
    ∃ marks : BitVec 4, exec (.vsel h vb t d a b c) s = .next (landRegs (s.popped [a, b]) (vslot vb) 2
      [.v d ⟨buildLanes t.bytes (activeLanes (s.here.rP h.g) t.bytes) (fun i =>
        if (s.here.rP c).bits.getLsbD (t.bytes * i) then lane (srcBits vs 0) t.bytes i else lane (srcBits vs 1) t.bytes i), band, marks⟩
        (lanesMask t.bytes (activeLanes (s.here.rP h.g) t.bytes))]) := by
  have hpop := popped_popKeeps s [a, b]
  refine ⟨((vs.getD 0 zeroVReg).poison &&& lanesGranules t.bytes ((activeLanes (s.here.rP h.g) t.bytes).filter
      (fun i => (s.here.rP c).bits.getLsbD (t.bytes * i))))
    ||| ((vs.getD 1 zeroVReg).poison &&& lanesGranules t.bytes ((activeLanes (s.here.rP h.g) t.bytes).filter
      (fun i => !(s.here.rP c).bits.getLsbD (t.bytes * i)))), ?_⟩
  change execVsel h vb t d a b c s = _
  rw [execVsel, vecOp_runs hrun hsrc]
  dsimp only
  rw [popped_cur, hpop.rP, vecAct_popped, if_neg (by simp [hc]), landVec_of_vecBands hpop hband]
  rfl

/-- Settles O12: each compare is `vecCmp` of its condition and each reduction `vecReduce` of its function (R156, R162). -/
theorem vectorSelectsComparesAndReductionsLand : Obligations.VectorSelectsComparesAndReductionsLand := by
  unfold Obligations.VectorSelectsComparesAndReductionsLand
  intro h vb t it ft d sd pd c a b cond lseg r k w num val
  refine ⟨fun s vs band hrun hsrc hc hband => ?_, fun hcond => ?_, ?_, fun hr => ?_, ?_, ?_, ?_,
    fun s vs band hrun hk hsrc hband => ⟨fun hact => ?_, fun hact => ?_⟩⟩
  · obtain ⟨marks, hexec⟩ := exec_vsel (t := t) (vb := vb) hrun hsrc hc hband
    refine ⟨_, marks, fun i hi hact => ?_, hexec⟩
    rw [lane_buildLanes hi ((laneActive_iff hi).mp hact)]
    split <;> exact Nat.mod_eq_of_lt (lane_lt ..)
  · exact landsCompare_of_vecCmp (fun _ => rfl) (decide_eq_true hcond) fun vs k => condHolds_iff (by simp)
  · exact landsCompare_of_vecCmp (fun _ => rfl) rfl fun vs k => condHolds_iff (by rw [Bool.or_eq_true]; rfl)
  · refine landsReduced_of_vecReduce (g := fun s bits l => if t.isFp then roundTo t.fmt (rmOf s.here r) (sumXV (rmOf s.here r)
      (segXVs t bits l)) else wrapInt (8 * t.bytes) ((segInts t bits l).foldl (· + ·) 0)) (fun s => ?_) fun s bits l => ?_
    · change execVrsum h vb t d a lseg r s = _
      rw [execVrsum, show (r == .fmt || t.isFp) = true by simpa using hr]
      rfl
    · rw [segInts_sum]
      rfl
  · exact landsReduced_of_vecReduce (fun _ => rfl) fun _ _ _ => rfl
  · refine landsReduced_of_vecReduce (fun _ => rfl) fun s bits l => ?_
    simp only [segInts, segXVs, List.map_map, Function.comp_def, satInt_natAbs_lane]
    rfl
  · exact landsReduced_of_vecReduce (fun _ => rfl) fun _ _ _ => rfl
  · exact (exec_vext hrun hk hsrc hband).trans (congrArg _ (if_pos hact))
  · exact (exec_vext hrun hk hsrc hband).trans (congrArg _ (if_neg hact))

end Sys2Proof.Machine
end

section
/-! SUPPORT. What an issuing group changes, and what squashes an op (O56, O57): the concrete states that refute the two. -/
namespace Sys2Proof.Machine
open Sys2Proof.Tests

/-- The device whose stream q0 has a vector ready that raised CVNAN while it was read. -/
def nanStreamState : State := dev { cx with regs := { cx.regs with
  streams := vset cx.regs.streams 0#3 ⟨true, 0#512, 0, 0, some ⟨zeroVReg, true, false, none, 0#2⟩, none⟩ } }

/-- The state after `vmov` of q0 to v2. -/
def nanPoppedState : State := vecPick nanStreamState false hd true .i8 2#6 [.q 0#3] false (fun _ i => some (0, i))

/-- The pop sets CVNAN while the group issues. -/
theorem fmt_nanPoppedState : (nanPoppedState.ctx 0#9).regs.fmt ≠ (nanStreamState.ctx 0#9).regs.fmt := by
  decide +kernel

/-- Refutes O57: the pop of a stream's vector that raised CVNAN sets that flag of FMT while the group issues. -/
theorem not_issuingOpsChangeNoRegister : ¬ Obligations.IssuingOpsChangeNoRegister := by
  unfold Obligations.IssuingOpsChangeNoRegister
  intro h
  obtain ⟨-, -, -, hregs, -⟩ := h nanStreamState nanPoppedState (.vmov hd false .i8 2#6 (.q 0#3)) rfl rfl rfl
  obtain ⟨-, -, -, -, hfmt, -⟩ := hregs 0#9
  exact fmt_nanPoppedState hfmt

/-- The device whose group issued outside a nest, with every SP 1, and whose `lgo` has since opened one, in whose first execution
SP1 alone is 1 (R134, R135). -/
def stageOffSinceState : State :=
  { dev { cx with regs := { cx.regs with loop := { cx.regs.loop with sp := 1#7 } } } with issue := some (iss cx) }

/-- `li s3, 0` in stage 2. -/
def stagedLi : Instr := .li ⟨false, false, 2#3, 0#4⟩ 3#6 0#32

/-- Refutes O56: an op reads the stage predicates as they stood when its group issued, so that one which SP2 = 0 of the registers
squashes by the statement executes. -/
theorem not_stagesAndGuardsDecideWhatExecutes : ¬ Obligations.StagesAndGuardsDecideWhatExecutes := by
  unfold Obligations.StagesAndGuardsDecideWhatExecutes
  intro h
  obtain ⟨w, hw⟩ := Option.isSome_iff_exists.mp ((isSome_encodeOp stagedLi).trans rfl)
  obtain ⟨hoff, -⟩ := h stageOffSinceState stagedLi _ w rfl hw rfl
  have hsame := (hoff (.inl (by decide +kernel))).1 (by decide +kernel)
  have hpend : ∀ t, exec stagedLi stageOffSinceState = .next t → (t.ctx 0#9).pend.length = 1 := by
    rintro t ⟨⟩
    decide +kernel
  exact absurd (hpend _ hsame) (by decide +kernel)

end Sys2Proof.Machine
end

section
/-! SUPPORT. The words that the examples of the specification write out (O54). -/
namespace Sys2Proof.Machine

/-- Settles O54: the decoder evaluated on each word. -/
theorem wordsOfTheSpecDecode : Obligations.WordsOfTheSpecDecode := by
  unfold Obligations.WordsOfTheSpecDecode
  decide +kernel

end Sys2Proof.Machine
end

section
/-! SUPPORT. A step runs what stands next (O53): the front ends through a cycle, and the entries of the agenda. -/
namespace Sys2Proof.Machine

/-! ### A cycle leaves the front ends as they are -/

/-- What of a context says that its Milliner runs. -/
def frontOf (c : Ctx) : Life × GenStat := (c.life, c.gen.stat)

theorem frontOf_modCtx {s : State} {g fe : FeId} {f : Ctx → Ctx} (hf : ∀ c, frontOf (f c) = frontOf c) :
    frontOf ((s.modCtx g f).ctx fe) = frontOf (s.ctx fe) := by
  rw [State.ctx_modCtx]
  split
  · subst_vars
    exact hf _
  · rfl

theorem frontOf_countCycle (c : Ctx) : frontOf c.countCycle = frontOf c := by
  simp only [frontOf, Ctx.countCycle]
  split <;> rfl

theorem frontOf_countWait (s : State) (g fe : FeId) : frontOf ((countWait s g).ctx fe) = frontOf (s.ctx fe) := by
  unfold countWait
  split
  · rfl
  · split
    · exact frontOf_modCtx fun _ => rfl
    · rfl

theorem frontOf_tick (s : State) (fe : FeId) : frontOf ((tick s).ctx fe) = frontOf (s.ctx fe) :=
  List.foldlRecOn (motive := fun t : State => frontOf (t.ctx fe) = frontOf (s.ctx fe)) _ _ rfl fun t ht g _ => by
    rw [frontOf_countWait, frontOf_modCtx frontOf_countCycle, ht]

/-- A running context is listed. -/
theorem mem_ctxs_of_running {s : State} {fe : FeId} (h : (s.ctx fe).life = .running) :
    fe ∈ s.ctxs.map (fun p => BitVec.ofNat 9 p.1) := by
  have hmem : fe.toNat ∈ s.ctxs.map (·.1) := by
    by_contra hno
    have hreset : s.ctx fe = Ctx.reset := mget_of_not_mem _ hno
    rw [hreset] at h
    cases h
  obtain ⟨p, hp, hpe⟩ := List.mem_map.mp hmem
  exact List.mem_map.mpr ⟨p, hp, by rw [hpe, BitVec.ofNat_toNat, BitVec.setWidth_eq]⟩

/-- The word at GPC of a running Milliner is ready. -/
theorem gen_mem_ctxActs {s : State} {fe : FeId} {v : BitVec 32} (hlife : (s.ctx fe).life = .running)
    (hstat : (s.ctx fe).gen.stat = .running) (hw : genWord s fe = some v) : Act.gen fe v ∈ ctxActs s fe := by
  have hgen : Act.gen fe v ∈ genActs s (s.ctx fe) fe := by
    rw [genActs, if_pos ⟨hlife, hstat⟩, hw]
    exact List.mem_singleton_self _
  unfold ctxActs
  exact List.mem_append_left _ (List.mem_append_right _ hgen)

/-- After a cycle that word stands in the agenda. -/
theorem gen_mem_schedule {s : State} {fe : FeId} {v : BitVec 32} (hlife : (s.ctx fe).life = .running)
    (hstat : (s.ctx fe).gen.stat = .running) (hw : genWord (tick s) fe = some v) : Act.gen fe v ∈ (schedule s).agenda := by
  obtain ⟨hlife', hstat'⟩ := Prod.ext_iff.mp (frontOf_tick s fe)
  have hrun := hlife'.trans hlife
  have hacts := gen_mem_ctxActs hrun (hstat'.trans hstat) hw
  have hctx := List.mem_flatMap_of_mem (mem_ctxs_of_running hrun) hacts
  simp only [schedule, List.mem_append]
  exact .inl (.inl (.inl (.inr hctx)))

/-! ### The entries of the agenda -/

theorem step_of_agenda {s : State} {a : Act} {rest : List Act} (h : s.agenda = a :: rest) :
    step s = runAct { s with agenda := rest } a := by
  unfold step
  rw [h]

/-- Settles O53: a step unfolds to `runAct` of the head of the agenda, which decodes the word. -/
theorem stepRunsWhatStandsNext : Obligations.StepRunsWhatStandsNext := by
  unfold Obligations.StepRunsWhatStandsNext
  intro s fe rest w v i e a r at'
  have hschedule (h : s.agenda = []) : step s = .next (schedule s) := by
    unfold step
    rw [h]
  refine ⟨hschedule, fun hnil hlife hstat hw => ⟨_, hschedule hnil, gen_mem_schedule hlife hstat hw⟩, fun ha => ?_⟩
  rw [step_of_agenda ha]
  refine ⟨?_, ?_, ?_, ?_, ?_, ?_, ?_⟩
  · rintro rfl
    rfl
  · rintro rfl
    rfl
  · rintro rfl hfe hdec
    simp [runAct, runOp, hfe, hdec, at']
  · rintro rfl hfe hdec
    simp [runAct, runOp, hfe, hdec, at', wordSlot]
  · rintro rfl hlife hstat
    have hrun : ¬ ((r.ctx fe).life ≠ .running ∨ (r.ctx fe).gen.stat ≠ .running) := by
      simp only [not_or, not_not]
      exact ⟨hlife, hstat⟩
    constructor <;> intro hdec <;> simp only [runAct, runGen] <;> rw [if_neg hrun, hdec]
  · rintro rfl
    constructor <;> intro hdec <;> simp only [runAct, runMicro, hdec] <;> rfl
  · rintro rfl
    constructor <;> intro hdec <;> simp only [runAct, runTrim, hdec] <;> rfl

end Sys2Proof.Machine
end

section
/-! SUPPORT. Canonical groups, packed groups and templates (02_encoding R33 to R36, 04_generator R93 to R97): O34 and O35. -/
namespace Sys2Proof.Machine

/-! ### The words of a canonical group -/

theorem getLsbD_groupWord (g : BitVec 512) (i j : Nat) :
    (groupWord g i).getLsbD j = (decide (j < 64) && g.getLsbD (64 * i + j)) := by
  rw [groupWord, BitVec.getLsbD_extractLsb']

/-- Groups are equal when their eight words are. -/
theorem group_ext {a b : BitVec 512} (h : ∀ k, k < 8 → groupWord a k = groupWord b k) : a = b := by
  refine BitVec.eq_of_getLsbD_eq fun i hi => ?_
  have hw := congrArg (·.getLsbD (i % 64)) (h (i / 64) (by omega))
  simpa only [getLsbD_groupWord, Nat.mod_lt _ (show 0 < 64 by decide), decide_true, Bool.true_and, Nat.div_add_mod] using hw

theorem getLsbD_setGroupWord {g : BitVec 512} {w : Word} {i j : Nat} (hj : j < 512) :
    (setGroupWord g i w).getLsbD j = if j / 64 = i then w.getLsbD (j % 64) else g.getLsbD j := by
  have hones (k : Nat) : (0xFFFFFFFFFFFFFFFF#512).getLsbD k = decide (k < 64) := by
    rw [show (0xFFFFFFFFFFFFFFFF#512) = BitVec.ofNat 512 (2 ^ 64 - 1) from rfl, BitVec.getLsbD_ofNat, Nat.testBit_two_pow_sub_one]
    by_cases hk : k < 64 <;> simp [hk]
    omega
  simp only [setGroupWord, BitVec.getLsbD_or, BitVec.getLsbD_and, BitVec.getLsbD_not, BitVec.getLsbD_shiftLeft,
    BitVec.getLsbD_setWidth, hones, hj, decide_true, Bool.true_and]
  split
  · next h =>
    subst h
    rw [show j - 64 * (j / 64) = j % 64 by omega]
    simp [show ¬ j < 64 * (j / 64) by omega, show j % 64 < 64 by omega, show j % 64 < 512 by omega]
  · next h =>
    by_cases hlt : j < 64 * i
    · simp [hlt]
    · have hge : 64 ≤ j - 64 * i := by omega
      simp [hlt, show ¬ j - 64 * i < 64 by omega, BitVec.getLsbD_of_ge w _ hge]

theorem groupWord_setGroupWord {g : BitVec 512} {w : Word} {i k : Nat} (hk : k < 8) :
    groupWord (setGroupWord g i w) k = if k = i then w else groupWord g k := by
  refine BitVec.eq_of_getLsbD_eq fun j hj => ?_
  rw [getLsbD_groupWord, getLsbD_setGroupWord (by omega), show (64 * k + j) / 64 = k by omega, show (64 * k + j) % 64 = j by omega,
    decide_eq_true hj, Bool.true_and]
  split
  · rfl
  · rw [getLsbD_groupWord, decide_eq_true hj, Bool.true_and]

/-- A group with one word replaced is `setGroupWord`. -/
theorem eq_setGroupWord {old new : BitVec 512} {slot : Nat} {w : Word} (h : WordReplaced old new slot w) :
    new = setGroupWord old slot w := by
  obtain ⟨hslot, hother⟩ := h
  refine group_ext fun k hk => ?_
  rw [groupWord_setGroupWord hk]
  split
  · next heq =>
    subst heq
    exact hslot
  · next hne => exact hother k hk hne

/-! ### The slots that hold a word, and the faults of R35 -/

theorem mem_groupSlots {g : BitVec 512} {i : Nat} : i ∈ groupSlots g ↔ i < 8 ∧ groupWord g i ≠ 0#64 := by
  simp [groupSlots]

theorem groupSlots_pairwise (g : BitVec 512) : (groupSlots g).Pairwise (· < ·) := List.pairwise_lt_range.filter _

/-- The first word that a group holds. -/
theorem groupSlots_eq_cons {g : BitVec 512} {f : Nat} (hlow : ∀ k, k < f → groupWord g k = 0#64) (hf : f < 8)
    (hword : groupWord g f ≠ 0#64) : ∃ t, groupSlots g = f :: t := by
  have hmem : f ∈ groupSlots g := mem_groupSlots.mpr ⟨hf, hword⟩
  have hpair := groupSlots_pairwise g
  cases hslots : groupSlots g with
  | nil => simp [hslots] at hmem
  | cons k t =>
    rw [hslots] at hmem hpair
    rcases List.mem_cons.mp hmem with rfl | hft
    · exact ⟨t, rfl⟩
    · have hk : k ∈ groupSlots g := hslots ▸ List.mem_cons_self
      exact absurd (hlow k (List.rel_of_pairwise_cons hpair hft)) (mem_groupSlots.mp hk).2

/-- A group whose words name their slots, with MARK on its first word at most, has no fault (R35). -/
theorem canonicalFault_eq_none {g : BitVec 512} {f : Nat} (hf : f < 8) (hword : groupWord g f ≠ 0#64)
    (hslot : ∀ k, k < 8 → groupWord g k ≠ 0#64 → (wordSlot (groupWord g k)).toNat = k)
    (hmark : ∀ i k, i < k → k < 8 → groupWord g i ≠ 0#64 → groupWord g k ≠ 0#64 → wordMark (groupWord g k) = false) :
    canonicalFault g = none := by
  have hpair := groupSlots_pairwise g
  have hmem {i : Nat} (hi : i ∈ groupSlots g) := mem_groupSlots.mp hi
  unfold canonicalFault
  cases hslots : groupSlots g with
  | nil =>
    have : f ∈ groupSlots g := mem_groupSlots.mpr ⟨hf, hword⟩
    simp [hslots] at this
  | cons i t =>
    rw [hslots] at hpair hmem
    have hno : (i :: t).find? (fun i => (wordSlot (groupWord g i)).toNat != i) = none :=
      List.find?_eq_none.mpr fun k hk => by simpa using hslot k (hmem hk).1 (hmem hk).2
    have hmarks : t.find? (fun k => wordMark (groupWord g k)) = none :=
      List.find?_eq_none.mpr fun k hk => by
        obtain ⟨hk8, hkw⟩ := hmem (List.mem_cons_of_mem _ hk)
        rw [hmark i k (List.rel_of_pairwise_cons hpair hk) hk8 (hmem List.mem_cons_self).2 hkw]
        exact Bool.false_ne_true
    simp only [hno, hmarks, Option.map_none]

/-- The mark of a group is that of its first word (R38). -/
theorem groupMark_eq {g : BitVec 512} {f : Nat} (hlow : ∀ k, k < f → groupWord g k = 0#64) (hf : f < 8)
    (hword : groupWord g f ≠ 0#64) : groupMark g = wordMark (groupWord g f) := by
  obtain ⟨l, hl⟩ := groupSlots_eq_cons hlow hf hword
  rw [groupMark, firstWord, hl, List.headD_cons]

/-! ### The canonical form of packed words (R34) -/

theorem groupWord_foldl_other {ws : List Word} {k : Nat} (hk : k < 8) (acc : BitVec 512) (h : ∀ w ∈ ws, (wordSlot w).toNat ≠ k) :
    groupWord (ws.foldl (fun g w => setGroupWord g (wordSlot w).toNat (clearStop w)) acc) k = groupWord acc k := by
  induction ws generalizing acc with
  | nil => rfl
  | cons w t ih =>
    rw [List.foldl_cons, ih _ fun x hx => h x (List.mem_cons_of_mem _ hx), groupWord_setGroupWord hk,
      if_neg (h w List.mem_cons_self).symm]

/-- The words of packed words stand in rising slots. -/
def Rising (ws : List Word) : Prop := ws.Pairwise (fun x y => (wordSlot x).toNat < (wordSlot y).toNat)

theorem groupWord_foldl_mem {ws : List Word} (hrise : Rising ws) (acc : BitVec 512) {w : Word} (hw : w ∈ ws) :
    groupWord (ws.foldl (fun g w => setGroupWord g (wordSlot w).toNat (clearStop w)) acc) (wordSlot w).toNat = clearStop w := by
  induction ws generalizing acc with
  | nil => cases hw
  | cons x t ih =>
    obtain ⟨hx, ht⟩ := List.pairwise_cons.mp hrise
    rw [List.foldl_cons]
    rcases List.mem_cons.mp hw with rfl | hwt
    · rw [groupWord_foldl_other (wordSlot w).isLt _ fun y hy => (hx y hy).ne', groupWord_setGroupWord (wordSlot w).isLt, if_pos rfl]
    · exact ih ht _ hwt

theorem groupWord_canonical_mem {ws : List Word} (hrise : Rising ws) {w : Word} (hw : w ∈ ws) :
    groupWord (canonical ws) (wordSlot w).toNat = clearStop w := groupWord_foldl_mem hrise _ hw

theorem groupWord_canonical_other {ws : List Word} {k : Nat} (hk : k < 8) (h : ∀ w ∈ ws, (wordSlot w).toNat ≠ k) :
    groupWord (canonical ws) k = 0#64 := by
  rw [canonical, groupWord_foldl_other hk _ h, groupWord, BitVec.extractLsb'_zero]

/-- The canonical form is the only one. -/
theorem eq_canonical {ws : List Word} {g : BitVec 512} (hrise : Rising ws) (h : CanonicalOf ws g) : g = canonical ws := by
  obtain ⟨hmem, hother⟩ := h
  refine group_ext fun k hk => ?_
  by_cases hex : ∃ w ∈ ws, (wordSlot w).toNat = k
  · obtain ⟨w, hw, rfl⟩ := hex
    rw [groupWord_canonical_mem hrise hw]
    exact hmem w hw
  · have hno : ∀ w ∈ ws, (wordSlot w).toNat ≠ k := fun w hw he => hex ⟨w, hw, he⟩
    rw [groupWord_canonical_other hk hno]
    exact hother k hk hno

/-- A word of the canonical form is a packed word. -/
theorem mem_of_groupWord_canonical {ws : List Word} (hrise : Rising ws) {k : Nat} (hk : k < 8) (h : groupWord (canonical ws) k ≠ 0#64) :
    ∃ w ∈ ws, (wordSlot w).toNat = k ∧ groupWord (canonical ws) k = clearStop w := by
  by_contra hno
  refine h (groupWord_canonical_other hk fun w hw he => hno ⟨w, hw, he, ?_⟩)
  rw [← he, groupWord_canonical_mem hrise hw]

theorem wordSlot_clearStop (w : Word) : wordSlot (clearStop w) = wordSlot w := by
  refine BitVec.eq_of_getLsbD_eq fun j hj => ?_
  interval_cases j <;> simp [-BitVec.getLsbD_eq_getElem, wordSlot, clearStop]
theorem wordSlot_setMark (w : Word) : wordSlot (setMark w) = wordSlot w := by
  refine BitVec.eq_of_getLsbD_eq fun j hj => ?_
  interval_cases j <;> simp [-BitVec.getLsbD_eq_getElem, wordSlot, setMark]
theorem wordMark_setMark (w : Word) : wordMark (setMark w) = true := by
  simp [wordMark, setMark]
theorem setMark_ne_zero (w : Word) : setMark w ≠ 0#64 := fun h => by
  have hmark := wordMark_setMark w
  rw [h] at hmark
  cases hmark
theorem wordSlot_groupWord (g : BitVec 512) (k : Nat) : wordSlot (groupWord g k) = g.extractLsb' (64 * k + 61) 3 := by
  refine BitVec.eq_of_getLsbD_eq fun j hj => ?_
  rw [wordSlot, BitVec.getLsbD_extractLsb', BitVec.getLsbD_extractLsb', getLsbD_groupWord, decide_eq_true (show 61 + j < 64 by omega),
    Bool.true_and, Nat.add_assoc]
theorem wordMark_groupWord (g : BitVec 512) (k : Nat) : wordMark (groupWord g k) = g.getLsbD (64 * k + 59) := getLsbD_groupWord ..
theorem wordMark_clearStop (w : Word) : wordMark (clearStop w) = wordMark w := by
  simp [wordMark, clearStop]

/-! ### Reading a packed group (R33, R35, R36) -/

/-- Words of a packed group have no fault of R35 in their canonical form. -/
theorem packedFault_eq_none {ws : List Word} (hne : ws ≠ []) (hrise : Rising ws) (hword : ∀ w ∈ ws, clearStop w ≠ 0#64)
    (hmark : ∀ i w, ws[i]? = some w → wordMark w = true → i = 0) : packedFault ws = none := by
  have hdrop : ∀ w ∈ ws.drop 1, wordMark w = false := fun w hw => by
    obtain ⟨i, hi⟩ := List.mem_iff_getElem?.mp hw
    rw [List.getElem?_drop] at hi
    by_contra hm
    have := hmark _ _ hi (Bool.not_eq_false _ ▸ hm)
    omega
  have hany : (ws.drop 1).any wordMark = false := List.any_eq_false.mpr fun w hw => by rw [hdrop w hw]; exact Bool.false_ne_true
  obtain ⟨w, t, rfl⟩ := List.exists_cons_of_ne_nil hne
  obtain ⟨hfirst, -⟩ := List.pairwise_cons.mp hrise
  have hcanon : canonicalFault (canonical (w :: t)) = none := by
    refine canonicalFault_eq_none (f := (wordSlot w).toNat) (wordSlot w).isLt ?_ (fun k hk hk0 => ?_) fun i k hik hk hi0 hk0 => ?_
    · rw [groupWord_canonical_mem hrise List.mem_cons_self]
      exact hword w List.mem_cons_self
    · obtain ⟨x, -, hslot, hx⟩ := mem_of_groupWord_canonical hrise hk hk0
      rw [hx, wordSlot_clearStop, hslot]
    · obtain ⟨x, hxt, hslot, hx⟩ := mem_of_groupWord_canonical hrise hk hk0
      obtain ⟨y, hyt, hyslot, -⟩ := mem_of_groupWord_canonical hrise (hik.trans hk) hi0
      rw [hx, wordMark_clearStop]
      rcases List.mem_cons.mp hxt with rfl | hx'
      · rcases List.mem_cons.mp hyt with rfl | hy'
        · omega
        · have := hfirst y hy'
          omega
      · exact hdrop x hx'
  rw [packedFault, hany, hcanon]
  rfl

/-- The words stand at a store address, with STOP on the last alone. -/
def StoredAt (s : State) (fe : FeId) (a : StoreAddr) (ws : List Word) : Prop :=
  ∀ i w, ws[i]? = some w → storeWord8 s fe (a + BitVec.ofNat 18 (8 * i)) = some w ∧ (wordStop w = true ↔ i + 1 = ws.length)

/-- A packed group is read word by word up to the word with STOP. -/
theorem packedWords_eq {s : State} {fe : FeId} {ws : List Word} {a : StoreAddr} {prev : Option (BitVec 3)} {n : Nat} (hne : ws ≠ [])
    (hat : StoredAt s fe a ws) (hrise : Rising ws) (hprev : ∀ p, prev = some p → ∀ w ∈ ws, p < wordSlot w) (hn : ws.length ≤ n) :
    packedWords s fe a prev n = .ok ws := by
  induction ws generalizing a prev n with
  | nil => exact absurd rfl hne
  | cons w t ih =>
    obtain ⟨m, rfl⟩ : ∃ m, n = m + 1 := ⟨n - 1, by rw [List.length_cons] at hn; omega⟩
    obtain ⟨hload, hstop⟩ := hat 0 w rfl
    obtain ⟨hfirst, htail⟩ := List.pairwise_cons.mp hrise
    have hload' : storeWord8 s fe a = some w := by simpa using hload
    rw [packedWords]
    simp only [hload']
    rw [if_neg (by
      cases prev with
      | none => exact Bool.false_ne_true
      | some p =>
        have := BitVec.lt_def.mp (hprev p rfl w List.mem_cons_self)
        simpa [BitVec.ule_eq_decide] using this)]
    by_cases hlast : wordStop w = true
    · have ht : t = [] := List.eq_nil_of_length_eq_zero (by have := hstop.mp hlast; simpa using this)
      rw [if_pos hlast, ht]
    · have htne : t ≠ [] := fun ht => hlast (hstop.mpr (by rw [ht]; rfl))
      obtain ⟨x, hx⟩ := List.exists_mem_of_ne_nil t htne
      have hseven : wordSlot w ≠ 7#3 := fun h7 => by
        have hlt := hfirst x hx
        rw [h7] at hlt
        exact absurd (wordSlot x).isLt (Nat.not_lt.mpr hlt)
      have hnext : packedWords s fe (a + 8#18) (some (wordSlot w)) m = .ok t := by
        refine ih htne (fun i y hy => ?_) htail (fun p hp y hy => ?_) (by simpa using hn)
        · obtain ⟨hy', hystop⟩ := hat (i + 1) y hy
          rw [BitVec.add_assoc, show (8#18 + BitVec.ofNat 18 (8 * i)) = BitVec.ofNat 18 (8 * (i + 1)) by
            rw [Nat.mul_add, BitVec.ofNat_add, BitVec.add_comm]]
          exact ⟨hy', hystop.trans (by rw [List.length_cons]; omega)⟩
        · cases hp
          exact BitVec.lt_def.mpr (hfirst y hy)
      rw [if_neg hlast, if_neg hseven, hnext]

/-- At most eight words stand in rising slots. -/
theorem length_le_of_rising {ws : List Word} (hrise : Rising ws) : ws.length ≤ 8 := by
  have hnodup : (ws.map (fun w => (wordSlot w).toFin)).Nodup :=
    List.pairwise_map.mpr (hrise.imp fun h he => absurd (congrArg Fin.val he) h.ne)
  simpa using hnodup.length_le_card

/-- A packed group is fetched as its canonical form (R34 to R36). -/
theorem fetchPacked_eq {s : State} {a : StoreAddr} {ws : List Word} (h : PackedAt s a ws) :
    fetchPacked s s.cur a = .ok ⟨canonical ws, ws.length, ws.head? == some 0#64⟩ := by
  obtain ⟨halign, hne, hat, hrise⟩ := h
  have hwords : packedWords s s.cur a none 8 = .ok ws :=
    packedWords_eq hne (fun i w hw => ⟨(hat i w hw).1, (hat i w hw).2.2.1⟩) hrise (fun p hp => by cases hp) (length_le_of_rising hrise)
  have hfault : packedFault ws = none := packedFault_eq_none hne hrise
    (fun w hw => by obtain ⟨i, hi⟩ := List.mem_iff_getElem?.mp hw; exact (hat i w hi).2.1)
    fun i w hw => (hat i w hw).2.2.2
  rw [fetchPacked, if_neg (not_not.mpr halign), hwords]
  simp only [hfault]

/-! ### Templates (R93 to R96) -/

theorem setWidth_ofInt {n m : Nat} (h : m ≤ n) (z : Int) : (BitVec.ofInt n z).setWidth m = BitVec.ofInt m z := by
  refine BitVec.eq_of_toNat_eq ?_
  have hmod := Int.emod_emod_of_dvd z (Int.natCast_dvd_natCast.mpr (pow_dvd_pow 2 h))
  have hnonneg := Int.emod_nonneg z (b := ((2 ^ n : Nat) : Int)) (by positivity)
  rw [BitVec.toNat_setWidth, BitVec.toNat_ofInt, BitVec.toNat_ofInt, ← hmod, Int.toNat_emod hnonneg (by positivity), Int.toNat_natCast]

/-- The store address of `tld`: ga plus eight times the immediate, modulo 2^18. -/
theorem tld_address (x : Word) (i : BitVec 11) :
    (x + (sext64 i <<< 3)).setWidth 18 = BitVec.ofInt 18 (x.toNat + 8 * i.toInt) := by
  rw [BitVec.setWidth_add _ _ (by decide), BitVec.setWidth_shiftLeft_of_le (by decide), BitVec.shiftLeft_eq_mul_twoPow, sext64,
    BitVec.signExtend, setWidth_ofInt (by decide), BitVec.ofInt_add, BitVec.ofInt_mul, BitVec.mul_comm, BitVec.ofInt_natCast]
  rfl

/-- The fields that SEL names. -/
theorem selField_eq (fsel : BitVec 4) : selField fsel
    = [(42, 6), (36, 6), (30, 6), (24, 6), (20, 4), (32, 4), (16, 4), (0, 16), (0, 32), (0, 24), (56, 3), (48, 8), (0, 48)][fsel.toNat]? := by
  revert fsel
  decide

theorem getLsbD_putField {w v : Word} {lo n j : Nat} (hj : j < 64) :
    (putField w lo n v).getLsbD j = if lo ≤ j ∧ j < lo + n then v.getLsbD (j - lo) else w.getLsbD j := by
  simp only [putField, BitVec.getLsbD_or, BitVec.getLsbD_and, BitVec.getLsbD_not, BitVec.getLsbD_shiftLeft, BitVec.getLsbD_ofNat,
    Nat.testBit_two_pow_sub_one, hj, decide_true, Bool.true_and]
  by_cases hlo : j < lo
  · simp [hlo, show ¬ lo ≤ j by omega]
  · by_cases hn : j - lo < n
    · simp [hlo, hn, show lo ≤ j by omega, show j < lo + n by omega, show j - lo < 64 by omega]
    · simp [hlo, hn, show ¬ j < lo + n by omega]

/-- A word whose bits are those of the field and of the template's word, its slot number for an empty one, is the patched word. -/
theorem eq_putField {bits : BitVec 512} {slot : BitVec 3} {lo n : Nat} {v w : Word}
    (h : ∀ j, j < 64 → w.getLsbD j =
      if lo ≤ j ∧ j < lo + n then v.getLsbD (j - lo)
      else if bits.extractLsb' (64 * slot.toNat) 64 = 0#64 then decide (61 ≤ j) && slot.getLsbD (j - 61)
      else bits.getLsbD (64 * slot.toNat + j)) :
    w = putField (if groupWord bits slot.toNat = 0#64 then slot.setWidth 64 <<< 61 else groupWord bits slot.toNat) lo n v := by
  refine BitVec.eq_of_getLsbD_eq fun j hj => ?_
  rw [h j hj, getLsbD_putField hj]
  refine if_congr Iff.rfl rfl ?_
  change (if groupWord bits slot.toNat = 0#64 then _ else _) = _
  split
  · rw [BitVec.getLsbD_shiftLeft, BitVec.getLsbD_setWidth]
    by_cases h61 : j < 61
    · simp [h61, hj, show ¬ 61 ≤ j by omega]
    · simp [h61, hj, show 61 ≤ j by omega, show j - 61 < 64 by omega]
  · rw [getLsbD_groupWord, decide_eq_true hj, Bool.true_and]

/-- A patch replaces the word of the slot, in the joined band (R95). -/
theorem patch_eq {s : State} {b slot : BitVec 3} {fsel : BitVec 4} {v w : Word} {bd band : Band} {lo n : Nat} {new : BitVec 512}
    (hsel : selField fsel = some (lo, n)) (hband : bandOf [(s.gen.tmpl b).band, bd] = some band)
    (hw : w = putField (if groupWord (s.gen.tmpl b).bits slot.toNat = 0#64 then slot.setWidth 64 <<< 61
      else groupWord (s.gen.tmpl b).bits slot.toNat) lo n v)
    (hnew : WordReplaced (s.gen.tmpl b).bits new slot.toNat w) :
    patch s b slot fsel v bd = s.modGen (fun g => (g.setTmpl b ⟨new, band⟩).next) := by
  simp only [patch, hsel, hband]
  rw [← hw, ← eq_setGroupWord hnew]

/-- Settles O34: `tld` through `fetchPacked_eq`, and the patches through the bits of the field. -/
theorem templateInstructionsBuildGroups : Obligations.TemplateInstructionsBuildGroups := by
  unfold Obligations.TemplateInstructionsBuildGroups
  intro s b slot a imm fsel new w band x old held patches
  refine ⟨fun hx ws hws hnew => ?_, fun hx hpatch hband => ?_, fun hpatch hband => ?_, fun hnew => ?_, rfl⟩
  · change execTld b a imm s = _
    obtain ⟨-, -, -, hrise⟩ := id hws
    rw [execTld, if_neg (by rw [hx]; exact Bool.false_ne_true), tld_address, fetchPacked_eq hws, eq_canonical hrise hnew]
    rfl
  · obtain ⟨lo, n, hsel, hbits, hword⟩ := hpatch
    rw [← selField_eq] at hsel
    change execTpat b slot fsel a imm s = _
    rw [execTpat, if_neg (by rw [show ((s.ctx s.cur).rG a).poison = false from hx, Bool.and_false]; exact Bool.false_ne_true), patch_eq hsel hband (eq_putField hbits) hword]
    rfl
  · obtain ⟨lo, n, hsel, hbits, hword⟩ := hpatch
    rw [← selField_eq] at hsel
    change execTpati b slot fsel imm s = _
    rw [execTpati, patch_eq hsel hband (eq_putField hbits) hword]
    rfl
  · change execTclr b slot s = _
    rw [execTclr, eq_setGroupWord hnew]
    rfl

/-! ### Emission (R97 to R101) -/

/-- A group without a fault that the Runnel accepts is pushed (R97, R99). -/
theorem emitGroup_eq {s : State} {words : BitVec 512} {band : Band} (hfault : canonicalFault words = none)
    (hroom : s.gen.runnel.length < 64) (hmarks : groupMark words = true → runnelMarks s.gen < 8) :
    emitGroup s words band = s.modGen (fun g => Pushed g words (groupMark words) band) := by
  have hrunnel : runnelRoom s.gen (groupMark words) = true := by
    rw [runnelRoom, decide_eq_true hroom, Bool.true_and, Bool.or_eq_true, Bool.not_eq_true', decide_eq_true_iff]
    exact or_iff_not_imp_left.mpr fun h => hmarks (Bool.not_eq_false _ ▸ h)
  simp only [emitGroup, hfault]
  rw [if_pos hrunnel]
  rfl

/-- Settles O35: the words of the template pass R35, and `emitGroup_eq` pushes them. -/
theorem emissionPushesTheTemplate : Obligations.EmissionPushesTheTemplate := by
  unfold Obligations.EmissionPushesTheTemplate
  intro s b new f g t marks hlow hf hword hslot hmark hroom
  have hslots (k : Nat) (hk : k < 8) (hk0 : groupWord t.bits k ≠ 0#64) : (wordSlot (groupWord t.bits k)).toNat = k := by
    rw [wordSlot_groupWord]
    exact hslot k hk hk0
  have hmarks (i k : Nat) (hik : i < k) (hk : k < 8) (hfi : f ≤ i) : wordMark (groupWord t.bits k) = false :=
    (wordMark_groupWord ..).trans (hmark k (by omega) hk)
  have hfirst {g : BitVec 512} {i : Nat} (hg : ∀ k, k < f → groupWord g k = 0#64) (hi : groupWord g i ≠ 0#64) : f ≤ i :=
    Nat.not_lt.mp fun hlt => hi (hg i hlt)
  constructor
  · intro hroom8
    have hm : groupMark t.bits = t.bits.getLsbD (64 * f + 59) := (groupMark_eq hlow hf hword).trans (wordMark_groupWord ..)
    have hfault := canonicalFault_eq_none hf hword hslots fun i k hik hk hi _ => hmarks i k hik hk (hfirst hlow hi)
    change Host.Outcome.next (emitGroup s t.bits t.band) = _
    rw [emitGroup_eq hfault hroom (by rw [hm]; exact hroom8), hm]
  · intro hroom8 hnew
    have hnew' : new = setGroupWord t.bits f (setMark (groupWord t.bits f)) := eq_setGroupWord hnew
    have hmg : markGroup t.bits = new := by
      obtain ⟨l, hl⟩ := groupSlots_eq_cons hlow hf hword
      rw [markGroup, hl, hnew']
    have hwords {k : Nat} (hk : k < 8) : groupWord new k = if k = f then setMark (groupWord t.bits f) else groupWord t.bits k := by
      rw [hnew', groupWord_setGroupWord hk]
    have hlow' (k : Nat) (hk : k < f) : groupWord new k = 0#64 := by
      rw [hwords (hk.trans hf), if_neg hk.ne]
      exact hlow k hk
    have hword' : groupWord new f = setMark (groupWord t.bits f) := (hwords hf).trans (if_pos rfl)
    have hne' : groupWord new f ≠ 0#64 := hword' ▸ setMark_ne_zero _
    have hfault : canonicalFault new = none := by
      refine canonicalFault_eq_none hf hne' (fun k hk hk0 => ?_) fun i k hik hk hi _ => ?_
      · by_cases hkf : k = f
        · rw [hkf, hword', wordSlot_setMark]
          exact hslots f hf hword
        · rw [hwords hk, if_neg hkf] at hk0 ⊢
          exact hslots k hk hk0
      · have hfi := hfirst hlow' hi
        rw [hwords hk, if_neg (by omega)]
        exact hmarks i k hik hk hfi
    have hm : groupMark new = true := by rw [groupMark_eq hlow' hf hne', hword', wordMark_setMark]
    change Host.Outcome.next (emitGroup s (markGroup t.bits) t.band) = _
    rw [hmg, emitGroup_eq hfault hroom (fun _ => hroom8), hm]

end Sys2Proof.Machine
end

section
/-! SUPPORT. Waits, special registers and control of the generator (04_generator R102 to R106): O37. -/
namespace Sys2Proof.Machine

/-! ### A trap record leaves the front end that runs -/

theorem traceEv_cur (s : State) (e : TraceEv) : (s.traceEv e).cur = s.cur := by
  unfold State.traceEv
  split_ifs <;> rfl
theorem hostEvent_cur (s : State) (n : BitVec 6) (o : Owner) (rec : List Word) : (hostEvent s n o rec).cur = s.cur := by
  unfold hostEvent
  dsimp only
  split_ifs <;> rfl
theorem raiseEvent_cur (s : State) (n : BitVec 6) (rec : List Word) : (raiseEvent s n rec).cur = s.cur := by
  unfold raiseEvent
  dsimp only
  split_ifs <;> simp [hostEvent_cur]
theorem putRec_cur (s : State) (fe : FeId) (r : TrapRec) : (putRec s fe r).cur = s.cur := by
  unfold putRec
  dsimp only
  split
  · simp [writeRec, raiseEvent_cur, traceEv_cur]
  · simp [State.modCtx, traceEv_cur]

/-- A level-G fault that kills no context and asks for no page parks the Milliner, and holds or writes a record (R107). -/
theorem trapG_parks {s : State} {fe : FeId} {cause : Cause} {sw : BitVec 16} {word addr : Word} (hcls : cause.cls ≠ .p) (h20 : cause ≠ .t20) :
    (trapG s fe cause sw word addr).cur = s.cur ∧ ∃ l, (trapG s fe cause sw word addr).ctx fe
      = { s.ctx fe with held := l, gen := { (s.ctx fe).gen with stat := .parked cause } } := by
  have hpage (t : State) : pageRequest t fe cause addr = t := if_neg fun he => h20 he.1
  obtain ⟨l, hl, -⟩ := putRec_ctx s fe fe (mkRec s fe cause true 0#8 false false sw (priFail s fe cause)
    ((s.ctx fe).gen.gpc.setWidth 64) (if cause = .p00 then word else (s.ctx fe).gen.eprog.word) addr 0#64 0#64)
  simp only [trapG, hpage]
  split
  · next h => exact absurd h hcls
  all_goals exact ⟨putRec_cur .., l, by rw [State.ctx_modCtx_same, hl]⟩

/-! ### Special registers (R104) -/

/-- A write of a special register that may be written. -/
theorem applyRegWs_srWrites {c : Ctx} {n : BitVec 16} (hn : n = 0#16 ∨ n = 4#16 ∨ n = 5#16 ∨ n = 6#16) (v : Word) :
    applyRegWs c (srWrites n.toNat v) = { c with
      stallc := if n = 5#16 then #v[v, c.stallc[1]] else if n = 6#16 then #v[c.stallc[0], v] else c.stallc
      regs := { c.regs with
        fmt := if n = 0#16 then
            fmtSet c.regs.fmt (v.extractLsb' 0 2) (v.extractLsb' 2 2) (fmtOvf c.regs.fmt && !v.getLsbD 16)
              (fmtNan c.regs.fmt && !v.getLsbD 17)
          else c.regs.fmt
        kvpol := if n = 4#16 then v &&& 0xFFFFFFFFFFFF0001#64 else c.regs.kvpol } } := by
  have hset0 : c.stallc.set 0 v = #v[v, c.stallc[1]] := Vector.ext fun i hi => by interval_cases i <;> simp
  have hset1 : c.stallc.set 1 v = #v[c.stallc[0], v] := Vector.ext fun i hi => by interval_cases i <;> simp
  rcases hn with rfl | rfl | rfl | rfl
  · rfl
  · rfl
  · exact congrArg (fun x => { c with stallc := x }) hset0
  · exact congrArg (fun x => { c with stallc := x }) hset1

/-- Settles O37: each instruction reads its state, and goes on at the next word. -/
theorem generatorWaitsAndControl : Obligations.GeneratorWaitsAndControl := by
  unfold Obligations.GeneratorWaitsAndControl
  intro s d a n code v e rest c x writes
  have hwrites (r : SReg) (g : Gen) : (g.setG d r).next = writes r g := by
    unfold Gen.setG
    by_cases hd : d = 0#5 <;> simp [hd, writes, Gen.next]
  refine ⟨fun hx hroom => ?_, fun hfifo => ?_, fun hsr => ?_, fun hx hrunnel hpend hloop hn => ?_, ?_, fun hgst => ?_⟩
  · change execGwait d a s = _
    rw [execGwait, if_neg (by rw [show ((s.ctx s.cur).rG a).poison = false from hx]; exact Bool.false_ne_true),
      if_neg (Nat.not_lt.mpr hroom)]
    simp only [hwrites]
    rfl
  · change execGrecv d s = _
    have hfifo' : s.gen.fifo = e :: rest := hfifo
    simp only [execGrecv, hfifo', hwrites]
  · change execGrds d n s = _
    simp only [execGrds, hsr, hwrites]
    rfl
  · change ∃ t, execGwrs a n s = _ ∧ _
    have hwritable : srWritable n.toNat = true := by rcases hn with rfl | rfl | rfl | rfl <;> rfl
    have hdone : groupsDone (s.ctx s.cur) = true := by
      rw [groupsDone, show (s.ctx s.cur).gen.runnel = [] from hrunnel, show (s.ctx s.cur).pend = [] from hpend,
        show (s.ctx s.cur).regs.loop.replaying = false from hloop]
      rfl
    refine ⟨(s.modCtx s.cur (fun c => applyRegWs c (srWrites n.toNat x.val))).modGen Gen.next, ?_, ?_, fun _ => rfl⟩
    · rw [execGwrs, hwritable, hdone, if_neg (by simp), if_neg (by rw [show ((s.ctx s.cur).rG a).poison = false from hx]; exact Bool.false_ne_true),
        if_neg (by simp)]
    · change (((s.modCtx s.cur _).modCtx s.cur _).ctx s.cur) = _
      rw [State.ctx_modCtx_same, State.ctx_modCtx_same, applyRegWs_srWrites hn]
      rfl
  · obtain ⟨hcur, l, hctx⟩ := trapG_parks (s := s) (fe := s.cur) (cause := .a60) (sw := code) (word := 0#64) (addr := 0#64)
      (by decide) (by decide)
    refine ⟨_, rfl, ?_⟩
    have hhere : ((trapG s s.cur .a60 code 0#64 0#64).modGen Gen.next).here
        = { s.here with held := l, gen := ({ s.here.gen with stat := .parked .a60 } : Gen).next } := by
      change ((trapG s s.cur .a60 code 0#64 0#64).modCtx _ _).ctx (trapG s s.cur .a60 code 0#64 0#64).cur = _
      rw [State.ctx_modCtx_same, hcur, hctx]
    rw [hhere]
    exact ⟨rfl, rfl, rfl⟩
  · change execGend s = _
    rw [execGend, if_neg (by rw [show gstOut (s.ctx s.cur) = false from hgst]; exact Bool.false_ne_true)]
    rfl

end Sys2Proof.Machine
end

section
/-! SUPPORT. The order of landings (02_encoding R53, R67): O39. -/
namespace Sys2Proof.Machine

/-! ### Register writes -/

/-- What of a context register writes leave as it is. -/
structure KeepsQueues (c d : Ctx) : Prop where
  pend : d.pend = c.pend
  beat : d.beat = c.beat
  eng : d.eng = c.eng
  spm : d.spm = c.spm
  stq : d.stq = c.stq

theorem applyRegW_keepsQueues (c : Ctx) (w : RegW) : KeepsQueues c (applyRegW c w) := by
  cases w with
  | sr n v =>
    unfold applyRegW
    dsimp only
    split_ifs <;> exact ⟨rfl, rfl, rfl, rfl, rfl⟩
  | s | p | v | m | fmt | flags | band | stream => exact ⟨rfl, rfl, rfl, rfl, rfl⟩

theorem applyRegWs_keepsQueues (c : Ctx) (ws : List RegW) : KeepsQueues c (applyRegWs c ws) := by
  induction ws generalizing c with
  | nil => exact ⟨rfl, rfl, rfl, rfl, rfl⟩
  | cons w t ih =>
    obtain ⟨hp, hb, he, hs, hq⟩ := applyRegW_keepsQueues c w
    obtain ⟨hp', hb', he', hs', hq'⟩ := ih (applyRegW c w)
    exact ⟨hp'.trans hp, hb'.trans hb, he'.trans he, hs'.trans hs, hq'.trans hq⟩

/-- What a write makes of the registers depends on the registers alone. -/
theorem applyRegW_regs {c d : Ctx} (h : c.regs = d.regs) (w : RegW) : (applyRegW c w).regs = (applyRegW d w).regs := by
  cases w with
  | sr n v =>
    unfold applyRegW
    dsimp only
    split_ifs <;> simp [h]
  | s | p | v | m | fmt | flags | band | stream => simp [applyRegW, h]

theorem applyRegWs_regs {c d : Ctx} (h : c.regs = d.regs) (ws : List RegW) : (applyRegWs c ws).regs = (applyRegWs d ws).regs := by
  induction ws generalizing c d with
  | nil => exact h
  | cons w t ih => exact ih (applyRegW_regs h w)

theorem applyRegWs_append (c : Ctx) (ws vs : List RegW) : applyRegWs c (ws ++ vs) = applyRegWs (applyRegWs c ws) vs := by
  induction ws generalizing c with
  | nil => rfl
  | cons w t ih => exact ih _

theorem landOne_keeps (c : Ctx) (p : Pend) (w : List RegW) :
    (c.landOne p w).regs = (applyRegWs c (w.filter (fun x => !regWFlag x))).regs ∧
    (c.landOne p w).pend = c.pend.filter (fun q => q.seq != p.seq) ∧ (c.landOne p w).beat = c.beat ∧
    (c.landOne p w).eng = c.eng ∧ (c.landOne p w).spm = c.spm ∧ (c.landOne p w).stq = c.stq := by
  obtain ⟨hp, hb, he, hs, hq⟩ := applyRegWs_keepsQueues c (w.filter (fun x => !regWFlag x))
  unfold Ctx.landOne
  dsimp only
  split <;> exact ⟨rfl, congrArg (List.filter _) hp, hb, he, hs, hq⟩

/-! ### The first landing -/

/-- The entry lands in this beat. -/
def Pend.lands (beat : Nat) (p : Pend) : Prop := p.due ≤ beat ∧ p.arrived = true

/-- The order of landings: by beat, then by issue. -/
def Pend.before (p q : Pend) : Prop := p.due < q.due ∨ p.due = q.due ∧ p.seq < q.seq

section FirstLanding
variable {beat : Nat} {a p q : Pend} {l : List Pend}

theorem firstLanding_skip (ha : ¬ a.lands beat) : firstLanding beat (a :: l) = firstLanding beat l := by
  have hcond : (a.arrived && decide (a.due ≤ beat)) = false := by
    simp only [Bool.and_eq_false_iff, decide_eq_false_iff_not]
    exact or_iff_not_imp_left.mpr fun h hd => ha ⟨hd, Bool.not_eq_false _ ▸ h⟩
  simp only [firstLanding, hcond]
  rfl

theorem firstLanding_take_none (ha : a.lands beat) (hl : firstLanding beat l = none) : firstLanding beat (a :: l) = some a := by
  simp only [firstLanding, ha.2, decide_eq_true ha.1, hl]
  rfl

theorem firstLanding_take_some (ha : a.lands beat) (hl : firstLanding beat l = some q) :
    firstLanding beat (a :: l) = if q.due < a.due ∨ q.due = a.due ∧ q.seq < a.seq then some q else some a := by
  simp only [firstLanding, ha.2, decide_eq_true ha.1, hl]
  rfl

theorem firstLanding_none (h : firstLanding beat l = none) : ∀ q ∈ l, ¬ q.lands beat := by
  induction l with
  | nil => simp
  | cons a t ih =>
    by_cases ha : a.lands beat
    · cases ht : firstLanding beat t with
      | none => rw [firstLanding_take_none ha ht] at h; cases h
      | some q => rw [firstLanding_take_some ha ht] at h; split at h <;> cases h
    · rw [firstLanding_skip ha] at h
      exact List.forall_mem_cons.mpr ⟨ha, ih h⟩

/-- The entry that lands first is one that no other goes before. -/
theorem firstLanding_some (h : firstLanding beat l = some p) :
    p ∈ l ∧ p.lands beat ∧ ∀ q ∈ l, q.lands beat → ¬ q.before p := by
  induction l generalizing p with
  | nil => cases h
  | cons a t ih =>
    have hirrefl (x : Pend) : ¬ x.before x := by unfold Pend.before; omega
    by_cases ha : a.lands beat
    · cases ht : firstLanding beat t with
      | none =>
        rw [firstLanding_take_none ha ht] at h
        cases h
        exact ⟨List.mem_cons_self, ha, List.forall_mem_cons.mpr ⟨fun _ => hirrefl a, fun q hq hl => absurd hl (firstLanding_none ht q hq)⟩⟩
      | some q =>
        obtain ⟨hqt, hq, hmin⟩ := ih ht
        rw [firstLanding_take_some ha ht] at h
        split at h
        · next hqa =>
          cases h
          refine ⟨List.mem_cons_of_mem _ hqt, hq, List.forall_mem_cons.mpr ⟨fun _ hap => ?_, hmin⟩⟩
          unfold Pend.before at hap
          omega
        · next hqa =>
          cases h
          refine ⟨List.mem_cons_self, ha, List.forall_mem_cons.mpr ⟨fun _ => hirrefl a, fun r hr hl hra => hmin r hr hl ?_⟩⟩
          unfold Pend.before at hra ⊢
          omega
    · rw [firstLanding_skip ha] at h
      obtain ⟨hpt, hp, hmin⟩ := ih h
      exact ⟨List.mem_cons_of_mem _ hpt, hp, List.forall_mem_cons.mpr ⟨fun hl => absurd hl ha, hmin⟩⟩

end FirstLanding

/-- The entries that land, in order: all that are due and have arrived, as known register writes. -/
structure LandsInOrder (c : Ctx) (ps : List Pend) : Prop where
  nodup : (c.pend.map (·.seq)).Nodup
  sorted : ps.Pairwise Pend.before
  mem : ∀ p, p ∈ ps ↔ p ∈ c.pend ∧ p.lands c.beat
  known : ∀ p ∈ ps, p.fault = none ∧ ∃ w, p.kind = .done w

section Order
variable {c : Ctx} {p : Pend} {ps : List Pend}

theorem firstLanding_of_nil (h : LandsInOrder c []) : firstLanding c.beat c.pend = none := by
  cases hf : firstLanding c.beat c.pend with
  | none => rfl
  | some q =>
    obtain ⟨hmem, hl, -⟩ := firstLanding_some hf
    exact absurd ((h.mem q).mpr ⟨hmem, hl⟩) List.not_mem_nil

theorem firstLanding_of_cons (h : LandsInOrder c (p :: ps)) : firstLanding c.beat c.pend = some p := by
  obtain ⟨hp, hl⟩ := (h.mem p).mp List.mem_cons_self
  cases hf : firstLanding c.beat c.pend with
  | none => exact absurd hl (firstLanding_none hf p hp)
  | some q =>
    obtain ⟨hq, hql, hmin⟩ := firstLanding_some hf
    rcases List.mem_cons.mp ((h.mem q).mpr ⟨hq, hql⟩) with rfl | hqs
    · rfl
    · exact absurd (List.rel_of_pairwise_cons h.sorted hqs) (hmin p hp hl)

/-- Of distinct issue numbers, an entry is known by its own. -/
theorem LandsInOrder.eq_of_seq {q : Pend} (h : LandsInOrder c (p :: ps)) (hq : q ∈ c.pend) (hseq : q.seq = p.seq) : q = p :=
  List.inj_on_of_nodup_map h.nodup hq ((h.mem p).mp List.mem_cons_self).1 hseq

theorem LandsInOrder.tail {d : Ctx} (h : LandsInOrder c (p :: ps)) (hd : d.pend = c.pend.filter (fun q => q.seq != p.seq))
    (hb : d.beat = c.beat) : LandsInOrder d ps := by
  have hirrefl : p ∉ ps := fun hp => by
    have := List.rel_of_pairwise_cons h.sorted hp
    unfold Pend.before at this
    omega
  refine ⟨?_, h.sorted.of_cons, fun q => ?_, fun q hq => h.known q (List.mem_cons_of_mem _ hq)⟩
  · rw [hd]
    exact h.nodup.sublist (List.filter_sublist.map _)
  · rw [hd, hb, List.mem_filter, bne_iff_ne]
    constructor
    · intro hq
      obtain ⟨hqc, hql⟩ := (h.mem q).mp (List.mem_cons_of_mem _ hq)
      exact ⟨⟨hqc, fun hs => hirrefl (h.eq_of_seq hqc hs ▸ hq)⟩, hql⟩
    · rintro ⟨⟨hqc, hs⟩, hql⟩
      rcases List.mem_cons.mp ((h.mem q).mpr ⟨hqc, hql⟩) with rfl | hq
      · exact absurd rfl hs
      · exact hq

end Order

/-- What the landings of a list leave. -/
structure LandedIn (s t : State) (fe : FeId) (regs : Regs) : Prop where
  regs : (t.ctx fe).regs = regs
  pend : (t.ctx fe).pend = (s.ctx fe).pend.filter (fun q => !(decide (q.due ≤ (s.ctx fe).beat) && q.arrived))
  eng : (t.ctx fe).eng = (s.ctx fe).eng
  spm : (t.ctx fe).spm = (s.ctx fe).spm
  stq : (t.ctx fe).stq = (s.ctx fe).stq
  other : ∀ g, g ≠ fe → t.ctx g = s.ctx g
  mem : SameMemory s t

theorem landAll_done {s : State} {fe : FeId} {flags : List RegW} {n : Nat}
    (h : firstLanding (s.ctx fe).beat (s.ctx fe).pend = none) :
    landAll s fe flags (n + 1) = s.setCtx fe (applyRegWs (s.ctx fe) flags).afterLanding := by
  simp only [landAll, h]

theorem landAll_next {s : State} {fe : FeId} {flags : List RegW} {n : Nat} {p : Pend} {w : List RegW}
    (h : firstLanding (s.ctx fe).beat (s.ctx fe).pend = some p) (hw : landResult (s.ctx fe) p = .ok w) :
    landAll s fe flags (n + 1) = landAll (s.setCtx fe ((s.ctx fe).landOne p w)) fe (flags ++ w.filter regWFlag) n := by
  simp only [landAll, h, hw]

/-- Landings in order perform their writes one after the other, the settings of FMT flags last. -/
theorem landAll_lands {s : State} {fe : FeId} {ps : List Pend} {flags : List RegW} {n : Nat} (h : LandsInOrder (s.ctx fe) ps)
    (hn : ps.length < n) :
    LandedIn s (landAll s fe flags n) fe (applyRegWs (s.ctx fe) ((ps.flatMap landingWrites).filter (fun x => !regWFlag x)
      ++ (flags ++ (ps.flatMap landingWrites).filter regWFlag))).regs := by
  induction ps generalizing s flags n with
  | nil =>
    obtain ⟨m, rfl⟩ : ∃ m, n = m + 1 := ⟨n - 1, by omega⟩
    obtain ⟨hp, -, he, hs, hq⟩ := applyRegWs_keepsQueues (s.ctx fe) flags
    have hkeep : (s.ctx fe).pend.filter (fun q => !(decide (q.due ≤ (s.ctx fe).beat) && q.arrived)) = (s.ctx fe).pend :=
      List.filter_eq_self.mpr fun q hq => by
        have := firstLanding_none (firstLanding_of_nil h) q hq
        simpa [Pend.lands, imp_iff_not_or] using this
    rw [landAll_done (firstLanding_of_nil h)]
    refine ⟨?_, ?_, ?_, ?_, ?_, fun g hg => State.ctx_setCtx_other _ _ hg, fun _ => rfl⟩ <;> rw [State.ctx_setCtx_same]
    · simp [Ctx.afterLanding]
    · exact hp.trans hkeep.symm
    · exact he
    · exact hs
    · exact hq
  | cons p ps ih =>
    obtain ⟨m, rfl⟩ : ∃ m, n = m + 1 := ⟨n - 1, by omega⟩
    obtain ⟨hfault, w, hkind⟩ := h.known p List.mem_cons_self
    have hres : landResult (s.ctx fe) p = .ok w := by simp only [landResult, hfault, hkind]
    obtain ⟨hregs, hpend, hbeat, heng, hspm, hstq⟩ := landOne_keeps (s.ctx fe) p w
    have hw : landingWrites p = w := by simp only [landingWrites, hkind]
    have ht := ih (s := s.setCtx fe ((s.ctx fe).landOne p w)) (flags := flags ++ w.filter regWFlag) (n := m)
      (by rw [State.ctx_setCtx_same]; exact h.tail hpend hbeat) (by rw [List.length_cons] at hn; omega)
    obtain ⟨hr, hp, he, hs, hq, ho, hm⟩ := ht
    rw [State.ctx_setCtx_same] at hr hp he hs hq
    rw [landAll_next (firstLanding_of_cons h) hres]
    refine ⟨hr.trans ?_, hp.trans ?_, he.trans heng, hs.trans hspm, hq.trans hstq,
      fun g hg => (ho g hg).trans (State.ctx_setCtx_other _ _ hg), hm⟩
    · rw [applyRegWs_regs hregs, ← applyRegWs_append, List.flatMap_cons, hw, List.filter_append, List.filter_append, List.append_assoc,
        List.append_assoc]
    · rw [hpend, hbeat, List.filter_filter]
      refine List.filter_congr fun q hq => ?_
      by_cases hl : q.lands (s.ctx fe).beat
      · simp [hl.1, hl.2]
      · have hne : q.seq ≠ p.seq := fun hs => hl (h.eq_of_seq hq hs ▸ ((h.mem p).mp List.mem_cons_self).2)
        simp [hne]

/-- A save-counter index changes the identity of its context alone (R388). -/
theorem giveScidx_ctx (s : State) (fe g : FeId) :
    ∃ i, (giveScidx s fe).ctx g = { s.ctx g with ident := i } ∧ (g ≠ fe → i = (s.ctx g).ident) := by
  unfold giveScidx
  dsimp only
  split
  · exact ⟨_, rfl, fun _ => rfl⟩
  · split
    · exact ⟨_, rfl, fun _ => rfl⟩
    · rw [State.ctx_modCtx]
      split
      · next h => subst h; exact ⟨_, rfl, fun hne => absurd rfl hne⟩
      · exact ⟨_, rfl, fun _ => rfl⟩

theorem LandedIn.giveScidx {s t : State} {fe : FeId} {regs : Regs} (h : LandedIn s t fe regs) : LandedIn s (giveScidx t fe) fe regs := by
  obtain ⟨hr, hp, he, hs, hq, ho, hm⟩ := h
  obtain ⟨i, hi, -⟩ := giveScidx_ctx t fe fe
  refine ⟨?_, ?_, ?_, ?_, ?_, fun g hg => ?_, fun a => ?_⟩
  · rw [hi]; exact hr
  · rw [hi]; exact hp
  · rw [hi]; exact he
  · rw [hi]; exact hs
  · rw [hi]; exact hq
  · obtain ⟨j, hj, hsame⟩ := giveScidx_ctx t fe g
    rw [hj, hsame hg]
    exact ho g hg
  · rw [giveScidx_mem]
    exact hm a

/-- Settles O39: `landAll` performs the landings in order, and an index that the landings call for changes no register. -/
theorem landingsApplyInOrder : Obligations.LandingsApplyInOrder := by
  unfold Obligations.LandingsApplyInOrder
  intro s fe ps c hlife hnodup hready hsorted hmem hknown ws
  have horder : LandsInOrder (s.ctx fe) ps := ⟨hnodup, hsorted, hmem, hknown⟩
  have hlen : ps.length < (s.ctx fe).pend.length + 1 := by
    have hps : ps.Nodup := hsorted.imp fun h he => by subst he; omega
    exact Nat.lt_succ_of_le (hps.subperm fun p hp => ((hmem p).mp hp).1).length_le
  have hall := landAll_lands (flags := []) horder hlen
  obtain ⟨t, ht, hr, hp, he, hs, hq, ho, hm⟩ : ∃ t, exec (.registerLanding fe) s = .next t ∧
      LandedIn s t fe (applyRegWs (s.ctx fe) (ws.filter (fun x => !regWFlag x) ++ ([] ++ ws.filter regWFlag))).regs := by
    refine ⟨_, rfl, ?_⟩
    rw [landContext, if_neg (not_not.mpr hlife), if_pos hready]
    dsimp only
    split
    · exact hall
    · exact hall.giveScidx
  exact ⟨t, ht, hr, hp, he, hs, hq, ho, hm⟩

end Sys2Proof.Machine
end

section
/-! SUPPORT. The matrix command queue, the cipher unit and illegal words (07_matrix R180 to R193, 13_system R377 to R381): O44. -/
namespace Sys2Proof.Machine

/-! ### The frozen-state words of a run that starts (R190) -/

theorem getLsbD_setBits {w : Word} {lo n x j : Nat} (hj : j < 64) :
    (setBits w lo n x).getLsbD j = if lo ≤ j ∧ j < lo + n then x.testBit (j - lo) else w.getLsbD j := by
  simp only [setBits, BitVec.getLsbD_or, BitVec.getLsbD_and, BitVec.getLsbD_not, BitVec.getLsbD_shiftLeft, BitVec.getLsbD_ofNat,
    Nat.testBit_two_pow_sub_one, Nat.testBit_mod_two_pow, hj, decide_true, Bool.true_and]
  by_cases hlo : j < lo
  · simp [hlo, show ¬ lo ≤ j by omega]
  · by_cases hn : j - lo < n
    · simp [hlo, hn, show lo ≤ j by omega, show j < lo + n by omega, show j - lo < 64 by omega]
    · simp [hlo, hn, show ¬ j < lo + n by omega]

theorem bitsOf_eq (w : Word) (lo n : Nat) : bitsOf w lo n = (w.extractLsb' lo n).toNat := by
  rw [bitsOf, BitVec.extractLsb'_toNat, Nat.shiftRight_eq_div_pow]

/-- A field reads what was written to it. -/
theorem bitsOf_setBits_same {w : Word} {lo n x : Nat} (h : lo + n ≤ 64) : bitsOf (setBits w lo n x) lo n = x % 2 ^ n := by
  have hbits : (setBits w lo n x).extractLsb' lo n = BitVec.ofNat n x := BitVec.eq_of_getLsbD_eq fun j hj => by
    rw [BitVec.getLsbD_extractLsb', getLsbD_setBits (by omega), if_pos (by omega), Nat.add_sub_cancel_left, BitVec.getLsbD_ofNat]
  rw [bitsOf_eq, hbits, BitVec.toNat_ofNat]

/-- A field reads as before when another is written. -/
theorem bitsOf_setBits_apart {w : Word} {lo n lo' n' x : Nat} (h : lo + n ≤ 64) (hapart : lo + n ≤ lo' ∨ lo' + n' ≤ lo) :
    bitsOf (setBits w lo' n' x) lo n = bitsOf w lo n := by
  have hbits : (setBits w lo' n' x).extractLsb' lo n = w.extractLsb' lo n := BitVec.eq_of_getLsbD_eq fun j hj => by
    rw [BitVec.getLsbD_extractLsb', BitVec.getLsbD_extractLsb', getLsbD_setBits (by omega), if_neg (by omega)]
  rw [bitsOf_eq, bitsOf_eq, hbits]

theorem word_setField_same {r : MRun} {k lo n x : Nat} (hk : k < 18) : (r.setField k lo n x).word k = setBits (r.word k) lo n x := by
  simp [MRun.setField, MRun.setWord, MRun.word, hk]
theorem word_setField_other {r : MRun} {k k' lo n x : Nat} (h : k ≠ k') : (r.setField k' lo n x).word k = r.word k := by
  simp [MRun.setField, MRun.setWord, MRun.word, h.symm]

/-- A run starts at its entry. -/
theorem mpc_start (cmd : MCmd) (rout mpc : Nat) (swap : Bool) (phase : MPhase) : (MRun.start cmd rout mpc swap phase).mpc = mpc % 4096 := by
  simp only [MRun.start, MRun.mpc, MRun.field]
  rw [word_setField_other (by decide), word_setField_same (by decide), bitsOf_setBits_apart (by decide) (by decide),
    word_setField_same (by decide), bitsOf_setBits_apart (by decide) (by decide),
    word_setField_same (by decide), bitsOf_setBits_apart (by decide) (by decide), MRun.setMpc,
    word_setField_same (by decide), bitsOf_setBits_same (by decide)]
  rfl

/-! ### Accumulators -/

theorem mget_pdelRange {α : Type} (d : α) (l : List (Nat × α)) (k n j : Nat) :
    mget d (pdelRange l k n) j = if k ≤ j ∧ j < k + n then d else mget d l j := by
  induction l with
  | nil => simp [pdelRange, mget]
  | cons p t ih =>
    rw [pdelRange] at ih ⊢
    by_cases hp : k ≤ p.1 ∧ p.1 < k + n
    · rw [List.filter_cons_of_neg (by simpa using hp), ih, mget]
      by_cases hj : j = p.1
      · rw [if_pos (hj ▸ hp), if_pos (hj ▸ hp)]
      · rw [if_neg hj]
    · rw [List.filter_cons_of_pos (by simpa [imp_iff_not_or] using hp), mget, mget, ih]
      by_cases hj : j = p.1
      · rw [if_pos hj, if_pos hj, if_neg (hj ▸ hp)]
      · rw [if_neg hj, if_neg hj]

/-- `zeroUnits` clears the words of its units. -/
theorem accWord_zeroUnits (m : Mat) (first n : Nat) (b : Band) (j : Nat) :
    accWord (zeroUnits m first n b) j = if 1024 * first ≤ j ∧ j < 1024 * (first + n) then 0#32 else accWord m j := by
  rw [Nat.mul_add]
  exact mget_pdelRange ..

/-! ### The queue (R180, R191) -/

/-- The state in which the oldest command of the queue starts. -/
def startedState (s : State) (core : CoreId) (rest : List MCmd) : State := s.setCore core.toNat { s.core core.toNat with mq := rest }

section Queue
variable {s : State} {core : CoreId} {cmd : MCmd} {rest : List MCmd}

/-- A context without saved commands refills nothing. -/
theorem refillQueue_nil {fe : FeId} (h : (s.mat fe).saved = []) : refillQueue s fe = s := by
  simp [refillQueue, h]

/-- The oldest command of a context that is neither frozen nor busy is the next one. -/
theorem nextCmd_head (hw : wantsFreeze (s.ctx cmd.fe) = false) (hrun : (s.mat cmd.fe).run = none) :
    nextCmd s (cmd :: rest) = some cmd := by
  have hfrozen : (s.mat cmd.fe).frozen = false := (Bool.or_eq_false_iff.mp hw).1
  have hmay : mayStart s cmd.fe = true := by rw [mayStart, hrun, hfrozen]; rfl
  simp [nextCmd, hw, hmay]

/-- The command leaves the queue; the others stay. -/
theorem dequeue_head (hq : (s.core core.toNat).mq = cmd :: rest) (huniq : ∀ q ∈ rest, q.fe ≠ cmd.fe ∨ q.num ≠ cmd.num) :
    dequeue s core.toNat cmd = startedState s core rest := by
  have hfilter : (cmd :: rest).filter (fun m => !(m.fe == cmd.fe && m.num == cmd.num)) = rest := by
    rw [List.filter_cons_of_neg (by simp)]
    exact List.filter_eq_self.mpr fun q hmem => by
      rcases huniq q hmem with h | h <;> simp [h]
  rw [dequeue, hq, hfilter, startedState]

/-- The oldest command may start: nothing is held, and its context is neither frozen nor busy. -/
structure MayStart (s : State) (core : CoreId) (cmd : MCmd) (rest : List MCmd) : Prop where
  held : (s.core core.toNat).held = []
  queue : (s.core core.toNat).mq = cmd :: rest
  uniq : ∀ q ∈ rest, q.fe ≠ cmd.fe ∨ q.num ≠ cmd.num
  savedA : (s.mat (feA core)).saved = []
  savedB : (s.mat (feB core)).saved = []
  live : wantsFreeze (s.ctx cmd.fe) = false
  idle : (s.mat cmd.fe).run = none

/-- It is the command that the unit takes. -/
theorem MayStart.next (h : MayStart s core cmd rest) :
    (if (s.core core.toNat).held.isEmpty then nextCmd s (s.core core.toNat).mq else none) = some cmd := by
  rw [h.held, h.queue, nextCmd_head h.live h.idle]
  rfl

theorem commandStart_call {flags : BitVec 4} {rout : BitVec 6} {k : BitVec 16} (h : MayStart s core cmd rest)
    (hkind : cmd.kind = .call flags rout k) :
    exec (.matrixCommandStart core) s = .next (startCall (startedState s core rest) cmd flags rout k) := by
  change execMatrixCommandStart core s = _
  simp only [execMatrixCommandStart, refillQueue_nil h.savedA, refillQueue_nil h.savedB, h.next, hkind, dequeue_head h.queue h.uniq]

theorem commandStart_plain (h : MayStart s core cmd rest)
    (hkind : cmd.kind = .zero ∨ cmd.kind = .drainRaw ∨ cmd.kind = .fill ∨ ∃ row, cmd.kind = .tload row) :
    exec (.matrixCommandStart core) s = .next (startPlain (startedState s core rest) cmd) := by
  change execMatrixCommandStart core s = _
  simp only [execMatrixCommandStart, refillQueue_nil h.savedA, refillQueue_nil h.savedB, h.next, dequeue_head h.queue h.uniq]
  rcases hkind with hkind | hkind | hkind | ⟨row, hkind⟩ <;> simp only [hkind]

/-- The run of a routine that starts. -/
def startedRun (s : State) (cmd : MCmd) (flags : BitVec 4) (rout : BitVec 6) (band : Band) : MRun :=
  { MRun.start cmd rout.toNat ((mget 0#13 (s.core (coreOf cmd.fe)).rtab rout.toNat).toNat % 4096) (flags.getLsbD 0) .words with band := band }

theorem mpc_startedRun (s : State) (cmd : MCmd) (flags : BitVec 4) (rout : BitVec 6) (band : Band) :
    (startedRun s cmd flags rout band).mpc = (mget 0#13 (s.core (coreOf cmd.fe)).rtab rout.toNat).toNat % 4096 := by
  have hband (r : MRun) : ({ r with band := band } : MRun).mpc = r.mpc := rfl
  rw [startedRun, hband, mpc_start, Nat.mod_mod]

/-- A routine starts at its entry, with its region zeroed under ZI, in the joined band (R182, R193, R210). -/
theorem startCall_eq {flags : BitVec 4} {rout : BitVec 6} {k : BitVec 16} {band : Band} {m : Mat}
    (hentry : (mget 0#13 (s.core (coreOf cmd.fe)).rtab rout.toNat).getLsbD 12 = true) (hrsc : flags.getLsbD 3 = false)
    (hplaces : mcallPlacesOk s cmd.fe (cmd.m.map (·.val)) (algDim cmd.tab) = true)
    (hm : m = if flags.getLsbD 1 then zeroUnits (s.mat cmd.fe) (pmAUB (cmd.m.map (·.val)))
      (regionUnits (cmd.m.map (·.val)) (algDim cmd.tab)) (s.ctx cmd.fe).band else s.mat cmd.fe)
    (hband : startBand m cmd = some band) :
    startCall s cmd flags rout k = s.modMat cmd.fe (fun _ => { m with run := some (startedRun s cmd flags rout band) }) := by
  subst hm
  unfold startCall
  dsimp only
  rw [if_neg (by rw [hentry]; exact Bool.false_ne_true), if_neg (by rw [hplaces]; exact Bool.false_ne_true)]
  simp only [State.mat] at hband
  simp only [hband, hrsc]
  rfl

end Queue

/-- What the start of a command leaves: the rest of the queue, and the context of the command but for its unit and window. -/
theorem startedState_core (s : State) (core : CoreId) (rest : List MCmd) (fe : FeId) (f : Ctx → Ctx) :
    (((startedState s core rest).modCtx fe f).core core.toNat).mq = rest := by
  change ((startedState s core rest).core core.toNat).mq = rest
  rw [startedState, State.core_setCore_same]

theorem startedState_rtab (s : State) (core : CoreId) (rest : List MCmd) (n : Nat) : ((startedState s core rest).core n).rtab = (s.core n).rtab := by
  by_cases h : n = core.toNat
  · rw [h, startedState, State.core_setCore_same]
  · rw [startedState, State.core_setCore_other _ _ h]

/-! ### Completion (R180, R189) -/

section Completion
variable {s : State} {fe g : FeId}

theorem vget_vset_same {α : Type} {n w : Nat} {d : α} {v : Vector α n} {i : BitVec w} {x : α} (h : i.toNat < n) :
    vget d (vset v i x) i = x := by
  simp [vget, vset, h]

theorem doneNum_ctx_other (tl : BitVec 2) (n : Word) (h : g ≠ fe) : (doneNum s fe tl n).ctx g = s.ctx g :=
  State.ctx_modCtx_other _ _ h

/-- The number is complete. -/
theorem doneNum_timeline (s : State) (fe : FeId) (tl : BitVec 2) (n : Word) : (((doneNum s fe tl n).ctx fe).timeline tl).done = n := by
  rw [doneNum, State.ctx_modCtx_same, Ctx.timeline, vget_vset_same tl.isLt]

/-- The end of a command without a fault changes no other context and no memory. -/
theorem completeCmd_other (hfail : ∀ q, (s.mat fe).bypass = some q → q.fail = none) (h : g ≠ fe) :
    (completeCmd s fe).ctx g = s.ctx g ∧ (completeCmd s fe).mem = s.mem := by
  unfold completeCmd
  dsimp only
  split
  · next r hr =>
    rw [hfail r hr]
    split_ifs
    · exact ⟨State.ctx_modCtx_other _ _ h, rfl⟩
    · exact ⟨rfl, rfl⟩
  · split
    · split_ifs
      · refine ⟨?_, ?_⟩
        · rw [doneNum_ctx_other _ _ h, State.ctx_modCtx_other _ _ h]
          exact State.ctx_modCtx_other _ _ h
        · rw [doneNum_mem]; rfl
      · exact ⟨rfl, rfl⟩
    · exact ⟨rfl, rfl⟩

/-- A finished command ends under its number. -/
theorem completeCmd_finished {r : MRun} (hbypass : (s.mat fe).bypass = none) (hrun : (s.mat fe).run = some r) (hr : r.phase = .finished) :
    completeCmd s fe = doneNum ((s.modMat fe (fun m => { m with run := none })).modCtx fe (fun c => c.endRun r)) fe tlM r.cmd.num := by
  simp only [completeCmd, hbypass, hrun]
  rw [if_pos hr]

theorem completeCmd_ends {r : MRun} (hbypass : (s.mat fe).bypass = none) (hrun : (s.mat fe).run = some r) (hr : r.phase = .finished) :
    ((completeCmd s fe).ctx fe).eng.mat.run = none ∧ (((completeCmd s fe).ctx fe).timeline tlM).done = r.cmd.num ∧
    ((completeCmd s fe).ctx fe).eng.mat.acc = (s.mat fe).acc ∧ (completeCmd s fe).mem = s.mem := by
  rw [completeCmd_finished hbypass hrun hr]
  have hmat (tl : BitVec 2) (n : Word) (u : State) : ((doneNum u fe tl n).ctx fe).eng.mat = (u.ctx fe).eng.mat := by
    rw [doneNum, State.ctx_modCtx_same]
  refine ⟨?_, doneNum_timeline .., ?_, by rw [doneNum_mem]; rfl⟩ <;>
    rw [hmat, State.ctx_modCtx_same, State.modMat, State.ctx_modCtx_same] <;> rfl

end Completion

/-! ### Whole lines of the window (R378) -/

theorem extractLsb'_ofNat {w N lo n : Nat} (h : lo + n ≤ w) : (BitVec.ofNat w N).extractLsb' lo n = BitVec.ofNat n (N / 2 ^ lo) := by
  refine BitVec.eq_of_getLsbD_eq fun j hj => ?_
  rw [BitVec.getLsbD_extractLsb', BitVec.getLsbD_ofNat, BitVec.getLsbD_ofNat, Nat.testBit_div_two_pow, Nat.add_comm j]
  simp [hj, show lo + j < w by omega]

theorem bytesNat_digit {l : List Byte} {i : Nat} {b : Byte} (h : l[i]? = some b) : BitVec.ofNat 8 (bytesNat l / 2 ^ (8 * i)) = b := by
  induction l generalizing i with
  | nil => cases h
  | cons x t ih =>
    have hx := x.isLt
    cases i with
    | zero =>
      cases h
      refine BitVec.eq_of_toNat_eq ?_
      rw [bytesNat, BitVec.toNat_ofNat]
      omega
    | succ i =>
      have hdiv : bytesNat (x :: t) / 2 ^ (8 * (i + 1)) = bytesNat t / 2 ^ (8 * i) := by
        rw [bytesNat, Nat.mul_succ, Nat.pow_add, Nat.mul_comm (2 ^ (8 * i)), ← Nat.div_div_eq_div_mul]
        congr 1
        omega
      rw [hdiv]
      exact ih h

/-- A byte of a line that is made of bytes. -/
theorem lineByte_lineOf {l : List Byte} {i : Nat} {b : Byte} (hi : i < 256) (h : l[i]? = some b) : lineByte (lineOf l) i = b := by
  rw [lineByte, lineOf, extractLsb'_ofNat (by omega), bytesNat_digit h]

/-- Line k of the window after whole lines have been put. -/
theorem spmLine_putLines (m : Spm) (o : Nat) (bytes : List Byte) (n : Nat) (band : Band) (form : Bool) (i : Nat) (hi : i < n) :
    spmLine (putLines m o bytes n band form) (o / 256 + i) = ⟨lineOf ((bytes.drop (256 * i)).take 256), band, form, 0#4⟩ := by
  induction n with
  | zero => omega
  | succ n ih =>
    rw [putLines, List.range_succ, List.foldl_append]
    simp only [List.foldl_cons, List.foldl_nil, spmLine]
    by_cases hin : i = n
    · rw [hin, mget_mset_same]
    · rw [mget_mset_other _ _ _ (by omega)]
      exact ih (by omega)

/-- The bytes of whole lines, from an aligned offset on. -/
theorem putLines_byte {m : Spm} {o : Nat} {bytes : List Byte} {n : Nat} {band : Band} {form : Bool} {j : Nat} {b : Byte}
    (ho : o % 256 = 0) (hj : j < 256 * n) (hb : bytes[j]? = some b) :
    spmByte (putLines m o bytes n band form) (o + j) = b ∧ (spmLine (putLines m o bytes n band form) ((o + j) / 256)).band = band ∧
      (spmLine (putLines m o bytes n band form) ((o + j) / 256)).form = form := by
  have hline : (o + j) / 256 = o / 256 + j / 256 := by omega
  rw [spmByte, hline, spmLine_putLines m o bytes n band form _ (by omega)]
  refine ⟨lineByte_lineOf (Nat.mod_lt _ (by decide)) ?_, rfl, rfl⟩
  rw [List.getElem?_take_of_lt (by omega), List.getElem?_drop, show 256 * (j / 256) + (o + j) % 256 = j by omega]
  exact hb

/-! ### The cipher unit (R378 to R380) -/

theorem length_beBytes (x n : Nat) : (beBytes x n).length = n := by
  induction n with
  | zero => rfl
  | succ n ih => rw [beBytes, List.length_cons, ih]

/-- A sealed object of n bytes takes at most 48 + n. -/
theorem length_sealed (key : BitVec 256) (iv : List Byte) (ctr : Word) (bid : BitVec 32) (k : BitVec 2) (band : Band) (n : Nat)
    (plain : List Byte) : (sealHeader ctr bid k band n ++ (gcmEncrypt key iv (sealHeader ctr bid k band n) plain).1
      ++ (gcmEncrypt key iv (sealHeader ctr bid k band n) plain).2).length ≤ 48 + plain.length := by
  have htag : (gcmEncrypt key iv (sealHeader ctr bid k band n) plain).2.length ≤ 16 := by
    rw [gcmEncrypt, gcmTag, xorBytes, List.length_zipWith, length_beBytes]
    exact Nat.min_le_left ..
  have htext : (gcmEncrypt key iv (sealHeader ctr bid k band n) plain).1.length ≤ plain.length := by
    rw [gcmEncrypt, List.length_take]
    exact Nat.min_le_left ..
  have hhdr : (sealHeader ctr bid k band n).length = 32 := by simp [sealHeader]
  rw [List.length_append, List.length_append]
  omega

theorem otherFe_core (core : CoreId) : otherFe (feA core) = feB core ∧ otherFe (feB core) = feA core := by
  revert core; decide

/-- The only command of a core's cipher unit is the next one. -/
theorem cipherNext_only {s : State} {core : CoreId} {fe : FeId} {x : CipherCmd} {rest : List CipherCmd} (hfe : fe = feA core ∨ fe = feB core)
    (hq : (s.ctx fe).eng.cipher = x :: rest) (hbound : isBound (s.ctx fe) = true) (hrun : (s.ctx fe).eng.cipherRun = true)
    (hother : (s.ctx (otherFe fe)).eng.cipher = []) : cipherNext s core = some (fe, x) := by
  have hready : cipherReady (s.ctx fe) = true := by simp [cipherReady, hq, hbound, hrun]
  have hnot : cipherReady (s.ctx (otherFe fe)) = false := by simp [cipherReady, hother]
  obtain ⟨hA, hB⟩ := otherFe_core core
  rcases hfe with rfl | rfl
  · rw [hA] at hnot
    simp [cipherNext, hready, hnot, hq]
  · rw [hB] at hnot
    simp [cipherNext, hready, hnot, hq]

/-- A command that has ended leaves the unit under its number. -/
theorem popCipher_ctx (s : State) (fe : FeId) (num : Word) :
    (((popCipher s fe num).ctx fe).timeline tlX).done = num ∧
    ((popCipher s fe num).ctx fe).eng.cipher = (s.ctx fe).eng.cipher.tail ∧ ((popCipher s fe num).ctx fe).spm = (s.ctx fe).spm := by
  have hdone := doneNum_timeline s fe tlX num
  have hkeep : ((doneNum s fe tlX num).ctx fe).eng.cipher = (s.ctx fe).eng.cipher ∧ ((doneNum s fe tlX num).ctx fe).spm = (s.ctx fe).spm := by
    rw [doneNum, State.ctx_modCtx_same]
    exact ⟨rfl, rfl⟩
  rw [popCipher, State.ctx_modCtx_same]
  exact ⟨hdone, congrArg List.tail hkeep.1, hkeep.2⟩

/-- A seal of unpoisoned plain bytes puts its object into the window (R378). -/
theorem runSeal_eq {c : Ctx} {x : CipherCmd} {key : BitVec 256} {band : Band}
    (hband : bandOf (((spmRangeLines x.src.toNat x.n.toNat).map (spmLine c.engineSpm)).map (·.band)) = some band)
    (hform : ∀ l ∈ (spmRangeLines x.src.toNat x.n.toNat).map (spmLine c.engineSpm), l.form = false)
    (hpoison : spmRangePoison c.engineSpm x.src.toNat x.n.toNat = false) :
    runSeal c x key = .done (putLines c.spm x.dst.toNat (sealHeader x.ctr c.ident.bid x.k band x.n.toNat
      ++ (gcmEncrypt key (sealIv c.ident.bid.toNat x.ctr.toNat) (sealHeader x.ctr c.ident.bid x.k band x.n.toNat)
        (spmBytesAt c.engineSpm x.src.toNat x.n.toNat)).1
      ++ (gcmEncrypt key (sealIv c.ident.bid.toNat x.ctr.toNat) (sealHeader x.ctr c.ident.bid x.k band x.n.toNat)
        (spmBytesAt c.engineSpm x.src.toNat x.n.toNat)).2) (linesFor (48 + x.n.toNat)) band true) none := by
  have hany : ((spmRangeLines x.src.toNat x.n.toNat).map (spmLine c.engineSpm)).any (·.form) = false :=
    List.any_eq_false.mpr fun l hl => by rw [hform l hl]; exact Bool.false_ne_true
  simp only [runSeal, hband, hany, hpoison]
  rfl

/-! ### Faults that take a context off its front end -/

/-- A killed context is no longer bound. -/
theorem killCtx_unbinds (s : State) (fe : FeId) : isBound ((killCtx s fe).ctx fe) = false := departCtx_unbinds ..

/-- A fault of matrix work kills its context (R193, R212). -/
theorem mtrap_unbinds (s : State) (fe : FeId) (r : MRun) (cause : Cause) (word addr : Word) :
    isBound ((mtrap s fe r cause word addr).ctx fe) = false := killCtx_unbinds ..

/-- Settles O44, unit by unit. -/
theorem unitsStartFreezeAndComplete : Obligations.UnitsStartFreezeAndComplete := by
  unfold Obligations.UnitsStartFreezeAndComplete
  intro s fe core cmd rest r m spm flags rout k x crest key band w n c p units e gone
  refine ⟨fun hfe => ⟨fun hcmd hheld hq huniq hsa hsb hwant hidle => ?_, fun hbypass hrun hfin hfail => ?_,
    ?_⟩, fun hrun hwant hphase hpoint hholds => ?_,
    ⟨_, rfl, ?_⟩, ?_, fun hrun hphase hfrozen hindr => ?_, fun hact hdrain => ?_⟩
  · subst hcmd
    have hmay : MayStart s core cmd rest := ⟨hheld, hq, huniq, hsa, hsb, hwant, hidle⟩
    refine ⟨fun hkind hentry hrsc hmixed hplaces hband => ?_, fun hkind hplain => ?_⟩
    · have hband' : startBand (if flags.getLsbD 1 then zeroUnits (s.mat cmd.fe) (pmAUB p) units (s.ctx cmd.fe).band else s.mat cmd.fe) cmd
          = some band := by
        rw [startBand, hmixed]
        exact hband
      have hentry' : (mget 0#13 ((startedState s core rest).core (coreOf cmd.fe)).rtab rout.toNat).getLsbD 12 = true := by
        rw [startedState_rtab]
        exact hentry
      refine ⟨_, startedRun (startedState s core rest) cmd flags rout band, (commandStart_call hmay hkind).trans
        (congrArg _ (startCall_eq hentry' hrsc hplaces rfl hband')), startedState_core .., ?_, rfl, rfl, ?_, rfl, fun j => ?_⟩
      · rw [State.modMat, State.ctx_modCtx_same]
      · rw [mpc_startedRun, startedState_rtab]
      · rw [State.modMat, State.ctx_modCtx_same]
        change accWord (if flags.getLsbD 1 = true then zeroUnits c.eng.mat (pmAUB p) units c.band else c.eng.mat) j = _
        by_cases hzi : flags.getLsbD 1 = true
        · rw [if_pos hzi, accWord_zeroUnits]
          simp only [hzi, true_and]
        · rw [if_neg hzi, if_neg fun h => hzi h.1]
    · have hplain' : plainCmd ((startedState s core rest).ctx cmd.fe) cmd = .ok m spm := hplain
      have hstart : startPlain (startedState s core rest) cmd = (startedState s core rest).modCtx cmd.fe
          (fun c => c.withMat { m with run := some (MRun.start cmd 0 0 false .finished) } spm) := by
        simp only [startPlain, hplain']
      refine ⟨_, MRun.start cmd 0 0 false .finished, (commandStart_plain hmay hkind).trans (congrArg _ hstart), startedState_core .., rfl, rfl, ?_, ?_⟩ <;>
        rw [State.ctx_modCtx_same] <;> rfl
  · obtain ⟨hA, hB⟩ := otherFe_core core
    have hne := feA_ne_feB core
    rcases hfe with rfl | rfl
    · obtain ⟨hdrun, hdone, hacc, hmem⟩ := completeCmd_ends hbypass hrun hfin
      obtain ⟨hctx, hmem'⟩ := completeCmd_other (s := completeCmd s (feA core)) (fe := feB core) (g := feA core) (fun q hq => by
        rw [State.mat, (completeCmd_other (fun q hq => by cases hbypass ▸ hq) hne.symm).1] at hq
        exact hfail q (hA ▸ hq)) hne
      exact ⟨_, rfl, by rw [hctx]; exact hdrun, by rw [hctx]; exact hdone, by rw [hctx]; exact hacc, fun a => by rw [hmem', hmem]⟩
    · obtain ⟨hctx, hmem'⟩ := completeCmd_other (s := s) (fe := feA core) (g := feB core) (fun q hq => hfail q (hB ▸ hq)) hne.symm
      obtain ⟨hdrun, hdone, hacc, hmem⟩ := completeCmd_ends (s := completeCmd s (feA core)) (fe := feB core) (r := r)
        (by rw [State.mat, hctx]; exact hbypass) (by rw [State.mat, hctx]; exact hrun) hfin
      exact ⟨_, rfl, hdrun, hdone, by rw [hacc, State.mat, hctx], fun a => by rw [hmem, hmem']⟩
  · intro hq hbound hrun hother hkey hseal hdst lines hdr out hband hform hpoison
    have hkey' : vget none (s.ctx fe).keys x.k = some key := hkey
    have hrunSeal := runSeal_eq (key := key) hband hform hpoison
    obtain ⟨hdone, hcipher, hspm⟩ := popCipher_ctx (s.modCtx fe (fun c => { c with
      spm := putLines c.spm x.dst.toNat (hdr ++ out.1 ++ out.2) (linesFor (48 + x.n.toNat)) band true
      stops := { c.stops with engine := c.stops.engine ++ [] } })) fe x.num
    rw [State.ctx_modCtx_same] at hcipher hspm
    refine ⟨_, ?_, hdone, ?_, fun a => ?_, fun j b hj => ?_⟩
    · change execCipherCommandComplete core s = _
      simp only [execCipherCommandComplete, cipherNext_only hfe hq hbound hrun hother, hkey', hseal, if_true]
      rw [hrunSeal]
      rfl
    · rw [hcipher]
      exact congrArg List.tail hq
    · rw [popCipher_mem]
      rfl
    · have hlen := length_sealed key (sealIv c.ident.bid.toNat x.ctr.toNat) x.ctr c.ident.bid x.k band x.n.toNat
        (spmBytesAt c.engineSpm x.src.toNat x.n.toNat)
      obtain ⟨hjlt, -⟩ := List.getElem?_eq_some_iff.mp hj
      have hj48 : j < 48 + x.n.toNat := by simpa [spmBytesAt] using hjlt.trans_le hlen
      rw [hspm]
      exact putLines_byte hdst (by rw [linesFor]; omega) hj
  · change execFreezePointReached fe s = _
    have hrun' : (s.ctx fe).eng.mat.run = some r := hrun
    simp only [execFreezePointReached, hrun']
    rw [if_neg (by rw [show wantsFreeze (s.ctx fe) = true from hwant]; decide), if_neg hphase,
      if_pos (by rw [hpoint]; exact hholds)]
  · exact killCtx_unbinds ..
  · obtain ⟨-, l, hctx⟩ := trapG_parks (s := s) (fe := fe) (cause := .t21) (sw := 0#16) (word := 0#64)
      (addr := zext64 (gpcAddr (s.ctx fe).gen)) (by decide) (by decide)
    exact ⟨_, rfl, by rw [hctx], by rw [hctx], by rw [hctx]⟩
  · have hrun' : (s.mat fe).run = some r := hrun
    refine ⟨_, ?_, mtrap_unbinds s fe r .p00 (w.setWidth 64) (BitVec.ofNat 64 r.mpc)⟩
    change execIllegalMicroWord fe w s = _
    simp only [execIllegalMicroWord, hrun']
    rw [if_neg (by simp [hphase, hfrozen, hindr])]
  · have hact' : (s.mat fe).active = some r := hact
    refine ⟨_, ?_, mtrap_unbinds s fe r .p00 (w.setWidth 64) (r.trun.pc.setWidth 64)⟩
    change execIllegalTrimmerWord fe w s = _
    simp only [execIllegalTrimmerWord, hact']
    rw [if_pos hdrain]

end Sys2Proof.Machine
end

section
/-! SUPPORT. What a trap record, a rollback and a kill leave (13_system R352, R357, R358, R362 to R364). -/
namespace Sys2Proof.Machine

/-! ### The turn: what stands next and the group that issues -/

/-- The agenda and the issuing group are as they were. -/
structure KeepsTurn (s t : State) : Prop where
  agenda : t.agenda = s.agenda
  issue : t.issue = s.issue

theorem KeepsTurn.trans {s t u : State} (h : KeepsTurn s t) (h' : KeepsTurn t u) : KeepsTurn s u :=
  ⟨h'.agenda.trans h.agenda, h'.issue.trans h.issue⟩

theorem traceEv_keepsTurn (s : State) (e : TraceEv) : KeepsTurn s (s.traceEv e) := by
  unfold State.traceEv
  split_ifs <;> exact ⟨rfl, rfl⟩
theorem hostEvent_keepsTurn (s : State) (n : BitVec 6) (o : Owner) (rec : List Word) : KeepsTurn s (hostEvent s n o rec) := by
  unfold hostEvent
  dsimp only
  split_ifs <;> exact ⟨rfl, rfl⟩
theorem raiseEvent_keepsTurn (s : State) (n : BitVec 6) (rec : List Word) : KeepsTurn s (raiseEvent s n rec) := by
  have hev (t : State) (o : Owner) := hostEvent_keepsTurn t n o rec
  unfold raiseEvent
  dsimp only
  split_ifs <;> constructor <;> simp [(hev _ _).agenda, (hev _ _).issue]
theorem putRec_keepsTurn (s : State) (fe : FeId) (r : TrapRec) : KeepsTurn s (putRec s fe r) := by
  have htr (e : TraceEv) := traceEv_keepsTurn s e
  have hev (t : State) (n : BitVec 6) (rec : List Word) := raiseEvent_keepsTurn t n rec
  unfold putRec
  dsimp only
  split
  · constructor <;> simp [writeRec, (hev _ _ _).agenda, (hev _ _ _).issue, (htr _).agenda, (htr _).issue]
  · constructor <;> simp [(htr _).agenda, (htr _).issue]

/-! ### Kills (R352, R364, R367) -/

theorem mget_map {α : Type} (d : α) (l : List (Nat × α)) (f : Nat × α → Nat × α) (k : Nat) (hkey : ∀ p, (f p).1 = p.1)
    (hsame : ∀ p, p.1 = k → f p = p) : mget d (l.map f) k = mget d l k := by
  induction l with
  | nil => rfl
  | cons p t ih =>
    rw [List.map_cons, mget, mget, ih, hkey]
    split
    · next h => rw [hsame p h.symm]
    · rfl

/-- The other contexts of a failed task are asked to stop, and not the one that failed. -/
theorem stopOthers_ctx (s : State) (fe : FeId) (task : BitVec 32) : (stopOthers s fe task).ctx fe = s.ctx fe := by
  refine mget_map _ _ _ _ (fun p => ?_) fun p hp => ?_
  · split <;> rfl
  · rw [if_neg fun h => h.1 hp]

theorem departCtx_frame (s : State) (fe : FeId) :
    KeepsTurn s (departCtx s fe) ∧ (departCtx s fe).clusters = s.clusters ∧ ((departCtx s fe).ctx fe).held = (s.ctx fe).held ∧
    (departCtx s fe).disp.tasks = s.disp.tasks.map (fun t =>
      if t.id = (s.ctx fe).ident.task then { t with live := t.live.filter (· != fe) } else t) := by
  unfold departCtx
  dsimp only
  split
  · refine ⟨⟨rfl, rfl⟩, rfl, ?_, rfl⟩
    rw [State.ctx_modCtx_same]
    rfl
  · refine ⟨⟨?_, ?_⟩, ?_, ?_, ?_⟩
    · simp [unbindCtx]
    · simp [unbindCtx]
    · simp [unbindCtx]
    · rw [unbindCtx, State.ctx_setCtx_same]
      rfl
    · simp [unbindCtx]

/-- The state in which a killed context leaves: its engines empty, its task failed, the others asked to stop. -/
def killedState (s : State) (fe : FeId) : State :=
  stopOthers { discardEngines s fe with disp := { s.disp with tasks := s.disp.tasks.map (fun t =>
    if t.id = (s.ctx fe).ident.task then { t with st := .failed } else t) } } fe (s.ctx fe).ident.task

theorem killCtx_eq (s : State) (fe : FeId) : killCtx s fe = departCtx (killedState s fe) fe := rfl

theorem killedState_ctx (s : State) (fe : FeId) :
    ((killedState s fe).ctx fe).held = (s.ctx fe).held ∧ ((killedState s fe).ctx fe).ident = (s.ctx fe).ident := by
  have h : (killedState s fe).ctx fe = (discardEngines s fe).ctx fe := stopOthers_ctx ..
  rw [h, discardEngines, State.ctx_modCtx_same]
  exact ⟨rfl, rfl⟩

/-- A kill keeps the turn, the clusters and the records that its front end holds. -/
theorem killCtx_frame (s : State) (fe : FeId) :
    KeepsTurn s (killCtx s fe) ∧ (killCtx s fe).clusters = s.clusters ∧ ((killCtx s fe).ctx fe).held = (s.ctx fe).held := by
  obtain ⟨hturn, hcl, hheld, -⟩ := departCtx_frame (killedState s fe) fe
  exact ⟨(⟨rfl, rfl⟩ : KeepsTurn s (killedState s fe)).trans hturn, hcl, hheld.trans (killedState_ctx s fe).1⟩

/-- The task of a killed context has failed. -/
theorem killCtx_failed (s : State) (fe : FeId) : ∀ y ∈ (killCtx s fe).disp.tasks, y.id = (s.ctx fe).ident.task → y.st = .failed := by
  obtain ⟨-, -, -, htasks⟩ := departCtx_frame (killedState s fe) fe
  intro y hy hid
  rw [killCtx_eq, htasks] at hy
  obtain ⟨x, hx, rfl⟩ := List.mem_map.mp hy
  obtain ⟨z, -, rfl⟩ := List.mem_map.mp hx
  split_ifs at hid ⊢ <;> simp_all

/-! ### Trap records (R362, R363) -/

/-- An event writes no byte below the memories of the hosts (R413). -/
theorem raiseEvent_memRead (s : State) (n : BitVec 6) (rec : List Word) {a : Nat} (ha : a < 2 ^ 60) :
    memRead (raiseEvent s n rec).mem a = memRead s.mem a := by
  have hkey (port : Bool) (k : Nat) : a < hostKey port k := by
    unfold hostKey
    split <;> omega
  have hhost (t : State) (o : Owner) : memRead (hostEvent t n o rec).mem a = memRead t.mem a := by
    unfold hostEvent
    dsimp only
    rw [State.emit_mem]
    split
    · rw [setPortLink_mem]
      dsimp only
      rw [memRead_memWrites_other]
      exact not_and_of_not_left _ (Nat.not_le_of_gt (hkey _ _))
    · rw [setPortLink_mem]
  unfold raiseEvent
  dsimp only
  split_ifs <;> simp [hhost]

theorem raiseEvent_clusters (s : State) (n : BitVec 6) (rec : List Word) : (raiseEvent s n rec).clusters = s.clusters := by
  have hhost (t : State) (o : Owner) : (hostEvent t n o rec).clusters = t.clusters := by
    unfold hostEvent
    dsimp only
    split <;> rfl
  unfold raiseEvent
  dsimp only
  split_ifs <;> simp [hhost]

theorem memWrites_append (m : List Host.Cell) (k : Nat) (a b : List Byte) :
    memWrites m k (a ++ b) = memWrites (memWrites m k a) (k + a.length) b := by
  induction a generalizing m k with
  | nil => rfl
  | cons x t ih =>
    rw [List.cons_append, memWrites, memWrites, ih, List.length_cons]
    congr 1
    omega

/-- Words of equal bytes are equal. -/
theorem word8_congr {s t : State} {k : Nat} (h : ∀ j, j < 8 → memRead t.mem (k + j) = memRead s.mem (k + j)) : t.word8 k = s.word8 k := by
  rw [State.word8, State.word8, memNat, memNat, memReads_eq, memReads_eq]
  congr 2
  exact List.map_congr_left fun j hj => h j (List.mem_range.mp hj)

/-- Word i of a list of words that is written to memory. -/
theorem word8_memWrites_words {s : State} {m : List Host.Cell} {a i : Nat} {ws : List Word} {w : Word} (h : ws[i]? = some w) :
    ({ s with mem := memWrites m a (ws.flatMap (fun x => natBytes x.toNat 8)) } : State).word8 (a + 8 * i) = w := by
  induction ws generalizing m a i with
  | nil => cases h
  | cons x t ih =>
    have hcons : memWrites m a ((x :: t).flatMap (fun x => natBytes x.toNat 8))
        = memWrites (memWrites m a (natBytes x.toNat 8)) (a + 8) (t.flatMap (fun x => natBytes x.toNat 8)) := by
      rw [List.flatMap_cons, memWrites_append, length_natBytes]
    rw [hcons]
    cases i with
    | zero =>
      cases h
      refine (word8_congr (s := ({ s with mem := m } : State).putWord8 a w) fun j hj => ?_).trans (word8_putWord8_same ..)
      exact memRead_memWrites_other (by omega)
    | succ i =>
      rw [show a + 8 * (i + 1) = a + 8 + 8 * i by omega]
      exact ih h

section Record
variable {s : State} {fe : FeId} {r : TrapRec}

/-- Where the next record of a cluster's ring stands. -/
def ringSlot (cl : Cluster) : Nat := cl.trbase.toNat + 64 * (cl.trhead.toNat % 2 ^ (cl.trctl.extractLsb' 0 4).toNat)

/-- A record without a place in the ring is held by its front end. -/
theorem putRec_held (htr : s.trace.en = false)
    (hring : (ringEnabled (s.cluster (clusterOf fe)) && !ringFull (s.cluster (clusterOf fe)) && (s.ctx fe).held.isEmpty) = false) :
    (putRec s fe r).ctx fe = { s.ctx fe with held := (s.ctx fe).held ++ [r] } := by
  simp only [putRec, traceEv_disabled htr, hring]
  rw [if_neg Bool.false_ne_true, State.ctx_modCtx_same]
  rfl

/-- A record with a place in the ring stands there. -/
theorem putRec_ring (htr : s.trace.en = false)
    (hring : (ringEnabled (s.cluster (clusterOf fe)) && !ringFull (s.cluster (clusterOf fe)) && (s.ctx fe).held.isEmpty) = true) :
    (putRec s fe r).ctx fe = s.ctx fe ∧
    ((putRec s fe r).cluster (clusterOf fe)).trhead = (s.cluster (clusterOf fe)).trhead + 1#32 ∧
    (ringSlot (s.cluster (clusterOf fe)) + 64 ≤ 2 ^ 60 → ∀ i w, r.w[i]? = some w →
      (putRec s fe r).word8 (ringSlot (s.cluster (clusterOf fe)) + 8 * i) = w) := by
  simp only [putRec, traceEv_disabled htr, hring, if_true]
  refine ⟨State.ctx_of_ctxs (writeRec_frame ..).1 fe, ?_, fun hlow i w hw => ?_⟩
  · unfold State.cluster writeRec
    rw [raiseEvent_clusters]
    change ((State.setCluster _ _ _).cluster _).trhead = _
    rw [State.cluster_setCluster_same]
    rfl
  · have hi : i < 8 := by
      by_contra hge
      simp [Vector.getElem?_eq_none (Nat.not_lt.mp hge)] at hw
    have hlist : r.w.toList[i]? = some w := by simpa using hw
    refine (word8_congr fun j hj => ?_).trans (word8_memWrites_words (s := s) (m := s.mem) hlist)
    exact raiseEvent_memRead _ _ _ (by omega)

end Record

end Sys2Proof.Machine
end

section
/-! SUPPORT. The end of a group (02_encoding R40, 13_system R355 to R364): O58. -/
namespace Sys2Proof.Machine

/-! ### Traps of the back end -/

section TrapB
variable {s : State} {fe : FeId} {cause : Cause} {mask : BitVec 8} {prov word addr : Word}

/-- The record of a level-B fault. -/
def recordB (s : State) (fe : FeId) (cause : Cause) (mask : BitVec 8) (prov word addr : Word) : TrapRec :=
  mkRec (s.modCtx fe Ctx.rollback) fe cause false mask false false 0#16 (priFail (s.modCtx fe Ctx.rollback) fe cause) prov word addr 0#64 0#64

/-- The state before the outcome of a level-B fault: rolled back, with its record. -/
def recordedB (s : State) (fe : FeId) (cause : Cause) (mask : BitVec 8) (prov word addr : Word) : State :=
  pageRequest (putRec (s.modCtx fe Ctx.rollback) fe (recordB s fe cause mask prov word addr)) fe cause addr

theorem trapB_eq : trapB s fe cause mask prov word addr = classOutcome (recordedB s fe cause mask prov word addr) fe cause := rfl

/-- A page request is an output. -/
theorem pageRequest_frame (s : State) (fe : FeId) (cause : Cause) (addr : Word) :
    KeepsTurn s (pageRequest s fe cause addr) ∧ (pageRequest s fe cause addr).clusters = s.clusters ∧
    (pageRequest s fe cause addr).ctxs = s.ctxs := by
  unfold pageRequest
  dsimp only
  split <;> exact ⟨⟨rfl, rfl⟩, rfl, rfl⟩

theorem classOutcome_frame (s : State) (fe : FeId) (cause : Cause) :
    KeepsTurn s (classOutcome s fe cause) ∧ (classOutcome s fe cause).clusters = s.clusters ∧
    ((classOutcome s fe cause).ctx fe).held = (s.ctx fe).held := by
  unfold classOutcome
  split
  · exact killCtx_frame s fe
  all_goals exact ⟨⟨rfl, rfl⟩, rfl, by rw [State.ctx_modCtx_same]⟩

theorem recordedB_ctx : ∃ l, (recordedB s fe cause mask prov word addr).ctx fe = { (s.ctx fe).rollback with held := l } := by
  obtain ⟨l, hl, -⟩ := putRec_ctx (s.modCtx fe Ctx.rollback) fe fe (recordB s fe cause mask prov word addr)
  refine ⟨l, ?_⟩
  rw [recordedB, State.ctx_of_ctxs (pageRequest_frame ..).2.2, hl, State.ctx_modCtx_same]

theorem trapB_keepsTurn : KeepsTurn s (trapB s fe cause mask prov word addr) :=
  ((⟨rfl, rfl⟩ : KeepsTurn s (s.modCtx fe Ctx.rollback)).trans (putRec_keepsTurn ..)).trans
    ((pageRequest_frame ..).1.trans (classOutcome_frame ..).1)

/-- A fault of class P kills the context and fails its task (R352). -/
theorem trapB_kills (hcls : cause.cls = .p) :
    isBound ((trapB s fe cause mask prov word addr).ctx fe) = false ∧
    ∀ y ∈ (trapB s fe cause mask prov word addr).disp.tasks, y.id = (s.ctx fe).ident.task → y.st = .failed := by
  have hkill : trapB s fe cause mask prov word addr = killCtx (recordedB s fe cause mask prov word addr) fe := by
    rw [trapB_eq, classOutcome, hcls]
  obtain ⟨l, hl⟩ := recordedB_ctx (s := s) (fe := fe) (cause := cause) (mask := mask) (prov := prov) (word := word) (addr := addr)
  have hfail := killCtx_failed (recordedB s fe cause mask prov word addr) fe
  rw [hl] at hfail
  rw [hkill]
  exact ⟨killCtx_unbinds .., hfail⟩

/-- A fault of class T or D stops the context at its checkpoint (R364). -/
theorem trapB_stops (hcls : cause.cls = .t ∨ cause.cls = .d) :
    ∃ l, (trapB s fe cause mask prov word addr).ctx fe = { (s.ctx fe).rollback with held := l, life := .stopped, parkB := some cause } := by
  obtain ⟨l, hl⟩ := recordedB_ctx (s := s) (fe := fe) (cause := cause) (mask := mask) (prov := prov) (word := word) (addr := addr)
  refine ⟨l, ?_⟩
  have hstop : trapB s fe cause mask prov word addr
      = (recordedB s fe cause mask prov word addr).modCtx fe (fun c => { c with life := .stopped, parkB := some cause }) := by
    rcases hcls with h | h <;> rw [trapB_eq, classOutcome, h]
  rw [hstop, State.ctx_modCtx_same, hl]

/-- The record stands in the cluster's ring, or its front end holds it (R363). -/
theorem trapB_record (htr : s.trace.en = false) :
    ((ringEnabled (s.cluster (clusterOf fe)) && !ringFull (s.cluster (clusterOf fe)) && (s.ctx fe).held.isEmpty) = false →
      ((trapB s fe cause mask prov word addr).ctx fe).held = (s.ctx fe).held ++ [recordB s fe cause mask prov word addr]) ∧
    ((ringEnabled (s.cluster (clusterOf fe)) && !ringFull (s.cluster (clusterOf fe)) && (s.ctx fe).held.isEmpty) = true →
      ((trapB s fe cause mask prov word addr).ctx fe).held = (s.ctx fe).held ∧
      ((trapB s fe cause mask prov word addr).cluster (clusterOf fe)).trhead = (s.cluster (clusterOf fe)).trhead + 1#32 ∧
      (ringSlot (s.cluster (clusterOf fe)) + 64 ≤ 2 ^ 60 → ∀ i w, (recordB s fe cause mask prov word addr).w[i]? = some w →
        (trapB s fe cause mask prov word addr).word8 (ringSlot (s.cluster (clusterOf fe)) + 8 * i) = w)) := by
  have hheld : ((trapB s fe cause mask prov word addr).ctx fe).held
      = ((putRec (s.modCtx fe Ctx.rollback) fe (recordB s fe cause mask prov word addr)).ctx fe).held := by
    rw [trapB_eq, (classOutcome_frame ..).2.2, recordedB, State.ctx_of_ctxs (pageRequest_frame ..).2.2]
  have hmem : (trapB s fe cause mask prov word addr).mem
      = (putRec (s.modCtx fe Ctx.rollback) fe (recordB s fe cause mask prov word addr)).mem := by
    rw [trapB_eq, classOutcome_mem, recordedB, pageRequest_mem]
  have hcl : (trapB s fe cause mask prov word addr).clusters
      = (putRec (s.modCtx fe Ctx.rollback) fe (recordB s fe cause mask prov word addr)).clusters := by
    rw [trapB_eq, (classOutcome_frame ..).2.1, recordedB, (pageRequest_frame ..).2.1]
  have hback : ((s.modCtx fe Ctx.rollback).ctx fe).held = (s.ctx fe).held := by rw [State.ctx_modCtx_same]; rfl
  constructor
  · intro hring
    rw [hheld, putRec_held (s := s.modCtx fe Ctx.rollback) htr (by rw [hback]; exact hring)]
    exact congrArg (· ++ _) hback
  · intro hring
    obtain ⟨hctx, hhead, hwords⟩ := putRec_ring (r := recordB s fe cause mask prov word addr) (s := s.modCtx fe Ctx.rollback) htr
      (by rw [hback]; exact hring)
    refine ⟨by rw [hheld, hctx, hback], ?_, fun hlow i w hw => ?_⟩
    · rw [State.cluster, hcl]
      exact hhead
    · rw [State.word8, hmem]
      exact hwords hlow i w hw

end TrapB

/-! ### The fault of a group (R357) -/

theorem lowestFault_eq_none {l : List (BitVec 3 × Cause × Word × Word)} (h : lowestFault l = none) : l = [] := by
  cases l with
  | nil => rfl
  | cons x t =>
    unfold lowestFault at h
    split at h
    · cases h
    · split at h <;> cases h

/-- The lowest fault is one of them, and none has a lower slot. -/
theorem lowestFault_some {l : List (BitVec 3 × Cause × Word × Word)} {f : BitVec 3 × Cause × Word × Word} (h : lowestFault l = some f) :
    f ∈ l ∧ ∀ g ∈ l, ¬ g.1 < f.1 := by
  induction l generalizing f with
  | nil => cases h
  | cons x t ih =>
    unfold lowestFault at h
    split at h
    · next hnone =>
      cases h
      rw [lowestFault_eq_none hnone]
      exact ⟨List.mem_singleton_self _, fun g hg => by rw [List.mem_singleton.mp hg]; exact BitVec.lt_irrefl _⟩
    · next g hsome =>
      obtain ⟨hmem, hmin⟩ := ih hsome
      split at h
      · next hlt =>
        cases h
        exact ⟨List.mem_cons_of_mem _ hmem, List.forall_mem_cons.mpr ⟨fun hx => BitVec.lt_asymm hx hlt, hmin⟩⟩
      · next hge =>
        cases h
        refine ⟨List.mem_cons_self, List.forall_mem_cons.mpr ⟨BitVec.lt_irrefl _, fun y hy hlt => ?_⟩⟩
        have := hmin y hy
        simp only [BitVec.lt_def] at *
        omega

/-- The fault whose slot is below those of all others. -/
theorem lowestFault_eq {l : List (BitVec 3 × Cause × Word × Word)} {f : BitVec 3 × Cause × Word × Word} (hf : f ∈ l)
    (hlow : ∀ g ∈ l, g = f ∨ f.1 < g.1) : lowestFault l = some f := by
  cases h : lowestFault l with
  | none => rw [lowestFault_eq_none h] at hf; cases hf
  | some g =>
    obtain ⟨hg, hmin⟩ := lowestFault_some h
    rw [(hlow g hg).resolve_right (hmin f hf)]

/-- The mask of faulting slots. -/
theorem getLsbD_faultMask (l : List (BitVec 3 × Cause × Word × Word)) {b : Nat} (hb : b < 8) :
    (faultMask l).getLsbD b = true ↔ ∃ f ∈ l.map (·.1), f.toNat = b := by
  have hbit (n : Nat) : (1#8 <<< n).getLsbD b = true ↔ n = b := by
    rw [BitVec.getLsbD_shiftLeft]
    simp [BitVec.getLsbD_one, hb]
    omega
  have hfold (m : BitVec 8) : (l.foldl (fun m f => m ||| (1#8 <<< f.1.toNat)) m).getLsbD b = true ↔
      m.getLsbD b = true ∨ ∃ f ∈ l.map (·.1), f.toNat = b := by
    induction l generalizing m with
    | nil => simp
    | cons x t ih => rw [List.foldl_cons, ih, BitVec.getLsbD_or, Bool.or_eq_true, hbit, List.map_cons, List.exists_mem_cons_iff, or_assoc]
  rw [faultMask, hfold]
  simp

/-- Word 0 of the record of a level-B fault (R362). -/
def recordHead (prirc : BitVec 16) (fe : FeId) (mask code : BitVec 8) : Word :=
  prirc ++ 0#16 ++ 0#4 ++ BitVec.ofBool false ++ BitVec.ofBool false ++ fe ++ mask ++ BitVec.ofBool false ++ code

theorem recordHead_fields (prirc : BitVec 16) (fe : FeId) (mask code : BitVec 8) :
    (recordHead prirc fe mask code).extractLsb' 0 8 = code ∧ (recordHead prirc fe mask code).getLsbD 8 = false ∧
    (∀ b, b < 8 → (recordHead prirc fe mask code).getLsbD (9 + b) = mask.getLsbD b) ∧
    (recordHead prirc fe mask code).extractLsb' 17 9 = fe ∧ (recordHead prirc fe mask code).extractLsb' 26 22 = 0#22 ∧
    (recordHead prirc fe mask code).extractLsb' 48 16 = prirc := by
  refine ⟨?_, ?_, fun b hb => ?_, ?_, BitVec.eq_of_getLsbD_eq fun j hj => ?_, ?_⟩ <;> unfold recordHead
  · simp
  · simp [-BitVec.getLsbD_eq_getElem, getLsbD_append_parts]
  · simp only [getLsbD_append_parts]
    rw [if_neg (by omega), if_neg (by omega), if_pos (by omega)]
    congr 1
    omega
  · simp
  · interval_cases j <;> simp [-BitVec.getLsbD_eq_getElem, getLsbD_append_parts]
  · simp

/-- The words of the record of a level-B fault are those of R362. -/
theorem levelBRecord_recordB {s : State} {fe : FeId} {cause : Cause} {fs : List (BitVec 3 × Cause × Word × Word)} {prov word addr : Word} :
    LevelBRecord (fun k => (recordB s fe cause (faultMask fs) prov word addr).w[k]?.getD 0#64) cause (fs.map (·.1)) fe prov word addr
      (s.ctx fe).ident.task (s.ctx fe).ident.tenant s.time := by
  have hident : ((s.modCtx fe Ctx.rollback).ctx fe).ident = (s.ctx fe).ident := by rw [State.ctx_modCtx_same]; rfl
  obtain ⟨hcode, hlvl, hmask, hfe, hzero, hpri⟩ := recordHead_fields (priFail (s.modCtx fe Ctx.rollback) fe cause) fe (faultMask fs) cause.code
  refine ⟨hcode, hlvl, fun b hb => ?_, hfe, hzero, fun hne => ?_, rfl, rfl, rfl, rfl, rfl, ?_, rfl⟩
  · exact (Bool.coe_iff_coe.mpr (hmask b hb)).trans (getLsbD_faultMask fs hb)
  · exact hpri.trans (if_neg fun h => hne h.1)
  · change (0#28 ++ ((s.modCtx fe Ctx.rollback).ctx fe).ident.tenant ++ ((s.modCtx fe Ctx.rollback).ctx fe).ident.task : BitVec 64) = _
    rw [hident]

/-- The record's layout speaks of its eight words alone. -/
theorem levelBRecord_congr {r r' : Nat → Word} {cause : Cause} {faults : List (BitVec 3)} {fe : FeId} {prov word addr : Word}
    {task : BitVec 32} {tenant : BitVec 4} {time : Word} (h : ∀ k, k < 8 → r' k = r k)
    (hr : LevelBRecord r cause faults fe prov word addr task tenant time) :
    LevelBRecord r' cause faults fe prov word addr task tenant time := by
  simpa only [LevelBRecord, h 0 (by decide), h 1 (by decide), h 2 (by decide), h 3 (by decide), h 4 (by decide), h 5 (by decide),
    h 6 (by decide), h 7 (by decide)] using hr

/-- A record of a level-B fault has eight words. -/
theorem recordB_get {s : State} {fe : FeId} {cause : Cause} {mask : BitVec 8} {prov word addr : Word} {k : Nat} (hk : k < 8) :
    ∃ x, (recordB s fe cause mask prov word addr).w[k]? = some x :=
  ⟨_, Vector.getElem?_eq_getElem hk⟩

/-! ### The end of a group that does not commit -/

section Ends
variable {s : State} {i : Issue}

/-- The context as it stood before the group, but for the translations asked for and refused. -/
def savedCtx (s : State) (i : Issue) : Ctx := { i.saved with deny := (s.ctx i.fe).deny, asked := (s.ctx i.fe).asked }

theorem undoGroup_ctx (s : State) (i : Issue) : (undoGroup s i).ctx i.fe = savedCtx s i := State.ctx_setCtx_same ..

/-- A group with a fault of an op traps at the lowest slot (R357). -/
theorem faultGroup_eq {fs : List (BitVec 3 × Cause × Word × Word)} {f : BitVec 3 × Cause × Word × Word} (hcommit : i.commit = none)
    (hf : f ∈ fs) (hlow : ∀ g ∈ fs, (g = f ∨ f.1 < g.1) ∧ g.2.1 ≠ .a62) :
    faultGroup s i fs = trapB (undoGroup s i) i.fe f.2.1 (faultMask fs) i.grp.prov f.2.2.2
      (if f.2.1 = .p00 then storeAddrOf i.grp f.1 else f.2.2.1) := by
  have hreal : fs.filter (fun f => f.2.1 != .a62) = fs := List.filter_eq_self.mpr fun g hg => bne_iff_ne.mpr (hlow g hg).2
  simp only [faultGroup, hreal, lowestFault_eq hf fun g hg => (hlow g hg).1, hcommit]

/-- A group whose faults are all shadow reads goes back and stops for debug (R54). -/
theorem faultGroup_debug {fs : List (BitVec 3 × Cause × Word × Word)} (h : ∀ g ∈ fs, g.2.1 = .a62) :
    faultGroup s i fs = debugStop (undoGroup s i) i.fe := by
  have hreal : fs.filter (fun f => f.2.1 != .a62) = [] := List.filter_eq_nil_iff.mpr fun g hg => by simp [h g hg]
  simp only [faultGroup, hreal, lowestFault]

/-- What a rollback puts back (R358). -/
def RolledBack (o d : Ctx) : Prop :=
  d.regs.s = o.chk.regs.s ∧ d.regs.v = o.chk.regs.v ∧ d.regs.p = o.chk.regs.p ∧ d.regs.m = o.chk.regs.m ∧
  d.regs.fmt = o.chk.regs.fmt ∧ d.regs.kvpol = o.chk.regs.kvpol ∧ d.regs.skip = o.chk.regs.skip ∧ d.regs.loop = o.chk.regs.loop ∧
  d.regs.softmax = o.chk.regs.softmax ∧ d.regs.win = o.chk.regs.win ∧ d.stq.gate = [] ∧ d.spm.undo = [] ∧ d.gen.runnel = [] ∧
  d.gen.g = o.chk.gen.g ∧ d.gen.b = o.chk.gen.b ∧ d.gen.gpc = o.chk.gen.gpc ∧ d.gen.eprog = o.chk.gen.eprog

theorem rolledBack_rollback (c : Ctx) : RolledBack c c.rollback := by
  have hgen (b : Bool) (g : Gen) (h : g = c.gen.rollback c.chk.gen) : (if b then { g with stat := .halted } else g).runnel = [] ∧
      (if b then { g with stat := .halted } else g).g = c.chk.gen.g ∧ (if b then { g with stat := .halted } else g).b = c.chk.gen.b ∧
      (if b then { g with stat := .halted } else g).gpc = c.chk.gen.gpc ∧ (if b then { g with stat := .halted } else g).eprog = c.chk.gen.eprog := by
    subst h
    split <;> exact ⟨rfl, rfl, rfl, rfl, rfl⟩
  exact ⟨rfl, rfl, rfl, rfl, rfl, rfl, rfl, rfl, rfl, rfl, rfl, rfl, hgen _ _ rfl⟩

/-- A debug stop goes back to the checkpoint and parks nothing (R54, R360). -/
theorem debugStop_ctx {fe : FeId} (hsilent : (s.ctx fe).stops.silent = false) (hengine : (s.ctx fe).stops.engine = []) :
    ∃ (l : List TrapRec) (st : Stops), (debugStop s fe).ctx fe
      = { (s.ctx fe).rollback with held := l, stops := st, life := .stopped, frz := .none, parkB := none } := by
  have hstop (u : State) (hu : ∃ st, u.ctx fe = { (s.ctx fe).rollback with stops := st }) (cause : Cause) (hcls : cause.cls = .a) (sw : BitVec 16)
      (f : Stops → Stops) : ∃ (l : List TrapRec) (st : Stops), ((stopAt u fe cause false sw).modStops fe f).ctx fe
      = { (s.ctx fe).rollback with held := l, stops := st, life := .stopped, frz := .none, parkB := none } := by
    obtain ⟨st, hu⟩ := hu
    obtain ⟨l, hl, -⟩ := putRec_ctx u fe fe (mkRec u fe cause false 0#8 false false sw 0#16 (u.ctx fe).chk.prov (u.ctx fe).chk.word 0#64 0#64 0#64)
    refine ⟨l, f st, ?_⟩
    rw [State.modStops, State.ctx_modCtx_same, stopAt, State.ctx_modCtx_same, trapAsync, hl, hu, if_pos hcls]
  have hctx : ((s.modCtx fe Ctx.rollback).modStops fe (fun t => { t with a62 := true })).ctx fe
      = { (s.ctx fe).rollback with stops := { (s.ctx fe).stops with a62 := true } } := by
    rw [State.modStops, State.ctx_modCtx_same, State.ctx_modCtx_same]
    rfl
  have hturn := fun cause hcls sw f => hstop _ ⟨_, hctx⟩ cause hcls sw f
  unfold debugStop takeStop
  simp only [hctx, hsilent, hengine, lowestEngine, if_false, if_true, Bool.false_eq_true]
  split
  · next h => cases h
  · exact hturn .a60 rfl _ _
  · split
    · exact hturn .a61 rfl _ _
    · exact hturn .a62 rfl _ _

/-! ### The end of a group (R40) -/

/-- A freeze that asks for nothing changes the context alone (R111). -/
theorem freezeBefore_plain {z : Frz} (hz : ∀ ea b, z ≠ .translate ea b) (hz' : ∀ k ea, z ≠ .spout k ea) :
    freezeBefore s i z = (undoGroup s i).modCtx i.fe (fun c => { c with frz := z }) := by
  cases z with
  | translate ea b => exact absurd rfl (hz ea b)
  | spout k ea => exact absurd rfl (hz' k ea)
  | _ => rfl

/-- The group that issues ends next, and no other group begins then. -/
structure GroupEnds (s : State) (i : Issue) (rest : List Act) : Prop where
  agenda : s.agenda = .fin i.fe :: rest
  issue : s.issue = some i
  pair : i.pair = none
  rival : i.rival = none

/-- The state in which a group ends. -/
def endState (s : State) (rest : List Act) : State := { s with agenda := rest, issue := none }

section Step
variable {rest : List Act} (h : GroupEnds s i rest)
include h

/-- A group that cannot issue freezes its context. -/
theorem step_retry {z : Frz} (hretry : i.retry = some z) (hcommit : i.commit = none) :
    step s = .next (freezeBefore (endState s rest) i z) := by
  rw [step_of_agenda h.agenda]
  simp only [runAct, finishGroup, h.issue, hretry, hcommit, h.pair, h.rival]
  rw [if_neg (not_not.mpr rfl)]
  rfl

/-- A group with faults commits nothing. -/
theorem step_faults (hretry : i.retry = none) (hfaults : i.faults ≠ []) :
    step s = .next (faultGroup (endState s rest) i i.faults) := by
  obtain ⟨f, fs, hfs⟩ := List.exists_cons_of_ne_nil hfaults
  rw [step_of_agenda h.agenda]
  simp only [runAct, finishGroup, h.issue, hretry, hfs, h.pair, h.rival]
  rw [if_neg (not_not.mpr rfl)]
  rfl

/-- A group without faults commits. -/
theorem step_commit (hretry : i.retry = none) (hcommit : i.commit = none) (hfaults : i.faults = []) :
    step s = .next (commitGroup (endState s rest) i) := by
  rw [step_of_agenda h.agenda]
  simp only [runAct, finishGroup, h.issue, hretry, hfaults, hcommit, h.pair, h.rival]
  rw [if_neg (not_not.mpr rfl)]
  rfl

/-- An entry of the commit buffer without faults leaves it. -/
theorem step_entry {e : EngOp} (hretry : i.retry = none) (hcommit : i.commit = some e) (hfaults : i.faults = []) :
    step s = .next (commitEntry (endState s rest) i) := by
  rw [step_of_agenda h.agenda]
  simp only [runAct, finishGroup, h.issue, hretry, hfaults, hcommit]
  rw [if_neg (not_not.mpr rfl)]
  rfl

end Step

/-- A commit changes the context of the group, and says which vector ops run a second cycle. -/
theorem commitGroup_commits (h : ¬ (i.mark = true ∧ 32 < (s.ctx i.fe).pend.length)) :
    (commitGroup s i).ctx i.fe = ((s.ctx i.fe).fillSrc i).afterGroup i ∧ KeepsTurn s (commitGroup s i) ∧ (commitGroup s i).mem = s.mem := by
  have hctx : (s.modCtx i.fe (fun c => (c.fillSrc i).afterGroup i)).ctx i.fe = ((s.ctx i.fe).fillSrc i).afterGroup i := State.ctx_modCtx_same ..
  unfold commitGroup
  rw [if_neg (by simpa using h)]
  dsimp only
  split
  · exact ⟨hctx, ⟨rfl, rfl⟩, rfl⟩
  · exact ⟨hctx, ⟨rfl, rfl⟩, rfl⟩

/-- More landings after a mark than the record holds are P01 of the first word (R356). -/
theorem commitGroup_full (h : i.mark = true ∧ 32 < (s.ctx i.fe).pend.length) :
    commitGroup s i = faultGroup s i [(BitVec.ofNat 3 ((groupSlots i.grp.words).headD 0), .p01, 0#64, firstWord i.grp.words)] := by
  unfold commitGroup
  rw [if_pos (by simpa using h)]

/-- The context after a group has issued, outside a nest and a window. -/
theorem afterGroup_eq {c : Ctx} (hskip : i.skipped = false) (hreplay : i.replay = false) (hloop : i.saved.regs.loop.active = false)
    (hwin : i.saved.regs.win.opened = false) :
    c.afterGroup i = if i.mark
      then ({ c with gen := { c.gen with runnel := c.gen.runnel.tail }, denial := 0#9 } : Ctx).nextBeat.checkpoint i.grp
      else { ({ c with gen := { c.gen with runnel := c.gen.runnel.tail }, denial := 0#9 } : Ctx).nextBeat with clean := false } := by
  simp only [Ctx.afterGroup, hskip, hreplay, Ctx.winStep, hwin, Ctx.loopStep, hloop]
  rfl

end Ends

/-- Settles O58: a step ends the group by one of its cases, and leaves what a commit, a trap or a stop leaves. -/
theorem groupsEndInCommitFaultOrFreeze : Obligations.GroupsEndInCommitFaultOrFreeze := by
  unfold Obligations.GroupsEndInCommitFaultOrFreeze
  intro s i rest f z fe c o cl a ring record full back htr hagenda hissue hpair hrival
  have hends : GroupEnds s i rest := ⟨hagenda, hissue, hpair, hrival⟩
  have hback : back (savedCtx (endState s rest) i).rollback := rolledBack_rollback _
  have hundo : (undoGroup (endState s rest) i).ctx i.fe = savedCtx (endState s rest) i := undoGroup_ctx ..
  refine ⟨fun hretry hcommit hfaults hfull hskip hreplay hloop hwin => ?_, fun hretry hcommit hf hlow => ?_,
    fun hretry hcommit hfaults hfull => ?_, fun hretry hcommit hne hall hsilent hengine => ?_, fun hretry hcommit hz hz' => ?_,
    fun k ea hretry hcommit hcls => ?_, fun hretry hcommit hfaults => ?_⟩
  · obtain ⟨hctx, hturn, hmem⟩ := commitGroup_commits (s := endState s rest) hfull
    refine ⟨_, step_commit hends hretry hcommit hfaults, hturn.agenda, hturn.issue, fun x => congrArg (memRead · x) hmem, ?_⟩
    rw [hctx, afterGroup_eq hskip hreplay hloop hwin]
    cases hmark : i.mark
    · exact ⟨rfl, rfl, rfl, fun _ => ⟨rfl, rfl, rfl⟩, fun hm => Bool.noConfusion hm⟩
    · exact ⟨rfl, rfl, rfl, fun hm => Bool.noConfusion hm, fun _ => ⟨rfl, rfl, rfl⟩⟩
  · obtain ⟨hheld, hring⟩ := trapB_record (s := undoGroup (endState s rest) i) (fe := i.fe) (cause := f.2.1) (mask := faultMask i.faults)
      (prov := i.grp.prov) (word := f.2.2.2) (addr := if f.2.1 = .p00 then storeAddrOf i.grp f.1 else f.2.2.1) htr
    obtain ⟨hagenda', hissue'⟩ := trapB_keepsTurn (s := undoGroup (endState s rest) i) (fe := i.fe) (cause := f.2.1) (mask := faultMask i.faults)
      (prov := i.grp.prov) (word := f.2.2.2) (addr := if f.2.1 = .p00 then storeAddrOf i.grp f.1 else f.2.2.1)
    have hwords := levelBRecord_recordB (s := undoGroup (endState s rest) i) (fe := i.fe) (cause := f.2.1) (fs := i.faults)
      (prov := i.grp.prov) (word := f.2.2.2) (addr := if f.2.1 = .p00 then storeAddrOf i.grp f.1 else f.2.2.1)
    rw [hundo] at hheld hring hwords
    refine ⟨_, (step_faults hends hretry (List.ne_nil_of_mem hf)).trans (congrArg _ (faultGroup_eq hcommit hf hlow)), hagenda', hissue',
      fun hno => ⟨_, hheld hno, hwords⟩, fun hyes hlow => ?_, fun hp => ?_, fun htd => ?_⟩
    · obtain ⟨hh, hhead, hat⟩ := hring hyes
      refine ⟨levelBRecord_congr (fun k hk => ?_) hwords, hh, hhead⟩
      obtain ⟨x, hx⟩ := recordB_get hk
      rw [hx]
      exact hat hlow k x hx
    · obtain ⟨hgone, hfailed⟩ := trapB_kills (s := undoGroup (endState s rest) i) (fe := i.fe) (mask := faultMask i.faults)
        (prov := i.grp.prov) (word := f.2.2.2) (addr := if f.2.1 = .p00 then storeAddrOf i.grp f.1 else f.2.2.1) hp
      rw [hundo] at hfailed
      exact ⟨hgone, hfailed⟩
    · obtain ⟨l, hd⟩ := trapB_stops (s := undoGroup (endState s rest) i) (fe := i.fe) (mask := faultMask i.faults)
        (prov := i.grp.prov) (word := f.2.2.2) (addr := if f.2.1 = .p00 then storeAddrOf i.grp f.1 else f.2.2.1) htd
      rw [hundo] at hd
      rw [hd]
      exact ⟨rfl, rfl, hback⟩
  · obtain ⟨hgone, hfailed⟩ := trapB_kills (s := undoGroup (endState s rest) i) (fe := i.fe) (cause := .p01)
      (mask := faultMask [(BitVec.ofNat 3 ((groupSlots i.grp.words).headD 0), .p01, 0#64, firstWord i.grp.words)]) (prov := i.grp.prov)
      (word := firstWord i.grp.words) (addr := 0#64) rfl
    rw [hundo] at hfailed
    refine ⟨_, (step_commit hends hretry hcommit hfaults).trans (congrArg _ ?_), hgone, hfailed⟩
    rw [commitGroup_full (s := endState s rest) hfull, faultGroup_eq hcommit (List.mem_singleton_self _) (by simp)]
    rfl
  · obtain ⟨l, st, hd⟩ := debugStop_ctx (s := undoGroup (endState s rest) i) (fe := i.fe) (by rw [hundo]; exact hsilent)
      (by rw [hundo]; exact hengine)
    rw [hundo] at hd
    refine ⟨_, (step_faults hends hretry hne).trans (congrArg _ (faultGroup_debug hall)), ?_⟩
    rw [hd]
    exact ⟨rfl, rfl, hback⟩
  · refine ⟨_, step_retry hends hretry hcommit, ?_⟩
    rw [freezeBefore_plain hz hz']
    refine ⟨rfl, ?_, fun _ => rfl⟩
    rw [State.ctx_modCtx_same, hundo]
    rfl
  · obtain ⟨l, hd⟩ := trapB_stops (s := (undoGroup (endState s rest) i).modCtx i.fe (fun c => { c with frz := .spout k ea })) (fe := i.fe)
      (cause := k) (mask := 0#8) (prov := i.grp.prov) (word := firstWord i.grp.words) (addr := ea) (.inl hcls)
    rw [State.ctx_modCtx_same, hundo] at hd
    refine ⟨_, step_retry hends hretry hcommit, ?_⟩
    rw [freezeBefore, hd]
    exact ⟨rfl, rfl, hback⟩
  · obtain ⟨e, he⟩ := hcommit
    exact step_entry hends hretry he hfaults

end Sys2Proof.Machine
end

section
/-! SUPPORT. Packed elements, registers that keep some of their bits, and the conversions and algebra ops (O13). -/
namespace Sys2Proof.Machine

/-! ### Packed elements (R158, R159) -/

theorem testBit_bitsAt {wd : Nat} (hwd : 0 < wd) (i x j : Nat) :
    (bitsAt wd i x).testBit j = (decide (j / wd = i) && x.testBit (j % wd)) := by
  have hdiv : j / wd = i ↔ wd * i ≤ j ∧ j - wd * i < wd := by
    rw [Nat.div_eq_iff hwd, Nat.mul_comm]
    omega
  rw [bitsAt, Nat.testBit_shiftLeft, Nat.testBit_mod_two_pow]
  by_cases h : j / wd = i
  · subst h
    have hj := Nat.div_add_mod j wd
    have hlt := Nat.mod_lt j hwd
    simp [show j - wd * (j / wd) = j % wd by omega, show wd * (j / wd) ≤ j by omega, hlt]
  · have := hdiv.not.mp h
    simp only [h, decide_false, Bool.false_and, Bool.and_eq_false_iff, decide_eq_false_iff_not]
    omega

/-- Elements added one by one do not overlap: each bit is that of its element. -/
theorem getLsbD_foldl_bitsAt {wd : Nat} (hwd : 0 < wd) {l : List Nat} (hl : l.Nodup) (f : Nat → Nat) {acc : Nat}
    (hacc : ∀ j, j / wd ∈ l → (BitVec.ofNat 2048 acc).getLsbD j = false) {j : Nat} (hj : j < 2048) :
    (BitVec.ofNat 2048 (l.foldl (fun a i => a + bitsAt wd i (f i)) acc)).getLsbD j
      = ((BitVec.ofNat 2048 acc).getLsbD j || decide (j / wd ∈ l) && (f (j / wd)).testBit (j % wd)) := by
  induction l generalizing acc with
  | nil => simp
  | cons i l ih =>
    obtain ⟨hi, hl⟩ := List.nodup_cons.mp hl
    have hadd (k : Nat) : (BitVec.ofNat 2048 (acc + bitsAt wd i (f i))).getLsbD k
        = ((BitVec.ofNat 2048 acc).getLsbD k || (BitVec.ofNat 2048 (bitsAt wd i (f i))).getLsbD k) := by
      rw [BitVec.ofNat_add, BitVec.add_eq_or_of_and_eq_zero, BitVec.getLsbD_or]
      refine BitVec.eq_of_getLsbD_eq fun k hk => ?_
      rw [BitVec.getLsbD_and, BitVec.getLsbD_ofNat (x := bitsAt wd i (f i)), testBit_bitsAt hwd, BitVec.getLsbD_zero]
      by_cases hki : k / wd = i
      · rw [hacc k (hki ▸ List.mem_cons_self), Bool.false_and]
      · simp [hki]
    rw [List.foldl_cons, ih hl fun k hk => ?_, hadd, BitVec.getLsbD_ofNat (x := bitsAt wd i (f i)), testBit_bitsAt hwd]
    · by_cases hji : j / wd = i
      · simp [hji, hi, hj]
      · simp [hji]
    · have hki : k / wd ≠ i := fun h => hi (h ▸ hk)
      rw [hadd, hacc k (List.mem_cons_of_mem _ hk), BitVec.getLsbD_ofNat (x := bitsAt wd i (f i)), testBit_bitsAt hwd]
      simp [hki]

theorem getLsbD_elemBits {wd : Nat} (hwd : 0 < wd) {l : List Nat} (hl : l.Nodup) (f : Nat → Nat) {j : Nat} (hj : j < 2048) :
    (elemBits wd l f).getLsbD j = (decide (j / wd ∈ l) && (f (j / wd)).testBit (j % wd)) := by
  rw [elemBits, getLsbD_foldl_bitsAt hwd hl f (fun j _ => by simp) hj]
  simp

theorem getLsbD_elemMask {wd : Nat} (hwd : 0 < wd) {l : List Nat} (hl : l.Nodup) {j : Nat} (hj : j < 2048) :
    (elemMask wd l).getLsbD j = decide (j / wd ∈ l) := by
  rw [elemMask, getLsbD_elemBits hwd hl _ hj, Nat.testBit_two_pow_sub_one, decide_eq_true (Nat.mod_lt _ hwd), Bool.and_true]

/-- An element is known by its bits. -/
theorem elem_eq_of_bits {bits : BitVec 2048} {wd i x : Nat} (h : ∀ b, b < wd → bits.getLsbD (wd * i + b) = x.testBit b) :
    elem bits wd i = x % 2 ^ wd := by
  refine Nat.eq_of_testBit_eq fun b => ?_
  rw [elem, BitVec.testBit_toNat, BitVec.getLsbD_extractLsb', Nat.testBit_mod_two_pow]
  by_cases hb : b < wd
  · rw [h b hb]
  · simp [hb]

theorem getLsbD_elemGranules {wd q : Nat} (hq : q < 4) (l : List Nat) :
    (elemGranules wd l).getLsbD q = true ↔ ∃ i ∈ l, wd * i / 512 = q ∨ (wd * i + wd - 1) / 512 = q := by
  rw [elemGranules, getLsbD_quarterMask _ hq]
  simp

/-- The bits of one element stand for it. -/
theorem elem_index {wd b : Nat} (hb : b < wd) (i : Nat) : (wd * i + b) / wd = i ∧ (wd * i + b) % wd = b := by
  rw [Nat.mul_add_div (Nat.zero_lt_of_lt hb), Nat.mul_add_mod, Nat.div_eq_of_lt hb, Nat.mod_eq_of_lt hb]
  exact ⟨rfl, rfl⟩

/-- Elements that fit a register have their bits in it. -/
theorem elem_bit_lt {wd n i b : Nat} (hfit : wd * n ≤ 2048) (hi : i < n) (hb : b < wd) : wd * i + b < 2048 := by
  have := Nat.mul_le_mul_left wd (Nat.succ_le_of_lt hi)
  rw [Nat.mul_succ] at this
  omega

/-! ### A register that keeps some of its bits (R146, R159) -/

/-- What `landBits` lands over a register. -/
def mergedBits (old : VReg) (new wmask : BitVec 2048) (poison : BitVec 4) (fl : Bool × Bool) : Landed where
  bits := (new &&& wmask) ||| (old.bits &&& ~~~wmask)
  mask := lanesMask 1 ((List.range 256).filter (fun i => lineByte wmask i != 0#8))
  marks := poison ||| (old.poison &&& quarterMask (fun q => wmask.extractLsb' (512 * q) 512 != BitVec.allOnes 512))
  nan := fl.1
  ovf := fl.2

section Merged
variable {old : VReg} {new wmask : BitVec 2048} {poison : BitVec 4} {fl : Bool × Bool}

theorem mergedBits_new {j : Nat} (h : wmask.getLsbD j = true) :
    (mergedBits old new wmask poison fl).bits.getLsbD j = new.getLsbD j := by
  simp [mergedBits, h]
theorem mergedBits_old {j : Nat} (hj : j < 2048) (h : wmask.getLsbD j = false) :
    (mergedBits old new wmask poison fl).bits.getLsbD j = old.bits.getLsbD j := by
  simp [mergedBits, -BitVec.getLsbD_eq_getElem, h, hj]

theorem lineByte_ne_zero {k : Nat} : (lineByte wmask k != 0#8) = true ↔ ∃ j, 8 * k ≤ j ∧ j < 8 * k + 8 ∧ wmask.getLsbD j = true := by
  rw [bne_iff_ne, Ne, BitVec.eq_of_getLsbD_eq_iff]
  simp only [lineByte, BitVec.getLsbD_zero, BitVec.getLsbD_extractLsb', not_forall]
  constructor
  · rintro ⟨b, hb, h⟩
    exact ⟨8 * k + b, by omega, by omega, by simpa [hb] using h⟩
  · rintro ⟨j, hlo, hhi, h⟩
    refine ⟨j - 8 * k, by omega, ?_⟩
    simp [show 8 * k + (j - 8 * k) = j by omega, show j - 8 * k < 8 by omega, h]

theorem granule_kept {q : Nat} : (wmask.extractLsb' (512 * q) 512 != BitVec.allOnes 512) = true
    ↔ ∃ j, 512 * q ≤ j ∧ j < 512 * q + 512 ∧ wmask.getLsbD j = false := by
  rw [bne_iff_ne, Ne, BitVec.eq_of_getLsbD_eq_iff]
  simp only [BitVec.getLsbD_allOnes, BitVec.getLsbD_extractLsb', not_forall]
  constructor
  · rintro ⟨b, hb, h⟩
    exact ⟨512 * q + b, by omega, by omega, by simpa [hb] using h⟩
  · rintro ⟨j, hlo, hhi, h⟩
    refine ⟨j - 512 * q, by omega, ?_⟩
    simp [show 512 * q + (j - 512 * q) = j by omega, show j - 512 * q < 512 by omega, h]

/-- A register merged where the mask leaves out the kept elements. -/
theorem mergedBits_merges {wd : Nat} {act : List Nat} {kept extra : Nat → Prop} {bad : Nat → Bool}
    (hmask : ∀ j, j < 2048 → (wmask.getLsbD j = true ↔ ¬ kept (j / wd))) (hkept : ∀ i, kept i → wd * (i + 1) ≤ 2048)
    (hmarks : ∀ q, q < 4 → (poison.getLsbD q = true ↔
      (∃ i, i ∈ act ∧ bad i = true ∧ (wd * i / 512 = q ∨ (wd * i + wd - 1) / 512 = q)) ∨ extra q)) :
    (mergedBits old new wmask poison fl).merges old wd act kept bad extra := by
  have hfalse (j : Nat) (hj : j < 2048) : wmask.getLsbD j = false ↔ kept (j / wd) := by
    rw [← Bool.not_eq_true, hmask j hj, not_not]
  refine ⟨fun i j hi hj => ?_, fun k hk => ?_, fun q hq => ?_⟩
  · have hlt := elem_bit_lt (hkept i hi) (Nat.lt_succ_self i) hj
    exact mergedBits_old hlt ((hfalse _ hlt).mpr (by rwa [(elem_index hj i).1]))
  · rw [mergedBits, getLsbD_lanesMask Nat.one_pos, Nat.div_one, List.mem_filter, List.mem_range, lineByte_ne_zero]
    simp only [hk, true_and]
    refine exists_congr fun j => and_congr_right fun _ => and_congr_right fun hj => hmask j (by omega)
  · rw [mergedBits]
    dsimp only
    rw [BitVec.getLsbD_or, BitVec.getLsbD_and, getLsbD_quarterMask _ hq, Bool.or_eq_true, Bool.and_eq_true, granule_kept,
      hmarks q hq, or_assoc]
    refine or_congr_right (or_congr_right (and_congr_right fun _ => exists_congr fun j => and_congr_right fun _ =>
      and_congr_right fun hj => hfalse j (by omega)))

/-- An element that is written holds its value, as many bits as it has. -/
theorem elem_mergedBits {wd n i x : Nat} (hfit : wd * n ≤ 2048) (hi : i < n)
    (hmask : ∀ j, j < 2048 → j / wd = i → wmask.getLsbD j = true)
    (hnew : ∀ j, j < 2048 → j / wd = i → new.getLsbD j = x.testBit (j % wd)) :
    elem (mergedBits old new wmask poison fl).bits wd i = x % 2 ^ wd := by
  refine elem_eq_of_bits fun b hb => ?_
  have hlt := elem_bit_lt hfit hi hb
  obtain ⟨hdiv, hmod⟩ := elem_index hb i
  rw [mergedBits_new (hmask _ hlt hdiv), hnew _ hlt hdiv, hmod]

end Merged

/-! ### What an op lands -/

section Lands
variable {i : Instr} {vb ok : Bool} {h : OpHdr} {lat : Nat} {d : BitVec 6} {srcs : List VSrc} {good : State → List VReg → Landed → Prop}

/-- An op that lands a function of its sources and of what pops leave (R144, R148). -/
theorem landsElements_of_landVec {f : Ctx → List VReg → Landed} {bs : List VReg → List Band}
    (hexec : ∀ s, exec i s = .next (vecOp s vb h ok srcs (fun u vs =>
      landVec u vb h lat d (f u.here vs).bits (f u.here vs).mask (f u.here vs).marks (bs vs) false (f u.here vs).nan (f u.here vs).ovf)))
    (hok : ok = true) (hbs : ∀ s vs, srcVals (State.here s) srcs = .ok vs → bs vs = vs.map (·.band))
    (hf : ∀ c c', PopKeeps c c' → f c' = f c) (hgood : ∀ s vs, srcVals (State.here s) srcs = .ok vs → good s vs (f s.here vs)) :
    LandsElements i vb h lat d srcs good := by
  subst hok
  intro s vs band hrun hsrc hband
  have hpop := popped_popKeeps s srcs
  refine ⟨f s.here vs, hgood s vs hsrc, ?_⟩
  rw [hexec, vecOp_runs hrun hsrc, hbs s vs hsrc, landVec_of_vecBands hpop hband]
  rw [State.here, popped_cur, hf _ _ hpop]


end Lands

theorem flagsOf_cvFlags (bits : BitVec 2048) (mask : BitVec 256) (marks : BitVec 4) (cv : Nat → Cv) (act : List Nat) :
    (Landed.mk bits mask marks (cvFlags (act.map cv)).1 (cvFlags (act.map cv)).2).flagsOf cv act :=
  ⟨List.any_map .., List.any_map ..⟩

/-- The marks of a conversion: the granules of its poisoned active elements. -/
theorem getLsbD_poisonedGranules {wd q : Nat} (hq : q < 4) (act : List Nat) (bad : Nat → Bool) :
    (elemGranules wd (act.filter bad)).getLsbD q = true ↔
      ∃ i, i ∈ act ∧ bad i = true ∧ (wd * i / 512 = q ∨ (wd * i + wd - 1) / 512 = q) := by
  simp only [getLsbD_elemGranules hq, List.mem_filter, and_assoc]

/-! ### `vcvt` (R158) -/

/-- What a conversion of the active ones of n elements lands. -/
def cvtLanded (fs fd : Fmt) (n : Nat) (act : List Nat) (cv : Nat → Cv) (old va : VReg) : Landed :=
  mergedBits old (elemBits fd.width act (fun i => (cv i).bits)) (elemMask fd.width act ||| ~~~elemMask fd.width (List.range n))
    (elemGranules fd.width (act.filter (elemPoisoned va fs.width))) (cvFlags (act.map cv))

section Cvt
variable {fs fd : Fmt} {n : Nat} {act : List Nat} {cv : Nat → Cv} {old va : VReg}

theorem getLsbD_cvtMask {wd j : Nat} (hwd : 0 < wd) (hnodup : act.Nodup) (hj : j < 2048) :
    (elemMask wd act ||| ~~~elemMask wd (List.range n)).getLsbD j = true ↔ ¬ (j / wd < n ∧ j / wd ∉ act) := by
  rw [BitVec.getLsbD_or, BitVec.getLsbD_not, getLsbD_elemMask hwd hnodup hj, getLsbD_elemMask hwd List.nodup_range hj]
  simp only [hj, decide_true, Bool.true_and, Bool.or_eq_true, decide_eq_true_eq, Bool.not_eq_true', decide_eq_false_iff_not, List.mem_range]
  tauto

theorem cvtLanded_good (hwd : 0 < fd.width) (hfit : fd.width * n ≤ 2048) (hnodup : act.Nodup) (hact : ∀ i ∈ act, i < n) :
    (∀ i ∈ act, elem (cvtLanded fs fd n act cv old va).bits fd.width i = (cv i).bits % 2 ^ fd.width) ∧
    (∀ j, fd.width * n ≤ j → (cvtLanded fs fd n act cv old va).bits.getLsbD j = false) ∧
    (cvtLanded fs fd n act cv old va).merges old fd.width act (fun i => i < n ∧ i ∉ act) (elemPoisoned va fs.width) (fun _ => False) ∧
    (cvtLanded fs fd n act cv old va).flagsOf cv act := by
  refine ⟨fun i hi => ?_, fun j hj => ?_, ?_, flagsOf_cvFlags ..⟩
  · refine elem_mergedBits hfit (hact i hi) (fun j hj hji => ?_) fun j hj hji => ?_
    · exact (getLsbD_cvtMask hwd hnodup hj).mpr fun h => h.2 (hji ▸ hi)
    · rw [getLsbD_elemBits hwd hnodup _ hj, hji, decide_eq_true hi, Bool.true_and]
  · by_cases hlt : j < 2048
    · have hn : n ≤ j / fd.width := (Nat.le_div_iff_mul_le hwd).mpr (by rwa [Nat.mul_comm])
      have hout : j / fd.width ∉ act := fun h => absurd (hact _ h) (Nat.not_lt.mpr hn)
      rw [cvtLanded, mergedBits_new ((getLsbD_cvtMask hwd hnodup hlt).mpr fun h => absurd h.1 (Nat.not_lt.mpr hn)),
        getLsbD_elemBits hwd hnodup _ hlt, decide_eq_false hout, Bool.false_and]
    · exact BitVec.getLsbD_of_ge _ _ (Nat.not_lt.mp hlt)
  · refine mergedBits_merges (fun j hj => getLsbD_cvtMask hwd hnodup hj) (fun i hi => ?_) fun q hq => ?_
    · exact (Nat.mul_le_mul_left _ (Nat.succ_le_of_lt hi.1)).trans hfit
    · rw [getLsbD_poisonedGranules hq, or_false]

end Cvt

theorem ofCode_width_pos (c : BitVec 4) : 0 < ((Fmt.ofCode c).getD .e8m0).width := by revert c; decide
theorem vty_width_pos (t : VTy) : 0 < t.fmt.width := by cases t <;> decide

/-- Each destination format of `vcvt` has bits. -/
theorem cvtFmts_width_pos (t : VTy) (nfmt : BitVec 4) (nsrc narrow : Bool) (dtype : BitVec 4) :
    0 < (cvtFmts t nfmt nsrc narrow dtype).2.width := by
  cases narrow with
  | false => exact vty_width_pos _
  | true =>
    cases nsrc with
    | false => exact ofCode_width_pos nfmt
    | true => exact vty_width_pos t

/-! ### `vquant` (R159) -/

/-- The scale bytes of nb blocks, at the top of the register. -/
def scaleWord (nb : Nat) (sb : Nat → Nat) : BitVec 2048 :=
  BitVec.ofNat 2048 ((List.range nb).foldl (fun acc b => acc + (sb b) <<< (8 * (256 - nb + b))) 0)

/-- Scale bytes are elements of eight bits. -/
theorem scaleWord_eq_elemBits {nb : Nat} {sb : Nat → Nat} (hsb : ∀ b, sb b < 256) :
    scaleWord nb sb = elemBits 8 ((List.range nb).map (256 - nb + ·)) (fun i => sb (i - (256 - nb))) := by
  have hbyte (b : Nat) : sb b % 2 ^ 8 = sb b := Nat.mod_eq_of_lt (hsb b)
  simp only [scaleWord, elemBits, List.foldl_map, bitsAt, Nat.add_sub_cancel_left, hbyte]

theorem getLsbD_scaleWord {nb j : Nat} {sb : Nat → Nat} (hsb : ∀ b, sb b < 256) (hj : j < 2048) (hnb : nb ≤ 256) :
    (scaleWord nb sb).getLsbD j = (decide (256 - nb ≤ j / 8) && (sb (j / 8 - (256 - nb))).testBit (j % 8)) := by
  have hmem : j / 8 ∈ (List.range nb).map (256 - nb + ·) ↔ 256 - nb ≤ j / 8 := by
    simp only [List.mem_map, List.mem_range]
    exact ⟨fun ⟨b, _, hb⟩ => by omega, fun h => ⟨j / 8 - (256 - nb), by omega, by omega⟩⟩
  rw [scaleWord_eq_elemBits hsb, getLsbD_elemBits (by decide) (List.nodup_range.map (fun x y => Nat.add_left_cancel)) _ hj]
  simp only [hmem]

/-- A block's scale is a byte. -/
theorem scaleByte_lt (x : XV) (emax : Int) : scaleByte x emax < 256 := by
  unfold scaleByte satInt
  split
  · decide
  · decide
  · split_ifs <;> omega

/-- The inactive ones of n elements. -/
def inactive (n : Nat) (act : List Nat) : List Nat := (List.range n).filter (fun i => !act.contains i)

theorem mem_inactive {n i : Nat} {act : List Nat} : i ∈ inactive n act ↔ i < n ∧ i ∉ act := by
  simp [inactive]

/-- What a quantisation of the active ones of n elements of ws bits lands. -/
def quantLanded (fq : Fmt) (ws n : Nat) (act : List Nat) (sb : Nat → Nat) (cv : Nat → Cv) (old va : VReg) : Landed :=
  mergedBits old (elemBits fq.width act (fun i => (cv i).bits) ||| scaleWord (n / 32) sb) (~~~elemMask fq.width (inactive n act))
    (elemGranules fq.width (act.filter (elemPoisoned va ws)) ||| (if act.any (elemPoisoned va ws) then 8#4 else 0#4))
    (cvFlags (act.map cv))

section Quant
variable {fq : Fmt} {ws n : Nat} {act : List Nat} {sb : Nat → Nat} {cv : Nat → Cv} {old va : VReg}

theorem getLsbD_quantMask {wd j : Nat} (hwd : 0 < wd) (hj : j < 2048) :
    (~~~elemMask wd (inactive n act)).getLsbD j = true ↔ ¬ (j / wd < n ∧ j / wd ∉ act) := by
  rw [BitVec.getLsbD_not, getLsbD_elemMask hwd (l := inactive n act) (List.nodup_range.filter _) hj]
  simp [hj, mem_inactive, or_iff_not_imp_left]

/-- The scale bytes' granule, the last, is marked for any poisoned element. -/
theorem getLsbD_quantMarks {wd q : Nat} (hq : q < 4) (bad : Nat → Bool) :
    (elemGranules wd (act.filter bad) ||| (if act.any bad then 8#4 else 0#4)).getLsbD q = true ↔
      (∃ i, i ∈ act ∧ bad i = true ∧ (wd * i / 512 = q ∨ (wd * i + wd - 1) / 512 = q)) ∨ q = 3 ∧ ∃ i ∈ act, bad i = true := by
  have hlast : (8#4).getLsbD q = decide (q = 3) := by interval_cases q <;> rfl
  rw [BitVec.getLsbD_or, Bool.or_eq_true, getLsbD_poisonedGranules hq, ← List.any_eq_true]
  refine or_congr_right ?_
  cases act.any bad with
  | false => simp
  | true => rw [if_pos rfl, hlast, decide_eq_true_eq, and_iff_left rfl]

theorem quantLanded_good (hwd : 0 < fq.width) (hwd8 : fq.width ≤ 8) (hn : n ≤ 128) (hnodup : act.Nodup) (hact : ∀ i ∈ act, i < n)
    (hsb : ∀ b, sb b < 256) :
    (∀ i ∈ act, elem (quantLanded fq ws n act sb cv old va).bits fq.width i = (cv i).bits % 2 ^ fq.width) ∧
    (∀ x, x < n / 32 → lane (quantLanded fq ws n act sb cv old va).bits 1 (256 - n / 32 + x) = sb x) ∧
    (∀ j, fq.width * n ≤ j → j < 8 * (256 - n / 32) → (quantLanded fq ws n act sb cv old va).bits.getLsbD j = false) ∧
    (quantLanded fq ws n act sb cv old va).merges old fq.width act (fun i => i < n ∧ i ∉ act) (elemPoisoned va ws)
      (fun x => x = 3 ∧ ∃ i ∈ act, elemPoisoned va ws i = true) ∧
    (quantLanded fq ws n act sb cv old va).flagsOf cv act := by
  have hfit : fq.width * n ≤ 1024 := Nat.mul_le_mul hwd8 hn
  have hscale {j : Nat} (hj : j < 2048) := getLsbD_scaleWord (nb := n / 32) hsb hj (by omega)
  have helem {j : Nat} (hj : j < 2048) := getLsbD_elemBits hwd hnodup (fun i => (cv i).bits) hj
  have hbeyond {j : Nat} (hj : fq.width * n ≤ j) : n ≤ j / fq.width := (Nat.le_div_iff_mul_le hwd).mpr (by rwa [Nat.mul_comm])
  have hout {j : Nat} (hj : fq.width * n ≤ j) : j / fq.width ∉ act := fun h => absurd (hact _ h) (Nat.not_lt.mpr (hbeyond hj))
  have htop {j : Nat} (hj : fq.width * n ≤ j) (hlt : j < 2048) :
      (quantLanded fq ws n act sb cv old va).bits.getLsbD j = (scaleWord (n / 32) sb).getLsbD j := by
    rw [quantLanded, mergedBits_new ((getLsbD_quantMask hwd hlt).mpr fun h => absurd h.1 (Nat.not_lt.mpr (hbeyond hj))),
      BitVec.getLsbD_or, helem hlt, decide_eq_false (hout hj), Bool.false_and, Bool.false_or]
  refine ⟨fun i hi => ?_, fun x hx => ?_, fun j hj hjn => ?_, ?_, flagsOf_cvFlags ..⟩
  · refine elem_mergedBits (hfit.trans (by decide)) (hact i hi) (fun j hj hji => ?_) fun j hj hji => ?_
    · exact (getLsbD_quantMask hwd hj).mpr fun h => h.2 (hji ▸ hi)
    · have hlow : j < 1024 := by
        by_contra hge
        exact hout (j := j) (hfit.trans (Nat.not_lt.mp hge)) (hji ▸ hi)
      rw [BitVec.getLsbD_or, helem hj, hscale hj, hji, decide_eq_true hi, decide_eq_false (by omega), Bool.true_and, Bool.false_and,
        Bool.or_false]
  · refine (elem_eq_of_bits (wd := 8) fun b hb => ?_).trans (Nat.mod_eq_of_lt (hsb x))
    obtain ⟨hdiv, hmod⟩ := elem_index hb (256 - n / 32 + x)
    rw [htop (by omega) (by omega), hscale (by omega), hdiv, hmod, decide_eq_true (by omega), Nat.add_sub_cancel_left, Bool.true_and]
  · rw [htop hj (by omega), hscale (by omega), decide_eq_false (by omega), Bool.false_and]
  · refine mergedBits_merges (fun j hj => getLsbD_quantMask hwd hj) (fun i hi => ?_) fun q hq => getLsbD_quantMarks hq _
    exact (Nat.mul_le_mul_left _ (Nat.succ_le_of_lt hi.1)).trans (hfit.trans (by decide))

end Quant

theorem ofCode_width_le (q : BitVec 4) (hq : wfQfmt q = true) : ((Fmt.ofCode q).getD .e8m0).width ≤ 8 := by revert q; decide
theorem fty_lanes_le (t : FTy) : 256 / t.vty.bytes ≤ 128 := by cases t <;> decide

/-! ### Algebra ops (R80, R81, R164) -/

/-- The lanes of the elements of n components whose first lane is active. -/
def algLanes (g : PReg) (w n : Nat) : List Nat :=
  ((List.range (256 / w / n)).filter (fun e => g.bits.getLsbD (w * n * e))).flatMap (fun e => (List.range n).map (fun k => n * e + k))

theorem mem_algLanes {g : PReg} {w n i : Nat} (hn : 0 < n) :
    i ∈ algLanes g w n ↔ i / n < 256 / w / n ∧ g.bits.getLsbD (w * n * (i / n)) = true := by
  simp only [algLanes, List.mem_flatMap, List.mem_filter, List.mem_range, List.mem_map]
  constructor
  · rintro ⟨e, he, k, hk, rfl⟩
    rwa [(elem_index hk e).1]
  · exact fun h => ⟨i / n, h, i % n, Nat.mod_lt i hn, Nat.div_add_mod i n⟩

theorem algDim_pos (tab : BitVec 128) : 0 < algDim tab := by
  unfold algDim
  split <;> decide

/-- Component k of each source's element e. -/
def algSources (t : FTy) (vs : List VReg) (n e : Nat) : List (List XV) :=
  vs.map (fun v => (List.range n).map (fun k => laneXV t.fmt v.bits t.vty.bytes (n * e + k)))

/-- What an algebra op lands. -/
def algLanded (t : FTy) (tab : BitVec 128) (rm : Rm) (g : PReg) (f : BitVec 128 → Rm → List (List XV) → Nat → XV) (vs : List VReg) :
    Landed where
  bits := buildLanes t.vty.bytes (algLanes g t.vty.bytes (algDim tab)) (fun i =>
    roundTo t.fmt rm (f tab rm (algSources t vs (algDim tab) (i / algDim tab)) (i % algDim tab)))
  mask := lanesMask t.vty.bytes (algLanes g t.vty.bytes (algDim tab))
  marks := lanesGranules t.vty.bytes ((algLanes g t.vty.bytes (algDim tab)).filter (fun i => vs.any (fun v =>
    (v.poison &&& lanesGranules t.vty.bytes ((List.range (algDim tab)).map (fun k => algDim tab * (i / algDim tab) + k))) != 0#4)))
  nan := false
  ovf := false

section Algebra
variable {i : Instr} {h : OpHdr} {vb : Bool} {t : FTy} {d : BitVec 6} {srcs : List VSrc} {r : Rms}

/-- Each lane of an active element is a lane of the register. -/
theorem lane_of_elem {w n i : Nat} (hi : i / n < 256 / w / n) : i < 256 / w := Nat.lt_of_div_lt_div hi

/-- An algebra op lands its function of the elements' components (R164). -/
theorem landsAlgebra_of_vecAlg {F : BitVec 128 → Rm → List (List XV) → Nat → XV} {f : BitVec 128 → Rm → List VReg → Nat → Nat → XV}
    (hexec : ∀ s, exec i s = .next (vecAlg s vb h t d srcs r F))
    (hF : ∀ (s : State) vs, srcVals s.here srcs = .ok vs → ∀ tab rm e k, k < algDim tab →
      F tab rm (algSources t vs (algDim tab) e) k = f tab rm vs e k) :
    LandsAlgebra i vb h t d srcs r f := by
  refine landsElements_of_landVec (ok := true) (bs := List.map VReg.band)
    (f := fun c vs => algLanded t (algTab c) (rmOf c r) (c.rP h.g) F vs) hexec rfl (fun _ _ _ => rfl)
    (fun c c' hk => by simp only [hk.rmOf, hk.rP, hk.algTab]) fun s vs hsrc => ?_
  intro tab n w on
  have hn : 0 < n := algDim_pos tab
  have hmem (i : Nat) : i ∈ algLanes (s.here.rP h.g) w n ↔ on (i / n) := mem_algLanes hn
  refine ⟨fun e k he hk => ?_, fun k hk => ?_, fun q hq => ?_, rfl, rfl⟩
  · obtain ⟨hdiv, hmod⟩ := elem_index hk e
    have hon : on ((n * e + k) / n) := hdiv.symm ▸ he
    rw [algLanded, lane_buildLanes (lane_of_elem hon.1) ((hmem _).mpr hon), hdiv, hmod, hF s vs hsrc _ _ _ _ hk]
  · rw [algLanded, getLsbD_lanesMask (bytes_pos t.vty), hmem, ← Nat.div_div_eq_div_mul, and_iff_right hk]
  · have hmarks (i : Nat) (hi : on (i / n)) (v : VReg) :
        ((v.poison &&& lanesGranules w ((List.range n).map (fun k => n * (i / n) + k))) != 0#4) = true ↔
          ∃ j, j < n ∧ v.poison.getLsbD (w * (n * (i / n) + j) / 64) = true := by
      rw [marks_meet_lanes fun j hj => ?_]
      · simp
      · obtain ⟨k, hk, rfl⟩ := List.mem_map.mp hj
        have hlane : n * (i / n) + k < 256 / w := lane_of_elem (n := n) (by
          rw [(elem_index (List.mem_range.mp hk) (i / n)).1]
          exact hi.1)
        exact (Nat.mul_lt_mul_of_pos_left hlane (bytes_pos t.vty)).trans_le (Nat.mul_div_le 256 w)
    rw [algLanded, lanesGranules, getLsbD_quarterMask _ hq]
    simp only [List.any_eq_true, List.mem_filter, beq_iff_eq]
    constructor
    · rintro ⟨i, ⟨hi, v, hv, hp⟩, hiq⟩
      have hon := (hmem i).mp hi
      obtain ⟨j, hj, hp⟩ := (hmarks i hon v).mp hp
      exact ⟨i / n, i % n, v, j, hon, Nat.mod_lt i hn, by rwa [Nat.div_add_mod], hv, hj, hp⟩
    · rintro ⟨e, k, v, j, he, hk, hkq, hv, hj, hp⟩
      have hdiv := (elem_index hk e).1
      have hon : on ((n * e + k) / n) := hdiv.symm ▸ he
      exact ⟨n * e + k, ⟨(hmem _).mpr hon, v, hv, (hmarks _ hon v).mpr ⟨j, hj, by rwa [hdiv]⟩⟩, hkq⟩

end Algebra

theorem compsOf_eq {t : FTy} {vs : List VReg} {j n e : Nat} (hj : j < vs.length) : compsOf t vs j n e = elAt (algSources t vs n e) j := by
  rw [elAt, algSources, List.getD_eq_getElem?_getD, List.getElem?_map, List.getElem?_eq_getElem hj, compsOf]
  simp [srcBits, hj, laneXV]

/-- The component of the conjugate (R81). -/
theorem algConjOf_get {tab : BitVec 128} {x : List XV} {k : Nat} (hk : k < x.length) :
    xvAt (algConjOf tab x) k = if algConj tab k then (x.getD k .nan).negate else x.getD k .nan := by
  simp [xvAt, algConjOf, hk]

/-! ### What each conversion lands -/

section Conversions
variable (h : OpHdr) (t : FTy) (d : BitVec 6) (sat : Bool) (q : BitVec 4) (r : Rms) (c : Ctx) (vs : List VReg)

/-- What `vcvt` lands (R158). -/
def vcvtLanded (fs fd : Fmt) : Landed :=
  let wide := max fs.width fd.width
  cvtLanded fs fd (2048 / wide) ((List.range (2048 / wide)).filter (fun i => (c.rP h.g).bits.getLsbD (wide * i / 8)))
    (fun i => convert fd (rmOf c r) sat (fs.value (elem (vs.getD 0 zeroVReg).bits fs.width i))) (c.rV d) (vs.getD 0 zeroVReg)

/-- What `vquant` lands (R159). -/
def vquantLanded : Landed :=
  let va := vs.getD 0 zeroVReg
  let w := t.vty.bytes
  let fq := (Fmt.ofCode q).getD .e8m0
  let act := activeLanes (c.rP h.g) w
  let sb := fun b => scaleByte (amaxXV ((act.filter (fun i => i / 32 == b)).map (laneXV t.fmt va.bits w)) (.zero false)) (fmtEmax q)
  quantLanded fq (8 * w) (256 / w) act sb
    (fun i => convert fq (rmOf c r) sat ((laneXV t.fmt va.bits w i).scale (127 - (sb (i / 32) : Int)))) (c.rV d) va

/-- What `vdequant` lands (R160). -/
def vdequantLanded : Landed :=
  let va := vs.getD 0 zeroVReg
  let w := t.vty.bytes
  let fq := (Fmt.ofCode q).getD .e8m0
  let act := activeLanes (c.rP h.g) w
  let sb := fun i => lane va.bits 1 (256 - 256 / w / 32 + i / 32)
  let cv := fun i => if sb i = 255 then convert t.fmt (rmOf c r) false .nan
    else convert t.fmt (rmOf c r) false ((fq.value (elem va.bits fq.width i)).scale ((sb i : Int) - 127))
  ⟨buildLanes w act (fun i => (cv i).bits), lanesMask w act,
    lanesGranules w (act.filter (fun i => elemPoisoned va fq.width i || granuleAt va.poison (256 - 256 / w / 32 + i / 32))),
    (cvFlags (act.map cv)).1, (cvFlags (act.map cv)).2⟩

/-- What `vscale2` lands (R161). -/
def vscale2Landed : Landed :=
  let w := t.vty.bytes
  let act := activeLanes (c.rP h.g) w
  let cv := fun i => convert t.fmt (rmOf c r) false ((laneXV t.fmt (srcBits vs 0) w i).scale (laneInt true (srcBits vs 1) w i))
  ⟨buildLanes w act (fun i => (cv i).bits), lanesMask w act, lanePoison w act vs, (cvFlags (act.map cv)).1, (cvFlags (act.map cv)).2⟩

end Conversions

theorem exec_vquant {h : OpHdr} {vb : Bool} {t : FTy} {d : BitVec 6} {a : VSrc} {sat : Bool} {q : BitVec 4} {r : Rms} (s : State) :
    exec (.vquant h vb t d a sat q r) s = .next (vecOp s vb h (wfQfmt q) [a] (fun u vs =>
      let l := vquantLanded h t d sat q r u.here vs
      landVec u vb h 3 d l.bits l.mask l.marks [(vs.getD 0 zeroVReg).band] false l.nan l.ovf)) := by
  change execVquant h vb t d a sat q r s = _
  unfold execVquant
  dsimp only [vquantLanded, quantLanded, mergedBits, scaleWord, inactive, landBits, vecAct, State.here]

/-- The one source's band. -/
theorem band_of_srcVals {s : State} {a : VSrc} {vs : List VReg} (hsrc : srcVals s.here [a] = .ok vs) :
    [(vs.getD 0 zeroVReg).band] = vs.map (·.band) := by
  obtain ⟨x, rfl⟩ := srcVals_one hsrc
  rfl

/-- Settles O13: each op lands a function of its sources and of what the pops leave, element by element. -/
theorem vectorConversionsAndAlgebraOpsLand : Obligations.VectorConversionsAndAlgebraOpsLand := by
  unfold Obligations.VectorConversionsAndAlgebraOpsLand
  intro h vb t ft d c a b sat nsrc narrow swap nfmt dtype q r fs fd wide w n fq
  refine ⟨fun hwf => ?_, fun hwf => ⟨?_, ?_⟩, ?_, ?_, ?_, ?_, ?_⟩
  · refine landsElements_of_landVec (ok := wfCvt narrow nsrc nfmt dtype) (bs := fun vs => [(vs.getD 0 zeroVReg).band])
      (f := fun c vs => vcvtLanded h d sat r c vs fs fd) (fun s => rfl) hwf (fun s vs => band_of_srcVals)
      (fun c c' hk => funext fun vs => by simp only [vcvtLanded, hk.rmOf, hk.rP, hk.rV]) fun s vs _ => ?_
    exact cvtLanded_good (cvtFmts_width_pos t nfmt nsrc narrow dtype)
      ((Nat.mul_le_mul_right _ (Nat.le_max_right ..)).trans (Nat.mul_div_le ..)) (List.nodup_range.filter _)
      fun i hi => List.mem_range.mp (List.mem_of_mem_filter hi)
  · refine landsElements_of_landVec (f := vquantLanded h ft d sat q r) exec_vquant hwf (fun s vs => band_of_srcVals)
      (fun c c' hk => funext fun vs => by simp only [vquantLanded, hk.rmOf, hk.rP, hk.rV]) fun s vs _ => ?_
    exact quantLanded_good (ofCode_width_pos q) (ofCode_width_le q hwf) (fty_lanes_le ft) (List.nodup_range.filter _)
      (fun i hi => (mem_activeLanes.mp hi).1) fun b => scaleByte_lt ..
  · refine landsElements_of_landVec (ok := wfQfmt q) (bs := fun vs => [(vs.getD 0 zeroVReg).band])
      (f := vdequantLanded h ft q r) (fun s => rfl) hwf (fun s vs => band_of_srcVals)
      (fun c c' hk => funext fun vs => by simp only [vdequantLanded, hk.rmOf, hk.rP]) fun s vs _ => ?_
    simp only [vdequantLanded, ← apply_ite (convert ft.fmt (rmOf s.here r) false)]
    exact ⟨fun i hi => lane_buildLanes (mem_activeLanes.mp hi).1 hi, rfl, rfl, flagsOf_cvFlags ..⟩
  · refine landsElements_of_landVec (ok := true) (bs := List.map VReg.band) (f := vscale2Landed h ft r) (fun s => rfl) rfl
      (fun _ _ _ => rfl) (fun c c' hk => funext fun vs => by simp only [vscale2Landed, hk.rmOf, hk.rP]) fun s vs _ => ?_
    exact ⟨fun i hi => lane_buildLanes (mem_activeLanes.mp hi).1 hi, rfl, rfl, flagsOf_cvFlags ..⟩
  · refine landsAlgebra_of_vecAlg (fun s => rfl) fun s vs hsrc tab rm e k hk => ?_
    cases swap <;> simp [compsOf_eq, length_srcVals hsrc]
  · refine landsAlgebra_of_vecAlg (fun s => rfl) fun s vs hsrc tab rm e k hk => ?_
    cases swap <;> simp [compsOf_eq, length_srcVals hsrc, xvAt]
  · refine landsAlgebra_of_vecAlg (fun s => rfl) fun s vs hsrc tab rm e k hk => ?_
    have hcomps := compsOf_eq (t := ft) (vs := vs) (j := 0) (n := algDim tab) (e := e) (by simp [length_srcVals hsrc])
    rw [hcomps, algConjOf_get (by rwa [← hcomps, compsOf, List.length_map, List.length_range])]
  · refine landsAlgebra_of_vecAlg (fun s => rfl) fun s vs hsrc tab rm e k hk => ?_
    rw [compsOf_eq (by simp [length_srcVals hsrc])]
    rfl

end Sys2Proof.Machine
end

section
/-! SUPPORT. Trimmer words that run: their checks, what they read and write, and how the run goes on (07_matrix R206 to R210): O23. -/
namespace Sys2Proof.Machine

/-! ### A word of a run (R206) -/

/-- The run with one more word counted. -/
def MRun.counted (r : MRun) : MRun := { r with trun := { r.trun with steps := r.trun.steps + 1 } }

/-- A word that runs and whose fields are good has its effect on the run. -/
theorem trimOp_of_trimRuns {s : State} {r : MRun} (h : TrimRuns s r) {ok : Bool} (hok : ok = true) (f : MRun → State) :
    trimOp s ok f = f r.counted := by
  obtain ⟨hactive, hdrains, hsteps, -⟩ := h
  have hactive : (s.mat s.cur).active = some r := hactive
  simp [trimOp, hactive, hdrains, hok, hsteps, MRun.counted]

/-- A word that runs is not the last of the store. -/
theorem TrimRuns.pc_ne {s : State} {r : MRun} (h : TrimRuns s r) : r.trun.pc ≠ 511#9 := h.2.2.2

/-- What a word that runs answers, from its meaning on a counted run. -/
theorem exec_of_trimOp {i : Instr} {s u : State} {r : MRun} {ok : Bool} {f : MRun → State} (hruns : TrimRuns s r)
    (hexec : exec i s = .next (trimOp s ok f)) (hok : ok = true) (hf : f r.counted = u) : exec i s = .next u := by
  rw [hexec, trimOp_of_trimRuns hruns hok, hf]

/-- A change of the run's registers leaves the word index alone. -/
def TRun.KeepsPc (f : TRun → TRun) : Prop := ∀ t p, f { t with pc := p } = { f t with pc := p }

/-- A counted run, whatever else of it has changed, goes on at the next word. -/
theorem trimNext_counted (s : State) (m : Mat) {r q : MRun} {f : TRun → TRun} (hf : TRun.KeepsPc f)
    (hq : q.trun = r.counted.trun) (hpc : r.trun.pc ≠ 511#9) :
    trimNext s m { q with trun := f q.trun } = s.trimDone m { q with trun := r.trun } f := by
  have hkeep : (f q.trun).pc = r.trun.pc := by
    rw [show f q.trun = { f q.trun with pc := q.trun.pc } from hf q.trun q.trun.pc, hq]
    rfl
  rw [trimNext, if_neg (hkeep ▸ hpc), State.trimDone, hkeep, hq]
  dsimp only [MRun.counted]
  rw [← hf]

/-! ### What a word reads (R207, R209, R210) -/

/-- Bands that join change the run's band and the bands of units, and nothing else. -/
theorem raiseBand_eq_some {m m' : Mat} {r r' : MRun} {bs : List Band} (h : raiseBand m r bs = some (m', r')) :
    ∃ l b, m' = { m with accBand := l } ∧ r' = { r with band := b } := by
  unfold raiseBand at h
  split at h
  · cases h
  · cases h
    exact ⟨_, _, rfl, rfl⟩

@[simp] theorem State.mat_modMat (s : State) (fe : FeId) (f : Mat → Mat) : (s.modMat fe f).mat fe = f (s.mat fe) := by
  simp [State.mat, State.modMat]

/-- The FP32 words of an accumulator row. -/
def accRowWords (m : Mat) (row : Nat) : Vector (BitVec 32) 64 := Vector.ofFn (fun i : Fin 64 => accLane m row i.val)

theorem accRowWords_get (m : Mat) (row : Nat) {i : Nat} (hi : i < 64) : (accRowWords m row)[i]?.getD 0#32 = accLane m row i := by
  simp [accRowWords, hi]

/-- A row in the share, whose unit's band joins, is read with its poison. -/
theorem rowRead_of_raiseBand {s : State} {r r' : MRun} {m' : Mat} {row : Nat} (hrow : row < 16 * (s.mat s.cur).units)
    (hband : raiseBand (s.mat s.cur) r [unitBand (s.mat s.cur) (row / 16)] = some (m', r'))
    (f : Mat → MRun → Vector (BitVec 32) 64 → Bool → State) :
    rowRead s r row f = f m' r' (accRowWords (s.mat s.cur) row) (accRowPoison (s.mat s.cur) row) := by
  obtain ⟨l, b, rfl, -⟩ := raiseBand_eq_some hband
  simp only [rowRead, if_neg (Nat.not_le.mpr hrow), hband]
  rfl

theorem TRun.mapW_get (t : TRun) (f : Nat → XV → BitVec 32) {i : Nat} (hi : i < 64) : (t.mapW f)[i] = f i (t.lane i) := by
  simp [TRun.mapW]

/-! ### Words that replace W (R72, R207) -/

section StoresW
variable {s : State} {r : MRun}

/-- A word that goes on with W replaced in its counted run. -/
theorem storesW_of_trimNext {i : Instr} {m : Mat} {q : MRun} {w : Vector (BitVec 32) 64} {poison : Bool} {f : Nat → BitVec 32}
    (hexec : exec i s = .next (trimNext s m { q with trun := { q.trun with w := w, wPoison := poison } }))
    (hq : q.trun = r.counted.trun) (hpc : r.trun.pc ≠ 511#9) (hw : ∀ k (hk : k < 64), w[k] = f k) :
    StoresW i s m { q with trun := r.trun } poison f :=
  ⟨w, hw, hexec.trans (congrArg _
    (trimNext_counted s m (f := fun t => { t with w := w, wPoison := poison }) (fun _ _ => rfl) hq hpc))⟩

/-- A word that applies one function to every lane. -/
theorem storesW_of_trimW {i : Instr} {ok : Bool} {g : MRun → XV → BitVec 32} (hruns : TrimRuns s r)
    (hexec : exec i s = .next (trimOp s ok (fun r => trimW s r (r.trun.mapW (fun _ => g r))))) (hok : ok = true) :
    StoresW i s s.here.eng.mat r r.trun.wPoison (fun k => g r.counted (r.trun.lane k)) := by
  rw [trimOp_of_trimRuns hruns hok] at hexec
  exact storesW_of_trimNext (q := r.counted) hexec rfl hruns.pc_ne fun k hk => TRun.mapW_get _ _ hk

/-- A word with a constant row applies its function to each lane and that row's. -/
theorem storesW_of_constOp {i : Instr} {k : BitVec 6} {g : Rm → XV → XV → XV} {m' : Mat} {r' : MRun} (hruns : TrimRuns s r)
    (hexec : exec i s = .next (constOp s k g)) (hrow : k.toNat < 16 * s.here.eng.mat.units)
    (hband : raiseBand s.here.eng.mat r.counted [unitBand s.here.eng.mat (k.toNat / 16)] = some (m', r')) :
    StoresW i s m' { r' with trun := r.trun } (r.trun.wPoison || accRowPoison s.here.eng.mat k.toNat)
      (fun i => round32 r.rm (g r.rm (r.trun.lane i) (val32 (accLane s.here.eng.mat k.toNat i)))) := by
  rw [constOp, trimOp_of_trimRuns hruns rfl, rowRead_of_raiseBand hrow hband] at hexec
  obtain ⟨l, b, -, rfl⟩ := raiseBand_eq_some hband
  refine storesW_of_trimNext (q := { r.counted with band := b }) hexec rfl hruns.pc_ne fun i hi => ?_
  rw [TRun.mapW_get _ _ hi, accRowWords_get _ _ hi]
  rfl

/-- `tld` takes a row and its poison. -/
theorem storesW_trimTld {src : Bool} {k : BitVec 6} {row : Nat} {m' : Mat} {r' : MRun} (hruns : TrimRuns s r)
    (hfield : (src || k == 0#6) = true) (hsel : (if src then k.toNat else r.accRow) = row)
    (hrow : row < 16 * s.here.eng.mat.units)
    (hband : raiseBand s.here.eng.mat r.counted [unitBand s.here.eng.mat (row / 16)] = some (m', r')) :
    StoresW (.trimTld src k) s m' { r' with trun := r.trun } (accRowPoison s.here.eng.mat row) (accLane s.here.eng.mat row) := by
  have hexec : exec (.trimTld src k) s = .next (trimOp s (src || k == 0#6) (fun r =>
      rowRead s r (if src then k.toNat else r.accRow) (fun m r w pz =>
        trimNext s m { r with trun := { r.trun with w := w, wPoison := pz } }))) := rfl
  have hsel : (if src then k.toNat else r.counted.accRow) = row := hsel
  rw [trimOp_of_trimRuns hruns hfield, hsel, rowRead_of_raiseBand hrow hband] at hexec
  obtain ⟨l, b, -, rfl⟩ := raiseBand_eq_some hband
  exact storesW_of_trimNext (q := { r.counted with band := b }) hexec rfl hruns.pc_ne fun i hi => Vector.getElem_ofFn hi

/-- `tsat` clamps each lane between those of two rows. -/
theorem storesW_tsat {kl kh : BitVec 6} {m1 m2 : Mat} {r1 r2 : MRun} (hruns : TrimRuns s r)
    (hl : kl.toNat < 16 * s.here.eng.mat.units) (hh : kh.toNat < 16 * s.here.eng.mat.units)
    (hband : raiseBand s.here.eng.mat r.counted [unitBand s.here.eng.mat (kl.toNat / 16)] = some (m1, r1))
    (hband' : raiseBand m1 r1 [unitBand m1 (kh.toNat / 16)] = some (m2, r2)) :
    StoresW (.tsat kl kh) s m2 { r2 with trun := r.trun }
      (r.trun.wPoison || accRowPoison s.here.eng.mat kl.toNat || accRowPoison s.here.eng.mat kh.toNat)
      (fun i => round32 r.rm (clampXV (r.trun.lane i) (val32 (accLane s.here.eng.mat kl.toNat i))
        (val32 (accLane s.here.eng.mat kh.toNat i)))) := by
  have hexec : exec (.tsat kl kh) s = execTsat kl kh s := rfl
  rw [execTsat, trimOp_of_trimRuns hruns rfl, rowRead_of_raiseBand hl hband] at hexec
  obtain ⟨a, b, hm1, hr1⟩ := raiseBand_eq_some hband
  obtain ⟨-, b', -, hr2⟩ := raiseBand_eq_some hband'
  have hmat : (s.modMat s.cur (fun _ => m1)).mat (s.modMat s.cur (fun _ => m1)).cur = m1 := State.mat_modMat ..
  have hh : kh.toNat < 16 * m1.units := by rwa [hm1]
  dsimp only at hexec
  rw [rowRead_of_raiseBand (by rwa [hmat]) (by rwa [hmat]), hmat] at hexec
  subst hm1 hr1 hr2
  refine storesW_of_trimNext (q := { r.counted with band := b' }) hexec rfl hruns.pc_ne fun i hi => ?_
  rw [TRun.mapW_get _ _ hi, accRowWords_get _ _ hi, accRowWords_get _ _ hi]
  rfl

/-- `tadd` adds a row of the window that holds plain data and whose bands join. -/
theorem storesW_tadd {fc : BitVec 4} {o n : Nat} {m' : Mat} {r' : MRun} (hruns : TrimRuns s r)
    (hfield : (fc == 3#4 || fc == 4#4 || fc == 10#4 || fc == 11#4 || fc == 12#4) = true)
    (hn : ((Fmt.ofCode fc).getD .e8m0).width / 8 = n) (ho : pmRES r.params + r.row * pmRPITCH r.params + r.col * n = o)
    (hsize : o + 64 * n ≤ s.here.engineSpm.size)
    (hform : ∀ l ∈ spmRangeLines o (64 * n), (spmLine s.here.engineSpm l).form = false)
    (hband : raiseBand s.here.eng.mat r.counted
      ((spmRangeLines o (64 * n)).map (fun l => (spmLine s.here.engineSpm l).band)) = some (m', r')) :
    StoresW (.tadd fc) s m' { r' with trun := r.trun } (r.trun.wPoison || spmRangePoison s.here.engineSpm o (64 * n))
      (fun i => round32 r.rm (sumXV r.rm [r.trun.lane i, ((Fmt.ofCode fc).getD .e8m0).value
        (elemOf (spmNat s.here.engineSpm o (64 * n)) ((Fmt.ofCode fc).getD .e8m0).width i)])) := by
  have hexec : exec (.tadd fc) s = execTadd fc s := rfl
  rw [execTadd, trimOp_of_trimRuns hruns hfield] at hexec
  have ho : pmRES r.counted.params + r.counted.row * pmRPITCH r.counted.params + r.counted.col * n = o := ho
  have hplain : (spmRangeLines o (64 * n)).any (fun l => (spmLine s.here.engineSpm l).form) = false := by simpa using hform
  have hsize : ¬ s.here.spm.size < o + 64 * n := Nat.not_lt.mpr hsize
  simp only [hn, ho, hsize, hplain, hband, if_false, Bool.false_eq_true] at hexec
  obtain ⟨l, b, -, rfl⟩ := raiseBand_eq_some hband
  exact storesW_of_trimNext (q := { r.counted with band := b }) hexec rfl hruns.pc_ne fun i hi => TRun.mapW_get _ _ hi

end StoresW

/-! ### Words that set Q, S and O (R73, R207, R208) -/

/-- The conversions of the lanes, each scaled by a power of 2. -/
def trimConversions (r : MRun) (sat : Bool) (fc : BitVec 4) (scale : Int) : List Cv :=
  r.trun.lanes.map (fun x => convert ((Fmt.ofCode fc).getD .e8m0) r.rm sat (x.scale scale))

/-- The lanes are converted to O, under a scale byte, with their flags. -/
theorem trimConvert_counted (s : State) {r : MRun} (hpc : r.trun.pc ≠ 511#9) (sat : Bool) (fc : BitVec 4) (scale : Int)
    (sb : BitVec 8) :
    trimConvert s { r.counted with trun := { r.counted.trun with s := sb } } sat fc scale =
      s.trimDone { s.here.eng.mat with
          tnan := s.here.eng.mat.tnan || (trimConversions r sat fc scale).any (·.cvnan)
          tovf := s.here.eng.mat.tovf || (trimConversions r sat fc scale).any (·.cvovf) } r
        (fun t => { t with s := sb, o := some (fc, (trimConversions r sat fc scale).map (·.bits)) }) :=
  trimNext_counted s _ (q := r.counted) (f := fun t => { t with s := sb, o := some (fc, _) }) (fun _ _ => rfl) rfl hpc

/-- A word that sets Q. -/
theorem trimNext_setQ (s : State) {r : MRun} (hpc : r.trun.pc ≠ 511#9) (q : BitVec 32) :
    trimNext s s.here.eng.mat { r.counted with trun := { r.counted.trun with q := q } } =
      s.trimDone s.here.eng.mat r (fun t => { t with q := q }) :=
  trimNext_counted s _ (q := r.counted) (f := fun t => { t with q := q }) (fun _ _ => rfl) rfl hpc

/-- The terms that `trsum` adds. -/
theorem trsumTerms_eq (t : TRun) (sq : Bool) :
    (if sq then t.lanes.map (fun x => mulXV x x) else t.lanes) =
      (List.range 64).map (fun i => if sq then mulXV (t.lane i) (t.lane i) else t.lane i) := by
  cases sq
  case false => rfl
  case true => exact List.map_map

/-! ### Words that write the window (R207, R209, R210) -/

/-- The bytes that a word writes from an offset on, with the poison of W. -/
def trimData (r : MRun) (o : Nat) (bytes : List Byte) : SpmBytes := bytes.zipIdx.map (fun x => (o + x.2, x.1, r.trun.wPoison))

/-- Bytes in the window whose lines meet no other tenant are written, and the run goes on. -/
theorem trimWrite_counted {s : State} {r : MRun} {o : Nat} {bytes : List Byte} (hpc : r.trun.pc ≠ 511#9)
    (hsize : o + bytes.length ≤ s.here.spm.size) (htenant : engineTenantBad s.here.spm r.band (trimData r o bytes) = false) :
    trimWrite s r.counted o bytes =
      (s.modCtx s.cur (fun c => { c with spm := c.spm.engineWrite r.band (trimData r o bytes) })).trimDone s.here.eng.mat
        { r with outLines := (r.outLines ++ linesOf (trimData r o bytes)).eraseDups } id := by
  have hwrite : trimWrite s r.counted o bytes =
      trimNext (s.modCtx s.cur (fun c => { c with spm := c.spm.engineWrite r.band (trimData r o bytes) })) s.here.eng.mat
        { r.counted with outLines := (r.outLines ++ linesOf (trimData r o bytes)).eraseDups } :=
    (if_neg (Nat.not_lt.mpr hsize)).trans (if_neg (Bool.eq_false_iff.mp htenant))
  rw [hwrite]
  exact trimNext_counted _ _ (r := r) (f := id)
    (q := { r.counted with outLines := (r.outLines ++ linesOf (trimData r o bytes)).eraseDups }) (fun _ _ => rfl) rfl hpc

/-! ### The end of a run (R206) -/

/-- The meaning of `tend` on a run that has another after it. -/
theorem exec_tend_next {s : State} {r : MRun} {mi ni row j e : Nat} (hruns : TrimRuns s r)
    (hnext : nextRun r.counted = some (mi, ni, row, j)) (hentry : progEntry s s.cur (pmPROG r.counted.params) = some e) :
    exec .tend s = .next (s.modMat s.cur (fun _ => s.here.eng.mat.setActive
      { r.counted.setDrain mi ni row j with trun := TRun.fresh e r.band })) := by
  refine exec_of_trimOp hruns rfl rfl ?_
  simp only [hnext, hentry]
  rfl

/-- The meaning of `tend` on the last run of a drain that no routine goes on from. -/
theorem exec_tend_last {s : State} {r : MRun} (hruns : TrimRuns s r) (hnext : nextRun r.counted = none)
    (hphase : r.phase = .drainLoop) :
    exec .tend s = .next (s.modMat s.cur (fun _ => s.here.eng.mat.setActive
      { (r.counted.setField 15 32 1 0).setField 15 45 1 0 with trun := TRun.none, phase := .finished })) := by
  have hwords : ((r.counted.setField 15 32 1 0).setField 15 45 1 0).phase ≠ .words := fun h => by
    cases hphase.symm.trans h
  refine exec_of_trimOp hruns rfl rfl ?_
  simp only [hnext]
  exact if_neg hwords

/-- Settles O23: a word that runs has its effect on the counted run (`trimOp_of_trimRuns`), which goes on at the next word with
the registers that the word leaves (`trimNext_counted`). -/
theorem trimmerWordsAct : Obligations.TrimmerWordsAct := by
  unfold Obligations.TrimmerWordsAct
  intro s r src sat sq wide k kl kh sh fn fc epse shq f m1 m2 r1 r2 e m t lane rd sp stepped hruns
  have hpc : r.trun.pc ≠ 511#9 := hruns.pc_ne
  refine ⟨?tld, fun hrow hband => ⟨?tbias, ?tmul⟩, ?tsat, ?tts, ?tact, ?trnd, ?tmulr, ?trmax, ?trsum, ?convert, ?tadd,
    ?store, ?next, ?last⟩
  case tld =>
    intro row hsrc hrow hband
    exact storesW_trimTld hruns (by simpa using hsrc) rfl hrow hband
  case tbias => exact storesW_of_constOp (g := fun rm x y => sumXV rm [x, y]) hruns rfl hrow hband
  case tmul => exact storesW_of_constOp (i := .tmul k) (g := fun _ => mulXV) hruns rfl hrow hband
  case tsat => exact storesW_tsat hruns
  case tts => exact storesW_of_trimW (i := .tts) hruns rfl rfl
  case tact =>
    intro hfn hsh
    refine storesW_of_trimW (i := .tact sh fn) hruns rfl ?_
    by_cases hshift : fn = 1#4
    · simpa [hfn, hshift] using hsh
    · simpa [hfn, hshift] using hsh
  case trnd => exact storesW_of_trimW (i := .trnd) hruns rfl rfl
  case tmulr =>
    intro hf hz
    exact storesW_of_trimW (i := .tmulr epse shq f) hruns rfl (by simp [hf, hz])
  case trmax => exact exec_of_trimOp hruns rfl rfl (trimNext_setQ s hpc _)
  case trsum =>
    refine exec_of_trimOp hruns rfl rfl ((trimNext_setQ s hpc _).trans ?_)
    rw [show r.counted.trun.lanes = t.lanes from rfl, trsumTerms_eq]
    rfl
  case convert =>
    rintro i scale sb (⟨rfl, rfl, rfl, hlo, hhi⟩ | ⟨rfl, rfl, rfl, hwf⟩) cv
    · exact exec_of_trimOp hruns rfl (decide_eq_true ⟨hlo, hhi⟩) (trimConvert_counted s hpc ..)
    · exact exec_of_trimOp hruns rfl hwf (trimConvert_counted s hpc ..)
  case tadd =>
    intro hfc g n o hsize hform hband
    exact storesW_tadd hruns (by simpa [or_assoc] using hfc) rfl rfl hsize hform hband
  case store =>
    intro i o bytes hi data hsize htenant
    have hwrite := trimWrite_counted hpc hsize htenant
    obtain ⟨rfl, rfl, rfl⟩ | ⟨c, l, rfl, hlanes, rfl, rfl⟩ | ⟨rfl, rfl, rfl⟩ := hi
    · exact exec_of_trimOp hruns rfl rfl hwrite
    · have hlanes : r.counted.trun.o = some (c, l) := hlanes
      refine exec_of_trimOp hruns rfl rfl (Eq.trans ?_ hwrite)
      simp only [Bool.false_eq_true, if_false, hlanes]
      rfl
    · exact exec_of_trimOp hruns rfl rfl hwrite
  case next => exact fun _ _ _ _ => exec_tend_next hruns
  case last => exact exec_tend_last hruns

end Sys2Proof.Machine
end

section
/-! SUPPORT. The immediate instructions of the S slot, and the arithmetic and the branches of the Milliner (04_generator R84 to R92,
05_scalar R121): O4, O31 and O32. -/
namespace Sys2Proof.Machine

/-! ### Values with an immediate (R88, R89, R121) -/

theorem add_signExtend (x : Word) {n : Nat} (imm : BitVec n) : x + imm.signExtend 64 = BitVec.ofInt 64 (x.toInt + imm.toInt) := by
  rw [BitVec.ofInt_add, BitVec.ofInt_toInt, BitVec.signExtend]

theorem mul_signExtend (x : Word) {n : Nat} (imm : BitVec n) : x * imm.signExtend 64 = BitVec.ofInt 64 (x.toInt * imm.toInt) := by
  rw [BitVec.ofInt_mul, BitVec.ofInt_toInt, BitVec.signExtend]

theorem shiftLeft_eq_ofNat (x : Word) (n : Nat) : x <<< n = BitVec.ofNat 64 (x.toNat * 2 ^ n) :=
  BitVec.eq_of_toNat_eq (by simp [Nat.shiftLeft_eq])

theorem ushiftRight_eq_ofNat (x : Word) (n : Nat) : x >>> n = BitVec.ofNat 64 (x.toNat / 2 ^ n) := by
  refine BitVec.eq_of_toNat_eq ?_
  rw [BitVec.toNat_ushiftRight, Nat.shiftRight_eq_div_pow, BitVec.toNat_ofNat,
    Nat.mod_eq_of_lt (Nat.lt_of_le_of_lt (Nat.div_le_self ..) x.isLt)]

theorem sshiftRight_eq_ofInt (x : Word) (n : Nat) : x.sshiftRight n = BitVec.ofInt 64 (x.toInt / 2 ^ n) := by
  simp [BitVec.sshiftRight, Int.shiftRight_eq_div_pow]

/-- A word shifted up to make room for n low bits, which the immediate fills. -/
theorem shiftLeft_or_setWidth {n : Nat} (x : Word) (imm : BitVec n) :
    (x <<< n) ||| imm.setWidth 64 = BitVec.ofNat 64 (x.toNat * 2 ^ n + imm.toNat) := by
  have hor : (x <<< n) ||| imm.setWidth 64 = (x <<< n) + imm.setWidth 64 := by
    refine (BitVec.add_eq_or_of_and_eq_zero _ _ ?_).symm
    refine BitVec.eq_of_getLsbD_eq fun j hj => ?_
    rw [BitVec.getLsbD_and, BitVec.getLsbD_shiftLeft, BitVec.getLsbD_setWidth, BitVec.getLsbD_zero]
    by_cases hlow : j < n
    · simp [hlow]
    · simp [BitVec.getLsbD_of_ge imm j (Nat.not_lt.mp hlow)]
  rw [hor, shiftLeft_eq_ofNat, BitVec.ofNat_add, BitVec.ofNat_toNat]

theorem lih64_eq (imm : BitVec 32) (x : Word) : lih64 imm x = x.setWidth 32 ++ imm := by
  have happend : (x.setWidth 32 ++ imm).toNat = x.toNat % 2 ^ 32 * 2 ^ 32 + imm.toNat := by
    rw [BitVec.toNat_append, ← Nat.shiftLeft_add_eq_or_of_lt imm.isLt, BitVec.toNat_setWidth, Nat.shiftLeft_eq]
  refine BitVec.eq_of_toNat_eq ?_
  rw [lih64, shiftLeft_or_setWidth, happend, BitVec.toNat_ofNat]
  have himm := imm.isLt
  omega

/-- An immediate op that executes, its shift count in range, lands its value (R114, R121). -/
theorem landsRI_of_scalarI {i : Instr} {h : OpHdr} {ok : Bool} {lat : Nat} {d a : BitVec 6} {f g : Word → Word}
    (hexec : ∀ s, exec i s = .next (scalarI h ok lat d a g s)) (hok : ok = true) (hval : ∀ x, g x = f x) : LandsRI i h lat d a f := by
  intro s band hrun hband
  rw [hexec, scalarI, hok, guardedOp_runs hrun, landScalar_of_bandOf hband, hval]
  rfl

/-- Settles O4: each op is `scalarI` of its function, whose value is the one of R121; `li` reads no register. -/
theorem immediateOpsLandTheirResult : Obligations.ImmediateOpsLandTheirResult := by
  unfold Obligations.ImmediateOpsLandTheirResult
  intro h d a n imm
  refine ⟨landsRI_of_scalarI (fun _ => rfl) rfl (add_signExtend · imm), landsRI_of_scalarI (fun _ => rfl) rfl fun _ => rfl,
    landsRI_of_scalarI (fun _ => rfl) rfl fun _ => rfl, landsRI_of_scalarI (fun _ => rfl) rfl fun _ => rfl,
    fun hn => landsRI_of_scalarI (fun _ => rfl) (decide_eq_true hn) (shiftLeft_eq_ofNat · n.toNat),
    fun hn => landsRI_of_scalarI (fun _ => rfl) (decide_eq_true hn) (ushiftRight_eq_ofNat · n.toNat),
    fun hn => landsRI_of_scalarI (fun _ => rfl) (decide_eq_true hn) (sshiftRight_eq_ofInt · n.toNat),
    landsRI_of_scalarI (fun _ => rfl) rfl (lih64_eq imm), landsRI_of_scalarI (fun _ => rfl) rfl (mul_signExtend · imm), ?_⟩
  intro s band hrun hband
  change execLi h d imm s = _
  rw [execLi, guardedOp_runs hrun, landScalar_of_bandOf hband]
  rfl

/-! ### Arithmetic of the Milliner (R84 to R92) -/

/-- A write of gd, discarded for g0, and the step to the next word. -/
theorem setG_next (g : Gen) (d : BitVec 5) (x : SReg) :
    (g.setG d x).next = { g with g := if d = 0#5 then g.g else vset g.g d x, gpc := g.gpc + 1#16 } := by
  unfold Gen.setG
  split <;> rfl

theorem genWrites_of_genResult {i : Instr} {d : BitVec 5} {bs : Ctx → List Band} {pz : Ctx → Bool} {v u : Ctx → Word}
    (hexec : ∀ s, exec i s = .next (genResult s d (u s.here) (bs s.here) (pz s.here))) (hval : ∀ c, u c = v c) :
    GenWrites i d bs pz v := by
  intro s band hband
  simp only [hexec, genResult, hband, setG_next, hval]

theorem genRR_of_genRR {i : Instr} {d a b : BitVec 5} {f g : Word → Word → Word}
    (hexec : ∀ s, exec i s = .next (genRR s d a b g)) (hval : ∀ x y, g x y = f x y) : GenRR i d a b f :=
  genWrites_of_genResult (u := fun c => g (c.rG a).val (c.rG b).val) hexec fun _ => hval ..

theorem genRI_of_genRI {i : Instr} {d a : BitVec 5} {f g : Word → Word}
    (hexec : ∀ s, exec i s = .next (genRI s d a g)) (hval : ∀ x, g x = f x) : GenRI i d a f :=
  genWrites_of_genResult (u := fun c => g (c.rG a).val) hexec fun _ => hval ..

theorem bit64_ltS (x y : Word) : bit64 (ltS x y) = if x.toInt < y.toInt then 1#64 else 0#64 := by
  simp [bit64, ltS, BitVec.slt_iff_toInt_lt]

theorem bit64_ltU (x y : Word) : bit64 (ltU x y) = if x.toNat < y.toNat then 1#64 else 0#64 := by
  simp [bit64, ltU, BitVec.ult_iff_lt, BitVec.lt_def]

theorem sub_eq_ofInt (x y : Word) : x - y = BitVec.ofInt 64 (x.toNat - y.toNat) := by
  rw [Int.sub_eq_add_neg, BitVec.ofInt_add, BitVec.ofInt_neg, BitVec.ofInt_natCast, BitVec.ofInt_natCast, BitVec.ofNat_toNat,
    BitVec.ofNat_toNat, BitVec.setWidth_eq, BitVec.setWidth_eq, BitVec.sub_eq_add_neg]

/-- Settles O31: each instruction is `genRR` or `genRI` of its function, whose value is the one of R88 or R89. -/
theorem generatorArithmeticWritesItsRegister : Obligations.GeneratorArithmeticWritesItsRegister := by
  unfold Obligations.GeneratorArithmeticWritesItsRegister
  intro d a b n imm
  have sameRR {i : Instr} {f : Word → Word → Word} (hexec : ∀ s, exec i s = .next (genRR s d a b f)) : GenRR i d a b f :=
    genRR_of_genRR hexec fun _ _ => rfl
  have sameRI {i : Instr} {f : Word → Word} (hexec : ∀ s, exec i s = .next (genRI s d a f)) : GenRI i d a f :=
    genRI_of_genRI hexec fun _ => rfl
  exact ⟨genRR_of_genRR (fun _ => rfl) fun x y => BitVec.eq_of_toNat_eq (by simp),
    genRR_of_genRR (fun _ => rfl) sub_eq_ofInt, sameRR fun _ => rfl, sameRR fun _ => rfl, sameRR fun _ => rfl,
    genRR_of_genRR (fun _ => rfl) shl64_eq, genRR_of_genRR (fun _ => rfl) shr64_eq, genRR_of_genRR (fun _ => rfl) sra64_eq,
    genRR_of_genRR (fun _ => rfl) fun x y => BitVec.eq_of_toNat_eq (by simp),
    genRR_of_genRR (fun _ => rfl) bit64_ltS, genRR_of_genRR (fun _ => rfl) bit64_ltU,
    genRI_of_genRI (fun _ => rfl) (add_signExtend · imm), sameRI fun _ => rfl, sameRI fun _ => rfl,
    genRI_of_genRI (fun _ => rfl) (shiftLeft_eq_ofNat · n.toNat), genRI_of_genRI (fun _ => rfl) (ushiftRight_eq_ofNat · n.toNat),
    genRI_of_genRI (fun _ => rfl) (shiftLeft_or_setWidth · imm), genWrites_of_genResult (fun _ => rfl) fun _ => rfl⟩

/-! ### Branches and jumps (R90) -/

/-- GPC moved by a signed offset of n bits, modulo 2^16. -/
theorem gpc_add_setWidth {n : Nat} (hn : 16 ≤ n) (g : BitVec 16) (o : BitVec n) :
    g + o.setWidth 16 = BitVec.ofInt 16 (g.toNat + o.toInt) := by
  rw [BitVec.ofInt_add, BitVec.ofInt_natCast, BitVec.ofNat_toNat, BitVec.setWidth_eq, ← setWidth_ofInt hn, BitVec.ofInt_toInt]

theorem genBranches_of_genBranch {i : Instr} {a b : BitVec 5} {o : BitVec 16} {f : Word → Word → Bool} {p : Word → Word → Prop}
    (hexec : ∀ s, exec i s = .next (genBranch s a b o f)) (hcond : ∀ x y, f x y = true ↔ p x y) : GenBranches i a b o p := by
  intro s ha hb
  have hgo : exec i s = .next (s.modGen (fun g => { g with
      gpc := if f (s.here.rG a).val (s.here.rG b).val then g.gpc + o else g.gpc + 1#16 })) := by
    rw [hexec, genBranch, if_neg (by simp [ha, hb])]
  have hdest (g : Gen) : g.gpc + o = BitVec.ofInt 16 (g.gpc.toNat + o.toInt) := by
    rw [← gpc_add_setWidth (Nat.le_refl 16), BitVec.setWidth_eq]
  refine ⟨fun hp => ?_, fun hp => ?_⟩
  · simp only [hgo, (hcond ..).mpr hp, if_true, hdest]
  · simp only [hgo, Bool.eq_false_iff.mpr (mt (hcond ..).mp hp), Bool.false_eq_true, if_false]

theorem ltS_iff (x y : Word) : ltS x y = true ↔ x.toInt < y.toInt := BitVec.slt_iff_toInt_lt
theorem ltU_iff (x y : Word) : ltU x y = true ↔ x.toNat < y.toNat := by simp [ltU, BitVec.ult_iff_lt, BitVec.lt_def]

theorem link_eq (g : Gen) (d : BitVec 5) (band : Band) (target : BitVec 16) :
    g.link d band target
      = { g with g := if d = 0#5 then g.g else vset g.g d ⟨(g.gpc + 1#16).setWidth 64, band, false⟩, gpc := target } := by
  unfold Gen.link Gen.setG
  split <;> rfl

/-- Settles O32: each branch is `genBranch` of its condition, and each jump sets GPC, with the link register for `gjal` and
`gjr`. -/
theorem generatorBranchesAndJumpsSetGpc : Obligations.GeneratorBranchesAndJumpsSetGpc := by
  unfold Obligations.GeneratorBranchesAndJumpsSetGpc
  intro d a b o o21
  refine ⟨genBranches_of_genBranch (fun _ => rfl) fun _ _ => beq_iff_eq, genBranches_of_genBranch (fun _ => rfl) fun _ _ => bne_iff_ne,
    genBranches_of_genBranch (fun _ => rfl) ltS_iff, genBranches_of_genBranch (fun _ => rfl) fun x y => ?_,
    genBranches_of_genBranch (fun _ => rfl) ltU_iff, genBranches_of_genBranch (fun _ => rfl) fun x y => ?_, fun s => ?_⟩
  · rw [Bool.not_eq_true', Bool.eq_false_iff, Ne, ltS_iff, Int.not_lt]
  · rw [Bool.not_eq_true', Bool.eq_false_iff, Ne, ltU_iff, Nat.not_lt]
  · intro dest link
    have hdest (g : Gen) : g.gpc + o21.setWidth 16 = dest g := gpc_add_setWidth (by decide) g.gpc o21
    refine ⟨?_, ?_, fun ha => ?_⟩
    · change execGj o21 s = _
      simp only [execGj, hdest]
    · change execGjal d o21 s = _
      simp only [execGjal, link_eq, hdest]
      rfl
    · change execGjr d a s = _
      simp only [execGjr, link_eq]
      rw [if_neg (by rw [show ((s.ctx s.cur).rG a).poison = false from ha]; exact Bool.false_ne_true)]
      rfl

end Sys2Proof.Machine
end

section
/-! SUPPORT. `emitr`: packed groups copied into the Runnel one after the other (04_generator R98 to R101, R108): O36. -/
namespace Sys2Proof.Machine

/-! ### States that differ in the generator of the front end that runs -/

/-- `t` is `s` with the generator `g` in the context of the front end that runs. -/
def GenMoved (s t : State) (g : Gen) : Prop := (∃ x, t = { s with ctxs := x }) ∧ t.here = { s.here with gen := g }

section GenMoved
variable {s t u : State} {g g' : Gen}

theorem genMoved_modGen (s : State) (f : Gen → Gen) : GenMoved s (s.modGen f) (f s.here.gen) :=
  ⟨⟨_, rfl⟩, State.ctx_modCtx_same ..⟩

theorem GenMoved.trans (h : GenMoved s t g) (h' : GenMoved t u g') : GenMoved s u g' := by
  obtain ⟨⟨x, rfl⟩, hg⟩ := h
  obtain ⟨⟨y, rfl⟩, hg'⟩ := h'
  exact ⟨⟨y, rfl⟩, hg'.trans (by rw [hg])⟩

theorem GenMoved.gen (h : GenMoved s t g) : t.here.gen = g := by rw [h.2]
theorem GenMoved.band (h : GenMoved s t g) : t.here.band = s.here.band := by rw [h.2]
theorem GenMoved.mem (h : GenMoved s t g) : t.mem = s.mem := by obtain ⟨⟨x, rfl⟩, -⟩ := h; rfl

/-- The store reads as before. -/
theorem GenMoved.storeWord8 (h : GenMoved s t g) (a : StoreAddr) : storeWord8 t t.cur a = storeWord8 s s.cur a := by
  have hpages : t.here.pages = s.here.pages := by rw [h.2]
  obtain ⟨⟨x, rfl⟩, -⟩ := h
  have hword (a : StoreAddr) : storeWord { s with ctxs := x } s.cur a = storeWord s s.cur a := by
    simp only [storeWord]
    rw [show (State.ctx { s with ctxs := x } s.cur).pages = (s.ctx s.cur).pages from hpages]
    rfl
  simp only [Machine.storeWord8, hword]

theorem GenMoved.groupsAt (h : GenMoved s t g) {a : StoreAddr} {gs : List (List Word × BitVec 512)} (hgs : GroupsAt s a gs) :
    GroupsAt t a gs := by
  induction gs generalizing a with
  | nil => trivial
  | cons p rest ih =>
    obtain ⟨⟨halign, hne, hat, hrise⟩, hcanon, hrest⟩ := hgs
    refine ⟨⟨halign, hne, fun i w hw => ?_, hrise⟩, hcanon, ih hrest⟩
    rw [h.storeWord8]
    exact hat i w hw

end GenMoved

/-! ### One group (R98, R99, R101) -/

/-- The group `r` is the i-th that an `emitr` copies: canonical form `w`, read at store address `a` (R98, R101, R108). -/
structure Copied (g : Gen) (band : Band) (i : Nat) (a : StoreAddr) (w : BitVec 512) (r : RGroup) : Prop where
  words : r.words = w
  band : r.band = band
  prov : r.prov = provWord { g with eseq := g.eseq + BitVec.ofNat 20 i } true (groupMark w) a
  snap : r.snap.isSome = groupMark w
  lead : r.lead = false

/-- A push appends its group to the Runnel, and the instruction goes on. -/
theorem push_copies (g : Gen) (w : BitVec 512) (band : Band) (a : StoreAddr) {after : Gen → Gen}
    (hafter : ∀ g, (after g).runnel = g.runnel) :
    ∃ r, g.push w band true false a after = { after { g with eseq := g.eseq + 1#20 } with runnel := g.runnel ++ [r] } ∧
      Copied g band 0 a w r := by
  refine ⟨⟨w, provWord g true (groupMark w) a, band,
    if groupMark w then some (after { g with eseq := g.eseq + 1#20 }).snapshot else none, false⟩, ?_, rfl, rfl, ?_, ?_, rfl⟩
  · simp only [Gen.push, hafter]
  · simp
  · cases hm : groupMark w <;> simp

/-- The first word of a packed group is not empty (R33). -/
theorem packedAt_lead {s : State} {a : StoreAddr} {ws : List Word} (h : PackedAt s a ws) : (ws.head? == some 0#64) = false := by
  obtain ⟨-, -, hat, -⟩ := h
  refine beq_eq_false_iff_ne.mpr fun hhead => ?_
  obtain ⟨-, hword, -⟩ := hat 0 0#64 (by rw [← List.head?_eq_getElem?]; exact hhead)
  exact hword (BitVec.zero_and)

/-- A group that stands in the store is fetched. -/
theorem fetchPacked_groupsAt {s : State} {a : StoreAddr} {p : List Word × BitVec 512} {gs : List (List Word × BitVec 512)}
    (h : GroupsAt s a (p :: gs)) : fetchPacked s s.cur a = .ok ⟨p.2, p.1.length, false⟩ := by
  obtain ⟨hpacked, hcanon, -⟩ := h
  obtain ⟨-, -, -, hrise⟩ := id hpacked
  rw [fetchPacked_eq hpacked, packedAt_lead hpacked, eq_canonical hrise hcanon]

/-! ### The loop (R98) -/

/-- What an `emitr` that copies all its groups leaves: those in the Runnel, and the instruction ended. -/
structure EmitrDone (s t : State) (d : BitVec 5) (n : BitVec 16) (band : Band) (gs : List (List Word × BitVec 512))
    (new : List RGroup) : Prop where
  moved : GenMoved s t { s.here.gen with
    runnel := s.here.gen.runnel ++ new, eprog := zeroEProg, eseq := s.here.gen.eseq + BitVec.ofNat 20 gs.length,
    gpc := s.here.gen.gpc + 1#16, g := if d = 0#5 then s.here.gen.g else vset s.here.gen.g d ⟨zext64 n, band, false⟩ }
  length : new.length = gs.length
  copied : ∀ (i : Nat) (r : RGroup) (p : List Word × BitVec 512), new[i]? = some r → gs[i]? = some p →
    Copied s.here.gen s.here.band i (groupAddr s.here.gen.eprog.next gs i) p.2 r

/-- Mark groups among packed groups. -/
def markCount (gs : List (List Word × BitVec 512)) : Nat := (gs.filter (fun p => groupMark p.2)).length

/-- The Runnel has room for groups: 64, and 8 mark groups (R99). -/
def RoomFor (g : Gen) (gs : List (List Word × BitVec 512)) : Prop :=
  g.runnel.length + gs.length ≤ 64 ∧ runnelMarks g + markCount gs ≤ 8

theorem markCount_cons (p : List Word × BitVec 512) (gs : List (List Word × BitVec 512)) :
    markCount (p :: gs) = markCount gs + (groupMark p.2).toNat := by
  rw [markCount, List.filter_cons]
  cases groupMark p.2 <;> rfl

theorem runnelMarks_push {g g' : Gen} {r : RGroup} (hg : g'.runnel = g.runnel ++ [r]) :
    runnelMarks g' = runnelMarks g + (groupMark r.words).toNat := by
  rw [runnelMarks, hg, List.filter_append, List.length_append, List.filter_singleton]
  cases groupMark r.words <;> rfl

theorem runnelRoom_of_roomFor {g : Gen} {p : List Word × BitVec 512} {gs : List (List Word × BitVec 512)} (h : RoomFor g (p :: gs)) :
    runnelRoom g (groupMark p.2) = true := by
  obtain ⟨hlen, hmarks⟩ := h
  rw [List.length_cons] at hlen
  rw [markCount_cons] at hmarks
  have hroom : g.runnel.length < 64 := by omega
  cases hp : groupMark p.2 with
  | false => simp [runnelRoom, hroom]
  | true =>
    rw [hp, Bool.toNat_true] at hmarks
    simp [runnelRoom, hroom, show runnelMarks g < 8 by omega]

theorem roomFor_push {g g' : Gen} {r : RGroup} {p : List Word × BitVec 512} {gs : List (List Word × BitVec 512)}
    (h : RoomFor g (p :: gs)) (hr : r.words = p.2) (hg : g'.runnel = g.runnel ++ [r]) : RoomFor g' gs := by
  obtain ⟨hlen, hmarks⟩ := h
  rw [List.length_cons] at hlen
  rw [markCount_cons] at hmarks
  exact ⟨by rw [hg, List.length_append, List.length_singleton]; omega, by rw [runnelMarks_push hg, hr]; omega⟩

theorem copied_succ {g g' : Gen} {band : Band} {i : Nat} {a : StoreAddr} {w : BitVec 512} {r : RGroup} (hgpc : g'.gpc = g.gpc)
    (heseq : g'.eseq = g.eseq + 1#20) (h : Copied g' band i a w r) : Copied g band (i + 1) a w r := by
  obtain ⟨hwords, hband, hprov, hsnap, hlead⟩ := h
  refine ⟨hwords, hband, hprov.trans ?_, hsnap, hlead⟩
  have hsum : g.eseq + 1#20 + BitVec.ofNat 20 i = g.eseq + BitVec.ofNat 20 (i + 1) := by
    rw [BitVec.add_assoc, Nat.add_comm i 1, BitVec.ofNat_add]
  simp only [provWord, hgpc, heseq, hsum]

theorem groupAddr_succ (a : StoreAddr) (p : List Word × BitVec 512) (gs : List (List Word × BitVec 512)) (i : Nat) :
    groupAddr (a + BitVec.ofNat 18 (8 * p.1.length)) gs i = groupAddr a (p :: gs) (i + 1) := by
  simp only [groupAddr, List.take_succ_cons, List.map_cons, List.sum_cons, Nat.mul_add, BitVec.ofNat_add, BitVec.add_assoc]

/-- A group that stands in the store, and that the Runnel has room for, is pushed; the last one ends the instruction. -/
theorem emitrGo_cons {s : State} {d : BitVec 5} {n : BitVec 16} {band : Band} {p : List Word × BitVec 512}
    {rest : List (List Word × BitVec 512)} {fuel : Nat} (hcount : s.here.gen.eprog.count.toNat + (rest.length + 1) = n.toNat)
    (hgs : GroupsAt s s.here.gen.eprog.next (p :: rest)) (hroom : RoomFor s.here.gen (p :: rest)) :
    emitrGo s d n band (fuel + 1) = if rest = []
      then s.modGen (fun g => g.push p.2 s.here.band true false g.eprog.next (emitrEnd d n band))
      else emitrGo (s.modGen (fun g => g.push p.2 s.here.band true false g.eprog.next (emitrStep p.1.length))) d n band fuel := by
  have hcount' : s.gen.eprog.count.toNat + (rest.length + 1) = n.toNat := hcount
  have hnot : n.ule s.gen.eprog.count = false := by
    rw [BitVec.ule_eq_decide, decide_eq_false_iff_not]
    omega
  have hlast : s.gen.eprog.count + 1#16 = n ↔ rest = [] := by
    rw [← BitVec.toNat_inj, BitVec.toNat_add, ← List.length_eq_zero_iff, show (1#16).toNat = 1 from rfl]
    have hn := n.isLt
    omega
  have hfetch : fetchPacked s s.cur s.gen.eprog.next = .ok ⟨p.2, p.1.length, false⟩ := fetchPacked_groupsAt hgs
  have hrunnel : runnelRoom s.gen (groupMark p.2) = true := runnelRoom_of_roomFor hroom
  simp only [emitrGo, hnot, hfetch, hrunnel, hlast]
  rfl

/-- Packed groups that the Runnel has room for are copied one after the other, and the instruction ends (R98). -/
theorem emitrGo_copies {s : State} {d : BitVec 5} {n : BitVec 16} {band : Band} {gs : List (List Word × BitVec 512)} {fuel : Nat}
    (hcount : s.here.gen.eprog.count.toNat + gs.length = n.toNat) (hgs : GroupsAt s s.here.gen.eprog.next gs)
    (hroom : RoomFor s.here.gen gs) (hfuel : gs.length < fuel) :
    ∃ new, EmitrDone s (emitrGo s d n band fuel) d n band gs new := by
  induction gs generalizing s fuel with
  | nil =>
    obtain ⟨m, rfl⟩ : ∃ m, fuel = m + 1 := ⟨fuel - 1, by omega⟩
    have hend : n.ule s.gen.eprog.count = true := by
      rw [BitVec.ule_eq_decide, decide_eq_true_iff]
      exact hcount.ge
    refine ⟨[], ?_, rfl, fun i r p hr => by cases hr⟩
    simp only [emitrGo, hend, if_true]
    have hmove := genMoved_modGen s (emitrEnd d n band)
    rw [emitrEnd, setG_next] at hmove
    simpa using hmove
  | cons p rest ih =>
    obtain ⟨m, rfl⟩ : ∃ m, fuel = m + 1 := ⟨fuel - 1, by omega⟩
    rw [List.length_cons] at hcount hfuel
    rw [emitrGo_cons hcount hgs hroom]
    obtain ⟨-, -, hrest⟩ := hgs
    by_cases hend : rest = []
    · subst hend
      rw [if_pos rfl]
      obtain ⟨r, hpush, hcopied⟩ := push_copies s.here.gen p.2 s.here.band s.here.gen.eprog.next (after := emitrEnd d n band)
        fun g => by rw [emitrEnd, setG_next]
      have hmove := genMoved_modGen s fun g => g.push p.2 s.here.band true false g.eprog.next (emitrEnd d n band)
      rw [hpush, emitrEnd, setG_next] at hmove
      refine ⟨[r], hmove, rfl, fun i r' p' hr' hp' => ?_⟩
      cases i with
      | zero =>
        cases hr'
        cases hp'
        simpa [groupAddr] using hcopied
      | succ i => cases hr'
    · rw [if_neg hend]
      obtain ⟨r, hpush, hcopied⟩ := push_copies s.here.gen p.2 s.here.band s.here.gen.eprog.next (after := emitrStep p.1.length)
        fun _ => rfl
      have hmove := genMoved_modGen s fun g => g.push p.2 s.here.band true false g.eprog.next (emitrStep p.1.length)
      rw [hpush] at hmove
      generalize s.modGen (fun g => g.push p.2 s.here.band true false g.eprog.next (emitrStep p.1.length)) = t at hmove
      have hgen := hmove.gen
      have hcount' : s.here.gen.eprog.count.toNat + 1 < 2 ^ 16 := by have := n.isLt; omega
      obtain ⟨new, hmoved, hlen, hall⟩ := ih (s := t) (fuel := m)
        (by rw [hgen]
            change (s.here.gen.eprog.count + 1#16).toNat + _ = _
            rw [BitVec.toNat_add, show (1#16).toNat = 1 from rfl, Nat.mod_eq_of_lt hcount']
            omega)
        (by rw [hgen]; exact hmove.groupsAt hrest)
        (roomFor_push hroom hcopied.words (by rw [hgen]))
        (by omega)
      have hnext : t.here.gen.eprog.next = s.here.gen.eprog.next + BitVec.ofNat 18 (8 * p.1.length) := by rw [hgen]; rfl
      refine ⟨r :: new, ?_, by rw [List.length_cons, List.length_cons, hlen], fun i r' p' hr' hp' => ?_⟩
      · have htrans := hmove.trans hmoved
        rw [hgen] at htrans
        have heseq : s.here.gen.eseq + 1#20 + BitVec.ofNat 20 rest.length = s.here.gen.eseq + BitVec.ofNat 20 (rest.length + 1) := by
          rw [BitVec.add_assoc, Nat.add_comm rest.length, BitVec.ofNat_add]
        have hrunnel : s.here.gen.runnel ++ [r] ++ new = s.here.gen.runnel ++ r :: new := by simp
        simp only [emitrStep, heseq, hrunnel] at htrans
        exact htrans
      · cases i with
        | zero =>
          cases hr'
          cases hp'
          simpa [groupAddr] using hcopied
        | succ i =>
          have hcopy := hall i r' p' hr' hp'
          rw [hnext, groupAddr_succ, hmove.band] at hcopy
          exact copied_succ (by rw [hgen]; rfl) (by rw [hgen]; rfl) hcopy

/-- Settles O36: the progress register is set, and `emitrGo` copies the groups (`emitrGo_copies`). -/
theorem emitrCopiesGroups : Obligations.EmitrCopiesGroups := by
  unfold Obligations.EmitrCopiesGroups
  intro s d a b gs g start n marked ha hb hidle hlen hgs hroom hmarks
  have hn64 : n ≤ 64 := by omega
  have hmove := genMoved_modGen s fun g => { g with eprog := ⟨true, 0#16, start⟩ }
  obtain ⟨u, hu⟩ : ∃ u, s.modGen (fun g => { g with eprog := ⟨true, 0#16, start⟩ }) = u := ⟨_, rfl⟩
  rw [hu] at hmove
  have hgen := hmove.gen
  have hcount : ((s.here.rG b).val.setWidth 16).toNat = n := BitVec.toNat_setWidth ..
  obtain ⟨new, hmoved, hnew, hall⟩ := emitrGo_copies (s := u) (d := d) (n := (s.here.rG b).val.setWidth 16) (band := (s.here.rG b).band)
    (gs := gs) (fuel := 65) (by rw [hgen, hcount, hlen]; exact Nat.zero_add n) (by rw [hgen]; exact hmove.groupsAt hgs)
    (by rw [hgen, ← hlen] at *; exact ⟨hroom, hmarks⟩) (by omega)
  have hexec : exec (.emitr d a b) s = .next (emitrGo u d ((s.here.rG b).val.setWidth 16) (s.here.rG b).band 65) := by
    change execEmitr d a b s = _
    rw [execEmitr, if_neg (by simp [ha, hb]), if_neg (by rw [show s.gen.eprog.active = false from hidle]; exact Bool.false_ne_true)]
    rw [← hu]
    rfl
  refine ⟨_, new, hexec, hmoved.mem.trans hmove.mem, hnew.trans hlen, ?_, fun i r p hr hp => ?_⟩
  · have htrans := hmove.trans hmoved
    rw [hgen] at htrans
    have hval : zext64 ((s.here.rG b).val.setWidth 16) = BitVec.ofNat 64 n := by
      rw [← hcount, BitVec.ofNat_toNat]
    rw [htrans.2, hval, hlen]
  · obtain ⟨hwords, hband, hprov, hsnap, hlead⟩ := hall i r p hr hp
    rw [hgen] at hprov
    exact ⟨hwords, hband.trans hmove.band, hprov, hsnap, hlead⟩

end Sys2Proof.Machine
end

section
/-! SUPPORT. Loads and stores of the Milliner (04_generator R91, 08_memory R232, R233): O33. -/
namespace Sys2Proof.Machine

/-! ### What a read of the generator leaves as it is -/

theorem noteRead_cur (s : State) (fe : FeId) (u : XUnit) (strong : Bool) (scope : BitVec 2) (seq : Nat) (ps : List Piece) :
    (noteRead s fe u strong scope seq ps).cur = s.cur := by
  unfold noteRead
  dsimp only
  repeat' split
  all_goals rfl

/-- A line of a page that is not guarded comes in without an error of the media (R321). -/
theorem fillLine_unguarded {s : State} {fe : FeId} {l : Leaf} {k : Nat} (h : l.guard = false) : fillLine s fe l k = s := by
  have herr : mediaErr s l.guard (k / 64) = none := by rw [mediaErr, h]; rfl
  simp only [fillLine, herr, ite_self]

theorem touchLine_mem_unguarded {s : State} {fe : FeId} {l : Leaf} {k : Nat} (h : l.guard = false) :
    (touchLine s fe l k).mem = s.mem := by
  unfold touchLine
  rw [fillLine_unguarded h]
  dsimp only
  split
  · split <;> rfl
  · rfl

/-! ### The value of a load (R91, R254) -/

theorem loadBytes_eq {s : State} {fe : FeId} {l : Leaf} {strong : Option (BitVec 2)} {seq k n : Nat}
    (h : ∀ j, j < n → olderUnit s fe strong seq (l.place fe) ((k + j) / 8) = none) :
    loadBytes s fe l strong seq k n = (List.range n).map (fun j => leafByte s fe l (k + j)) := by
  induction n generalizing k with
  | zero => rfl
  | succ n ih =>
    have hfirst : loadByte s fe l strong seq k = leafByte s fe l k := by
      have hnone : olderUnit s fe strong seq (l.place fe) (k / 8) = none := h 0 (Nat.zero_lt_succ n)
      rw [loadByte, hnone]
    rw [loadBytes, hfirst, ih fun j hj => by rw [Nat.add_right_comm]; exact h (j + 1) (Nat.succ_lt_succ hj), List.range_succ_eq_map,
      List.map_cons, List.map_map, Nat.add_zero]
    refine congrArg _ (List.map_congr_left fun j _ => ?_)
    rw [Function.comp_apply, Nat.succ_eq_add_one, Nat.add_right_comm, Nat.add_assoc]

theorem zipIdx_map_range {α β : Type} (f : Nat → α) (g : α × Nat → β) (n : Nat) :
    (((List.range n).map f).zipIdx).map g = (List.range n).map (fun j => g (f j, j)) := by
  refine List.ext_getElem (by simp) fun i hi hi' => ?_
  simp

/-- With no own store under way and no older store to return, a piece reads what the front end sees through the leaf. -/
theorem memPiece_newest {s : State} {fe : FeId} {u : XUnit} {strong : Option (BitVec 2)} {seq n : Nat} {ea : Word} {l : Leaf}
    (hx : translate s fe u ea = .ok l)
    (hold : ∀ j, j < n → olderUnit s fe strong seq (l.place fe) ((l.keyOf ea + j) / 8) = none) :
    memPiece s fe u strong [] seq ⟨0, ea, n⟩ = (List.range n).map (fun j =>
      (j, leafByte s fe l (l.keyOf ea + j), leafPoison s fe l (l.keyOf ea))) := by
  have hcrc (j : Nat) : (if l.crcByte (l.keyOf ea + j) then 0#8 else leafByte s fe l (l.keyOf ea + j)) = leafByte s fe l (l.keyOf ea + j) := by
    split
    · next h => rw [leafByte, if_pos h]
    · rfl
  simp only [memPiece, hx, loadBytes_eq hold, zipIdx_map_range, ownOver, ownPoison, hcrc, Nat.zero_add]

/-- A word read as the bytes it was made of. -/
theorem extract_readWord {f : Nat → Byte} {p : Bool} {j : Nat} (hj : j < 8) :
    (readWord ((List.range 8).map (fun i => (i, f i, p)))).extractLsb' (8 * j) 8 = f j := by
  rw [readWord, extractLsb'_ofNat (by omega)]
  refine bytesNat_digit ?_
  simp [hj]

/-- The little-endian bytes of a number are its base-256 digits (R3). -/
theorem natBytes_eq_map (x n : Nat) : natBytes x n = (List.range n).map (fun j => BitVec.ofNat 8 (x / 2 ^ (8 * j))) := by
  induction n generalizing x with
  | zero => rfl
  | succ n ih =>
    have hdiv (j : Nat) : x / 256 / 2 ^ (8 * j) = x / 2 ^ (8 * (j + 1)) := by
      rw [Nat.div_div_eq_div_mul, Nat.mul_add, Nat.pow_add, Nat.mul_comm]
    rw [natBytes, ih, List.range_succ_eq_map, List.map_cons, List.map_map]
    simp [Function.comp_def, hdiv]

/-- The bytes that a store of a word writes from a key on. -/
theorem wordBytes_eq (x : Word) (k : Nat) : ((natBytes x.toNat 8).zipIdx).map (fun b => (k + b.2, b.1))
    = (List.range 8).map (fun j => (k + j, x.extractLsb' (8 * j) 8)) := by
  rw [natBytes_eq_map, zipIdx_map_range]
  refine List.map_congr_left fun j _ => Prod.ext rfl (BitVec.eq_of_toNat_eq ?_)
  rw [BitVec.extractLsb'_toNat, BitVec.toNat_ofNat, Nat.shiftRight_eq_div_pow]

/-! ### The access (R86, R91) -/

/-- A generator access at `ea`, computed from the register `x`, goes through the leaf `l`: no earlier `gst`, no fault and no stall
holds it up (R86, R91, R321). -/
structure GenReaches (s : State) (x : SReg) (ea : Word) (write : Bool) (l : Leaf) : Prop where
  free : gstOut s.here = false
  clean : x.poison = false
  aligned : ea.toNat % 8 = 0
  outside : isSpm ea = false
  leaf : translate s s.cur .gen ea = .ok l
  page : l.page63 ea = false
  perm : (if write then l.w else l.r) = true
  space : (if write then spGst else spGld) (l.spaceAt ea) = true
  held : genHeld s s.cur l ea write = false

theorem genAccess_runs {s : State} {x : SReg} {ea : Word} {write : Bool} {l : Leaf} (h : GenReaches s x ea write l)
    (f : State → Leaf → State) : genAccess s x ea write f = f s l := by
  obtain ⟨hgst, hp, ha, hspm, hx, h63, hperm, hspace, hheld⟩ := h
  simp only [genAccess, show gstOut (s.ctx s.cur) = false from hgst, hp, ha, hspm, hx, hperm, hspace, h63, hheld]
  rfl

section
variable {s : State} {d a : BitVec 5} {imm : BitVec 16} {ea : Word} {l : Leaf}

/-- The state after a `gld` that reads `v` through a leaf (R91, R254, R263). -/
theorem exec_gld {v : List (Nat × Byte × Bool)} (hea : ea = (s.here.rG a).val + imm.signExtend 64)
    (h : GenReaches s (s.here.rG a) ea false l) (hmedia : mediaFault s s.cur l ea = none)
    (hv : v = memPiece s s.cur .gen (some (widestScope l.cls)) s.here.stq.sb s.here.nextSeq ⟨0, ea, 8⟩) :
    exec (.gld d a imm) s = .next ((touchLine (noteRead s s.cur .gen true (widestScope l.cls) s.here.nextSeq [⟨0, ea, 8⟩]) s.cur l
      (l.keyOf ea)).modGen (fun g => { g with
        g := if d = 0#5 then g.g else vset g.g d ⟨readWord v, l.band, v.any (·.2.2)⟩, gpc := g.gpc + 1#16 })) := by
  subst hea hv
  change execGld d a imm s = _
  rw [execGld, genAccess_runs h]
  simp only [hmedia, setG_next, noteRead_cur]

/-- The entry of the store buffer that a `gst` of the value `y` through a leaf makes (R91, R233, R321). -/
def gstEntry (seq : Nat) (ea : Word) (l : Leaf) (y : SReg) : StoreEnt :=
  ⟨seq, ea, ((List.range 8).map (fun j => (l.keyOf ea + j, y.val.extractLsb' (8 * j) 8))).filter (fun b => !l.crcByte b.1),
    if y.poison then [l.keyOf ea / 64] else [], y.band, true, widestScope l.cls, l.cls, true, ea - BitVec.ofNat 64 (l.keyOf ea % 256),
    false⟩

/-- The state after a `gst` (R91, R233). -/
theorem exec_gst (hea : ea = (s.here.rG a).val + imm.signExtend 64) (h : GenReaches s (s.here.rG a) ea true l)
    (hfault : storePieceFault l ea (s.here.rG d).band (s.here.rG d).poison = none) :
    exec (.gst d a imm) s = .next ((s.modCtx s.cur (fun c => { c with
      stq := { c.stq with gate := [], sb := c.stq.sb ++ c.stq.gate ++ [gstEntry s.here.nextSeq ea l (s.here.rG d)] },
      nextSeq := c.nextSeq + 1 })).modGen (fun g => { g with gpc := g.gpc + 1#16 })) := by
  subst hea
  change execGst d a imm s = _
  rw [execGst, genAccess_runs h]
  simp only [hfault, wordBytes_eq]
  rfl

end

/-- Settles O33: nothing holds the access up (`genAccess_runs`); with nothing of its own to see, a `gld` reads the bytes that the
cluster sees (`memPiece_newest`). -/
theorem generatorLoadsAndStoresAreStrong : Obligations.GeneratorLoadsAndStoresAreStrong := by
  unfold Obligations.GeneratorLoadsAndStoresAreStrong
  intro s d a imm l ea y k scope p hgst hp ha hspm hx h63
  refine ⟨fun hr hspace hheld hmedia => ?_, fun hw hspace hheld hfault => ?_⟩
  · intro rd t
    have hspace' : spGld (l.spaceAt ea) = true := by rcases hspace with h | h <;> rw [h] <;> rfl
    refine ⟨exec_gld rfl ⟨hgst, hp, ha, hspm, hx, h63, hr, hspace', hheld⟩ hmedia rfl, fun hguard b => ?_, fun hsb hold => ?_⟩
    · change memRead (touchLine _ s.cur l k).mem b = _
      rw [touchLine_mem_unguarded hguard, noteRead_mem]
    · have hrd : rd = (List.range 8).map (fun j => (j, leafByte s s.cur l (k + j), leafPoison s s.cur l k)) := by
        change memPiece s s.cur .gen (some scope) s.here.stq.sb s.here.nextSeq p = _
        rw [hsb]
        exact memPiece_newest hx hold
      rw [hrd]
      exact ⟨fun j hj => extract_readWord hj, by simp [List.range_succ]⟩
  · intro e t
    have hspace' : spGst (l.spaceAt ea) = true := by rcases hspace with h | h | h <;> rw [h] <;> rfl
    refine ⟨exec_gst rfl ⟨hgst, hp, ha, hspm, hx, h63, hw, hspace', hheld⟩ hfault, ?_, fun _ => rfl⟩
    change gstOut (((s.modCtx s.cur _).modCtx s.cur _).ctx s.cur) = true
    rw [State.ctx_modCtx_same, State.ctx_modCtx_same]
    simp [gstOut, e]

end Sys2Proof.Machine
end

section
/-! SUPPORT. The ends of waits: of contexts, Milliners and routines (09_ordering R261, 12_tasks R342 to R348, 07_matrix R200 to
R205): O43. -/
namespace Sys2Proof.Machine

/-! ### Waits of a context (R342 to R348) -/

theorem waitEnds_of_endWait {i : Instr} {s s0 : State} {fe : FeId} {w : List RegW} (h : exec i s = .next (endWait s0 fe w)) :
    WaitEnds i s s0 fe w := h

theorem ule_of_toNat_le {n : Nat} {x y : BitVec n} (h : x.toNat ≤ y.toNat) : x.ule y = true := by
  rw [BitVec.ule_eq_decide]
  exact decide_eq_true h

section Context
variable {s : State} {fe : FeId}

theorem exec_fenceComplete {ty scope : BitVec 2} (hfrz : (s.ctx fe).frz = .fence ty scope) (hloads : loadsReturned (s.ctx fe) = true)
    (hacc : ty.getLsbD 1 = true → accessesPerformed (s.ctx fe) scope = true) :
    exec (.fenceComplete fe) s = .next (fenced (s.setCtx fe { s.ctx fe with frz := .none }) fe ty scope) := by
  have hcond : (loadsReturned (s.ctx fe) && (!ty.getLsbD 1 || accessesPerformed (s.ctx fe) scope)) = true := by
    rw [hloads, Bool.true_and, Bool.or_eq_true, Bool.not_eq_true']
    exact or_iff_not_imp_left.mpr fun h => hacc (Bool.not_eq_false _ ▸ h)
  change execFenceComplete fe s = _
  simp only [execFenceComplete, hfrz, hcond, if_true]

theorem tfenceComplete_waitEnds {scope : BitVec 2} {since : Nat} (hfrz : (s.ctx fe).frz = .tfence scope since) :
    WaitEnds (.tfenceComplete fe) s (dropRewritten s fe scope) fe [] := by
  refine waitEnds_of_endWait ?_
  change execTfenceComplete fe s = _
  simp only [execTfenceComplete, hfrz]

/-- The wait of a context is one of its pending entries. -/
theorem waiting_of_mem {c : Ctx} (h : ∃ p ∈ c.pend, ∃ f, p.kind = .wait f) : ∃ p, c.waiting = some p := by
  obtain ⟨p, hp, f, hf⟩ := h
  rw [← Option.isSome_iff_exists, Ctx.waiting, List.find?_isSome]
  exact ⟨p, hp, by simp [hf]⟩

/-- A `tfence` that has overrun its time stops the context with T23 (R364). -/
theorem tfenceTimeout_stops {scope : BitVec 2} {since : Nat} (hfrz : (s.ctx fe).frz = .tfence scope since)
    (htime : since + 2 ^ 24 ≤ s.cycle) (hwait : ∃ p ∈ (s.ctx fe).pend, ∃ f, p.kind = .wait f) :
    ∃ t, exec (.tfenceTimeout fe) s = .next t ∧ (t.ctx fe).life = .stopped ∧ (t.ctx fe).parkB = some .t23 := by
  obtain ⟨p, hp⟩ := waiting_of_mem hwait
  obtain ⟨l, hl⟩ := trapB_stops (s := s.modCtx fe (fun c => c.clearDeny .core 0#64)) (fe := fe) (cause := .t23)
    (mask := 1#8 <<< p.slot.toNat) (prov := p.prov) (word := p.word) (addr := 0#64) (.inl rfl)
  refine ⟨_, ?_, by rw [hl], by rw [hl]⟩
  change execTfenceTimeout fe s = _
  simp only [execTfenceTimeout, hfrz, faultWait, hp]
  rw [if_pos htime]

theorem twaitRelease_waitEnds {tl scope : BitVec 2} {n : Word} (hfrz : (s.ctx fe).frz = .twait tl n scope)
    (hdone : n.toNat ≤ ((s.ctx fe).timeline tl).done.toNat) :
    WaitEnds (.twaitRelease fe) s (s.takeSync fe (syncTimeline fe tl)) fe [] := by
  refine waitEnds_of_endWait ?_
  change execTwaitRelease fe s = _
  simp only [execTwaitRelease, hfrz, ule_of_toNat_le hdone, if_true]

theorem exec_cdrainRelease {ch : Bool} {n : Word} (hfrz : (s.ctx fe).frz = .cdrain ch n)
    (hdone : n.toNat ≤ ((s.ctx fe).timeline (chIdx ch)).done.toNat) :
    exec (.cdrainRelease fe) s
      = .next ((s.setCtx fe { s.ctx fe with frz := .none }).takeSync fe (syncTimeline fe (chIdx ch))) := by
  change execCdrainRelease fe s = _
  simp only [execCdrainRelease, hfrz, ule_of_toNat_le hdone, if_true]

theorem bwaitRelease_waitEnds {ea : Word} {ph : BitVec 32} (hfrz : (s.ctx fe).frz = .bwait ea ph) (hpeer : peerOk s fe ea 32 = true)
    (hfault : basinFault s fe (apertureHome fe ea) (spmOff ea) = none)
    (hdone : phaseDone (readBasin (s.ctx (apertureHome fe ea)).spm (spmOff ea)).ph ph = true) :
    WaitEnds (.bwaitRelease fe) s (s.takeSync fe (syncBasin (apertureHome fe ea) (spmOff ea))) fe [] := by
  refine waitEnds_of_endWait ?_
  change execBwaitRelease fe s = _
  simp only [execBwaitRelease, hfrz, hpeer, hfault, hdone, if_true]
  rfl

/-! ### Waits that read a word (R346, R347) -/

/-- A strong read of a wait leaves the place of the word as it was. -/
theorem sigPlace_noteStrong (scope : BitVec 2) (place : Option Nat) (unit : Nat) (ea : Word) (write : Bool) :
    sigPlace (noteStrong s fe scope place unit) fe ea write = sigPlace s fe ea write := by
  unfold noteStrong
  split
  · rfl
  · next v _ =>
    have hx : translate (s.modCtx fe (fun c => { c with ord := c.ord.reads (agentCtx fe) true scope v })) fe .core ea
        = translate s fe .core ea := by
      unfold translate
      rw [State.ctx_modCtx_same]
      rfl
    unfold sigPlace
    rw [hx]
    rfl

/-- The word of a wait can be read: no strong access is outstanding, its place is good, and the word w is not poisoned. -/
def WaitReads (s : State) (fe : FeId) (ea : Word) (l : Leaf) (k : Nat) (w : Word) : Prop :=
  strongOutstanding (s.ctx fe) = false ∧ sigPlace s fe ea false = .ok l k ∧ strongWord s fe k = (w, false)

theorem waitRead_reads {ea w : Word} {l : Leaf} {k : Nat} (h : WaitReads s fe ea l k w) (f : State → Leaf → Word → State) :
    waitRead s fe ea f = f (noteStrong s fe l.wide none (k / 8)) l w := by
  obtain ⟨hstrong, hplace, hword⟩ := h
  simp only [waitRead, hstrong, hplace, hword, Bool.false_eq_true, if_false]

theorem sigwaitRelease_waitEnds {ea w : Word} {d : BitVec 6} {l : Leaf} {k : Nat} (hfrz : (s.ctx fe).frz = .sigwait ea d)
    (hread : WaitReads s fe ea l k w) (hrel : signalReleased w = true) :
    WaitEnds (.sigwaitRelease fe) s ((noteStrong s fe l.wide none (k / 8)).takeSync fe (syncSignal k)) fe [.s d ⟨w, l.band, false⟩] := by
  obtain ⟨-, hplace, -⟩ := id hread
  refine waitEnds_of_endWait ?_
  change execSigwaitRelease fe s = _
  simp only [execSigwaitRelease, hfrz, waitRead_reads hread, hrel, if_true, sigPlace_noteStrong, hplace]

theorem mwaitEnd_waitEnds {ea w : Word} {d : BitVec 6} {b : SReg} {tmo : BitVec 16} {since : Nat} {l : Leaf} {k : Nat}
    (hfrz : (s.ctx fe).frz = .mwait ea d b tmo since) (hread : WaitReads s fe ea l k w) (hne : w ≠ b.val) :
    WaitEnds (.mwaitEnd fe) s (noteStrong s fe l.wide none (k / 8)) fe [.s d ⟨w, l.band, false⟩] := by
  refine waitEnds_of_endWait ?_
  change execMwaitEnd fe s = _
  simp only [execMwaitEnd, hfrz, waitRead_reads hread]
  rw [if_pos hne]

theorem mwaitTimeout_waitEnds {ea w : Word} {d : BitVec 6} {b : SReg} {tmo : BitVec 16} {since : Nat} {l : Leaf} {k : Nat}
    (hfrz : (s.ctx fe).frz = .mwait ea d b tmo since) (hread : WaitReads s fe ea l k w) (heq : w = b.val) (htmo : tmo ≠ 0#16)
    (htime : since + tmo.toNat * 1024 ≤ s.cycle) :
    WaitEnds (.mwaitTimeout fe) s (noteStrong s fe l.wide none (k / 8)) fe [.s d ⟨w, l.band, false⟩] := by
  subst heq
  refine waitEnds_of_endWait ?_
  change execMwaitTimeout fe s = _
  simp only [execMwaitTimeout, hfrz, waitRead_reads hread, if_true]
  rw [if_pos ⟨htmo, htime⟩]

/-! ### The Milliner (R99, R102) -/

/-- A Milliner that goes on tries the word at GPC again. -/
theorem genRetry_retries {w : BitVec 32} (hw : genWord s fe = some w) :
    ((genRetry s fe).ctx fe) = { s.ctx fe with gen := { (s.ctx fe).gen with stat := .running } } ∧
    (genRetry s fe).agenda = Act.gen fe w :: s.agenda ∧ (genRetry s fe).mem = s.mem := by
  have hretry : genRetry s fe = { s.modCtx fe (fun c => { c with gen := { c.gen with stat := .running } }) with
      agenda := .gen fe w :: s.agenda } := by
    simp only [genRetry, hw]
    rfl
  have hctx := State.ctx_modCtx_same s fe (fun c => { c with gen := { c.gen with stat := .running } })
  rw [hretry]
  exact ⟨hctx, rfl, rfl⟩

end Context

/-! ### Routines (R171, R201, R205) -/

section Routine
variable {s : State} {fe : FeId} {r : MRun}

theorem ringWaitRelease_wakes {k : BitVec 2} {t : Nat} (hrun : (s.mat fe).run = some r) (hwait : r.wait = .ring k t)
    (hfill : t < ((s.mat fe).ring (r.handle k.toNat)).fill.toNat) : RoutineWakes (.ringWaitRelease fe) s fe r := by
  change execRingWaitRelease fe s = _
  simp only [execRingWaitRelease, hrun, hwait]
  rw [if_pos hfill]
  rfl

theorem scaleQueueWaitRelease_wakes (hrun : (s.mat fe).run = some r) (hwait : r.wait = .scale)
    (hready : ∀ p, (s.mat fe).scale.head? = some p → p.ready = true) : RoutineWakes (.scaleQueueWaitRelease fe) s fe r := by
  have hhead : ((s.mat fe).scale.head?.map (·.ready)).getD true = true := by
    cases hp : (s.mat fe).scale.head? with
    | none => rfl
    | some p => exact hready p hp
  change execScaleQueueWaitRelease fe s = _
  simp only [execScaleQueueWaitRelease, hrun]
  rw [if_pos ⟨hwait, hhead⟩]
  rfl

/-! ### A group at its `syncc` (R205) -/

/-- The routine after its `syncc`. -/
def MRun.synced (q : MRun) : MRun := ({ q.setOrdinal (q.ordinal + 1) with wait := .none, waited := 0 }).setMpc (q.mpc + 1)

/-- A member passes its `syncc`; no other context changes. -/
theorem passSync_eq {q : MRun} (hrun : (s.mat fe).run = some q) (hpc : q.mpc + 1 < 4096) :
    passSync s fe = ({ s with cur := fe }).modMat fe (fun _ => { s.mat fe with run := some q.synced }) := by
  have hmpc : ({ q.setOrdinal (q.ordinal + 1) with wait := .none, waited := 0 } : MRun).mpc = q.mpc := by
    change bitsOf ((q.setOrdinal (q.ordinal + 1)).word 10) 0 12 = bitsOf (q.word 10) 0 12
    rw [MRun.setOrdinal, word_setField_other (by decide)]
  simp only [passSync, hrun, microNext, microGoto, hmpc]
  rw [if_neg (Nat.not_le.mpr hpc)]
  rfl

/-- Members that pass together each go on at their next word, and no other context changes. -/
theorem foldl_passSync {l : List FeId} (hnodup : l.Nodup) (hmem : ∀ g ∈ l, ∃ q, (s.mat g).run = some q ∧ q.mpc + 1 < 4096) :
    (l.foldl passSync s).mem = s.mem ∧
    ∀ g, (g ∉ l → (l.foldl passSync s).ctx g = s.ctx g) ∧
      (g ∈ l → ∀ q, (s.mat g).run = some q → ((l.foldl passSync s).mat g).run = some q.synced) := by
  induction l generalizing s with
  | nil => exact ⟨rfl, fun g => ⟨fun _ => rfl, fun h => by cases h⟩⟩
  | cons a t ih =>
    obtain ⟨ha, ht⟩ := List.nodup_cons.mp hnodup
    obtain ⟨q, hq, hpc⟩ := hmem a List.mem_cons_self
    have hother (g : FeId) (hg : g ≠ a) : (passSync s a).ctx g = s.ctx g := by
      rw [passSync_eq hq hpc]
      exact State.ctx_modCtx_other _ _ hg
    have hne {g : FeId} (hg : g ∈ t) : g ≠ a := fun h => ha (h ▸ hg)
    obtain ⟨hkeep, hall⟩ := ih (s := passSync s a) ht fun g hg => by
      rw [State.mat, hother g (hne hg)]
      exact hmem g (List.mem_cons_of_mem _ hg)
    rw [List.foldl_cons]
    refine ⟨hkeep.trans (by rw [passSync_eq hq hpc]; rfl), fun g => ⟨fun hg => ?_, fun hg p hp => ?_⟩⟩
    · obtain ⟨hga, hgt⟩ := not_or.mp (mt List.mem_cons.mpr hg)
      exact ((hall g).1 hgt).trans (hother g hga)
    · rcases List.mem_cons.mp hg with rfl | hgt
      · rw [State.mat, (hall g).1 ha, passSync_eq hq hpc]
        cases hq.symm.trans hp
        rw [State.modMat, State.ctx_modCtx_same]
      · exact (hall g).2 hgt p (by rw [State.mat, hother g (hne hgt)]; exact hp)

theorem atSync_of_run {q : MRun} (hrun : (s.mat fe).run = some q) (hwait : q.wait = .sync) (hfrozen : q.frozen = false)
    (htag : pmTAG q.params = pmTAG r.params) (hrout : q.rout = r.rout) (hord : q.ordinal = r.ordinal) : atSync s r fe = true := by
  simp [atSync, hrun, hwait, hfrozen, htag, hrout, hord]

/-! ### A group that has overrun its time (R205) -/

theorem mget_map_rel {α : Type} {R : α → α → Prop} (hR : ∀ x, R x x) (d : α) (l : List (Nat × α)) (f : Nat × α → Nat × α)
    (hf : ∀ p, (f p).1 = p.1 ∧ R p.2 (f p).2) (k : Nat) : R (mget d l k) (mget d (l.map f) k) := by
  induction l with
  | nil => exact hR d
  | cons p t ih =>
    obtain ⟨hkey, hval⟩ := hf p
    rw [List.map_cons, mget, mget, hkey]
    split
    · exact hval
    · exact ih

/-- Another context of a failed task is asked to stop, at most. -/
theorem stopOthers_ctx_other (s : State) (g fe : FeId) (task : BitVec 32) :
    ∃ x, (stopOthers s g task).ctx fe = { s.ctx fe with stops := x } := by
  refine mget_map_rel (R := fun c d => ∃ x, d = { c with stops := x }) (fun c => ⟨c.stops, rfl⟩) Ctx.reset s.ctxs _ (fun p => ?_) fe.toNat
  split
  · exact ⟨rfl, _, rfl⟩
  · exact ⟨rfl, _, rfl⟩

theorem departCtx_ctx_other {g : FeId} (h : fe ≠ g) : (departCtx s g).ctx fe = s.ctx fe := by
  unfold departCtx
  dsimp only
  split
  · exact State.ctx_modCtx_other _ _ h
  · exact State.ctx_setCtx_other _ _ h

/-- A kill of one context asks another one to stop, at most. -/
theorem killCtx_ctx_other {g : FeId} (h : fe ≠ g) : ∃ x, (killCtx s g).ctx fe = { s.ctx fe with stops := x } := by
  have hdiscard : (discardEngines s g).ctx fe = s.ctx fe := State.ctx_modCtx_other _ _ h
  obtain ⟨x, hx⟩ := stopOthers_ctx_other ({ discardEngines s g with disp := { s.disp with tasks := s.disp.tasks.map (fun t =>
    if t.id = (s.ctx g).ident.task then { t with st := .failed } else t) } }) g fe (s.ctx g).ident.task
  refine ⟨x, ?_⟩
  rw [killCtx_eq, departCtx_ctx_other h, killedState, hx]
  exact congrArg (fun c : Ctx => { c with stops := x }) hdiscard

theorem mtrap_ctx_other {g : FeId} (h : fe ≠ g) (q : MRun) (cause : Cause) (word addr : Word) :
    ∃ x, (mtrap s g q cause word addr).ctx fe = { s.ctx fe with stops := x } := by
  obtain ⟨l, hl, hsame⟩ := putRec_ctx s g fe (mkRec s g cause false 0#8 true (false && false) 0#16 0#16 q.cmd.prov word addr 0#64 0#64)
  obtain ⟨x, hx⟩ := killCtx_ctx_other (s := putRec s g _) h
  exact ⟨x, hx.trans (by rw [hl, hsame h])⟩

theorem groupTimeout_ctx_other {g : FeId} (h : fe ≠ g) : ∃ x, (groupTimeout s g).ctx fe = { s.ctx fe with stops := x } := by
  unfold groupTimeout
  split
  · exact ⟨_, rfl⟩
  · split
    · exact mtrap_ctx_other h ..
    · exact ⟨_, rfl⟩

theorem foldl_groupTimeout_ctx_other {l : List FeId} (h : fe ∉ l) :
    ∃ x, (l.foldl groupTimeout s).ctx fe = { s.ctx fe with stops := x } := by
  induction l generalizing s with
  | nil => exact ⟨_, rfl⟩
  | cons a t ih =>
    obtain ⟨ha, ht⟩ := not_or.mp (mt List.mem_cons.mpr h)
    obtain ⟨x, hx⟩ := groupTimeout_ctx_other (s := s) ha
    obtain ⟨y, hy⟩ := ih (s := groupTimeout s a) ht
    exact ⟨y, by rw [List.foldl_cons, hy, hx]⟩

/-- A waiting member of an overrun group is killed. -/
theorem foldl_groupTimeout_kills {l : List FeId} (hnodup : l.Nodup) (hmem : fe ∈ l) (hrun : (s.mat fe).run = some r)
    (hwait : waitsForGroup r = true) : ((l.foldl groupTimeout s).ctx fe).life ≠ .running := by
  obtain ⟨l1, l2, rfl⟩ := List.append_of_mem hmem
  obtain ⟨-, hnodup2, hdisj⟩ := List.nodup_append.mp hnodup
  have h1 : fe ∉ l1 := fun h => hdisj fe h fe List.mem_cons_self rfl
  obtain ⟨h2, -⟩ := List.nodup_cons.mp hnodup2
  obtain ⟨x, hx⟩ := foldl_groupTimeout_ctx_other (s := s) h1
  obtain ⟨y, hy⟩ := foldl_groupTimeout_ctx_other (s := groupTimeout (l1.foldl groupTimeout s) fe) h2
  have hrun' : ((l1.foldl groupTimeout s).mat fe).run = some r := by
    rw [State.mat, hx]
    exact hrun
  have hgone : isBound ((groupTimeout (l1.foldl groupTimeout s) fe).ctx fe) = false := by
    simp only [groupTimeout, hrun', hwait, if_true]
    exact mtrap_unbinds ..
  rw [List.foldl_append, List.foldl_cons, hy]
  intro hlife
  have hlife' : ((groupTimeout (l1.foldl groupTimeout s) fe).ctx fe).life = .running := hlife
  rw [isBound, hlife'] at hgone
  cases hgone

end Routine

/-- Settles O43: each event by the lemma about its own wait above; the members of a group pass one after the other
(`foldl_passSync`), or fall one after the other (`foldl_groupTimeout_kills`). -/
theorem waitsEndWithTheirCondition : Obligations.WaitsEndWithTheirCondition := by
  unfold Obligations.WaitsEndWithTheirCondition
  intro s fe tl scope ty n ea ch since ph d b tmo l k w gw r kk tile c home seen reads
  refine ⟨exec_fenceComplete, fun hfrz => ⟨tfenceComplete_waitEnds hfrz, tfenceTimeout_stops hfrz⟩, twaitRelease_waitEnds,
    exec_cdrainRelease, fun hfrz hpeer hfault hlo hhi => bwaitRelease_waitEnds hfrz hpeer hfault (decide_eq_true ⟨hlo, hhi⟩),
    fun hfrz hread hrel => sigwaitRelease_waitEnds hfrz hread (by simpa [signalReleased] using hrel),
    fun hfrz hread => ⟨mwaitEnd_waitEnds hfrz hread, mwaitTimeout_waitEnds hfrz hread⟩, fun hgw i hi => ?retry,
    fun hrun => ⟨ringWaitRelease_wakes hrun, scaleQueueWaitRelease_wakes hrun, fun hwait hnodup hall => ?sync,
      fun hwait htime hnodup hmem => ?timeout⟩⟩
  case retry =>
    obtain ⟨hctx, hagenda, hmem⟩ := genRetry_retries hgw
    refine ⟨genRetry s fe, ?_, hctx, hagenda, fun a => by rw [hmem]⟩
    rcases hi with ⟨rfl, hstat, hroom⟩ | ⟨rfl, hstat, hover⟩
    · exact congrArg Host.Outcome.next (if_pos ⟨hstat, hroom⟩)
    · exact congrArg Host.Outcome.next (if_pos ⟨hstat, hover⟩)
  case sync =>
    have hat : (pmMembers r.params).all (atSync s r) = true := List.all_eq_true.mpr fun g hg => by
      obtain ⟨q, hq, hsync, hfrozen, htag, hrout, hord, -⟩ := hall g hg
      exact atSync_of_run hq hsync hfrozen htag hrout hord
    obtain ⟨hmem, hpass⟩ := foldl_passSync (s := s) hnodup fun g hg => by
      obtain ⟨q, hq, -, -, -, -, -, hpc⟩ := hall g hg
      exact ⟨q, hq, hpc⟩
    refine ⟨{ (pmMembers r.params).foldl passSync s with cur := s.cur }, ?_, rfl, fun a => congrArg (memRead · a) hmem,
      fun g hg q hq => (hpass g).2 hg q hq⟩
    have hrun' : (s.mat fe).run = some r := hrun
    change execSynccRelease fe s = _
    simp only [execSynccRelease, hrun']
    rw [if_pos ⟨hwait, hat⟩]
  case timeout =>
    have hgroup : waitsForGroup r = true := by
      rcases hwait with h | ⟨x, h⟩ <;> rw [waitsForGroup, h]
    refine ⟨_, ?_, foldl_groupTimeout_kills hnodup hmem hrun hgroup⟩
    have hrun' : (s.mat fe).run = some r := hrun
    change execCooperativeTimeout fe s = _
    simp only [execCooperativeTimeout, hrun']
    rw [if_pos ⟨hgroup, htime⟩]

end Sys2Proof.Machine
end

section
/-! SUPPORT. The write of a held record (O42): a context that runs again then may trap at once, which puts a second record
into the ring. -/
namespace Sys2Proof.Machine
open Sys2Proof.Tests

/-- The frozen routine of a context of tenant 1, whose accumulator unit 0 carries a band of tenant 2. -/
def crossBandMat : Mat := { cx.eng.mat with
  accBand := [(0, 0x20#8)]
  run := some { mrun (.call 0#4 0#6 0#16) 1 with
    band := 0x10#8
    frozen := true } }

/-- A context stopped at T20, whose page the PRI has brought and whose record is still held. -/
def answeredCx : Ctx := { cx with
  life := .stopped
  parkB := some .t20
  priOk := true
  held := [trapRec]
  eng := { cx.eng with mat := crossBandMat } }

/-- The device with that context and an enabled, empty ring of 16 records at 0. -/
def heldRecordState : State := { dev answeredCx with clusters := [(0, { Cluster.reset with trctl := 0x14#6 })] }

/-- The write releases the context, whose routine then cannot join the bands and traps with P06: the ring takes two records. -/
theorem trhead_execPendingTrapRecordWrite_heldRecordState :
    ∀ t, execPendingTrapRecordWrite 0#9 heldRecordState = .next t → (t.cluster (clusterOf 0#9)).trhead = 2#32 := by
  rintro t ⟨⟩
  decide +kernel

/-- Refutes O42: the context that the write of its held record releases resumes its frozen routine (R189), which may trap with
P06 (R169) and put a record of its own into the ring: TRHEAD advances by 2. -/
theorem not_translationAndCrownEventsAct : ¬ Obligations.TranslationAndCrownEventsAct := by
  unfold Obligations.TranslationAndCrownEventsAct
  intro h
  obtain ⟨-, -, -, -, -, -, -, hrecord⟩ := h heldRecordState 0#9 .core 0#64 0#64 0#4 false false hbmLeaf .t20 0#4 0#64 0#8 0#32 false
    trapRec []
  obtain ⟨t, ht, -, htrhead, -⟩ := hrecord rfl (by decide +kernel) (by decide +kernel) (by decide +kernel) (by decide +kernel)
    (by decide +kernel)
  have htwo := trhead_execPendingTrapRecordWrite_heldRecordState t ht
  rw [htwo] at htrhead
  exact absurd htrhead (by decide +kernel)

end Sys2Proof.Machine
end

section
/-! SUPPORT. Divisions, bit counts, bit fields, selects, compares and predicate ops of the S slot (05_scalar R117 to R123): O2, O3
and O5. -/
namespace Sys2Proof.Machine

/-! ### Divisions (R118) -/

theorem sdiv_eq_ofInt (x y : Word) : x.sdiv y = BitVec.ofInt 64 (x.toInt.tdiv y.toInt) :=
  BitVec.eq_of_toInt_eq (by rw [BitVec.toInt_sdiv, BitVec.toInt_ofInt])

theorem srem_eq_ofInt (x y : Word) : x.srem y = BitVec.ofInt 64 (x.toInt.tmod y.toInt) := by
  rw [← BitVec.toInt_srem, BitVec.ofInt_toInt]

/-- The one quotient that no signed word holds, 2^63, wraps to -2^63. -/
theorem divS_eq (x y : Word) : divS x y =
    if y = 0#64 then BitVec.ofInt 64 (-1)
    else if x.toInt = -2 ^ 63 ∧ y.toInt = -1 then BitVec.ofInt 64 (-2 ^ 63)
    else BitVec.ofInt 64 (x.toInt.tdiv y.toInt) := by
  rw [divS, sdiv_eq_ofInt]
  refine if_congr Iff.rfl rfl ?_
  split
  next hover =>
    obtain ⟨hx, hy⟩ := hover
    rw [hx, hy]
    rfl
  next => rfl

theorem remS_eq (x y : Word) : remS x y =
    if y = 0#64 then x
    else if x.toInt = -2 ^ 63 ∧ y.toInt = -1 then 0#64
    else BitVec.ofInt 64 (x.toInt.tmod y.toInt) := by
  rw [remS, srem_eq_ofInt]
  refine if_congr Iff.rfl rfl ?_
  split
  next hover =>
    obtain ⟨hx, hy⟩ := hover
    rw [hx, hy]
    rfl
  next => rfl

theorem divU_eq (x y : Word) : divU x y =
    if y = 0#64 then BitVec.ofNat 64 (2 ^ 64 - 1) else BitVec.ofNat 64 (x.toNat / y.toNat) := by
  rw [divU, ← BitVec.toNat_udiv, BitVec.ofNat_toNat, BitVec.setWidth_eq]
  rfl

theorem remU_eq (x y : Word) : remU x y = if y = 0#64 then x else BitVec.ofNat 64 (x.toNat % y.toNat) := by
  rw [remU, ← BitVec.toNat_umod, BitVec.ofNat_toNat, BitVec.setWidth_eq]

/-- Settles O2: each division is `scalarRR` of its function, whose value is the one of R118. -/
theorem divisionsLandTheirResult : Obligations.DivisionsLandTheirResult := by
  unfold Obligations.DivisionsLandTheirResult
  intro h d a b
  exact ⟨landsRR_of_scalarRR (fun _ => rfl) divS_eq, landsRR_of_scalarRR (fun _ => rfl) divU_eq,
    landsRR_of_scalarRR (fun _ => rfl) remS_eq, landsRR_of_scalarRR (fun _ => rfl) remU_eq⟩

/-! ### Bit counts (R117) -/

theorem clzGo_eq (x : Word) (n : Nat) : clzGo x n = (List.range n).findIdx (fun i => x.getLsbD (n - 1 - i)) := by
  induction n with
  | zero => rfl
  | succ n ih =>
    have hnext : (fun i => x.getLsbD (n + 1 - 1 - i)) ∘ Nat.succ = fun i => x.getLsbD (n - 1 - i) :=
      funext fun i => congrArg x.getLsbD (by simp only [Nat.succ_eq_add_one]; omega)
    rw [clzGo, List.range_succ_eq_map, List.findIdx_cons, List.findIdx_map, hnext, ← ih, Bool.cond_eq_ite, Nat.add_comm]
    rfl

theorem ctzGo_eq (x : Word) {n : Nat} (hn : n ≤ 64) : ctzGo x n = (List.range n).findIdx (fun i => x.getLsbD (64 - n + i)) := by
  induction n with
  | zero => rfl
  | succ n ih =>
    have hfirst : 64 - (n + 1) + 0 = 63 - n := by omega
    have hnext : (fun i => x.getLsbD (64 - (n + 1) + i)) ∘ Nat.succ = fun i => x.getLsbD (64 - n + i) :=
      funext fun i => congrArg x.getLsbD (by simp only [Nat.succ_eq_add_one]; omega)
    rw [ctzGo, List.range_succ_eq_map, List.findIdx_cons, List.findIdx_map, hnext, ← ih (Nat.le_of_succ_le hn), hfirst,
      Bool.cond_eq_ite, Nat.add_comm]

theorem popcGo_eq (x : Word) (n : Nat) : popcGo x n = (List.range n).countP (fun i => x.getLsbD i) := by
  induction n with
  | zero => rfl
  | succ n ih => rw [popcGo, List.range_succ, List.countP_append, List.countP_singleton, ← ih, Nat.add_comm]

theorem clz64_eq (x : Word) : clz64 x = BitVec.ofNat 64 ((List.range 64).findIdx (fun i => x.getLsbD (63 - i))) :=
  congrArg (BitVec.ofNat 64) (clzGo_eq x 64)

theorem ctz64_eq (x : Word) : ctz64 x = BitVec.ofNat 64 ((List.range 64).findIdx (fun i => x.getLsbD i)) := by
  rw [ctz64, ctzGo_eq x (Nat.le_refl 64)]
  simp only [Nat.sub_self, Nat.zero_add]

theorem popc64_eq (x : Word) : popc64 x = BitVec.ofNat 64 ((List.range 64).countP (fun i => x.getLsbD i)) :=
  congrArg (BitVec.ofNat 64) (popcGo_eq x 64)

/-! ### Bit fields (R119) -/

/-- The bits of a field that stands at the top of the word. -/
theorem getLsbD_shiftUp (x : Word) {pos len : Nat} (h : pos + len ≤ 64) (i : Nat) :
    ((x >>> pos) <<< (64 - len)).getLsbD (64 - len + i) = (x.extractLsb' pos len).getLsbD i := by
  have hin : decide (64 - len + i < 64) = decide (i < len) := decide_eq_decide.mpr (by omega)
  have hout : decide (64 - len + i < 64 - len) = false := decide_eq_false (by omega)
  rw [BitVec.getLsbD_shiftLeft, BitVec.getLsbD_ushiftRight, BitVec.getLsbD_extractLsb', Nat.add_sub_cancel_left, hin, hout, Bool.not_false,
    Bool.and_true]

/-- A field moved up to the top of the word and back down, extended by zeros. -/
theorem shiftUp_ushiftRight (x : Word) {pos len : Nat} (h : pos + len ≤ 64) :
    ((x >>> pos) <<< (64 - len)) >>> (64 - len) = (x.extractLsb' pos len).setWidth 64 := by
  refine BitVec.eq_of_getLsbD_eq fun i hi => ?_
  rw [BitVec.getLsbD_ushiftRight, getLsbD_shiftUp x h, BitVec.getLsbD_setWidth, decide_eq_true hi, Bool.true_and]

/-- The same, extended by the top bit of the field. -/
theorem shiftUp_sshiftRight (x : Word) {pos len : Nat} (h : pos + len ≤ 64) (hlen : 0 < len) :
    ((x >>> pos) <<< (64 - len)).sshiftRight (64 - len) = (x.extractLsb' pos len).signExtend 64 := by
  refine BitVec.eq_of_getLsbD_eq fun i hi => ?_
  have hmsb : ((x >>> pos) <<< (64 - len)).msb = (x.extractLsb' pos len).msb := by
    have hlast : 64 - 1 = 64 - len + (len - 1) := by omega
    rw [BitVec.msb_eq_getLsbD_last, hlast, getLsbD_shiftUp x h, BitVec.msb_eq_getLsbD_last]
  have hin : 64 - len + i < 64 ↔ i < len := by omega
  rw [BitVec.getLsbD_sshiftRight, BitVec.getLsbD_signExtend, hmsb, getLsbD_shiftUp x h, decide_eq_true hi,
    decide_eq_false (Nat.not_le.mpr hi)]
  simp only [hin, Bool.not_false, Bool.true_and]

theorem bfx64_eq (sx : Bool) {pos lenm1 : Nat} (h : pos + lenm1 ≤ 63) (x : Word) : bfx64 sx pos lenm1 x =
    if sx then (x.extractLsb' pos (lenm1 + 1)).signExtend 64 else (x.extractLsb' pos (lenm1 + 1)).setWidth 64 := by
  rw [bfx64, shiftUp_ushiftRight x (by omega), shiftUp_sshiftRight x (by omega) (Nat.succ_pos _)]

/-- The bits of `bfi`: those of the field from A, the others from B. -/
theorem getLsbD_bfi64 {pos lenm1 i : Nat} (h : pos + lenm1 ≤ 63) (x y : Word) (hi : i < 64) : (bfi64 pos lenm1 x y).getLsbD i
    = if pos ≤ i ∧ i ≤ pos + lenm1 then x.getLsbD (i - pos) else y.getLsbD i := by
  have hmask : ((BitVec.allOnes 64 >>> (64 - (lenm1 + 1))) <<< pos).getLsbD i = decide (pos ≤ i ∧ i ≤ pos + lenm1) := by
    rw [BitVec.getLsbD_shiftLeft, BitVec.getLsbD_ushiftRight, BitVec.getLsbD_allOnes, Bool.eq_iff_iff]
    simp only [Bool.and_eq_true, Bool.not_eq_true', decide_eq_true_eq, decide_eq_false_iff_not]
    omega
  rw [bfi64, BitVec.getLsbD_or, BitVec.getLsbD_and, BitVec.getLsbD_and, BitVec.getLsbD_not, hmask, BitVec.getLsbD_shiftLeft]
  split
  next hin => simp [hin, hi]
  next hout => simp [hout, hi]

/-- A one-source op with its fields in range lands its value (R114, R117). -/
theorem landsR_of_scalarR {i : Instr} {h : OpHdr} {ok : Bool} {d a : BitVec 6} {f g : Word → Word}
    (hexec : ∀ s, exec i s = .next (scalarR h ok d a g s)) (hok : ok = true) (hval : ∀ x, g x = f x) : LandsR i h d a f := by
  intro s band hrun hband
  rw [hexec, scalarR, hok, guardedOp_runs hrun, landScalar_of_bandOf hband, hval]
  rfl

theorem bfi_landsRR {h : OpHdr} {d a b lenm1 pos : BitVec 6} {f : Word → Word → Word} (hfield : pos.toNat + lenm1.toNat ≤ 63)
    (hf : ∀ x y, bfi64 pos.toNat lenm1.toNat x y = f x y) : LandsRR (.bfi h d a b lenm1 pos) h 1 d a b f := by
  intro s band hrun hband
  change execBfi h d a b lenm1 pos s = _
  rw [execBfi, decide_eq_true hfield, guardedOp_runs hrun, landScalar_of_bandOf hband, hf]
  rfl

theorem exec_sel {s : State} {h : OpHdr} {d a b : BitVec 6} {c : BitVec 4} {band : Band} (hrun : OpRuns s h)
    (hp : (s.here.rP c).poison = false) (hband : bandOf [(s.here.rS a).band, (s.here.rS b).band, (s.here.rP c).band] = some band) :
    exec (.sel h d a b c) s = .next (landRegs s 0#3 1
      [.s d ⟨if (s.here.rP c).bits.getLsbD 0 then (s.here.rS a).val else (s.here.rS b).val, band,
        (s.here.rS a).poison || (s.here.rS b).poison⟩]) := by
  change execSel h d a b c s = _
  rw [execSel, guardedOp_runs hrun]
  dsimp only
  rw [if_neg (ne_true_of_eq_false hp), landScalar_of_bandOf hband]
  rfl

/-- Settles O3: the bit counts and `bfx` are `scalarR` of their functions, `bfi` is told by its bits (`getLsbD_bfi64`), and `sel`
passes the check of its predicate. -/
theorem oneSourceAndBitFieldOpsLandTheirResult : Obligations.OneSourceAndBitFieldOpsLandTheirResult := by
  unfold Obligations.OneSourceAndBitFieldOpsLandTheirResult
  intro h d a b lenm1 pos c sx
  refine ⟨landsR_of_scalarR (fun _ => rfl) rfl clz64_eq, landsR_of_scalarR (fun _ => rfl) rfl ctz64_eq,
    landsR_of_scalarR (fun _ => rfl) rfl popc64_eq,
    fun hfield => landsR_of_scalarR (fun _ => rfl) (decide_eq_true hfield) (bfx64_eq sx hfield),
    fun f hfield hbits => bfi_landsRR hfield fun x y => BitVec.eq_of_getLsbD_eq fun i hi => ?_,
    fun s band hrun hp hband => exec_sel hrun hp hband⟩
  rw [getLsbD_bfi64 hfield x y hi, hbits x y i hi]

/-! ### Compares and predicate ops (R122, R123) -/

/-- The predicate that a compare is to land is the one it builds. -/
theorem eq_allBits {b : Bool} {p : Prop} {v : BitVec 256} (hb : b = true ↔ p) (htrue : p → v = BitVec.allOnes 256)
    (hfalse : ¬ p → v = 0#256) : v = allBits b := by
  cases b with
  | true => exact htrue (hb.mp rfl)
  | false => exact hfalse fun hp => Bool.false_ne_true (hb.mpr hp)

/-- A compare that executes lands copies of its condition (R114, R122). -/
theorem landsCmp_of_scalarCmp {i : Instr} {h : OpHdr} {d : BitVec 4} {a b : BitVec 6} {f : Word → Word → Prop}
    {g : Word → Word → Bool} (hexec : ∀ s, exec i s = .next (scalarCmp h d a b g s)) (hval : ∀ x y, g x y = true ↔ f x y) :
    LandsCmp i h d a b f := by
  intro s band v hrun hd hband htrue hfalse
  rw [hexec, scalarCmp, bne_iff_ne.mpr hd, guardedOp_runs hrun, landPred_of_bandOf hband, eq_allBits (hval _ _) htrue hfalse]
  rfl

theorem landsCmpI_of_scalarCmpI {i : Instr} {h : OpHdr} {d : BitVec 4} {a : BitVec 6} {f : Word → Prop} {g : Word → Bool}
    (hexec : ∀ s, exec i s = .next (scalarCmpI h d a g s)) (hval : ∀ x, g x = true ↔ f x) : LandsCmpI i h d a f := by
  intro s band v hrun hd hband htrue hfalse
  rw [hexec, scalarCmpI, bne_iff_ne.mpr hd, guardedOp_runs hrun, landPred_of_bandOf hband, eq_allBits (hval _) htrue hfalse]
  rfl

theorem landsPred_of_predRR {i : Instr} {h : OpHdr} {d p q : BitVec 4} {f : BitVec 256 → BitVec 256 → BitVec 256}
    (hexec : ∀ s, exec i s = .next (predRR h d p q f s)) : LandsPred i h d p q f := by
  intro s band hrun hd hband
  rw [hexec, predRR, bne_iff_ne.mpr hd, guardedOp_runs hrun, landPred_of_bandOf hband]
  rfl

theorem getLsbD_psetBits {w i : Nat} (hw : 0 < w) (x : Word) (hi : i < 256) :
    (psetBits w x).getLsbD i = decide (i / w < x.toNat) := by
  rw [psetBits, BitVec.getLsbD_ofNat, Nat.testBit_two_pow_sub_one, Bool.eq_iff_iff]
  simp [hi, Nat.div_lt_iff_lt_mul hw]

theorem exec_pset {s : State} {h : OpHdr} {d : BitVec 4} {a : BitVec 6} {t : VTy} {band : Band} (hrun : OpRuns s h) (hd : d ≠ 0#4)
    (hband : bandOf [(s.here.rS a).band] = some band) :
    exec (.pset h d a t) s = .next (landRegs s 0#3 1 [.p d ⟨psetBits t.bytes (s.here.rS a).val, band, (s.here.rS a).poison⟩]) := by
  change execPset h d a t s = _
  rw [execPset, bne_iff_ne.mpr hd, guardedOp_runs hrun, landPred_of_bandOf hband]
  rfl

/-- Settles O5: each compare is `scalarCmp` or `scalarCmpI` of its condition and each predicate op `predRR` of its function, and
`pset` is told by its bits (`getLsbD_psetBits`). -/
theorem comparesAndPredicateOpsLandTheirPredicate : Obligations.ComparesAndPredicateOpsLandTheirPredicate := by
  unfold Obligations.ComparesAndPredicateOpsLandTheirPredicate
  intro h d p q a b imm t
  have himm : (sext64 imm).toInt = imm.toInt := BitVec.toInt_signExtend_of_le (by decide)
  refine ⟨landsCmp_of_scalarCmp (fun _ => rfl) fun _ _ => beq_iff_eq, landsCmp_of_scalarCmp (fun _ => rfl) fun _ _ => bne_iff_ne,
    landsCmp_of_scalarCmp (fun _ => rfl) fun _ _ => BitVec.slt_iff_toInt_lt,
    landsCmp_of_scalarCmp (fun _ => rfl) fun _ _ => BitVec.ult_iff_lt,
    landsCmp_of_scalarCmp (fun _ => rfl) fun _ _ => BitVec.sle_iff_toInt_le,
    landsCmp_of_scalarCmp (fun _ => rfl) fun _ _ => BitVec.ule_iff_le,
    landsCmpI_of_scalarCmpI (fun _ => rfl) fun x => ?_, landsCmpI_of_scalarCmpI (fun _ => rfl) fun x => ?_,
    landsPred_of_predRR fun _ => rfl, landsPred_of_predRR fun _ => rfl, landsPred_of_predRR fun _ => rfl,
    landsPred_of_predRR fun _ => rfl, fun s band v hrun hd hband hbits => ?_⟩
  · rw [beq_iff_eq, ← BitVec.toInt_inj, himm]
  · rw [ltS, BitVec.slt_iff_toInt_lt, himm]
  · have hv : v = psetBits t.bytes (s.here.rS a).val := BitVec.eq_of_getLsbD_eq fun i hi => by
      rw [hbits i hi, getLsbD_psetBits (bytes_pos t) _ hi]
    rw [hv, exec_pset hrun hd hband]

end Sys2Proof.Machine
end

section
/-! SUPPORT. The set-up, the start, the break and the indices of a nest (05_scalar R133 to R138): O8. -/
namespace Sys2Proof.Machine

/-- Only what becomes of the loop engine as it stands matters. -/
theorem modLoop_congr {s : State} {f g : Loop → Loop} (h : f s.here.regs.loop = g s.here.regs.loop) : s.modLoop f = s.modLoop g :=
  congrArg (fun l => s.modCtx s.cur (fun c => { c with regs := { c.regs with loop := l } })) h

/-- A set-up op that executes outside a nest, its field in range, has its effect (R133). -/
theorem loopSetup_runs {s : State} {h : OpHdr} {ok : Bool} {f : State → State} (hrun : OpRuns s h)
    (hout : s.here.regs.loop.active = false) (hok : ok = true) : loopSetup h ok f s = f s := by
  rw [loopSetup, hok, guardedOp_runs hrun, if_neg (ne_true_of_eq_false hout)]

/-! ### The start of a nest (R134, R135) -/

/-- A level below 8 as an index of three bits. -/
theorem level_toNat {k : Nat} (h : k < 8) : (BitVec.ofNat 3 k).toNat = k := by
  rw [BitVec.toNat_ofNat, Nat.mod_eq_of_lt h]

theorem boundProduct_eq (l : Loop) {n : Nat} (hn : n ≤ 6) :
    boundProduct l n = ((l.bnd.toList.take n).map (fun x => x.toNat)).prod := by
  induction n with
  | zero => rfl
  | succ n ih =>
    have hlt : n < 6 := hn
    have hbound : l.bnd.toList[n]? = some (vget 1#32 l.bnd (BitVec.ofNat 3 n)) := by
      rw [vget, level_toNat (by omega), Vector.getElem?_eq_getElem hlt, Option.getD_some, Vector.getElem?_toList,
        Vector.getElem?_eq_getElem hlt]
    rw [boundProduct, ih (Nat.le_of_succ_le hn), List.take_add_one, hbound, Option.toList_some, List.map_append, List.prod_append,
      List.map_singleton, List.prod_singleton]

/-- The digits of 0 are 0; the levels above are left. -/
theorem loopDigits_zero (l : Loop) {n : Nat} (hn : n ≤ 6) (v : Vector (BitVec 32) 6) {j : Nat} (hj : j < 6) :
    (loopDigits l 0 n v)[j] = if j < n then 0#32 else v[j] := by
  induction n generalizing v with
  | zero => rfl
  | succ n ih =>
    have hset : (vset v (BitVec.ofNat 3 n) 0#32)[j] = if n = j then 0#32 else v[j] := by
      simp only [vset, level_toNat (show n < 8 by omega), Vector.getElem_setIfInBounds]
    simp only [loopDigits, Nat.zero_div, Nat.zero_mod]
    rw [ih (Nat.le_of_succ_le hn), hset]
    grind

/-- The loop engine that `lgo` starts, before it enters the first execution (R134). -/
def Loop.start (l : Loop) (n : BitVec 3) (p : Nat) : Loop :=
  { l with active := true, depth := n, cap := 0#6, pos := 0#5, e := 0#48, i0 := 0#48, nend := BitVec.ofNat 48 p,
           ntot := BitVec.ofNat 48 p, stopreq := false, buf := [], brk := false }

/-- In the first execution only the first stage runs (R135). -/
theorem stagePreds_start {l : Loop} {n : BitVec 3} {p : Nat} (hp : p < 2 ^ 48) (h0 : p ≠ 0) : (l.start n p).stagePreds = 1#7 := by
  have hstage (k : Nat) : (k + 1 ≤ (l.start n p).stages ∧ (l.start n p).i0.toNat + k ≤ (l.start n p).e.toNat ∧
      (l.start n p).e.toNat - k < (l.start n p).nend.toNat) ↔ k = 0 := by
    have hend : (l.start n p).nend.toNat = p := (BitVec.toNat_ofNat ..).trans (Nat.mod_eq_of_lt hp)
    have hfirst : (l.start n p).e.toNat = 0 := rfl
    have hi0 : (l.start n p).i0.toNat = 0 := rfl
    have hstages : 1 ≤ (l.start n p).stages := Nat.le_max_right ..
    omega
  simp only [Loop.stagePreds, hstage]
  rfl

/-- The nest enters its first execution: SP1 alone is set, and the indices of its levels are 0 (R134, R135). -/
theorem enter_start {l : Loop} {n : BitVec 3} {p : Nat} (hp : p < 2 ^ 48) (h0 : p ≠ 0) :
    (l.start n p).enter = { l.start n p with sp := 1#7, idx := loopDigits (l.start n p) 0 n.toNat l.idx } := by
  have hzero : min (l.start n p).e.toNat ((l.start n p).nend.toNat - 1) = 0 := Nat.zero_min _
  rw [Loop.enter, stagePreds_start hp h0, hzero]
  rfl

/-- A nest with a product of bounds below 2^48 starts, or drops its body if that is 0 (R134). -/
theorem exec_lgo {s : State} {h : OpHdr} {n : BitVec 3} {p : Nat} (hrun : OpRuns s h) (hn : 1 ≤ n.toNat ∧ n.toNat ≤ 6)
    (hout : s.here.regs.loop.active = false) (hlen : s.here.regs.loop.len ≠ 0#6)
    (hprod : boundProduct s.here.regs.loop n.toNat = p) (hp : p < 2 ^ 48) :
    exec (.lgo h n) s = .next (if p = 0 then s.modLoop (fun l => { l with drop := l.len, ntot := 0#48 })
      else s.modLoop (fun l => (l.start n p).enter)) := by
  have hgo : (s.here.regs.loop.active || decide (2 ^ 48 ≤ p)) = false := by
    rw [hout, decide_eq_false (Nat.not_le.mpr hp)]
    rfl
  change execLgo h n s = _
  rw [execLgo, decide_eq_true hn, guardedOp_runs hrun]
  dsimp only
  rw [if_neg hlen, hprod, if_neg (ne_true_of_eq_false hgo)]
  rfl

/-! ### The break (R137) -/

/-- The earlier of NEND and the end of the current execution. -/
theorem breakEnd_eq (nend e : BitVec 48) : (if nend.ult (e + 1#48) then nend else e + 1#48)
    = BitVec.ofNat 48 (min nend.toNat ((e.toNat + 1) % 2 ^ 48)) := by
  have hnext : (e.toNat + 1) % 2 ^ 48 = (e + 1#48).toNat := by
    rw [BitVec.toNat_add]
    rfl
  rw [hnext]
  split
  next hlt => rw [Nat.min_eq_left (Nat.le_of_lt (BitVec.ult_iff_lt.mp hlt)), BitVec.ofNat_toNat, BitVec.setWidth_eq]
  next hge =>
    rw [Nat.min_eq_right (Nat.not_lt.mp fun hlt => hge (BitVec.ult_iff_lt.mpr hlt)), BitVec.ofNat_toNat, BitVec.setWidth_eq]

theorem exec_lbrk {s : State} {h : OpHdr} (hrun : OpRuns s h) : exec (.lbrk h) s = .next (s.modLoop (fun l =>
    if l.active then { l with nend := BitVec.ofNat 48 (min l.nend.toNat ((l.e.toNat + 1) % 2 ^ 48)), brk := true } else l)) := by
  change execLbrk h s = _
  rw [execLbrk, guardedOp_runs hrun]
  simp only [breakEnd_eq]

/-- Settles O8: outside a nest the set-up ops and `lgo` have their effect (`loopSetup_runs`, `exec_lgo`), and the nest that starts
enters its first execution (`enter_start`); `lbrk` acts in a nest only. -/
theorem loopInstructionsSetUpAndStartTheNest : Obligations.LoopInstructionsSetUpAndStartTheNest := by
  unfold Obligations.LoopInstructionsSetUpAndStartTheNest
  intro s h a d lev len stg k n band hrun
  refine ⟨fun hout => ⟨fun hlev hp => ?lset, fun h1 h32 => ?lbody, fun h7 => ?lstage, fun h1 h6 hlen p hprod hp => ?lgo, ?lbrk⟩,
    fun hin => ?lbrkNest, fun hk hband => ?lidx⟩
  case lset =>
    change execLset h a lev s = _
    rw [execLset, loopSetup_runs hrun hout (decide_eq_true hlev)]
    dsimp only
    rw [if_neg (ne_true_of_eq_false hp)]
    rfl
  case lbody =>
    change execLbody h len s = _
    rw [execLbody, loopSetup_runs hrun hout (decide_eq_true ⟨h1, h32⟩)]
  case lstage =>
    change execLstage h stg s = _
    rw [execLstage, loopSetup_runs hrun hout (decide_eq_true h7)]
  case lgo =>
    have hlgo := exec_lgo hrun ⟨h1, h6⟩ hout hlen ((boundProduct_eq _ h6).trans hprod.symm) hp
    refine ⟨fun h0 => hlgo.trans (congrArg _ (if_pos h0)), fun h0 =>
      ⟨loopDigits (s.here.regs.loop.start n p) 0 n.toNat s.here.regs.loop.idx, fun j hj hlt => ?_, fun j hj hge => ?_, ?_⟩⟩
    · rw [loopDigits_zero _ h6 _ hj, if_pos hlt]
    · rw [loopDigits_zero _ h6 _ hj, if_neg (Nat.not_lt.mpr hge)]
    · rw [hlgo, if_neg h0]
      exact congrArg Host.Outcome.next (modLoop_congr (enter_start hp h0))
  case lbrk =>
    exact (exec_lbrk hrun).trans (congrArg Host.Outcome.next (modLoop_congr (if_neg (ne_true_of_eq_false hout))))
  case lbrkNest => exact (exec_lbrk hrun).trans (congrArg Host.Outcome.next (modLoop_congr (if_pos hin)))
  case lidx =>
    change execLidx h d k s = _
    rw [execLidx, decide_eq_true hk, guardedOp_runs hrun, landScalar_of_bandOf hband]
    rfl

end Sys2Proof.Machine
end

section
/-! SUPPORT. Engine ops that take a number of a timeline and enter a queue: matrix commands, copy commands, channel ops and cipher
commands (07_matrix R180 to R188, 10_copy R271 to R287, 13_system R376, R377): O19, O24, O25 and O30. -/
namespace Sys2Proof.Machine

theorem vget_vset_other {α : Type} {n w : Nat} (d : α) (v : Vector α n) {i j : BitVec w} (x : α) (h : j ≠ i) :
    vget d (vset v i x) j = vget d v j := by
  rw [vget, vset, Vector.getElem?_setIfInBounds_ne (fun e => h (BitVec.eq_of_toNat_eq e.symm)), vget]

theorem vset_eq_set {α : Type} {n w : Nat} (v : Vector α n) {i : BitVec w} (x : α) (h : i.toNat < n) :
    vset v i x = v.set i.toNat x h :=
  Vector.ext fun j hj => by rw [vset, Vector.getElem_setIfInBounds, Vector.getElem_set]

/-! ### Timelines (R264) -/

/-- A context that has counted one more command on a timeline. -/
def Ctx.counted (c : Ctx) (tl : BitVec 2) : Ctx :=
  { c with eng := { c.eng with tl := vset c.eng.tl tl { c.timeline tl with count := (c.timeline tl).count + 1#64 } } }

theorem takeNum_eq (s : State) (fe : FeId) (tl : BitVec 2) :
    takeNum s fe tl = (s.modCtx fe (·.counted tl), ((s.ctx fe).timeline tl).count + 1#64) := rfl

theorem counted_timeline (c : Ctx) (tl : BitVec 2) :
    (c.counted tl).timeline tl = { c.timeline tl with count := (c.timeline tl).count + 1#64 } := vget_vset_same tl.isLt

/-! ### The matrix queue (R180, R191) -/

/-- A command enters a queue with room, behind no saved commands. -/
theorem queueCmd_entersQueue {s : State} (cmd : MCmd) (hroom : (s.core (coreOf s.cur)).mq.length < 8)
    (hsaved : s.here.eng.mat.saved = []) : EntersQueue s cmd (queueCmd s cmd) := by
  have hwait : ¬ (8 ≤ (s.core (coreOf s.cur)).mq.length ∨ (!(s.mat s.cur).saved.isEmpty) = true) := by
    have hnone : (s.mat s.cur).saved = [] := hsaved
    rw [hnone]
    simpa using hroom
  have hctx : s.here.counted tlM = { s.here with eng := { s.here.eng with
      tl := s.here.eng.tl.set 2 { s.here.eng.tl[2] with count := s.here.eng.tl[2].count + 1#64 } } } := by
    rw [Ctx.counted, vset_eq_set _ _ (show tlM.toNat < 4 by decide)]
    rfl
  rw [queueCmd, if_neg hwait]
  simp only [takeNum_eq]
  refine ⟨_, rfl, State.core_setCore_same .., ?_, rfl, fun fe hfe => State.ctx_modCtx_other s (·.counted tlM) hfe,
    fun k hk => State.core_setCore_other _ _ hk, fun a => rfl⟩
  exact (State.ctx_modCtx_same s s.cur (·.counted tlM)).trans hctx

/-- `i` answers a state in which the command has entered its queue. -/
def EntersMatrixQueue (i : Instr) (s : State) (c : MCmd) : Prop := ∃ s', exec i s = .next s' ∧ EntersQueue s c s'

section Matrix
variable {s : State} {h : OpHdr} {a base d : BitVec 6} {t : BitVec 2} {rsc dr zi swap : Bool} {rout : BitVec 6} {off : BitVec 24}
  {x : EngArgs} (hroom : (s.core (coreOf s.cur)).mq.length < 8) (hsaved : s.here.eng.mat.saved = [])
include hroom hsaved

theorem entersMatrixQueue_of_queueCmd {i : Instr} {cmd : MCmd} (hexec : exec i s = .next (queueCmd s cmd)) :
    EntersMatrixQueue i s cmd := ⟨_, hexec, queueCmd_entersQueue cmd hroom hsaved⟩

/-- While its context is not frozen, a command that could bypass the queue enters it (R189). -/
theorem entersMatrixQueue_of_queueOrBypass {i : Instr} {cmd : MCmd} (hlive : s.here.eng.mat.frozen = false)
    (hexec : exec i s = .next (queueOrBypass s cmd)) : EntersMatrixQueue i s cmd := by
  have hnot : (s.mat s.cur).frozen = false := hlive
  rw [queueOrBypass, if_neg (ne_true_of_eq_false hnot)] at hexec
  exact entersMatrixQueue_of_queueCmd hroom hsaved hexec

/-- A `mcall` with legal fields, operands, alignment and places enters the queue (R182, R183). -/
theorem mcall_enters (hrun : EngineRuns s h a 0#6 0#6 x) (ha : rsc = false → a = 0#6)
    (hfields : mcallFieldsOk s x.params rsc dr zi = true) (hp : rsc = true → x.a.poison = false)
    (halign : dr = true → drainAligned x.params = true) (hplaces : mcallPlacesOk s s.cur x.params (cmdDim s x) = true) :
    EntersMatrixQueue (.mcall h a rsc dr zi swap rout) s (mkCmd s x (.call (BitVec.ofBool rsc ++ BitVec.ofBool dr ++ BitVec.ofBool zi
      ++ BitVec.ofBool swap) rout (x.a.val.setWidth 16)) 0#64 (paramBands x.m ++ if rsc then [x.a.band] else [])) := by
  have hreserved : (rsc || a == 0#6) = true := by
    cases rsc with
    | true => rfl
    | false => exact beq_iff_eq.mpr (ha rfl)
  have hzi : (!(zi && rsc)) = true := by
    cases hboth : (zi && rsc) with
    | false => rfl
    | true => simp [mcallFieldsOk, hboth] at hfields
  have hpoison : (rsc && x.a.poison) = false := by
    cases rsc with
    | true => exact hp rfl
    | false => rfl
  have haligned : (dr && !drainAligned x.params) = false := by
    cases dr with
    | true => rw [halign rfl]; rfl
    | false => rfl
  refine entersMatrixQueue_of_queueCmd hroom hsaved ?_
  change execMcall h a rsc dr zi swap rout s = _
  rw [execMcall, reservedZero, if_pos hreserved, hzi, engineOp_runs hrun]
  simp only [hfields, hpoison, haligned, hplaces, Bool.not_true, Bool.false_eq_true, if_false]

theorem malg_enters (hrun : EngineRuns s h a 0#6 0#6 x) (hp : x.a.poison = false) :
    EntersMatrixQueue (.malg h t a) s (mkCmd s x (.alg t) x.a.val [x.a.band]) := by
  refine entersMatrixQueue_of_queueCmd hroom hsaved ?_
  change execMalg h t a s = _
  rw [execMalg, engineOp_runs hrun]
  simp only [hp, Bool.false_eq_true, if_false]

variable (hlive : s.here.eng.mat.frozen = false)
include hlive

theorem mzero_enters (hrun : EngineRuns s h 0#6 0#6 0#6 x) :
    EntersMatrixQueue (.mzero h) s (mkCmd s x .zero 0#64 [s.here.band]) := by
  refine entersMatrixQueue_of_queueOrBypass hroom hsaved hlive ?_
  change execMzero h s = _
  rw [execMzero, engineOp_runs hrun]

theorem tload_enters (hrun : EngineRuns s h base 0#6 0#6 x) (hp : x.a.poison = false) :
    EntersMatrixQueue (.tload h d base 7#3 off) s (mkCmd s x (.tload d) (x.a.val + off.signExtend 64) [x.a.band]) := by
  refine entersMatrixQueue_of_queueOrBypass hroom hsaved hlive ?_
  change execTload h d base 7#3 off s = _
  rw [execTload, beq_self_eq_true, engineOp_runs hrun]
  simp only [hp, Bool.false_eq_true, if_false]
  rfl

theorem mfill_enters (hrun : EngineRuns s h a 0#6 0#6 x) (hp : x.a.poison = false) :
    EntersMatrixQueue (.mfill h a) s (mkCmd s x .fill x.a.val [x.a.band]) := by
  refine entersMatrixQueue_of_queueOrBypass hroom hsaved hlive ?_
  change execMfill h a s = _
  rw [execMfill, engineOp_runs hrun]
  simp only [hp, Bool.false_eq_true, if_false]

theorem mdrainRaw_enters (hrun : EngineRuns s h a 0#6 0#6 x) (hp : x.a.poison = false) :
    EntersMatrixQueue (.mdrainRaw h a) s (mkCmd s x .drainRaw x.a.val (paramBands x.m)) := by
  refine entersMatrixQueue_of_queueOrBypass hroom hsaved hlive ?_
  change execMdrainRaw h a s = _
  rw [execMdrainRaw, engineOp_runs hrun]
  simp only [hp, Bool.false_eq_true, if_false]

theorem mdrain_enters (hrun : EngineRuns s h 0#6 0#6 0#6 x) :
    EntersMatrixQueue (.mdrain h) s (mkCmd s x .drain 0#64 (paramBands x.m)) := by
  have hnot : (s.mat s.cur).frozen = false := hlive
  refine entersMatrixQueue_of_queueCmd hroom hsaved ?_
  change execMdrain h s = _
  rw [execMdrain, engineOp_runs hrun]
  simp only [hnot, Bool.false_eq_true, if_false]

end Matrix

/-- Settles O19: each command passes its checks of issue and enters the queue under the next number of `tm`
(`queueCmd_entersQueue`). -/
theorem matrixCommandsEnterTheQueue : Obligations.MatrixCommandsEnterTheQueue := by
  unfold Obligations.MatrixCommandsEnterTheQueue
  intro s h a base d t rsc dr zi swap rout off x m p dim cmd Enters hroom hsaved
  exact ⟨mcall_enters hroom hsaved, malg_enters hroom hsaved, fun hlive => ⟨mzero_enters hroom hsaved hlive,
    tload_enters hroom hsaved hlive, fun hrun hp => ⟨mfill_enters hroom hsaved hlive hrun hp,
      mdrainRaw_enters hroom hsaved hlive hrun hp⟩, mdrain_enters hroom hsaved hlive⟩⟩

/-! ### Copy commands (R271, R272, R279 to R285) -/

theorem chan_setChan_same (c : Ctx) (ch : Bool) (q : Chan) : (c.setChan ch q).chan ch = q := by
  cases ch <;> exact vget_vset_same (by decide)

theorem chan_setChan_other (c : Ctx) (ch : Bool) (q : Chan) : (c.setChan ch q).chan (!ch) = c.chan (!ch) := by
  cases ch <;> exact vget_vset_other _ _ _ (by decide)

/-- A C-slot op that runs on a channel of its context has its effect (R271). -/
theorem copyOp_runs {s : State} {h : OpHdr} {a b c : BitVec 6} {ch : Bool} {x : EngArgs} {ok : Bool} {f : EngArgs → State → State}
    (hchan : ch = true → s.here.ident.chans = 2#8) (hrun : EngineRuns s h a b c x) (hok : ok = true) :
    copyOp s h ok a b c ch f = f x s := by
  have hheld : (ch && (s.ctx s.cur).ident.chans != 2#8) = false := by
    cases ch with
    | true => exact bne_eq_false_iff_eq.mpr (hchan rfl)
    | false => rfl
  rw [copyOp, hok, engineOp_runs hrun, if_neg (ne_true_of_eq_false hheld)]

/-- A context with one more entry in a channel's queue. -/
def Ctx.enqueued (c : Ctx) (ch : Bool) (e : CopyEnt) : Ctx :=
  c.setChan ch { c.chan ch with queue := (c.chan ch).queue ++ [e] }

/-- An entry under the next number of its channel. -/
def CopyEnt.numbered (e : CopyEnt) (c : Ctx) (ch : Bool) : CopyEnt := { e with num := (c.timeline (chIdx ch)).count + 1#64 }

theorem commitCopy_eq {s : State} {ch : Bool} {e : CopyEnt} (hroom : (s.here.chan ch).queue.length < 64) :
    commitCopy s ch e = (s.modCtx s.cur (·.counted (chIdx ch))).modCtx s.cur (·.enqueued ch (e.numbered s.here ch)) := by
  rw [commitCopy, if_neg (Nat.not_le.mpr hroom)]
  rfl

theorem commitCopy_here {s : State} {ch : Bool} {e : CopyEnt} (hroom : (s.here.chan ch).queue.length < 64) :
    (commitCopy s ch e).here = (s.here.counted (chIdx ch)).enqueued ch (e.numbered s.here ch) := by
  rw [commitCopy_eq hroom, State.here, State.modCtx_cur, State.modCtx_cur, State.ctx_modCtx_same, State.ctx_modCtx_same]

/-- A command enters a channel with room under the channel's next number (R264, R272). -/
theorem entersChannel_of_commitCopy {i : Instr} {s : State} {ch : Bool} {e : CopyEnt} (hroom : (s.here.chan ch).queue.length < 64)
    (hexec : exec i s = .next (commitCopy s ch e)) : EntersChannel i s ch e := by
  have hhere := commitCopy_here (e := e) hroom
  have hchan : ((s.here.counted (chIdx ch)).enqueued ch (e.numbered s.here ch)).chan ch = { s.here.chan ch with
      queue := (s.here.chan ch).queue ++ [e.numbered s.here ch] } := chan_setChan_same ..
  have htimeline : ((s.here.counted (chIdx ch)).enqueued ch (e.numbered s.here ch)).timeline (chIdx ch)
      = { s.here.timeline (chIdx ch) with count := (s.here.timeline (chIdx ch)).count + 1#64 } := counted_timeline ..
  refine ⟨commitCopy s ch e, _, rfl, hexec, by rw [hhere, hchan]; rfl, by rw [hhere, htimeline], by rw [hhere, htimeline],
    by rw [hhere]; exact chan_setChan_other .., by rw [hhere, hchan], by rw [hhere]; rfl, by rw [hhere]; rfl, fun fe hfe => ?_,
    fun a => by rw [commitCopy_eq hroom]; rfl⟩
  rw [commitCopy_eq hroom, State.ctx_modCtx_other _ _ hfe, State.ctx_modCtx_other _ _ hfe]

/-- A report that is asked for has its place named. -/
theorem report_named {asked : Bool} {place : Word} (h : asked = true → place ≠ 0#64) : (asked && place == 0#64) = false := by
  cases asked with
  | true => exact beq_eq_false_iff_ne.mpr (h rfl)
  | false => rfl

/-- The signal and the basin that a command reports to are named (R283). -/
theorem reportOk_of_named {st : Staging} {chg sig : Bool} (h : (chg = true → st.rbasin ≠ 0#64) ∧ (sig = true → st.rsig ≠ 0#64)) :
    reportOk st chg sig = true := by
  obtain ⟨hchg, hsig⟩ := h
  rw [reportOk, report_named hchg, report_named hsig]
  rfl

section Copy
variable {s : State} {h : OpHdr} {a b c : BitVec 6} {sig chg dir ch : Bool} {addm lv : BitVec 3} {x : EngArgs} {pages : List Word}
  (hchan : ch = true → s.here.ident.chans = 2#8) (hroom : (s.here.chan ch).queue.length < 64)
  (hnamed : (chg = true → (s.here.chan ch).st.rbasin ≠ 0#64) ∧ (sig = true → (s.here.chan ch).st.rsig ≠ 0#64))
include hchan hroom hnamed

theorem cpy_enters {st : Staging} (hst : st = { (s.here.chan ch).st with sbase := x.a.val, dbase := x.b.val, chunk := x.c.val.setWidth 32 })
    (hrun : EngineRuns s h a b c x) (hpa : x.a.poison = false) (hpb : x.b.poison = false) (hpc : x.c.poison = false)
    (hlen : x.c.val.toNat < 2 ^ 32) (hadd : addm.toNat ≤ 3) (halign : addAligned st addm 0 = true) :
    EntersChannel (.cpy h a b c sig chg addm ch) s ch (mkEnt s 1#8 addm chg sig false 0#3 st [] 0#21) := by
  have hreport : reportOk st chg sig = true := by
    subst hst
    exact reportOk_of_named hnamed
  refine entersChannel_of_commitCopy hroom ?_
  change execCpy h a b c sig chg addm ch s = _
  rw [execCpy, copyOp_runs hchan hrun (decide_eq_true hadd)]
  have hst' : { ((s.ctx s.cur).chan ch).st with sbase := x.a.val, dbase := x.b.val, chunk := x.c.val.setWidth 32 } = st := hst.symm
  simp only [hst', hreport, halign, hpa, hpb, hpc, decide_eq_false (Nat.not_le.mpr hlen), Bool.not_true, Bool.or_false,
    Bool.false_eq_true, if_false]

theorem ckv_enters (hrun : EngineRuns s h a b c x) (hpa : x.a.poison = false) (hpb : x.b.poison = false) (hpc : x.c.poison = false)
    (hreserved : x.a.val.extractLsb' 21 35 = 0#35) (hlen : x.c.val.toNat ≤ 256)
    (hpages : ckvPages s.here.eng (x.a.val.extractLsb' 56 8) dir (ckvBlocks (x.a.val.toNat % 2 ^ 21) x.c.val.toNat) = .ok pages) :
    EntersChannel (.ckv h a b c dir sig chg ch) s ch (mkEnt s 8#8 0#3 chg sig dir 0#3 { (s.here.chan ch).st with
      sbase := (if dir then x.b.val else x.a.val), dbase := (if dir then x.a.val else x.b.val), chunk := x.c.val.setWidth 32 }
      pages (x.a.val.extractLsb' 0 21)) := by
  have hreport (sb db : Word) (n : BitVec 32) :
      reportOk { (s.here.chan ch).st with sbase := sb, dbase := db, chunk := n } chg sig = true := reportOk_of_named hnamed
  have htok : BitVec.ofNat 21 (x.a.val.toNat % 2 ^ 21) = x.a.val.extractLsb' 0 21  :=
    BitVec.eq_of_toNat_eq (by simp)
  refine entersChannel_of_commitCopy hroom ?_
  change execCkv h a b c dir sig chg ch s = _
  rw [execCkv, copyOp_runs hchan hrun rfl]
  simp only [hreserved, hreport, hpages, hpa, hpb, hpc, htok, decide_eq_false (Nat.not_lt.mpr hlen), bne_self_eq_false, Bool.not_true,
    Bool.or_false, Bool.false_eq_true, if_false]

theorem cgo_enters (hrun : EngineRuns s h 0#6 0#6 0#6 x) (hadd : addm.toNat ≤ 3) (hlv : lv.toNat ≤ 6)
    (halign : addAligned (s.here.chan ch).st addm lv.toNat = true) :
    EntersChannel (.cgo h lv sig chg addm ch) s ch (mkEnt s 4#8 addm chg sig false lv (s.here.chan ch).st [] 0#21) := by
  have hfields : (decide (addm.toNat ≤ 3) && decide (lv.toNat ≤ 6)) = true := by
    rw [decide_eq_true hadd, decide_eq_true hlv]
    rfl
  refine entersChannel_of_commitCopy hroom ?_
  change execCgo h lv sig chg addm ch s = _
  rw [execCgo, copyOp_runs hchan hrun hfields]
  simp only [reportOk_of_named hnamed, halign, Bool.not_true, Bool.false_eq_true, if_false]

end Copy

/-- Settles O24: each command passes its checks of issue and enters its channel (`entersChannel_of_commitCopy`). -/
theorem copyCommandsEnterTheirChannel : Obligations.CopyCommandsEnterTheirChannel := by
  unfold Obligations.CopyCommandsEnterTheirChannel
  intro s h a b c sig chg dir ch addm lv x pages q named hchan hroom
  exact ⟨fun hrun hpa hpb hpc hnamed => ⟨cpy_enters hchan hroom hnamed rfl hrun hpa hpb hpc,
      ckv_enters hchan hroom hnamed hrun hpa hpb hpc⟩,
    fun hrun hnamed hadd hlv halign => cgo_enters hchan hroom hnamed hrun hadd hlv halign⟩

/-! ### Channel state (R274, R282, R283, R286, R287) -/

section Channel
variable {s : State} {h : OpHdr} {a b c : BitVec 6} {ch : Bool} {x : EngArgs} (hchan : ch = true → s.here.ident.chans = 2#8)
include hchan

theorem exec_cnl {lvl : BitVec 3} (hrun : EngineRuns s h a b c x) (hpa : x.a.poison = false) (hpb : x.b.poison = false)
    (hpc : x.c.poison = false) (hlvl : lvl.toNat ≤ 5) (hcnt : x.a.val.toNat < 2 ^ 32) :
    exec (.cnl h a b c lvl ch) s = .next (s.modChan s.cur ch (fun q => { q with st := { q.st with
      cnt := q.st.cnt.setIfInBounds lvl.toNat (x.a.val.setWidth 32), sstr := q.st.sstr.setIfInBounds lvl.toNat x.b.val,
      dstr := q.st.dstr.setIfInBounds lvl.toNat x.c.val } })) := by
  change execCnl h a b c lvl ch s = _
  rw [execCnl, copyOp_runs hchan hrun (decide_eq_true hlvl), if_neg (Nat.not_le.mpr hcnt)]
  simp only [hpa, hpb, hpc, Bool.or_false, Bool.false_eq_true, if_false]
  rfl

theorem exec_cnb (hrun : EngineRuns s h a b c x) (hpa : x.a.poison = false) (hpb : x.b.poison = false)
    (hpc : x.c.poison = false) (hlo : 1 ≤ x.c.val.toNat) (hhi : x.c.val.toNat ≤ 2 ^ 24) :
    exec (.cnb h a b c ch) s = .next (s.modChan s.cur ch (fun q => { q with st := { q.st with
      sbase := x.a.val, dbase := x.b.val, chunk := x.c.val.setWidth 32 } })) := by
  change execCnb h a b c ch s = _
  rw [execCnb, copyOp_runs hchan hrun rfl, if_neg (not_or.mpr ⟨Nat.ne_of_gt hlo, Nat.not_lt.mpr hhi⟩)]
  simp only [hpa, hpb, hpc, Bool.or_false, Bool.false_eq_true, if_false]

theorem exec_cred (hrun : EngineRuns s h a b 0#6 x) (hpa : x.a.poison = false) (hpb : x.b.poison = false)
    (hbasin : x.a.val = 0#64 ∨ (isSpm x.a.val = true ∨ isPeer x.a.val = true) ∧ x.a.val.toNat % 32 = 0)
    (hsignal : x.b.val = 0#64 ∨ isSpm x.b.val = false ∧ x.b.val.toNat % 8 = 0) :
    exec (.cred h a b ch) s = .next (s.modChan s.cur ch (fun q => { q with st := { q.st with
      rbasin := x.a.val, rsig := x.b.val } })) := by
  have haperture : ¬ (x.a.val ≠ 0#64 ∧ (!isSpm x.a.val) = true ∧ (!isPeer x.a.val) = true) := by
    rintro ⟨hne, hspm, hpeer⟩
    obtain ⟨h | h, -⟩ := hbasin.resolve_left hne
    · rw [h] at hspm
      cases hspm
    · rw [h] at hpeer
      cases hpeer
  have hmemory : ¬ (x.b.val ≠ 0#64 ∧ isSpm x.b.val = true) := by
    rintro ⟨hne, hspm⟩
    obtain ⟨h, -⟩ := hsignal.resolve_left hne
    exact ne_true_of_eq_false h hspm
  have ha : x.a.val.toNat % 32 = 0 := by
    rcases hbasin with h0 | ⟨-, hmod⟩
    · rw [h0]; rfl
    · exact hmod
  have hb : x.b.val.toNat % 8 = 0 := by
    rcases hsignal with h0 | ⟨-, hmod⟩
    · rw [h0]; rfl
    · exact hmod
  change execCred h a b ch s = _
  rw [execCred, copyOp_runs hchan hrun rfl]
  dsimp only
  rw [if_neg (by rw [hpa, hpb]; exact Bool.false_ne_true), if_neg haperture, if_neg hmemory, if_neg (not_not.mpr ha),
    if_neg (not_not.mpr hb)]

variable (hrun : EngineRuns s h 0#6 0#6 0#6 x)
include hrun

theorem exec_cmode {len : Bool} : exec (.cmode h len ch) s = .next (s.modChan s.cur ch (fun q =>
    { q with modeNew := q.modeNew ++ [(s.here.beat + 1, len)] })) := by
  change execCmode h len ch s = _
  rw [execCmode, copyOp_runs hchan hrun rfl]
  rfl

theorem exec_cstat {d : BitVec 6} :
    exec (.cstat h d ch) s = .next (landRegs s 6#3 1 [.s d ⟨cstatWord s.here ch, s.here.band, false⟩]) := by
  change execCstat h d ch s = _
  rw [execCstat, copyOp_runs hchan hrun rfl]
  rfl

/-- `cdrain` lets its context go on once no command of the channel is outstanding (R286). -/
theorem exec_cdrain : exec (.cdrain h ch) s = .next (
    if (s.here.timeline (chIdx ch)).count.toNat ≤ (s.here.timeline (chIdx ch)).done.toNat
      then s.takeSync s.cur (syncTimeline s.cur (chIdx ch))
      else s.modCtx s.cur (fun q => { q with frz := .cdrain ch (s.here.timeline (chIdx ch)).count })) := by
  change execCdrain h ch s = _
  rw [execCdrain, copyOp_runs hchan hrun rfl]
  simp only [BitVec.ule_eq_decide, decide_eq_true_eq]

end Channel

/-- Settles O25: each op passes its checks and acts on its channel. -/
theorem channelStateOpsAct : Obligations.ChannelStateOpsAct := by
  unfold Obligations.ChannelStateOpsAct
  intro s h a b c d len ch lvl x hchan
  exact ⟨fun hrun hpa hpb hpc => ⟨exec_cnl hchan hrun hpa hpb hpc, exec_cnb hchan hrun hpa hpb hpc⟩, exec_cred hchan,
    fun hrun => ⟨exec_cmode hchan hrun, exec_cstat hchan hrun,
      fun hdone => (exec_cdrain hchan hrun).trans (congrArg _ (if_pos hdone)),
      fun hwait => (exec_cdrain hchan hrun).trans (congrArg _ (if_neg (Nat.not_le.mpr hwait)))⟩⟩

/-! ### Cipher commands (R376, R377, R381) -/

/-- The command that `seal` or `open` queues. -/
def cipherCmd (s : State) (isSeal : Bool) (x : EngArgs) (k : BitVec 2) : CipherCmd :=
  ⟨(s.here.timeline tlX).count + 1#64, isSeal, BitVec.ofNat 21 (spmOff x.a.val), BitVec.ofNat 21 (spmOff x.b.val), x.c.val.setWidth 17, k,
    if isSeal then s.here.sealcnt else 0#64, s.opProv, s.opWord 7#3, s.cycle⟩

theorem queueCipher_eq (s : State) (isSeal : Bool) (x : EngArgs) (k : BitVec 2) :
    queueCipher s isSeal x k = (s.modCtx s.cur (·.counted tlX)).modCtx s.cur (fun c => { c with
      sealcnt := if isSeal then s.here.sealcnt + 1#64 else s.here.sealcnt
      eng := { c.eng with
        cipher := c.eng.cipher ++ [cipherCmd s isSeal x k]
        cipherRun := c.eng.cipherRun || c.eng.cipher.isEmpty } }) := rfl

theorem cipherOp_runs {s : State} {h : OpHdr} {a b c : BitVec 6} {k : BitVec 2} {isSeal : Bool} {src dst : Nat → Nat} {x : EngArgs}
    (hrun : EngineRuns s h a b c x)
    (hok : cipherFault s.here isSeal x (src x.c.val.toNat) (dst x.c.val.toNat) k = none) :
    cipherOp h a b c k isSeal src dst s = queueCipher s isSeal x k := by
  rw [cipherOp, engineOp_runs hrun]
  simp only [hok]

/-- The state after a cipher command has entered its queue. -/
theorem queueCipher_enters (s : State) (isSeal : Bool) (x : EngArgs) (k : BitVec 2) {t : State} (ht : queueCipher s isSeal x k = t) :
    (t.here.timeline tlX).count = (s.here.timeline tlX).count + 1#64 ∧
    t.here.eng.cipher = s.here.eng.cipher ++ [cipherCmd s isSeal x k] ∧
    t.here.sealcnt = (if isSeal then s.here.sealcnt + 1#64 else s.here.sealcnt) ∧
    t.here.regs = s.here.regs ∧ t.here.spm = s.here.spm ∧ SameMemory s t := by
  have hcur : t.cur = s.cur := by rw [← ht]; rfl
  have hctx : t.here = { s.here.counted tlX with
      sealcnt := if isSeal then s.here.sealcnt + 1#64 else s.here.sealcnt
      eng := { (s.here.counted tlX).eng with
        cipher := s.here.eng.cipher ++ [cipherCmd s isSeal x k]
        cipherRun := s.here.eng.cipherRun || s.here.eng.cipher.isEmpty } } := by
    rw [State.here, hcur, ← ht, queueCipher_eq, State.ctx_modCtx_same, State.ctx_modCtx_same]
    rfl
  rw [hctx]
  exact ⟨congrArg Timeline.count (counted_timeline s.here tlX), rfl, rfl, rfl, rfl, fun a => by rw [← ht]; rfl⟩

/-- Settles O30: the checks pass, and the command enters the queue (`queueCipher_enters`). -/
theorem sealAndOpenEnterTheCipherQueue : Obligations.SealAndOpenEnterTheCipherQueue := by
  unfold Obligations.SealAndOpenEnterTheCipherQueue
  intro s h a b c k x i isSeal n lines hop hrun
  have hexec : exec i s = .next (queueCipher s isSeal x k) := by
    obtain ⟨rfl, rfl, hok⟩ | ⟨rfl, rfl, hok⟩ := hop
    · change execSeal h a b c k s = _
      rw [execSeal]
      exact congrArg Host.Outcome.next (cipherOp_runs hrun hok)
    · change execOpen h a b c k s = _
      rw [execOpen]
      exact congrArg Host.Outcome.next (cipherOp_runs hrun hok)
  obtain ⟨hcount, hqueue, hcounter, hregs, hspm, hmem⟩ := queueCipher_enters s isSeal x k rfl
  exact ⟨_, _, rfl, hexec, hcount, hqueue, hcounter, hregs, hspm, hmem⟩

end Sys2Proof.Machine
end

section
/-! SUPPORT. The fields of a routine's run, and the micro-words that pull, step and clear (07_matrix R189 to R201): O21. -/
namespace Sys2Proof.Machine

/-! ### Fields of the frozen-state words (R190) -/

theorem field_setField_same {r : MRun} {k lo n x : Nat} (hk : k < 18) (h : lo + n ≤ 64) :
    (r.setField k lo n x).field k lo n = x % 2 ^ n := by
  rw [MRun.field, word_setField_same hk, bitsOf_setBits_same h]

theorem field_setField_other {r : MRun} {k k' lo n lo' n' x : Nat} (hk : k ≠ k') :
    (r.setField k' lo' n' x).field k lo n = r.field k lo n := by
  rw [MRun.field, word_setField_other hk, MRun.field]

theorem field_setField_apart {r : MRun} {k lo n lo' n' x : Nat} (hk : k < 18) (h : lo + n ≤ 64)
    (hapart : lo + n ≤ lo' ∨ lo' + n' ≤ lo) : (r.setField k lo' n' x).field k lo n = r.field k lo n := by
  rw [MRun.field, word_setField_same hk, bitsOf_setBits_apart h hapart, MRun.field]

/-- A field of another word, or above the word index, leaves the word index alone. -/
theorem mpc_setField {r : MRun} {k lo n x : Nat} (h : k ≠ 10 ∨ 12 ≤ lo) : (r.setField k lo n x).mpc = r.mpc := by
  by_cases hk : k = 10
  · subst hk
    exact field_setField_apart (by decide) (by decide) (.inl (by omega))
  · exact field_setField_other (Ne.symm hk)

/-- A latch that has been set reads valid, with its tile and block. -/
theorem latch_setLatch {r : MRun} {k tile block : Nat} (hk : k < 3) (ht : tile < 256) (hb : block < 256) :
    (r.setLatch k tile block).latValid k = true ∧ (r.setLatch k tile block).latTile k = tile ∧
      (r.setLatch k tile block).latBlock k = block := by
  refine ⟨beq_iff_eq.mpr ?valid, ?tile, ?block⟩
  case valid =>
    rw [MRun.setLatch, field_setField_apart (by decide) (by omega) (by omega),
      field_setField_apart (by decide) (by omega) (by omega), field_setField_same (by decide) (by omega)]
    rfl
  case tile =>
    rw [MRun.latTile, MRun.setLatch, field_setField_apart (by decide) (by omega) (by omega),
      field_setField_same (by decide) (by omega)]
    exact Nat.mod_eq_of_lt ht
  case block =>
    rw [MRun.latBlock, MRun.setLatch, field_setField_same (by decide) (by omega)]
    exact Nat.mod_eq_of_lt hb

/-- The latches are read from word 13 only. -/
theorem latch_of_word {q r : MRun} (h : q.word 13 = r.word 13) (k : Nat) :
    q.latValid k = r.latValid k ∧ q.latTile k = r.latTile k ∧ q.latBlock k = r.latBlock k := by
  simp only [MRun.latValid, MRun.latTile, MRun.latBlock, MRun.field, h, and_self]

theorem word_putLatch (r : MRun) (k : Nat) (x : Latch) (j : Nat) : (r.putLatch k x).word j = r.word j := by
  simp only [MRun.putLatch]
  split
  · rfl
  · split <;> rfl

/-! ### A micro-word that runs (R189, R190, R193) -/

theorem microOp_of_microRuns {s : State} {r : MRun} (h : MicroRuns s r) {ok : Bool} (hok : ok = true) (f : MRun → State) :
    microOp s ok f = f r.going := by
  obtain ⟨hrun, hphase, hfrozen, hindr, hrepull, -⟩ := h
  have hrun : (s.mat s.cur).run = some r := hrun
  simp [microOp, hrun, hphase, hfrozen, hindr, hrepull, hok, MRun.going]

/-- What a word that runs answers, from its meaning on a routine that waits for nothing. -/
theorem exec_of_microOp {i : Instr} {s u : State} {r : MRun} {ok : Bool} {f : MRun → State} (hruns : MicroRuns s r)
    (hexec : exec i s = .next (microOp s ok f)) (hok : ok = true) (hf : f r.going = u) : exec i s = .next u := by
  rw [hexec, microOp_of_microRuns hruns hok, hf]

/-- A word that runs is not the last of the store. -/
theorem MicroRuns.next_lt {s : State} {r : MRun} (h : MicroRuns s r) : r.going.mpc + 1 < 4096 := h.2.2.2.2.2

theorem microGoto_eq (s : State) (m : Mat) (r : MRun) {pc : Nat} (h : pc < 4096) :
    microGoto s m r pc = s.modMat s.cur (fun _ => { m with run := some { r.setMpc pc with waited := 0 } }) :=
  if_neg (Nat.not_le.mpr h)

theorem microNext_eq (s : State) (m : Mat) {r : MRun} (h : r.mpc + 1 < 4096) : microNext s m r = s.microDone m r :=
  microGoto_eq s m r h

/-- The same for a routine whose word index is still that of the word that runs. -/
theorem MicroRuns.microNext_eq {s : State} {r q : MRun} (h : MicroRuns s r) (m : Mat) (hq : q.mpc = r.going.mpc) :
    microNext s m q = s.microDone m q :=
  Machine.microNext_eq s m (hq ▸ h.next_lt)

theorem deliver_cur (s : State) (l : List (FeId × McBlock)) : (deliver s l).cur = s.cur := by
  induction l generalizing s with
  | nil => rfl
  | cons p t ih =>
    obtain ⟨fe, b⟩ := p
    refine (ih _).trans ?_
    split <;> rfl

/-! ### Pulls, steps and clears (R196 to R201) -/

section Pulls
variable {s : State} {r : MRun} {x y : BitVec 3} {i j : Nat}

/-- A pull by a lone core sends nothing, and sets its latch to the tile and block that it names. -/
theorem pull_ok_of_lone {c : Ctx} {k t b : Nat} {m m' : Mat} {r r' : MRun} {sends : List (FeId × McBlock)}
    (hlone : pmGSZL r.params = 0) (hpull : pull c k t b m r = .ok m' r' sends) :
    sends = [] ∧ ∃ band n latch, r' = ((({ r with band := band }).setLatch k t b).setPops k n).putLatch k latch := by
  have hring : ¬ (k ≠ 0 ∧ pmReceiver r.params = true) := by simp [pmReceiver, hlone]
  simp only [pull, if_neg hring] at hpull
  split at hpull
  · cases hpull
  split at hpull
  · cases hpull
  split at hpull
  · cases hpull
  split at hpull
  · cases hpull
  split at hpull
  · cases hpull
  next hband =>
    obtain ⟨l, band, -, rfl⟩ := raiseBand_eq_some hband
    rw [if_pos (.inr hlone)] at hpull
    cases hpull
    exact ⟨rfl, band, _, _, rfl⟩

theorem pull_latch_of_lone {c : Ctx} {k t b : Nat} {m m' : Mat} {r r' : MRun} {sends : List (FeId × McBlock)}
    (hpull : pull c k t b m r = .ok m' r' sends) (hlone : pmGSZL r.params = 0) (hk : k < 3) (ht : t < 256) (hb : b < 256) :
    sends = [] ∧ r'.latValid k = true ∧ r'.latTile k = t ∧ r'.latBlock k = b := by
  obtain ⟨hsends, band, n, latch, rfl⟩ := pull_ok_of_lone hlone hpull
  have hword : (((({ r with band := band }).setLatch k t b).setPops k n).putLatch k latch).word 13
      = (({ r with band := band }).setLatch k t b).word 13 := by
    rw [word_putLatch, MRun.setPops, word_setField_other (by decide)]
  obtain ⟨hvalid, htile, hblock⟩ := latch_of_word hword k
  rw [hvalid, htile, hblock]
  exact ⟨hsends, latch_setLatch hk ht hb⟩

/-- The check of two index sources. -/
theorem sources_ok (hx : x ≠ 7#3) (hy : y ≠ 7#3) : (x != 7#3 && y != 7#3) = true := by simp [hx, hy]

/-- A pull that ends well sends its blocks and goes on at the next word. -/
theorem pullOp_ok {k : Nat} {m' : Mat} {r' : MRun} {sends : List (FeId × McBlock)} (hruns : MicroRuns s r) (hx : x ≠ 7#3)
    (hy : y ≠ 7#3) (hi : r.going.idx x = some i) (hj : r.going.idx y = some j)
    (hpull : pull s.here k i j s.here.eng.mat r.going = .ok m' r' sends) (hpc : r'.mpc + 1 < 4096) :
    pullOp s k x y = (deliver s sends).microDone m' r' := by
  have hpull : pull (s.ctx s.cur) k i j (s.mat s.cur) r.going = .ok m' r' sends := hpull
  rw [pullOp, microOp_of_microRuns hruns (sources_ok hx hy), hi, hj, Option.getD_some, Option.getD_some, hpull]
  exact microNext_eq _ _ hpc

/-- The run that has taken a scale pair (R201). -/
def MRun.takePair (r : MRun) (q : ScalePair) : MRun :=
  { ((r.setField 10 23 1 1).setField 10 24 8 q.ea.toNat).setField 10 32 8 q.eb.toNat with pairPoison := q.poison }

theorem mpc_takePair (r : MRun) (q : ScalePair) : (r.takePair q).mpc = r.mpc := by
  calc (r.takePair q).mpc
    _ = (((r.setField 10 23 1 1).setField 10 24 8 q.ea.toNat).setField 10 32 8 q.eb.toNat).mpc := rfl
    _ = r.mpc := by rw [mpc_setField (by decide), mpc_setField (by decide), mpc_setField (by decide)]

/-- The head of the scale queue is taken once it is ready. -/
theorem popScale_ready {m m' : Mat} {r r' : MRun} {q : ScalePair} {rest : List ScalePair} (hqueue : m.scale = q :: rest)
    (hready : q.ready = true) (hband : raiseBand { m with scale := rest } r [q.band] = some (m', r')) :
    popScale m r = .ok m' (r'.takePair q) [] := by
  simp only [popScale, hqueue, hready, hband, Bool.not_true, Bool.false_eq_true, if_false]
  rfl

theorem exec_sqpop {q : ScalePair} {rest : List ScalePair} {m' : Mat} {r' : MRun} (hruns : MicroRuns s r)
    (hqueue : s.here.eng.mat.scale = q :: rest) (hready : q.ready = true)
    (hband : raiseBand { s.here.eng.mat with scale := rest } r.going [q.band] = some (m', r')) :
    exec .sqpop s = .next (s.microDone m' (r'.takePair q)) := by
  have hpop : popScale (s.mat s.cur) r.going = .ok m' (r'.takePair q) [] := popScale_ready hqueue hready hband
  have hmpc : r'.mpc = r.going.mpc := by
    obtain ⟨l, b, -, rfl⟩ := raiseBand_eq_some hband
    rfl
  refine exec_of_microOp hruns rfl rfl ?_
  rw [hpop]
  exact hruns.microNext_eq m' ((mpc_takePair r' q).trans hmpc)

/-- A step whose checks pass accumulates its patch (R197). -/
theorem stepChecked_ok {m : Mat} {r : MRun} (hi : i < pmMP r.params) (hj : j < pmNP r.params)
    (hscale : (blockScaled (pmFA r.params) || blockScaled (pmFB r.params)) = true → r.spv = true) (ha : r.latValid 0 = true)
    (hb : r.latValid 1 = true) (hm : pmSPN r.params ≠ 0 → r.latValid 2 = true) :
    stepChecked i j m r = .ok (stepPatch m r i j).1 (stepPatch m r i j).2 [] := by
  have hplace : ¬ (pmMP r.params ≤ i ∨ pmNP r.params ≤ j) := by omega
  have hpair : ¬ ((blockScaled (pmFA r.params) || blockScaled (pmFB r.params)) && !r.spv) = true := by
    cases hs : (blockScaled (pmFA r.params) || blockScaled (pmFB r.params)) with
    | false => simp
    | true => simp [hscale hs]
  have hlatch : ¬ (!(r.latValid 0 && r.latValid 1) || (pmSPN r.params != 0 && !r.latValid 2)) = true := by
    by_cases hspn : pmSPN r.params = 0
    · simp [ha, hb, hspn]
    · simp [ha, hb, hm hspn]
  simp only [stepChecked]
  rw [if_neg hplace, if_neg hpair, if_neg hlatch]

theorem exec_step (hruns : MicroRuns s r) (hx : x ≠ 7#3) (hy : y ≠ 7#3) (hi : r.going.idx x = some i)
    (hj : r.going.idx y = some j) {m' : Mat} {r' : MRun}
    (hstep : stepChecked i j s.here.eng.mat r.going = .ok m' r' []) (hpc : r'.mpc + 1 < 4096) :
    exec (.step x y) s = .next (s.microDone m' r') := by
  have hstep : stepChecked i j (s.mat s.cur) r.going = .ok m' r' [] := hstep
  refine exec_of_microOp hruns rfl (sources_ok hx hy) ?_
  rw [hi, hj, Option.getD_some, Option.getD_some, hstep]
  exact microNext_eq s m' hpc

theorem exec_zacc (hruns : MicroRuns s r) (hx : x ≠ 7#3) (hy : y ≠ 7#3) (hi : r.going.idx x = some i)
    (hj : r.going.idx y = some j) (hmp : i < pmMP r.params) (hnp : j < pmNP r.params) :
    let u := patchRow r.params r.dim i j / 16
    let z := markUnits (zeroUnits s.here.eng.mat u (2 * r.dim) r.band) r.going u (2 * r.dim)
    exec (.zacc x y) s = .next (s.microDone z.1 z.2) := by
  have hplace : ¬ (pmMP r.going.params ≤ i ∨ pmNP r.going.params ≤ j) := fun h =>
    h.elim (Nat.not_le.mpr hmp) (Nat.not_le.mpr hnp)
  refine exec_of_microOp hruns rfl (sources_ok hx hy) ?_
  simp only [hi, hj, Option.getD_some]
  rw [if_neg hplace]
  exact hruns.microNext_eq _ rfl

/-- The run of a `stepk` that has no further block (R198). -/
def MRun.stepkEnded (r : MRun) : MRun := (r.setField 10 22 1 0).setField 10 42 8 0

theorem mpc_stepkEnded (r : MRun) : r.stepkEnded.mpc = r.mpc := by
  rw [MRun.stepkEnded, mpc_setField (by decide), mpc_setField (by decide)]

/-- The block that a `stepk` does next (R198). -/
def MRun.stepkBlock (r : MRun) : Nat := if r.instk then r.stkb else 0

section Stepk
variable {ats bts : BitVec 3} {ta tb : Nat} {m' : Mat} {r' : MRun} {sends : List (FeId × McBlock)} (hruns : MicroRuns s r)
  (hok : (x != 7#3 && y != 7#3 && ats != 7#3 && bts != 7#3) = true)
include hruns hok

theorem exec_stepk_ended (hn : pmKTB r.params (r.c 0) ≤ r.stepkBlock) :
    exec (.stepk x y ats bts) s = .next (s.microDone s.here.eng.mat r.going.stepkEnded) := by
  refine exec_of_microOp hruns rfl hok ((if_pos hn).trans ?_)
  exact hruns.microNext_eq _ (mpc_stepkEnded _)

/-- A `stepk` with a block left does it, and its run state depends on whether it is the last. -/
theorem exec_stepk_block (hi : r.going.idx x = some i) (hj : r.going.idx y = some j) (hta : r.going.idx ats = some ta)
    (htb : r.going.idx bts = some tb) (hn : r.stepkBlock < pmKTB r.params (r.c 0))
    (hbody : stepkBody s.here i j ta tb r.stepkBlock s.here.eng.mat r.going = .ok m' r' sends) :
    exec (.stepk x y ats bts) s = .next (
      if pmKTB r.params (r.c 0) ≤ r.stepkBlock + 1 then microNext (deliver s sends) m' r'.stepkEnded
      else (deliver s sends).modMat s.cur (fun _ => { m' with
        run := some { (r'.setField 10 22 1 1).setField 10 42 8 (r.stepkBlock + 1) with waited := 0 } })) := by
  have hbody : stepkBody (s.ctx s.cur) i j ta tb r.stepkBlock (s.mat s.cur) r.going = .ok m' r' sends := hbody
  refine exec_of_microOp hruns rfl hok ((if_neg (Nat.not_le.mpr hn)).trans ?_)
  rw [hi, hj, hta, htb]
  simp only [Option.getD_some]
  rw [show (if r.going.instk then r.going.stkb else 0) = r.stepkBlock from rfl, hbody]
  simp only [microEnd, deliver_cur]
  rfl

end Stepk

end Pulls

/-- Settles O21: each word ends well with its unit state and run (`pullOp_ok`, `stepChecked_ok`, `exec_stepk_block`), and goes on at
the next word (`microNext_eq`). -/
theorem microWordsPullStepAndClear : Obligations.MicroWordsPullStepAndClear := by
  unfold Obligations.MicroWordsPullStepAndClear
  intro s r x y ats bts m' r' sends i j ta tb m r0 p hruns hx hy hi hj
  refine ⟨?pulls, ?sqpop, fun hmp hnp => ⟨?step, ?zacc⟩, fun hats hbts hta htb => ?stepk⟩
  case pulls =>
    intro w k hw hpull hpc
    have hdone := pullOp_ok hruns hx hy hi hj hpull hpc
    have hk : k < 3 := by omega
    refine ⟨?_, fun hlone hi256 hj256 => pull_latch_of_lone hpull hlone hk hi256 hj256⟩
    obtain ⟨rfl, rfl⟩ | ⟨rfl, rfl⟩ | ⟨rfl, rfl⟩ := hw <;> exact congrArg Host.Outcome.next hdone
  case sqpop => exact fun q rest => exec_sqpop hruns
  case step =>
    intro hscale ha hb hm hpc
    exact exec_step hruns hx hy hi hj (stepChecked_ok hmp hnp hscale ha hb hm) hpc
  case zacc => exact exec_zacc hruns hx hy hi hj hmp hnp
  case stepk =>
    have hok : (x != 7#3 && y != 7#3 && ats != 7#3 && bts != 7#3) = true := by simp [hx, hy, hats, hbts]
    refine ⟨exec_stepk_ended hruns hok, fun hn hbody => ?_⟩
    have hexec := exec_stepk_block hruns hok hi hj hta htb hn hbody
    refine ⟨fun hmore => hexec.trans (congrArg _ (if_neg (Nat.not_le.mpr hmore))), fun hlast hpc => ?_⟩
    exact hexec.trans (congrArg _ ((if_pos hlast.le).trans (microNext_eq _ _ hpc)))

end Sys2Proof.Machine
end

section
/-! SUPPORT. Drains, loops, waits and the return of a routine (07_matrix R197 to R206): O22. -/
namespace Sys2Proof.Machine

section Words
variable {s : State} {r : MRun} {x y : BitVec 3} {i j e : Nat}

theorem exec_drain (hruns : MicroRuns s r) (hx : x ≠ 7#3) (hy : y ≠ 7#3) (hi : r.going.idx x = some i)
    (hj : r.going.idx y = some j) (hmp : i < pmMP r.params) (hnp : j < pmNP r.params)
    (hfault : drainFault s s.cur r.params r.dim = none) (hentry : progEntry s s.cur (pmPROG r.params) = some e) :
    exec (.drain x y) s = .next (s.setRun s.cur (r.going.enterPatch e i j)) := by
  have hplace : ¬ (pmMP r.going.params ≤ i ∨ pmNP r.going.params ≤ j) := fun h =>
    h.elim (Nat.not_le.mpr hmp) (Nat.not_le.mpr hnp)
  have hfault : drainFault s s.cur r.going.params r.going.dim = none := hfault
  have hentry : progEntry s s.cur (pmPROG r.going.params) = some e := hentry
  refine exec_of_microOp hruns rfl (sources_ok hx hy) ?_
  simp only [hi, hj, Option.getD_some]
  rw [if_neg hplace]
  simp only [hfault, hentry]

/-! ### Loops (R199) -/

section Loop
variable {lvl cs : BitVec 3} {imm : BitVec 16} {n : Nat}

/-- A count source that is not reserved has a code of at most 5 (R194). -/
theorem code_le_of_count (h : r.count cs imm = some n) : decide (cs.toNat ≤ 5) = true := by
  refine decide_eq_true (Nat.not_lt.mp fun hcode => ?_)
  have hcs : cs = 6#3 ∨ cs = 7#3 := by bv_omega
  obtain rfl | rfl := hcs <;> cases h

/-- A `loop` at its own depth goes on after the matching `endl` when it has no iteration, and one level deeper otherwise. -/
theorem exec_loop (hruns : MicroRuns s r) (hlvl : lvl.toNat = r.depth) (hdeep : lvl.toNat < 4)
    (hcount : r.going.count cs imm = some n) :
    let q := (r.going.setC lvl.toNat 0).setN lvl.toNat n
    exec (.loop lvl cs imm) s = .next (
      if n = 0 then microGoto s s.here.eng.mat q (afterEndl s s.cur (r.going.mpc + 1) 0 (4096 - (r.going.mpc + 1)))
      else microNext s s.here.eng.mat (q.setField 10 18 3 (r.depth + 1))) := by
  have hlegal : ¬ (lvl.toNat ≠ r.going.depth ∨ 4 ≤ lvl.toNat) := fun h => h.elim (· hlvl) (Nat.not_le.mpr hdeep)
  refine exec_of_microOp hruns rfl (code_le_of_count hcount) ?_
  simp only [hcount, Option.getD_some]
  rw [if_neg hlegal]
  by_cases hn : n = 0
  · subst hn; rfl
  · rw [if_neg hn, if_neg hn]; rfl

/-- An `endl` in a loop goes back while an iteration is left, and leaves the level otherwise. -/
theorem exec_endl (hruns : MicroRuns s r) (hdepth : r.depth ≠ 0) :
    let l := r.depth - 1
    let q := r.going.setC l (r.c l + 1)
    exec .endl s = .next (
      if r.c l + 1 < r.n l then microGoto s s.here.eng.mat q (loopBody s s.cur 0 r.mpc)
      else microNext s s.here.eng.mat (q.setField 10 18 3 l)) :=
  exec_of_microOp hruns rfl rfl (if_neg hdepth)

end Loop

/-! ### Waits and swap (R200, R205) -/

theorem exec_syncc (hruns : MicroRuns s r) (hlone : pmGSZL r.params = 0) :
    exec .syncc s = .next (microNext s s.here.eng.mat (r.going.setOrdinal (r.ordinal + 1))) :=
  exec_of_microOp hruns rfl rfl (if_pos hlone)

theorem exec_waitr {ring : BitVec 2} {tiles : BitVec 9} (hruns : MicroRuns s r) (hring : ring ≠ 3#2)
    (hvalid : (s.here.eng.mat.ring (r.handle ring.toNat)).valid = true)
    (hcount : tiles.toNat ≤ (s.here.eng.mat.ring (r.handle ring.toNat)).count.toNat)
    (hfill : tiles.toNat ≤ (s.here.eng.mat.ring (r.handle ring.toNat)).fill.toNat) :
    exec (.waitr ring tiles) s = .next (s.microDone s.here.eng.mat r.going) := by
  have hlegal : ¬ ((s.here.eng.mat.ring (r.handle ring.toNat)).valid = false ∨
      (s.here.eng.mat.ring (r.handle ring.toNat)).count.toNat < tiles.toNat) := by
    simp [hvalid, hcount]
  exact exec_of_microOp hruns rfl (bne_iff_ne.mpr hring)
    ((if_neg hlegal).trans ((if_pos hfill).trans (hruns.microNext_eq _ rfl)))

theorem exec_swap (hruns : MicroRuns s r) :
    exec .swap s = .next (microNext s s.here.eng.mat (r.going.setField 10 21 1 (if r.swp then 0 else 1))) :=
  exec_of_microOp hruns rfl rfl rfl

/-! ### Return (R171, R182, R200) -/

/-- The unit once every ring that the routine names has popped its tiles (R171, R200). -/
def Mat.popRings (m : Mat) (r : MRun) : Mat := r.handles.foldl (fun m h => popRing m h (r.popsOf h)) m
/-- The routine without tiles to pop. -/
def MRun.popped (r : MRun) : MRun := ((r.setPops 0 0).setPops 1 0).setPops 2 0

/-- A `ret` at depth 0 pops the rings, and DR says whether the region drains (R182). -/
theorem exec_ret {flags : BitVec 4} {rout : BitVec 6} {k : BitVec 16} (hruns : MicroRuns s r) (hdepth : r.depth = 0)
    (hkind : r.cmd.kind = .call flags rout k) :
    exec .ret s = .next (
      if flags.getLsbD 2 = true then
        startDrain (s.modMat s.cur (fun _ => s.here.eng.mat.popRings r)) s.cur (r.going.popped.setField 15 45 1 1)
      else s.modMat s.cur (fun _ => { s.here.eng.mat.popRings r with run := some { r.going.popped with phase := .finished } })) := by
  have hkind : r.going.cmd.kind = .call flags rout k := hkind
  refine exec_of_microOp hruns rfl rfl ((if_neg (not_not_intro hdepth)).trans ?_)
  simp only [hkind]
  rfl

/-- The run that a unit executes after it has been put there. -/
theorem active_setActive (m : Mat) (r : MRun) : (m.setActive r).active = some r := by
  rw [Mat.setActive]
  split
  · rfl
  · next hb => simp [Mat.active, Option.not_isSome_iff_eq_none.mp hb]

/-- A drain that nothing stops stands at its first Trimmer run (R206). -/
theorem startDrain_active {fe : FeId} (hfault : drainFault s fe r.params r.dim = none)
    (hentry : progEntry s fe (pmPROG r.params) = some e) (hmp : pmMP r.params ≠ 0) (hnp : pmNP r.params ≠ 0) :
    ((startDrain s fe r).mat fe).active = some { r.enterPatch e 0 0 with phase := .drainLoop } := by
  have hpatches : ¬ (pmMP r.params = 0 ∨ pmNP r.params = 0) := fun h => h.elim hmp hnp
  simp only [startDrain, hfault, hentry]
  rw [if_neg hpatches, State.setRun, State.mat_modMat, active_setActive]

theorem startDrain_cur {fe : FeId} (hfault : drainFault s fe r.params r.dim = none)
    (hentry : progEntry s fe (pmPROG r.params) = some e) : (startDrain s fe r).cur = s.cur := by
  simp only [startDrain, hfault, hentry]
  split <;> rfl

end Words

/-- Settles O22: each word that runs has its meaning on the waiting-free run (`exec_loop`, `exec_endl`, `exec_ret` and their like),
and its hypotheses choose the branch. -/
theorem microWordsLoopWaitAndReturn : Obligations.MicroWordsLoopWaitAndReturn := by
  unfold Obligations.MicroWordsLoopWaitAndReturn
  intro s r x y lvl cs imm ring tiles i j n e m r0 p hruns
  refine ⟨?drain, ?loop, fun hdepth => ⟨?back, ?leave⟩, ?syncc, exec_waitr hruns, ?swap, ?ret⟩
  case drain => exact exec_drain hruns
  case loop =>
    intro hlvl hdeep hcount
    have hexec := exec_loop hruns hlvl hdeep hcount
    refine ⟨fun hn hpc => hexec.trans (congrArg _ ((if_neg hn).trans (microNext_eq _ _ hpc))), fun hn pc hpc hlt => ?_⟩
    subst hn hpc
    exact hexec.trans (congrArg _ ((if_pos rfl).trans (microGoto_eq _ _ _ hlt)))
  case back =>
    intro hmore pc hpc hlt
    subst hpc
    exact (exec_endl hruns hdepth).trans (congrArg _ ((if_pos hmore).trans (microGoto_eq _ _ _ hlt)))
  case leave =>
    intro hlast hpc
    exact (exec_endl hruns hdepth).trans (congrArg _ ((if_neg (Nat.not_lt.mpr hlast)).trans (microNext_eq _ _ hpc)))
  case syncc => exact fun hlone hpc => (exec_syncc hruns hlone).trans (congrArg _ (microNext_eq _ _ hpc))
  case swap => exact fun hpc => (exec_swap hruns).trans (congrArg _ (microNext_eq _ _ hpc))
  case ret =>
    intro hdepth m' r' flags rout k hkind
    have hexec := exec_ret hruns hdepth hkind
    refine ⟨fun hdr => hexec.trans (congrArg _ (if_neg (ne_true_of_eq_false hdr))), fun hdr hfault hentry hmp hnp => ?_⟩
    refine ⟨_, hexec.trans (congrArg _ (if_pos hdr)),
      { (r'.setField 15 45 1 1).enterPatch e 0 0 with phase := .drainLoop }, ?_, rfl, rfl⟩
    have hcur := startDrain_cur hfault hentry
    have hactive := startDrain_active hfault hentry hmp hnp
    exact (congrArg (fun fe => (State.mat (startDrain _ _ _) fe).active) hcur).trans hactive

end Sys2Proof.Machine
end

section
/-! SUPPORT. The ops on the parameter registers, on the frozen state and on the matrix status (07_matrix R184, R189, R190, R192):
O20. -/
namespace Sys2Proof.Machine

theorem vget_eq_getElem {α : Type} {n w : Nat} {d : α} (v : Vector α n) {i : BitVec w} (h : i.toNat < n) :
    vget d v i = v[i.toNat] := by simp [vget, h]

section Registers
variable {s : State} {h : OpHdr} {d a : BitVec 6} {k : BitVec 5} {x : EngArgs} {r : MRun}

/-- `mset.rs` of an unpoisoned value into a held routine writes the word, and the value's band joins the routine's (R190). -/
theorem exec_msetRs {m' : Mat} {r' : MRun} (hrun : EngineRuns s h a 0#6 0#6 x) (hp : x.a.poison = false) (hk : k.toNat ≤ 17)
    (hfrozen : s.here.eng.mat.frozen = true) (hheld : s.here.eng.mat.run = some r)
    (hband : raiseBand s.here.eng.mat (r.setWord k.toNat x.a.val) [x.a.band] = some (m', r')) :
    exec (.msetRs h a k) s = .next (s.modMat s.cur (fun _ => { m' with run := some r' })) := by
  have hfrozen : (s.mat s.cur).frozen = true := hfrozen
  have hheld : (s.mat s.cur).run = some r := hheld
  have hband : raiseBand (s.mat s.cur) (r.setWord k.toNat x.a.val) [x.a.band] = some (m', r') := hband
  change execMsetRs h a k s = _
  rw [execMsetRs, decide_eq_true hk, engineOp_runs hrun]
  simp only [hfrozen, hp, hheld, hband, Bool.not_true, Bool.false_eq_true, if_false]

theorem exec_mgetRs (hrun : EngineRuns s h 0#6 0#6 0#6 x) (hk : k.toNat ≤ 17) (hfrozen : s.here.eng.mat.frozen = true)
    (hheld : s.here.eng.mat.run = some r) :
    exec (.mgetRs h d k) s = .next (landRegs s 3#3 1 [.s d ⟨r.word k.toNat, r.band, false⟩]) := by
  have hfrozen : (s.mat s.cur).frozen = true := hfrozen
  have hheld : (s.mat s.cur).run = some r := hheld
  change execMgetRs h d k s = _
  rw [execMgetRs, decide_eq_true hk, engineOp_runs hrun]
  simp only [hfrozen, hheld, Bool.not_true, Bool.false_eq_true, if_false]
  rfl

/-! ### Freeze and thaw (R189) -/

/-- The context whose `mfreeze` has to wait for the freeze point of its command. -/
def Ctx.awaitsFreeze (c : Ctx) : Ctx :=
  { c with eng := { c.eng with mat := { c.eng.mat with frozen := true } }, frz := .mfreeze }

theorem exec_mfreeze (hrun : EngineRuns s h 0#6 0#6 0#6 x) : exec (.mfreeze h) s = .next (
    if s.here.eng.mat.frozen then s
    else if s.here.eng.mat.run.isSome then s.modCtx s.cur Ctx.awaitsFreeze
    else s.modMat s.cur (fun m => { m with frozen := true })) := by
  change execMfreeze h s = _
  rw [execMfreeze, engineOp_runs hrun]
  refine congrArg Host.Outcome.next (if_congr Iff.rfl rfl ?_)
  rw [show s.mat s.cur = s.here.eng.mat from rfl]
  cases s.here.eng.mat.run with
  | none => rfl
  | some r => rfl

/-- The unit after a thaw, before its held routine goes on. -/
def Mat.thawed (m : Mat) : Mat := { m with frozen := false, rs := [] }

theorem exec_mthaw (hrun : EngineRuns s h 0#6 0#6 0#6 x) :
    exec (.mthaw h) s = .next (resumeMatrix (s.modMat s.cur Mat.thawed) s.cur) := by
  change execMthaw h s = _
  rw [execMthaw, engineOp_runs hrun]
  rfl

/-- Without a held routine nothing goes on. -/
theorem resumeMatrix_idle {fe : FeId} (hidle : (s.mat fe).run = none ∨ (s.mat fe).run = some r ∧ r.frozen = false) :
    resumeMatrix s fe = s := by
  obtain hrun | ⟨hrun, hfrozen⟩ := hidle
  · simp only [resumeMatrix, hrun]
  · simp only [resumeMatrix, hrun, hfrozen, Bool.not_false, if_true]

/-- A held routine as it goes on. -/
def MRun.resumed (r : MRun) : MRun := { r with frozen := false, repull := true, phase := r.resumePhase }

section Resume
variable {fe : FeId} {m : Mat} {q : MRun} (hrun : (s.mat fe).run = some r) (hheld : r.frozen = true)
  (hband : raiseBand (s.mat fe) r (regionBands (s.mat fe) r.params r.dim) = some (m, q))
include hrun hheld hband

/-- A routine outside a Trimmer run goes on at its next micro-word (R190). -/
theorem resumeMatrix_words (hwords : q.resumed.phase = .finished ∨ q.indr = false) :
    resumeMatrix s fe = s.modMat fe (fun _ => { m with run := some { q.resumed with trun := TRun.none } }) := by
  have hgoes : (decide (q.resumed.phase = .finished) || !q.resumed.indr) = true := by
    obtain hfin | hindr := hwords
    · simp [hfin]
    · simp [show q.resumed.indr = false from hindr]
  simp only [resumeMatrix, hrun, hheld, hband, Bool.not_true, Bool.false_eq_true, if_false]
  exact if_pos hgoes

/-- A routine inside a drain goes on at the Trimmer run that word 15 names (R190). -/
theorem resumeMatrix_drain {e : Nat} (hphase : q.resumed.phase ≠ .finished) (hindr : q.indr = true)
    (hentry : progEntry s fe (pmPROG r.params) = some e) :
    resumeMatrix s fe = s.modMat fe (fun _ => { m with run := some { q.resumed with trun := TRun.fresh e q.band } }) := by
  have hstays : ¬ (decide (q.resumed.phase = .finished) || !q.resumed.indr) = true := by
    simp [hphase, show q.resumed.indr = true from hindr]
  simp only [resumeMatrix, hrun, hheld, hband, hentry, Bool.not_true, Bool.false_eq_true, if_false]
  exact if_neg hstays

end Resume

/-! ### Status (R192) -/

theorem exec_mstat {clr : Bool} (hrun : EngineRuns s h 0#6 0#6 0#6 x) : exec (.mstat h d clr) s = .next (
    let s' := landRegs s 3#3 1 [.s d ⟨mstatWord s s.cur, s.here.band, false⟩]
    if clr then s'.modMat s.cur (fun m => { m with ovf := false, tovf := false, tnan := false }) else s') := by
  change execMstat h d clr s = _
  rw [execMstat, engineOp_runs hrun]
  rfl

end Registers

/-- Settles O20: each op runs on its values (`engineOp_runs`) and has its effect; what a thaw resumes is said by `resumeMatrix_words`
and `resumeMatrix_drain`. -/
theorem matrixRegisterOpsAct : Obligations.MatrixRegisterOpsAct := by
  unfold Obligations.MatrixRegisterOpsAct
  intro s h d a md k x r clr m
  refine ⟨fun hrun hp => ⟨?mset, ?msetRs⟩, fun hrun => ⟨?mget, exec_mgetRs hrun, ?still, ?freezes, ?waits, ?thaw, exec_mstat hrun⟩⟩
  case mset =>
    change execMset h md a s = _
    rw [execMset, engineOp_runs hrun]
    exact congrArg Host.Outcome.next (if_neg (ne_true_of_eq_false hp))
  case msetRs =>
    intro hk hfrozen hheld m' r' hband
    refine ⟨exec_msetRs hrun hp hk hfrozen hheld hband, ?_⟩
    obtain ⟨l, b, -, rfl⟩ := raiseBand_eq_some hband
    rfl
  case mget =>
    change execMget h d md s = _
    rw [execMget, engineOp_runs hrun]
    simp only [vget_eq_getElem x.m md.isLt]
    rfl
  case still => exact fun hfrozen => (exec_mfreeze hrun).trans (congrArg _ (if_pos hfrozen))
  case freezes =>
    intro hfrozen hnone
    rw [exec_mfreeze hrun, if_neg (ne_true_of_eq_false hfrozen)]
    exact congrArg _ (if_neg (by rw [show s.here.eng.mat.run = none from hnone]; decide))
  case waits =>
    intro hfrozen hsome
    rw [exec_mfreeze hrun, if_neg (ne_true_of_eq_false hfrozen)]
    exact congrArg _ (if_pos (by rw [show s.here.eng.mat.run = some r from hsome]; rfl))
  case thaw =>
    intro m0 s0
    have hmat : s0.mat s.cur = m0 := State.mat_modMat ..
    refine ⟨fun hidle => (exec_mthaw hrun).trans (congrArg _ (resumeMatrix_idle (r := r) (hmat ▸ hidle))), ?_⟩
    intro hheld hfrozen m1 r1 hband goes
    have hheld : (s0.mat s.cur).run = some r := hmat ▸ hheld
    have hband : raiseBand (s0.mat s.cur) r (regionBands (s0.mat s.cur) r.params r.dim) = some (m1, r1) := hmat ▸ hband
    exact ⟨fun hwords => (exec_mthaw hrun).trans (congrArg _ (resumeMatrix_words hheld hfrozen hband hwords)),
      fun e hphase hindr hentry =>
        (exec_mthaw hrun).trans (congrArg _ (resumeMatrix_drain hheld hfrozen hband hphase hindr hentry))⟩

end Sys2Proof.Machine
end

section
/-! SUPPORT. Stores to the window and to memory (08_memory R232 to R238): O16. -/
namespace Sys2Proof.Machine

section StoreMem
variable {s : State} {slot : BitVec 3} {ea : Word} {band : Band} {scope : BitVec 2} {data : SpmBytes} {ps : List Piece}
  {plan : StorePlan}

/-- A planned strong store stands behind the released gate (R233). -/
theorem storeMem_strong (hplan : planStore s s.cur .core scope band data ps = .ok plan) :
    storeMem s slot ea band true scope data ps = s.modCtx s.cur (fun c => { c with
      stq := { c.stq with gate := [], sb := c.stq.sb ++ c.stq.gate ++ plan.entries s.here.nextSeq ea band true scope },
      nextSeq := c.nextSeq + 1 }) := by
  simp only [storeMem, hplan]
  rfl

/-- A planned weak store enters the gate when the gate has room (R232). -/
theorem storeMem_weak (hplan : planStore s s.cur .core scope band data ps = .ok plan)
    (hroom : s.here.stq.gate.length + (plan.entries s.here.nextSeq ea band false scope).length ≤ 128) :
    storeMem s slot ea band false scope data ps = s.modCtx s.cur (fun c => { c with
      stq := { c.stq with gate := c.stq.gate ++ plan.entries s.here.nextSeq ea band false scope },
      nextSeq := c.nextSeq + 1 }) := by
  simp only [storeMem, hplan]
  exact if_neg (Nat.not_lt.mpr hroom)

/-- A store that the window accepts goes to the undo log and the stores on their way (R216, R234). -/
theorem storeSpm_accepted {lines : List Nat} (hfault : spmStoreFault s.here ea band lines data = none) :
    storeSpm s slot ea band lines data = s.modCtx s.cur (fun c => c.spmStore band data) := by
  have h : spmStoreFault (s.ctx s.cur) ea band lines data = none := hfault
  simp only [storeSpm, h]

end StoreMem

/-- A store at an unpoisoned, aligned address reaches the window or memory (R213, R231, R238). -/
theorem storesAt_of_exec {i : Instr} {s : State} {base : SReg} {ea : Word} {n : Nat} {band : Band} {strong : Bool}
    {scope : BitVec 2} {data : SpmBytes} (hp : base.poison = false) (ha : aligned ea n = true)
    (he : exec i s = .next (storeAt s base ea n band strong scope data)) : StoresAt i s ea n band strong scope data := by
  refine ⟨fun hin hfit hfault => ?_, fun hout plan hplan => ?_⟩
  · have hfit' : ¬ (s.ctx s.cur).spm.size < spmOff ea + n := Nat.not_lt.mpr hfit
    rw [he, ← storeSpm_accepted (slot := slotST) hfault]
    simp [storeAt, hp, ha, hin, hfit']
  · have hmem : storeAt s base ea n band strong scope data = storeMem s slotST ea band strong scope data (piecesOf ea n) := by
      simp [storeAt, hp, ha, hout]
    rw [he, hmem]
    refine ⟨fun hs => ?_, fun hs hroom => ?_⟩
    · subst hs
      rw [storeMem_strong hplan]
    · subst hs
      rw [storeMem_weak hplan hroom]

/-- The low bytes of a scalar register (R238). -/
theorem scalarBytes_eq (x : SReg) (n : Nat) :
    scalarBytes x n = (List.range n).map (fun i => (i, x.val.extractLsb' (8 * i) 8, x.poison)) := by
  rw [scalarBytes, natBytes_eq_map, zipIdx_map_range]
  refine List.map_congr_left fun j _ => ?_
  rw [show BitVec.ofNat 8 (x.val.toNat / 2 ^ (8 * j)) = x.val.extractLsb' (8 * j) 8 from
    BitVec.eq_of_toNat_eq (by rw [BitVec.extractLsb'_toNat, BitVec.toNat_ofNat, Nat.shiftRight_eq_div_pow])]

/-- The bytes of the active lanes that a lane-wise store puts at the offsets of their addresses in the window (R236). -/
def windowLanes (v : VReg) (w : Nat) (at_ : Nat → Word) (act : List Nat) : SpmBytes :=
  act.flatMap (fun k => (List.range w).map (fun i =>
    (spmOff (at_ k) + i, v.bits.extractLsb' (8 * (w * k + i)) 8, v.poison.getLsbD ((w * k + i) / 64))))

theorem windowLanes_eq (v : VReg) (w : Nat) (at_ : Nat → Word) (act : List Nat) :
    act.flatMap (fun k => (laneBytes v w k).map (fun q => (spmOff (at_ k) + (q.1 - w * k), q.2))) = windowLanes v w at_ act := by
  simp [windowLanes, laneBytes, Function.comp_def, lineByte, granuleAt]

section Stores
variable {s : State} {h : OpHdr} {d base : BitVec 6} {size : BitVec 3} {kind : Bool} {scope : BitVec 2} {off : BitVec 24}

/-- st stores the low bytes of sD at A + SignExt(OFF) (R238). -/
theorem st_storesAt (hop : OpRuns s h) (hp : (s.here.rS base).poison = false)
    (ha : aligned ((s.here.rS base).val + off.signExtend 64) (sizeBytes size) = true) (hsz : size.toNat ≤ 3) :
    StoresAt (.st h d base size kind scope off) s ((s.here.rS base).val + off.signExtend 64) (sizeBytes size)
      (s.here.rS d).band kind scope
      ((List.range (sizeBytes size)).map (fun i => (i, (s.here.rS d).val.extractLsb' (8 * i) 8, (s.here.rS d).poison))) := by
  refine storesAt_of_exec hp ha ?_
  change execSt h d base size kind scope off s = _
  rw [execSt, decide_eq_true hsz, guardedOp_runs hop, ← scalarBytes_eq]
  rfl

/-- vst stores the low bytes of vD at A + SignExt(OFF) (R238). -/
theorem vst_storesAt (hop : OpRuns s h) (hp : (s.here.rS base).poison = false)
    (ha : aligned ((s.here.rS base).val + off.signExtend 64) (sizeBytes size) = true) (hsz : 4 ≤ size.toNat) :
    StoresAt (.vst h d base size kind scope off) s ((s.here.rS base).val + off.signExtend 64) (sizeBytes size)
      (s.here.rV d).band kind scope (vectorBytes (s.here.rV d) (sizeBytes size)) := by
  refine storesAt_of_exec hp ha ?_
  change execVst h d base size kind scope off s = _
  rw [execVst, decide_eq_true hsz, guardedOp_runs hop]
  rfl

/-- vstm stores those of the low bytes of vD that its guard selects (R238). -/
theorem vstm_storesAt (hl : LaneRuns s h) (hp : (s.here.rS base).poison = false)
    (ha : aligned ((s.here.rS base).val + off.signExtend 64) (sizeBytes size) = true) (hsz : 4 ≤ size.toNat) :
    StoresAt (.vstm h d base size kind scope off) s ((s.here.rS base).val + off.signExtend 64) (sizeBytes size)
      (s.here.rV d).band kind scope
      ((vectorBytes (s.here.rV d) (sizeBytes size)).filter (fun p => (s.here.rP h.g).bits.getLsbD p.1)) := by
  refine storesAt_of_exec hp ha ?_
  change execVstm h d base size kind scope off s = _
  rw [execVstm, decide_eq_true hsz, laneOp_runs hl]
  rfl

/-- vstr stores vD at tile TAIL + t of its ring plus B when the ring has room (R237). -/
theorem exec_vstr {a : BitVec 4} {b : BitVec 6} {tile : BitVec 8} {ring : Ring} {y : SReg} {o : Nat} (hop : OpRuns s h)
    (hring : s.here.eng.mat.ring a = ring) (hy : s.here.rS b = y) (hp : y.poison = false) (hv : ring.valid = true)
    (hcount : tile.toNat < ring.count.toNat) (hroom : tile.toNat < ring.count.toNat - ring.fill.toNat)
    (hb : y.val.toNat < ring.tsz.toNat * 256) (ha : y.val.toNat % 256 = 0)
    (ho : o = ringTileOff ring (ring.tail.toNat + tile.toNat) + y.val.toNat) (hfit : o + 256 ≤ s.here.spm.size)
    (hfault : spmStoreFault s.here (spmEa o) (s.here.rV d).band [o / 256]
      ((vectorBytes (s.here.rV d) 256).map (fun p => (o + p.1, p.2))) = none) :
    exec (.vstr h d a b tile) s = .next (s.modCtx s.cur (fun c =>
      c.spmStore (s.here.rV d).band ((vectorBytes (s.here.rV d) 256).map (fun p => (o + p.1, p.2))))) := by
  subst hring hy ho
  change execVstr h d a b tile s = _
  rw [execVstr, guardedOp_runs hop, ← storeSpm_accepted (slot := slotST) hfault]
  have hring : ringFault ((s.ctx s.cur).eng.mat.ring a) ((s.ctx s.cur).rS b).val tile = none := ringFault_none hv hcount hb ha
  dsimp only
  rw [if_neg (by simpa using hp), hring]
  dsimp only
  rw [if_neg (Nat.not_le.mpr hroom), if_neg (Nat.not_lt.mpr hfit)]

/-- vsts without an active lane changes nothing (R42). -/
theorem exec_vsts_nil {t : VTy} {b : BitVec 6} (hl : LaneRuns s h) (hact : activeLanes (s.here.rP h.g) t.bytes = []) :
    exec (.vsts h t d base b) s = .next s := by
  have hact' : activeLanes ((s.ctx s.cur).rP h.g) t.bytes = [] := hact
  change execVsts h t d base b s = _
  rw [execVsts, laneOp_runs hl]
  simp only [hact']
  rfl

/-- vsts with an active lane, at unpoisoned and aligned addresses all in the window or all outside, stores every active lane
(R236). -/
theorem exec_vsts {t : VTy} {b : BitVec 6} {at_ : Nat → Word} {act : List Nat} {win : Bool} (hl : LaneRuns s h)
    (hact : activeLanes (s.here.rP h.g) t.bytes = act)
    (hat : (fun k => (s.here.rS base).val + BitVec.ofNat 64 k * (s.here.rS b).val) = at_)
    (hne : act ≠ []) (hp : (s.here.rS base).poison = false) (hq : (s.here.rS b).poison = false)
    (hal : ∀ k ∈ act, (at_ k).toNat % t.bytes = 0) (hwin : ∀ k ∈ act, isSpm (at_ k) = win)
    (hfit : win = true → ∀ k ∈ act, spmOff (at_ k) + t.bytes ≤ s.here.spm.size) :
    exec (.vsts h t d base b) s = .next (
      if win then storeSpm s slotST (at_ (act.headD 0)) (s.here.rV d).band ((act.map (fun k => spmOff (at_ k) / 256)).eraseDups)
        (windowLanes (s.here.rV d) t.bytes at_ act)
      else storeMem s slotST (at_ (act.headD 0)) (s.here.rV d).band false 0#2 (act.flatMap (laneBytes (s.here.rV d) t.bytes))
        (act.map (fun k => ⟨t.bytes * k, at_ k, t.bytes⟩))) := by
  generalize hps : act.map (fun k => (⟨t.bytes * k, at_ k, t.bytes⟩ : Piece)) = ps
  have hempty : ps.isEmpty = false := by simpa [← hps] using hne
  have hmix : (ps.any (fun p => isSpm p.ea) && !ps.all (fun p => isSpm p.ea)) = false := by
    cases win with
    | false => simpa [← hps] using fun k hk hin => absurd (hin.symm.trans (hwin k hk)) (by decide)
    | true => simpa [← hps] using fun _ _ _ => hwin
  have hbad : ps.find? (fun p => p.ea.toNat % t.bytes != 0) = none := by simpa [← hps] using hal
  have hhead : (ps.map (·.ea)).headD 0#64 = at_ (act.headD 0) := by
    obtain ⟨k, l, rfl⟩ := List.exists_cons_of_ne_nil hne
    rw [← hps]
    rfl
  have hfirst : isSpm (at_ (act.headD 0)) = win := by
    obtain ⟨k, l, rfl⟩ := List.exists_cons_of_ne_nil hne
    exact hwin k (List.mem_cons_self ..)
  change execVsts h t d base b s = _
  rw [execVsts, laneOp_runs hl]
  simp only [show s.ctx s.cur = s.here from rfl, hact, congrFun hat, hps, hempty, hp, hq, hmix, hbad, hhead, hfirst, Bool.or_self]
  refine congrArg _ ?_
  rw [if_neg Bool.false_ne_true, if_neg Bool.false_ne_true, if_neg Bool.false_ne_true]
  cases win with
  | false => rfl
  | true =>
    have hover : ps.find? (fun p => decide (s.here.spm.size < spmOff p.ea + t.bytes)) = none := by simpa [← hps] using hfit rfl
    rw [if_pos rfl, if_pos rfl, hover, ← hps]
    simp only [List.map_map, List.flatMap_map, Nat.mul_div_cancel_left _ (bytes_pos t)]
    exact congrArg _ (windowLanes_eq ..)

end Stores

/-- Settles O16: each op is its shared store at an unpoisoned, aligned address (`storesAt_of_exec`), vstr and vsts by their own
equations (`exec_vstr`, `exec_vsts`). -/
theorem storesWriteTheirAddress : Obligations.StoresWriteTheirAddress := by
  unfold Obligations.StoresWriteTheirAddress
  intro s h d base size kind scope off a b tile t r y x v ea n ring o act at_
  refine ⟨fun hop hp ha => ⟨st_storesAt hop hp ha, vst_storesAt hop hp ha⟩, fun hl hp ha hsz => ?vstm, ?vstr,
    fun hl => ⟨exec_vsts_nil hl, fun hne hp hq hal => ⟨?window, ?gate⟩⟩⟩
  case vstm =>
    have hst := vstm_storesAt (d := d) (kind := kind) (scope := scope) hl hp ha hsz
    rw [vectorBytes, List.filter_map] at hst
    exact hst
  case vstr =>
    intro hop hp hv hcount hroom hb hal hfit data hfault
    have hdata : (vectorBytes v 256).map (fun p => (o + p.1, p.2)) = data := List.map_map
    have hst := exec_vstr (d := d) hop rfl rfl hp hv hcount hroom hb hal (o := o) rfl hfit (by rw [hdata]; exact hfault)
    rw [hdata] at hst
    exact hst
  case window =>
    intro hwin data hfault
    have hst := exec_vsts (d := d) hl rfl rfl hne hp hq hal (fun k hk => (hwin k hk).1) (fun _ k hk => (hwin k hk).2)
    rw [hst, if_pos rfl]
    exact congrArg _ (storeSpm_accepted hfault)
  case gate =>
    intro hout plan hplan hroom
    have hst := exec_vsts (d := d) hl rfl rfl hne hp hq hal hout (fun hf => absurd hf Bool.false_ne_true)
    rw [hst, if_neg Bool.false_ne_true]
    exact congrArg _ (storeMem_weak hplan hroom)

end Sys2Proof.Machine
end

section
/-! SUPPORT. What reads bring in, and the reads of the Cistern, the scale queue, stream clears and prefetch (08_memory R235, R244
to R246, R263, R324): O17. -/
namespace Sys2Proof.Machine

/-! ### What a read leaves as it is (R254, R263, R324) -/

/-- A read by front end `fe` keeps the front end that runs, the cores, the live pool heads, and what the front end waits for. -/
structure ReadKeeps (fe : FeId) (s t : State) : Prop where
  cur : t.cur = s.cur
  cores : t.cores = s.cores
  heads : t.hw.heads = s.hw.heads
  frz : (t.ctx fe).frz = (s.ctx fe).frz

theorem ReadKeeps.refl (fe : FeId) (s : State) : ReadKeeps fe s s := ⟨rfl, rfl, rfl, rfl⟩
theorem ReadKeeps.trans {fe : FeId} {s t u : State} (h : ReadKeeps fe s t) (h' : ReadKeeps fe t u) : ReadKeeps fe s u :=
  ⟨h'.cur.trans h.cur, h'.cores.trans h.cores, h'.heads.trans h.heads, h'.frz.trans h.frz⟩

theorem readKeeps_modCtx {fe : FeId} {s : State} {f : Ctx → Ctx} (h : ∀ c, (f c).frz = c.frz) : ReadKeeps fe s (s.modCtx fe f) :=
  ⟨rfl, rfl, rfl, by rw [State.ctx_modCtx_same, h]⟩

theorem readKeeps_mediaEvents (fe : FeId) (s : State) (src : BitVec 16) (line : Nat) (e : MediaErr) :
    ReadKeeps fe s (mediaEvents s src line e) := by
  refine List.foldlRecOn e.events _ (.refl fe s) fun t ht c _ => ht.trans ⟨traceEv_cur .., ?_, ?_, ?_⟩
  · unfold State.traceEv
    split_ifs <;> rfl
  · unfold State.traceEv
    split_ifs <;> rfl
  · rw [traceEv_ctx, State.countError_ctx]

theorem readKeeps_noteRead (fe : FeId) (s : State) (u : XUnit) (strong : Bool) (scope : BitVec 2) (seq : Nat) (ps : List Piece) :
    ReadKeeps fe s (noteRead s fe u strong scope seq ps) := by
  unfold noteRead
  generalize (if strong then some scope else none) = st
  dsimp only
  split
  · exact .refl fe s
  · exact readKeeps_modCtx fun _ => rfl

theorem readKeeps_fillLine (fe : FeId) (s : State) (l : Leaf) (k : Nat) : ReadKeeps fe s (fillLine s fe l k) := by
  unfold fillLine
  split
  · exact .refl fe s
  · split
    · exact .refl fe s
    next e _ =>
      split
      · exact .refl fe s
      · refine ReadKeeps.trans ?_ (readKeeps_mediaEvents ..)
        exact (⟨rfl, rfl, rfl, rfl⟩ : ReadKeeps fe s { s with media := pset s.media (k / 64) e, filled := _ }).trans
          (readKeeps_modCtx fun _ => rfl)

theorem readKeeps_touchLine (fe : FeId) (s : State) (l : Leaf) (k : Nat) : ReadKeeps fe s (touchLine s fe l k) := by
  have h := readKeeps_fillLine fe s l k
  unfold touchLine
  dsimp only
  split
  · split
    · exact h
    · exact h.trans ⟨rfl, rfl, rfl, rfl⟩
  · exact h

theorem readKeeps_touchPieces (fe : FeId) (s : State) (u : XUnit) (ps : List Piece) : ReadKeeps fe s (touchPieces s fe u ps) := by
  refine List.foldlRecOn ps _ (.refl fe s) fun t ht p _ => ht.trans ?_
  split
  · exact readKeeps_touchLine ..
  · exact .refl fe t
  · exact .refl fe t

/-- A translation that succeeds names a leaf of the unit's cache (R226). -/
theorem mem_of_translate {s : State} {fe : FeId} {u : XUnit} {ea : Word} {l : Leaf} (h : translate s fe u ea = .ok l) :
    l ∈ unitLeaves s fe u := by
  unfold translate at h
  split at h
  · cases h
  · split at h
    next x hx =>
      cases h
      exact List.mem_of_find?_eq_some hx
    · split at h <;> cases h

/-- The leaves of a core's caches depend on the cores alone. -/
theorem unitLeaves_of_cores {s t : State} (h : t.cores = s.cores) (fe : FeId) (u : XUnit) : unitLeaves t fe u = unitLeaves s fe u := by
  cases u <;> simp only [unitLeaves, State.core, h]

theorem touchLine_unguarded {s : State} {fe : FeId} {l : Leaf} {k : Nat} (h : l.guard = false) :
    ∃ x, touchLine s fe l k = { s with clusters := x } := by
  unfold touchLine
  rw [fillLine_unguarded h]
  dsimp only
  split
  · split
    · exact ⟨s.clusters, rfl⟩
    · exact ⟨_, rfl⟩
  · exact ⟨s.clusters, rfl⟩

/-- Where no page is guarded, a read brings lines into the clusters' caches and does nothing else (R263, R321). -/
theorem touchPieces_unguarded {s : State} {fe : FeId} {u : XUnit} (ps : List Piece) (h : ∀ l ∈ unitLeaves s fe u, l.guard = false) :
    ∃ x, touchPieces s fe u ps = { s with clusters := x } := by
  refine List.foldlRecOn (motive := fun t : State => ∃ x, t = { s with clusters := x }) ps _ ⟨s.clusters, rfl⟩ fun t ht p _ => ?_
  obtain ⟨x, rfl⟩ := ht
  split
  next l hl =>
    obtain ⟨y, hy⟩ := touchLine_unguarded (s := { s with clusters := x }) (fe := fe) (k := l.keyOf p.ea) (h l (mem_of_translate hl))
    exact ⟨y, hy⟩
  · exact ⟨x, rfl⟩
  · exact ⟨x, rfl⟩

/-! ### The ops (R235, R244 to R246) -/

/-- Pair i of a line: two bytes, its band, and the poison of either (R245). -/
theorem linePairs_getElem? {d : ReadData} {i : Nat} (hi : i < d.bytes.length / 2) : (linePairs d)[i]? = some
    ⟨false, (d.bytes.getD (2 * i) (0, 0#8, false)).2.1, (d.bytes.getD (2 * i + 1) (0, 0#8, false)).2.1, d.bands.headD 0#8,
      (d.bytes.getD (2 * i) (0, 0#8, false)).2.2 || (d.bytes.getD (2 * i + 1) (0, 0#8, false)).2.2⟩ := by
  rw [linePairs, List.getElem?_map, List.getElem?_range hi]
  rfl

theorem lsqTouch_cur (s : State) (strong : Bool) (scope : BitVec 2) (ps : List Piece) : (lsqTouch s strong scope ps).cur = s.cur :=
  ((readKeeps_noteRead ..).trans (readKeeps_touchPieces ..)).cur

/-- What a prefetch of pieces of memory does, by what their read answers (R227, R244): it brings the lines in, forgets a refused
translation, or waits for one. -/
def prefetched (s : State) (ps : List Piece) : Acc ReadData → State
  | .miss ea => opMiss s ea false
  | .fault f => s.modCtx s.cur (fun c => c.clearDeny .core f.ea)
  | .ok _ => touchPieces s s.cur .core ps

section Ops
variable {s : State} {h : OpHdr} {d base : BitVec 6} {size : BitVec 3} {kind : Bool} {scope : BitVec 2} {off : BitVec 24} {ea : Word}
  (hop : OpRuns s h) (hea : (s.here.rS base).val + off.signExtend 64 = ea) (hp : (s.here.rS base).poison = false)
include hop hea hp

/-- vldc of bytes of the own die's Cistern, none in the refreshing bank, lands them 14 beats later (R220, R221, R235). -/
theorem exec_vldc {ps : List Piece} {dat : ReadData} {w : List RegW} (hps : piecesOf ea (sizeBytes size) = ps)
    (hsz : 6 ≤ size.toNat) (hout : isSpm ea = false) (ha : aligned ea (sizeBytes size) = true)
    (hread : readMem s s.cur .core false 0#2 spCistern [] 0 ps = .ok dat)
    (hdie : ∀ k ∈ pieceKeysOf s s.cur ps, spacePa k = .cistern (dieOf s.cur) ∧ k / 256 % 32 ≠ s.refresh.toNat / 2016)
    (hw : loadWrites (.v d (BitVec.allOnes 256) []) dat = .ok w) :
    exec (.vldc h d base size off) s = .next (landRegs s 4#3 14 w) := by
  have hfar : (pieceKeysOf s s.cur ps).any (fun k => spacePa k != .cistern (dieOf s.cur)) = false :=
    List.any_eq_false.mpr fun k hk => by rw [(hdie k hk).1]; simp
  have hbank : (pieceKeysOf s s.cur ps).any (fun k => cisternBank k == refreshBank s) = false :=
    List.any_eq_false.mpr fun k hk => ne_true_of_eq_false (beq_eq_false_iff_ne.mpr (hdie k hk).2)
  change execVldc h d base size off s = _
  rw [execVldc, decide_eq_true hsz, guardedOp_runs hop]
  simp only [show effAddr ((s.ctx s.cur).rS base).val off = ea from hea, hps, hread, hfar, hbank, hw]
  rw [if_neg (ne_true_of_eq_false hp), if_neg (ne_true_of_eq_false hout), if_neg (by rw [ha]; decide)]
  rfl

/-- lsq with room in the queue, whose lines can be read now, reserves their pairs (R245). -/
theorem exec_lsq {l : List ReadData} (hsz : size ≠ 0#3) (ha : aligned ea (sizeBytes size) = true)
    (hroom : s.here.eng.mat.scale.length + sizeBytes size / 2 ≤ 256)
    (hread : readEach (lsqRead s kind scope) (piecesOf ea (sizeBytes size)) = .ok l)
    (hshadow : isSpm ea = true → readsShadow s.here (piecesOf ea (sizeBytes size)) = false)
    (hmay : isSpm ea = false → mayRead s s.cur s.here.nextSeq kind (piecesOf ea (sizeBytes size)) = true) :
    exec (.lsq h base size kind scope off) s
      = .next (lsqReserve (if isSpm ea then s else lsqTouch s kind scope (piecesOf ea (sizeBytes size))) l) := by
  have hshadow' : ¬ (isSpm ea && readsShadow (s.ctx s.cur) (piecesOf ea (sizeBytes size))) = true := by
    cases hspm : isSpm ea with
    | false => simp
    | true => simpa using hshadow hspm
  have hmay' : ¬ (!isSpm ea && !mayRead s s.cur (s.ctx s.cur).nextSeq kind (piecesOf ea (sizeBytes size))) = true := by
    cases hspm : isSpm ea with
    | false => simpa using hmay hspm
    | true => simp
  change execLsq h base size kind scope off s = _
  rw [execLsq, bne_iff_ne.mpr hsz, guardedOp_runs hop]
  simp only [show effAddr ((s.ctx s.cur).rS base).val off = ea from hea]
  rw [if_neg (ne_true_of_eq_false hp), if_neg (by rw [ha]; decide), if_neg (Nat.not_lt.mpr hroom), if_neg hshadow', if_neg hmay', hread]

/-- pref of the window does nothing (R244). -/
theorem exec_pref_window (hsz : 6 ≤ size.toNat) (hd : d.toNat ≤ 1) (hin : isSpm ea = true) :
    exec (.pref h d base size off) s = .next s := by
  change execPref h d base size off s = _
  rw [execPref, decide_eq_true ⟨hsz, hd⟩, guardedOp_runs hop]
  simp only [show effAddr ((s.ctx s.cur).rS base).val off = ea from hea]
  rw [if_neg (ne_true_of_eq_false hp), if_pos hin]

/-- pref of memory that no earlier maintenance meets goes by what its read answers (R227, R244). -/
theorem exec_pref {ps : List Piece} (hps : piecesOf (ea - BitVec.ofNat 64 (ea.toNat % sizeBytes size)) (sizeBytes size) = ps)
    (hsz : 6 ≤ size.toNat) (hd : d.toNat ≤ 1) (hout : isSpm ea = false)
    (hmaint : maintBlocks s.here s.here.nextSeq (lineKeys s s.cur ps) = false) :
    exec (.pref h d base size off) s
      = .next (prefetched s ps (readMem s s.cur .core false 0#2 spLoad [] 0 ps)) := by
  change execPref h d base size off s = _
  rw [execPref, decide_eq_true ⟨hsz, hd⟩, guardedOp_runs hop]
  simp only [show effAddr ((s.ctx s.cur).rS base).val off = ea from hea, hps]
  rw [if_neg (ne_true_of_eq_false hp), if_neg (ne_true_of_eq_false hout), if_neg (ne_true_of_eq_false hmaint)]
  cases readMem s s.cur .core false 0#2 spLoad [] 0 ps <;> rfl

end Ops

/-- Settles O17: each op runs its own read (`exec_vldc`, `exec_lsq`, `exec_pref`); where no page is guarded a read changes only what
the clusters hold (`touchPieces_unguarded`). -/
theorem cisternScaleStreamAndPrefetchOpsAct : Obligations.CisternScaleStreamAndPrefetchOpsAct := by
  unfold Obligations.CisternScaleStreamAndPrefetchOpsAct
  intro s h d base q size kind scope off r ea n ps Reserves pp hop
  refine ⟨fun hp hsz hout ha dat w hread hdie hw => exec_vldc hop rfl hp rfl hsz hout ha hread hdie hw, ?lsq,
    congrArg Host.Outcome.next (guardedOp_runs hop), ?pref⟩
  case lsq =>
    intro hp hsz ha hroom l hread
    refine ⟨fun hin hshadow => ⟨fun dat _ i => linePairs_getElem?, ?_⟩, fun hout hmay => ⟨fun dat _ i => linePairs_getElem?, ?_⟩⟩
    · rw [exec_lsq hop rfl hp hsz ha hroom hread (fun _ => hshadow) (fun hout => absurd (hin.symm.trans hout) (by decide)), if_pos hin]
      rfl
    · rw [exec_lsq hop rfl hp hsz ha hroom hread (fun hin => absurd (hin.symm.trans hout) (by decide)) (fun _ => hmay),
        if_neg (ne_true_of_eq_false hout), lsqReserve, lsqTouch_cur]
  case pref =>
    intro hp hsz hd
    refine ⟨exec_pref_window hop rfl hp hsz hd, fun hout hmaint => ⟨fun dat hread => ⟨?_, fun hguard => ?_⟩, fun f hread => ?_⟩⟩
    · rw [exec_pref hop rfl hp rfl hsz hd hout hmaint, hread]
      rfl
    · obtain ⟨x, hx⟩ := touchPieces_unguarded pp hguard
      rw [hx]
      exact ⟨rfl, fun _ => rfl⟩
    · rw [exec_pref hop rfl hp rfl hsz hd hout hmaint, hread]
      rfl

end Sys2Proof.Machine
end

section
/-! SUPPORT. Atomics, cache maintenance and ring publication at issue (08_memory R233, R239, R242, R243): O18. -/
namespace Sys2Proof.Machine

/-- An amo of a combination that R239 allows has no field C but where it swaps on a comparison. -/
theorem wfAmo_c {fn : BitVec 4} {sz : BitVec 2} {cz : Bool} (h : wfAmo fn sz cz = true) : (fn == 9#4 || cz) = true := by
  revert fn sz cz; decide

/-- An amo at an unpoisoned, aligned address outside the window releases the gate and lands 9 beats later at the earliest (R233,
R239). -/
theorem exec_amo {s : State} {h : OpHdr} {d a b c : BitVec 6} {rel acq : Bool} {scope sz : BitVec 2} {fn : BitVec 4} {x : SReg}
    (hop : OpRuns s h) (hx : s.here.rS a = x) (hwf : wfAmo fn sz (c == 0#6) = true) (hp : x.poison = false)
    (hout : isSpm x.val = false) (ha : x.val.toNat % 2 ^ sz.toNat = 0) :
    exec (.amo h d a b c rel acq scope sz fn) s = .next (addPend (s.modCtx s.cur Ctx.releaseGate) 4#3 9
      (.amo ⟨d, x.val, s.here.rS b, s.here.rS c, rel, acq, scope, sz, fn, none⟩)) := by
  change execAmo h d a b c rel acq scope sz fn s = _
  have hal : ¬ x.val.toNat % amoBytes sz ≠ 0 := not_not.mpr ha
  rw [execAmo, reservedZero, if_pos (wfAmo_c hwf), hwf, guardedOp_runs hop]
  simp only [show (s.ctx s.cur).rS a = x from hx]
  rw [if_neg (ne_true_of_eq_false hp), if_neg (ne_true_of_eq_false hout), if_neg hal]
  rfl

/-- A maintenance op of an unpoisoned line address outside the window, in a scope beyond the core, whose leaf permits it, releases
the gate and leaves its request (R233, R243). -/
theorem maintOp_requests {s : State} {h : OpHdr} {base : BitVec 6} {size : BitVec 3} {scope : BitVec 2} {off : BitVec 24}
    {ea : Word} {l : Leaf} (op : BitVec 2) {write : Bool} (hop : OpRuns s h) (hea : (s.here.rS base).val + off.signExtend 64 = ea)
    (hsz : 6 ≤ size.toNat) (hp : (s.here.rS base).poison = false) (hout : isSpm ea = false) (hscope : scope ≠ 0#2)
    (ha : ea.toNat % 64 = 0) (hx : translate s s.cur .core ea = .ok l) (hleaf : leafFault l ea write 0#2 spStore = none)
    (hband : write = true → bandStoreOk s.here.band l.band = true) :
    maintOp s h base size scope off op write = s.modCtx s.cur (fun c => { c.releaseGate with
      stq := { c.releaseGate.stq with maint := c.stq.maint ++ [⟨c.nextSeq, op, scope, l.keyOf ea / sizeBytes size * sizeBytes size,
        sizeBytes size, l.cls, ea - BitVec.ofNat 64 (ea.toNat % sizeBytes size), false⟩] },
      nextSeq := c.nextSeq + 1 }) := by
  have hband' : ¬ (write && !bandStoreOk (s.ctx s.cur).band l.band) = true := by
    cases write with
    | false => simp
    | true => simpa using hband rfl
  rw [maintOp, decide_eq_true hsz, guardedOp_runs hop]
  simp only [show effAddr ((s.ctx s.cur).rS base).val off = ea from hea, hout, beq_eq_false_iff_ne.mpr hscope, hx, hleaf]
  rw [if_neg (ne_true_of_eq_false hp), if_neg (by decide), if_neg (not_not.mpr ha), if_neg hband']
  rfl

/-- radv of a valid ring with room notes the tiles for 3 beats later (R242). -/
theorem exec_radv {s : State} {h : OpHdr} {a : BitVec 4} {n : BitVec 9} {r : Ring} (hop : OpRuns s h)
    (hr : s.here.eng.mat.ring a = r) (h1 : 1 ≤ n.toNat) (h256 : n.toNat ≤ 256) (hv : r.valid = true)
    (hroom : r.fill.toNat + pendingTiles s.here.eng.mat a + n.toNat ≤ r.count.toNat) :
    exec (.radv h a n) s = .next (s.modCtx s.cur (fun c => { c with eng := { c.eng with
      mat := { c.eng.mat with radv := c.eng.mat.radv ++ [(c.beat + 3, a, n)] } } })) := by
  subst hr
  change execRadv h a n s = _
  rw [execRadv, decide_eq_true ⟨h1, h256⟩, guardedOp_runs hop]
  refine congrArg Host.Outcome.next (if_neg ?_)
  rw [show ((s.ctx s.cur).eng.mat.ring a).valid = true from hv]
  exact ne_true_of_eq_false (decide_eq_false (Nat.not_lt.mpr hroom))

/-- Settles O18: the three maintenance ops are one operation with its own code (`maintOp_requests`); amo and radv have equations of
their own. -/
theorem atomicsAndMaintenanceReleaseTheGate : Obligations.AtomicsAndMaintenanceReleaseTheGate := by
  unfold Obligations.AtomicsAndMaintenanceReleaseTheGate
  intro s h d a b c rel acq scope sz fn size off hnd m l x ea n released Maintains ring hop
  refine ⟨fun hwf hp hout ha => exec_amo hop rfl hwf hp hout ha, fun hsz hp hout hscope ha hx => ?maintenance,
    fun h1 h256 hv hroom => exec_radv hop rfl h1 h256 hv hroom⟩
  have hrequest (i : Instr) (op : BitVec 2) (write : Bool) (hi : exec i s = .next (maintOp s h a size scope off op write)) :
      Maintains i op write := fun hleaf hband =>
    hi.trans (congrArg _ (maintOp_requests op hop rfl hsz hp hout hscope ha hx hleaf hband))
  exact ⟨hrequest _ 0#2 false rfl, hrequest _ 1#2 true rfl, hrequest _ 2#2 false rfl⟩

end Sys2Proof.Machine
end

section
/-! SUPPORT. What stores that perform leave in memory and in the caches of a cluster (08_memory R218, R230, R252, R255, R322). -/
namespace Sys2Proof.Machine

/-! ### Sparse maps -/

theorem pget_pset_other {α : Type} (l : List (Nat × α)) {k k' : Nat} (v : α) (h : k' ≠ k) : pget (pset l k v) k' = pget l k' := by
  induction l with
  | nil => simp [pset, pget, h]
  | cons p t ih =>
    obtain ⟨a, b⟩ := p
    simp only [pset]
    split
    · simp [pget, h]
    · split
      · subst_vars; simp [pget, h]
      · simp [pget, ih]

/-- A key that a list of writes does not name keeps its value. -/
theorem pget_foldl_pset_other {α : Type} {d l : List (Nat × α)} {a : Nat} (h : ∀ b ∈ d, b.1 ≠ a) :
    pget (d.foldl (fun m x => pset m x.1 x.2) l) a = pget l a := by
  refine List.foldlRecOn (motive := fun m => pget m a = pget l a) d _ rfl fun m hm b hb => ?_
  rw [pget_pset_other _ _ (h b hb).symm, hm]

/-- Writes of different keys all read back. -/
theorem pget_foldl_pset_mem {α : Type} {d l : List (Nat × α)} {b : Nat × α} (hd : (d.map (·.1)).Nodup) (hb : b ∈ d) :
    pget (d.foldl (fun m x => pset m x.1 x.2) l) b.1 = some b.2 := by
  induction d generalizing l with
  | nil => cases hb
  | cons c t ih =>
    obtain ⟨hc, ht⟩ := List.nodup_cons.mp hd
    rcases List.mem_cons.mp hb with rfl | hb
    · rw [List.foldl_cons, pget_foldl_pset_other fun x hx e => hc (List.mem_map.mpr ⟨x, hx, e⟩), pget_pset_same]
    · exact ih ht hb

/-- A byte of memory that a list of writes does not name reads as before. -/
theorem memRead_foldl_memWrite_other {d : List (Nat × Byte)} {m : List Host.Cell} {a : Nat} (h : ∀ b ∈ d, b.1 ≠ a) :
    memRead (d.foldl (fun m x => memWrite m x.1 x.2) m) a = memRead m a := by
  refine List.foldlRecOn (motive := fun m' => memRead m' a = memRead m a) d _ rfl fun m' hm b hb => ?_
  rw [memRead_memWrite_other _ _ (h b hb).symm, hm]

/-- Writes of different bytes of memory all read back. -/
theorem memRead_foldl_memWrite_mem {d : List (Nat × Byte)} {m : List Host.Cell} {b : Nat × Byte} (hd : (d.map (·.1)).Nodup)
    (hb : b ∈ d) : memRead (d.foldl (fun m x => memWrite m x.1 x.2) m) b.1 = b.2 := by
  induction d generalizing m with
  | nil => cases hb
  | cons c t ih =>
    obtain ⟨hc, ht⟩ := List.nodup_cons.mp hd
    rcases List.mem_cons.mp hb with rfl | hb
    · rw [List.foldl_cons, memRead_foldl_memWrite_other fun x hx e => hc (List.mem_map.mpr ⟨x, hx, e⟩), memRead_memWrite_same]
    · exact ih ht hb

/-! ### Marks: what goes along with the bytes (R230, R252, R322) -/

/-- `t` is `s` but for the marks that go along with stored bytes: poison, the stores that have performed, media errors, and lines as
delivered. -/
def MarksDiffer (s t : State) : Prop :=
  t = { s with poison := t.poison, hist := t.hist, stamp := t.stamp, media := t.media, filled := t.filled }

theorem MarksDiffer.eq {s t : State} (h : MarksDiffer s t) :
    t = { s with poison := t.poison, hist := t.hist, stamp := t.stamp, media := t.media, filled := t.filled } := h
theorem MarksDiffer.refl (s : State) : MarksDiffer s s := rfl
theorem MarksDiffer.trans {s t u : State} (h : MarksDiffer s t) (h' : MarksDiffer t u) : MarksDiffer s u := by
  unfold MarksDiffer
  rw [h'.eq, h.eq]
theorem MarksDiffer.mem {s t : State} (h : MarksDiffer s t) : t.mem = s.mem := by rw [h.eq]
theorem MarksDiffer.clusters {s t : State} (h : MarksDiffer s t) : t.clusters = s.clusters := by rw [h.eq]
theorem MarksDiffer.hw {s t : State} (h : MarksDiffer s t) : t.hw = s.hw := by rw [h.eq]

theorem marksDiffer_recordStore (s : State) (agent : Nat) (scope : BitVec 2) (rel : Vector Clock 4) (place : Option Nat)
    (keys : List Nat) : MarksDiffer s (recordStore s agent scope rel place keys) := rfl

theorem marksDiffer_mediaWritten (s : State) (n k : Nat) : MarksDiffer s (mediaWritten s n k) := by
  unfold mediaWritten
  dsimp only
  repeat' split
  all_goals rfl

theorem marksDiffer_performPoison (s : State) (data : List (Nat × Byte)) (plines : List Nat) :
    MarksDiffer s (performPoison s data plines) := by
  refine List.foldlRecOn _ _ (.refl s) fun t ht l _ => ht.trans ?_
  split <;> rfl

theorem marksDiffer_putMark (s : State) (p : Nat × Bool) : MarksDiffer s (putMark s p) := by
  unfold putMark
  split <;> rfl

theorem marksDiffer_foldl {α : Type} {f : State → α → State} (hf : ∀ s a, MarksDiffer s (f s a)) (l : List α) (s : State) :
    MarksDiffer s (l.foldl f s) :=
  List.foldlRecOn l _ (.refl s) fun t ht a _ => ht.trans (hf t a)

/-! ### The memory side: bytes, caches and marks -/

/-- `t` is `s` but for memory, the clusters' caches, and their marks. -/
def MemorySideDiffers (s t : State) : Prop :=
  t = { s with mem := t.mem, clusters := t.clusters, poison := t.poison, hist := t.hist, stamp := t.stamp, media := t.media,
               filled := t.filled }

theorem MemorySideDiffers.eq {s t : State} (h : MemorySideDiffers s t) :
    t = { s with mem := t.mem, clusters := t.clusters, poison := t.poison, hist := t.hist, stamp := t.stamp, media := t.media,
                 filled := t.filled } := h
theorem memorySideDiffers_mem (s : State) (m : List Host.Cell) : MemorySideDiffers s { s with mem := m } := rfl
theorem MemorySideDiffers.refl (s : State) : MemorySideDiffers s s := rfl
theorem MemorySideDiffers.trans {s t u : State} (h : MemorySideDiffers s t) (h' : MemorySideDiffers t u) : MemorySideDiffers s u := by
  unfold MemorySideDiffers
  rw [h'.eq, h.eq]
theorem MarksDiffer.memorySide {s t : State} (h : MarksDiffer s t) : MemorySideDiffers s t := by
  unfold MemorySideDiffers
  rw [h.eq]
theorem MemorySideDiffers.ctxs {s t : State} (h : MemorySideDiffers s t) : t.ctxs = s.ctxs := by rw [h.eq]
theorem MemorySideDiffers.regions {s t : State} (h : MemorySideDiffers s t) : t.regions = s.regions := by rw [h.eq]
theorem MemorySideDiffers.outputs {s t : State} (h : MemorySideDiffers s t) : t.outputs = s.outputs := by rw [h.eq]
theorem MemorySideDiffers.links {s t : State} (h : MemorySideDiffers s t) : t.links = s.links := by rw [h.eq]
theorem MemorySideDiffers.heldHost {s t : State} (h : MemorySideDiffers s t) : t.heldHost = s.heldHost := by rw [h.eq]
theorem MemorySideDiffers.ctx {s t : State} (h : MemorySideDiffers s t) (fe : FeId) : t.ctx fe = s.ctx fe :=
  State.ctx_of_ctxs h.ctxs fe

theorem memorySideDiffers_foldl {α : Type} {f : State → α → State} (hf : ∀ s a, MemorySideDiffers s (f s a)) (l : List α)
    (s : State) : MemorySideDiffers s (l.foldl f s) :=
  List.foldlRecOn l _ (.refl s) fun t ht a _ => ht.trans (hf t a)

/-! ### The bytes of a store (R218, R255) -/

theorem performBytes_memorySide (s : State) (fe : FeId) (cls : BitVec 2) (data : List (Nat × Byte)) :
    MemorySideDiffers s (performBytes s fe cls data) := by
  induction data generalizing s with
  | nil => exact .refl s
  | cons b t ih =>
    refine MemorySideDiffers.trans ?_ (ih _)
    split_ifs
    · rfl
    · exact .refl s
    · exact (memorySideDiffers_mem s _).trans (marksDiffer_mediaWritten ..).memorySide

/-- Whatever a store of an agent reaches, it changes nothing but memory, the clusters' caches and their marks. -/
theorem performStoreAs_memorySide (s : State) (fe : FeId) (agent : Nat) (rel : Vector Clock 4) (e : StoreEnt) :
    MemorySideDiffers s (performStoreAs s fe agent rel e) := by
  unfold performStoreAs
  dsimp only
  split
  · exact ((marksDiffer_recordStore s ..).memorySide.trans (performBytes_memorySide ..)).trans rfl
  · exact ((marksDiffer_recordStore s ..).memorySide.trans (performBytes_memorySide ..)).trans (marksDiffer_performPoison ..).memorySide

/-- The bytes of a store to class NC stay dirty in the L1s of the cluster, and memory keeps its own. -/
theorem performBytes_nc (s : State) (fe : FeId) (data : List (Nat × Byte)) :
    (performBytes s fe 0#2 data).mem = s.mem ∧
      (performBytes s fe 0#2 data).cluster (clusterOf fe) = { s.cluster (clusterOf fe) with
        l1d := data.foldl (fun m x => pset m x.1 x.2) (s.cluster (clusterOf fe)).l1d } := by
  induction data generalizing s with
  | nil => exact ⟨rfl, rfl⟩
  | cons b t ih =>
    obtain ⟨hmem, hcl⟩ := ih (s.setCluster (clusterOf fe) { s.cluster (clusterOf fe) with
      l1d := pset (s.cluster (clusterOf fe)).l1d b.1 b.2 })
    rw [State.cluster_setCluster_same] at hcl
    exact ⟨hmem, hcl⟩

/-- The bytes of a store to any other class reach memory, but for those of a pool whose heads are lost. -/
theorem performBytes_direct {s : State} {fe : FeId} {cls : BitVec 2} {data : List (Nat × Byte)} (hcls : cls ≠ 0#2)
    (hpool : ∀ b ∈ data, (poolKey b.1 && poolDead s) = false) :
    MarksDiffer { s with mem := data.foldl (fun m x => memWrite m x.1 x.2) s.mem } (performBytes s fe cls data) := by
  induction data generalizing s with
  | nil => rfl
  | cons b t ih =>
    rw [performBytes, if_neg hcls, hpool b (List.mem_cons_self ..), if_neg Bool.false_ne_true]
    have hmarks := marksDiffer_mediaWritten { s with mem := memWrite s.mem b.1 b.2 } (clusterOf fe) b.1
    have hdead : poolDead (mediaWritten { s with mem := memWrite s.mem b.1 b.2 } (clusterOf fe) b.1) = poolDead s := by
      rw [poolDead, hmarks.hw, poolDead]
    refine .trans ?_ (ih fun x hx => hdead ▸ hpool x (List.mem_cons_of_mem _ hx))
    rw [hmarks.eq]
    rfl

/-- A store entry that performs: its bytes are what the cluster sees, memory keeps every other byte, and the tags keep their errors. -/
structure Performs (s t : State) (fe : FeId) (cls : BitVec 2) (data : List (Nat × Byte)) : Prop where
  side : MemorySideDiffers s t
  seen : ∀ b ∈ data, seenAt t fe cls b.1 = b.2
  others : ∀ a, (∀ b ∈ data, b.1 ≠ a) → memRead t.mem a = memRead s.mem a
  tags : (t.cluster (clusterOf fe)).badTags = (s.cluster (clusterOf fe)).badTags

/-- A dirty byte of the L1s is what the cluster sees (R218). -/
theorem seenAt_of_l1d {t : State} {fe : FeId} {k : Nat} {b : Byte} (h : pget (t.cluster (clusterOf fe)).l1d k = some b) :
    seenAt t fe 0#2 k = b := by
  simp only [seenAt, cachedByte, h, if_true]

theorem performs_performStoreAs_nc {s : State} {fe : FeId} {agent : Nat} {rel : Vector Clock 4} {e : StoreEnt}
    (hcls : e.cls = 0#2) (hd : (e.data.map (·.1)).Nodup) : Performs s (performStoreAs s fe agent rel e) fe 0#2 e.data := by
  have heq : performStoreAs s fe agent rel e = (performBytes (recordStore s agent e.scope rel (some (clusterOf fe)) (e.data.map (·.1)))
      fe 0#2 e.data).setCluster (clusterOf fe) (((performBytes (recordStore s agent e.scope rel (some (clusterOf fe))
        (e.data.map (·.1))) fe 0#2 e.data).cluster (clusterOf fe)).markStore e.data e.plines) := by
    simp only [performStoreAs, hcls]
    rfl
  have hside := performStoreAs_memorySide s fe agent rel e
  obtain ⟨hmem, hcl⟩ := performBytes_nc (recordStore s agent e.scope rel (some (clusterOf fe)) (e.data.map (·.1))) fe e.data
  rw [heq] at hside ⊢
  refine ⟨hside, fun b hb => ?_, fun a _ => ?_, ?_⟩
  · refine seenAt_of_l1d ?_
    rw [State.cluster_setCluster_same, hcl]
    exact pget_foldl_pset_mem hd hb
  · rw [State.setCluster_mem, hmem]
    rfl
  · rw [State.cluster_setCluster_same, hcl]
    rfl

theorem performs_performStoreAs_direct {s : State} {fe : FeId} {agent : Nat} {rel : Vector Clock 4} {e : StoreEnt}
    (hcls : e.cls ≠ 0#2) (hd : (e.data.map (·.1)).Nodup) (hpool : ∀ b ∈ e.data, (poolKey b.1 && poolDead s) = false) :
    Performs s (performStoreAs s fe agent rel e) fe e.cls e.data := by
  have heq : performStoreAs s fe agent rel e = performPoison (performBytes (recordStore s agent e.scope rel none (e.data.map (·.1)))
      fe e.cls e.data) e.data e.plines := by
    simp only [performStoreAs, beq_eq_false_iff_ne.mpr hcls]
    rfl
  have hmarks : MarksDiffer { s with mem := e.data.foldl (fun m x => memWrite m x.1 x.2) s.mem } (performStoreAs s fe agent rel e) := by
    rw [heq]
    exact (performBytes_direct (s := recordStore s agent e.scope rel none (e.data.map (·.1))) hcls hpool).trans
      (marksDiffer_performPoison ..)
  refine ⟨performStoreAs_memorySide .., fun b hb => ?_, fun a ha => ?_, ?_⟩
  · rw [seenAt, if_neg hcls, hmarks.mem]
    exact memRead_foldl_memWrite_mem hd hb
  · rw [hmarks.mem]
    exact memRead_foldl_memWrite_other ha
  · rw [State.cluster, hmarks.clusters]
    rfl

/-- A store of an agent performs whole while its pool lives (R218, R230, R252, R255, R409). -/
theorem performs_performStoreAs {s : State} {fe : FeId} {agent : Nat} {rel : Vector Clock 4} {e : StoreEnt}
    (hd : (e.data.map (·.1)).Nodup) (hpool : ∀ b ∈ e.data, (poolKey b.1 && poolDead s) = false) :
    Performs s (performStoreAs s fe agent rel e) fe e.cls e.data := by
  by_cases hcls : e.cls = 0#2
  · rw [hcls]
    exact performs_performStoreAs_nc hcls hd
  · exact performs_performStoreAs_direct hcls hd hpool

/-! ### Cache maintenance (R243) -/

/-- A maintenance op that throws dirty bytes away: an invalidation of class NC. -/
def Maint.discards (m : Maint) : Bool := m.op == 1#2 && m.cls == 0#2

/-- The dirty bytes of its range that a maintenance op takes beyond the cluster: those of the L1s over those of the cluster cache. -/
def Maint.written (m : Maint) (cl : Cluster) : List Host.Cell := (cl.maintL1 m m.discards).ccd.filter (inRange m.key m.len)

/-- What maintenance beyond the cluster leaves dirty in it. -/
def Maint.leaves (m : Maint) (cl : Cluster) : Cluster :=
  { cl.maintL1 m m.discards with ccd := (cl.maintL1 m m.discards).ccd.filter (fun x => !inRange m.key m.len x),
                                 ccp := (cl.maintL1 m m.discards).ccp.filter (fun x => !m.hasLine x.1) }

/-- Dirty bytes of cluster n reach memory with the marks of their lines (R230, R243). -/
def writeBack (s : State) (n : Nat) (d : List Host.Cell) (p : List (Nat × Bool)) : State :=
  p.foldl putMark (d.foldl (fun s x => mediaWritten s n x.1) { s with mem := d.foldl (fun l x => memWrite l x.1 x.2) s.mem })

theorem marksDiffer_writeBack (s : State) (n : Nat) (d : List Host.Cell) (p : List (Nat × Bool)) :
    MarksDiffer { s with mem := d.foldl (fun l x => memWrite l x.1 x.2) s.mem } (writeBack s n d p) :=
  .trans (marksDiffer_foldl (f := fun t (x : Host.Cell) => mediaWritten t n x.1) (fun t x => marksDiffer_mediaWritten t n x.1) d _)
    (marksDiffer_foldl marksDiffer_putMark p _)

/-- What maintenance beyond cluster n leaves of it, `cl` being what its caches hold dirty: the clean copies of its lines renewed, or
gone (R243). -/
def renewCopies (s : State) (n : Nat) (m : Maint) (cl : Cluster) : State :=
  if m.op = 2#2 then
    s.setCluster n { cl with copies := cl.copies.map (fun x => if m.hasLine x.1 then (x.1, memNat s.mem (64 * x.1) 64) else x),
                             cpp := cl.cpp.map (fun x => if m.hasLine x.1 then (x.1, readsPoison s (64 * x.1)) else x) }
  else dropFilled (s.setCluster n { cl with copies := cl.copies.filter (fun x => !m.hasLine x.1),
                                            cpp := cl.cpp.filter (fun x => !m.hasLine x.1) })
    (fun f => f.cluster == n && m.hasLine f.line)

theorem renewCopies_frame (s : State) (n : Nat) (m : Maint) (cl : Cluster) :
    MemorySideDiffers s (renewCopies s n m cl) ∧ (renewCopies s n m cl).mem = s.mem := by
  unfold renewCopies
  split <;> exact ⟨rfl, rfl⟩

/-- Maintenance within the cluster leaves memory alone. -/
theorem maintain_cluster {s : State} {fe : FeId} {m : Maint} (h : m.scope = 1#2) :
    MemorySideDiffers s (maintain s fe m) ∧ (maintain s fe m).mem = s.mem := by
  rw [maintain, if_pos h]
  exact ⟨rfl, rfl⟩

/-- Maintenance beyond the cluster writes back what it does not throw away. -/
theorem maintain_beyond {s : State} {fe : FeId} {m : Maint} (h : m.scope ≠ 1#2) :
    maintain s fe m = renewCopies (if m.discards then s else writeBack s (clusterOf fe) (m.written (s.cluster (clusterOf fe)))
        (((s.cluster (clusterOf fe)).maintL1 m m.discards).ccp.filter (fun x => m.hasLine x.1)))
      (clusterOf fe) m (m.leaves (s.cluster (clusterOf fe))) := by
  rw [maintain, if_neg h]
  cases hd : m.discards with
  | true =>
    simp only [show (m.op == 1#2 && m.cls == 0#2) = true from hd, if_true, Maint.leaves, hd]
    rfl
  | false =>
    simp only [show (m.op == 1#2 && m.cls == 0#2) = false from hd, Bool.false_eq_true, if_false, Maint.leaves, Maint.written, hd]
    rfl

theorem maintain_memorySide (s : State) (fe : FeId) (m : Maint) : MemorySideDiffers s (maintain s fe m) := by
  by_cases h : m.scope = 1#2
  · exact (maintain_cluster h).1
  · rw [maintain_beyond h]
    refine MemorySideDiffers.trans ?_ (renewCopies_frame ..).1
    split
    · exact .refl s
    · exact (memorySideDiffers_mem s _).trans (marksDiffer_writeBack ..).memorySide

theorem maintain_mem {s : State} {fe : FeId} {m : Maint} (h : m.scope ≠ 1#2) : (maintain s fe m).mem =
    if m.discards then s.mem else (m.written (s.cluster (clusterOf fe))).foldl (fun l x => memWrite l x.1 x.2) s.mem := by
  rw [maintain_beyond h, (renewCopies_frame ..).2]
  split
  · rfl
  · rw [(marksDiffer_writeBack ..).mem]

/-- Maintenance changes no byte of memory outside its range. -/
theorem maintain_outside (s : State) (fe : FeId) (m : Maint) {a : Nat} (ha : ¬ (m.key ≤ a ∧ a < m.key + m.len)) :
    memRead (maintain s fe m).mem a = memRead s.mem a := by
  by_cases h : m.scope = 1#2
  · rw [(maintain_cluster h).2]
  · rw [maintain_mem h]
    split
    · rfl
    · refine memRead_foldl_memWrite_other fun b hb e => ha ?_
      rw [← e]
      exact of_decide_eq_true (List.mem_filter.mp hb).2

/-! ### Rising keys -/

/-- A map with rising keys holds an entry exactly where it reads back. -/
theorem pget_eq_some_of_mem {α : Type} {l : List (Nat × α)} (h : l.Pairwise (fun x y => x.1 < y.1)) {b : Nat × α} (hb : b ∈ l) :
    pget l b.1 = some b.2 := by
  induction l with
  | nil => cases hb
  | cons c t ih =>
    obtain ⟨hc, ht⟩ := List.pairwise_cons.mp h
    rcases List.mem_cons.mp hb with rfl | hb
    · exact if_pos rfl
    · exact (if_neg (Nat.ne_of_gt (hc b hb))).trans (ih ht hb)

theorem mem_of_pget {α : Type} {l : List (Nat × α)} {a : Nat} {v : α} (h : pget l a = some v) : (a, v) ∈ l := by
  induction l with
  | nil => cases h
  | cons c t ih =>
    obtain ⟨k, x⟩ := c
    rw [pget] at h
    split at h
    next e => cases h; subst e; exact List.mem_cons_self ..
    next => exact List.mem_cons_of_mem _ (ih h)

theorem nodup_keys_of_rising {α : Type} {l : List (Nat × α)} (h : l.Pairwise (fun x y => x.1 < y.1)) : (l.map (·.1)).Nodup :=
  List.pairwise_map.mpr (h.imp fun hlt => Nat.ne_of_lt hlt)

theorem rising_foldl_pset {d l : List Host.Cell} (h : l.Pairwise (fun x y => x.1 < y.1)) :
    (d.foldl (fun m x => pset m x.1 x.2) l).Pairwise (fun x y => x.1 < y.1) :=
  List.foldlRecOn (motive := fun m : List Host.Cell => m.Pairwise (fun x y => x.1 < y.1)) d _ h fun _ hm _ _ => pairwise_pset hm

/-- Memory after writes of rising keys reads what was written, and elsewhere as before. -/
theorem memRead_foldl_memWrite {d : List Host.Cell} (hd : d.Pairwise (fun x y => x.1 < y.1)) (m : List Host.Cell) (a : Nat) :
    memRead (d.foldl (fun l x => memWrite l x.1 x.2) m) a = (pget d a).getD (memRead m a) := by
  cases h : pget d a with
  | none =>
    refine memRead_foldl_memWrite_other fun b hb e => ?_
    rw [← e, pget_eq_some_of_mem hd hb] at h
    cases h
  | some v => exact memRead_foldl_memWrite_mem (nodup_keys_of_rising hd) (mem_of_pget h)

/-- A map after writes of rising keys reads what was written, and elsewhere as before. -/
theorem pget_foldl_pset {α : Type} {d : List (Nat × α)} (hd : d.Pairwise (fun x y => x.1 < y.1)) (l : List (Nat × α)) (a : Nat) :
    pget (d.foldl (fun m x => pset m x.1 x.2) l) a = (pget d a).orElse (fun _ => pget l a) := by
  cases h : pget d a with
  | none =>
    refine pget_foldl_pset_other fun b hb e => ?_
    rw [← e, pget_eq_some_of_mem hd hb] at h
    cases h
  | some v => exact pget_foldl_pset_mem (nodup_keys_of_rising hd) (mem_of_pget h)

theorem pget_filter {α : Type} {l : List (Nat × α)} {q : Nat × α → Bool} {a : Nat} (hq : ∀ v, q (a, v) = true) :
    pget (l.filter q) a = pget l a := by
  induction l with
  | nil => rfl
  | cons c t ih =>
    obtain ⟨k, x⟩ := c
    rw [List.filter_cons]
    split
    · rw [pget, pget, ih]
    next hne =>
      have hk : a ≠ k := by
        rintro rfl
        exact hne (hq x)
      rw [ih, pget, if_neg hk]

/-- Maintenance beyond the cluster that keeps dirty bytes writes those of its range: the L1s' before the cluster cache's (R243). -/
theorem maintain_inside {s : State} {fe : FeId} {m : Maint} (h : m.scope ≠ 1#2) (hd : ¬ (m.op = 1#2 ∧ m.cls = 0#2))
    (hl1 : (s.cluster (clusterOf fe)).l1d.Pairwise (fun x y => x.1 < y.1))
    (hcc : (s.cluster (clusterOf fe)).ccd.Pairwise (fun x y => x.1 < y.1)) {a : Nat} (hlo : m.key ≤ a) (hhi : a < m.key + m.len) :
    memRead (maintain s fe m).mem a = ((pget (s.cluster (clusterOf fe)).l1d a).orElse
      (fun _ => pget (s.cluster (clusterOf fe)).ccd a)).getD (memRead s.mem a) := by
  have hkeep : m.discards = false := by simpa [Maint.discards] using hd
  have hin : ∀ v, inRange m.key m.len (a, v) = true := fun v => decide_eq_true ⟨hlo, hhi⟩
  have hccd : ((s.cluster (clusterOf fe)).maintL1 m false).ccd = ((s.cluster (clusterOf fe)).l1d.filter (inRange m.key m.len)).foldl
      (fun l x => pset l x.1 x.2) (s.cluster (clusterOf fe)).ccd := rfl
  rw [maintain_mem h, hkeep, if_neg Bool.false_ne_true, Maint.written, hkeep, hccd,
    memRead_foldl_memWrite ((rising_foldl_pset hcc).filter _), pget_filter hin, pget_foldl_pset (hl1.filter _), pget_filter hin]

end Sys2Proof.Machine
end

section
/-! SUPPORT. The events of memory: data that arrive, atomics, stores and maintenance that perform, the Spout and the scale queue
(08_memory R239 to R248, 09_ordering R252 to R263): O40. -/
namespace Sys2Proof.Machine

/-! ### What an event leaves of the contexts -/

/-- The pending ops, the registers, the stores and the wait of front end `fe` are as before, and so is every other context. -/
structure FrontKeeps (fe : FeId) (s t : State) : Prop where
  pend : (t.ctx fe).pend = (s.ctx fe).pend
  regs : (t.ctx fe).regs = (s.ctx fe).regs
  stq : (t.ctx fe).stq = (s.ctx fe).stq
  frz : (t.ctx fe).frz = (s.ctx fe).frz
  others : ∀ g, g ≠ fe → t.ctx g = s.ctx g

theorem FrontKeeps.refl (fe : FeId) (s : State) : FrontKeeps fe s s := ⟨rfl, rfl, rfl, rfl, fun _ _ => rfl⟩
theorem FrontKeeps.trans {fe : FeId} {s t u : State} (h : FrontKeeps fe s t) (h' : FrontKeeps fe t u) : FrontKeeps fe s u :=
  ⟨h'.pend.trans h.pend, h'.regs.trans h.regs, h'.stq.trans h.stq, h'.frz.trans h.frz,
    fun g hg => (h'.others g hg).trans (h.others g hg)⟩
theorem FrontKeeps.of_ctxs {fe : FeId} {s t : State} (h : t.ctxs = s.ctxs) : FrontKeeps fe s t := by
  have hctx := State.ctx_of_ctxs h
  exact ⟨by rw [hctx], by rw [hctx], by rw [hctx], by rw [hctx], fun g _ => hctx g⟩
/-- A change of what is ordered before a context's accesses is no other change of the contexts. -/
theorem frontKeeps_ord (fe : FeId) (s : State) {f : Ctx → Ctx} (h : ∀ c, ∃ o, f c = { c with ord := o }) :
    FrontKeeps fe s (s.modCtx fe f) := by
  obtain ⟨o, ho⟩ := h (s.ctx fe)
  refine ⟨?_, ?_, ?_, ?_, fun _ hg => s.ctx_modCtx_other _ hg⟩ <;> rw [State.ctx_modCtx_same, ho]

theorem frontKeeps_noteRead (fe : FeId) (s : State) (u : XUnit) (strong : Bool) (scope : BitVec 2) (seq : Nat) (ps : List Piece) :
    FrontKeeps fe s (noteRead s fe u strong scope seq ps) := by
  unfold noteRead
  generalize (if strong then some scope else none) = st
  dsimp only
  split
  · exact .refl fe s
  · exact frontKeeps_ord fe s fun _ => ⟨_, rfl⟩

/-- A result that became known relative to a state whose context is that of another is known relative to the other. -/
theorem resultKnown_of_frontKeeps {s t u : State} {fe : FeId} {seq : Nat} {w : List RegW} (h : FrontKeeps fe s t)
    (h' : ResultKnown t u fe seq w) : ResultKnown s u fe seq w := by
  obtain ⟨hpend, hregs, hstq, hothers⟩ := h'
  exact ⟨by rw [hpend, h.pend], hregs.trans h.regs, hstq.trans h.stq, fun g hg => (hothers g hg).trans (h.others g hg)⟩

/-- A context whose pending op `p` has the result `w`, in its landing record too (R53, R356). -/
def Ctx.withResult (c : Ctx) (p : Pend) (w : List RegW) : Ctx :=
  if p.recorded then (c.updatePend p.seq (fun q => { q with kind := .done w })).setRes p.seq w
  else c.updatePend p.seq (fun q => { q with kind := .done w })

theorem Ctx.withResult_frame (c : Ctx) (p : Pend) (w : List RegW) :
    (c.withResult p w).pend = c.pend.map (fun q => if q.seq = p.seq then { q with kind := .done w } else q) ∧
    (c.withResult p w).regs = c.regs ∧ (c.withResult p w).stq = c.stq ∧ (c.withResult p w).frz = c.frz := by
  unfold Ctx.withResult
  split <;> exact ⟨rfl, rfl, rfl, rfl⟩

/-- Data that arrive for a context that does not wait at a landing give the op its result (R53, R356). -/
theorem arrive_ok {s : State} {fe : FeId} {p : Pend} {w : List RegW} (h : (s.ctx fe).frz ≠ .load) :
    arrive s fe p (.ok w) = s.modCtx fe (fun c => c.withResult p w) := by
  refine if_neg ?_
  change ((s.modCtx fe (fun c => c.withResult p w)).ctx fe).frz ≠ .load
  rw [State.ctx_modCtx_same, (Ctx.withResult_frame ..).2.2.2]
  exact h

theorem resultKnown_withResult (s : State) (fe : FeId) (p : Pend) (w : List RegW) :
    ResultKnown s (s.modCtx fe (fun c => c.withResult p w)) fe p.seq w := by
  obtain ⟨hpend, hregs, hstq, -⟩ := (s.ctx fe).withResult_frame p w
  refine ⟨?_, ?_, ?_, fun g hg => s.ctx_modCtx_other _ hg⟩ <;> rw [State.ctx_modCtx_same]
  · exact hpend
  · exact hregs
  · exact hstq

/-! ### Loads (R229, R235, R254, R263) -/

/-- The data of a load that may read arrive: it brings its lines in, and its result is known. -/
theorem exec_loadDataArrival {s : State} {fe : FeId} {idx : BitVec 6} {p : Pend} {r : LoadReq} {dat : ReadData} {w : List RegW}
    (hp : (s.ctx fe).pend[idx.toNat]? = some p) (hout : p.outstanding = true) (hbound : isBound (s.ctx fe) = true)
    (hfrz : (s.ctx fe).frz ≠ .load) (hkind : p.kind = .load r) (hmay : mayRead s fe p.seq r.strong r.pieces = true)
    (hread : readMem s fe .core r.strong r.scope (if r.cistern then spCistern else spLoad) (s.ctx fe).ownStores p.seq r.pieces = .ok dat)
    (hw : loadWrites r.dst dat = .ok w) :
    exec (.loadDataArrival fe idx) s = .next ((touchPieces (noteRead s fe .core r.strong r.scope p.seq r.pieces) fe .core
      r.pieces).modCtx fe (fun c => c.withResult p w)) := by
  have hkeeps := (readKeeps_noteRead fe s .core r.strong r.scope p.seq r.pieces).trans (readKeeps_touchPieces fe _ .core r.pieces)
  change execLoadDataArrival fe idx s = _
  simp only [execLoadDataArrival, hp, hkind, hout, hbound, hmay, hread, hw]
  rw [← arrive_ok (by rw [hkeeps.frz]; exact hfrz)]
  rfl

/-- Where no page is guarded, a load leaves the registers and memory (R263). -/
theorem loadTouch_unguarded {s : State} {fe : FeId} (strong : Bool) (scope : BitVec 2) (seq : Nat) (ps : List Piece)
    (h : ∀ l ∈ unitLeaves s fe .core, l.guard = false) :
    ((touchPieces (noteRead s fe .core strong scope seq ps) fe .core ps).ctx fe).regs = (s.ctx fe).regs ∧
      SameMemory s (touchPieces (noteRead s fe .core strong scope seq ps) fe .core ps) := by
  have hcores := (readKeeps_noteRead fe s .core strong scope seq ps).cores
  obtain ⟨x, hx⟩ := touchPieces_unguarded ps (unitLeaves_of_cores hcores fe .core ▸ h)
  rw [hx]
  refine ⟨(frontKeeps_noteRead fe s .core strong scope seq ps).regs, fun a => ?_⟩
  exact congrArg (memRead · a) noteRead_mem

/-! ### Atomics (R239, R254, R259, R260) -/

/-- The place of an atomic in the order of its context: what its read finds, and what its write carries. -/
def amoOrdered (s : State) (fe : FeId) (r : AmoReq) (place : Option Nat) (unit : Nat) : State :=
  amoRelease (amoAcquire s fe r place unit) fe r

/-- What is ordered before the accesses of `fe` may change, and nothing else of the contexts, the caches and memory. -/
structure OrderMoves (fe : FeId) (s t : State) : Prop where
  front : FrontKeeps fe s t
  mem : t.mem = s.mem
  clusters : t.clusters = s.clusters
  hw : t.hw = s.hw

theorem OrderMoves.refl (fe : FeId) (s : State) : OrderMoves fe s s := ⟨.refl fe s, rfl, rfl, rfl⟩
theorem OrderMoves.trans {fe : FeId} {s t u : State} (h : OrderMoves fe s t) (h' : OrderMoves fe t u) : OrderMoves fe s u :=
  ⟨h.front.trans h'.front, h'.mem.trans h.mem, h'.clusters.trans h.clusters, h'.hw.trans h.hw⟩
theorem orderMoves_ord (fe : FeId) (s : State) {f : Ctx → Ctx} (h : ∀ c, ∃ o, f c = { c with ord := o }) :
    OrderMoves fe s (s.modCtx fe f) := ⟨frontKeeps_ord fe s h, rfl, rfl, rfl⟩

theorem orderMoves_amoOrdered (s : State) (fe : FeId) (r : AmoReq) (place : Option Nat) (unit : Nat) :
    OrderMoves fe s (amoOrdered s fe r place unit) := by
  have hstrong : OrderMoves fe s (noteStrong s fe r.scope place unit) := by
    unfold noteStrong
    split
    · exact .refl fe s
    · exact orderMoves_ord fe s fun _ => ⟨_, rfl⟩
  have hacquire : OrderMoves fe s (amoAcquire s fe r place unit) := by
    unfold amoAcquire
    refine hstrong.trans (orderMoves_ord fe _ fun c => ?_)
    split
    · split
      · exact ⟨_, rfl⟩
      · exact ⟨c.ord, rfl⟩
    · exact ⟨c.ord, rfl⟩
  unfold amoOrdered amoRelease
  split
  · exact hacquire.trans (orderMoves_ord fe _ fun _ => ⟨_, rfl⟩)
  · exact hacquire

/-- The store that the write of an atomic makes of the value v at a key (R230, R239, R321). -/
def amoStore (p : Pend) (r : AmoReq) (l : Leaf) (k : Nat) (poison : Bool) (v : Nat) : StoreEnt :=
  ⟨p.seq, r.ea, (((natBytes v (amoBytes r.sz)).zipIdx).map (fun b => (k + b.2, b.1))).filter (fun b => !l.crcByte b.1),
    if poison then [k / 64] else [], r.b.band, true, r.scope, l.cls, false, r.ea, false⟩

/-- What an atomic's write leaves: the value stored, if the function stores one. -/
def amoWritten (s : State) (fe : FeId) (p : Pend) (r : AmoReq) (l : Leaf) (k : Nat) (poison : Bool) : Option Nat → State
  | none => s
  | some v => performStore s fe (amoStore p r l k poison v)

/-- An atomic without a fault, whose function raises no audit, reads, writes and returns the old value (R239). -/
theorem exec_amoResultReturn {s : State} {fe : FeId} {idx : BitVec 6} {p : Pend} {r : AmoReq} {l : Leaf} {k old : Nat} {nv : Option Nat}
    (hp : (s.ctx fe).pend[idx.toNat]? = some p) (hout : p.outstanding = true) (hbound : isBound (s.ctx fe) = true)
    (hkind : p.kind = .amo r) (hmay : amoMayPerform s fe p r.rel = true) (hx : translate s fe .core r.ea = .ok l)
    (hk : l.keyOf r.ea = k) (hfault : amoFault l r = none) (hmedia : mediaFault s fe l r.ea = none) (hstall : stalledRead s k = false)
    (hold : bytesNat (leafBytes s fe l k (amoBytes r.sz)) = old)
    (hnew : amoNew r.fn (8 * amoBytes r.sz) old r.b.val.toNat r.c.val.toNat = (nv, false)) :
    exec (.amoResultReturn fe idx) s = .next (arrive (amoWritten (amoOrdered (fillLine s fe l k) fe r (l.place fe) (k / 8)) fe p r l k
      (leafPoison s fe l k || r.b.poison || (r.fn == 9#4 && r.c.poison)) nv) fe p
        (.ok [.s r.d ⟨BitVec.ofNat 64 old, l.band, leafPoison s fe l k⟩])) := by
  subst hk
  change execAmoResultReturn fe idx s = _
  simp only [execAmoResultReturn, hp, hkind, hout, hbound, hmay, hx, hfault, hmedia, hstall, hold, hnew]
  cases nv <;> rfl

/-- The bytes that an atomic's store writes, in the order of their keys. -/
theorem amoStore_data (p : Pend) (r : AmoReq) (l : Leaf) (k : Nat) (poison : Bool) (v : Nat) : (amoStore p r l k poison v).data =
    ((List.range (amoBytes r.sz)).map (fun j => (k + j, BitVec.ofNat 8 (v / 256 ^ j)))).filter (fun b => !l.crcByte b.1) := by
  have hpow (j : Nat) : 2 ^ (8 * j) = 256 ^ j := pow_mul 2 8 j
  simp only [amoStore, natBytes_eq_map, zipIdx_map_range, hpow]

theorem amoStore_keys_nodup (p : Pend) (r : AmoReq) (l : Leaf) (k : Nat) (poison : Bool) (v : Nat) :
    ((amoStore p r l k poison v).data.map (·.1)).Nodup := by
  rw [amoStore_data]
  refine List.Nodup.sublist (List.filter_sublist.map _) ?_
  rw [List.map_map]
  exact List.nodup_range.map fun i j h => Nat.add_left_cancel h

theorem mem_amoStore_data {p : Pend} {r : AmoReq} {l : Leaf} {k : Nat} {poison : Bool} {v : Nat} {b : Nat × Byte} :
    b ∈ (amoStore p r l k poison v).data ↔
      ∃ j, j < amoBytes r.sz ∧ l.crcByte (k + j) = false ∧ b = (k + j, BitVec.ofNat 8 (v / 256 ^ j)) := by
  rw [amoStore_data]
  constructor
  · intro hb
    obtain ⟨hmem, hcrc⟩ := List.mem_filter.mp hb
    obtain ⟨j, hj, rfl⟩ := List.mem_map.mp hmem
    exact ⟨j, List.mem_range.mp hj, by simpa using hcrc, rfl⟩
  · rintro ⟨j, hj, hcrc, rfl⟩
    exact List.mem_filter.mpr ⟨List.mem_map.mpr ⟨j, List.mem_range.mpr hj, rfl⟩, by simpa using hcrc⟩

theorem leafBytes_eq (s : State) (fe : FeId) (l : Leaf) (k n : Nat) :
    leafBytes s fe l k n = (List.range n).map (fun j => leafByte s fe l (k + j)) := by
  induction n generalizing k with
  | zero => rfl
  | succ n ih =>
    rw [leafBytes, ih, List.range_succ_eq_map, List.map_cons, List.map_map, Nat.add_zero]
    refine congrArg _ (List.map_congr_left fun j _ => ?_)
    rw [Function.comp_apply, Nat.succ_eq_add_one, Nat.add_right_comm, Nat.add_assoc]

/-- Through a leaf of a page that is not guarded, a front end sees what its cluster sees (R218, R321). -/
theorem leafByte_unguarded {s : State} {fe : FeId} {l : Leaf} {k : Nat} (h : l.guard = false) :
    leafByte s fe l k = seenAt s fe l.cls k := by
  have hcrc : l.crcByte k = false := by rw [Leaf.crcByte, h]; rfl
  have herr : mediaErr s l.guard (k / 64) = none := by rw [mediaErr, h]; rfl
  have hbyte : mediaByte s l k = memRead s.mem k := by rw [mediaByte, herr]; rfl
  rw [leafByte, hcrc, hbyte]
  rfl

/-- The number whose digits are the bytes that a front end sees is what an atomic reads (R3, R239). -/
theorem bytesNat_leafBytes {s : State} {fe : FeId} {l : Leaf} {k n old : Nat} (hlt : old < 256 ^ n)
    (hdigits : ∀ j, j < n → BitVec.ofNat 8 (old / 256 ^ j) = leafByte s fe l (k + j)) : bytesNat (leafBytes s fe l k n) = old := by
  have hpow (j : Nat) : 2 ^ (8 * j) = 256 ^ j := pow_mul 2 8 j
  have hlist : leafBytes s fe l k n = natBytes old n := by
    simp only [leafBytes_eq, natBytes_eq_map, hpow]
    exact List.map_congr_left fun j hj => (hdigits j (List.mem_range.mp hj)).symm
  rw [hlist, bytesNat_natBytes, Nat.mod_eq_of_lt hlt]

/-- What an atomic's write leaves: the bytes of the value where the cluster sees them, memory as before outside them, and every
context as it was (R218, R239). -/
structure AmoWrites (s t : State) (fe : FeId) (l : Leaf) (k n : Nat) (nv : Option Nat) : Prop where
  side : MemorySideDiffers s t
  still : nv = none → t = s
  seen : ∀ x, nv = some x → ∀ j, j < n → l.crcByte (k + j) = false → seenAt t fe l.cls (k + j) = BitVec.ofNat 8 (x / 256 ^ j)
  others : ∀ a, (a < k ∨ k + n ≤ a) → memRead t.mem a = memRead s.mem a

theorem amoWrites_amoWritten {s : State} {fe : FeId} {p : Pend} {r : AmoReq} {l : Leaf} {k : Nat} (poison : Bool) (nv : Option Nat)
    (hpool : ∀ j, j < amoBytes r.sz → (poolKey (k + j) && poolDead s) = false) :
    AmoWrites s (amoWritten s fe p r l k poison nv) fe l k (amoBytes r.sz) nv := by
  cases nv with
  | none => exact ⟨.refl s, fun _ => rfl, fun _ h => (by cases h), fun _ _ => rfl⟩
  | some v =>
    have hperf : Performs s (performStore s fe (amoStore p r l k poison v)) fe l.cls (amoStore p r l k poison v).data := by
      refine performs_performStoreAs (amoStore_keys_nodup ..) fun b hb => ?_
      obtain ⟨j, hj, -, rfl⟩ := mem_amoStore_data.mp hb
      exact hpool j hj
    refine ⟨hperf.side, fun h => (by cases h), fun x hx j hj hcrc => ?_, fun a ha => hperf.others a fun b hb => ?_⟩
    · cases hx
      exact hperf.seen (k + j, _) (mem_amoStore_data.mpr ⟨j, hj, hcrc, rfl⟩)
    · obtain ⟨j, hj, -, rfl⟩ := mem_amoStore_data.mp hb
      dsimp only
      omega

/-- The write of an atomic and its result: the result known, the contexts otherwise as the fill left them, the bytes where the
cluster sees them (R239, R356). -/
theorem amo_performs {s s1 t1 : State} {fe : FeId} {p : Pend} {r : AmoReq} {l : Leaf} {k : Nat} {nv : Option Nat} {poison : Bool}
    (w : List RegW) (hs1 : amoOrdered (fillLine s fe l k) fe r (l.place fe) (k / 8) = s1)
    (ht1 : amoWritten s1 fe p r l k poison nv = t1) (hfrz : (s.ctx fe).frz ≠ .load)
    (hpool : ∀ j, j < amoBytes r.sz → (poolKey (k + j) && poolDead s) = false) :
    arrive t1 fe p (.ok w) = t1.modCtx fe (fun c => c.withResult p w) ∧
    ResultKnown (fillLine s fe l k) (t1.modCtx fe (fun c => c.withResult p w)) fe p.seq w ∧
    AmoWrites s1 t1 fe l k (amoBytes r.sz) nv ∧ s1.mem = (fillLine s fe l k).mem := by
  have hfill := readKeeps_fillLine fe s l k
  have hord : OrderMoves fe (fillLine s fe l k) s1 := hs1 ▸ orderMoves_amoOrdered ..
  have hdead : poolDead s1 = poolDead s := by rw [poolDead, hord.hw, hfill.heads, poolDead]
  have hwrites : AmoWrites s1 t1 fe l k (amoBytes r.sz) nv := ht1 ▸ amoWrites_amoWritten poison nv (hdead ▸ hpool)
  have hfront : FrontKeeps fe (fillLine s fe l k) t1 := hord.front.trans (.of_ctxs hwrites.side.ctxs)
  refine ⟨arrive_ok ?_, resultKnown_of_frontKeeps hfront (resultKnown_withResult t1 fe p w), hwrites, hord.mem⟩
  rw [hfront.frz, hfill.frz]
  exact hfrz

/-! ### Stores and maintenance (R232, R243, R255) -/

/-- A store of the store buffer that may perform, reaches no lost host and meets no tag error performs and leaves the buffer (R217,
R255, R423). -/
theorem exec_storePerform {s : State} {fe : FeId} {idx : BitVec 8} {e : StoreEnt} (he : (s.ctx fe).stq.sb[idx.toNat]? = some e)
    (hstale : e.stale = false) (hmay : storeMayPerform s fe idx.toNat e = true) (hd : (e.data.map (·.1)).Nodup)
    (hfree : ∀ b ∈ e.data, stalled s b.1 = false ∧ hostGone s b.1 = false ∧ (poolKey b.1 && poolDead s) = false)
    (htags : ∀ x ∈ e.lines, x ∉ (s.cluster (clusterOf fe)).badTags) :
    exec (.storePerform fe idx) s
      = .next ((performStoreAs s fe (agentCtx fe) (s.ctx fe).ord.rel e).modSb fe (fun l => ldel l idx.toNat)) := by
  have hperf := performs_performStoreAs (fe := fe) (agent := agentCtx fe) (rel := (s.ctx fe).ord.rel) hd fun b hb => (hfree b hb).2.2
  have hstall : e.data.any (fun b => stalled s b.1) = false :=
    List.any_eq_false.mpr fun b hb => ne_true_of_eq_false (hfree b hb).1
  have hpark : performOrPark s fe (agentCtx fe) (s.ctx fe).ord.rel e = performStoreAs s fe (agentCtx fe) (s.ctx fe).ord.rel e := by
    unfold performOrPark
    cases hdata : e.data with
    | nil => rfl
    | cons b t =>
      have hgone : hostGone s b.1 = false := (hfree b (by rw [hdata]; exact List.mem_cons_self ..)).2.1
      simp only [List.head?_cons, Option.map_some, Option.getD_some, hgone]
      split <;> rfl
  have htag (t : State) (ht : (t.cluster (clusterOf fe)).badTags = (s.cluster (clusterOf fe)).badTags) : tagFault t fe e = t := by
    have hnone : e.lines.find? (fun l => (t.cluster (clusterOf fe)).badTags.contains l) = none := by
      rw [ht]
      simpa using htags
    simp only [tagFault, hnone]
  change execStorePerform fe idx s = _
  simp only [execStorePerform, he, hstale, hmay, hstall, hpark]
  exact congrArg _ (htag _ hperf.tags)

/-- A maintenance op that may complete leaves its queue with its work done (R243, R263). -/
theorem exec_cacheMaintenanceComplete {s : State} {fe : FeId} {idx : BitVec 6} {m : Maint} (hm : (s.ctx fe).stq.maint[idx.toNat]? = some m)
    (hstale : m.stale = false) (hmay : maintMay s fe idx.toNat m = true) :
    exec (.cacheMaintenanceComplete fe idx) s = .next ((maintain s fe m).modMaint fe (fun l => ldel l idx.toNat)) := by
  change execCacheMaintenanceComplete fe idx s = _
  simp only [execCacheMaintenanceComplete, hm, hstale, hmay]
  rfl

/-! ### The Spout and the scale queue (R245, R248) -/

/-- Where no page is guarded, the Spout's read leaves the registers and memory (R263, R321). -/
theorem spoutFill_unguarded {s : State} {fe : FeId} {st : Stream} (h : ∀ l ∈ unitLeaves s fe .core, l.guard = false) :
    SameMemory s (spoutFill s fe st) ∧ ((spoutFill s fe st).ctx fe).regs = (s.ctx fe).regs := by
  have hread := frontKeeps_noteRead fe s .core (descStrong st.desc) (descScope st.desc) (s.ctx fe).nextSeq (spoutPieces s fe st)
  have hcores := (readKeeps_noteRead fe s .core (descStrong st.desc) (descScope st.desc) (s.ctx fe).nextSeq (spoutPieces s fe st)).cores
  have hfill : spoutFill s fe st = noteRead s fe .core (descStrong st.desc) (descScope st.desc) (s.ctx fe).nextSeq (spoutPieces s fe st) := by
    refine List.foldlRecOn (motive := fun t => t = _) (spoutPieces s fe st) _ rfl fun t ht p _ => ?_
    subst ht
    split
    next l hl => exact fillLine_unguarded (h l (unitLeaves_of_cores hcores fe .core ▸ mem_of_translate hl))
    · rfl
    · rfl
  rw [hfill]
  exact ⟨fun a => congrArg (memRead · a) noteRead_mem, hread.regs⟩

/-- The Spout makes the next vector of a bound stream ready (R248). -/
theorem exec_spoutRead {s : State} {fe : FeId} {q : BitVec 3} {v : SpoutVec} (hbound : isBound (s.ctx fe) = true)
    (hwant : spoutWanted (s.ctx fe) q = true) (hv : nextVector s fe (vget zeroStream (s.ctx fe).regs.streams q) = .ok v) :
    exec (.spoutRead fe q) s = .next (setReady (spoutFill s fe (vget zeroStream (s.ctx fe).regs.streams q)) fe q v) := by
  change execSpoutRead fe q s = _
  simp only [execSpoutRead, hbound, hwant, hv]
  rfl

/-- The first pair still due stands behind the ready ones. -/
theorem findIdx_due {pairs rest : List ScalePair} {pr : ScalePair} (hready : ∀ x ∈ pairs, x.ready = true) (hdue : pr.ready = false) :
    (pairs ++ pr :: rest).findIdx (fun p => !p.ready) = pairs.length := by
  have hnone : pairs.findIdx (fun p => !p.ready) = pairs.length := List.findIdx_eq_length.mpr fun x hx => by rw [hready x hx]; rfl
  rw [List.findIdx_append, hnone, if_neg (Nat.lt_irrefl _), List.findIdx_cons, hdue]
  exact Nat.zero_add _

/-- Marking the entry behind `pairs` ready changes that entry alone. -/
theorem map_zipIdx_ready (pairs rest : List ScalePair) (pr : ScalePair) :
    (pairs ++ pr :: rest).zipIdx.map (fun p => if p.2 = pairs.length then { p.1 with ready := true } else p.1)
      = pairs ++ { pr with ready := true } :: rest := by
  refine List.ext_getElem (by simp) fun i h _ => ?_
  simp only [List.getElem_map, List.getElem_zipIdx, Nat.zero_add]
  rcases Nat.lt_trichotomy i pairs.length with hi | hi | hi
  · rw [if_neg (Nat.ne_of_lt hi), List.getElem_append_left hi, List.getElem_append_left hi]
  · subst hi
    simp
  · obtain ⟨j, rfl⟩ := Nat.exists_eq_add_of_lt hi
    rw [if_neg (Nat.ne_of_gt hi), List.getElem_append_right (Nat.le_of_lt hi), List.getElem_append_right (Nat.le_of_lt hi)]
    simp [Nat.add_assoc]

/-- LSQ_PAIR_ARRIVAL makes the oldest pair still due poppable (R245). -/
theorem exec_lsqPairArrival {s : State} {fe : FeId} {pairs rest : List ScalePair} {pr : ScalePair} (hbound : isBound (s.ctx fe) = true)
    (hl : (s.ctx fe).eng.mat.scale = pairs ++ pr :: rest) (hready : ∀ x ∈ pairs, x.ready = true) (hdue : pr.ready = false) :
    exec (.lsqPairArrival fe) s = .next (s.modMat fe (fun m => { m with scale := pairs ++ { pr with ready := true } :: rest })) := by
  change execLsqPairArrival fe s = _
  rw [execLsqPairArrival, if_pos hbound]
  simp only [State.modMat, State.modCtx, hl, findIdx_due hready hdue, map_zipIdx_ready]

/-- Settles O40: each event performs by its own equation; what it leaves comes from `ResultKnown`, `Performs`, `AmoWrites` and the laws
of maintenance. -/
theorem memoryEventsPerform : Obligations.MemoryEventsPerform := by
  unfold Obligations.MemoryEventsPerform
  intro s fe idx idx8 q p dat w l nv e m v pairs rest pr c cl
  refine ⟨fun hp hout hbound hfrz => ⟨?load, ?amo⟩, ?store, ?maintenance, fun hbound hwant hv => ⟨exec_spoutRead hbound hwant hv,
    spoutFill_unguarded⟩, exec_lsqPairArrival⟩
  case load =>
    intro r hkind hmay hread hw s0
    exact ⟨_, exec_loadDataArrival hp hout hbound hfrz hkind hmay hread hw, resultKnown_withResult .., fun _ => rfl, fun hguard => by
      obtain ⟨hregs, hmem⟩ := loadTouch_unguarded r.strong r.scope p.seq r.pieces hguard
      refine ⟨?_, hmem⟩
      rw [State.ctx_modCtx_same, (Ctx.withResult_frame ..).2.1]
      exact hregs⟩
  case amo =>
    intro r hkind hmay hx hfault hmedia k s0 n old hlt hdigits hstall hpool hnew
    have hbytes : bytesNat (leafBytes s fe l k n) = old := bytesNat_leafBytes hlt fun j hj => by
      rw [hdigits j hj]
      split_ifs with hcrc hguard
      · rw [leafByte, if_pos hcrc]
      · rfl
      · exact (leafByte_unguarded (by simpa using hguard)).symm
    have hexec := exec_amoResultReturn hp hout hbound hkind hmay hx rfl hfault hmedia hstall hbytes hnew
    obtain ⟨harrive, hknown, hwrites, hmem⟩ := amo_performs (p := p) (nv := nv) [.s r.d ⟨BitVec.ofNat 64 old, l.band, leafPoison s fe l k⟩]
      rfl rfl hfrz hpool
    refine ⟨_, hexec.trans (congrArg _ harrive), hknown, fun hnone a => ?_, hwrites.seen, fun a ha => ?_, fillLine_unguarded⟩
    · rw [State.modCtx_mem, hwrites.still hnone, hmem]
    · rw [State.modCtx_mem, hwrites.others a ha, hmem]
  case store =>
    intro he hstale hmay hd hfree htags
    have hperf := performs_performStoreAs (fe := fe) (agent := agentCtx fe) (rel := c.ord.rel) hd fun b hb => (hfree b hb).2.2
    refine ⟨_, exec_storePerform he hstale hmay hd hfree htags, ?_, hperf.seen, hperf.others⟩
    rw [State.modSb, State.ctx_modCtx_same, hperf.side.ctx]
  case maintenance =>
    intro hm hstale hmay
    refine ⟨_, exec_cacheMaintenanceComplete hm hstale hmay, ?_, fun a => maintain_outside s fe m,
      fun hscope a => congrArg (memRead · a) (maintain_cluster hscope).2,
      fun hscope hkeep hl1 hcc a => maintain_inside hscope hkeep hl1 hcc⟩
    rw [State.modMaint, State.ctx_modCtx_same, (maintain_memorySide s fe m).ctx]

end Sys2Proof.Machine
end

section
/-! SUPPORT. Bias commands and flips, back-invalidation and dynamic capacity (14_host_pool R402 to R408): O50. -/
namespace Sys2Proof.Machine

/-! ### Lines that the caches give up (R402, R405) -/

/-- A line meets [k, k + n). -/
def lineMeets (k n line : Nat) : Bool := decide (k < 64 * line + 64 ∧ 64 * line < k + n)

/-- A cluster that holds no line of [k, k + n), dirty or clean. -/
def Cluster.without (cl : Cluster) (k n : Nat) : Cluster :=
  { cl with l1d := cl.l1d.filter (fun x => !inRange k n x), ccd := cl.ccd.filter (fun x => !inRange k n x),
            l1p := cl.l1p.filter (fun x => !lineMeets k n x.1), ccp := cl.ccp.filter (fun x => !lineMeets k n x.1),
            copies := cl.copies.filter (fun x => !lineMeets k n x.1), cpp := cl.cpp.filter (fun x => !lineMeets k n x.1) }

/-- Giving lines up changes memory, marks and the caches, which no longer hold the lines. -/
theorem flushCaches_frame (s : State) (k n : Nat) : MemorySideDiffers s (flushCaches s k n) ∧
    (flushCaches s k n).clusters = s.clusters.map (fun p => (p.1, p.2.without k n)) := by
  have hmarks (d : List Host.Cell) (p : List (Nat × Bool)) :
      MarksDiffer s (p.foldl putMark (d.foldl (fun s x => mediaWritten s 64 x.1) s)) :=
    .trans (marksDiffer_foldl (f := fun t (x : Host.Cell) => mediaWritten t 64 x.1) (fun t x => marksDiffer_mediaWritten t 64 x.1) d s)
      (marksDiffer_foldl marksDiffer_putMark p _)
  constructor
  · unfold flushCaches
    dsimp only
    exact (hmarks _ _).memorySide.trans rfl
  · exact congrArg (List.map _) (hmarks _ _).clusters

/-- A list of clusters whose caches gave up [k, k + n) holds no line of it. -/
theorem noneCached_without {t : State} {l : List (Nat × Cluster)} {k n : Nat}
    (h : t.clusters = l.map (fun p => (p.1, p.2.without k n))) : NoneCached t k n := by
  intro p hp
  rw [h] at hp
  obtain ⟨q, -, rfl⟩ := List.mem_map.mp hp
  refine ⟨fun x hx => ?_, fun x hx hmeet => ?_⟩
  · rcases List.mem_append.mp hx with hx | hx <;> simpa using (List.mem_filter.mp hx).2
  · have hfree : lineMeets k n x.1 = false := by simpa using (List.mem_filter.mp hx).2
    exact of_decide_eq_false hfree ⟨by omega, hmeet.2⟩

/-- Caches that give up more lines still hold none of those that they gave up before. -/
theorem noneCached_of_without {s t : State} {k n k' n' : Nat} (h : NoneCached s k n)
    (ht : t.clusters = s.clusters.map (fun p => (p.1, p.2.without k' n'))) : NoneCached t k n := by
  intro p hp
  rw [ht] at hp
  obtain ⟨q, hq, rfl⟩ := List.mem_map.mp hp
  obtain ⟨hdirty, hcopies⟩ := h q hq
  refine ⟨fun x hx => hdirty x ?_, fun x hx => hcopies x (List.mem_filter.mp hx).1⟩
  rcases List.mem_append.mp hx with hx | hx
  · exact List.mem_append_left _ (List.mem_filter.mp hx).1
  · exact List.mem_append_right _ (List.mem_filter.mp hx).1

/-- POOL_BACK_INVALIDATE of a BI line gives it up and answers with its data (R405). -/
theorem exec_poolBackInvalidate {s : State} {addr : Word} {g : Region} {k : Nat} (hk : addr.toNat / 64 * 64 = k)
    (hg : regionOf s 0#2 k = some g) (hpool : poolKey k = true) (hbi : g.attr.extractLsb' 4 2 = 1#2) :
    exec (.poolBackInvalidate addr) s
      = .next ((flushCaches s k 64).emit (.poolAnswer addr (memReads (flushCaches s k 64).mem k 64))) := by
  change execPoolBackInvalidate addr s = _
  simp only [execPoolBackInvalidate, hk, hg, hpool, hbi]
  rfl

/-! ### Bias commands (R404) -/

theorem vset_vset {α : Type} {n w : Nat} (v : Vector α n) (i : BitVec w) (x y : α) : vset (vset v i x) i y = vset v i y :=
  Vector.ext fun j hj => by simp only [vset, Vector.getElem_setIfInBounds]; split <;> rfl

theorem linkOf_setLink {s : State} {blk : BitVec 2} (h : blk ≠ 3#2) (l : HostLink) : linkOf (setLink s blk l) blk = l := by
  refine vget_vset_same ?_
  revert blk
  decide

theorem setLink_setLink (s : State) (blk : BitVec 2) (l l' : HostLink) : setLink (setLink s blk l) blk l' = setLink s blk l' := by
  simp only [setLink, vset_vset]

/-- The record of a bias command that has just begun (R404). -/
def HostLink.begun (l : HostLink) (dir : Bool) : HostLink :=
  { l with bdir := dir, brdir := dir, btot := l.bcnt, bbusy := true, bdone := 0#16, bnext := l.bpage.extractLsb' 12 40, bwait := 0 }

theorem biasGo_refused {s : State} {blk : BitVec 2} (dir : Bool) (hblk : blk ≠ 3#2) (h : biasRefused s blk = true) :
    biasGo s blk dir = setLink s blk { linkOf s blk with berr := true } := by
  rw [biasGo, if_neg hblk, if_pos h]

/-- A command that is not refused goes through its pages from the first on. -/
theorem biasGo_begins {s : State} {blk : BitVec 2} (dir : Bool) (hblk : blk ≠ 3#2) (h : biasRefused s blk = false) :
    biasGo s blk dir = biasRun (setLink s blk ((linkOf s blk).begun dir)) blk (linkOf s blk).bcnt.toNat := by
  rw [biasGo, if_neg hblk, if_neg (ne_true_of_eq_false h)]
  rfl

/-- A command that is not refused names at least one page (R404). -/
theorem bcnt_ne_zero {s : State} {blk : BitVec 2} (h : biasRefused s blk = false) : (linkOf s blk).bcnt.toNat ≠ 0 := by
  simp only [biasRefused, Bool.or_eq_false_iff] at h
  obtain ⟨⟨-, hcnt⟩, -⟩ := h
  exact fun hzero => beq_eq_false_iff_ne.mp hcnt (BitVec.eq_of_toNat_eq hzero)

/-- A page in the other state begins its flip, and the command waits for it (R403, R404). -/
theorem biasRun_flips {s : State} {blk : BitVec 2} {l : HostLink} {n : Nat} (hl : linkOf s blk = l) (hpage : l.bnext.toNat < 0x6000000)
    (hsrc : biasOf s l.bnext.toNat = if l.brdir then 1#2 else 0#2) :
    biasRun s blk (n + 1) = setBias s l.bnext.toNat (if l.brdir then 3#2 else 2#2) := by
  subst hl
  rw [biasRun]
  simp only [hsrc, Nat.not_le.mpr hpage]
  cases (linkOf s blk).brdir <;> rfl

/-- A page that stands in the target already is counted (R404). -/
theorem biasRun_counts {s : State} {blk : BitVec 2} {l : HostLink} {n : Nat} (hl : linkOf s blk = l)
    (htarget : biasOf s l.bnext.toNat = if l.brdir then 0#2 else 1#2) :
    biasRun s blk (n + 1) = biasRun (setLink s blk { l with bdone := l.bdone + 1#16, bnext := l.bnext + 1#40 }) blk n := by
  subst hl
  rw [biasRun]
  exact if_pos (.inl htarget)

theorem biasRun_ends {s : State} {blk : BitVec 2} {l : HostLink} (hl : linkOf s blk = l) :
    biasRun s blk 0 = setLink s blk { l with bbusy := false } := by
  subst hl
  rfl

/-- A command whose first page stands in the other state begins its flip (R403, R404). -/
theorem biasGo_flips {s : State} {blk : BitVec 2} {dir : Bool} (hblk : blk ≠ 3#2) (h : biasRefused s blk = false)
    (hpage : ((linkOf s blk).bpage.extractLsb' 12 40).toNat < 0x6000000)
    (hsrc : biasOf s ((linkOf s blk).bpage.extractLsb' 12 40).toNat = if dir then 1#2 else 0#2) :
    biasGo s blk dir = setBias (setLink s blk ((linkOf s blk).begun dir)) ((linkOf s blk).bpage.extractLsb' 12 40).toNat
      (if dir then 3#2 else 2#2) := by
  obtain ⟨n, hn⟩ := Nat.exists_eq_succ_of_ne_zero (bcnt_ne_zero h)
  rw [biasGo_begins dir hblk h, hn]
  exact biasRun_flips (linkOf_setLink hblk _) hpage hsrc

/-- A command of one page that stands in the target already is done at once (R404). -/
theorem biasGo_done {s : State} {blk : BitVec 2} {dir : Bool} (hblk : blk ≠ 3#2) (h : biasRefused s blk = false)
    (htarget : biasOf s ((linkOf s blk).bpage.extractLsb' 12 40).toNat = if dir then 0#2 else 1#2) (hone : (linkOf s blk).bcnt = 1#16) :
    biasGo s blk dir = setLink s blk { (linkOf s blk).begun dir with
      btot := 1#16, bdone := 1#16, bnext := (linkOf s blk).bpage.extractLsb' 12 40 + 1#40, bbusy := false } := by
  have hcount := biasRun_counts (s := setLink s blk ((linkOf s blk).begun dir)) (n := 0) (linkOf_setLink hblk _) htarget
  rw [biasGo_begins dir hblk h, hone]
  refine hcount.trans ?_
  have htotal : ((linkOf s blk).begun dir).btot = 1#16 := hone
  rw [biasRun_ends (linkOf_setLink hblk _), setLink_setLink, setLink_setLink, htotal]
  rfl

/-! ### The ends of flips (R403) -/

theorem biasOf_setBias_h (s : State) (page : Nat) : biasOf (setBias s page 1#2) page = 1#2 := by
  rw [biasOf, setBias, mget_mset_same, ite_self]

/-- While no command runs, no command stands at a page. -/
theorem biasNext_quiet {s t : State} (h : ∀ b : BitVec 2, b ≠ 3#2 → (linkOf s b).bbusy = false) (hlinks : t.links = s.links) (page : Nat) :
    biasNext t page = t := by
  have hidle (b : BitVec 2) (hb : b ≠ 3#2) : (linkOf t b).bbusy = false := by
    rw [linkOf, hlinks]
    exact h b hb
  have hnone : [0#2, 1#2, 2#2].filter (fun blk => (linkOf t blk).bbusy && (linkOf t blk).bnext.toNat == page) = [] := by
    simp [hidle 0#2 (by decide), hidle 1#2 (by decide), hidle 2#2 (by decide)]
  have horder : biasOrder t page = [] := by
    unfold biasOrder
    rw [hnone]
    exact List.flatMap_eq_nil_iff.mpr fun _ _ => rfl
  rw [biasNext, horder]
  rfl

theorem heldHost_nil {s : State} (h : s.heldHost = []) : { s with heldHost := [] } = s := by rw [← h]

theorem retryHost_nil {s : State} (h : s.heldHost = []) : retryHost s = s := by
  rw [retryHost, h]
  exact heldHost_nil h

/-- With no command at the page and no request held, a flip ends with its page's new state (R403). -/
theorem flip_ends {s t : State} (h : ∀ b : BitVec 2, b ≠ 3#2 → (linkOf s b).bbusy = false) (hlinks : t.links = s.links)
    (hheld : t.heldHost = []) (page : Nat) (b : BitVec 2) : retryHost (biasNext (setBias t page b) page) = setBias t page b := by
  rw [biasNext_quiet h (t := setBias t page b) hlinks, retryHost_nil (s := setBias t page b) hheld]

/-- A page that has flipped to H is written back and cached nowhere (R402, R403). -/
theorem exec_biasFlipToHDone {s : State} {page : BitVec 40} (hquiet : ∀ b : BitVec 2, b ≠ 3#2 → (linkOf s b).bbusy = false)
    (hheld : s.heldHost = []) (hflip : biasOf s page.toNat = 2#2) : exec (.biasFlipToHDone page) s
      = .next (setBias (flushCaches s (4096 * page.toNat) 4096) page.toNat 1#2) := by
  obtain ⟨hside, -⟩ := flushCaches_frame s (4096 * page.toNat) 4096
  change execBiasFlipToHDone page s = _
  rw [execBiasFlipToHDone, if_neg (not_not.mpr hflip), flip_ends hquiet hside.links (hside.heldHost.trans hheld)]

theorem refuseHost_frame (s : State) (r : HostReq) :
    (refuseHost s r).links = s.links ∧ (refuseHost s r).heldHost = s.heldHost := by
  have htrace (t : State) (e : TraceEv) : (t.traceEv e).links = t.links ∧ (t.traceEv e).heldHost = t.heldHost := by
    unfold State.traceEv
    split_ifs <;> exact ⟨rfl, rfl⟩
  unfold refuseHost
  dsimp only
  split <;> exact htrace _ _

/-- A page that has flipped to D refuses the requests held for it, here the ones of a list that holds no other (R403). -/
theorem exec_biasFlipToDDone {s : State} {page : BitVec 40} (hquiet : ∀ b : BitVec 2, b ≠ 3#2 → (linkOf s b).bbusy = false)
    (hheld : ∀ r ∈ s.heldHost, r.bell = none ∧ page.toNat ∈ r.pages) (hflip : biasOf s page.toNat = 3#2) :
    exec (.biasFlipToDDone page) s
      = .next (setBias (s.heldHost.foldl refuseHost { s with heldHost := [] }) page.toNat 0#2) := by
  have hhit (r : HostReq) (hr : r ∈ s.heldHost) : (r.bell.isNone && r.pages.contains page.toNat) = true := by
    obtain ⟨hbell, hpage⟩ := hheld r hr
    simp [hbell, hpage]
  have hall : s.heldHost.filter (fun r => r.bell.isNone && r.pages.contains page.toNat) = s.heldHost := List.filter_eq_self.mpr hhit
  have hrest : s.heldHost.filter (fun r => !(r.bell.isNone && r.pages.contains page.toNat)) = [] :=
    List.filter_eq_nil_iff.mpr fun r hr => by rw [hhit r hr]; decide
  obtain ⟨hlinks, hempty⟩ : (s.heldHost.foldl refuseHost { s with heldHost := [] }).links = s.links ∧
      (s.heldHost.foldl refuseHost { s with heldHost := [] }).heldHost = [] :=
    List.foldlRecOn (motive := fun t : State => t.links = s.links ∧ t.heldHost = []) s.heldHost _ ⟨rfl, rfl⟩ fun t ht r _ =>
      ⟨(refuseHost_frame t r).1.trans ht.1, (refuseHost_frame t r).2.trans ht.2⟩
  change execBiasFlipToDDone page s = _
  rw [execBiasFlipToDDone, if_neg (not_not.mpr hflip)]
  dsimp only
  rw [hall, hrest, flip_ends hquiet hlinks hempty]

/-! ### Dynamic capacity (R408) -/

/-- The region table, the contexts and the pinned pages are as before. -/
structure TablesKept (s t : State) : Prop where
  regions : t.regions = s.regions
  ctxs : t.ctxs = s.ctxs
  pins : t.hw.pins = s.hw.pins

theorem TablesKept.refl (s : State) : TablesKept s s := ⟨rfl, rfl, rfl⟩
theorem TablesKept.trans {s t u : State} (h : TablesKept s t) (h' : TablesKept t u) : TablesKept s u :=
  ⟨h'.regions.trans h.regions, h'.ctxs.trans h.ctxs, h'.pins.trans h.pins⟩

theorem TablesKept.ite {s t u : State} {c : Prop} [Decidable c] (h : TablesKept s t) (h' : TablesKept s u) :
    TablesKept s (if c then t else u) := by
  split
  · exact h
  · exact h'

theorem tablesKept_traceEv (s : State) (e : TraceEv) : TablesKept s (s.traceEv e) := by
  unfold State.traceEv
  split_ifs <;> exact ⟨rfl, rfl, rfl⟩
theorem tablesKept_hostEvent (s : State) (n : BitVec 6) (o : Owner) (rec : List Word) : TablesKept s (hostEvent s n o rec) := by
  unfold hostEvent
  dsimp only
  split <;> exact ⟨rfl, rfl, rfl⟩
theorem tablesKept_raiseEvent (s : State) (n : BitVec 6) (rec : List Word) : TablesKept s (raiseEvent s n rec) := by
  have hcore : TablesKept s (if ((ownerOf s n).locb && n != 0#6) = true then s.emit (.toHeadwater n rec) else s) :=
    .ite ⟨rfl, rfl, rfl⟩ (.refl s)
  have hhost : TablesKept s _ := .ite (c := (ownerOf s n).host = true) (hcore.trans (tablesKept_hostEvent _ n (ownerOf s n) rec)) hcore
  exact .ite hhost (hhost.trans ⟨rfl, rfl, rfl⟩)

/-- A dynamic-capacity event changes neither the table nor the contexts nor the pins (R369, R408). -/
theorem tablesKept_capacityEvent (s : State) (extent : BitVec 16) (code : Byte) : TablesKept s (capacityEvent s extent code) :=
  (tablesKept_raiseEvent ..).trans (tablesKept_traceEv ..)

/-- A test over the entries of a list that passes over entry i does not see a write of it. -/
theorem any_zipIdx_set {α : Type} {l : List α} {i k : Nat} {x : α} {q : α × Nat → Bool} (hq : ∀ y, q (y, k + i) = false) :
    ((l.set i x).zipIdx k).any q = (l.zipIdx k).any q := by
  induction l generalizing i k with
  | nil => rfl
  | cons a t ih =>
    cases i with
    | zero => simp [List.zipIdx_cons, show ∀ y, q (y, k) = false from hq]
    | succ i =>
      rw [List.set_cons_succ, List.zipIdx_cons, List.zipIdx_cons, List.any_cons, List.any_cons, ih fun y => by
        rw [show k + 1 + i = k + (i + 1) by omega]; exact hq y]

/-- An entry overlaps the others whatever its own place holds (R224). -/
theorem regionOverlaps_setRegion (s : State) (n : BitVec 6) (r e : Region) :
    regionOverlaps (setRegion s n r) n.toNat e = regionOverlaps s n.toNat e := by
  rw [regionOverlaps, setRegion, vset, Vector.toList_setIfInBounds]
  exact any_zipIdx_set fun y => by simp

/-- An extent whose entry is legal and free becomes a valid entry with its tag (R408). -/
theorem dynamicCapacityAdd_valid {s : State} {n : BitVec 6} {base limit attr : Word} {extent : BitVec 16} {e : Region}
    (he : e = ⟨(base &&& 0xFFFFFFFFFF000#64) ||| 1#64, limit &&& 0xFFFFFFFFFF000#64, attr &&& 0xFF000000000F00BF#64,
      extent.setWidth 64⟩) (hfree : (regionAt s n).valid = false) (hle : e.first ≤ e.last) (hlegal : e.legal = true)
    (hover : regionOverlaps s n.toNat e = false) :
    exec (.dynamicCapacityAdd n base limit attr extent) s
      = .next { capacityEvent s extent 6#8 with regions := vset s.regions n e } := by
  have hkept := tablesKept_capacityEvent s extent 6#8
  have hfree' : (regionAt (capacityEvent s extent 6#8) n).valid = false := by
    rw [regionAt, hkept.regions]
    exact hfree
  have hover' : regionOverlaps (capacityEvent s extent 6#8) n.toNat e = false := by
    rw [regionOverlaps, hkept.regions]
    exact hover
  change execDynamicCapacityAdd n base limit attr extent s = _
  rw [execDynamicCapacityAdd]
  dsimp only
  rw [if_neg (ne_true_of_eq_false hfree'), validateRegion_legal (r := e) ?_ hle hlegal (by rw [regionOverlaps_setRegion]; exact hover')]
  · rw [setRegion, vset_vset, hkept.regions]
  · rw [setRegion, regionAt_vset, he]

/-- An entry that is taken stays as it is (R408). -/
theorem dynamicCapacityAdd_taken {s : State} {n : BitVec 6} (base limit attr : Word) (extent : BitVec 16)
    (h : (regionAt s n).valid = true) :
    exec (.dynamicCapacityAdd n base limit attr extent) s = .next (capacityEvent s extent 6#8).countError := by
  have h' : (regionAt (capacityEvent s extent 6#8) n).valid = true := by
    rw [regionAt, (tablesKept_capacityEvent ..).regions]
    exact h
  change execDynamicCapacityAdd n base limit attr extent s = _
  rw [execDynamicCapacityAdd]
  exact congrArg _ (if_pos h')

/-- The stores on their way under an extent's leaves perform without a change of the region table (R408). -/
theorem drainStores_regions (s : State) (hit : Nat → Bool) : (drainStores s hit).regions = s.regions := by
  refine List.foldlRecOn (motive := fun t : State => t.regions = s.regions) s.ctxs _ rfl fun t ht p _ => ?_
  dsimp only
  rw [State.modCtx_regions, (memorySideDiffers_foldl (f := fun t e => performStore t (BitVec.ofNat 9 p.1) e)
    (fun t e => performStoreAs_memorySide ..) _ t).regions, ht]

/-- The entry with VALID 0 where it belongs to the extent (R408). -/
def Region.released (extent : BitVec 16) (r : Region) : Region :=
  if r.valid && r.ext.extractLsb' 0 16 == extent && extent != 0#16 then { r with base := r.base &&& ~~~1#64 } else r

/-- The lines of the pages of every entry of a list are given up in turn (R408). -/
def flushRegions (s : State) (rs : List Region) : State :=
  rs.foldl (fun s r => flushCaches s (4096 * r.first) (4096 * (r.last + 1 - r.first))) s

theorem flushRegions_memorySide (s : State) (rs : List Region) : MemorySideDiffers s (flushRegions s rs) :=
  memorySideDiffers_foldl (fun _ _ => (flushCaches_frame ..).1) rs s

theorem noneCached_flushRegions {s : State} {k n : Nat} (h : NoneCached s k n) (rs : List Region) : NoneCached (flushRegions s rs) k n :=
  List.foldlRecOn (motive := fun t => NoneCached t k n) rs _ h fun _ ht _ _ => noneCached_of_without ht (flushCaches_frame ..).2

/-- No cache holds a line of an entry whose lines were given up. -/
theorem noneCached_of_mem_flushRegions (s : State) {rs : List Region} {v : Region} (hv : v ∈ rs) :
    NoneCached (flushRegions s rs) (4096 * v.first) (4096 * (v.last + 1 - v.first)) := by
  induction rs generalizing s with
  | nil => cases hv
  | cons r t ih =>
    rcases List.mem_cons.mp hv with rfl | hv
    · exact noneCached_flushRegions (noneCached_without (flushCaches_frame ..).2) t
    · exact ih _ hv

/-- A page of the extent is pinned. -/
theorem pinned_isEmpty {l : List Nat} {rs : List Region} : (l.filter (extentHas rs)).isEmpty = false ↔ ∃ x ∈ l, extentHas rs x = true := by
  rw [List.isEmpty_eq_false_iff, Ne, List.filter_eq_nil_iff]
  push Not
  rfl

theorem getLast?_emit (s : State) (o : Output) : (s.emit o).outputs.getLast? = some o := List.getLast?_concat

theorem extentRegions_of_tablesKept {s t : State} (h : TablesKept s t) (extent : BitVec 16) :
    extentRegions t extent = extentRegions s extent := by
  rw [extentRegions, h.regions, extentRegions]

/-- An unforced release of an extent with a pinned page is refused and changes neither the table nor a context (R408). -/
theorem dynamicCapacityRelease_refused {s : State} {extent : BitVec 16} (h : ∃ x ∈ s.hw.pins, extentHas (extentRegions s extent) x = true) :
    exec (.dynamicCapacityRelease extent false) s = .next ((capacityEvent s extent 7#8).emit (.extentAnswer extent false)) := by
  have hkept := tablesKept_capacityEvent s extent 7#8
  change execDynamicCapacityRelease extent false s = _
  rw [execDynamicCapacityRelease]
  dsimp only
  rw [extentRegions_of_tablesKept hkept, hkept.pins, pinned_isEmpty.mpr h]
  rfl

/-- A release that is granted takes the extent's entries out and drops its cached lines (R408). -/
theorem dynamicCapacityRelease_granted {s : State} {extent : BitVec 16} {forced : Bool}
    (h : (¬ ∃ x ∈ s.hw.pins, extentHas (extentRegions s extent) x = true) ∨ forced = true) :
    ∃ t, exec (.dynamicCapacityRelease extent forced) s = .next t ∧ t.outputs.getLast? = some (.extentAnswer extent true) ∧
      t.regions = s.regions.map (Region.released extent) ∧
      ∀ v ∈ extentRegions s extent, NoneCached t (4096 * v.first) (4096 * (v.last + 1 - v.first)) := by
  have hkept := tablesKept_capacityEvent s extent 7#8
  have hgrant : ¬ (!(s.hw.pins.filter (extentHas (extentRegions s extent))).isEmpty && !forced) = true := by
    rcases h with hfree | rfl
    · rw [← pinned_isEmpty, Bool.not_eq_false] at hfree
      simp [hfree]
    · simp
  change ∃ t, execDynamicCapacityRelease extent forced s = _ ∧ _
  rw [execDynamicCapacityRelease]
  dsimp only
  rw [extentRegions_of_tablesKept hkept, hkept.pins, if_neg hgrant]
  refine ⟨(flushRegions _ (extentRegions s extent)).emit _, rfl, getLast?_emit .., ?_, fun v hv => noneCached_of_mem_flushRegions _ hv⟩
  rw [State.emit_regions, (flushRegions_memorySide ..).regions, drainStores_regions]
  refine congrArg (Vector.map (Region.released extent)) ?_
  exact (List.foldlRecOn (motive := TablesKept s) _ _ hkept fun t ht p _ => ht.trans (tablesKept_traceEv ..)).regions

/-- An entry of the table after a release (R408). -/
theorem regionAt_released {s t : State} {extent : BitVec 16} (h : t.regions = s.regions.map (Region.released extent))
    (hextent : extent ≠ 0#16) (j : BitVec 6) : regionAt t j =
      if (regionAt s j).valid ∧ (regionAt s j).ext.extractLsb' 0 16 = extent
      then { regionAt s j with base := (regionAt s j).base &&& ~~~1#64 } else regionAt s j := by
  have hat : regionAt t j = Region.released extent (regionAt s j) := by
    rw [regionAt, h, vget_eq_getElem _ j.isLt, Vector.getElem_map, regionAt, vget_eq_getElem _ j.isLt]
  rw [hat, Region.released]
  simp [hextent]

/-- Settles O50: each event by its own equation above; the caches hold nothing of the lines that they gave up
(`noneCached_without`), and what comes later keeps it so. -/
theorem biasAndCapacityCommandsAct : Obligations.BiasAndCapacityCommandsAct := by
  unfold Obligations.BiasAndCapacityCommandsAct
  intro s blk dir page r addr g n base limit attr extent forced l i src target first p quiet k e rs pinned
  have hi : exec i s = .next (biasGo s blk dir) := by cases dir <;> rfl
  refine ⟨fun hblk => ⟨fun href => hi.trans (congrArg _ (biasGo_refused dir hblk href)),
      fun hgo hpage => ⟨fun hsrc => ?_, fun htarget hone => ?_⟩⟩,
    fun hquiet hheld => ⟨fun hflip => ?_, fun hflip => ?_⟩, fun hquiet hheld hbell hp hflip => ?_, fun hg hpool hbi => ?_,
    fun htaken => ?_, fun hfree hle hlegal hover => ?_, fun hextent => ⟨fun hpin hforced => ?_, fun hgrant => ?_⟩⟩
  · exact hi.trans (congrArg _ (biasGo_flips hblk hgo hpage hsrc))
  · exact hi.trans (congrArg _ (biasGo_done hblk hgo htarget hone))
  · exact ⟨_, exec_biasFlipToHDone hquiet hheld hflip, rfl, biasOf_setBias_h .., noneCached_without (flushCaches_frame ..).2⟩
  · rw [exec_biasFlipToDDone hquiet (by rw [hheld]; exact List.forall_mem_nil _) hflip, hheld, List.foldl_nil, heldHost_nil hheld]
  · rw [exec_biasFlipToDDone hquiet (by rw [hheld]; exact List.forall_mem_singleton.mpr ⟨hbell, hp⟩) hflip, hheld]
    rfl
  · obtain ⟨hside, hcl⟩ := flushCaches_frame s k 64
    refine ⟨_, exec_poolBackInvalidate rfl hg hpool hbi, noneCached_without hcl, ?_, hside.ctxs⟩
    rw [State.emit, hside.outputs]
  · exact ⟨_, dynamicCapacityAdd_taken base limit attr extent htaken, (tablesKept_capacityEvent ..).regions⟩
  · exact ⟨_, dynamicCapacityAdd_valid rfl hfree hle hlegal hover, rfl, (tablesKept_capacityEvent ..).ctxs⟩
  · subst hforced
    have hkept := tablesKept_capacityEvent s extent 7#8
    exact ⟨_, dynamicCapacityRelease_refused hpin, hkept.regions, hkept.ctxs, getLast?_emit ..⟩
  · obtain ⟨t, ht, hout, hregions, hgone⟩ := dynamicCapacityRelease_granted hgrant
    exact ⟨t, ht, hout, regionAt_released hregions hextent, fun v hv _ => hgone v hv⟩

end Sys2Proof.Machine
end

section
/-! SUPPORT. The checks that the ordering ops share, once passed (09_ordering R259, 12_tasks R340 to R346): O26 and O27. -/
namespace Sys2Proof.Machine

variable {s : State} {x : SReg}

/-- Only tc1 asks for a second channel (R340). -/
theorem timelineOk_of_chans {tl : BitVec 2} (h : tl = 1#2 → s.here.ident.chans = 2#8) : timelineOk s tl = true := by
  by_cases htl : tl = 1#2
  · simp [timelineOk, htl, h htl]
  · simp [timelineOk, htl]

/-- A basin operand that passes the checks of issue goes on (R340, R344). -/
theorem withBasin_placed (hp : x.poison = false) (haperture : isSpm x.val = true ∨ isPeer x.val = true) (hal : x.val.toNat % 32 = 0)
    (hpeer : peerOk s s.cur x.val 32 = true) (f : State → State) : withBasin s x f = f s := by
  have hfault : basinAddrFault s s.cur x.val = none := by
    rcases haperture with h | h <;> simp [basinAddrFault, h, hal, hpeer]
  simp [withBasin, hp, hfault]

/-- A signal whose place is good is worked on there (R340). -/
theorem withSig_placed {l : Leaf} {key : Nat} {write : Bool} (hp : x.poison = false) (hplace : sigPlace s s.cur x.val write = .ok l key)
    (f : State → Leaf → Nat → State) : withSig s x write f = f s l key := by
  simp [withSig, hp, hplace]

/-- A release that nothing holds up (R259). -/
theorem afterRelease_performed {scope : BitVec 2} (h : accessesPerformed s.here scope = true) (f : State → State) :
    afterRelease s scope f = f s := by
  simp [afterRelease, h]

/-- A basin once named is evaluated in each cycle, and nothing else changes. -/
theorem liveBasin_names (s : State) (home : FeId) (o : Nat) :
    ∃ live, s.liveBasin home o = { s with basinLive := live } ∧ (home, o) ∈ live := by
  unfold State.liveBasin
  split
  next h => exact ⟨s.basinLive, rfl, by simpa using h⟩
  next => exact ⟨s.basinLive ++ [(home, o)], rfl, by simp⟩

end Sys2Proof.Machine
end

section
/-! SUPPORT. Fences and waits (09_ordering R261, 12_tasks R341 to R348): O26. -/
namespace Sys2Proof.Machine

section Waits
variable {s : State} {h : OpHdr} (hrun : OpRuns s h)
include hrun

theorem exec_fence {scope ftype : BitVec 2} (hty : ftype ≠ 0#2) :
    exec (.fence h scope ftype) s = .next (s.modCtx s.cur (fun c => { c with frz := .fence ftype scope })) := by
  change execFence h scope ftype s = _
  rw [execFence, bne_iff_ne.mpr hty, guardedOp_runs hrun]

theorem exec_tfence {scope : BitVec 2} : exec (.tfence h scope) s = .next (beginWait s (.tfence scope s.cycle)) := by
  change execTfence h scope s = _
  rw [execTfence, guardedOp_runs hrun]

/-- What `twait` of a number that has been committed does (R342). -/
theorem exec_twait {tl scope : BitVec 2} {b : BitVec 6} {imm : BitVec 11} {i : Bool} {n : Word}
    (hn : n = if i then imm.setWidth 64 else (s.here.rS b).val) (htl : timelineOk s tl = true)
    (hres : if i then b = 0#6 else imm = 0#11) (hp : i = true ∨ (s.here.rS b).poison = false)
    (hle : n.toNat ≤ (s.here.timeline tl).count.toNat) :
    exec (.twait h tl b imm i scope) s = .next (
      if n = 0#64 then s
      else if n.toNat ≤ (s.here.timeline tl).done.toNat then s.takeSync s.cur (syncTimeline s.cur tl)
      else beginWait s (.twait tl n scope)) := by
  have hzero : (if i then b == 0#6 else imm == 0#11) = true := by cases i <;> simpa using hres
  have hclean : ¬ (!i && (s.here.rS b).poison) = true := by rcases hp with h | h <;> simp [h]
  have hcount : ¬ (s.here.timeline tl).count.ult n = true := by simpa [BitVec.ult_eq_decide] using hle
  change execTwait h tl b imm i scope s = _
  rw [execTwait, hzero, htl, guardedOp_runs hrun]
  simp only [reservedZero, ← hn, if_neg hclean, if_neg hcount, if_true, BitVec.ule_eq_decide, decide_eq_true_eq]

theorem exec_tget {d : BitVec 6} {tl : BitVec 2} {done : Bool} (htl : timelineOk s tl = true) :
    exec (.tget h d tl done) s = .next (landRegs s 7#3 1
      [.s d ⟨if done then (s.here.timeline tl).done else (s.here.timeline tl).count, s.here.band, false⟩]) := by
  change execTget h d tl done s = _
  rw [execTget, htl, guardedOp_runs hrun]
  rfl

theorem exec_bwait {a b : BitVec 6} (hphase : (s.here.rS b).val.toNat < 2 ^ 32) (hpb : (s.here.rS b).poison = false)
    (hpa : (s.here.rS a).poison = false) (haperture : isSpm (s.here.rS a).val = true ∨ isPeer (s.here.rS a).val = true)
    (hal : (s.here.rS a).val.toNat % 32 = 0) (hpeer : peerOk s s.cur (s.here.rS a).val 32 = true) :
    exec (.bwait h a b) s = .next (beginWait
      (s.liveBasin (apertureHome s.cur (s.here.rS a).val) (spmOff (s.here.rS a).val))
      (.bwait (s.here.rS a).val ((s.here.rS b).val.setWidth 32))) := by
  change execBwait h a b s = _
  rw [execBwait, guardedOp_runs hrun]
  dsimp only
  rw [if_neg (not_not.mpr (Nat.div_eq_of_lt hphase)), if_neg (ne_true_of_eq_false hpb), withBasin_placed hpa haperture hal hpeer]

theorem exec_sigwait {d a : BitVec 6} {l : Leaf} {key : Nat} (hpa : (s.here.rS a).poison = false)
    (hplace : sigPlace s s.cur (s.here.rS a).val false = .ok l key) :
    exec (.sigwait h d a) s = .next (beginWait s (.sigwait (s.here.rS a).val d)) := by
  change execSigwait h d a s = _
  rw [execSigwait, guardedOp_runs hrun]
  dsimp only
  rw [withSig_placed hpa hplace]

theorem exec_mwait {d a b : BitVec 6} {tmo : BitVec 16} {l : Leaf} {key : Nat} (hpa : (s.here.rS a).poison = false)
    (hplace : sigPlace s s.cur (s.here.rS a).val false = .ok l key) (hpb : (s.here.rS b).poison = false) :
    exec (.mwait h d a b tmo) s = .next (beginWait s (.mwait (s.here.rS a).val d (s.here.rS b) tmo s.cycle)) := by
  change execMwait h d a b tmo s = _
  rw [execMwait, guardedOp_runs hrun]
  dsimp only
  rw [if_neg (ne_true_of_eq_false hpb), withSig_placed hpa hplace]

end Waits

/-- Settles O26: every op passes its checks, and a wait begins as `beginWait` says; a `twait` decides by its number
(`exec_twait`). -/
theorem fencesAndWaitsFreezeTheirContext : Obligations.FencesAndWaitsFreezeTheirContext := by
  unfold Obligations.FencesAndWaitsFreezeTheirContext
  intro s h a b d tl scope ftype imm i done tmo l key t x y n waits hrun
  refine ⟨exec_fence hrun, exec_tfence hrun, fun hchan => ⟨fun hres hp hle => ?twait, exec_tget hrun (timelineOk_of_chans hchan)⟩,
    fun hphase hpb hpa haperture hal hpeer => ?bwait,
    fun hpa hplace => ⟨exec_sigwait hrun hpa hplace, exec_mwait hrun hpa hplace⟩⟩
  case twait =>
    have htwait := exec_twait hrun (scope := scope) (n := n) rfl (timelineOk_of_chans hchan) hres hp hle
    refine ⟨fun h0 => ?_, fun h0 hdone => ?_, fun hwait => ?_⟩
    · rw [htwait, if_pos h0]
    · rw [htwait, if_neg h0, if_pos hdone]
    · have h0 : n ≠ 0#64 := fun h0 => Nat.not_lt_zero _ (show t.done.toNat < (0#64).toNat from h0 ▸ hwait)
      rw [htwait, if_neg h0, if_neg (Nat.not_le.mpr hwait)]
      rfl
  case bwait =>
    obtain ⟨live, hlive, hmem⟩ := liveBasin_names s (apertureHome s.cur x.val) (spmOff x.val)
    exact ⟨{ s with basinLive := live }, rfl, rfl, rfl, rfl, hmem,
      (exec_bwait hrun hphase hpb hpa haperture hal hpeer).trans (by rw [hlive]; rfl)⟩

end Sys2Proof.Machine
end

section
/-! SUPPORT. Updates of basins and the decrement of a signal (09_ordering R259, 12_tasks R335, R336, R339, R344, R346): O27. -/
namespace Sys2Proof.Machine

/-! ### Basins (R344) -/

/-- An update of a group that commits is sent, and the contexts and memory stay (R339). -/
theorem issueBasin_sends {s : State} (hact : s.mayAct 0 = true) (ea : Word) (up : BasinUp) :
    (issueBasin s ea up).ctxs = s.ctxs ∧ SameMemory s (issueBasin s ea up) ∧
    (issueBasin s ea up).basins
      = s.basins ++ [⟨apertureHome s.cur ea, BitVec.ofNat 21 (spmOff ea), up, s.cur, s.opProv, s.opWord 7#3, none⟩] := by
  obtain ⟨live, hlive, -⟩ := liveBasin_names s (apertureHome s.cur ea) (spmOff ea)
  rw [issueBasin, if_pos hact, sendBasin, hlive]
  exact ⟨rfl, fun _ => rfl, rfl⟩

section Basins
variable {s : State} {h : OpHdr} {a : BitVec 6} (hrun : OpRuns s h) (hpa : (s.here.rS a).poison = false)
  (haperture : isSpm (s.here.rS a).val = true ∨ isPeer (s.here.rS a).val = true)
  (hal : (s.here.rS a).val.toNat % 32 = 0) (hpeer : peerOk s s.cur (s.here.rS a).val 32 = true)
include hrun hpa haperture hal hpeer

theorem exec_barv (hperformed : accessesPerformed s.here 1#2 = true) :
    exec (.barv h a) s = .next (issueBasin (postBasin s (s.here.rS a).val) (s.here.rS a).val .arrive) := by
  change execBarv h a s = _
  rw [execBarv, guardedOp_runs hrun]
  dsimp only
  rw [withBasin_placed hpa haperture hal hpeer, afterRelease_performed hperformed]

theorem exec_bexp {b : BitVec 6} (hpb : (s.here.rS b).poison = false)
    (hsigned : (s.here.rS b).val = ((s.here.rS b).val.setWidth 32).signExtend 64) :
    exec (.bexp h a b) s = .next (issueBasin s (s.here.rS a).val (.expect ((s.here.rS b).val.setWidth 32))) := by
  change execBexp h a b s = _
  rw [execBexp, guardedOp_runs hrun]
  dsimp only
  rw [if_neg (not_not.mpr hsigned), if_neg (ne_true_of_eq_false hpb), withBasin_placed hpa haperture hal hpeer]

end Basins

/-! ### The word of a signal (R335, R336) -/

/-- What a decrement puts into the bits of COUNT and UNDER: the count left, or UNDER with COUNT 0. -/
def signalLeft (old : Word) (n : Nat) : Word :=
  if n ≤ old.toNat % 2 ^ 48 then BitVec.ofNat 64 (old.toNat % 2 ^ 48 - n) else 0x0001000000000000#64

theorem signalDec_eq (old : Word) (n : Nat) (status : Byte) :
    signalDec old n status = (signalSet old status &&& 0xFFFF000000000000#64) ||| signalLeft old n := by
  rw [signalLeft, apply_ite (signalSet old status &&& 0xFFFF000000000000#64 ||| ·)]
  rfl

theorem signalLeft_count (old : Word) (n : Nat) : (signalLeft old n).toNat % 2 ^ 48 = old.toNat % 2 ^ 48 - n := by
  unfold signalLeft
  split
  next hle => rw [BitVec.toNat_ofNat]; omega
  next hgt => rw [Nat.sub_eq_zero_of_le (Nat.le_of_not_le hgt)]; rfl

/-- Above COUNT, a decrement sets at most UNDER. -/
theorem signalLeft_getLsbD (old : Word) (n : Nat) {i : Nat} (hlo : 48 ≤ i) :
    (signalLeft old n).getLsbD i = decide (i = 48 ∧ old.toNat % 2 ^ 48 < n) := by
  unfold signalLeft
  split
  next hle =>
    have hsmall : old.toNat % 2 ^ 48 - n < 2 ^ i :=
      lt_of_lt_of_le (by omega) (Nat.pow_le_pow_right (by decide : 0 < 2) hlo)
    rw [BitVec.getLsbD_ofNat, Nat.testBit_lt_two_pow hsmall, Bool.and_false]
    exact (decide_eq_false fun h => Nat.not_lt.mpr hle h.2).symm
  next hgt =>
    rw [show (0x0001000000000000#64 : Word) = BitVec.twoPow 64 48 from rfl, BitVec.getLsbD_twoPow]
    exact decide_eq_decide.mpr ⟨fun h => ⟨h.symm, Nat.lt_of_not_le hgt⟩, fun h => h.1.symm⟩

/-- A decrement takes n from COUNT, down to 0 (R336). -/
theorem signalDec_count (old : Word) (n : Nat) (status : Byte) :
    (signalDec old n status).toNat % 2 ^ 48 = old.toNat % 2 ^ 48 - n := by
  rw [signalDec_eq, BitVec.toNat_or, Nat.or_mod_two_pow, toNat_and_signalHigh, Nat.mul_mod_left, Nat.zero_or, signalLeft_count]

/-- The bits of UNDER, the reserved bits and STATUS after a decrement (R335, R336). -/
theorem signalDec_getLsbD (old : Word) (n : Nat) (status : Byte) {i : Nat} (hlo : 48 ≤ i) (hhi : i < 64) :
    (signalDec old n status).getLsbD i
      = (old.getLsbD i || decide (56 ≤ i) && status.getLsbD (i - 56) || decide (i = 48 ∧ old.toNat % 2 ^ 48 < n)) := by
  have hmask : (0xFFFF000000000000#64 : Word).getLsbD i = true := by interval_cases i <;> rfl
  have hstatus : (status.setWidth 64 <<< 56 : Word).getLsbD i = (decide (56 ≤ i) && status.getLsbD (i - 56)) := by
    have hsub : i - 56 < 64 := by omega
    simp [-BitVec.getLsbD_eq_getElem, BitVec.getLsbD_shiftLeft, BitVec.getLsbD_setWidth, hhi, hsub, ← decide_not]
  rw [signalDec_eq, BitVec.getLsbD_or, BitVec.getLsbD_and, hmask, Bool.and_true, signalSet, BitVec.getLsbD_or, hstatus,
    signalLeft_getLsbD old n hlo]

theorem signalDec_under (old : Word) (n : Nat) (status : Byte) :
    (signalDec old n status).getLsbD 48 = (old.getLsbD 48 || decide (old.toNat % 2 ^ 48 < n)) := by
  simp [-BitVec.getLsbD_eq_getElem, signalDec_getLsbD]

theorem signalDec_reserved (old : Word) (n : Nat) (status : Byte) :
    (signalDec old n status).extractLsb' 49 7 = old.extractLsb' 49 7 := by
  refine BitVec.eq_of_getLsbD_eq fun i hi => ?_
  have hstatus : ¬ 56 ≤ 49 + i := by omega
  have hunder : 49 + i ≠ 48 := by omega
  rw [BitVec.getLsbD_extractLsb', BitVec.getLsbD_extractLsb', signalDec_getLsbD _ _ _ (by omega) (by omega)]
  simp [hstatus, hunder]

theorem signalDec_status (old : Word) (n : Nat) (status : Byte) :
    (signalDec old n status).extractLsb' 56 8 = old.extractLsb' 56 8 ||| status := by
  refine BitVec.eq_of_getLsbD_eq fun i hi => ?_
  have hunder : 56 + i ≠ 48 := by omega
  rw [BitVec.getLsbD_or, BitVec.getLsbD_extractLsb', BitVec.getLsbD_extractLsb', signalDec_getLsbD _ _ _ (by omega) (by omega)]
  simp [-BitVec.getLsbD_eq_getElem, hi, hunder]

/-! ### The word in memory (R336, R346) -/

/-- The bytes of a word that has been put into memory. -/
theorem memRead_putWord8_at (s : State) (key : Nat) (w : Word) {i : Nat} (hi : i < 8) :
    memRead (s.putWord8 key w).mem (key + i) = w.extractLsb' (8 * i) 8 := by
  have hlen : i < (natBytes w.toNat 8).length := by rwa [length_natBytes]
  have hbyte : (natBytes w.toNat 8)[i] = BitVec.ofNat 8 (w.toNat / 2 ^ (8 * i)) := by simp [natBytes_eq_map]
  rw [State.putWord8, memRead_memWrites_at hlen, hbyte, ← extractLsb'_ofNat (w := 64) (by omega), BitVec.ofNat_toNat, BitVec.setWidth_eq]

theorem memRead_putWord8_other (s : State) {key k : Nat} (w : Word) (hk : ¬ (key ≤ k ∧ k < key + 8)) :
    memRead (s.putWord8 key w).mem k = memRead s.mem k :=
  memRead_memWrites_other (by rwa [length_natBytes])

theorem exec_sigdec {s : State} {h : OpHdr} {a b : BitVec 6} {fail : Bool} {l : Leaf} {key : Nat} (hrun : OpRuns s h)
    (hact : s.mayAct 0 = true) (hpa : (s.here.rS a).poison = false) (hpb : (s.here.rS b).poison = false)
    (hlo : 1 ≤ (s.here.rS b).val.toNat) (hhi : (s.here.rS b).val.toNat < 2 ^ 48)
    (hplace : sigPlace s s.cur (s.here.rS a).val true = .ok l key) (hword : (strongWord s s.cur key).2 = false)
    (hperformed : accessesPerformed s.here l.wide = true) :
    exec (.sigdec h a b fail) s = .next (decSignal s (agentCtx s.cur) l.wide (s.clockOf s.cur) key
      (signalDec (s.word8 key) (s.here.rS b).val.toNat (if fail then 0x40#8 else 0#8))) := by
  change execSigdec h a b fail s = _
  rw [execSigdec, guardedOp_runs hrun]
  dsimp only
  rw [if_neg (not_or.mpr ⟨Nat.ne_of_gt hlo, Nat.not_le.mpr hhi⟩), if_neg (ne_true_of_eq_false hpb), withSig_placed hpa hplace,
    if_neg (ne_true_of_eq_false hword), afterRelease_performed hperformed, if_pos hact]

/-- Settles O27: `barv` and `bexp` send their update (`issueBasin_sends`); `sigdec` puts at the signal's place the word that
`signalDec` makes, field by field. -/
theorem basinAndSignalOpsAct : Obligations.BasinAndSignalOpsAct := by
  unfold Obligations.BasinAndSignalOpsAct
  intro s h a b fail l key x y hrun hact hpa
  refine ⟨fun i up hop haperture hal hpeer => ?basin, fun hpb hlo hhi hplace hword hperformed => ?signal⟩
  case basin =>
    obtain ⟨rfl, rfl, hperformed⟩ | ⟨rfl, rfl, hpb, hsigned⟩ := hop
    · have hpost : postBasin s x.val = s.postSync (syncBasin (apertureHome s.cur x.val) (spmOff x.val)) (s.clockOf s.cur) := if_pos hact
      exact ⟨_, (exec_barv hrun hpa haperture hal hpeer hperformed).trans (by rw [hpost]), issueBasin_sends (s := s.postSync ..) hact ..⟩
    · exact ⟨_, exec_bexp hrun hpa haperture hal hpeer hpb hsigned, issueBasin_sends hact ..⟩
  case signal =>
    exact ⟨_, signalDec (s.word8 key) y.val.toNat (if fail then 0x40#8 else 0#8),
      exec_sigdec hrun hact hpa hpb hlo hhi hplace hword hperformed,
      ⟨signalDec_count .., signalDec_under .., signalDec_reserved .., signalDec_status ..⟩,
      fun i => memRead_putWord8_at _ key _, fun k => memRead_putWord8_other _ _, rfl⟩

end Sys2Proof.Machine
end

section
/-! SUPPORT. Bytes of a context's window: stores on their way, and what engines write past them (08_memory R215, R216, 09_ordering R252): O45. -/
namespace Sys2Proof.Machine

/-! ### Bytes of window lines (R216) -/

/-- A byte of a line after a byte of the line is replaced. -/
theorem lineByte_setLineByte {b : BitVec 2048} {i j : Nat} {x : Byte} (hi : i < 256) :
    lineByte (setLineByte b j x) i = if i = j then x else lineByte b i := by
  refine BitVec.eq_of_getLsbD_eq fun t ht => ?_
  have hmask (q : Nat) : (255#2048).getLsbD q = decide (q < 8) := by
    rw [BitVec.getLsbD_ofNat, show 255 = 2 ^ 8 - 1 from rfl, Nat.testBit_two_pow_sub_one, Bool.eq_iff_iff]
    simp only [Bool.and_eq_true, decide_eq_true_eq]
    omega
  have hp : 8 * i + t < 2048 := by omega
  rw [lineByte, setLineByte, BitVec.getLsbD_extractLsb', BitVec.getLsbD_or, BitVec.getLsbD_and, BitVec.getLsbD_not,
    BitVec.getLsbD_shiftLeft, BitVec.getLsbD_shiftLeft, hmask, BitVec.getLsbD_setWidth]
  split
  next h =>
    subst h
    simp [hp, ht, show t < 2048 by omega, Nat.not_lt.mpr, show 8 * i + t - 8 * i = t by omega]
  next h =>
    rw [lineByte, BitVec.getLsbD_extractLsb']
    rcases Nat.lt_or_gt_of_ne h with h | h
    · simp [hp, ht, show 8 * i + t < 8 * j by omega]
    · simp [hp, ht, show ¬ 8 * i + t < 8 * j by omega, show ¬ 8 * i + t - 8 * j < 8 by omega,
        BitVec.getLsbD_of_ge x (8 * i + t - 8 * j) (by omega)]

/-- What byte i of a line holds after the writes of a list, y before. -/
def byteAfter (d : List (Nat × Byte)) (i : Nat) (y : Byte) : Byte := d.foldl (fun y p => if i = p.1 then p.2 else y) y

theorem lineByte_setLineBytes {d : List (Nat × Byte)} {b : BitVec 2048} {i : Nat} (hi : i < 256) :
    lineByte (setLineBytes b d) i = byteAfter d i (lineByte b i) := by
  induction d generalizing b with
  | nil => rfl
  | cons p t ih => rw [setLineBytes, ih, lineByte_setLineByte hi, byteAfter, byteAfter, List.foldl_cons]

/-- Writes that do not name the byte leave it. -/
theorem byteAfter_other {d : List (Nat × Byte)} {i : Nat} {y : Byte} (h : ∀ p ∈ d, p.1 ≠ i) : byteAfter d i y = y :=
  List.foldlRecOn (motive := (· = y)) d _ rfl fun _ hz p hp => (if_neg (h p hp).symm).trans hz

/-- Writes that name the byte and agree on its value set it. -/
theorem byteAfter_agree {d : List (Nat × Byte)} {i : Nat} {y v : Byte} (hv : ∀ p ∈ d, p.1 = i → p.2 = v) (hex : ∃ p ∈ d, p.1 = i) :
    byteAfter d i y = v := by
  induction d generalizing y with
  | nil => obtain ⟨p, hp, -⟩ := hex; cases hp
  | cons p t ih =>
    have ht : ∀ q ∈ t, q.1 = i → q.2 = v := fun q hq => hv q (List.mem_cons_of_mem _ hq)
    change byteAfter t i (if i = p.1 then p.2 else y) = v
    by_cases hin : ∃ q ∈ t, q.1 = i
    · exact ih ht hin
    · obtain ⟨q, hq, hqi⟩ := hex
      rcases List.mem_cons.mp hq with rfl | hq
      · rw [byteAfter_other fun q hq e => hin ⟨q, hq, e⟩, if_pos hqi.symm, hv q (List.mem_cons_self ..) hqi]
      · exact absurd ⟨q, hq, hqi⟩ hin

/-- Of the writes only those that name the byte count. -/
theorem byteAfter_filter {d : List (Nat × Byte)} {i : Nat} {y : Byte} {f : Nat × Byte → Bool} (h : ∀ p ∈ d, p.1 = i → f p = true) :
    byteAfter (d.filter f) i y = byteAfter d i y := by
  induction d generalizing y with
  | nil => rfl
  | cons p t ih =>
    have ht : ∀ q ∈ t, q.1 = i → f q = true := fun q hq => h q (List.mem_cons_of_mem _ hq)
    by_cases hp : f p = true
    · rw [List.filter_cons_of_pos hp]
      exact ih ht
    · have hi : ¬ i = p.1 := fun e => hp (h p (List.mem_cons_self ..) e.symm)
      rw [List.filter_cons_of_neg hp, ih ht, byteAfter, byteAfter, List.foldl_cons, if_neg hi]

/-- What the byte at offset a of the window holds after a store, y before. -/
def SpmStore.over (st : SpmStore) (a : Nat) (y : Byte) : Byte := if st.line = a / 256 then byteAfter st.data (a % 256) y else y

theorem spmByte_apply (m : Spm) (st : SpmStore) (a : Nat) : spmByte (m.apply st) a = st.over a (spmByte m a) := by
  have hlt : a % 256 < 256 := Nat.mod_lt _ (by decide)
  by_cases h : st.line = a / 256
  · rw [SpmStore.over, if_pos h, spmByte, spmLine, Spm.apply, h, mget_mset_same, SpmLine.store, lineByte_setLineBytes hlt, spmByte]
  · rw [SpmStore.over, if_neg h, spmByte, spmLine, Spm.apply, mget_mset_other _ _ _ (Ne.symm h), spmByte, spmLine]

/-- A byte of the window with every store of its context visible (R215). -/
theorem spmByte_shown (m : Spm) (a : Nat) : spmByte m.shown a = m.stores.foldl (fun y st => st.over a y) (spmByte m a) := by
  have hfold (l : List SpmStore) (m' : Spm) : spmByte (l.foldl Spm.apply m') a = l.foldl (fun y st => st.over a y) (spmByte m' a) := by
    induction l generalizing m' with
    | nil => rfl
    | cons st t ih => rw [List.foldl_cons, ih, spmByte_apply, List.foldl_cons]
  exact hfold m.stores m

/-! ### What passes the stores on their way (R252) -/

theorem over_passed (st : SpmStore) (l : SpmBytes) (a : Nat) (y : Byte) : (st.passed l).over a y = if st.line = a / 256
    then byteAfter (st.data.filter (fun b => !l.any (fun p => p.1 == 256 * st.line + b.1))) (a % 256) y else y := rfl

/-- A store that an engine's write has passed names none of the bytes written. -/
theorem over_passed_written {st : SpmStore} {l : SpmBytes} {a : Nat} {y : Byte} (h : ∃ p ∈ l, p.1 = a) : (st.passed l).over a y = y := by
  rw [over_passed]
  split
  next hline =>
    obtain ⟨q, hq, rfl⟩ := h
    refine byteAfter_other fun p hp hpi => ?_
    have hkept := List.any_eq_false.mp (Bool.not_eq_true' _ ▸ (List.mem_filter.mp hp).2) q hq
    exact hkept (beq_iff_eq.mpr (by omega))
  · rfl

/-- It keeps every other byte. -/
theorem over_passed_other {st : SpmStore} {l : SpmBytes} {a : Nat} {y : Byte} (h : ∀ p ∈ l, p.1 ≠ a) :
    (st.passed l).over a y = st.over a y := by
  rw [over_passed, SpmStore.over]
  refine ite_congr rfl (fun hline => byteAfter_filter fun p _ hpi => ?_) fun _ => rfl
  rw [Bool.not_eq_true', List.any_eq_false]
  exact fun q hq hqe => h q hq ((beq_iff_eq.mp hqe).trans (by omega))

/-- A byte that an engine has written is what everyone finds. -/
theorem spmByte_shown_written {m : Spm} {st : List SpmStore} {l : SpmBytes} {a : Nat} (hst : m.stores = st.map (·.passed l))
    (h : ∃ p ∈ l, p.1 = a) : spmByte m.shown a = spmByte m a := by
  rw [spmByte_shown, hst, List.foldl_map]
  exact List.foldlRecOn (motive := (· = spmByte m a)) st _ rfl fun _ hz _ _ => (over_passed_written h).trans hz

/-- Everyone finds the other bytes as before. -/
theorem spmByte_shown_unwritten {m m' : Spm} {l : SpmBytes} {a : Nat} (hst : m'.stores = m.stores.map (·.passed l))
    (h : ∀ p ∈ l, p.1 ≠ a) (hb : spmByte m' a = spmByte m a) : spmByte m'.shown a = spmByte m.shown a := by
  rw [spmByte_shown, spmByte_shown, hst, List.foldl_map, hb]
  simp only [over_passed_other h]

/-! ### What an engine writes (R216, R234) -/

/-- What an engine writes at the offset stands there, if all that it writes there agrees. -/
theorem spmByte_engineWrite {m : Spm} {band : Band} {l : SpmBytes} {a : Nat} {v : Byte} (hv : ∀ p ∈ l, p.1 = a → p.2.1 = v)
    (hex : ∃ p ∈ l, p.1 = a) : spmByte (m.engineWrite band l) a = v := by
  have hstore (y : Byte) : (lineStore 0 band l (a / 256)).over a y = v := by
    rw [SpmStore.over, lineStore, if_pos rfl]
    refine byteAfter_agree (fun p hp hpa => ?_) ?_
    · obtain ⟨q, hq, rfl⟩ := List.mem_map.mp hp
      obtain ⟨hql, hqline⟩ := List.mem_filter.mp hq
      have hline : q.1 / 256 = a / 256 := beq_iff_eq.mp hqline
      have hoff : q.1 % 256 = a % 256 := hpa
      exact hv q hql (by omega)
    · obtain ⟨q, hq, rfl⟩ := hex
      exact ⟨_, List.mem_map_of_mem (List.mem_filter.mpr ⟨hq, beq_self_eq_true _⟩), rfl⟩
  have hfold (ks : List Nat) (m' : Spm) : spmByte (ks.foldl (fun m k => m.apply (lineStore 0 band l k)) m') a
      = if a / 256 ∈ ks then v else spmByte m' a := by
    induction ks generalizing m' with
    | nil => rfl
    | cons k t ih =>
      rw [List.foldl_cons, ih, spmByte_apply]
      by_cases hk : a / 256 = k
      · rw [← hk, hstore, ite_self, if_pos (List.mem_cons_self ..)]
      · have hline : ¬ (lineStore 0 band l k).line = a / 256 := Ne.symm hk
        rw [SpmStore.over, if_neg hline]
        simp only [List.mem_cons, hk, false_or]
  have hin : a / 256 ∈ linesOf l := by
    obtain ⟨p, hp, rfl⟩ := hex
    exact List.mem_eraseDups.mpr (List.mem_map_of_mem hp)
  exact (hfold (linesOf l) m).trans (if_pos hin)

end Sys2Proof.Machine
end

section
/-! SUPPORT. Basins in a window, and their events (12_tasks R337 to R339, R344): O45. -/
namespace Sys2Proof.Machine

/-! ### Basins in the window (R337 to R339) -/

/-- A field of a basin: its offset, its length in bytes, and its value (R337). -/
structure BasinField where
  off : Nat
  len : Nat
  val : Nat

def Basin.fields (b : Basin) : List BasinField :=
  [⟨0, 4, b.ph.toNat⟩, ⟨4, 2, b.exp.toNat⟩, ⟨6, 2, b.rem.toNat⟩, ⟨8, 2, b.nxa.toNat⟩, ⟨12, 4, b.bytes.toNat⟩]

/-- The bytes of a basin's fields, each with its offset in the basin. -/
def Basin.fieldBytes (b : Basin) : List (Nat × Byte) := b.fields.flatMap (fun f => (natBytes f.val f.len).zipIdx.map (fun x => (f.off + x.2, x.1)))

/-- The bytes that a write of a basin at offset o stores. -/
def Basin.stored (b : Basin) (o : Nat) : SpmBytes := b.fieldBytes.map (fun x => (o + x.1, x.2, false))

theorem writeBasin_eq (m : Spm) (o : Nat) (b : Basin) : writeBasin m o b = { m with
    lines := mset zeroSpmLine m.lines (o / 256) { spmLine m (o / 256) with
      bits := setLineBytes (spmLine m (o / 256)).bits (b.fieldBytes.map (fun x => (o % 256 + x.1, x.2))) }
    stores := m.stores.map (·.passed (b.stored o)) } := rfl

theorem Basin.fieldBytes_offsets (b : Basin) : b.fieldBytes.map (·.1) = List.range 10 ++ [12, 13, 14, 15] := rfl

section Written
variable {m : Spm} {o i : Nat} {b : Basin}

theorem spmByte_writeBasin (ho : o % 32 = 0) (hi : i < 32) :
    spmByte (writeBasin m o b) (o + i) = byteAfter (b.fieldBytes.map (fun x => (o % 256 + x.1, x.2))) (o % 256 + i) (spmByte m (o + i)) := by
  have hline : (o + i) / 256 = o / 256 := by omega
  have hat : (o + i) % 256 = o % 256 + i := by omega
  rw [writeBasin_eq, spmByte, spmByte, hline, hat, spmLine, mget_mset_same, lineByte_setLineBytes (by omega)]

theorem spmByte_writeBasin_field (ho : o % 32 = 0) {x : Nat × Byte} (hx : x ∈ b.fieldBytes) :
    spmByte (writeBasin m o b).shown (o + x.1) = x.2 := by
  have hoff : x.1 ∈ List.range 10 ++ [12, 13, 14, 15] := b.fieldBytes_offsets ▸ List.mem_map_of_mem hx
  have hlt : x.1 < 32 := by
    have : ∀ k ∈ List.range 10 ++ [12, 13, 14, 15], k < 32 := by decide
    exact this _ hoff
  have hnodup : (b.fieldBytes.map (·.1)).Nodup := by
    rw [b.fieldBytes_offsets]
    decide
  rw [spmByte_shown_written (l := b.stored o) rfl ⟨_, List.mem_map_of_mem hx, rfl⟩, spmByte_writeBasin ho hlt]
  refine byteAfter_agree (fun p hp e => ?_) ⟨_, List.mem_map_of_mem hx, rfl⟩
  obtain ⟨z, hz, rfl⟩ := List.mem_map.mp hp
  have hzx : z = x := List.inj_on_of_nodup_map hnodup hz hx (Nat.add_left_cancel e)
  rw [hzx]

theorem spmByte_writeBasin_reserved (ho : o % 32 = 0) (hi : i < 32) (hres : i ∉ List.range 10 ++ [12, 13, 14, 15]) :
    spmByte (writeBasin m o b).shown (o + i) = spmByte m.shown (o + i) := by
  have hne (x : Nat × Byte) (hx : x ∈ b.fieldBytes) : x.1 ≠ i := fun e => hres (e ▸ b.fieldBytes_offsets ▸ List.mem_map_of_mem hx)
  refine spmByte_shown_unwritten (l := b.stored o) rfl (fun p hp => ?_) ?_
  · obtain ⟨x, hx, rfl⟩ := List.mem_map.mp hp
    exact fun e => hne x hx (Nat.add_left_cancel e)
  · rw [spmByte_writeBasin ho hi]
    refine byteAfter_other fun p hp => ?_
    obtain ⟨x, hx, rfl⟩ := List.mem_map.mp hp
    exact fun e => hne x hx (Nat.add_left_cancel e)

/-- A number whose bytes stand in the window. -/
theorem spmNat_of_bytes {m : Spm} {o n x : Nat} (h : ∀ p ∈ (natBytes x n).zipIdx, spmByte m (o + p.2) = p.1) :
    spmNat m o n = x % 256 ^ n := by
  have hlist : (List.range n).map (fun i => spmByte m (o + i)) = natBytes x n := by
    refine List.ext_getElem (by simp) fun i hi hi' => ?_
    rw [List.getElem_map, List.getElem_range]
    exact h ((natBytes x n)[i], i) (List.mk_mem_zipIdx_iff_getElem?.mpr (List.getElem?_eq_getElem hi'))
  rw [spmNat, hlist, bytesNat_natBytes]

theorem spmNat_congr {m m' : Spm} {o n : Nat} (h : ∀ i, i < n → spmByte m' (o + i) = spmByte m (o + i)) : spmNat m' o n = spmNat m o n := by
  rw [spmNat, spmNat, List.map_congr_left fun i hi => h i (List.mem_range.mp hi)]

theorem spmNat_writeBasin_field (ho : o % 32 = 0) {f : BasinField} (hf : f ∈ b.fields) :
    spmNat (writeBasin m o b).shown (o + f.off) f.len = f.val % 256 ^ f.len := by
  refine spmNat_of_bytes fun p hp => ?_
  rw [Nat.add_assoc]
  exact spmByte_writeBasin_field ho (x := (f.off + p.2, p.1)) (List.mem_flatMap.mpr ⟨f, hf, List.mem_map_of_mem hp⟩)

/-- Reserved bytes keep their number. -/
theorem spmNat_writeBasin_reserved {f n : Nat} (ho : o % 32 = 0) (hn : f + n ≤ 32) (hf : 16 ≤ f ∨ 10 ≤ f ∧ f + n ≤ 12) :
    spmNat (writeBasin m o b).shown (o + f) n = spmNat m.shown (o + f) n := by
  refine spmNat_congr fun i hi => ?_
  rw [Nat.add_assoc]
  refine spmByte_writeBasin_reserved ho (by omega) ?_
  simp only [List.mem_append, List.mem_range, List.mem_cons, List.not_mem_nil, or_false]
  omega

/-- A field reads back the value written to it. -/
theorem ofNat_spmNat_writeBasin (ho : o % 32 = 0) {f : BasinField} (hf : f ∈ b.fields) {w : Nat} {x : BitVec w}
    (hw : 2 ^ w = 256 ^ f.len) (hx : f.val = x.toNat) : BitVec.ofNat w (spmNat (writeBasin m o b).shown (o + f.off) f.len) = x := by
  rw [spmNat_writeBasin_field ho hf, ← hw, hx, Nat.mod_eq_of_lt x.isLt, BitVec.ofNat_toNat, BitVec.setWidth_eq]

/-- A basin reads back what is written, but for its reserved bytes, which stay (R337). -/
theorem readBasin_writeBasin (ho : o % 32 = 0) : readBasin (writeBasin m o b) o = { b with rsv := (readBasin m o).rsv } := by
  have hph := ofNat_spmNat_writeBasin (m := m) (b := b) ho (f := ⟨0, 4, b.ph.toNat⟩) (by simp [Basin.fields]) rfl rfl
  have hexp := ofNat_spmNat_writeBasin (m := m) (b := b) ho (f := ⟨4, 2, b.exp.toNat⟩) (by simp [Basin.fields]) rfl rfl
  have hrem := ofNat_spmNat_writeBasin (m := m) (b := b) ho (f := ⟨6, 2, b.rem.toNat⟩) (by simp [Basin.fields]) rfl rfl
  have hnxa := ofNat_spmNat_writeBasin (m := m) (b := b) ho (f := ⟨8, 2, b.nxa.toNat⟩) (by simp [Basin.fields]) rfl rfl
  have hbytes := ofNat_spmNat_writeBasin (m := m) (b := b) ho (f := ⟨12, 4, b.bytes.toNat⟩) (by simp [Basin.fields]) rfl rfl
  rw [Nat.add_zero] at hph
  simp only [readBasin, hph, hexp, hrem, hnxa, hbytes, spmNat_writeBasin_reserved ho (show 10 + 2 ≤ 32 by decide) (by decide),
    spmNat_writeBasin_reserved ho (show 16 + 16 ≤ 32 by decide) (by decide)]

end Written

/-! ### The events of basins (R338, R339, R344) -/

theorem setBasin_ctx (s : State) (home : FeId) (o : Nat) (b : Basin) :
    (setBasin s home o b).ctx home = { s.ctx home with spm := writeBasin (s.ctx home).spm o b } := State.ctx_modCtx_same ..

/-- A basin that is set with its reserved bytes as they were reads so. -/
theorem readBasin_setBasin {s : State} {home : FeId} {o : Nat} {b : Basin} (ho : o % 32 = 0)
    (hrsv : b.rsv = (readBasin (s.ctx home).spm o).rsv) : readBasin ((setBasin s home o b).ctx home).spm o = b := by
  rw [setBasin_ctx, readBasin_writeBasin ho, ← hrsv]

theorem Basin.eval_eq (b : Basin) : b.eval = if b.rem = 0#16 ∧ b.bytes = 0#32
    then { b with ph := b.ph + 1#32, rem := b.exp - b.nxa, nxa := 0#16 } else b := by
  simp only [Basin.eval, Bool.and_eq_true, beq_iff_eq]

theorem Basin.eval_rsv (b : Basin) : b.eval.rsv = b.rsv := by
  unfold Basin.eval
  split <;> rfl

theorem Basin.update_rsv {b b' : Basin} {up : BasinUp} (h : b.update up = some b') : b'.rsv = b.rsv := by
  unfold Basin.update at h
  split at h
  · split_ifs at h <;> cases h <;> rfl
  · cases h; rfl
  · cases h; rfl

/-- The evaluation of a basin leaves it evaluated, and memory alone (R338). -/
theorem basinEvaluate_evaluates {s : State} {fe : FeId} {o : BitVec 21} {b : Basin} (hbound : isBound (s.ctx fe) = true)
    (ho : o.toNat % 32 = 0) (hsize : o.toNat + 32 ≤ (s.ctx fe).spm.size) (hb : readBasin (s.ctx fe).spm o.toNat = b) :
    ∃ t, exec (.basinEvaluate fe o) s = .next t ∧ SameMemory s t ∧ readBasin (t.ctx fe).spm o.toNat = b.eval := by
  subst hb
  have hexec : exec (.basinEvaluate fe o) s = .next (if (readBasin (s.ctx fe).spm o.toNat).eval = readBasin (s.ctx fe).spm o.toNat then s
      else setBasin s fe o.toNat (readBasin (s.ctx fe).spm o.toNat).eval) := if_pos ⟨hbound, ho, hsize⟩
  refine ⟨_, hexec, ?_⟩
  split
  next h => exact ⟨fun _ => rfl, h.symm⟩
  next h => exact ⟨fun _ => by rw [setBasin_mem], readBasin_setBasin ho (Basin.eval_rsv _)⟩

/-- An update whose checks hold sets the basin (R337, R339). -/
theorem applyBasin_sets {s : State} {m : BasinMsg} {b : Basin} (hbound : isBound (s.ctx m.home) = true)
    (hchecks : basinFault s m.src m.home m.off.toNat = none) (hup : (readBasin (s.ctx m.home).spm m.off.toNat).update m.up = some b) :
    applyBasin s m = setBasin s m.home m.off.toNat b := by
  simp only [applyBasin, hbound, hchecks, hup, Bool.not_true, Bool.false_eq_true, if_false]

/-- The oldest update of its issuer to a basin whose checks hold reaches it (R337, R344). -/
structure UpdateArrives (s : State) (idx : Nat) (m : BasinMsg) (b : Basin) : Prop where
  msg : s.basins[idx]? = some m
  oldest : ∀ y ∈ s.basins.take idx, ¬ (y.src = m.src ∧ y.home = m.home ∧ y.off = m.off)
  bound : isBound (s.ctx m.home) = true
  checks : basinFault s m.src m.home m.off.toNat = none
  aligned : m.off.toNat % 32 = 0
  reads : readBasin (s.ctx m.home).spm m.off.toNat = b

theorem UpdateArrives.eq {s : State} {idx : Nat} {m : BasinMsg} {b b' : Basin} {want : BasinUp → Bool} (h : UpdateArrives s idx m b)
    (hwant : want m.up = true) (hup : b.update m.up = some b') :
    arriveBasin s idx want = setBasin { s with basins := ldel s.basins idx } m.home m.off.toNat b' := by
  have holdest : (s.basins.take idx).all (fun x => !(x.src == m.src && x.home == m.home && x.off == m.off)) = true := by
    refine List.all_eq_true.mpr fun y hy => ?_
    simpa [imp_iff_not_or, or_assoc] using h.oldest y hy
  have hread : (readBasin (s.ctx m.home).spm m.off.toNat).update m.up = some b' := by rw [h.reads, hup]
  simp only [arriveBasin, h.msg, hwant, holdest, Bool.and_self, if_true]
  exact applyBasin_sets (s := { s with basins := ldel s.basins idx }) h.bound h.checks hread

/-- It is applied: the message is gone, the basin holds what the update gives, and memory stays (R339). -/
theorem UpdateArrives.applied {s : State} {idx : Nat} {m : BasinMsg} {b b' : Basin} {want : BasinUp → Bool} {i : Instr}
    (h : UpdateArrives s idx m b) (hexec : exec i s = .next (arriveBasin s idx want)) (hwant : want m.up = true)
    (hup : b.update m.up = some b') : ∃ t, exec i s = .next t ∧ t.basins = ldel s.basins idx ∧
      readBasin (t.ctx m.home).spm m.off.toNat = b' ∧ SameMemory s t := by
  refine ⟨_, hexec.trans (congrArg _ (h.eq hwant hup)), rfl, readBasin_setBasin h.aligned ?_, fun _ => by rw [setBasin_mem]⟩
  exact (Basin.update_rsv hup).trans (congrArg Basin.rsv h.reads.symm)

theorem Basin.update_arrive_rem {b : Basin} (h : b.rem ≠ 0#16) : b.update .arrive = some { b with rem := b.rem - 1#16 } :=
  if_pos (bne_iff_ne.mpr h)

theorem Basin.update_arrive_nxa {b : Basin} (h : b.rem = 0#16) (hnxa : b.nxa.toNat < b.exp.toNat) :
    b.update .arrive = some { b with nxa := b.nxa + 1#16 } :=
  (if_neg (by simp [h])).trans (if_pos (decide_eq_true hnxa))

end Sys2Proof.Machine
end

section
/-! SUPPORT. The data beats and the completion of copy commands (10_copy R277 to R290, 12_tasks R336): O45. -/
namespace Sys2Proof.Machine

/-! ### The completion of a copy (R283, R288) -/

section Complete
variable {s : State} {fe : FeId} {ch : Bool} {e : CopyEnt} {rest : List CopyEnt}

theorem modChan_ctx (u : State) (f : Chan → Chan) : (u.modChan fe ch f).ctx fe = (u.ctx fe).setChan ch (f ((u.ctx fe).chan ch)) :=
  State.ctx_modCtx_same ..

theorem chanDone_ctx (n : Word) : (chanDone s fe ch n).ctx fe = (doneNum s fe (chIdx ch) n).ctx fe := rfl

theorem chanDone_chan (n : Word) : ((chanDone s fe ch n).ctx fe).chan ch = (s.ctx fe).chan ch := by
  rw [chanDone_ctx, doneNum, State.ctx_modCtx_same]
  rfl

/-- A number that is recorded changes no translation. -/
theorem translate_chanDone (n ea : Word) (x : XUnit) : translate (chanDone s fe ch n) fe x ea = translate s fe x ea := by
  have hdeny : ((chanDone s fe ch n).ctx fe).deny = (s.ctx fe).deny := by rw [chanDone_ctx, doneNum, State.ctx_modCtx_same]
  unfold translate
  rw [hdeny, unitLeaves_of_cores (s := s) (t := chanDone s fe ch n) rfl]

theorem fabricOpen_chanDone (n : Word) : fabricOpen (chanDone s fe ch n) fe = fabricOpen s fe := by
  unfold fabricOpen
  rw [chanDone_ctx, doneNum, State.ctx_modCtx_same]
  rfl

/-- A copy command that has ended, at the head of a channel of a bound context. -/
structure CopyEnds (s : State) (fe : FeId) (ch : Bool) (e : CopyEnt) (rest : List CopyEnt) : Prop where
  queue : ((s.ctx fe).chan ch).queue = e :: rest
  bound : isBound (s.ctx fe) = true
  runs : ((s.ctx fe).chan ch).parked = none
  ended : ((s.ctx fe).chan ch).headDone = true ∨ e.empty = true ∧ (s.ctx fe).resting = false

/-- It completes once its signal is decremented. -/
theorem CopyEnds.completes {t : State} {csp : CSpace × CSpace} {carry : Option (Word × List Byte)} {built : List LineBuild}
    (h : CopyEnds s fe ch e rest) (hsig : copySignal (chanDone s fe ch e.num) fe ch e = .ok t csp carry built) :
    exec (.copyComplete fe ch) s = .next (t.modChan fe ch Chan.pop) := by
  have hended : (((s.ctx fe).chan ch).headDone || (e.empty && !(s.ctx fe).resting)) = true := by
    simpa using h.ended
  change execCopyComplete fe ch s = _
  simp only [execCopyComplete, h.queue, h.bound, h.runs, hended, hsig]
  rfl

/-- The entry is freed and its number recorded (R264, R288). -/
theorem CopyEnds.frees {t : State} (h : CopyEnds s fe ch e rest) (hctx : t.ctx fe = (chanDone s fe ch e.num).ctx fe) :
    (((t.modChan fe ch Chan.pop).ctx fe).chan ch).queue = rest ∧
    (((t.modChan fe ch Chan.pop).ctx fe).timeline (chIdx ch)).done = e.num := by
  constructor
  · rw [modChan_ctx, chan_setChan_same, hctx, chanDone_chan, Chan.pop, h.queue, List.tail_cons]
  · have htl (c : Ctx) (x : Chan) (i : BitVec 2) : (c.setChan ch x).timeline i = c.timeline i := rfl
    rw [modChan_ctx, htl, hctx, chanDone_ctx, doneNum_timeline]

theorem copySignal_unsignalled (h : e.sig = false) : copySignal s fe ch e = .ok s (.other, .other) none [] := by
  rw [copySignal, h]
  rfl

/-- A signal in memory that nothing holds up is decremented (R283, R336), whatever the poison of its line (assumption log 35). -/
theorem copySignal_decrements {l : Leaf} (hsig : e.sig = true) (hx : translate s fe (.chan ch) e.st.rsig = .ok l) (hw : l.w = true)
    (hcls : l.cls ≠ 0#2) (hpage : l.page63 e.st.rsig = false) (hopen : fabricOpen s fe = true)
    (hstall : stalledRead s (l.keyOf e.st.rsig) = false) (hcount : 1 ≤ (s.word8 (l.keyOf e.st.rsig)).toNat % 2 ^ 48) :
    ∃ t, copySignal s fe ch e = .ok t (.other, .other) none [] ∧ t.ctx fe = s.ctx fe ∧
      t.word8 (l.keyOf e.st.rsig) = s.word8 (l.keyOf e.st.rsig) - 1#64 := by
  refine ⟨decSignal s (agentChan fe ch) (if l.cls = 1#2 then 2#2 else 3#2) [(agentChan fe ch, s.stamp)] (l.keyOf e.st.rsig)
    (signalDec (s.word8 (l.keyOf e.st.rsig)) 1 0#8), ?_, rfl, ?_⟩
  · simp [copySignal, hsig, hx, hw, hcls, hpage, hopen, hstall]
  · rw [decSignal_word8, signalDec_one hcount]

end Complete

/-! ### Where a data beat lands (R277, R278) -/

/-- The bytes that a copy writes through change nothing but memory, the clusters' caches and their marks. -/
theorem copyWriteBytes_memorySide (s : State) (fe : FeId) (lf : Leaf) (k : Nat) (l : List Byte) :
    MemorySideDiffers s (copyWriteBytes s fe lf k l) := by
  induction l generalizing s k with
  | nil => exact .refl s
  | cons b t ih =>
    unfold copyWriteBytes
    split_ifs
    · exact ih ..
    · refine .trans (.trans ?_ (marksDiffer_mediaWritten ..).memorySide) (ih ..)
      rfl

/-- A byte that is written through. -/
theorem copyWriteBytes_cons (s : State) (fe : FeId) (lf : Leaf) (k : Nat) (b : Byte) (t : List Byte) :
    ∃ u, MemorySideDiffers s u ∧ copyWriteBytes s fe lf k (b :: t) = copyWriteBytes u fe lf (k + 1) t ∧
      u.mem = if lf.crcByte k || (poolKey k && poolDead s) then s.mem else memWrite s.mem k b := by
  rw [copyWriteBytes]
  split
  · exact ⟨s, .refl s, rfl, rfl⟩
  · refine ⟨_, .trans ?_ (marksDiffer_mediaWritten ..).memorySide, rfl, mediaWritten_mem⟩
    rfl

theorem memRead_copyWriteBytes_outside {s : State} {fe : FeId} {lf : Leaf} {k a : Nat} {l : List Byte} (h : a < k ∨ k + l.length ≤ a) :
    memRead (copyWriteBytes s fe lf k l).mem a = memRead s.mem a := by
  induction l generalizing s k with
  | nil => rfl
  | cons b t ih =>
    obtain ⟨u, -, heq, hmem⟩ := copyWriteBytes_cons s fe lf k b t
    rw [List.length_cons] at h
    rw [heq, ih (by omega), hmem]
    split
    · rfl
    · exact memRead_memWrite_other _ _ (by omega)

/-- A byte whose pool lives and that is no CRC byte reaches memory. -/
theorem memRead_copyWriteBytes_at {s : State} {fe : FeId} {lf : Leaf} {k j : Nat} {l : List Byte} {b : Byte} (hj : l[j]? = some b)
    (hcrc : lf.crcByte (k + j) = false) (hpool : (poolKey (k + j) && poolDead s) = false) :
    memRead (copyWriteBytes s fe lf k l).mem (k + j) = b := by
  induction l generalizing s k j with
  | nil => cases hj
  | cons x t ih =>
    obtain ⟨u, hside, heq, hmem⟩ := copyWriteBytes_cons s fe lf k x t
    rw [heq]
    cases j with
    | zero =>
      cases hj
      rw [Nat.add_zero] at hcrc hpool ⊢
      rw [memRead_copyWriteBytes_outside (by omega), hmem, hcrc, hpool]
      exact memRead_memWrite_same ..
    | succ j =>
      have hdead : poolDead u = poolDead s := by rw [poolDead, hside.eq, poolDead]
      rw [← Nat.add_assoc, Nat.add_right_comm] at hcrc hpool ⊢
      exact ih hj hcrc (hdead ▸ hpool)

section Memory
variable {s : State} {fe : FeId} {ch : Bool} {l : Leaf} {key : Nat} {e : Band} {bytes : List Byte} {poison form : Bool}
  (hgone : hostGone s key = false)
include hgone

/-- A beat for memory whose host is there writes its bytes through (R277). -/
theorem landBeat_mem : ∃ u, MarksDiffer s u ∧ (landBeat s fe ch (.mem l key) e bytes poison form).mem = (copyWriteBytes u fe l key bytes).mem ∧
    MemorySideDiffers s (landBeat s fe ch (.mem l key) e bytes poison form) := by
  simp only [landBeat, hgone, Bool.false_eq_true, if_false]
  refine ⟨_, marksDiffer_recordStore .., performPoison_mem, ?_⟩
  refine MemorySideDiffers.trans (((marksDiffer_recordStore s ..).memorySide.trans (copyWriteBytes_memorySide ..)).trans
    (marksDiffer_performPoison ..).memorySide) rfl

theorem memRead_landBeat_at {j : Nat} {b : Byte} (hj : bytes[j]? = some b) (hcrc : l.crcByte (key + j) = false)
    (hpool : (poolKey (key + j) && poolDead s) = false) :
    memRead (landBeat s fe ch (.mem l key) e bytes poison form).mem (key + j) = b := by
  obtain ⟨u, hu, hmem, -⟩ := landBeat_mem (fe := fe) (ch := ch) (l := l) (e := e) (bytes := bytes) (poison := poison) (form := form) hgone
  have hdead : poolDead u = poolDead s := by rw [poolDead, hu.hw, poolDead]
  rw [hmem]
  exact memRead_copyWriteBytes_at hj hcrc (hdead ▸ hpool)

theorem memRead_landBeat_outside {a : Nat} (h : a < key ∨ key + bytes.length ≤ a) :
    memRead (landBeat s fe ch (.mem l key) e bytes poison form).mem a = memRead s.mem a := by
  obtain ⟨u, hu, hmem, -⟩ := landBeat_mem (fe := fe) (ch := ch) (l := l) (e := e) (bytes := bytes) (poison := poison) (form := form) hgone
  rw [hmem, memRead_copyWriteBytes_outside h, hu.mem]

end Memory

/-! ### A beat into a window (R216, R265) -/

/-- The form bit of a line says nothing about its bytes. -/
theorem spmByte_withForm (m : Spm) (k : Nat) (form : Bool) (a : Nat) : spmByte { m with
    lines := mset zeroSpmLine m.lines k { spmLine m k with form := form } } a = spmByte m a := by
  by_cases h : a / 256 = k
  · rw [spmByte, spmByte, spmLine, h, mget_mset_same]
  · rw [spmByte, spmByte, spmLine, mget_mset_other _ _ _ h, spmLine]

/-- A beat for a window leaves its bytes there. -/
theorem spmByte_landBeat {s : State} {fe home : FeId} {ch : Bool} {o j : Nat} {e : Band} {bytes : List Byte} {poison form : Bool} {b : Byte}
    (hj : bytes[j]? = some b) : spmByte ((landBeat s fe ch (.spm home o) e bytes poison form).ctx home).spm (o + j) = b := by
  rw [landBeat, State.ctx_modCtx_same]
  refine (spmByte_withForm ..).trans (spmByte_engineWrite (fun p hp hpa => ?_) ?_)
  · obtain ⟨q, hq, rfl⟩ := List.mem_map.mp hp
    have hqj : q.2 = j := Nat.add_left_cancel hpa
    have hqb : bytes[q.2]? = some q.1 := List.mem_zipIdx_iff_getElem?.mp hq
    rw [hqj, hj] at hqb
    exact (Option.some.inj hqb).symm
  · exact ⟨_, List.mem_map_of_mem (List.mk_mem_zipIdx_iff_getElem?.mpr hj), rfl⟩

/-! ### What a read of the source leaves as it is (R321 to R324) -/

/-- A fill keeps the host links, the live pool heads, and the engines and the window of every context. -/
structure FillKeeps (s t : State) : Prop where
  links : t.links = s.links
  heads : t.hw.heads = s.hw.heads
  eng (g : FeId) : (t.ctx g).eng = (s.ctx g).eng
  spm (g : FeId) : (t.ctx g).spm = (s.ctx g).spm

theorem FillKeeps.refl (s : State) : FillKeeps s s := ⟨rfl, rfl, fun _ => rfl, fun _ => rfl⟩
theorem FillKeeps.trans {s t u : State} (h : FillKeeps s t) (h' : FillKeeps t u) : FillKeeps s u :=
  ⟨h'.links.trans h.links, h'.heads.trans h.heads, fun g => (h'.eng g).trans (h.eng g), fun g => (h'.spm g).trans (h.spm g)⟩

theorem fillKeeps_modCtx {s : State} {fe : FeId} {f : Ctx → Ctx} (heng : ∀ c, (f c).eng = c.eng) (hspm : ∀ c, (f c).spm = c.spm) :
    FillKeeps s (s.modCtx fe f) := by
  have hctx (g : FeId) : (s.modCtx fe f).ctx g = f (s.ctx g) ∨ (s.modCtx fe f).ctx g = s.ctx g := by
    rw [State.ctx_modCtx]
    split
    next h => exact .inl (h ▸ rfl)
    · exact .inr rfl
  exact ⟨rfl, rfl, fun g => (hctx g).elim (fun h => by rw [h, heng]) fun h => by rw [h],
    fun g => (hctx g).elim (fun h => by rw [h, hspm]) fun h => by rw [h]⟩

theorem fillKeeps_mediaEvents (s : State) (src : BitVec 16) (line : Nat) (e : MediaErr) : FillKeeps s (mediaEvents s src line e) := by
  refine List.foldlRecOn e.events _ (.refl s) fun t ht c _ => ht.trans ⟨?_, ?_, fun g => ?_, fun g => ?_⟩
  · unfold State.traceEv
    split_ifs <;> rfl
  · unfold State.traceEv
    split_ifs <;> rfl
  · rw [traceEv_ctx, State.countError_ctx]
  · rw [traceEv_ctx, State.countError_ctx]

theorem fillKeeps_fillLine (s : State) (fe : FeId) (l : Leaf) (k : Nat) : FillKeeps s (fillLine s fe l k) := by
  unfold fillLine
  split
  · exact .refl s
  · split
    · exact .refl s
    next e _ =>
      split
      · exact .refl s
      · refine FillKeeps.trans ?_ (fillKeeps_mediaEvents ..)
        refine FillKeeps.trans (t := { s with media := pset s.media (k / 64) e, filled := _ }) ⟨rfl, rfl, fun _ => rfl, fun _ => rfl⟩
          (fillKeeps_modCtx (fun _ => rfl) fun _ => rfl)

theorem fillKeeps_fill (s : State) (fe : FeId) (p : CLoc) : FillKeeps s (p.fill s fe) := by
  cases p with
  | mem l key => exact fillKeeps_fillLine ..
  | spm | miss | bad => exact .refl s

theorem FillKeeps.hostGone {s t : State} (h : FillKeeps s t) (k : Nat) : hostGone t k = hostGone s k := by
  unfold Machine.hostGone portLink
  rw [h.links]

theorem FillKeeps.poolDead {s t : State} (h : FillKeeps s t) : poolDead t = poolDead s := by
  rw [Machine.poolDead, h.heads, Machine.poolDead]

theorem FillKeeps.dstBand {s t : State} (h : FillKeeps s t) (d : CLoc) : dstBand t d = dstBand s d := by
  cases d with
  | spm home o => rw [Machine.dstBand, h.spm, Machine.dstBand]
  | mem | miss | bad => rfl

/-! ### The bytes of a beat (R253, R278) -/

/-- A place of memory or of a window. -/
def CLoc.known (p : CLoc) : Prop := (∃ h k, p = .spm h k) ∨ ∃ a k, p = .mem a k

theorem length_readPiece_bytes {s : State} {fe : FeId} {seq n : Nat} {p : CLoc} (h : p.known) :
    (readPiece s fe seq n p).bytes.length = n := by
  obtain ⟨g, k, rfl⟩ | ⟨l, k, rfl⟩ := h
  · simp [readPiece, spmSource]
  · simp [readPiece, leafBytes_eq]

/-- The bytes taken from the carried unit stand for as many of the source's. -/
theorem length_carried {carry : Option (Word × List Byte)} {a : Word} {bytes : List Byte} (h : ∀ u l, carry = some (u, l) → l.length = 8) :
    (carried carry a bytes).length = bytes.length := by
  cases carry with
  | none => rfl
  | some c =>
    obtain ⟨u, l⟩ := c
    have hl := h u l rfl
    simp only [carried]
    split
    · simp only [List.length_append, List.length_take, List.length_drop, hl]
      omega
    · rfl

/-! ### A data beat that nothing holds up (R278, R284, R290) -/

/-- The places of the source and the destination of a channel's next beat, and its length. -/
def Chan.srcAt (x : Chan) (e : CopyEnt) : Word := (e.addrs x.idx).1 + BitVec.ofNat 64 x.off.toNat
def Chan.dstAt (x : Chan) (e : CopyEnt) : Word := (e.addrs x.idx).2 + BitVec.ofNat 64 x.off.toNat
def Chan.len (x : Chan) (e : CopyEnt) : Nat := beatLen e (e.addrs x.idx).2 x.off.toNat
/-- What the beat reads, and the bytes that it carries over. -/
def beatPiece (s : State) (fe : FeId) (x : Chan) (e : CopyEnt) (ls : CLoc) : SrcPiece := readPiece s fe e.seq (x.len e) ls
def beatBytes (s : State) (fe : FeId) (x : Chan) (e : CopyEnt) (ls : CLoc) : List Byte :=
  carried x.carry (x.srcAt e) (beatPiece s fe x e ls).bytes

/-- The state in which the beat has landed and the channel has not gone on; `form` is the form bit of the line written. -/
def beatLanded (s : State) (fe : FeId) (ch : Bool) (x : Chan) (e : CopyEnt) (ls ld : CLoc) (band : Band) (form : Bool) : State :=
  landBeat (ls.fill s fe) fe ch ld band (beatBytes s fe x e ls) false form

/-- The next beat of a copy without add or charge goes from one known place to another, and nothing holds it up or stops it. -/
structure BeatFlows (s : State) (fe : FeId) (ch : Bool) (x : Chan) (e : CopyEnt) (ls ld : CLoc) (band : Band) : Prop where
  chan : (s.ctx fe).chan ch = x
  queue : ∃ rest, x.queue = e :: rest
  runs : chanRuns (s.ctx fe) x = true
  nonempty : e.empty = false
  uncharged : e.chg = false
  plain : e.add = 0#3
  onePiece : cutPieces 0 (x.srcAt e) (x.len e) 3 = [⟨0, x.srcAt e, x.len e⟩]
  source : copyLoc s fe ch (x.srcAt e) (x.len e) false = ls
  dest : copyLoc s fe ch (x.dstAt e) (x.len e) true = ld
  knownSource : ls.known
  knownDest : ld.known
  spaces : x.off = 0#32 ∨ x.csp = some (ls.space, ld.space)
  noCistern : ld.space ≠ .cistern
  noRefresh : cisternWaits s ls = false
  sourceFree : locStalls s false ls = false
  destFree : locStalls s true ld = false
  bands : bandOf [exportBand (beatPiece s fe x e ls)] = some band
  exports : exportFault band (dstBand s ld) ld.isMem = none
  clean : (beatPiece s fe x e ls).poison = false
  alive : ls.dead s fe = false
  slot : fabricOpen s fe = true
  ordered : ownPending s fe e.seq ls.lines ld.lines = false
  unit : ∀ u b, x.carry = some (u, b) → b.length = 8

theorem beatBody_lands {s : State} {fe : FeId} {ch : Bool} {e : CopyEnt} {src dst : Word} {off n : Nat} {csp : CSpace × CSpace} {p : SrcPiece}
    {ls ld : CLoc} {x : Chan} {band : Band} (hadd : e.add = 0#3) (hband : bandOf [exportBand p] = some band)
    (hexport : exportFault band (dstBand s ld) ld.isMem = none) (hclean : p.poison = false) :
    ∃ form carry built, beatBody s fe ch e src dst off n false csp [p] [ls] ld x
      = .ok (landBeat s fe ch ld band (carried x.carry (src + BitVec.ofNat 64 off) p.bytes) false form) csp carry built := by
  have hfail : (false || [p].any (·.poison)) = false := by simp [hclean]
  have hbands : bandOf ([p].map exportBand) = some band := hband
  have hbytes : [p].flatMap (·.bytes) = p.bytes := by simp
  simp only [beatBody, hadd, hbands, hexport, hfail, hbytes, bne_self_eq_false, Bool.false_and, Bool.or_false, Bool.false_eq_true, if_false]
  exact ⟨_, _, _, rfl⟩

/-- A search for what no known place has finds nothing in two of them. -/
theorem findSome?_known {β : Type} {f : Word × CLoc → Option β} {a b : Word} {p q : CLoc} (hp : p.known) (hq : q.known)
    (hf : ∀ a r, CLoc.known r → f (a, r) = none) : [(a, p), (b, q)].findSome? f = none := by
  rw [List.findSome?_cons, hf a p hp, List.findSome?_cons, hf b q hq, List.findSome?_nil]

section Beat
variable {s : State} {fe : FeId} {ch : Bool} {x : Chan} {e : CopyEnt} {ls ld : CLoc} {band : Band}

theorem BeatFlows.lands (h : BeatFlows s fe ch x e ls ld band) : ∃ form carry built, dataBeat s fe ch x e false
      = .ok (beatLanded s fe ch x e ls ld band form) (ls.space, ld.space) carry built := by
  obtain ⟨form, carry, built, hbody⟩ := beatBody_lands (s := ls.fill s fe) (fe := fe) (ch := ch) (src := (e.addrs x.idx).1)
    (dst := (e.addrs x.idx).2) (off := x.off.toNat) (n := x.len e) (csp := (ls.space, ld.space)) (ls := ls) (x := x) h.plain h.bands
    ((fillKeeps_fill s fe ls).dstBand ld ▸ h.exports) h.clean
  refine ⟨form, carry, built, ?_⟩
  have hspaces : (if x.off.toNat = 0 then (ls.space, ld.space) else x.csp.getD (ls.space, ld.space)) = (ls.space, ld.space) := by
    rcases h.spaces with hoff | hcsp
    · rw [hoff]; rfl
    · rw [hcsp, Option.getD_some, ite_self]
  have hcut := h.onePiece
  have hsrc := h.source
  have hdst := h.dest
  simp only [Chan.srcAt, Chan.dstAt, Chan.len] at hcut hsrc hdst hbody
  rw [dataBeat]
  simp only [hcut, hsrc, hdst, List.map_cons, List.map_nil, List.cons_append, List.nil_append]
  rw [findSome?_known h.knownSource h.knownDest fun _ _ hp => ?bad, findSome?_known h.knownSource h.knownDest fun _ _ hp => ?miss]
  case bad => rcases hp with ⟨_, _, rfl⟩ | ⟨_, _, rfl⟩ <;> rfl
  case miss => rcases hp with ⟨_, _, rfl⟩ | ⟨_, _, rfl⟩ <;> rfl
  simp only [List.headD_cons, hspaces, h.plain, h.noCistern, h.noRefresh, h.sourceFree, h.destFree, h.slot, h.ordered, h.alive,
    bne_self_eq_false, beq_iff_eq, List.any_cons, List.any_nil, List.flatMap_cons, List.flatMap_nil, List.append_nil, List.foldl_cons,
    List.foldl_nil, Bool.or_self, Bool.not_true, Bool.false_eq_true, not_false_eq_true, if_false, List.find?_cons_of_neg, List.find?_nil]
  exact hbody

/-- What a channel keeps beside its place in the command does not say where it goes on. -/
theorem advance_with (x : Chan) (e : CopyEnt) (n : Nat) (csp : CSpace × CSpace) (carry : Option (Word × List Byte)) (built : List LineBuild) :
    ({ x with carry := carry, built := built } : Chan).advance e n csp = { x.advance e n csp with carry := carry, built := built } := by
  unfold Chan.advance
  dsimp only
  split
  · rfl
  · split <;> rfl

/-- The channel y has gone on from x by a beat of n bytes (R278, R284). -/
def GoesOn (x : Chan) (e : CopyEnt) (n : Nat) (csp : CSpace × CSpace) (y : Chan) : Prop :=
  y = { x.advance e n csp with carry := y.carry, built := y.built }

/-- The beat lands, and the channel of its context goes on. -/
theorem BeatFlows.beat (h : BeatFlows s fe ch x e ls ld band)
    (heng : ∀ form, ((beatLanded s fe ch x e ls ld band form).ctx fe).eng = (s.ctx fe).eng) :
    ∃ form t, exec (.copyDataBeat fe ch false) s = .next t ∧
      t.mem = (beatLanded s fe ch x e ls ld band form).mem ∧
      (∀ g, (t.ctx g).spm = ((beatLanded s fe ch x e ls ld band form).ctx g).spm) ∧
      GoesOn x e (x.len e) (ls.space, ld.space) ((t.ctx fe).chan ch) := by
  obtain ⟨form, carry, built, hbeat⟩ := h.lands
  obtain ⟨rest, hqueue⟩ := h.queue
  refine ⟨form, (beatLanded s fe ch x e ls ld band form).modChan fe ch
    (fun y => { y with carry := carry, built := built }.advance e (x.len e) (ls.space, ld.space)), ?_, rfl, fun g => ?_, ?_⟩
  · change execCopyDataBeat fe ch false s = _
    simp only [execCopyDataBeat, h.chan, hqueue, h.runs, h.nonempty, hbeat, chargeBeat, h.uncharged]
    rfl
  · rw [State.modChan, State.ctx_modCtx]
    split
    next hg => rw [hg]; rfl
    · rfl
  · have hchan : ((beatLanded s fe ch x e ls ld band form).ctx fe).chan ch = x := by
      rw [Ctx.chan, heng, ← h.chan, Ctx.chan]
    rw [modChan_ctx, chan_setChan_same, hchan, advance_with]
    rfl

/-- A beat carries over as many bytes as it is long. -/
theorem BeatFlows.length (h : BeatFlows s fe ch x e ls ld band) : (beatBytes s fe x e ls).length = x.len e :=
  (length_carried h.unit).trans (length_readPiece_bytes h.knownSource)

theorem BeatFlows.byte (h : BeatFlows s fe ch x e ls ld band) {j : Nat} (hj : j < x.len e) :
    (beatBytes s fe x e ls)[j]? = some ((beatBytes s fe x e ls).getD j 0#8) := by
  rw [List.getD_eq_getElem?_getD, List.getElem?_eq_getElem (h.length.symm ▸ hj), Option.getD_some]

/-- A beat for memory (R277): its bytes reach memory, but for CRC bytes, and every other byte stays. -/
theorem BeatFlows.toMemory {l : Leaf} {k : Nat} (h : BeatFlows s fe ch x e ls (.mem l k) band) (hgone : hostGone s k = false)
    (hpool : ∀ j, j < x.len e → (poolKey (k + j) && poolDead s) = false) :
    ∃ t, exec (.copyDataBeat fe ch false) s = .next t ∧
      (∀ j, j < x.len e → l.crcByte (k + j) = false → memRead t.mem (k + j) = (beatBytes s fe x e ls).getD j 0#8) ∧
      (∀ j, (j < k ∨ k + x.len e ≤ j) → memRead t.mem j = memRead (ls.fill s fe).mem j) ∧
      GoesOn x e (x.len e) (ls.space, (CLoc.mem l k).space) ((t.ctx fe).chan ch) := by
  have hfill := fillKeeps_fill s fe ls
  have hgone' : hostGone (ls.fill s fe) k = false := (hfill.hostGone k).trans hgone
  obtain ⟨form, t, hexec, hmem, -, hon⟩ := h.beat fun form => by
    obtain ⟨-, -, -, hside⟩ := landBeat_mem (fe := fe) (ch := ch) (l := l) (e := band) (bytes := beatBytes s fe x e ls) (poison := false)
      (form := form) hgone'
    rw [beatLanded, hside.ctx, hfill.eng]
  refine ⟨t, hexec, fun j hj hcrc => ?_, fun j hj => ?_, hon⟩
  · rw [hmem]
    exact memRead_landBeat_at hgone' (h.byte hj) hcrc (hfill.poolDead ▸ hpool j hj)
  · rw [hmem]
    exact memRead_landBeat_outside hgone' (h.length.symm ▸ hj)

/-- A beat for a window: its bytes stand there, and memory is as the read of the source left it. -/
theorem BeatFlows.toWindow {home : FeId} {k : Nat} (h : BeatFlows s fe ch x e ls (.spm home k) band) :
    ∃ t, exec (.copyDataBeat fe ch false) s = .next t ∧
      (∀ j, j < x.len e → spmByte (t.ctx home).spm (k + j) = (beatBytes s fe x e ls).getD j 0#8) ∧ SameMemory (ls.fill s fe) t ∧
      GoesOn x e (x.len e) (ls.space, (CLoc.spm home k).space) ((t.ctx fe).chan ch) := by
  obtain ⟨form, t, hexec, hmem, hspm, hon⟩ := h.beat fun form => by
    rw [beatLanded, landBeat, State.ctx_modCtx]
    split
    next hg => rw [← hg]; exact (fillKeeps_fill s fe ls).eng fe
    · exact (fillKeeps_fill s fe ls).eng fe
  refine ⟨t, hexec, fun j hj => ?_, fun a => by rw [hmem]; rfl, hon⟩
  rw [hspm]
  exact spmByte_landBeat (h.byte hj)

end Beat

/-- Settles O45: a beat that nothing holds up lands (`BeatFlows.toMemory`, `BeatFlows.toWindow`), a copy that has ended completes with
its signal (`CopyEnds.completes`), an update whose checks hold is applied (`UpdateArrives.applied`), and a basin is evaluated
(`basinEvaluate_evaluates`). -/
theorem copyAndBasinEventsAct : Obligations.CopyAndBasinEventsAct := by
  unfold Obligations.CopyAndBasinEventsAct
  intro s fe ch e rest ea ls ld band l idx m b o c x src dst n piece bytes on
  refine ⟨fun hqueue hbound hparked => ⟨?beat, fun hended => ?complete⟩, ?update, ?evaluate⟩
  case beat =>
    intro hdone hresting hsilent hempty hadd hchg hcut hls hld hsource hspaces hcistern hrefresh hreads hwrites hband hexport hclean halive
      hopen hordered hunit
    have hruns : chanRuns c x = true := by simp [chanRuns, hbound, hparked, hdone, hresting, hsilent]
    have flows (hknown : ld.known) : BeatFlows s fe ch x e ls ld band :=
      ⟨rfl, ⟨rest, hqueue⟩, hruns, hempty, hchg, hadd, hcut, hls, hld, hsource, hknown, hspaces, hcistern, hrefresh, hreads, hwrites, hband,
        hexport, hclean, halive, hopen, hordered, hunit⟩
    refine ⟨fun a k hmem hgone hpool => ?_, fun h k hspm _ => ?_⟩
    · subst hmem
      exact (flows (.inr ⟨a, k, rfl⟩)).toMemory hgone hpool
    · subst hspm
      exact (flows (.inl ⟨h, k, rfl⟩)).toWindow
  case complete =>
    have hends : CopyEnds s fe ch e rest := ⟨hqueue, hbound, hparked, hended⟩
    refine ⟨fun hsig => ?_, fun hsig hx hw hcls hpage hopen hstall hcount => ?_⟩
    · obtain ⟨hrest, hnum⟩ := hends.frees rfl
      exact ⟨_, hends.completes (copySignal_unsignalled hsig), hrest, hnum, fun _ => rfl⟩
    · obtain ⟨t, hdec, hctx, hword⟩ := copySignal_decrements (s := chanDone s fe ch e.num) hsig ((translate_chanDone ..).trans hx) hw hcls
        hpage ((fabricOpen_chanDone ..).trans hopen) hstall hcount
      obtain ⟨hrest, hnum⟩ := hends.frees hctx
      exact ⟨_, hends.completes hdec, hrest, hnum, hword⟩
  case update =>
    intro hmsg holdest hhome hchecks haligned hread applied
    have harrives : UpdateArrives s idx.toNat m b := ⟨hmsg, holdest, hhome, hchecks, haligned, hread⟩
    refine ⟨fun hup hrem => ?_, fun hup hrem hnxa => ?_, fun v hup => ?_, fun v hup => ?_⟩
    · exact harrives.applied (want := isArrive) rfl (by rw [hup]; rfl) (hup ▸ Basin.update_arrive_rem hrem)
    · exact harrives.applied (want := isArrive) rfl (by rw [hup]; rfl) (hup ▸ Basin.update_arrive_nxa hrem hnxa)
    · exact harrives.applied (want := isExpect) rfl (by rw [hup]; rfl) (hup ▸ rfl)
    · exact harrives.applied (want := isCharge) rfl (by rw [hup]; rfl) (hup ▸ rfl)
  case evaluate =>
    intro hbound haligned hsize hread
    rw [← Basin.eval_eq]
    exact basinEvaluate_evaluates hbound haligned hsize hread

end Sys2Proof.Machine
end

section
/-! SUPPORT. The softmax state unit: rows, groups, and what its ops do (11_attention R311 to R318): O14. -/
namespace Sys2Proof.Machine

/-! ### Rows and groups (R311) -/

/-- A row after a write of it. -/
theorem Softmax.row_setRow_same {u : Softmax} {x : Nat} (r : SmRow) (hx : x < 64) : (u.setRow x r).row x = r := by
  simp [Softmax.row, Softmax.setRow, hx]

theorem Softmax.length_members_le (u : Softmax) (g : BitVec 6) : (u.members g).length ≤ 64 :=
  (List.length_filter_le ..).trans_eq List.length_range

theorem Softmax.row_init (u : Softmax) (row n : Nat) {i : Nat} (hi : i < 64) :
    (u.init row n).row i =
      if row ≤ i ∧ i ≤ row + n then { SmRow.reset i with grp := BitVec.ofNat 6 row }
      else if (u.overlapped row n).contains (u.row i).grp then SmRow.reset i
      else u.row i := by
  simp [Softmax.row, Softmax.init, hi]

/-- The groups of slots ROW to ROW + n. -/
theorem Softmax.contains_overlapped {u : Softmax} {row n : Nat} {g : BitVec 6} :
    (u.overlapped row n).contains g = true ↔ ∃ j, row ≤ j ∧ j ≤ row + n ∧ (u.row j).grp = g := by
  simp only [List.contains_iff_mem, Softmax.overlapped, List.mem_map, List.mem_range]
  constructor
  · rintro ⟨k, hk, hg⟩
    exact ⟨row + k, by omega, by omega, hg⟩
  · rintro ⟨j, hlo, hhi, hg⟩
    exact ⟨j - row, by omega, by rwa [Nat.add_sub_cancel' hlo]⟩

/-- A step gives each score its weight. -/
theorem Softmax.length_step (u : Softmax) (rm : Rm) (row : BitVec 6) (scores : List XV) :
    (u.step rm row scores).2.length = scores.length := by
  unfold Softmax.step
  dsimp only
  split <;> simp

/-- Pops leave the softmax unit alone. -/
theorem popStream_softmax (c : Ctx) (n : BitVec 3) (keep : Bool) (fuel : Nat) :
    (popStream c n keep fuel).regs.softmax = c.regs.softmax := by
  have hflags (c : Ctx) (nan ovf : Bool) : (applyRegWs c (flagWrites nan ovf)).regs.softmax = c.regs.softmax := by
    unfold flagWrites
    split <;> rfl
  induction fuel generalizing c n keep with
  | zero => rfl
  | succ fuel ih =>
    unfold popStream
    dsimp only
    split
    · rfl
    · split
      · split
        · exact (ih ..).trans (hflags ..)
        · exact hflags ..
      · exact hflags ..

theorem popped_softmax (s : State) (srcs : List VSrc) : ((s.popped srcs).ctx s.cur).regs.softmax = s.here.regs.softmax := by
  rw [State.popped, State.ctx_modCtx_same]
  refine List.foldlRecOn srcs popSrc (motive := fun c => c.regs.softmax = s.here.regs.softmax) rfl fun c hc x _ => ?_
  cases x with
  | v n => exact hc
  | q n => exact (popStream_softmax ..).trans hc

/-- The pops of an op's sources leave the bands that its unit meets. -/
theorem smBand_popped (s : State) (srcs : List VSrc) (h : OpHdr) (bs : List Band) :
    smBand ((s.popped srcs).ctx s.cur) h bs = smBand s.here h bs := by
  rw [smBand, smBand, popped_softmax, guardBand, guardBand, (popped_popKeeps s srcs).rP]

/-- An update of the softmax unit keeps what a vector result reads. -/
theorem modSm_popKeeps {s u : State} (hk : PopKeeps s.here u.here) (f : Softmax → Softmax) : PopKeeps s.here (u.modSm f).here := by
  refine hk.trans ?_
  change PopKeeps u.here ((u.modSm f).ctx u.cur)
  rw [State.modSm, State.ctx_modCtx_same]
  exact ⟨rfl, rfl, rfl, rfl, rfl, rfl⟩

/-- An update of the unit from what it holds. -/
theorem State.modSm_eq (s : State) (f : Softmax → Softmax) : s.modSm f = s.modSm (fun _ => f s.here.regs.softmax) := by
  rw [State.modSm, State.modSm, State.modCtx, State.modCtx]

/-! ### `sminit` (R313) -/

/-- What `sminit` leaves in each slot. -/
theorem Softmax.init_rows (u : Softmax) (row : BitVec 6) (n : Nat) :
    (∀ i, i < 64 → row.toNat ≤ i → i ≤ row.toNat + n →
      (u.init row.toNat n).row i = ⟨0xFF800000#32, 0#32, row, 0#32, 0#16, true, false⟩) ∧
    ∀ i, i < 64 → ¬ (row.toNat ≤ i ∧ i ≤ row.toNat + n) →
      ((∃ j, row.toNat ≤ j ∧ j ≤ row.toNat + n ∧ (u.row j).grp = (u.row i).grp) →
        (u.init row.toNat n).row i = ⟨0xFF800000#32, 0#32, BitVec.ofNat 6 i, 0#32, 0#16, true, false⟩) ∧
      ((∀ j, row.toNat ≤ j → j ≤ row.toNat + n → (u.row j).grp ≠ (u.row i).grp) → (u.init row.toNat n).row i = u.row i) := by
  refine ⟨fun i hi hlo hhi => ?_, fun i hi hout => ⟨fun hover => ?_, fun hfree => ?_⟩⟩
  · rw [u.row_init _ _ hi, if_pos ⟨hlo, hhi⟩, BitVec.ofNat_toNat, BitVec.setWidth_eq]
    rfl
  · rw [u.row_init _ _ hi, if_neg hout, if_pos (contains_overlapped.mpr hover)]
    rfl
  · rw [u.row_init _ _ hi, if_neg hout, if_neg fun hc => ?_]
    obtain ⟨j, hlo, hhi, hg⟩ := contains_overlapped.mp hc
    exact hfree j hlo hhi hg

section Ops
variable {s : State} {h : OpHdr} {row d : BitVec 6} {a : VSrc} {r : Rms} {vs : List VReg} {band rb : Band}

theorem exec_sminit {n : BitVec 5} (hrun : OpRuns s h) (hn : row.toNat + n.toNat ≤ 63) (hband : smBand s.here h [] = some band) :
    exec (.sminit h n row) s
      = .next (s.modSm (fun _ => { s.here.regs.softmax.init row.toNat n.toNat with band := band })) := by
  change execSminit h n row s = _
  rw [execSminit, decide_eq_true hn, guardedOp_runs hrun]
  simp only [hband]
  rw [State.modSm_eq]

/-! ### `smstep` and `smfin` (R314, R316, R318) -/

/-- The value that stands beside lane k of a list of lanes. -/
theorem find_zip_nodup {act ws : List Nat} {k : Nat} (hnodup : act.Nodup) (hk : k < act.length) (hk' : k < ws.length) :
    (act.zip ws).find? (fun p => p.1 == act[k]) = some (act[k], ws[k]) := by
  rw [List.find?_eq_some_iff_getElem]
  refine ⟨by simp, k, by simp [hk, hk'], List.getElem_zip, fun j hj => ?_⟩
  simp [List.getElem_zip, hnodup.getElem_inj_iff, Nat.ne_of_lt hj]

/-- The weights in the active lanes of a block (R314). -/
def weightBits (act ws : List Nat) : BitVec 2048 :=
  buildLanes 4 act (fun i => (((act.zip ws).find? (fun p => p.1 == i)).map (·.2)).getD 0)

theorem nodup_activeLanes (g : PReg) (w : Nat) : (activeLanes g w).Nodup := List.nodup_range.filter _

theorem lane_weightBits {g : PReg} {ws : List Nat} {k : Nat} (hlen : ws.length = (activeLanes g 4).length)
    (hk : k < (activeLanes g 4).length) :
    lane (weightBits (activeLanes g 4) ws) 4 ((activeLanes g 4).getD k 0) = ws.getD k 0 % 2 ^ 32 := by
  have hmem := List.getElem_mem hk
  rw [← List.getElem_eq_getD (h := hk), weightBits, lane_buildLanes (mem_activeLanes.mp hmem).1 hmem,
    find_zip_nodup (nodup_activeLanes g 4) hk (hlen ▸ hk), Option.map_some, Option.getD_some,
    ← List.getElem_eq_getD (h := hlen ▸ hk)]

/-- The marks of a result read from the unit: every granule of a poisoned group (R318). -/
def smMarks (u : Softmax) (row : BitVec 6) : BitVec 4 := if u.groupPoison (u.row row.toNat).grp then 15#4 else 0#4

theorem exec_smstep (hrun : LaneRuns s h) (hsrc : srcVals s.here [a] = .ok vs)
    (hband : smBand s.here h (vs.map (·.band)) = some band) (hrb : bandOf (vecBands s h d [band]) = some rb)
    {act : List Nat} (hact : act = activeLanes (s.here.rP h.g) 4) {st : Softmax × List Nat}
    (hst : st = s.here.regs.softmax.step (rmOf s.here r) row (act.map (fun i => fmtF32.value (lane (srcBits vs 0) 4 i)))) :
    exec (.smstep h d a row r) s
      = .next (landRegs ((s.popped [a]).modSm (fun _ => { st.1.stain row (lanePoison 4 act vs) with band := band })) 1#3 6
        [.v d ⟨weightBits act st.2, rb, smMarks (st.1.stain row (lanePoison 4 act vs)) row⟩ (lanesMask 4 act)]) := by
  obtain ⟨x, rfl⟩ := srcVals_one hsrc
  subst hact hst
  change execSmstep h d a row r s = _
  rw [execSmstep, vecOp_runs hrun hsrc]
  simp only [popped_cur, vecAct_popped, popped_softmax, (popped_popKeeps s [a]).rmOf, smBand_popped]
  rw [show smBand s.here h [([x].getD 0 zeroVReg).band] = some band from hband]
  dsimp only
  rw [landVec_of_vecBands (modSm_popKeeps (popped_popKeeps s [a]) _) hrb]
  rfl

/-- The value that `smfin` lands for a score x of row `row` (R316). -/
def finWeight (u : Softmax) (rm : Rm) (row : BitVec 6) (x : XV) : Nat :=
  if (u.row row.toNat).l = 0#32 then 0
  else roundTo fmtF32 rm (divXV (x.scale (u.row (u.row row.toNat).grp.toNat).k.toInt) (fmtF32.value (u.row row.toNat).l.toNat))

theorem finWeight_mod (u : Softmax) (rm : Rm) (row : BitVec 6) (x : XV) : finWeight u rm row x % 2 ^ 32 =
    if (u.row row.toNat).l = 0#32 then 0
    else roundTo fmtF32 rm (divXV (x.scale (u.row (u.row row.toNat).grp.toNat).k.toInt) (fmtF32.value (u.row row.toNat).l.toNat))
      % 2 ^ 32 := by
  unfold finWeight
  split <;> rfl

theorem stain_grp (u : Softmax) (row : BitVec 6) (lanes : BitVec 4) :
    ((u.stain row lanes).row row.toNat).grp = (u.row row.toNat).grp := by
  rw [Softmax.stain, Softmax.row_setRow_same _ row.isLt]

theorem exec_smfin (hrun : LaneRuns s h) (hsrc : srcVals s.here [a] = .ok vs)
    (hband : smBand s.here h (vs.map (·.band)) = some band) (hrb : bandOf (vecBands s h d [band]) = some rb)
    {act : List Nat} (hact : act = activeLanes (s.here.rP h.g) 4) :
    exec (.smfin h d a row r) s
      = .next (landRegs ((s.popped [a]).modSm (fun _ =>
          { s.here.regs.softmax.stain row (lanePoison 4 act vs) with band := band })) 1#3 6
        [.v d ⟨buildLanes 4 act (fun i => finWeight s.here.regs.softmax (rmOf s.here r) row (fmtF32.value (lane (srcBits vs 0) 4 i))), rb,
          smMarks (s.here.regs.softmax.stain row (lanePoison 4 act vs)) row⟩ (lanesMask 4 act)]) := by
  obtain ⟨x, rfl⟩ := srcVals_one hsrc
  subst hact
  change execSmfin h d a row r s = _
  rw [execSmfin, vecOp_runs hrun hsrc]
  simp only [popped_cur, vecAct_popped, popped_softmax, (popped_popKeeps s [a]).rmOf, smBand_popped]
  rw [show smBand s.here h [([x].getD 0 zeroVReg).band] = some band from hband]
  dsimp only
  rw [landVec_of_vecBands (modSm_popKeeps (popped_popKeeps s [a]) _) hrb, smMarks, stain_grp]
  rfl

/-! ### `smrsc` and `smget` (R315, R317) -/

theorem exec_smrsc {g : BitVec 6} (hg : g = (s.here.regs.softmax.row row.toNat).grp) (hrun : OpRuns s h)
    (hband : smBand s.here h [] = some band)
    (hrb : bandOf (band :: if h.g = 0#4 then [] else [(s.here.rS d).band]) = some rb) :
    exec (.smrsc h d row) s = .next (landRegs
      (s.modSm (fun _ => { s.here.regs.softmax.setRow g.toNat { s.here.regs.softmax.row g.toNat with k := 0#16 } with band := band })) 1#3 6
      [.s d ⟨(s.here.regs.softmax.row g.toNat).k.signExtend 64, rb, s.here.regs.softmax.groupPoison g⟩]) := by
  subst hg
  change execSmrsc h d row s = _
  rw [execSmrsc, guardedOp_runs hrun]
  simp only [hband, hrb]
  rw [State.modSm_eq]
  rfl

/-- Lane i of packed lanes of 32 bits; beyond them a lane is 0. -/
theorem lane_packLanes {l : List Nat} (hl : l.length ≤ 64) (i : Nat) :
    lane (BitVec.ofNat 2048 (packLanes 32 l)) 4 i = l.getD i 0 % 2 ^ 32 := by
  have hpack : packLanes 32 l < 2 ^ (32 * l.length) := packLanes_lt 32 l
  have hfit : packLanes 32 l < 2 ^ 2048 := hpack.trans_le (Nat.pow_le_pow_right (by decide) (by omega))
  rw [lane_eq, BitVec.toNat_ofNat, Nat.mod_eq_of_lt hfit]
  by_cases hi : i < l.length
  · rw [packLanes_get hi, List.getElem_eq_getD 0]
  · rw [Nat.div_eq_of_lt (hpack.trans_le (Nat.pow_le_pow_right (by decide) (by omega))), List.getD_eq_default _ _ (by omega)]

theorem exec_smget (hrun : OpRuns s h) (hband : smBand s.here h [] = some band) (hrb : bandOf (vecBands s h d [band]) = some rb) :
    exec (.smget h d row) s = .next (landRegs (s.modSm (fun _ => { s.here.regs.softmax with band := band })) 1#3 6
      [.v d ⟨BitVec.ofNat 2048 (packLanes 32 (smgetLanes s.here.regs.softmax row)), rb, smMarks s.here.regs.softmax row⟩
        (BitVec.allOnes 256)]) := by
  change execSmget h d row s = _
  rw [execSmget, guardedOp_runs hrun]
  simp only [hband]
  rw [landVec_of_vecBands (modSm_popKeeps (.refl _) _) hrb, State.modSm_eq]
  rfl

end Ops

/-- The lanes of `smget`, each a word (R317). -/
theorem lane_smget (u : Softmax) (row : BitVec 6) :
    let bits := BitVec.ofNat 2048 (packLanes 32 (smgetLanes u row))
    let g := (u.row row.toNat).grp
    lane bits 4 0 = (u.row row.toNat).m.toNat ∧ lane bits 4 1 = (u.row row.toNat).l.toNat ∧
    lane bits 4 2 = (u.row g.toNat).e.toNat ∧ lane bits 4 3 = ((u.row g.toNat).k.signExtend 32).toNat ∧
    lane bits 4 4 = g.toNat ∧ lane bits 4 5 = (u.row g.toNat).new.toNat + 2 * ((u.members g).length - 1) ∧
    ∀ i, 6 ≤ i → i < 64 → lane bits 4 i = 0 := by
  intro bits g
  have hlane (i : Nat) : lane bits 4 i = (smgetLanes u row).getD i 0 % 2 ^ 32 := lane_packLanes (l := smgetLanes u row) (Nat.le_of_ble_eq_true rfl) i
  have hword (x : BitVec 32) : x.toNat % 2 ^ 32 = x.toNat := Nat.mod_eq_of_lt x.isLt
  have hsize := u.length_members_le g
  have hnew := Bool.toNat_le (u.row g.toNat).new
  simp only [hlane]
  refine ⟨hword _, hword _, hword _, hword _, Nat.mod_eq_of_lt (g.isLt.trans (by decide)), ?_, fun i hi _ => ?_⟩
  · change ((if (u.row g.toNat).new then 1 else 0) + 2 * ((u.members g).length - 1)) % 2 ^ 32 = _
    have hite : (if (u.row g.toNat).new then 1 else 0) = (u.row g.toNat).new.toNat := by cases (u.row g.toNat).new <;> rfl
    rw [hite, Nat.mod_eq_of_lt (by omega)]
  · rw [List.getD_eq_default _ _ hi, Nat.zero_mod]

/-- Settles O14: each op meets the unit's band and leaves its own result in the unit (`exec_sminit`, `exec_smstep`, `exec_smfin`,
`exec_smrsc`, `exec_smget`). -/
theorem softmaxOpsActOnTheUnit : Obligations.SoftmaxOpsActOnTheUnit := by
  unfold Obligations.SoftmaxOpsActOnTheUnit
  intro s h n row d a r vs band rb u g grd act marks
  refine ⟨fun hrun hn hband => ?_, fun hrun hsrc hband hrb => ⟨?_, ?_⟩, fun hrun hband => ⟨fun hrb => ?_, fun hrb => ?_⟩⟩
  · obtain ⟨hin, hout⟩ := u.init_rows row n.toNat
    exact ⟨{ u.init row.toNat n.toNat with band := band }, rfl, hin, hout, exec_sminit hrun hn hband⟩
  · refine ⟨_, fun k hk => lane_weightBits ?_ hk, exec_smstep hrun hsrc hband hrb rfl rfl⟩
    rw [Softmax.length_step, List.length_map]
  · exact ⟨_, fun i hi => (lane_buildLanes (mem_activeLanes.mp hi).1 hi).trans (finWeight_mod ..), exec_smfin hrun hsrc hband hrb rfl⟩
  · exact exec_smrsc rfl hrun hband hrb
  · obtain ⟨h0, h1, h2, h3, h4, h5, hrest⟩ := lane_smget u row
    exact ⟨_, h0, h1, h2, h3, h4, h5, hrest, exec_smget hrun hband hrb⟩

end Sys2Proof.Machine
end

section
/-! SUPPORT. The weir: what a read of memory leaves of the engines, segment images, locks and lookups (11_attention R303 to R309): O29. -/
namespace Sys2Proof.Machine

/-! ### What a read leaves of the engines (R254, R263, R324) -/

theorem fillKeeps_noteRead (s : State) (fe : FeId) (u : XUnit) (strong : Bool) (scope : BitVec 2) (seq : Nat) (ps : List Piece) :
    FillKeeps s (noteRead s fe u strong scope seq ps) := by
  unfold noteRead
  generalize (if strong then some scope else none) = st
  dsimp only
  split
  · exact .refl s
  · exact fillKeeps_modCtx (fun _ => rfl) fun _ => rfl

theorem fillKeeps_touchLine (s : State) (fe : FeId) (l : Leaf) (k : Nat) : FillKeeps s (touchLine s fe l k) := by
  have h := fillKeeps_fillLine s fe l k
  unfold touchLine
  dsimp only
  split
  · split
    · exact h
    · exact h.trans ⟨rfl, rfl, fun _ => rfl, fun _ => rfl⟩
  · exact h

theorem fillKeeps_touchPieces (s : State) (fe : FeId) (u : XUnit) (ps : List Piece) : FillKeeps s (touchPieces s fe u ps) := by
  refine List.foldlRecOn ps _ (.refl s) fun t ht p _ => ht.trans ?_
  split
  · exact fillKeeps_touchLine ..
  · exact .refl t
  · exact .refl t

theorem fillKeeps_lsqTouch (s : State) (strong : Bool) (scope : BitVec 2) (ps : List Piece) : FillKeeps s (lsqTouch s strong scope ps) :=
  (fillKeeps_noteRead ..).trans (fillKeeps_touchPieces ..)

/-! ### Segments (R304) -/

theorem Engines.seg_setSeg_same (e : Engines) {n : Nat} (g : WeirSeg) (hn : n < 16) : (e.setSeg n g).seg n = g := by
  simp [Engines.seg, Engines.setSeg, hn]

theorem Engines.seg_setSeg_other (e : Engines) {n i : Nat} (g : WeirSeg) (hi : i ≠ n) : (e.setSeg n g).seg i = e.seg i := by
  simp [Engines.seg, Engines.setSeg, Vector.getElem?_setIfInBounds_ne (Ne.symm hi)]

theorem modWeir_eng (s : State) (n : Nat) (f : WeirSeg → WeirSeg) :
    (s.modWeir n f).here.eng = s.here.eng.setSeg n (f (s.here.eng.seg n)) := by
  change ((s.modWeir n f).ctx s.cur).eng = _
  rw [State.modWeir, State.ctx_modCtx_same]

theorem modWeir_regs (s : State) (n : Nat) (f : WeirSeg → WeirSeg) : (s.modWeir n f).here.regs = s.here.regs := by
  change ((s.modWeir n f).ctx s.cur).regs = _
  rw [State.modWeir, State.ctx_modCtx_same]

/-! ### Images (R307) -/

/-- A map written key by key for the keys of a range holds each key's value. -/
theorem mget_foldl_range {α β : Type} [DecidableEq α] (d : α) (f : β → α) (key : β → Nat) (entry : Nat → β)
    (hkey : ∀ e, key (entry e) = e) (n : Nat) {i : Nat} (hi : i < n) :
    mget d (((List.range n).map entry).foldl (fun m x => mset d m (key x) (f x)) []) i = f (entry i) := by
  induction n with
  | zero => omega
  | succ n ih =>
    rw [List.range_succ, List.map_append, List.foldl_append, List.map_singleton, List.foldl_cons, List.foldl_nil, mget_mset, hkey]
    split
    next h => rw [h]
    next h => exact ih (by omega)

/-- The segment that an image gives (R307). -/
def imageSeg (tag : Word) (d : ReadData) (locked : Bool) (band : Band) : WeirSeg where
  ents := (imageEntries d).foldl (fun m e => mset 0#64 m e.1 e.2.1) []
  ep := (imageEntries d).foldl (fun m e => mset false m e.1 e.2.2) []
  slot := tag.extractLsb' 16 8
  blkh := tag.extractLsb' 8 8
  valid := true
  locked := locked
  band := band

section Image
variable {tag : Word} {d : ReadData} {locked : Bool} {band : Band} {i : Nat}

theorem imageSeg_entry (hi : i < 256) :
    (imageSeg tag d locked band).entry i = BitVec.ofNat 64 (bytesNat (((d.bytes.drop (8 * i)).take 8).map (·.2.1))) := by
  dsimp only [WeirSeg.entry, imageSeg, imageEntries]
  rw [mget_foldl_range 0#64 (fun e : Nat × Word × Bool => e.2.1) (·.1) _ (fun _ => rfl) 256 hi]

theorem imageSeg_entryPoison (hi : i < 256) :
    (imageSeg tag d locked band).entryPoison i = ((d.bytes.drop (8 * i)).take 8).any (·.2.2) := by
  dsimp only [WeirSeg.entryPoison, imageSeg, imageEntries]
  rw [mget_foldl_range false (fun e : Nat × Word × Bool => e.2.2) (·.1) _ (fun _ => rfl) 256 hi]

end Image

theorem loadSegment_ok {s : State} {seg : Nat} {ea tag : Word} {d : ReadData} {band : Band} (hband : bandOf d.bands = some band)
    (hlegal : ∀ i ∈ imageEntries d, weirIllegal i.2.1 = false) :
    loadSegment s seg ea tag d = s.modWeir seg (fun g => imageSeg tag d g.locked band) := by
  have hany : ¬ (imageEntries d).any (fun e => weirIllegal e.2.1) = true := fun h => by
    obtain ⟨e, he, hbad⟩ := List.any_eq_true.mp h
    exact ne_true_of_eq_false (hlegal e he) hbad
  simp only [loadSegment, hband]
  rw [if_neg hany]
  rfl

/-- What an image leaves in an unlocked segment, after a read that keeps the engines (R307). -/
theorem loadSegment_loads {s s0 : State} {seg : Nat} {ea tag : Word} {dat : ReadData} {band : Band} (hseg : seg < 16)
    (hcur : s0.cur = s.cur) (hkeep : FillKeeps s s0) (hlock : (s.here.eng.seg seg).locked = false) (hband : bandOf dat.bands = some band)
    (hlegal : ∀ i ∈ imageEntries dat, weirIllegal i.2.1 = false) :
    let t := loadSegment s0 seg ea tag dat
    let g := t.here.eng.seg seg
    (∀ i, i < 256 → g.entry i = BitVec.ofNat 64 (bytesNat (((dat.bytes.drop (8 * i)).take 8).map (·.2.1)))) ∧
    (∀ i, i < 256 → g.entryPoison i = ((dat.bytes.drop (8 * i)).take 8).any (·.2.2)) ∧
    g.slot = tag.extractLsb' 16 8 ∧ g.blkh = tag.extractLsb' 8 8 ∧ g.valid = true ∧ g.locked = false ∧ g.band = band ∧
    (∀ i, i ≠ seg → t.here.eng.seg i = s.here.eng.seg i) ∧ t.here.regs = s0.here.regs ∧ SameMemory s0 t := by
  intro t g
  have ht : t = s0.modWeir seg (fun g => imageSeg tag dat g.locked band) := loadSegment_ok hband hlegal
  have heng : s0.here.eng = s.here.eng := by rw [State.here, hcur, hkeep.eng]
  have hset : t.here.eng = s.here.eng.setSeg seg (imageSeg tag dat false band) := by rw [ht, modWeir_eng, heng, hlock]
  have hg : g = imageSeg tag dat false band := by rw [← Engines.seg_setSeg_same s.here.eng (imageSeg ..) hseg, ← hset]
  rw [hg]
  refine ⟨fun i hi => imageSeg_entry hi, fun i hi => imageSeg_entryPoison hi, rfl, rfl, rfl, rfl, rfl, fun i hi => ?_, ?_, ?_⟩
  · rw [hset, Engines.seg_setSeg_other _ _ hi]
  · rw [ht, modWeir_regs]
  · rw [ht]
    exact fun _ => rfl

/-! ### The ops (R306 to R309) -/

section Ops
variable {s : State} {h : OpHdr} {a b d : BitVec 6} {seg : BitVec 4} {dat : ReadData}

/-- What an op that loads a segment has to pass before its image is read (R307). -/
structure WldChecked (s : State) (h : OpHdr) (a b : BitVec 6) (seg : BitVec 4) : Prop where
  runs : OpRuns s h
  image : (s.here.rS a).poison = false
  tag : (s.here.rS b).poison = false
  high : (s.here.rS b).val.extractLsb' 24 40 = 0#40
  low : (s.here.rS b).val.extractLsb' 0 8 = 0#8
  aligned : (s.here.rS a).val.toNat % 64 = 0
  share : seg.toNat < s.here.eng.weirSegs
  unlocked : (s.here.eng.seg seg.toNat).locked = false

theorem exec_wld_spm (hc : WldChecked s h a b seg) (hspm : isSpm (s.here.rS a).val = true)
    (hshadow : readsShadow s.here (cutPieces 0 (s.here.rS a).val 2048 33) = false)
    (hread : readSpm s.here.spm (cutPieces 0 (s.here.rS a).val 2048 33) = .ok dat) :
    exec (.wld h a b seg) s = .next (loadSegment s seg.toNat (s.here.rS a).val (s.here.rS b).val dat) := by
  change execWld h a b seg s = _
  rw [execWld, guardedOp_runs hc.runs]
  simp [hc.image, hc.tag, hc.high, hc.low, hc.aligned, hc.unlocked, hspm, hshadow, hread, Nat.not_le.mpr hc.share]

theorem exec_wld_mem (hc : WldChecked s h a b seg) (hspm : isSpm (s.here.rS a).val = false)
    (hmay : mayRead s s.cur s.here.nextSeq false (cutPieces 0 (s.here.rS a).val 2048 33) = true)
    (hread : readMem s s.cur .core false 0#2 spLoad s.here.ownStores s.here.nextSeq (cutPieces 0 (s.here.rS a).val 2048 33) = .ok dat) :
    exec (.wld h a b seg) s = .next (loadSegment (lsqTouch s false 0#2 (cutPieces 0 (s.here.rS a).val 2048 33)) seg.toNat
      (s.here.rS a).val (s.here.rS b).val dat) := by
  change execWld h a b seg s = _
  rw [execWld, guardedOp_runs hc.runs]
  simp [hc.image, hc.tag, hc.high, hc.low, hc.aligned, hc.unlocked, hspm, hmay, hread, Nat.not_le.mpr hc.share]

theorem setLock_runs {v : Bool} (hrun : OpRuns s h) (hshare : seg.toNat < s.here.eng.weirSegs) :
    setLock s h seg v = s.modWeir seg.toNat (fun g => { g with locked := v }) := by
  rw [setLock, guardedOp_runs hrun, if_neg (Nat.not_le.mpr hshare)]

theorem exec_wx {mode : BitVec 2} {e : Word} {pz : Bool} {eb band : Band} (hrun : OpRuns s h) (hmode : mode ≠ 3#2)
    (hhigh : (s.here.rS a).val.extractLsb' 21 35 = 0#35) (hpoison : (s.here.rS a).poison = false)
    (hlookup : weirLookup s.here.eng ((s.here.rS a).val.extractLsb' 56 8) ((s.here.rS a).val.toNat % 2 ^ 21) = some (e, pz, eb))
    (hband : bandOf [(s.here.rS a).band, eb] = some band) :
    exec (.wx h d a mode) s
      = .next (landRegs s 7#3 3 [.s d ⟨wxValue mode e ((s.here.rS a).val.toNat % 2 ^ 21), band, pz⟩]) := by
  change execWx h d a mode s = _
  rw [execWx, bne_iff_ne.mpr hmode, guardedOp_runs hrun]
  dsimp only
  rw [if_neg (by simp [hhigh]), if_neg (ne_true_of_eq_false hpoison), hlookup]
  dsimp only
  rw [hband]
  rfl

end Ops

/-- Settles O29: a checked image is read and loads its segment (`loadSegment_loads`); the locks and the lookup have an equation
each. -/
theorem weirOpsAct : Obligations.WeirOpsAct := by
  unfold Obligations.WeirOpsAct
  intro s h a b d seg mode dat band e pz eb x t p page loads hrun
  refine ⟨?wld, fun hshare => ⟨?_, ?_⟩, fun hmode hhigh hpoison hlookup hband => exec_wx hrun hmode hhigh hpoison hlookup hband⟩
  case wld =>
    intro himage htag hhigh hlow haligned hshare hseg hlock hband hlegal ps
    have hchecked : WldChecked s h a b seg := ⟨hrun, himage, htag, hhigh, hlow, haligned, hshare, hlock⟩
    refine ⟨fun hspm hshadow hread => ⟨_, exec_wld_spm hchecked hspm hshadow hread, ?_⟩,
      fun hspm hmay hread => ⟨_, exec_wld_mem hchecked hspm hmay hread, ?_⟩⟩
    · exact loadSegment_loads hseg rfl (.refl s) hlock hband hlegal
    · exact loadSegment_loads hseg (lsqTouch_cur ..) (fillKeeps_lsqTouch ..) hlock hband hlegal
  · exact congrArg Host.Outcome.next (setLock_runs hrun hshare)
  · exact congrArg Host.Outcome.next (setLock_runs hrun hshare)

end Sys2Proof.Machine
end

section
/-! SUPPORT. Guarded lines: the counts of KVPOL, what a read of an error in the media leaves, and the faults D41 and D43 (11_attention R321
to R324): O41. -/
namespace Sys2Proof.Machine

/-! ### KVPOL (R323) -/

/-- The bits of KVPOL after a count at bit `lo`. -/
theorem getLsbD_kvField (w : Word) {lo i : Nat} (n : Nat) (hi : i < 64) :
    (kvField w lo n).getLsbD i =
      if lo ≤ i ∧ i < lo + 16 then (kvUp (w.extractLsb' lo 16).toNat n).testBit (i - lo) else w.getLsbD i := by
  have hones (j : Nat) : (0xFFFF#64).getLsbD j = decide (j < 16) := by
    rw [BitVec.getLsbD_ofNat, show 0xFFFF = 2 ^ 16 - 1 from rfl, Nat.testBit_two_pow_sub_one]
    by_cases hj : j < 16
    · simp [hj, Nat.lt_trans hj]
    · simp [hj]
  have hv : kvUp (w.extractLsb' lo 16).toNat n = min 65535 ((w >>> lo).toNat % 65536 + n) := by
    rw [kvUp, BitVec.extractLsb'_toNat, BitVec.toNat_ushiftRight]
  have hsmall : min 65535 ((w >>> lo).toNat % 65536 + n) < 2 ^ 16 := by omega
  rw [hv]
  generalize hx : min 65535 ((w >>> lo).toNat % 65536 + n) = x at hsmall
  simp only [kvField, hx, BitVec.getLsbD_or, BitVec.getLsbD_and, BitVec.getLsbD_not, BitVec.getLsbD_shiftLeft, hones,
    BitVec.getLsbD_ofNat, hi, decide_true, Bool.true_and]
  by_cases hl : lo ≤ i
  · by_cases hh : i < lo + 16
    · simp [hl, hh, Nat.not_lt.mpr hl, show i - lo < 16 by omega, show i - lo < 64 by omega]
    · have hz : x.testBit (i - lo) = false :=
        Nat.testBit_lt_two_pow (hsmall.trans_le (Nat.pow_le_pow_right (by decide) (by omega)))
      simp [hl, hh, Nat.not_lt.mpr hl, show ¬ i - lo < 16 by omega, hz]
  · simp [hl, Nat.not_le.mp hl]

/-- A count raises its own field. -/
theorem kvField_same (w : Word) {lo : Nat} (n : Nat) (hlo : lo + 16 ≤ 64) :
    ((kvField w lo n).extractLsb' lo 16).toNat = kvUp (w.extractLsb' lo 16).toNat n := by
  have hsmall : kvUp (w.extractLsb' lo 16).toNat n < 2 ^ 16 := by
    rw [kvUp]
    omega
  refine Nat.eq_of_testBit_eq fun j => ?_
  by_cases hj : j < 16
  · rw [BitVec.testBit_toNat, BitVec.getLsbD_extractLsb', getLsbD_kvField w n (by omega), if_pos ⟨by omega, by omega⟩,
      decide_eq_true hj, Bool.true_and, Nat.add_sub_cancel_left]
  · rw [BitVec.testBit_toNat, BitVec.getLsbD_extractLsb', decide_eq_false hj, Bool.false_and]
    exact (Nat.testBit_lt_two_pow (hsmall.trans_le (Nat.pow_le_pow_right (by decide) (Nat.not_lt.mp hj)))).symm

/-- A count leaves the other fields. -/
theorem kvField_other (w : Word) {lo at_ : Nat} (n : Nat) (hat : at_ + 16 ≤ lo ∨ lo + 16 ≤ at_) (hat' : at_ + 16 ≤ 64) :
    (kvField w lo n).extractLsb' at_ 16 = w.extractLsb' at_ 16 := by
  refine BitVec.eq_of_getLsbD_eq fun j hj => ?_
  rw [BitVec.getLsbD_extractLsb', BitVec.getLsbD_extractLsb', getLsbD_kvField w n (by omega), if_neg (by omega)]

/-- The policy is no count. -/
theorem kvField_mpol (w : Word) {lo : Nat} (n : Nat) (hpos : 0 < lo) : (kvField w lo n).getLsbD 0 = w.getLsbD 0 := by
  rw [getLsbD_kvField w n (by decide), if_neg (by omega)]

/-- The fields of KVPOL after a read that meets an error. -/
theorem kvCount_fields (w : Word) (e : MediaErr) :
    ((kvCount w e).extractLsb' 48 16).toNat = kvUp (w.extractLsb' 48 16).toNat (if e.badA = true ∧ e.badB = false then 1 else 0) ∧
    ((kvCount w e).extractLsb' 32 16).toNat = kvUp (w.extractLsb' 32 16).toNat (if e.ecc = some false then 1 else 0) ∧
    ((kvCount w e).extractLsb' 16 16).toNat = kvUp (w.extractLsb' 16 16).toNat (if w.getLsbD 0 then 0 else e.groups.length) ∧
    (kvCount w e).extractLsb' 0 16 = w.extractLsb' 0 16 := by
  have hdc : (if (e.badA && !e.badB) = true then 1 else 0) = if e.badA = true ∧ e.badB = false then 1 else 0 := by simp
  have hsec : (if (e.ecc == some false) = true then 1 else 0) = if e.ecc = some false then 1 else 0 := by simp
  simp only [kvCount, hdc, hsec]
  generalize (if e.badA = true ∧ e.badB = false then 1 else 0) = a
  generalize (if e.ecc = some false then 1 else 0) = b
  have hmpol : (kvField (kvField w 48 a) 32 b).getLsbD 0 = w.getLsbD 0 := by
    rw [kvField_mpol _ _ (by decide), kvField_mpol _ _ (by decide)]
  rw [hmpol]
  refine ⟨?_, ?_, ?_, ?_⟩
  · rw [kvField_other _ _ (by decide) (by decide), kvField_other _ _ (by decide) (by decide),
      kvField_same _ _ (by decide)]
  · rw [kvField_other _ _ (by decide) (by decide), kvField_same _ _ (by decide),
      kvField_other _ _ (by decide) (by decide)]
  · rw [kvField_same _ _ (by decide), kvField_other _ _ (by decide) (by decide),
      kvField_other _ _ (by decide) (by decide)]
  · rw [kvField_other _ _ (by decide) (by decide), kvField_other _ _ (by decide) (by decide),
      kvField_other _ _ (by decide) (by decide)]

/-! ### The events of a read (R323) -/

theorem MediaErr.length_events (e : MediaErr) :
    e.events.length = (if e.badA then 1 else 0) + (if e.ecc.isSome then 1 else 0) + e.groups.length := by
  have hhead : (if e.badA then [if e.badB then 0x11#8 else 0x10#8] else []).length = if e.badA then 1 else 0 := by
    cases e.badA <;> rfl
  rw [MediaErr.events, List.length_append, List.length_append, List.length_map, hhead]
  cases e.ecc <;> rfl

/-- What the events of a read leave: Headwater's count of events aside, only the trace and memory may change. -/
structure EventsLeave (s t : State) : Prop where
  ctxs : t.ctxs = s.ctxs
  clusters : t.clusters = s.clusters
  poison : t.poison = s.poison
  media : t.media = s.media
  filled : t.filled = s.filled
  heads : t.hw.heads = s.hw.heads

theorem EventsLeave.refl (s : State) : EventsLeave s s := ⟨rfl, rfl, rfl, rfl, rfl, rfl⟩
theorem EventsLeave.trans {s t u : State} (h : EventsLeave s t) (h' : EventsLeave t u) : EventsLeave s u :=
  ⟨h'.ctxs.trans h.ctxs, h'.clusters.trans h.clusters, h'.poison.trans h.poison, h'.media.trans h.media, h'.filled.trans h.filled,
    h'.heads.trans h.heads⟩

theorem eventsLeave_traceEv (s : State) (e : TraceEv) : EventsLeave s (s.traceEv e) ∧ (s.traceEv e).hw = s.hw := by
  unfold State.traceEv
  split_ifs <;> exact ⟨⟨rfl, rfl, rfl, rfl, rfl, rfl⟩, rfl⟩

theorem eventsLeave_mediaEvents (s : State) (src : BitVec 16) (line : Nat) (e : MediaErr) : EventsLeave s (mediaEvents s src line e) :=
  List.foldlRecOn e.events _ (.refl s) fun t ht _ _ =>
    ht.trans ((⟨rfl, rfl, rfl, rfl, rfl, rfl⟩ : EventsLeave t t.countError).trans (eventsLeave_traceEv ..).1)

theorem mediaEvents_errors (s : State) (src : BitVec 16) (line : Nat) (e : MediaErr) :
    (mediaEvents s src line e).hw.errors = s.hw.errors + e.events.length := by
  unfold mediaEvents
  generalize e.events = l
  induction l generalizing s with
  | nil => rfl
  | cons c l ih =>
    rw [List.foldl_cons, ih, (eventsLeave_traceEv ..).2, List.length_cons]
    change s.hw.errors + 1 + l.length = _
    omega

/-! ### A line with an error comes in (R321, R322, R324) -/

theorem filledAt_eq_none {s : State} {n line : Nat} {cls : BitVec 2} (h : lineHeld s n cls line = false) : filledAt s n line = none := by
  rw [lineHeld, Bool.or_eq_false_iff] at h
  exact Option.isSome_eq_false_iff.mp h.1 |> Option.isNone_iff_eq_none.mp

/-- A line that becomes held as delivered is found so. -/
theorem filledAt_append {s : State} {n line : Nat} {pz : Bool} (h : filledAt s n line = none) {t : State}
    (ht : t.filled = s.filled ++ [⟨n, line, pz⟩]) : filledAt t n line = some ⟨n, line, pz⟩ := by
  rw [filledAt, ht, List.find?_append, ← filledAt, h]
  simp

section Fill
variable {s : State} {fe : FeId} {l : Leaf} {k : Nat} {e : MediaErr}

/-- What a read that reaches the media meets: an error that stands. -/
structure Meets (s : State) (fe : FeId) (l : Leaf) (k : Nat) (e : MediaErr) : Prop where
  err : mediaErr s l.guard (k / 64) = some e
  stands : e.stands = true
  reaches : lineHeld s (clusterOf fe) l.cls (k / 64) = false

/-- The line as a cluster holds it after the read; a dead header is not held (R321). -/
def filledWith (s : State) (fe : FeId) (k : Nat) (e : MediaErr) : List Filled :=
  if e.dead then s.filled else s.filled ++ [⟨clusterOf fe, k / 64, e.poisons (s.ctx fe).mpol⟩]

theorem Meets.fillLine_eq (h : Meets s fe l k e) :
    fillLine s fe l k = mediaEvents (({ s with media := pset s.media (k / 64) e, filled := filledWith s fe k e }).modCtx fe
      (fun c => { c with regs := { c.regs with kvpol := kvCount c.regs.kvpol e } })) (fe.setWidth 16) (k / 64) e := by
  rw [fillLine, if_neg (ne_true_of_eq_false h.reaches)]
  simp only [h.err, h.stands]
  rfl

theorem Meets.kvpol (h : Meets s fe l k e) : ((fillLine s fe l k).ctx fe).regs.kvpol = kvCount (s.ctx fe).regs.kvpol e := by
  rw [h.fillLine_eq, State.ctx_of_ctxs (eventsLeave_mediaEvents ..).ctxs, State.ctx_modCtx_same]
  rfl

theorem Meets.errors (h : Meets s fe l k e) : (fillLine s fe l k).hw.errors = s.hw.errors + e.events.length := by
  rw [h.fillLine_eq, mediaEvents_errors]
  rfl

theorem Meets.media (h : Meets s fe l k e) : pget (fillLine s fe l k).media (k / 64) = some e := by
  rw [h.fillLine_eq, (eventsLeave_mediaEvents ..).media, State.modCtx_media]
  exact pget_pset_same ..

theorem Meets.filled (h : Meets s fe l k e) : (fillLine s fe l k).filled = filledWith s fe k e := by
  rw [h.fillLine_eq, (eventsLeave_mediaEvents ..).filled, State.modCtx_filled]

theorem Meets.cluster (h : Meets s fe l k e) (n : Nat) : (fillLine s fe l k).cluster n = s.cluster n := by
  rw [h.fillLine_eq, State.cluster, (eventsLeave_mediaEvents ..).clusters]
  rfl

theorem Meets.readsPoison (h : Meets s fe l k e) (a : Nat) : readsPoison (fillLine s fe l k) a = readsPoison s a := by
  have hl := eventsLeave_mediaEvents (({ s with media := pset s.media (k / 64) e, filled := filledWith s fe k e }).modCtx fe
      (fun c => { c with regs := { c.regs with kvpol := kvCount c.regs.kvpol e } })) (fe.setWidth 16) (k / 64) e
  rw [h.fillLine_eq, Machine.readsPoison, State.linePoison, hl.poison, poolDead, hl.heads]
  rfl

/-- How the line arrives: poisoned for an error beyond correction, or under MPOL 1 for a parity error (R322). -/
def delivered (s : State) (fe : FeId) (l : Leaf) (k : Nat) (e : MediaErr) : Bool :=
  (if l.cls = 0#2 then cachedPoison (s.cluster (clusterOf fe)) (k / 64) (readsPoison s k) else readsPoison s k)
    || e.ecc == some true || ((s.ctx fe).regs.kvpol.getLsbD 0 && e.par != 0#8)

theorem MediaErr.poisons_of_stands (h : e.stands = true) (mpol : Bool) : e.poisons mpol = (e.ecc == some true || (mpol && e.par != 0#8)) := by
  rw [MediaErr.poisons, h, Bool.true_and]

theorem Meets.leafPoison (h : Meets s fe l k e) : leafPoison s fe l k = delivered s fe l k e := by
  rw [Machine.leafPoison, filledAt_eq_none h.reaches, h.reaches, h.err]
  simp only [Option.any_some, Bool.not_false, Bool.true_and, MediaErr.poisons_of_stands h.stands]
  rw [← Bool.or_assoc]
  rfl

/-- Unless a header is lost, the cluster holds the line as it was delivered. -/
theorem Meets.held (h : Meets s fe l k e) (hlive : e.badA = false ∨ e.badB = false) :
    lineHeld (fillLine s fe l k) (clusterOf fe) l.cls (k / 64) = true ∧
      Machine.leafPoison (fillLine s fe l k) fe l k = delivered s fe l k e := by
  have hdead : ¬ e.dead = true := by
    rw [MediaErr.dead, h.stands]
    rcases hlive with hx | hx <;> simp [hx]
  have hfound := filledAt_append (filledAt_eq_none h.reaches) (h.filled.trans (if_neg hdead))
  refine ⟨by rw [lineHeld, hfound]; rfl, ?_⟩
  rw [Machine.leafPoison, hfound, h.cluster, h.readsPoison]
  simp only [MediaErr.poisons_of_stands h.stands]
  rw [← Bool.or_assoc]
  rfl

/-- Where both copies of a header fail the read faults, and nothing is held (R321, R324). -/
theorem Meets.lost (h : Meets s fe l k e) (hA : e.badA = true) (hB : e.badB = true) :
    e.dead = true ∧ leafDead s fe l k = true := by
  have hdead : e.dead = true := by rw [MediaErr.dead, h.stands, hA, hB]; rfl
  exact ⟨hdead, by rw [leafDead, h.reaches, h.err, Option.any_some, hdead]; rfl⟩

/-- A byte of a group with a parity error has lost bits 1:0 (R322). -/
theorem Meets.mediaByte_low (h : Meets s fe l k e) {j : Nat} (hj : j < 64) (hpar : e.par.getLsbD (j / 8) = true) :
    (mediaByte s l (k / 64 * 64 + j)).extractLsb' 0 2 = 0#2 := by
  have hline : (k / 64 * 64 + j) / 64 = k / 64 := by omega
  have hbyte : (k / 64 * 64 + j) % 64 = j := by omega
  have hunwritten : e.written = 0#64 := eq_of_beq h.stands
  have hloses : e.loses j = true := by rw [MediaErr.loses, hpar, hunwritten, BitVec.getLsbD_zero]; rfl
  have hlow (b : Byte) : (b &&& 0xFC#8).extractLsb' 0 2 = 0#2 := by revert b; decide
  rw [mediaByte, hline, h.err, hbyte, Option.any_some, hloses, if_pos rfl, hlow]

end Fill

/-! ### The faults D41 and D43 (R107, R217, R324) -/

section Faults
variable {s : State} {fe : FeId} {l : Leaf} {ea : Word}

theorem mediaFault_d41 (h : (s.cluster (clusterOf fe)).badTags.contains (l.keyOf ea / 64) = true) :
    mediaFault s fe l ea = some ⟨11, .d41, ea⟩ := if_pos h

theorem mediaFault_d43 (h : (s.cluster (clusterOf fe)).badTags.contains (l.keyOf ea / 64) = false)
    (hdead : leafDead s fe l (l.keyOf ea) = true) : mediaFault s fe l ea = some ⟨12, .d43, ea⟩ :=
  (if_neg (ne_true_of_eq_false h)).trans (if_pos hdead)

/-- Of the context whose read meets an error only KVPOL changes (R323). -/
theorem fillLine_ctx (s : State) (fe : FeId) (l : Leaf) (k : Nat) :
    ∃ v, (fillLine s fe l k).ctx fe = { s.ctx fe with regs := { (s.ctx fe).regs with kvpol := v } } := by
  unfold fillLine
  split
  · exact ⟨_, rfl⟩
  · split
    · exact ⟨_, rfl⟩
    · split
      · exact ⟨_, rfl⟩
      · exact ⟨_, by rw [State.ctx_of_ctxs (eventsLeave_mediaEvents ..).ctxs, State.ctx_modCtx_same]; rfl⟩

/-- What D41 or D43 changes of the context that meets it: its lost gate, and KVPOL (R217, R323). -/
theorem mediaTaken_ctx (s : State) (fe : FeId) (u : XUnit) (cause : Cause) (ea : Word) :
    ∃ b v, (mediaTaken s fe u cause ea).ctx fe = { s.ctx fe with eccErr := b, regs := { (s.ctx fe).regs with kvpol := v } } := by
  have hgate : ∃ b, (if cause = .d41 then s.modCtx fe (fun c => { c with eccErr := false }) else s).ctx fe
      = { s.ctx fe with eccErr := b } := by
    split
    · exact ⟨_, State.ctx_modCtx_same ..⟩
    · exact ⟨_, rfl⟩
  obtain ⟨b, hb⟩ := hgate
  unfold mediaTaken
  split
  · exact ⟨_, _, rfl⟩
  · dsimp only
    generalize (if cause = .d41 then s.modCtx fe (fun c => { c with eccErr := false }) else s) = t at hb
    split
    · exact ⟨b, _, hb⟩
    · exact ⟨b, _, hb⟩
    next l _ =>
      split
      · obtain ⟨v, hv⟩ := fillLine_ctx t fe l (l.keyOf ea)
        exact ⟨b, v, by rw [hv, hb]⟩
      · split
        · exact ⟨b, _, hb⟩
        · exact ⟨b, _, hb⟩

theorem mediaTaken_cur (s : State) (fe : FeId) (u : XUnit) (cause : Cause) (ea : Word) : (mediaTaken s fe u cause ea).cur = s.cur := by
  unfold mediaTaken
  split
  · rfl
  · dsimp only
    split
    · split <;> rfl
    · split <;> rfl
    · split
      · rw [(readKeeps_fillLine ..).cur]
        split <;> rfl
      · split <;> split <;> rfl

/-- A fault of a read arrives: its op lands it, and nothing lands for a context that does not wait for a load (R53, R231). -/
theorem arrive_error {p : Pend} {f : Cause × Word} (h : (s.ctx fe).frz ≠ .load) :
    ((arrive s fe p (.error f)).ctx fe).pend
      = (s.ctx fe).pend.map (fun q => if q.seq = p.seq then { q with fault := some f } else q) := by
  obtain ⟨b, v, hctx⟩ := mediaTaken_ctx (s.modCtx fe (fun c =>
    (c.updatePend p.seq (fun q => { q with fault := some f })).clearDeny .core f.2)) fe .core f.1 f.2
  rw [State.ctx_modCtx_same] at hctx
  have hfrz : ((mediaTaken (s.modCtx fe (fun c =>
    (c.updatePend p.seq (fun q => { q with fault := some f })).clearDeny .core f.2)) fe .core f.1 f.2).ctx fe).frz ≠ .load := by
    rw [hctx]
    exact h
  refine (congrArg (fun t : State => (t.ctx fe).pend) (if_neg hfrz)).trans ?_
  rw [hctx]
  rfl

theorem exec_loadDataArrival_fault {idx : BitVec 6} {p : Pend} {r : LoadReq} {f : AccFault} (hp : (s.ctx fe).pend[idx.toNat]? = some p)
    (hkind : p.kind = .load r) (hout : p.outstanding = true) (hbound : isBound (s.ctx fe) = true)
    (hmay : mayRead s fe p.seq r.strong r.pieces = true)
    (hread : readMem s fe .core r.strong r.scope (if r.cistern then spCistern else spLoad) (s.ctx fe).ownStores p.seq r.pieces = .fault f)
    (hdst : r.dst.fault (r.pieces.flatMap (pieceBand s fe .core)) f = f) :
    exec (.loadDataArrival fe idx) s = .next (arrive s fe p (.error (f.cause, f.ea))) := by
  change execLoadDataArrival fe idx s = _
  simp only [execLoadDataArrival, hp, hkind, hout, hbound, hmay, hread, hdst]
  rfl

/-- A generator read of a lost header parks the Milliner with D43 (R107, R324). -/
theorem exec_gld_d43 {d a : BitVec 5} {imm : BitVec 16} (hea : ea = (s.here.rG a).val + imm.signExtend 64)
    (h : GenReaches s (s.here.rG a) ea false l) (hmedia : mediaFault s s.cur l ea = some ⟨12, .d43, ea⟩) :
    ∃ t, exec (.gld d a imm) s = .next t ∧ t.here.gen.stat = .parked .d43 ∧ t.here.gen.g = s.here.gen.g ∧
      t.here.gen.gpc = s.here.gen.gpc := by
  subst hea
  have hexec : exec (.gld d a imm) s
      = .next (genFault (mediaTaken s s.cur .gen .d43 ((s.here.rG a).val + imm.signExtend 64)) .d43 ((s.here.rG a).val + imm.signExtend 64)) := by
    change execGld d a imm s = _
    rw [execGld, genAccess_runs h]
    simp only [hmedia]
  refine ⟨_, hexec, ?_⟩
  generalize (s.here.rG a).val + imm.signExtend 64 = x
  obtain ⟨b, v, htaken⟩ := mediaTaken_ctx s s.cur .gen .d43 x
  have hcur := mediaTaken_cur s s.cur .gen .d43 x
  obtain ⟨hcur', held, hparked⟩ := trapG_parks (s := mediaTaken s s.cur .gen .d43 x) (fe := s.cur) (cause := .d43) (sw := 0#16)
    (word := 0#64) (addr := x) (by decide) (by decide)
  rw [genFault, hcur, State.here, hcur', hcur, hparked, htaken]
  exact ⟨rfl, rfl, rfl⟩

end Faults

/-! ### A store ends the error (R322) -/

/-- A byte that reaches memory ends the error of its line. -/
theorem mediaWritten_media {s : State} {n k : Nat} {e : MediaErr} (h : pget s.media (k / 64) = some e) :
    pget (mediaWritten s n k).media (k / 64) = some { e with written := e.written ||| (1#64 <<< (k % 64)) } := by
  have hmark (t : State) (c : Bool) (a : Nat) : (if c then t.setLinePoison a true else t).media = t.media := by split <;> rfl
  simp only [mediaWritten, dropFilled, hmark, h]
  exact pget_pset_same ..

theorem written_ends (e : MediaErr) (i : Nat) (hi : i < 64) :
    ({ e with written := e.written ||| (1#64 <<< i) } : MediaErr).stands = false := by
  refine beq_eq_false_iff_ne.mpr fun h => ?_
  have hbit := congrArg (·.getLsbD i) h
  simp [-BitVec.getLsbD_eq_getElem, hi] at hbit

/-- Settles O41: a read that meets an error (`Meets`) counts it and holds the line as delivered, and each fault has its own
equation. -/
theorem guardedLinesAreDeliveredAndCounted : Obligations.GuardedLinesAreDeliveredAndCounted := by
  unfold Obligations.GuardedLinesAreDeliveredAndCounted
  intro s fe l ea e k n t w w' bad
  refine ⟨fun herr hstands hreach => ?_, mediaFault_d41, ?_, ?_, ?_⟩
  · have h : Meets s fe l k e := ⟨herr, hstands, hreach⟩
    have hkv : w' = kvCount w e := h.kvpol
    refine ⟨hkv ▸ kvCount_fields w e, ?_, h.media, h.leafPoison, h.held, fun hA hB => ?_, fun j hj hpar => h.mediaByte_low hj hpar⟩
    · rw [h.errors, e.length_events, MediaErr.groups]
      omega
    · obtain ⟨hdead, hleaf⟩ := h.lost hA hB
      exact ⟨h.filled.trans (if_pos hdead), fun htag => mediaFault_d43 htag hleaf⟩
  · intro idx p r f hp hkind hout hbound hfrz hmay _ hread hdst
    exact ⟨_, exec_loadDataArrival_fault hp hkind hout hbound hmay hread hdst, arrive_error hfrz⟩
  · intro d a imm hfe hea hpoison haligned hspm hleaf hpage hperm hspace hgst hheld hmedia
    have hreaches : spGld (l.spaceAt ea) = true := by rcases hspace with h | h <;> rw [h] <;> rfl
    exact exec_gld_d43 hea ⟨hgst, hpoison, haligned, hspm, hleaf, hpage, hperm, hreaches, hheld⟩ hmedia
  · intro b herr hpool hcls
    refine ⟨_, ?_, written_ends e (k % 64) (Nat.mod_lt _ (by decide))⟩
    rw [performBytes, if_neg hcls, if_neg (ne_true_of_eq_false hpool), performBytes]
    exact mediaWritten_media (s := { s with mem := memWrite s.mem k b }) herr

end Sys2Proof.Machine
end

section
/-! SUPPORT. The lengths of what an image is made of: AES round keys and blocks, the tag, the header (13_system R379, R385, R388): O47. -/
namespace Sys2Proof.Machine

/-! ### AES-256 and GCM (R379) -/

theorem length_xorBytes (a b : List Byte) : (xorBytes a b).length = min a.length b.length := List.length_zipWith

/-- Every word of a key schedule that goes on from eight words or more has four bytes. -/
theorem keyWords_lengths {w : List (List Byte)} (rcon : Byte) (i n : Nat) (hlen : 8 ≤ w.length) (hw : ∀ x ∈ w, x.length = 4) :
    (keyWords w rcon i n).length = w.length + n ∧ ∀ x ∈ keyWords w rcon i n, x.length = 4 := by
  induction n generalizing w rcon i with
  | zero => exact ⟨List.length_reverse, fun x hx => hw x (List.mem_reverse.mp hx)⟩
  | succ n ih =>
    have hfirst : (w.headD []).length = 4 := by
      cases w with
      | nil => simp at hlen
      | cons x t => exact hw x List.mem_cons_self
    have hold : (w.getD 7 []).length = 4 := by
      rw [← List.getElem_eq_getD (h := hlen)]
      exact hw _ (List.getElem_mem hlen)
    have hnext (x : List Byte) (hx : x.length = 4) (rcon : Byte) :
        (keyWords (xorBytes (w.getD 7 []) x :: w) rcon (i + 1) n).length = w.length + (n + 1) ∧
          ∀ y ∈ keyWords (xorBytes (w.getD 7 []) x :: w) rcon (i + 1) n, y.length = 4 := by
      have hall : ∀ y ∈ xorBytes (w.getD 7 []) x :: w, y.length = 4 := List.forall_mem_cons.mpr
        ⟨by rw [length_xorBytes, hold, hx, Nat.min_self], hw⟩
      obtain ⟨hl, hy⟩ := ih rcon (i + 1) (hlen.trans (Nat.le_succ _)) hall
      exact ⟨by rw [hl, List.length_cons, Nat.add_right_comm, Nat.add_assoc], hy⟩
    rw [keyWords]
    dsimp only
    split
    · exact hnext _ rfl _
    · split
      · exact hnext _ (by rw [List.length_map, hfirst]) _
      · exact hnext _ hfirst _

/-- The 15 round keys have 16 bytes each. -/
theorem roundKeys_lengths (key : BitVec 256) : (roundKeys key).length = 15 ∧ ∀ k ∈ roundKeys key, k.length = 16 := by
  have hfirst : ∀ x ∈ ((List.range 8).map (fun i => ((beBytes key.toNat 32).drop (4 * i)).take 4)).reverse, x.length = 4 := by
    intro x hx
    obtain ⟨i, hi, rfl⟩ := List.mem_map.mp (List.mem_reverse.mp hx)
    have hi := List.mem_range.mp hi
    rw [List.length_take, List.length_drop, length_beBytes]
    omega
  obtain ⟨hlen, hwords⟩ := keyWords_lengths 1#8 8 52 (by simp) hfirst
  refine ⟨by rw [roundKeys, List.length_map, List.length_range], fun k hk => ?_⟩
  obtain ⟨r, hr, rfl⟩ := List.mem_map.mp hk
  have hr := List.mem_range.mp hr
  rw [List.length_reverse, List.length_map, List.length_range] at hlen
  generalize keyWords _ _ _ _ = w at hlen hwords
  have hfour : ∀ x ∈ (w.drop (4 * r)).take 4, x.length = 4 := fun x hx => hwords x (List.mem_of_mem_drop (List.mem_of_mem_take hx))
  rw [List.length_flatten, List.map_congr_left hfour, List.map_const', List.sum_replicate, List.length_take, List.length_drop, hlen]
  simp only [smul_eq_mul]
  omega

theorem length_aesRounds {s : List Byte} {ks : List (List Byte)} (hs : s.length = 16) (hk : ∀ k ∈ ks, k.length = 16) :
    (aesRounds s ks).length = 16 := by
  induction ks generalizing s with
  | nil => exact hs
  | cons k t ih =>
    have hkey := hk k List.mem_cons_self
    cases t with
    | nil => rw [aesRounds, length_xorBytes, hkey, shiftRows, List.length_map, List.length_range, Nat.min_self]
    | cons k' t =>
      refine ih ?_ fun x hx => hk x (List.mem_cons_of_mem _ hx)
      rw [length_xorBytes, hkey]
      rfl

theorem length_aesBlock {ks : List (List Byte)} {b : List Byte} (hb : b.length = 16) (hne : ks ≠ []) (hk : ∀ k ∈ ks, k.length = 16) :
    (aesBlock ks b).length = 16 := by
  cases ks with
  | nil => exact absurd rfl hne
  | cons k t =>
    refine length_aesRounds ?_ fun x hx => hk x (List.mem_cons_of_mem _ hx)
    rw [length_xorBytes, hb, List.headD_cons, hk k List.mem_cons_self, Nat.min_self]

/-- Under an IV of 12 bytes the tag has 16. -/
theorem length_gcmEncrypt_tag (key : BitVec 256) {iv : List Byte} (aad plain : List Byte) (hiv : iv.length = 12) :
    (gcmEncrypt key iv aad plain).2.length = 16 := by
  obtain ⟨hlen, hkeys⟩ := roundKeys_lengths key
  have hne : roundKeys key ≠ [] := fun h => by simp [h] at hlen
  have hblock : (iv ++ beBytes 1 4).length = 16 := by rw [List.length_append, hiv, length_beBytes]
  rw [gcmEncrypt, gcmTag, length_xorBytes, length_beBytes, length_aesBlock hblock hne hkeys, Nat.min_self]

/-! ### The header (R385, R388) -/

theorem length_wordBytes (w : Word) : (wordBytes w).length = 8 := length_natBytes ..

theorem length_imageIv (scidx : BitVec 16) (savecnt : Word) : (imageIv scidx savecnt).length = 12 := by
  simp [imageIv, length_wordBytes]

theorem length_imageHead (c : Ctx) (fe : FeId) (savecnt : Word) : (imageHead c fe savecnt).length = 80 := by
  simp [imageHead, length_wordBytes]

theorem length_imageDir (off id : Nat) (l : List (List Byte)) : (imageDir off id l).length = l.length := by
  induction l generalizing off id with
  | nil => rfl
  | cons x t ih => rw [imageDir, List.length_cons, ih, List.length_cons]

/-- The directory of the fifteen sections, with room for five more. -/
theorem length_directory (c : Ctx) : ((imageDir 4 1 (imageSections c)).flatMap wordBytes ++ List.replicate 40 0#8).length = 160 := by
  have hsections : (imageSections c).length = 15 := by rw [imageSections, List.length_map, List.length_range]
  rw [List.length_append, List.length_flatMap, List.map_congr_left (fun w _ => length_wordBytes w), List.map_const', List.sum_replicate,
    length_imageDir, hsections, List.length_replicate]
  rfl

/-- The header of an image has 256 bytes. -/
theorem length_makeImage_head (s : State) (fe : FeId) (c : Ctx) : (makeImage s fe c).1.length = 256 := by
  have hdir := length_directory c
  unfold makeImage
  dsimp only
  split
  · simp only [List.length_append, length_imageHead, length_gcmEncrypt_tag _ _ _ (length_imageIv ..)] at hdir ⊢
    omega
  · simp only [List.length_append, length_imageHead, List.length_replicate] at hdir ⊢
    omega

/-- Behind the header of a context that is not protected stand the plain sections (R386). -/
theorem makeImage_body {s : State} {fe : FeId} {c : Ctx} (h : c.prot = false) : (makeImage s fe c).2 = (imageSections c).flatten := by
  unfold makeImage
  dsimp only
  rw [if_neg (ne_true_of_eq_false h)]

end Sys2Proof.Machine
end

section
/-! SUPPORT. Stops, the image port, restores and the Crown's writes of weir entries (11_attention R305, 12_tasks R332, 13_system R358 to
R367, R386 to R390): O47. -/
namespace Sys2Proof.Machine

/-! ### Stops (R139, R360) -/

section Stop
variable {s : State} {fe : FeId} {sw : BitVec 16}

/-- A context stopped with A60: it holds its record, or the ring does (R360, R363). -/
theorem takeStop_a60 {c : Ctx} (hc : s.ctx fe = c) (hsilent : c.stops.silent = false) (hengine : c.stops.engine = [])
    (ha60 : c.stops.a60 = some sw) : ∃ l, (takeStop s fe).ctx fe
      = { c with held := l, life := .stopped, frz := .none, parkB := none, stops := { c.stops with a60 := none } } := by
  subst hc
  obtain ⟨l, hl, -⟩ := putRec_ctx s fe fe (mkRec s fe .a60 false 0#8 false false sw 0#16 (s.ctx fe).chk.prov (s.ctx fe).chk.word
    0#64 0#64 0#64)
  refine ⟨l, ?_⟩
  have htake : takeStop s fe = (stopAt s fe .a60 false sw).modStops fe (fun t => { t with a60 := none }) := by
    simp only [takeStop, hsilent, hengine, ha60, lowestEngine, Bool.false_eq_true, if_false]
  rw [htake, State.modStops, State.ctx_modCtx_same, stopAt, State.ctx_modCtx_same, trapAsync, hl,
    if_pos (show Cause.cls .a60 = .a from rfl)]

theorem stops_any_of_a60 {t : Stops} (h : t.engine = []) (ha60 : t.a60 = some sw) : t.any = true := by
  simp [Stops.any, Stops.first, h, ha60, lowestEngine]

/-- A pending A60 of a context that runs, and that waits for nothing (R360). -/
structure StopPends (c : Ctx) (sw : BitVec 16) : Prop where
  running : c.life = .running
  silent : c.stops.silent = false
  engine : c.stops.engine = []
  a60 : c.stops.a60 = some sw

theorem asyncStopTake_checkpoint (h : StopPends (s.ctx fe) sw) (hclean : (s.ctx fe).clean = true) (hfrz : (s.ctx fe).frz = .none)
    (hidle : (s.ctx fe).idle ≠ .quiet) (hloop : (s.ctx fe).regs.loop.active = false) :
    exec (.asyncStopTake fe) s = .next (takeStop s fe) := by
  have hany := stops_any_of_a60 h.engine h.a60
  change execAsyncStopTake fe s = _
  simp [execAsyncStopTake, h.running, h.silent, hany, hclean, hfrz, hidle, hloop, Frz.isWait, Frz.before]

theorem asyncStopTake_nest (h : StopPends (s.ctx fe) sw) (hfrz : (s.ctx fe).frz = .none) (hidle : (s.ctx fe).idle ≠ .quiet)
    (hloop : (s.ctx fe).regs.loop.active = true) :
    exec (.asyncStopTake fe) s
      = .next (s.modCtx fe (fun c => { c with regs := { c.regs with loop := { c.regs.loop with stopreq := true } } })) := by
  have hany := stops_any_of_a60 h.engine h.a60
  change execAsyncStopTake fe s = _
  simp [execAsyncStopTake, h.running, h.silent, hany, hfrz, hidle, hloop, Frz.isWait]

/-- The context that stops at a quiet point: its checkpoint is taken, its gate released, its undo log empty (R139). -/
def Ctx.quieted (c : Ctx) : Ctx :=
  { c.releaseGate with spm := { c.spm with undo := [] }, idle := Idle.none, clean := true,
                       chk := { c.chk with regs := c.regs, record := [], beat := c.beat, endq := false } }

theorem exec_quietPoint (hrun : (s.ctx fe).life = .running) (hidle : (s.ctx fe).idle = .quiet) (hpend : (s.ctx fe).pend = []) :
    exec (.quietPoint fe) s = .next (takeStop (s.setCtx fe (s.ctx fe).quieted) fe) := by
  change execQuietPoint fe s = _
  rw [execQuietPoint, if_pos ⟨hrun, hidle, by rw [hpend]; rfl⟩]
  rfl

end Stop

/-! ### Resumption (R359, R367) -/

/-- Where no matrix command goes on from its frozen state, a context that resumes just runs (R191, R359). -/
theorem resumeCtx_of_restsNothing {s : State} {fe : FeId} (h : RestsNothing (s.ctx fe)) :
    resumeCtx s fe = s.modCtx fe (fun c => c.resumed s.cycle) := by
  have hmat : (s.modCtx fe (fun c => c.resumed s.cycle)).mat fe = (s.ctx fe).eng.mat := by
    rw [State.mat, State.ctx_modCtx_same]
    rfl
  unfold resumeCtx
  dsimp only
  rw [hmat]
  split
  · rfl
  next hfrozen =>
    have hrun := h.resolve_left hfrozen
    unfold resumeMatrix
    rw [hmat]
    split
    · rfl
    next r hr => rw [hrun r hr, Bool.not_false, if_pos rfl]

theorem exec_resume_stopped {s : State} {fe : FeId} (h : (s.ctx fe).mayResume = true) (hrests : RestsNothing (s.ctx fe)) :
    exec (.resume fe) s = .next (s.modCtx fe (fun c => c.resumed s.cycle)) := by
  rw [← resumeCtx_of_restsNothing hrests]
  exact congrArg Host.Outcome.next (if_pos h)

theorem exec_resume_parked {s : State} {fe : FeId} (hrun : (s.ctx fe).life = .running) (h : (s.ctx fe).gen.isParked = true) :
    exec (.resume fe) s = .next (s.setCtx fe { s.ctx fe with gen := { (s.ctx fe).gen with stat := .running } }) := by
  have hnot : ¬ (s.ctx fe).mayResume = true := by simp [Ctx.mayResume, hrun]
  exact congrArg Host.Outcome.next ((if_neg hnot).trans (if_pos ⟨hrun, h⟩))

/-! ### SAVE and UNBIND (R330, R386 to R388) -/

section Save
variable {s : State} {fe : FeId}

theorem putImageBytes_frame (s : State) (a : Nat) (l : List Byte) :
    (putImageBytes s a l).mem = memWrites s.mem a l ∧ ∀ g, (putImageBytes s a l).ctx g = s.ctx g :=
  List.foldlRecOn (motive := fun t : State => t.mem = memWrites s.mem a l ∧ ∀ g, t.ctx g = s.ctx g) _ _ ⟨rfl, fun _ => rfl⟩
    fun _ ht _ _ => ht

theorem restEngines_ctx (s : State) (fe : FeId) : ∃ e, (restEngines s fe).ctx fe = { s.ctx fe with eng := e } :=
  ⟨_, State.ctx_modCtx_same ..⟩

/-- The state in which the image is made: a protected context's entry of the save-counter table has advanced (R388). -/
def savedState (s : State) (fe : FeId) : State :=
  let t := restEngines s fe
  if (t.ctx fe).prot then advanceEntry t ((t.ctx fe).ident.scidx.getD 0#16) else t

/-- The image that a save writes. -/
def savedImage (s : State) (fe : FeId) : List Byte × List Byte :=
  makeImage (savedState s fe) fe ((restEngines s fe).ctx fe).imaged

theorem writeImage_eq (s : State) (fe : FeId) :
    writeImage s fe = (putImageBytes (savedState s fe) ((restEngines s fe).ctx fe).img.addr.toNat
        ((savedImage s fe).1 ++ (savedImage s fe).2)).setCtx fe
      { (restEngines s fe).ctx fe with img := { ((restEngines s fe).ctx fe).img with
          busy := false, st := 1#4, len := BitVec.ofNat 32 ((savedImage s fe).1 ++ (savedImage s fe).2).length, saved := true } } := rfl

/-- What a save leaves: the port rests with the length of the image, the registers stand, and the image is in memory (R387). -/
theorem writeImage_leaves (s : State) (fe : FeId) :
    ((writeImage s fe).ctx fe).regs = (s.ctx fe).regs ∧
    ((writeImage s fe).ctx fe).img = { (s.ctx fe).img with
      busy := false, st := 1#4, len := BitVec.ofNat 32 ((savedImage s fe).1 ++ (savedImage s fe).2).length, saved := true } ∧
    ∀ j x, ((savedImage s fe).1 ++ (savedImage s fe).2)[j]? = some x →
      memRead (writeImage s fe).mem ((s.ctx fe).img.addr.toNat + j) = x := by
  obtain ⟨e, he⟩ := restEngines_ctx s fe
  rw [writeImage_eq, State.ctx_setCtx_same, State.setCtx_mem, (putImageBytes_frame ..).1, he]
  refine ⟨rfl, rfl, fun j x hx => ?_⟩
  obtain ⟨hj, rfl⟩ := List.getElem?_eq_some_iff.mp hx
  exact memRead_memWrites_at hj

/-- A context that is ready to be saved needs no save-counter index, or has one (R388). -/
theorem giveScidx_of_saveReady (h : saveReady (s.ctx fe) = true) : giveScidx s fe = s := by
  have hidx : (!(s.ctx fe).prot || (s.ctx fe).ident.scidx.isSome) = true := by
    simp only [saveReady, Bool.and_eq_true] at h
    obtain ⟨⟨⟨⟨⟨hidx, -⟩, -⟩, -⟩, -⟩, -⟩ := h
    exact hidx
  unfold giveScidx
  exact if_pos hidx

/-- The image port writes the image of a stopped context whose engines rest (R387, R388). -/
theorem exec_imagePortDone_save (hstopped : (s.ctx fe).life = .stopped) (hbusy : (s.ctx fe).img.busy = true)
    (hpri : (s.ctx fe).priOk = false) (hready : saveReady (s.ctx fe) = true) :
    exec (.imagePortDone fe) s = .next (writeImage s fe) := by
  have hkeep : releasePri (writeImage s fe) fe = writeImage s fe := by
    have hpri' : ((writeImage s fe).ctx fe).priOk = false := by
      obtain ⟨e, he⟩ := restEngines_ctx s fe
      rw [writeImage_eq, State.ctx_setCtx_same, he]
      exact hpri
    exact if_neg (by rw [hpri']; simp)
  change execImagePortDone fe s = _
  simp only [execImagePortDone, hbusy, hstopped, giveScidx_of_saveReady hready, hready, hkeep]
  rfl

theorem modTask_ctx (s : State) (id : BitVec 32) (f : Task → Task) (g : FeId) : (s.modTask id f).ctx g = s.ctx g := rfl

theorem task_modTask_some {id : BitVec 32} {f : Task → Task} {y : Task} (hf : ∀ t, (f t).id = t.id) (hy : s.task id = some y) :
    (s.modTask id f).task id = some (f y) := by
  rw [State.task_modTask hf, hy, Option.map_some]

/-- A task that holds one more image, with what its context has made and observed (R330). -/
def Task.withImage (t : Task) (fe : FeId) (a : Word) (out : Clock) : Task :=
  { t with saved := t.saved ++ [(fe, a)], sync := Clock.join t.sync out }
/-- A task that its contexts have left with images: ELIGIBLE since `now` (R330). -/
def Task.requeued (t : Task) (now : Nat) : Task :=
  { t with st := .eligible, images := true, preempt := false, since := now, age := 0, place := t.saved.map (·.1) }

/-- A task whose last context has left an image is ELIGIBLE again (R330). -/
theorem taskLeft_saved {id : BitVec 32} {y : Task} (hy : s.task id = some y) (hrun : y.st = .running) (hlive : y.live = [])
    (htorn : y.torn = false) (hsaved : y.saved ≠ []) : taskLeft s id = s.modTask id (·.requeued s.time.toNat) := by
  simp [taskLeft, hy, hrun, hlive, htorn, hsaved, Task.requeued]

theorem exec_unbind_saved (hstopped : (s.ctx fe).life = .stopped) (hsaved : (s.ctx fe).img.saved = true)
    (hbusy : (s.ctx fe).img.busy = false) {y : Task} (hy : s.task (s.ctx fe).ident.task = some y) (hrun : y.st = .running)
    (hlive : y.live = [fe]) (htorn : y.torn = false) :
    ∃ (t : State) (z : Task), exec (.unbind fe) s = .next t ∧ isBound (t.ctx fe) = false ∧ t.task (s.ctx fe).ident.task = some z ∧
      z.st = .eligible ∧ z.images = true ∧ z.saved = y.saved ++ [(fe, (s.ctx fe).img.addr)] := by
  let out := Clock.join (s.clockOf fe) [(agentChan fe false, s.stamp), (agentChan fe true, s.stamp)]
  let u := s.modTask (s.ctx fe).ident.task (·.withImage fe (s.ctx fe).img.addr out)
  have hexec : exec (.unbind fe) s = .next (taskLeft (departCtx u fe) (s.ctx fe).ident.task) :=
    congrArg Host.Outcome.next ((if_neg (not_not.mpr hstopped)).trans (if_pos ⟨hsaved, by rw [hbusy]; rfl⟩))
  have hid : y.id = (s.ctx fe).ident.task := State.task_id hy
  have htask : u.task (s.ctx fe).ident.task = some (y.withImage fe (s.ctx fe).img.addr out) := task_modTask_some (fun _ => rfl) hy
  have hleft : (departCtx u fe).task (s.ctx fe).ident.task
      = some { y.withImage fe (s.ctx fe).img.addr out with live := y.live.filter (· != fe) } := by
    rw [departCtx_task, htask, Option.map_some]
    exact congrArg some (if_pos hid)
  rw [taskLeft_saved hleft hrun (by simp [hlive]) htorn (by simp [Task.withImage])] at hexec
  exact ⟨_, _, hexec, departCtx_unbinds u fe, task_modTask_some (fun _ => rfl) hleft, rfl, rfl, rfl⟩

end Save

/-! ### RESTORE (R389, R390) -/

section Restore
variable {s : State} {fe : FeId} {a : Nat} {m : Ctx} {k : Kernel}

theorem mediaEvents_kernels (s : State) (src : BitVec 16) (line : Nat) (e : MediaErr) :
    (mediaEvents s src line e).hw.kernels = s.hw.kernels := by
  refine List.foldlRecOn (motive := fun t : State => t.hw.kernels = s.hw.kernels) e.events _ rfl fun t ht c _ => ?_
  unfold State.traceEv
  split_ifs <;> exact ht

theorem hwRead_kernels (s : State) (a n : Nat) : (hwRead s a n).hw.kernels = s.hw.kernels := by
  refine List.foldlRecOn (motive := fun t : State => t.hw.kernels = s.hw.kernels) _ _ rfl fun t ht i _ => ?_
  split
  · exact ht
  · split
    · exact (mediaEvents_kernels ..).trans ht
    · exact ht

/-- The state of an accepted image is at its front end, and the dispatcher is as before (R389). -/
theorem restoreOne_accepts (hcheck : checkImage s fe a = (1#4, some m)) (hk : kernelOf s m.ident.kern = some k) :
    ∃ t c pages ord, restoreOne s fe a = (t, 1#4) ∧ t.ctx fe = loadCtx c m pages ord ∧ t.disp = s.disp := by
  generalize hn : 256 + dirExtent (memReads s.mem a 256) = n
  generalize hread : { hwRead s a n with fresh := s.fresh + 512 } = r
  generalize hadv : (if m.prot then advanceEntry r (m.ident.scidx.getD 0#16) else r) = u
  have hdisp : u.disp = s.disp := by
    rw [← hadv, ← hread]
    split <;> exact (hwRead_sameCtxsDisp ..).disp
  have hkernel : kernelOf u m.ident.kern = some k := by
    have hkernels : u.hw.kernels = s.hw.kernels := by
      rw [← hadv, ← hread]
      split <;> exact hwRead_kernels ..
    rw [← hk, kernelOf, hkernels, kernelOf]
  let c := { u.ctx fe with img := { (u.ctx fe).img with len := BitVec.ofNat 32 n, saved := false } }
  let x := loadCtx c m (storePages u fe m.ident.kern k) (restoredOrder u m.ident.task)
  obtain ⟨hctxs, hdisp'⟩ := mapKernel_sameCtxsDisp (u.setCtx fe x) fe k x.pages
  refine ⟨dropRewritten ((mapKernel (u.setCtx fe x) fe k x.pages).setCore (coreOf fe)
      (((mapKernel (u.setCtx fe x) fe k x.pages).core (coreOf fe)).clearLeft fe x.spm.size)) fe 1#2, c,
    storePages u fe m.ident.kern k, restoredOrder u m.ident.task, ?_, ?_, hdisp'.trans hdisp⟩
  · simp only [restoreOne, hcheck, hn, hread, hadv, hkernel]
    rfl
  · exact (State.ctx_of_ctxs hctxs fe).trans (State.ctx_setCtx_same ..)

theorem exec_restore (hcheck : checkImage s fe (s.ctx fe).img.addr.toNat = (1#4, some m)) (hk : kernelOf s m.ident.kern = some k)
    (hlife : (s.ctx fe).life = .unbound) (hbusy : (s.ctx fe).img.busy = false) (hheld : (s.ctx fe).held = []) :
    ∃ t c pages ord, exec (.restore fe) s = .next t ∧
      t.ctx fe = { loadCtx c m pages ord with img := { c.img with busy := true, pendSt := 1#4 } } := by
  obtain ⟨t, c, pages, ord, hone, hctx, -⟩ := restoreOne_accepts hcheck hk
  refine ⟨(t.modCtx fe (fun c => { c with img := { c.img with busy := true, pendSt := 1#4 } })).modTask
    (BitVec.ofNat 32 (bytesAt (memReads s.mem (s.ctx fe).img.addr.toNat 256) 12 4)) (fun y => { y with live := y.live ++ [fe] }),
    c, pages, ord, ?_, ?_⟩
  · change execRestore fe s = _
    simp only [execRestore, restoreCmd, hlife, hbusy, hheld, hone]
    rfl
  · rw [modTask_ctx, State.ctx_modCtx_same, hctx]
    rfl

/-- The port of a free front end reports what the restore found (R387, R389). -/
theorem exec_imagePortDone_report (hlife : (s.ctx fe).life = .unbound) (hbusy : (s.ctx fe).img.busy = true)
    (htask : s.task (s.ctx fe).ident.task = none) : exec (.imagePortDone fe) s
      = .next (s.setCtx fe { s.ctx fe with img := { (s.ctx fe).img with busy := false, st := (s.ctx fe).img.pendSt } }) := by
  have htask' (c : Ctx) : (s.setCtx fe c).task (s.ctx fe).ident.task = none := htask
  change execImagePortDone fe s = _
  simp only [execImagePortDone, hbusy, hlife, htask']
  rfl

end Restore

/-! ### Gangs (R21, R332, R390) -/

section Gang
variable {s : State} {fe : FeId}

/-- A gang whose only saved context is back runs (R21, R390). -/
theorem runRestored_one {t : Task} {a : Word} (ht : s.task t.id = some t) (hsaved : t.saved = [(fe, a)]) (hrests : RestsNothing (s.ctx fe)) :
    ((runRestored s t).ctx fe) = (s.ctx fe).resumed s.cycle ∧
      ∃ z, (runRestored s t).task t.id = some z ∧ z.st = .running ∧ z.images = false := by
  unfold runRestored
  rw [hsaved]
  simp only [List.foldl_cons, List.foldl_nil, resumeCtx_of_restsNothing hrests]
  refine ⟨?_, ?_⟩
  · rw [taskEvent, traceEv_ctx]
    exact (State.ctx_of_ctxs (s := s.modCtx fe (fun c => c.resumed s.cycle)) rfl fe).trans (State.ctx_modCtx_same ..)
  · rw [taskEvent, State.task, (traceEv_sameCtxsDisp ..).disp]
    exact ⟨_, task_modTask_some (s := s.modCtx fe (fun c => c.resumed s.cycle)) (fun _ => rfl) ht, rfl, rfl⟩

/-- The next saved place takes its context, which the task then counts (R390). -/
theorem restoreAll_cons {t : State} {a : Word} {id : BitVec 32} {rest : List (FeId × Word)} (h : restoreOne s fe a.toNat = (t, 1#4)) :
    restoreAll s id ((fe, a) :: rest) = restoreAll ((t.modCtx fe (fun c => { c with img := { c.img with st := 1#4, addr := a } })).modTask id
      (fun t => { t with live := t.live ++ [fe] })) id rest := by
  simp only [restoreAll, h, if_true]

theorem restoreAll_nil {id : BitVec 32} {t : Task} (h : s.task id = some t) : restoreAll s id [] = runRestored s t := by
  simp only [restoreAll, h]

theorem exec_gangRestore_one {y : Task} {a : Word} {m : Ctx} {k : Kernel} (hy : s.task y.id = some y) (hen : s.disp.en = true)
    (hhold : s.disp.hold = false) (hst : y.st = .eligible) (himages : y.images = true) (hsaved : y.saved = [(fe, a)])
    (hreach : reaches s y.id = true) (hplace : canPlace s y [] = true) (hcheck : checkImage s fe a.toNat = (1#4, some m))
    (hk : kernelOf s m.ident.kern = some k) (hrests : RestsNothing m) :
    ∃ (t : State) (z : Task), exec (.gangRestore y.id) s = .next t ∧ (t.ctx fe).life = .running ∧ (t.ctx fe).regs = m.regs ∧
      t.task y.id = some z ∧ z.st = .running ∧ z.images = false := by
  obtain ⟨r, c, pages, ord, hone, hctx, hdisp⟩ := restoreOne_accepts hcheck hk
  let u := (r.modCtx fe (fun c => { c with img := { c.img with st := 1#4, addr := a } })).modTask y.id (fun t => { t with live := t.live ++ [fe] })
  let y' : Task := { y with live := y.live ++ [fe] }
  have hu : u.task y.id = some y' := by
    have hr : r.task y.id = some y := by rw [State.task, hdisp]; exact hy
    exact task_modTask_some (s := r.modCtx fe _) (fun _ => rfl) hr
  have hctx' : u.ctx fe = { loadCtx c m pages ord with img := { c.img with st := 1#4, addr := a } } := by
    rw [modTask_ctx, State.ctx_modCtx_same, hctx]
    rfl
  have hrestsU : RestsNothing (u.ctx fe) := by
    rw [hctx']
    exact hrests
  obtain ⟨hrun, z, hz, hzst, hzimages⟩ := runRestored_one (t := y') hu hsaved hrestsU
  refine ⟨runRestored u y', z, ?_, ?_, ?_, hz, hzst, hzimages⟩
  · change execGangRestore y.id s = _
    have hmay : (s.disp.en && !s.disp.hold && y.st == .eligible && y.images && reaches s y.id && canPlace s y []) = true := by
      rw [hen, hhold, hst, himages, hreach, hplace]
      rfl
    simp only [execGangRestore, hy]
    rw [if_pos hmay, hsaved, restoreAll_cons hone, restoreAll_nil hu]
  · rw [hrun]
    rfl
  · rw [hrun, hctx']
    rfl

end Gang

/-! ### The Crown's writes of weir entries (R305) -/

section Weir
variable {s : State} {core : CoreId} {n : Nat}

/-- An owned segment is one of the sixteen. -/
theorem segOwner_lt {x : FeId × Nat} (hn : n < 16) (h : segOwner s core n = some x) : x.2 < 16 := by
  unfold segOwner at h
  dsimp only at h
  split at h
  · cases h
    exact hn
  · split at h
    · cases h
      exact (Nat.sub_le ..).trans_lt hn
    · cases h

/-- A write of a segment leaves the shares as they are. -/
theorem segOwner_setSegAt (g : WeirSeg) : segOwner (setSegAt s core n g) core n = segOwner s core n := by
  have hshare (fe : FeId) : ((setSegAt s core n g).ctx fe).eng.weirSegs = (s.ctx fe).eng.weirSegs := by
    unfold setSegAt
    split
    · rw [State.ctx_modCtx]
      split
      next h => rw [h]; rfl
      · rfl
    · rfl
  rw [segOwner, hshare, hshare, segOwner]

/-- A segment reads back as it was written, in a share or in none. -/
theorem segAt_setSegAt (g : WeirSeg) (hn : n < 16) : segAt (setSegAt s core n g) core n = g := by
  unfold segAt
  rw [segOwner_setSegAt]
  cases hown : segOwner s core n with
  | some x =>
    obtain ⟨own, k⟩ := x
    simp only [setSegAt, hown, State.ctx_modCtx_same]
    exact Engines.seg_setSeg_same _ g (segOwner_lt hn hown)
  | none =>
    simp only [setSegAt, hown, State.core_setCore_same]
    simp [hn]

/-- A legal entry is written into an unlocked segment whose owner, if it has one, lets the Crown write (R303, R305). -/
theorem exec_crownWeirWrite_entry {fe : FeId} {off : BitVec 16} {data : Word} {g : WeirSeg} (hcore : core = fe.extractLsb' 1 8)
    (hg : g = segAt s core (off.toNat / 4096))
    (hmay : ∀ x, segOwner s core (off.toNat / 4096) = some x → crownMayWrite (s.ctx x.1) = true)
    (haligned : off.toNat % 4096 % 8 = 0) (hentry : off.toNat % 4096 < 0x800) (hlock : g.locked = false) (hlegal : weirIllegal data = false) :
    exec (.crownWeirWrite fe off data) s = .next (setSegAt s core (off.toNat / 4096)
      { g with ents := mset 0#64 g.ents (off.toNat % 4096 / 8) data, ep := mset false g.ep (off.toNat % 4096 / 8) false }) := by
  subst hg hcore
  have howner : ¬ (segOwner s (fe.extractLsb' 1 8) (off.toNat / 4096)).any (fun x => !crownMayWrite (s.ctx x.1)) = true := by
    cases hown : segOwner s (fe.extractLsb' 1 8) (off.toNat / 4096) with
    | none => simp
    | some x => simp [hmay x hown]
  have hplace : ¬ (off.toNat % 4096 % 8 ≠ 0 || 0x800 < off.toNat % 4096) = true := by simp [haligned, hentry.le]
  have hwritable : ¬ ((segAt s (fe.extractLsb' 1 8) (off.toNat / 4096)).locked || weirIllegal data) = true := by simp [hlock, hlegal]
  change execCrownWeirWrite fe off data s = _
  rw [execCrownWeirWrite, crownWeir]
  dsimp only
  rw [if_neg howner, if_neg hplace, if_neg hentry.ne, if_neg hwritable]

end Weir

/-- Settles O47: each command has its equation above, a pending stop is taken by `takeStop_a60`, and what a save writes and a restore loads
is said by `writeImage_eq` and `restoreOne_accepts`. -/
theorem crownCommandsAct : Obligations.CrownCommandsAct := by
  unfold Obligations.CrownCommandsAct
  intro s fe ch y a m k off data sw c stops off8 core seg
  refine ⟨?resume, ?running, ?kill, ?stopped, ?save, ?restore, exec_imagePortDone_report, ?gang, ?weir⟩
  case resume =>
    intro hmay hrests
    refine ⟨_, exec_resume_stopped hmay hrests, ?_, ?_, ?_, ?_, fun _ => rfl⟩ <;> rw [State.ctx_modCtx_same] <;> rfl
  case running =>
    intro hrun
    refine ⟨exec_resume_parked hrun, ?_, ?_, ?_, ?_, ?_, ?_, ?_⟩
    · exact congrArg Host.Outcome.next ((if_neg (not_not.mpr hrun)).trans (if_pos rfl))
    · exact congrArg Host.Outcome.next ((if_neg (not_not.mpr hrun)).trans ((if_neg (by decide)).trans (if_pos rfl)))
    · exact congrArg Host.Outcome.next (if_pos hrun)
    · exact fun hparked => congrArg Host.Outcome.next (if_pos ⟨hrun, hparked⟩)
    · intro hsilent hengine ha60 hclean hfrz hidle hloop
      obtain ⟨l, hl⟩ := takeStop_a60 (s := s) (fe := fe) rfl hsilent hengine ha60
      refine ⟨_, asyncStopTake_checkpoint ⟨hrun, hsilent, hengine, ha60⟩ hclean hfrz hidle hloop, ?_, ?_, ?_⟩ <;> rw [hl]
    · exact fun hsilent hengine ha60 hfrz hidle hloop => asyncStopTake_nest ⟨hrun, hsilent, hengine, ha60⟩ hfrz hidle hloop
    · intro hsilent hengine ha60 hidle hpend
      obtain ⟨l, hl⟩ := takeStop_a60 (s := s.setCtx fe c.quieted) (State.ctx_setCtx_same ..) hsilent hengine ha60
      refine ⟨_, exec_quietPoint hrun hidle hpend, ?_, ?_, ?_, ?_, ?_⟩ <;> rw [hl] <;> rfl
  case kill =>
    exact fun hlife => ⟨_, congrArg Host.Outcome.next (if_pos hlife), killCtx_unbinds s fe, killCtx_failed s fe⟩
  case stopped =>
    intro hstopped hbusy
    refine ⟨congrArg Host.Outcome.next (if_pos ⟨hstopped, by rw [hbusy]; rfl⟩), fun hsaved => ?_, fun hsaved hy hst hlive htorn => ?_⟩
    · exact ⟨_, congrArg Host.Outcome.next ((if_neg (not_not.mpr hstopped)).trans (if_neg fun h => by rw [hsaved] at h; exact nomatch h.1)),
        killCtx_unbinds s fe⟩
    · exact exec_unbind_saved hstopped hsaved hbusy hy hst hlive htorn
  case save =>
    intro hstopped hbusy hpri hready
    have hhead : (savedImage s fe).1.length = 256 := length_makeImage_head ..
    obtain ⟨hregs, himg, hmem⟩ := writeImage_leaves s fe
    refine ⟨_, (savedImage s fe).1, (savedImage s fe).2, exec_imagePortDone_save hstopped hbusy hpri hready, hhead, ?_, ?_, ?_, hregs,
      fun hprot => makeImage_body ?_, hmem⟩
    · rw [himg]
    · rw [himg]
    · rw [himg, List.length_append, hhead]
    · obtain ⟨e, he⟩ := restEngines_ctx s fe
      rw [he]
      exact hprot
  case restore =>
    intro hcheck hk hlife hbusy hheld
    obtain ⟨t, x, pages, ord, hexec, hctx⟩ := exec_restore hcheck hk hlife hbusy hheld
    refine ⟨t, hexec, ?_, ?_, ?_, ?_, ?_, ?_, ?_⟩ <;> rw [hctx] <;> rfl
  case gang =>
    exact fun hy hen hhold hst himages hsaved hreach hplace hcheck hk hrests =>
      exec_gangRestore_one hy hen hhold hst himages hsaved hreach hplace hcheck hk hrests
  case weir =>
    intro hmay haligned hentry hlock hlegal
    have hseg (g : WeirSeg) : seg (setSegAt s core (off.toNat / 4096) g) = g := segAt_setSegAt g (by omega)
    refine ⟨_, exec_crownWeirWrite_entry rfl rfl hmay haligned hentry hlock hlegal, ?_, ?_, fun j hj => ?_⟩ <;> rw [hseg]
    · exact mget_mset_same 0#64 _ _ data
    · exact mget_mset_same false _ _ false
    · exact mget_mset_other 0#64 _ data hj

end Sys2Proof.Machine
end

section
/-! SUPPORT. Tasks that launch, yield and end, and the ops on modes and time (12_tasks R349 to R351, 13_system R361, R371 to R374): O28. -/
namespace Sys2Proof.Machine

section Ops
variable {s : State} {h : OpHdr} (hrun : OpRuns s h)
include hrun

/-- A legal command that nothing holds up is queued, and its context waits for the answer (R349). -/
theorem exec_launch_queues {d a : BitVec 6} {dat : ReadData} {keyed : BitVec 512} {k : Nat} (hpz : (s.here.rS a).poison = false)
    (hal : (s.here.rS a).val.toNat % 64 = 0) (hacc : accessesPerformed s.here 2#2 = true) (hmay : s.mayAct 1 = true)
    (hread : readCommand s (s.here.rS a).val = .ok dat) (hclean : readAnyPoison dat = false)
    (hsig : launchSignals s (readDesc dat.bytes) 5 = (.ok k, keyed)) (htype : cmdType (readDesc dat.bytes) = 1#8)
    (hres : cmdReservedOk (readDesc dat.bytes) = true) (hroom : s.disp.launchq.length < 256) :
    ∃ t, exec (.launch h d a) s = .next t ∧ t.disp.launchq = s.disp.launchq ++ [launchCmd s keyed] ∧
      t.here.frz = .launch d ∧ t.here.regs = s.here.regs ∧ t.mem = s.mem := by
  let q : State := { s with disp := { s.disp with launchq := s.disp.launchq ++ [launchCmd s keyed] } }
  have hsubmit : submitLaunch s d keyed = (addPend q slotX 0 (.launch d)).modCtx s.cur (fun c => { c with frz := .launch d }) := by
    rw [submitLaunch, if_neg (Nat.not_le.mpr hroom), if_pos hmay]
  have hexec : exec (.launch h d a) s = .next (submitLaunch s d keyed) := by
    change execLaunch h d a s = _
    rw [execLaunch, guardedOp_runs hrun]
    dsimp only
    rw [hpz, if_neg Bool.false_ne_true, if_neg (not_not.mpr hal), afterRelease_performed hacc, hread]
    simp [hclean, hsig, htype, hres]
  have hhere : (submitLaunch s d keyed).here = { (addPend q slotX 0 (.launch d)).ctx s.cur with frz := .launch d } := by
    rw [hsubmit]
    exact State.ctx_modCtx_same ..
  refine ⟨_, hexec, by rw [hsubmit]; rfl, by rw [hhere], ?_, submitLaunch_mem⟩
  rw [hhere, addPend_eq, State.ctx_modCtx_same q]
  rfl

/-- A level from the context's own up to 3 lands (R374). -/
theorem exec_bandup_lands {a : BitVec 6} (hpz : (s.here.rS a).poison = false) (hle : (s.here.rS a).val.toNat ≤ 3)
    (hup : bandLevel s.here.band ≤ (s.here.rS a).val.toNat) : exec (.bandup h a) s
      = .next (landRegs s slotX 1 [.band (mkBand (bandTenant s.here.band) (s.here.rS a).val.toNat)]) := by
  change execBandup h a s = _
  rw [execBandup, guardedOp_runs hrun]
  dsimp only
  rw [if_neg (Nat.not_le.mpr (Nat.lt_succ_of_le hle)), hpz, if_neg Bool.false_ne_true, if_neg (Nat.not_lt.mpr hup)]

theorem exec_yield : exec (.yield h) s = .next (match s.task s.here.ident.task with
    | none => s
    | some t => if s.mayAct 0 && yieldMeets s t then preemptTask s t.id else s) :=
  congrArg Host.Outcome.next (guardedOp_runs hrun)

end Ops

/-- A repeated update of contexts that is the same once and twice reaches those of the list. -/
theorem foldl_modCtx_ctx {f : Ctx → Ctx} (hf : ∀ c, f (f c) = f c) (l : List FeId) (s : State) (fe : FeId) :
    (l.foldl (fun s g => s.modCtx g f) s).ctx fe = if fe ∈ l then f (s.ctx fe) else s.ctx fe := by
  induction l generalizing s with
  | nil => simp
  | cons g l ih =>
    rw [List.foldl_cons, ih, State.ctx_modCtx]
    by_cases hg : fe = g
    · subst hg
      simp [hf]
    · simp [hg]

/-- What pre-emption asks of a context: an A61 while it runs (R332, R360). -/
def Ctx.preempted (c : Ctx) : Ctx := if c.life = .running then { c with stops := { c.stops with a61 := true } } else c

theorem Ctx.preempted_preempted (c : Ctx) : c.preempted.preempted = c.preempted := by
  unfold Ctx.preempted
  split_ifs <;> rfl

/-- A pre-empted task is marked, and each of its running contexts is asked to stop (R332, R351). -/
theorem preemptTask_asks {s : State} {y : Task} (hy : s.task y.id = some y) :
    (preemptTask s y.id).disp
        = { s.disp with tasks := s.disp.tasks.map (fun k => if k.id = y.id then { k with preempt := true } else k) } ∧
      ∀ fe, (preemptTask s y.id).ctx fe = if fe ∈ y.live then (s.ctx fe).preempted else s.ctx fe := by
  have heq : preemptTask s y.id
      = y.live.foldl (fun s g => s.modCtx g Ctx.preempted) (s.modTask y.id (fun t => { t with preempt := true })) := by
    simp only [preemptTask, hy]
    rfl
  rw [heq]
  exact ⟨List.foldlRecOn (motive := fun t : State => t.disp = _) y.live _ rfl fun _ ht _ _ => ht,
    foldl_modCtx_ctx Ctx.preempted_preempted y.live _⟩

/-- Settles O28: each op has its equation above, and a `yield` that meets its condition pre-empts its own task. -/
theorem taskAndModeOpsAct : Obligations.TaskAndModeOpsAct := by
  unfold Obligations.TaskAndModeOpsAct
  intro s h a d fail covf cnan walg wrm alg rm code dat keyed k x hrun
  refine ⟨?launch, ?exit, ?trap, ?fmt, exec_bandup_lands hrun, ?rdtime, ?alone, ?yield⟩
  case launch =>
    intro hpz hal hacc hmay hread hclean hsig htype hres hroom
    obtain ⟨t, hexec, hq, hfrz, hregs, hmem⟩ := exec_launch_queues hrun hpz hal hacc hmay hread hclean hsig htype hres hroom
    exact ⟨t, hexec, hq, hfrz, hregs, fun _ => by rw [hmem]⟩
  case exit => exact congrArg Host.Outcome.next (guardedOp_runs hrun)
  case trap => exact congrArg Host.Outcome.next (guardedOp_runs hrun)
  case fmt => exact congrArg Host.Outcome.next (guardedOp_runs hrun)
  case rdtime => exact congrArg Host.Outcome.next (guardedOp_runs hrun)
  case alone =>
    intro hnone
    rw [exec_yield hrun, hnone]
  case yield =>
    intro y hy
    have hid : y.id = s.here.ident.task := State.task_id hy
    simp only [exec_yield hrun, hy]
    refine ⟨fun hno => by simp [hno], fun hmay hmeets => ⟨preemptTask s y.id, by simp [hmay, hmeets], ?_⟩⟩
    obtain ⟨hdisp, hctx⟩ := preemptTask_asks (s := s) (y := y) (by rw [hid]; exact hy)
    refine ⟨hdisp, fun fe hmem hlife => ?_, fun fe hno => ?_, fun _ => by rw [preemptTask_mem]⟩
    · rw [hctx, if_pos hmem, Ctx.preempted, if_pos hlife]
    · rw [hctx, Ctx.preempted]
      split_ifs with hmem hlife
      · exact absurd ⟨hmem, hlife⟩ hno
      · rfl
      · rfl

end Sys2Proof.Machine
end

section
/-! SUPPORT. What events leave unchanged: of the trace, for an owner, and of the links (13_system R364, R369, R413, R425). -/
namespace Sys2Proof.Machine

/-- The values of a map, each replaced by a function of it. -/
theorem mget_mapValues {α : Type} {d : α} {f : α → α} (hd : f d = d) {l l' : List (Nat × α)}
    (hl : l' = l.map (fun p => (p.1, f p.2))) (k : Nat) : mget d l' k = f (mget d l k) := by
  subst hl
  induction l with
  | nil => exact hd.symm
  | cons p t ih =>
    rw [List.map_cons, mget, mget]
    split
    · rfl
    · exact ih

/-- `t` is `s` but for memory and the trace. -/
def TraceDiffers (s t : State) : Prop := t = { s with mem := t.mem, trace := t.trace }

theorem TraceDiffers.eq {s t : State} (h : TraceDiffers s t) : t = { s with mem := t.mem, trace := t.trace } := h
theorem TraceDiffers.refl (s : State) : TraceDiffers s s := rfl
theorem TraceDiffers.trans {s t u : State} (h : TraceDiffers s t) (h' : TraceDiffers t u) : TraceDiffers s u := by
  unfold TraceDiffers
  rw [h'.eq, h.eq]

theorem traceDiffers_traceEv (s : State) (e : TraceEv) : TraceDiffers s (s.traceEv e) := by
  unfold State.traceEv
  split_ifs <;> rfl

/-- `t` is `s` but for what events leave: memory, the trace, the links, the outputs, and Headwater's count of events. -/
def EventDiffers (s t : State) : Prop :=
  t = { s with mem := t.mem, trace := t.trace, links := t.links, outputs := t.outputs, hw := { s.hw with errors := t.hw.errors } }

theorem EventDiffers.eq {s t : State} (h : EventDiffers s t) : t = { s with
    mem := t.mem, trace := t.trace, links := t.links, outputs := t.outputs, hw := { s.hw with errors := t.hw.errors } } := h
theorem EventDiffers.refl (s : State) : EventDiffers s s := rfl
theorem EventDiffers.trans {s t u : State} (h : EventDiffers s t) (h' : EventDiffers t u) : EventDiffers s u := by
  unfold EventDiffers
  rw [h'.eq, h.eq]
theorem TraceDiffers.event {s t : State} (h : TraceDiffers s t) : EventDiffers s t := by
  unfold EventDiffers
  rw [h.eq]
theorem EventDiffers.ite {s t u : State} {c : Prop} [Decidable c] (h : EventDiffers s t) (h' : EventDiffers s u) :
    EventDiffers s (if c then t else u) := by
  split
  · exact h
  · exact h'

theorem EventDiffers.ctxs {s t : State} (h : EventDiffers s t) : t.ctxs = s.ctxs := by rw [h.eq]
theorem EventDiffers.disp {s t : State} (h : EventDiffers s t) : t.disp = s.disp := by rw [h.eq]
theorem EventDiffers.fw {s t : State} (h : EventDiffers s t) : t.fw = s.fw := by rw [h.eq]
theorem EventDiffers.heldHost {s t : State} (h : EventDiffers s t) : t.heldHost = s.heldHost := by rw [h.eq]
theorem EventDiffers.hw {s t : State} (h : EventDiffers s t) : t.hw = { s.hw with errors := t.hw.errors } := by rw [h.eq]

theorem eventDiffers_emit (s : State) (o : Output) : EventDiffers s (s.emit o) := rfl
theorem eventDiffers_mem (s : State) (m : List Host.Cell) : EventDiffers s { s with mem := m } := rfl
theorem eventDiffers_setPortLink (s : State) (port : Bool) (l : HostLink) : EventDiffers s (setPortLink s port l) := rfl
theorem eventDiffers_freeze (s : State) (code : Byte) :
    EventDiffers s { s with trace := { s.trace with frozen := true, fcause := code } } := rfl

theorem eventDiffers_hostEvent (s : State) (n : BitVec 6) (o : Owner) (rec : List Word) : EventDiffers s (hostEvent s n o rec) :=
  .trans (.ite ((eventDiffers_mem s _).trans (eventDiffers_setPortLink ..)) (eventDiffers_setPortLink ..)) (eventDiffers_emit ..)

theorem eventDiffers_raiseEvent (s : State) (n : BitVec 6) (rec : List Word) : EventDiffers s (raiseEvent s n rec) := by
  have hcore : EventDiffers s (if ((ownerOf s n).locb && n != 0#6) = true then s.emit (.toHeadwater n rec) else s) := .ite rfl rfl
  have hhost : EventDiffers s _ :=
    .ite (c := (ownerOf s n).host = true) (hcore.trans (eventDiffers_hostEvent _ n (ownerOf s n) rec)) hcore
  exact .ite hhost (hhost.trans rfl)

/-- A freezing event leaves a frozen trace (R425). -/
theorem traceFreeze_freezes (s : State) (e : TraceEv) (code : Byte) :
    EventDiffers s (s.traceFreeze e code) ∧ (s.traceFreeze e code).trace.frozen = true := by
  unfold State.traceFreeze
  split
  next h => exact ⟨.refl s, h⟩
  next =>
    refine ⟨((traceDiffers_traceEv s e).event.trans (eventDiffers_freeze ..)).trans (eventDiffers_raiseEvent ..), ?_⟩
    rw [(raiseEvent_frame ..).2]

/-- A class E event freezes the trace and stops nothing (R364, R425). -/
theorem eventE_freezes (s : State) (n : BitVec 6) (cause : Cause) (src : BitVec 16) (w : Word) :
    EventDiffers s (eventE s n cause src w) ∧ (eventE s n cause src w).trace.frozen = true := by
  obtain ⟨hdiff, hfrozen⟩ := traceFreeze_freezes s ⟨2#8, cause.code, src, w, 0#64⟩ cause.code
  exact ⟨hdiff.trans (eventDiffers_raiseEvent ..), by rw [eventE, (raiseEvent_frame ..).2]; exact hfrozen⟩

end Sys2Proof.Machine
end

section
/-! SUPPORT. Ports, lost heads and hosts, and the IDE events (14_host_pool R409 to R412, 15_platform R420, R422): O51. -/
namespace Sys2Proof.Machine

/-! ### The secure and the parked ports (R411, R412) -/

theorem getLsbD_clearBit {w : Nat} (v : BitVec w) (n m : Nat) : (v &&& ~~~(1#w <<< n)).getLsbD m = (v.getLsbD m && m != n) := by
  by_cases hm : m < w
  · by_cases hmn : m = n
    · subst hmn
      simp [hm]
    · by_cases hlt : m < n
      · simp [hm, hmn, hlt]
      · simp [hm, hmn, hlt, show m - n ≠ 0 by omega]
  · simp [Nat.not_lt.mp hm]

theorem getLsbD_setBit {w : Nat} (v : BitVec w) {n : Nat} (hn : n < w) (m : Nat) :
    (v ||| 1#w <<< n).getLsbD m = (v.getLsbD m || m == n) := by
  by_cases hm : m < w
  · by_cases hmn : m = n
    · subst hmn
      simp [hm]
    · by_cases hlt : m < n
      · simp [hm, hmn, hlt]
      · simp [hm, hmn, hlt, show m - n ≠ 0 by omega]
  · simp [Nat.not_lt.mp hm, show m ≠ n by omega]

/-- Each of the two bits of a port takes its value, and no other port's changes. -/
theorem setPorts_bits (s : State) {n : Nat} (hn : n < 8) (parked secure : Bool) (m : Nat) :
    (setPorts s n parked secure).hw.parked.getLsbD m = (if m = n then parked else s.hw.parked.getLsbD m) ∧
    (setPorts s n parked secure).hw.secure.getLsbD m = (if m = n then secure else s.hw.secure.getLsbD m) := by
  have hbit (v : Byte) (b : Bool) : (if b then v ||| (1#8 <<< n) else v &&& ~~~(1#8 <<< n)).getLsbD m
      = if m = n then b else v.getLsbD m := by
    cases b
    · rw [if_neg Bool.false_ne_true, getLsbD_clearBit]
      by_cases h : m = n <;> simp [h]
    · rw [if_pos rfl, getLsbD_setBit v hn]
      by_cases h : m = n <;> simp [h]
  exact ⟨hbit .., hbit ..⟩

theorem setPorts_others (s : State) {n : Nat} (hn : n < 8) (parked secure : Bool) :
    (∀ m, m ≠ n → (setPorts s n parked secure).hw.parked.getLsbD m = s.hw.parked.getLsbD m) ∧
    ∀ m, m ≠ n → (setPorts s n parked secure).hw.secure.getLsbD m = s.hw.secure.getLsbD m :=
  ⟨fun m hm => by rw [(setPorts_bits s hn parked secure m).1, if_neg hm],
    fun m hm => by rw [(setPorts_bits s hn parked secure m).2, if_neg hm]⟩

theorem setPorts_same (s : State) {n : Nat} (hn : n < 8) (parked secure : Bool) :
    (setPorts s n parked secure).hw.parked.getLsbD n = parked ∧ (setPorts s n parked secure).hw.secure.getLsbD n = secure := by
  obtain ⟨hparked, hsecure⟩ := setPorts_bits s hn parked secure n
  exact ⟨by rw [hparked, if_pos rfl], by rw [hsecure, if_pos rfl]⟩

/-! ### The uncertain-write log (R409) -/

/-- `t` is `s` but for the uncertain-write log. -/
def LogDiffers (s t : State) : Prop := t = { s with hw := { s.hw with uwlog := t.hw.uwlog, uwovf := t.hw.uwovf } }

theorem LogDiffers.eq {s t : State} (h : LogDiffers s t) :
    t = { s with hw := { s.hw with uwlog := t.hw.uwlog, uwovf := t.hw.uwovf } } := h

theorem logDiffers_logUncertain (s : State) (line : Nat) : LogDiffers s (logUncertain s line) := by
  unfold logUncertain
  split <;> rfl

theorem logDiffers_reissue (s : State) (port : Nat) : LogDiffers s (reissue s port) :=
  List.foldlRecOn (motive := fun t => LogDiffers s t) _ _ rfl fun t ht l _ => by
    unfold LogDiffers
    rw [(logDiffers_logUncertain t l).eq, ht.eq]

/-- While the log has room, each line enters it with the time. -/
theorem foldl_logUncertain (l : List Nat) {s : State} (h : s.hw.uwlog.length + l.length ≤ 256) :
    (l.foldl logUncertain s).hw.uwlog = s.hw.uwlog ++ l.map (fun k => (64 * k, s.time)) := by
  induction l generalizing s with
  | nil => simp
  | cons k l ih =>
    rw [List.length_cons] at h
    have hlog : logUncertain s k = { s with hw := { s.hw with uwlog := s.hw.uwlog ++ [(64 * k, s.time)] } } :=
      if_pos (by omega)
    have hroom : (logUncertain s k).hw.uwlog.length + l.length ≤ 256 := by
      rw [hlog, List.length_append, List.length_singleton]
      omega
    rw [List.foldl_cons, ih hroom, hlog]
    simp

/-! ### A lost pool head (R409) -/

/-- A live head that is lost: it and its port are out of service, the stores on their way are logged, and no context stops. -/
theorem loseHead_loses {s : State} {head : BitVec 2} (hlive : s.hw.heads.getLsbD head.toNat = true) :
    (loseHead s head).ctxs = s.ctxs ∧
    (∀ m, (loseHead s head).hw.heads.getLsbD m = (s.hw.heads.getLsbD m && m != head.toNat)) ∧
    (loseHead s head).hw.parked = (setPorts s (head.toNat + 2) false false).hw.parked ∧
    (loseHead s head).hw.secure = (setPorts s (head.toNat + 2) false false).hw.secure ∧
    (loseHead s head).hw.uwlog = (reissue s (head.toNat + 2)).hw.uwlog ∧
    (loseHead s head).trace.frozen = true := by
  let u : State := setPorts (reissue s (head.toNat + 2)) (head.toNat + 2) false false
  let v : State := { u with hw := { u.hw with heads := u.hw.heads &&& ~~~(1#4 <<< head.toNat) } }
  have hlose : loseHead s head = eventE v 3#6 .e82 (BitVec.ofNat 16 (head.toNat + 2)) 0#64 :=
    if_neg (by rw [hlive]; decide)
  have hlog := logDiffers_reissue s (head.toNat + 2)
  obtain ⟨hdiff, hfrozen⟩ := eventE_freezes v 3#6 .e82 (BitVec.ofNat 16 (head.toNat + 2)) 0#64
  rw [hlose, hdiff.ctxs, hdiff.hw]
  refine ⟨?_, fun m => ?_, ?_, ?_, rfl, hfrozen⟩
  · change (reissue s (head.toNat + 2)).ctxs = _
    rw [hlog.eq]
  · change ((reissue s (head.toNat + 2)).hw.heads &&& ~~~(1#4 <<< head.toNat)).getLsbD m = _
    rw [getLsbD_clearBit, hlog.eq]
  · change u.hw.parked = _
    rw [show u = setPorts (reissue s (head.toNat + 2)) (head.toNat + 2) false false from rfl, hlog.eq]
    rfl
  · change u.hw.secure = _
    rw [show u = setPorts (reissue s (head.toNat + 2)) (head.toNat + 2) false false from rfl, hlog.eq]
    rfl

/-! ### A lost host (R420, R422) -/

/-- `t` is `s` but for what a trap record leaves: what events leave, the trap rings, and the records that contexts hold. -/
def RecordDiffers (s t : State) : Prop :=
  t = { s with mem := t.mem, trace := t.trace, links := t.links, outputs := t.outputs, clusters := t.clusters, ctxs := t.ctxs,
               hw := { s.hw with errors := t.hw.errors } }

theorem RecordDiffers.eq {s t : State} (h : RecordDiffers s t) : t = { s with
    mem := t.mem, trace := t.trace, links := t.links, outputs := t.outputs, clusters := t.clusters, ctxs := t.ctxs,
    hw := { s.hw with errors := t.hw.errors } } := h
theorem RecordDiffers.refl (s : State) : RecordDiffers s s := rfl
theorem RecordDiffers.trans {s t u : State} (h : RecordDiffers s t) (h' : RecordDiffers t u) : RecordDiffers s u := by
  unfold RecordDiffers
  rw [h'.eq, h.eq]
theorem EventDiffers.record {s t : State} (h : EventDiffers s t) : RecordDiffers s t := by
  unfold RecordDiffers
  rw [h.eq]
theorem RecordDiffers.heldHost {s t : State} (h : RecordDiffers s t) : t.heldHost = s.heldHost := by rw [h.eq]
theorem RecordDiffers.hw {s t : State} (h : RecordDiffers s t) : t.hw = { s.hw with errors := t.hw.errors } := by rw [h.eq]
theorem recordDiffers_setCluster (s : State) (n : Nat) (c : Cluster) : RecordDiffers s (s.setCluster n c) := rfl
theorem recordDiffers_modCtx (s : State) (fe : FeId) (f : Ctx → Ctx) : RecordDiffers s (s.modCtx fe f) := rfl

theorem recordDiffers_writeRec (s : State) (fe : FeId) (r : TrapRec) : RecordDiffers s (writeRec s fe r) :=
  ((((eventDiffers_mem s _).record.trans (recordDiffers_setCluster ..)).trans (eventDiffers_emit ..).record)).trans
    (eventDiffers_raiseEvent ..).record

theorem recordDiffers_putRec (s : State) (fe : FeId) (r : TrapRec) : RecordDiffers s (putRec s fe r) := by
  unfold putRec
  dsimp only
  split
  · exact (traceDiffers_traceEv ..).event.record.trans (recordDiffers_writeRec ..)
  · exact (traceDiffers_traceEv ..).event.record.trans ((recordDiffers_setCluster ..).trans (recordDiffers_modCtx ..))

/-- The context runs on: its life and its registers are as they were. -/
def RunsOn (c d : Ctx) : Prop := d.life = c.life ∧ d.regs = c.regs

theorem RunsOn.refl (c : Ctx) : RunsOn c c := ⟨rfl, rfl⟩
theorem RunsOn.trans {c d e : Ctx} (h : RunsOn c d) (h' : RunsOn d e) : RunsOn c e := ⟨h'.1.trans h.1, h'.2.trans h.2⟩

theorem putRec_runsOn (s : State) (g fe : FeId) (r : TrapRec) : RunsOn (s.ctx fe) ((putRec s g r).ctx fe) := by
  obtain ⟨l, hl, -⟩ := putRec_ctx s g fe r
  rw [hl]
  exact ⟨rfl, rfl⟩

/-- The notices of a lost host leave records; the contexts run on, and the trace stays frozen (R364, R422). -/
theorem noticeLoss_leaves {s : State} (hfrozen : s.trace.frozen = true) (port : Bool) :
    RecordDiffers s (noticeLoss s port) ∧ (noticeLoss s port).trace.frozen = true ∧
      ∀ fe, RunsOn (s.ctx fe) ((noticeLoss s port).ctx fe) := by
  refine List.foldlRecOn (motive := fun t : State => RecordDiffers s t ∧ t.trace.frozen = true ∧ ∀ fe, RunsOn (s.ctx fe) (t.ctx fe))
    s.ctxs _ ⟨.refl s, hfrozen, fun _ => .refl _⟩ fun t ⟨hdiff, hfr, hctx⟩ p _ => ?_
  split
  · exact ⟨hdiff.trans (recordDiffers_putRec ..), (putRec_frozen hfr ..).1, fun fe => (hctx fe).trans (putRec_runsOn ..)⟩
  · exact ⟨hdiff, hfr, hctx⟩

/-- `t` is `s` but for what a change of translation agent leaves. -/
def SwitchDiffers (s t : State) : Prop :=
  t = { s with ctxs := t.ctxs, cores := t.cores, outputs := t.outputs, hw := { s.hw with agent := t.hw.agent } }

theorem SwitchDiffers.eq {s t : State} (h : SwitchDiffers s t) :
    t = { s with ctxs := t.ctxs, cores := t.cores, outputs := t.outputs, hw := { s.hw with agent := t.hw.agent } } := h
theorem SwitchDiffers.refl (s : State) : SwitchDiffers s s := rfl
theorem SwitchDiffers.trans {s t u : State} (h : SwitchDiffers s t) (h' : SwitchDiffers t u) : SwitchDiffers s u := by
  unfold SwitchDiffers
  rw [h'.eq, h.eq]

theorem SwitchDiffers.links {s t : State} (h : SwitchDiffers s t) : t.links = s.links := by rw [h.eq]
theorem SwitchDiffers.heldHost {s t : State} (h : SwitchDiffers s t) : t.heldHost = s.heldHost := by rw [h.eq]
theorem SwitchDiffers.trace {s t : State} (h : SwitchDiffers s t) : t.trace = s.trace := by rw [h.eq]
theorem SwitchDiffers.hw {s t : State} (h : SwitchDiffers s t) : t.hw = { s.hw with agent := t.hw.agent } := by rw [h.eq]

/-- What the accesses of a tenant's contexts become when its leaves go (R268, R420). -/
def Ctx.staleFor (tenant : BitVec 4) (c : Ctx) : Ctx := if c.ident.tenant = tenant then c.staleAccesses (fun _ => true) else c

theorem dropTenant_ctx (s : State) (tenant : BitVec 4) (fe : FeId) : (dropTenant s tenant).ctx fe = (s.ctx fe).staleFor tenant := by
  refine mget_mapValues (f := Ctx.staleFor tenant) ?_ ?_ fe.toNat
  · unfold Ctx.staleFor
    split <;> rfl
  · refine List.map_congr_left fun p _ => ?_
    unfold Ctx.staleFor
    split <;> rfl

theorem Ctx.staleFor_runsOn (tenant : BitVec 4) (c : Ctx) : RunsOn c (c.staleFor tenant) := by
  unfold Ctx.staleFor
  split <;> exact ⟨rfl, rfl⟩

theorem dropTenant_runsOn (s : State) (tenant : BitVec 4) (fe : FeId) : RunsOn (s.ctx fe) ((dropTenant s tenant).ctx fe) := by
  rw [dropTenant_ctx]
  exact Ctx.staleFor_runsOn ..

theorem foldl_emit {α : Type} (f : α → Output) (l : List α) (s : State) :
    l.foldl (fun s a => s.emit (f a)) s = { s with outputs := s.outputs ++ l.map f } := by
  induction l generalizing s with
  | nil => simp
  | cons a l ih =>
    rw [List.foldl_cons, ih]
    simp [State.emit]

/-- A tenant's entry of the agent table. -/
def State.agentOf (s : State) (tenant : BitVec 4) : BitVec 3 := vget 2#3 s.hw.agent tenant
def State.withAgent (s : State) (tenant : BitVec 4) (a : BitVec 3) : State :=
  { s with hw := { s.hw with agent := vset s.hw.agent tenant a } }

theorem agentOf_withAgent (s : State) (tenant : BitVec 4) (a : BitVec 3) (j : BitVec 4) :
    (s.withAgent tenant a).agentOf j = if j = tenant then a else s.agentOf j := by
  unfold State.agentOf State.withAgent
  split
  next h => rw [h]; exact vget_vset_same tenant.isLt
  next h => exact vget_vset_other _ _ _ h

/-- The entry of a tenant after the loss of a host: Headwater where it names the host with FBHW = 1 (R420, R422). -/
def agentAfter (port : Bool) (a : BitVec 3) : BitVec 3 :=
  if a.extractLsb' 0 2 = (if port then 1#2 else 0#2) ∧ a.getLsbD 2 = true then 6#3 else a

/-- A lost host's tenant: its entry may change, and its contexts run on. -/
theorem switchAgent_switches (s : State) (port : Bool) (i : Nat) :
    SwitchDiffers s (switchAgent s port i) ∧ (∀ fe, RunsOn (s.ctx fe) ((switchAgent s port i).ctx fe)) ∧
      ∀ j, (switchAgent s port i).agentOf j
        = if j = BitVec.ofNat 4 i then agentAfter port (s.agentOf (BitVec.ofNat 4 i)) else s.agentOf j := by
  have hkept (h : agentAfter port (s.agentOf (BitVec.ofNat 4 i)) = s.agentOf (BitVec.ofNat 4 i)) (j : BitVec 4) :
      s.agentOf j = if j = BitVec.ofNat 4 i then agentAfter port (s.agentOf (BitVec.ofNat 4 i)) else s.agentOf j := by
    split
    next hj => rw [h, hj]
    next => rfl
  unfold switchAgent
  dsimp only
  by_cases hhost : (vget 2#3 s.hw.agent (BitVec.ofNat 4 i)).extractLsb' 0 2 = (if port then 1#2 else 0#2)
  · rw [if_neg (not_not.mpr hhost)]
    by_cases hfbhw : (vget 2#3 s.hw.agent (BitVec.ofNat 4 i)).getLsbD 2 = true
    · rw [if_pos hfbhw, foldl_emit]
      refine ⟨rfl, fun fe => ?_, fun j => ?_⟩
      · exact dropTenant_runsOn (s.withAgent (BitVec.ofNat 4 i) 6#3) ..
      · have hafter : agentAfter port (s.agentOf (BitVec.ofNat 4 i)) = 6#3 := if_pos ⟨hhost, hfbhw⟩
        rw [hafter]
        exact agentOf_withAgent s _ _ j
    · rw [if_neg hfbhw]
      refine ⟨rfl, fun fe => mget_map_rel RunsOn.refl _ _ _ (fun p => ?_) _, hkept (if_neg fun h => hfbhw h.2)⟩
      split <;> exact ⟨rfl, rfl, rfl⟩
  · rw [if_pos hhost]
    exact ⟨.refl s, fun _ => .refl _, hkept (if_neg fun h => hhost h.1)⟩

theorem foldl_switchAgent (s : State) (port : Bool) {n : Nat} (hn : n ≤ 16) :
    SwitchDiffers s ((List.range n).foldl (fun s i => switchAgent s port i) s) ∧
    (∀ fe, RunsOn (s.ctx fe) (((List.range n).foldl (fun s i => switchAgent s port i) s).ctx fe)) ∧
    ∀ j, ((List.range n).foldl (fun s i => switchAgent s port i) s).agentOf j
      = if j.toNat < n then agentAfter port (s.agentOf j) else s.agentOf j := by
  induction n with
  | zero => exact ⟨.refl s, fun _ => .refl _, fun _ => rfl⟩
  | succ n ih =>
    obtain ⟨hdiff, hctx, hagent⟩ := ih (by omega)
    rw [List.range_succ, List.foldl_append, List.foldl_cons, List.foldl_nil]
    generalize (List.range n).foldl (fun s i => switchAgent s port i) s = t at *
    obtain ⟨hdiff', hctx', hagent'⟩ := switchAgent_switches t port n
    refine ⟨hdiff.trans hdiff', fun fe => (hctx fe).trans (hctx' fe), fun j => ?_⟩
    have hn4 : (BitVec.ofNat 4 n).toNat = n := by
      rw [BitVec.toNat_ofNat]
      exact Nat.mod_eq_of_lt (by omega)
    rw [hagent']
    by_cases hj : j = BitVec.ofNat 4 n
    · subst hj
      rw [if_pos rfl, hagent, hn4, if_neg (by omega), if_pos (by omega)]
    · have hne : j.toNat ≠ n := fun e => hj (BitVec.eq_of_toNat_eq (e.trans hn4.symm))
      have hlt : j.toNat < n + 1 ↔ j.toNat < n := by omega
      rw [if_neg hj, hagent]
      simp only [hlt]

theorem portLink_setPortLink (s : State) (port : Bool) (l : HostLink) : portLink (setPortLink s port l) port = l := by
  cases port <;> simp [portLink, setPortLink]

/-- A host that is lost: its link is down, its held requests are dropped, its tenants may fall back to Headwater, and every context runs
on (R364, R422). -/
theorem loseHost_loses {s : State} {port : Bool} (h : (portLink s port).lost = false) :
    (portLink (loseHost s port) port).lost = true ∧ (portLink (loseHost s port) port).lup = false ∧
    (loseHost s port).heldHost = s.heldHost.filter (fun r => r.port != port) ∧ (loseHost s port).trace.frozen = true ∧
    (loseHost s port).hw.parked = (setPorts s (if port then 1 else 0) false false).hw.parked ∧
    (loseHost s port).hw.secure = (setPorts s (if port then 1 else 0) false false).hw.secure ∧
    (∀ fe, RunsOn (s.ctx fe) ((loseHost s port).ctx fe)) ∧
    ∀ j, (loseHost s port).agentOf j = agentAfter port (s.agentOf j) := by
  let z := s.traceFreeze ⟨3#8, 0x63#8, if port then 1#16 else 0#16, 0#64, 0#64⟩ 0x63#8
  let n := noticeLoss z port
  let l : HostLink := { portLink n port with lup := false, lost := true, resyncDue := false }
  let u : State := { setPorts (setPortLink n port l) (if port then 1 else 0) false false with
    heldHost := n.heldHost.filter (fun r => r.port != port) }
  have hlose : loseHost s port = (List.range 16).foldl (fun s i => switchAgent s port i) u := if_neg (by rw [h]; decide)
  obtain ⟨hfreeze, hfrozen⟩ := traceFreeze_freezes s ⟨3#8, 0x63#8, if port then 1#16 else 0#16, 0#64, 0#64⟩ 0x63#8
  obtain ⟨hnotice, hfrozen', hruns⟩ := noticeLoss_leaves (s := z) hfrozen port
  have hnotice' : RecordDiffers s n := hfreeze.record.trans hnotice
  obtain ⟨hdiff, hruns', hagent⟩ := foldl_switchAgent u port (Nat.le_refl 16)
  rw [hlose]
  generalize (List.range 16).foldl (fun s i => switchAgent s port i) u = t at hdiff hruns' hagent
  have hlink : portLink t port = l := by
    have hu : portLink u port = l := portLink_setPortLink n port l
    rw [← hu, portLink, portLink, hdiff.links]
  have hparked : t.hw.parked = (setPorts n (if port then 1 else 0) false false).hw.parked := by rw [hdiff.hw]; rfl
  have hsecure : t.hw.secure = (setPorts n (if port then 1 else 0) false false).hw.secure := by rw [hdiff.hw]; rfl
  have hagent_n (j : BitVec 4) : u.agentOf j = s.agentOf j := by
    change vget 2#3 n.hw.agent j = _
    rw [hnotice'.hw]
    rfl
  refine ⟨by rw [hlink], by rw [hlink], ?_, ?_, ?_, ?_, fun fe => ?_, fun j => ?_⟩
  · rw [hdiff.heldHost]
    change n.heldHost.filter _ = _
    rw [hnotice'.heldHost]
  · rw [hdiff.trace]
    exact hfrozen'
  · rw [hparked, setPorts, hnotice'.hw]
    rfl
  · rw [hsecure, setPorts, hnotice'.hw]
    rfl
  · have hz : z.ctx fe = s.ctx fe := State.ctx_of_ctxs hfreeze.ctxs fe
    exact hz ▸ (hruns fe).trans (hruns' fe)
  · rw [hagent, if_pos j.isLt, hagent_n]

/-! ### IDE (R411, R412) -/

theorem exec_ideKmKeyProgramming {s : State} {p : BitVec 3} (hp : p.toNat < 6) :
    exec (.ideKmKeyProgramming p false false) s = .next (setPorts s p.toNat (s.hw.parked.getLsbD p.toNat) true) := by
  change execIdeKmKeyProgramming p false false s = _
  simp [execIdeKmKeyProgramming, hp]

/-- A failed MAC parks its secure port and stops no context (R412). -/
theorem exec_ideMacFailure {s : State} {p : BitVec 3} (hp : p.toNat < 6) (hsecure : s.hw.secure.getLsbD p.toNat = true) :
    ∃ t, exec (.ideMacFailure p) s = .next t ∧ EventDiffers (setPorts s p.toNat true false) t := by
  refine ⟨_, congrArg Host.Outcome.next (if_neg ?_),
    (traceDiffers_traceEv ..).event.trans (eventDiffers_raiseEvent ..)⟩
  rw [hsecure, decide_eq_false (by omega)]
  decide

/-- A rekey in time resumes the port's traffic, and logs the stores that are reissued (R412). -/
theorem exec_ideRekeyComplete {s : State} {p : BitVec 3} (hp : p.toNat < 6) (hparked : s.hw.parked.getLsbD p.toNat = true)
    (hheld : s.heldHost = []) : exec (.ideRekeyComplete p) s = .next (setPorts (reissue s p.toNat) p.toNat false true) := by
  have hrest : (setPorts (reissue s p.toNat) p.toNat false true).heldHost = [] := by
    change (reissue s p.toNat).heldHost = []
    rw [(logDiffers_reissue s p.toNat).eq]
    exact hheld
  change Host.Outcome.next (if _ then _ else _) = _
  rw [if_neg, retryHost_nil hrest]
  rw [hparked, decide_eq_false (by omega)]
  decide

theorem exec_ideRekeyTimeout {s : State} {p : BitVec 3} (hp : p.toNat < 6) (hparked : s.hw.parked.getLsbD p.toNat = true) :
    exec (.ideRekeyTimeout p) s
      = .next (if 2 ≤ p.toNat then loseHead s (BitVec.ofNat 2 (p.toNat - 2)) else loseHost s (p == 1#3)) := by
  refine congrArg Host.Outcome.next (if_neg ?_)
  rw [hparked, decide_eq_false (by omega)]
  decide

/-- Settles O51: the loss of a head or a host by `loseHead_loses` and `loseHost_loses`, the IDE events by their equations, and the ports
by the bits of `setPorts`. -/
theorem lossAndLinkEventsAct : Obligations.LossAndLinkEventsAct := by
  unfold Obligations.LossAndLinkEventsAct
  intro s head port p3 skid sel fe tenant hport pn bit others logs f
  have hhead : hport < 8 := by
    have := head.isLt
    omega
  have hpn : pn < 8 := by
    change (if port then 1 else 0) < 8
    split <;> decide
  refine ⟨?head, ?gone, ?timeout, rfl, ?host, ?lost, ?hostTimeout, ?refused, fun hp => ⟨?key, ?mac, fun hparked => ⟨?resumed, ?_, ?_⟩⟩⟩
  case head =>
    intro hlive
    obtain ⟨hctxs, hheads, hparked, hsecure, hlog, hfrozen⟩ := loseHead_loses hlive
    refine ⟨_, rfl, hctxs, hheads, ?_, ?_, ?_, hfrozen, fun hroom => ?_⟩
    · change (loseHead s head).hw.secure.getLsbD hport = false
      rw [hsecure]
      exact (setPorts_same s hhead false false).2
    · change (loseHead s head).hw.parked.getLsbD hport = false
      rw [hparked]
      exact (setPorts_same s hhead false false).1
    · change ∀ m, m ≠ hport → (loseHead s head).hw.parked.getLsbD m = _
      rw [hparked]
      exact (setPorts_others s hhead false false).1
    · rw [hlog]
      exact foldl_logUncertain _ hroom
  case gone => exact fun hgone => congrArg Host.Outcome.next (if_pos (by rw [hgone]; rfl))
  case timeout => exact apply_ite Host.Outcome.next ..
  case host =>
    intro hlost
    obtain ⟨hl, hlup, hheld, hfrozen, hparked, hsecure, hruns, hagent⟩ := loseHost_loses hlost
    refine ⟨_, rfl, hl, hlup, hheld, hfrozen, ?_, ?_, (hruns fe).1, (hruns fe).2, hagent tenant⟩
    · change (loseHost s port).hw.parked.getLsbD pn = false
      rw [hparked]
      exact (setPorts_same s hpn false false).1
    · change (loseHost s port).hw.secure.getLsbD pn = false
      rw [hsecure]
      exact (setPorts_same s hpn false false).2
  case lost => exact fun hlost => congrArg Host.Outcome.next (if_pos hlost)
  case hostTimeout => exact apply_ite Host.Outcome.next ..
  case refused =>
    intro h
    refine congrArg Host.Outcome.next (if_pos ?_)
    rcases h with h | h | h <;> simp [h]
  case key =>
    rintro rfl rfl
    refine ⟨_, exec_ideKmKeyProgramming hp, (setPorts_same s (by omega) _ _).2, (setPorts_others s (by omega) _ _).2, ?_, rfl,
      fun _ => rfl⟩
    refine BitVec.eq_of_getLsbD_eq fun m _ => ?_
    rw [(setPorts_bits s (by omega) _ _ m).1]
    split
    next h => rw [h]
    next => rfl
  case mac =>
    intro hsecure
    obtain ⟨t, hexec, hdiff⟩ := exec_ideMacFailure hp hsecure
    obtain ⟨hparked', hsecure'⟩ := setPorts_same s (n := p3.toNat) (by omega) true false
    obtain ⟨hothers, hothers'⟩ := setPorts_others s (n := p3.toNat) (by omega) true false
    refine ⟨t, hexec, ?_, ?_, ?_, ?_, hdiff.ctxs⟩ <;> rw [hdiff.hw]
    · exact hsecure'
    · exact hparked'
    · exact hothers
    · exact hothers'
  case resumed =>
    intro hheld
    have hlog := logDiffers_reissue s p3.toNat
    have hr : (reissue s p3.toNat).hw.parked = s.hw.parked := by rw [hlog.eq]
    refine ⟨_, exec_ideRekeyComplete hp hparked hheld, (setPorts_same _ (by omega) _ _).2, (setPorts_same _ (by omega) _ _).1, ?_, ?_,
      fun hroom => foldl_logUncertain _ hroom⟩
    · intro m hm
      rw [← hr]
      exact (setPorts_others _ (by omega) _ _).1 m hm
    · change (reissue s p3.toNat).ctxs = s.ctxs
      rw [hlog.eq]
  · intro hpool
    rw [exec_ideRekeyTimeout hp hparked, if_pos hpool]
    rfl
  · intro hhost
    rw [exec_ideRekeyTimeout hp hparked, if_neg (by omega)]
    rfl

end Sys2Proof.Machine
end

section
/-! SUPPORT. Host accesses, doorbells and acknowledgements (13_system R369, 14_host_pool R393 to R395, R400 to R403, 15_platform R423):
O49. -/
namespace Sys2Proof.Machine

/-! ### The bytes of a host's write (R393) -/

/-- The bytes of a write at `a` that the device takes. -/
def takenBytes (a : Nat) (data : List Byte) (takes : Nat → Bool) : List (Nat × Byte) :=
  (data.zipIdx.map (fun x => (a + x.2, x.1))).filter (fun x => takes x.1)

theorem mem_takenBytes {a : Nat} {data : List Byte} {takes : Nat → Bool} {b : Nat × Byte} :
    b ∈ takenBytes a data takes ↔ ∃ i, data[i]? = some b.2 ∧ b.1 = a + i ∧ takes b.1 = true := by
  obtain ⟨k, x⟩ := b
  simp only [takenBytes, List.mem_filter, List.mem_map, Prod.exists, List.mk_mem_zipIdx_iff_getElem?, Prod.mk.injEq]
  constructor
  · rintro ⟨⟨y, i, hi, rfl, rfl⟩, ht⟩
    exact ⟨i, hi, rfl, ht⟩
  · rintro ⟨i, hi, rfl, ht⟩
    exact ⟨⟨x, i, hi, rfl, rfl⟩, ht⟩

theorem takenBytes_rising (a : Nat) (data : List Byte) (takes : Nat → Bool) :
    (takenBytes a data takes).Pairwise (fun x y => x.1 < y.1) := by
  refine (List.pairwise_map.mpr (List.pairwise_iff_getElem.mpr fun i j hi hj hij => ?_)).filter _
  simpa using hij

/-- Memory after the write: the bytes taken, and elsewhere what it held. -/
theorem memRead_takenBytes (a : Nat) (data : List Byte) (takes : Nat → Bool) (m : List Host.Cell) (k : Nat) :
    memRead ((takenBytes a data takes).foldl (fun m x => memWrite m x.1 x.2) m) k
      = if a ≤ k ∧ k < a + data.length ∧ takes k = true then data.getD (k - a) 0#8 else memRead m k := by
  split
  next h =>
    obtain ⟨hle, hlt, ht⟩ := h
    have hi : k - a < data.length := by omega
    have hb : (k, data[k - a]) ∈ takenBytes a data takes :=
      mem_takenBytes.mpr ⟨k - a, List.getElem?_eq_getElem hi, by dsimp only; omega, ht⟩
    have hread := memRead_foldl_memWrite_mem (m := m) (nodup_keys_of_rising (takenBytes_rising a data takes)) hb
    rw [hread, List.getD_eq_getElem _ _ hi]
  next h =>
    refine memRead_foldl_memWrite_other fun b hb e => h ?_
    obtain ⟨i, hi, hk, ht⟩ := mem_takenBytes.mp hb
    have := (List.getElem?_eq_some_iff.mp hi).1
    subst e
    exact ⟨by omega, by omega, ht⟩

theorem noteRequest_ctxs (s : State) (a : Nat) (b : Byte) : (noteRequest s a b).ctxs = s.ctxs := by
  unfold noteRequest
  dsimp only
  repeat' split
  all_goals rfl

/-- The state in which a host's write has performed, before the queues that it names are looked at. -/
def storeHost (s : State) (r : HostReq) (data : List (Nat × Byte)) : State :=
  let t := recordStore s agentOutside 3#2 (Vector.replicate 4 [(agentOutside, s.stamp)]) none (data.map (·.1))
  performPoison (data.foldl (fun s x => mediaWritten s 64 x.1) { t with mem := data.foldl (fun m x => memWrite m x.1 x.2) t.mem }) data
    (if r.poison then (data.map (fun x => x.1 / 64)).eraseDups else [])

theorem storeHost_marks (s : State) (r : HostReq) (data : List (Nat × Byte)) :
    MarksDiffer { s with mem := data.foldl (fun m x => memWrite m x.1 x.2) s.mem } (storeHost s r data) :=
  MarksDiffer.trans (MarksDiffer.trans (t := { recordStore s agentOutside 3#2 (Vector.replicate 4 [(agentOutside, s.stamp)]) none
      (data.map (·.1)) with mem := data.foldl (fun m x => memWrite m x.1 x.2) s.mem }) rfl
    (marksDiffer_foldl (fun s x => marksDiffer_mediaWritten s 64 x.1) data _)) (marksDiffer_performPoison ..)

/-- An admitted write leaves the bytes that it may write, and no context changes (R393, R397). -/
theorem performHost_writes (s : State) {r : HostReq} {data : List Byte} (hr : r.write = some data) :
    (performHost s r).ctxs = s.ctxs ∧ (performHost s r).mem
      = (takenBytes r.hpa data (fun k => !controlByte k && !crcByte s k)).foldl (fun m x => memWrite m x.1 x.2) s.mem := by
  have heq : performHost s r = (takenBytes r.hpa data (fun k => !controlByte k && !crcByte s k)).foldl (fun s x => noteRequest s x.1 x.2)
      (storeHost s r (takenBytes r.hpa data (fun k => !controlByte k && !crcByte s k))) := by
    unfold performHost
    rw [hr]
    rfl
  have hmarks := storeHost_marks s r (takenBytes r.hpa data (fun k => !controlByte k && !crcByte s k))
  rw [heq]
  refine List.foldlRecOn (motive := fun t : State => t.ctxs = s.ctxs ∧ t.mem = _) _ _ ⟨?_, hmarks.mem⟩ fun t ht x _ =>
    ⟨(noteRequest_ctxs ..).trans ht.1, noteRequest_mem.trans ht.2⟩
  rw [hmarks.eq]

/-! ### Requests that wait, perform or are refused (R393, R402, R403, R412) -/

section Requests
variable {s : State} {port : Bool} {hpa : Word} {write : Option (List Byte)} {len : BitVec 8} {pz : Bool}

/-- The request that a host's access is. -/
def hostReq (port : Bool) (hpa : Word) (write : Option (List Byte)) (len : BitVec 8) (pz : Bool) : HostReq :=
  ⟨port, hpa.toNat, write, len.toNat, pz, none⟩

/-- An access that does not wait is admitted or refused at once. -/
theorem exec_hostMemAccess (hlup : (portLink s port).lup = true) (hwait : hostWaits s (hostReq port hpa write len pz) = false) :
    exec (.hostMemAccess port hpa write len pz) s = .next (hostAccess s (hostReq port hpa write len pz)) :=
  congrArg Host.Outcome.next ((if_neg (by rw [hlup]; decide)).trans (if_neg (ne_true_of_eq_false hwait)))

theorem exec_hostMemAccess_waits (hlup : (portLink s port).lup = true) (hwait : hostWaits s (hostReq port hpa write len pz) = true) :
    exec (.hostMemAccess port hpa write len pz) s = .next { s with heldHost := s.heldHost ++ [hostReq port hpa write len pz] } :=
  congrArg Host.Outcome.next ((if_neg (by rw [hlup]; decide)).trans (if_pos hwait))

/-- A page of the request is not admitted, or in D bias. -/
theorem hostAccess_refuses {r : HostReq} (h : ∃ p ∈ r.pages, admitted s r.port p r.write.isSome = false ∨ biasOf s p = 0#2) :
    hostAccess s r = refuseHost s r := by
  refine if_pos (List.any_eq_true.mpr ?_)
  obtain ⟨p, hp, hno⟩ := h
  refine ⟨p, hp, ?_⟩
  rcases hno with hno | hno <;> simp [hno]

/-- Every page of the request is admitted and in H bias. -/
theorem hostAccess_performs {r : HostReq} (h : ∀ p ∈ r.pages, admitted s r.port p r.write.isSome = true ∧ biasOf s p = 1#2) :
    hostAccess s r = performHost s r := by
  refine if_neg fun hany => ?_
  obtain ⟨p, hp, hno⟩ := List.any_eq_true.mp hany
  obtain ⟨hadm, hbias⟩ := h p hp
  rw [hadm, hbias] at hno
  cases hno

/-- Such a request waits for no page. -/
theorem hostWaits_open {r : HostReq} (hparked : s.hw.parked.getLsbD (if r.port then 1 else 0) = false)
    (h : ∀ p ∈ r.pages, admitted s r.port p r.write.isSome = true ∧ biasOf s p = 1#2) : hostWaits s r = false := by
  have hflip : r.pages.any (fun p => decide (2#2 ≤ biasOf s p)) = false := by
    refine List.any_eq_false.mpr fun p hp => ?_
    rw [(h p hp).2]
    decide
  rw [hostWaits, hparked, hflip, Bool.and_false]
  rfl

/-- While the trace is disabled a refused request is counted, and a read answered with zeros and poison (R393). -/
theorem refuseHost_answers (htr : s.trace.en = false) (r : HostReq) : refuseHost s r =
    if r.write.isSome then s.countError else s.countError.emit (.hostData r.port (List.replicate r.len 0#8) true) := by
  unfold refuseHost
  dsimp only
  rw [traceEv_disabled (s := s.countError) htr]
  cases r.write <;> rfl

end Requests

/-! ### Doorbells (R400) -/

section Doorbells
variable {s : State} {port : Bool} {win q : BitVec 6}

/-- The request that a doorbell, or a read of it, is while it waits. -/
def bellReq (port : Bool) (write : Option (List Byte)) (win q : BitVec 6) : HostReq := ⟨port, 0, write, 0, false, some (qNum win q)⟩

/-- A doorbell access waits on a parked port, and behind a held write of its own. -/
theorem bellWaits_iff {write : Option (List Byte)} : bellWaits s (bellReq port write win q) = true ↔
    s.hw.parked.getLsbD (if port then 1 else 0) = true ∨ ¬ ∀ h ∈ s.heldHost, h.port = port → h.write = none := by
  have hport : hostWaits s (bellReq port write win q) = s.hw.parked.getLsbD (if port then 1 else 0) := Bool.or_false _
  simp only [bellWaits, hport, Bool.or_eq_true, List.any_eq_true, Bool.and_eq_true, beq_iff_eq, not_forall]
  refine or_congr_right ⟨?_, ?_⟩
  · rintro ⟨x, hx, hxp, hxw⟩
    exact ⟨x, hx, hxp, fun e => by rw [e] at hxw; cases hxw⟩
  · rintro ⟨x, hx, hxp, hxw⟩
    exact ⟨x, hx, hxp, Option.isSome_iff_ne_none.mpr hxw⟩

theorem exec_doorbell_waits (hlup : (portLink s port).lup = true)
    (h : s.hw.parked.getLsbD (if port then 1 else 0) = true ∨ ¬ ∀ h ∈ s.heldHost, h.port = port → h.write = none) :
    exec (.doorbell port win q) s = .next { s with heldHost := s.heldHost ++ [bellReq port (some []) win q] } ∧
    exec (.doorbellRead port win q) s = .next { s with heldHost := s.heldHost ++ [bellReq port none win q] } :=
  ⟨congrArg Host.Outcome.next ((if_neg (by rw [hlup]; decide)).trans (if_pos (bellWaits_iff.mpr h))),
    congrArg Host.Outcome.next ((if_neg (by rw [hlup]; decide)).trans (if_pos (bellWaits_iff.mpr h)))⟩

theorem exec_doorbell_runs (hlup : (portLink s port).lup = true) (hparked : s.hw.parked.getLsbD (if port then 1 else 0) = false)
    (hclear : ∀ h ∈ s.heldHost, h.port = port → h.write = none) :
    exec (.doorbell port win q) s = .next (ringBell s port win q) ∧
    exec (.doorbellRead port win q) s = .next (serveHost s (bellReq port none win q)) := by
  have hno {write : Option (List Byte)} : ¬ bellWaits s (bellReq port write win q) = true := fun h =>
    (bellWaits_iff.mp h).elim (fun h => by rw [hparked] at h; cases h) (fun h => h hclear)
  exact ⟨congrArg Host.Outcome.next ((if_neg (by rw [hlup]; decide)).trans (if_neg hno)),
    congrArg Host.Outcome.next ((if_neg (by rw [hlup]; decide)).trans (if_neg hno))⟩

/-- A read of a doorbell of the port's own window answers with CONS (R400). -/
theorem serveHost_cons (hwin : winOn s win = true) (hport : winPort s win = port) :
    serveHost s (bellReq port none win q) = s.emit (.doorbellValue port (s.cwq win q).cons) := by
  obtain ⟨hw, hq⟩ := qNum_index win q
  unfold serveHost bellReq
  dsimp only
  rw [hw, hq, hwin, hport]
  simp

end Doorbells

/-! ### Acknowledgements and trained links (R369, R395, R423) -/

/-- While the trace is disabled an acknowledgement leaves no mark, and one by another host is counted (R369). -/
theorem exec_hostAcknowledge {s : State} (htr : s.trace.en = false) (port : Bool) (n : BitVec 6) (x : Word) :
    exec (.hostAcknowledge port n x) s = .next (if hostOwns s n port then s else s.countError) := by
  change Host.Outcome.next (acknowledge s port n x) = _
  rw [acknowledge, traceEv_disabled htr, ite_self]

end Sys2Proof.Machine
end

section
/-! SUPPORT. Queues that are enabled, torn down and reset (12_tasks R353, 14_host_pool R397, R401): O49. -/
namespace Sys2Proof.Machine

/-! ### QUEUE_ENABLE (R397) -/

section Enable
variable {s : State} {win q : BitVec 6} (hwin : winOn s win = true) (hword : (qWord0 s win q).getLsbD 0 = true)
  (hen : (s.cwq win q).en = false) (htearing : (s.cwq win q).tearing = false)
include hwin hword hen htearing

theorem exec_queueEnable : exec (.queueEnable win q) s = .next (if badConfig s win q (qWord0 s win q)
    then s.setCwq win q { s.cwq win q with en := true, isOn := false, badcfg := true }
    else s.setCwq win q { s.cwq win q with
      en := true, isOn := true, badcfg := false, rbase := (qWord0 s win q).extractLsb' 8 12,
      qszl := (qWord0 s win q).extractLsb' 4 4, bell := true }) := by
  refine congrArg Host.Outcome.next (if_neg ?_)
  rw [hwin, hword, hen, htearing]
  decide

end Enable

/-! ### Tasks of a queue that is torn down (R353) -/

/-- What the contexts of a torn task become: silently stopped where they are bound (R352). -/
def Ctx.silenced (id : BitVec 32) (c : Ctx) : Ctx :=
  if c.ident.task = id ∧ (c.life = .running ∨ c.life = .stopped ∨ c.life = .bound) then { c with stops := { c.stops with silent := true } } else c

theorem silenceTask_ctx (s : State) (id : BitVec 32) (fe : FeId) : (silenceTask s id).ctx fe = (s.ctx fe).silenced id := by
  refine mget_mapValues (f := Ctx.silenced id) (if_neg fun h => ?_) (List.map_congr_left fun p _ => ?_) fe.toNat
  · rcases h.2 with h | h | h <;> cases h
  · unfold Ctx.silenced
    split <;> rfl

/-- A bound context of the task is asked to stop silently. -/
theorem Ctx.silenced_of_bound {c : Ctx} {id : BitVec 32} (hid : c.ident.task = id) (hbound : isBound c = true) :
    (c.silenced id).stops.silent = true := by
  have hlife : c.life = .running ∨ c.life = .stopped ∨ c.life = .bound := by
    unfold isBound at hbound
    cases h : c.life <;> simp [h] at hbound ⊢
  rw [Ctx.silenced, if_pos ⟨hid, hlife⟩]

/-- From `s` to `t` tasks are torn down: of each task that is left, its ID and origin stand, and it stays torn if it was; each context
keeps its task and its life, and stays asked to stop if it was. -/
structure TearsDown (s t : State) : Prop where
  queues : t.disp.queues = s.disp.queues
  launchq : t.disp.launchq = s.disp.launchq
  trace : t.trace = s.trace
  tasks : ∀ v ∈ t.disp.tasks, ∃ u ∈ s.disp.tasks, u.id = v.id ∧ u.origin = v.origin ∧ (u.torn = true → v.torn = true)
  ctxs : ∀ fe, (t.ctx fe).ident = (s.ctx fe).ident ∧ (t.ctx fe).life = (s.ctx fe).life ∧
    ((s.ctx fe).stops.silent = true → (t.ctx fe).stops.silent = true)

theorem TearsDown.of_same {s t : State} (hdisp : t.disp = s.disp) (hctxs : t.ctxs = s.ctxs) (htrace : t.trace = s.trace) :
    TearsDown s t :=
  ⟨by rw [hdisp], by rw [hdisp], htrace, fun v hv => ⟨v, hdisp ▸ hv, rfl, rfl, fun h => h⟩, fun fe => by
    rw [State.ctx_of_ctxs hctxs]
    exact ⟨rfl, rfl, fun h => h⟩⟩
theorem TearsDown.trans {s t u : State} (h : TearsDown s t) (h' : TearsDown t u) : TearsDown s u where
  queues := h'.queues.trans h.queues
  launchq := h'.launchq.trans h.launchq
  trace := h'.trace.trans h.trace
  tasks v hv := by
    obtain ⟨x, hx, hid, horigin, htorn⟩ := h'.tasks v hv
    obtain ⟨y, hy, hid', horigin', htorn'⟩ := h.tasks x hx
    exact ⟨y, hy, hid'.trans hid, horigin'.trans horigin, htorn ∘ htorn'⟩
  ctxs fe := by
    obtain ⟨hid, hlife, hsilent⟩ := h'.ctxs fe
    obtain ⟨hid', hlife', hsilent'⟩ := h.ctxs fe
    exact ⟨hid.trans hid', hlife.trans hlife', hsilent ∘ hsilent'⟩

theorem tearsDown_statusSet (s : State) (sig : Word) (status : Byte) : TearsDown s (statusSet s sig status) := by
  unfold statusSet
  split <;> exact .of_same rfl rfl rfl

theorem tearsDown_dropTask (s : State) (id : BitVec 32) : TearsDown s (s.dropTask id) :=
  ⟨rfl, rfl, rfl, fun v hv => ⟨v, (List.mem_filter.mp hv).1, rfl, rfl, fun h => h⟩, fun _ => ⟨rfl, rfl, fun h => h⟩⟩

/-- A task is marked as torn. -/
def State.tornTask (s : State) (id : BitVec 32) : State := s.modTask id (fun t => { t with torn := true })

theorem tornTask_torn {s : State} {id : BitVec 32} : ∀ v ∈ (s.tornTask id).disp.tasks, v.id = id → v.torn = true := by
  intro v hv hid
  obtain ⟨u, -, rfl⟩ := List.mem_map.mp hv
  by_cases h : u.id = id
  · rw [if_pos h]
  · rw [if_neg h] at hid
    exact absurd hid h

theorem tearsDown_tornTask (s : State) (id : BitVec 32) : TearsDown s (s.tornTask id) := by
  refine ⟨rfl, rfl, rfl, fun v hv => ?_, fun _ => ⟨rfl, rfl, fun h => h⟩⟩
  obtain ⟨u, hu, rfl⟩ := List.mem_map.mp hv
  refine ⟨u, hu, ?_⟩
  split
  · exact ⟨rfl, rfl, fun _ => rfl⟩
  · exact ⟨rfl, rfl, fun h => h⟩

theorem tearsDown_silenceTask (s : State) (id : BitVec 32) : TearsDown s (silenceTask s id) := by
  refine ⟨rfl, rfl, rfl, fun v hv => ⟨v, hv, rfl, rfl, fun h => h⟩, fun fe => ?_⟩
  rw [silenceTask_ctx, Ctx.silenced]
  split
  · exact ⟨rfl, rfl, fun _ => rfl⟩
  · exact ⟨rfl, rfl, fun h => h⟩

section Tear
variable {s : State} (htr : s.trace.en = false) {y : Task}
include htr

/-- A task that waits without a context leaves (R353). -/
theorem tearTask_waiting (hst : y.st = .waiting ∨ y.st = .eligible) (hlive : y.live = []) :
    tearTask s y = (statusSet s y.sigc 0x80#8).dropTask y.id := by
  have habandon : tearTask s y = abandonTask (y.live.foldl departCtx s) y := by
    unfold tearTask
    rcases hst with h | h <;> rw [h]
  rw [habandon, hlive]
  exact taskEvent_disabled (by rw [← htr, ← ((tearsDown_statusSet s _ _).trans (tearsDown_dropTask _ _)).trace]; rfl) ..

/-- A task that runs or has failed is torn, and its contexts are asked to stop (R353). -/
theorem tearTask_running (hst : y.st = .running ∨ y.st = .failed) :
    tearTask s y = silenceTask ((statusSet s y.sigc 0x80#8).tornTask y.id) y.id := by
  have htear : tearTask s y = taskEvent (silenceTask ((statusSet s y.sigc 0x80#8).tornTask y.id) y.id) y.id 4#8 := by
    unfold tearTask
    rcases hst with h | h <;> rw [h] <;> rfl
  rw [htear]
  exact taskEvent_disabled (by rw [← htr, ← (tearsDown_statusSet s y.sigc 0x80#8).trace]; rfl) ..

/-- A torn task leaves the dispatcher or is marked, and the contexts of a running one are asked to stop (R353). -/
theorem tearTask_tears (hlive : y.live = [] ∨ y.st = .running ∨ y.st = .failed) :
    TearsDown s (tearTask s y) ∧ (∀ v ∈ (tearTask s y).disp.tasks, v.id = y.id → v.torn = true) ∧
      (y.st = .running → ∀ fe, (s.ctx fe).ident.task = y.id → isBound (s.ctx fe) = true → ((tearTask s y).ctx fe).stops.silent = true) := by
  have hstatus := tearsDown_statusSet s y.sigc 0x80#8
  by_cases hst : y.st = .running ∨ y.st = .failed
  · rw [tearTask_running htr hst]
    have htorn := hstatus.trans (tearsDown_tornTask _ y.id)
    refine ⟨htorn.trans (tearsDown_silenceTask ..), tornTask_torn, fun _ fe hid hbound => ?_⟩
    obtain ⟨hident, hlife, -⟩ := htorn.ctxs fe
    rw [silenceTask_ctx]
    refine Ctx.silenced_of_bound (by rw [hident, hid]) ?_
    rw [isBound, hlife]
    exact hbound
  · have hwait : y.st = .waiting ∨ y.st = .eligible := by
      cases h : y.st <;> simp [h] at hst ⊢
    rw [tearTask_waiting htr hwait (hlive.resolve_right hst)]
    refine ⟨hstatus.trans (tearsDown_dropTask ..), fun v hv hid => ?_, fun h => absurd (.inl h) hst⟩
    simpa [hid] using (List.mem_filter.mp hv).2

end Tear

/-- The tasks of a list, torn down one after the other. -/
theorem foldl_tearTask (l : List Task) {s : State} (htr : s.trace.en = false)
    (hlive : ∀ y ∈ l, y.live = [] ∨ y.st = .running ∨ y.st = .failed) : TearsDown s (l.foldl tearTask s) ∧
    (∀ y ∈ l, ∀ v ∈ (l.foldl tearTask s).disp.tasks, v.id = y.id → v.torn = true) ∧
    ∀ y ∈ l, y.st = .running → ∀ fe, (s.ctx fe).ident.task = y.id → isBound (s.ctx fe) = true →
      ((l.foldl tearTask s).ctx fe).stops.silent = true := by
  induction l generalizing s with
  | nil => exact ⟨.of_same rfl rfl rfl, nofun, nofun⟩
  | cons x l ih =>
    obtain ⟨htears, htorn, hsilent⟩ := tearTask_tears htr (hlive x (List.mem_cons_self ..))
    obtain ⟨htears', htorn', hsilent'⟩ := ih (s := tearTask s x) (by rw [htears.trace]; exact htr)
      fun y hy => hlive y (List.mem_cons_of_mem _ hy)
    rw [List.foldl_cons]
    refine ⟨htears.trans htears', fun y hy v hv hid => ?_, fun y hy hst fe hid hbound => ?_⟩
    · rcases List.mem_cons.mp hy with rfl | hy
      · obtain ⟨u, hu, hid', -, hkeep⟩ := htears'.tasks v hv
        exact hkeep (htorn u hu (hid'.trans hid))
      · exact htorn' y hy v hv hid
    · obtain ⟨hident, hlife, -⟩ := htears.ctxs fe
      rcases List.mem_cons.mp hy with rfl | hy
      · exact (htears'.ctxs fe).2.2 (hsilent hst fe hid hbound)
      · exact hsilent' y hy hst fe (by rw [hident, hid]) (by rw [isBound, hlife]; exact hbound)

/-! ### QUEUE_TEARDOWN, QUEUE_RESET and TEARDOWN_DONE (R401) -/

/-- CONS passes sealed entries; nothing else of the queue changes. -/
theorem skipSealed_cons (s : State) (w : BitVec 6) (n : Nat) (x : CwQueue) : ∃ c, skipSealed s w x n = { x with cons := c } := by
  induction n generalizing x with
  | zero => exact ⟨x.cons, rfl⟩
  | succ n ih =>
    unfold skipSealed
    split
    · obtain ⟨c, hc⟩ := ih { x with cons := x.cons + 1#64 }
      exact ⟨c, hc⟩
    · exact ⟨x.cons, rfl⟩

/-- A queue that is torn down is off, its launches are dropped, and every task of it that is left is torn (R353, R401). -/
theorem tearQueue_tears {s : State} {w q : BitVec 6} (htr : s.trace.en = false)
    (hlive : ∀ v ∈ s.disp.tasks, v.live = [] ∨ v.st = .running ∨ v.st = .failed) (resetting : Bool) :
    (∃ c, (tearQueue s w q resetting).cwq w q = { s.cwq w q with
      cons := c, isOn := false, tdone := false, tearing := true, tearReq := false, rstReq := false, resetting := resetting }) ∧
    (tearQueue s w q resetting).disp.launchq = s.disp.launchq.filter (fun c => c.origin != some (qNum w q)) ∧
    (∀ v ∈ (tearQueue s w q resetting).disp.tasks, v.origin = some (qNum w q) → v.torn = true) ∧
    ∀ y ∈ s.disp.tasks, y.origin = some (qNum w q) → y.torn = false → y.st = .running → ∀ fe, (s.ctx fe).ident.task = y.id →
      isBound (s.ctx fe) = true → ((tearQueue s w q resetting).ctx fe).stops.silent = true ∧
        ((tearQueue s w q resetting).ctx fe).life = (s.ctx fe).life := by
  let x : CwQueue := { s.cwq w q with
    isOn := false, tdone := false, tearing := true, tearReq := false, rstReq := false, resetting := resetting }
  obtain ⟨z, c, hzx, hz⟩ : ∃ z c, (if x.qszl = 0#4 then x else skipSealed s w x 4097) = z ∧ z = { x with cons := c } := by
    split
    · exact ⟨x, x.cons, rfl, rfl⟩
    · obtain ⟨c, hc⟩ := skipSealed_cons s w 4097 x
      exact ⟨_, c, rfl, hc⟩
  let u : State := s.setCwq w q z
  let v : State := { u with disp := { u.disp with launchq := s.disp.launchq.filter (fun l => l.origin != some (qNum w q)) } }
  let l : List Task := s.disp.tasks.filter (fun t => t.origin == some (qNum w q) && !t.torn)
  have htear : tearQueue s w q resetting = l.foldl tearTask v := by
    unfold tearQueue
    dsimp only
    rw [hzx]
    rfl
  have hmem {y : Task} (hy : y ∈ s.disp.tasks) (horigin : y.origin = some (qNum w q)) (htorn : y.torn = false) : y ∈ l :=
    List.mem_filter.mpr ⟨hy, by simp [horigin, htorn]⟩
  obtain ⟨htears, htorn, hsilent⟩ := foldl_tearTask l (s := v) htr fun y hy => hlive y (List.mem_filter.mp hy).1
  rw [htear]
  refine ⟨⟨c, ?_⟩, htears.launchq, fun t ht horigin => ?_, fun y hy horigin hnot hst fe hid hbound => ?_⟩
  · rw [State.cwq, htears.queues]
    change u.cwq w q = _
    rw [cwq_setCwq, if_pos ⟨rfl, rfl⟩, hz]
  · obtain ⟨y, hy, hid, horigin', hkeep⟩ := htears.tasks t ht
    by_cases hy' : y.torn = true
    · exact hkeep hy'
    · exact htorn y (hmem hy (horigin'.trans horigin) (Bool.eq_false_of_not_eq_true hy')) t ht hid.symm
  · exact ⟨hsilent y (hmem hy horigin hnot) hst fe hid hbound, (htears.ctxs fe).2.1⟩

theorem foldl_dropTask_tasks (l : List Task) (s : State) :
    ∀ v ∈ (l.foldl (fun s t => s.dropTask t.id) s).disp.tasks, v ∈ s.disp.tasks ∧ ∀ u ∈ l, v.id ≠ u.id := by
  induction l generalizing s with
  | nil => exact fun v hv => ⟨hv, nofun⟩
  | cons x l ih =>
    intro v hv
    obtain ⟨hmem, hne⟩ := ih (s.dropTask x.id) v hv
    obtain ⟨hmem', hx⟩ := List.mem_filter.mp hmem
    exact ⟨hmem', List.forall_mem_cons.mpr ⟨by simpa using hx, hne⟩⟩

/-- Once no context of its tasks is bound, a torn queue reports it, and a reset one with a ring is on again (R401). -/
theorem exec_teardownDone {s : State} {win q : BitVec 6} (htearing : (s.cwq win q).tearing = true)
    (hgone : ∀ v ∈ s.disp.tasks, v.torn = true → v.origin = some (qNum win q) → taskBound s v.id = false) :
    ∃ t, exec (.teardownDone win q) s = .next t ∧
      t.cwq win q = { s.cwq win q with
        tearing := false, tdone := true, isOn := (s.cwq win q).resetting && (s.cwq win q).en && (s.cwq win q).qszl != 0#4, bell := true } ∧
      ∀ v ∈ t.disp.tasks, v.origin = some (qNum win q) → v.torn = false := by
  have hnone : ¬ (!(s.cwq win q).tearing || (s.disp.tasks.filter (fun t => t.torn && t.origin == some (qNum win q))).any
      (fun t => taskBound s t.id)) = true := by
    rw [htearing, Bool.not_true, Bool.false_or, List.any_eq_true]
    rintro ⟨v, hv, hbound⟩
    obtain ⟨hv, hmine⟩ := List.mem_filter.mp hv
    rw [Bool.and_eq_true, beq_iff_eq] at hmine
    rw [hgone v hv hmine.1 hmine.2] at hbound
    cases hbound
  refine ⟨_, congrArg Host.Outcome.next (if_neg hnone), by rw [cwq_setCwq, if_pos ⟨rfl, rfl⟩], fun v hv horigin => ?_⟩
  obtain ⟨hmem, hne⟩ := foldl_dropTask_tasks _ s v hv
  by_contra htorn
  exact hne v (List.mem_filter.mpr ⟨hmem, by simp [horigin, Bool.eq_true_of_not_eq_false htorn]⟩) rfl

/-- Settles O49: accesses by what makes them wait, perform or be refused, doorbells by what they wait for, and queues by
`exec_queueEnable`, `tearQueue_tears` and `exec_teardownDone`. -/
theorem hostAccessesAndQueuesAct : Obligations.HostAccessesAndQueuesAct := by
  unfold Obligations.HostAccessesAndQueuesAct
  intro s port hpa write data len pz win q i y fe n x p3 r l flows open' clear a z here htr
  refine ⟨?down, ?waits, ?performs, ?refused, ?bellDown, ?bell, ?bellWaits, ?enable, ?tear, exec_teardownDone,
    exec_hostAcknowledge htr port n x, ?pool, ?host⟩
  case down => exact fun hdown => congrArg Host.Outcome.next (if_pos (by rw [hdown]; rfl))
  case waits => exact exec_hostMemAccess_waits
  case performs =>
    rintro ⟨hlup, hparked⟩ hopen
    have hexec := exec_hostMemAccess hlup (hostWaits_open (r := r) hparked hopen)
    rw [hexec, hostAccess_performs (r := hostReq port hpa write len pz) hopen]
    refine ⟨fun hread => by subst hread; rfl, fun hwrite => ?_⟩
    obtain ⟨hctxs, hmem⟩ := performHost_writes s (r := r) hwrite
    refine ⟨_, rfl, hctxs, fun k => ?_⟩
    change memRead (performHost s r).mem k = _
    rw [hmem, memRead_takenBytes]
    simp only [Bool.and_eq_true, Bool.not_eq_true']
    rfl
  case refused =>
    rintro ⟨hlup, -⟩ hno hwait
    rw [exec_hostMemAccess hlup hwait, hostAccess_refuses (r := hostReq port hpa write len pz) hno, refuseHost_answers htr]
    cases write <;> rfl
  case bellDown =>
    intro hdown
    have hoff : (!(portLink s port).lup) = true := by rw [hdown]; rfl
    exact ⟨congrArg Host.Outcome.next (if_pos hoff), congrArg Host.Outcome.next (if_pos hoff)⟩
  case bell =>
    rintro ⟨hlup, hparked⟩ hclear
    obtain ⟨hbell, hread⟩ := exec_doorbell_runs (win := win) (q := q) hlup hparked hclear
    rw [hbell, hread]
    refine ⟨fun hwin hport hon => ?_, fun hforeign => ?_, fun hwin hport => by rw [serveHost_cons hwin hport]⟩
    · exact congrArg Host.Outcome.next ((if_pos ⟨hwin, hport⟩).trans (if_pos hon))
    · refine congrArg Host.Outcome.next (if_neg fun h => ?_)
      rcases hforeign with hoff | hport
      · rw [hoff] at h
        exact nomatch h.1
      · exact hport h.2
  case bellWaits => exact exec_doorbell_waits
  case enable =>
    intro hwin hword hen htearing
    rw [exec_queueEnable hwin hword hen htearing]
    exact ⟨fun hbad => by rw [if_pos hbad], fun hgood => by rw [hgood, if_neg Bool.false_ne_true]⟩
  case tear =>
    intro hwin htearing hi hlive
    obtain ⟨resetting, hexec, hreset⟩ : ∃ b, exec i s = .next (tearQueue s win q b) ∧ (b = true ↔ i = .queueReset win q) := by
      rcases hi with ⟨rfl, hreq⟩ | ⟨rfl, hreq⟩
      · refine ⟨false, congrArg Host.Outcome.next (if_pos ?_), by simp⟩
        rw [hwin, hreq, htearing]
        rfl
      · refine ⟨true, congrArg Host.Outcome.next (if_pos ?_), by simp⟩
        rw [hwin, hreq, htearing]
        rfl
    obtain ⟨⟨c, hcwq⟩, hlaunch, htorn, hsilent⟩ := tearQueue_tears (w := win) (q := q) htr hlive resetting
    refine ⟨_, hexec, ?_, ?_, ?_, ?_, hlaunch, htorn, fun hy horigin hnot hst => hsilent y hy horigin hnot hst fe⟩ <;> rw [hcwq]
    exact hreset
  case pool => exact fun hpool => congrArg Host.Outcome.next (if_pos hpool)
  case host =>
    rintro hp rfl
    exact congrArg Host.Outcome.next (if_neg (by omega))

end Sys2Proof.Machine
end

section
/-! SUPPORT. Boot, RESYNC, activation, measurements, agents and the trace (15_platform R414 to R427): O52. -/
namespace Sys2Proof.Machine

/-! ### Boot (R414 to R416) -/

/-- What the loop of R416 keeps, and which bank it runs. -/
theorem boot_runs (f : Firmware) : (boot f).att = f.att ∧ (boot f).banks = f.banks ∧ (boot f).act = false ∧
    (bootable f f.sel = true → (boot f).run = f.sel ∧ (boot f).watchdog = true ∧ (boot f).fback = false ∧ (boot f).recov = false) ∧
    (bootable f f.sel = false → bootable f (!f.sel) = true →
      (boot f).run = (!f.sel) ∧ (boot f).watchdog = true ∧ (boot f).fback = true ∧ (boot f).recov = false) ∧
    (bootable f f.sel = false → bootable f (!f.sel) = false → (boot f).recov = true) := by
  let z : Firmware := { f with act := false, healthy := false, fback := false, recov := false, watchdog := false }
  have hboot : boot f = if bootable f f.sel then { z with run := f.sel, watchdog := true }
      else if bootable f (!f.sel) then { z with run := !f.sel, fback := true, watchdog := true } else { z with recov := true } := rfl
  rw [hboot]
  cases hsel : bootable f f.sel
  · cases hother : bootable f (!f.sel)
    · exact ⟨rfl, rfl, rfl, nofun, nofun, fun _ _ => rfl⟩
    · exact ⟨rfl, rfl, rfl, nofun, fun _ _ => ⟨rfl, rfl, rfl, rfl⟩, nofun⟩
  · exact ⟨rfl, rfl, rfl, fun _ => ⟨rfl, rfl, rfl, rfl⟩, nofun, nofun⟩

/-! ### RESYNC (R423, R426, R427) -/

/-- `t` is `s` but for what a written summary leaves: memory, its marks, and the blocks. -/
def SummaryDiffers (s t : State) : Prop :=
  t = { s with mem := t.mem, poison := t.poison, hist := t.hist, stamp := t.stamp, media := t.media, filled := t.filled, resync := t.resync }

theorem SummaryDiffers.eq {s t : State} (h : SummaryDiffers s t) : t = { s with
    mem := t.mem, poison := t.poison, hist := t.hist, stamp := t.stamp, media := t.media, filled := t.filled, resync := t.resync } := h
theorem summaryDiffers_setResync (s : State) (b : BitVec 2) (x : ResyncBlk) : SummaryDiffers s (setResync s b x) := rfl
theorem MarksDiffer.summary {s t : State} {m : List Host.Cell} (h : MarksDiffer { s with mem := m } t) (b : BitVec 2) (x : ResyncBlk) :
    SummaryDiffers s (setResync t b x) := by
  unfold SummaryDiffers
  rw [h.eq]
  rfl

/-- `t` is `s` but for what the service of requests leaves: what a summary and an event leave, the caches, and the links. -/
def ServiceDiffers (s t : State) : Prop :=
  t = { s with mem := t.mem, clusters := t.clusters, poison := t.poison, hist := t.hist, stamp := t.stamp, media := t.media,
               filled := t.filled, trace := t.trace, links := t.links, outputs := t.outputs, resync := t.resync,
               hw := { s.hw with errors := t.hw.errors } }

theorem ServiceDiffers.eq {s t : State} (h : ServiceDiffers s t) : t = { s with
    mem := t.mem, clusters := t.clusters, poison := t.poison, hist := t.hist, stamp := t.stamp, media := t.media,
    filled := t.filled, trace := t.trace, links := t.links, outputs := t.outputs, resync := t.resync,
    hw := { s.hw with errors := t.hw.errors } } := h
theorem ServiceDiffers.refl (s : State) : ServiceDiffers s s := rfl
theorem ServiceDiffers.trans {s t u : State} (h : ServiceDiffers s t) (h' : ServiceDiffers t u) : ServiceDiffers s u := by
  unfold ServiceDiffers
  rw [h'.eq, h.eq]
theorem EventDiffers.service {s t : State} (h : EventDiffers s t) : ServiceDiffers s t := by
  unfold ServiceDiffers
  rw [h.eq]
theorem MemorySideDiffers.service {s t : State} (h : MemorySideDiffers s t) : ServiceDiffers s t := by
  unfold ServiceDiffers
  rw [h.eq]
theorem SummaryDiffers.service {s t : State} (h : SummaryDiffers s t) : ServiceDiffers s t := by
  unfold ServiceDiffers
  rw [h.eq]
theorem ServiceDiffers.ctxs {s t : State} (h : ServiceDiffers s t) : t.ctxs = s.ctxs := by rw [h.eq]
theorem ServiceDiffers.disp {s t : State} (h : ServiceDiffers s t) : t.disp = s.disp := by rw [h.eq]
theorem ServiceDiffers.fw {s t : State} (h : ServiceDiffers s t) : t.fw = s.fw := by rw [h.eq]

theorem drainPark_memorySide (s : State) (l : List Parked) : MemorySideDiffers s (drainPark s l) :=
  memorySideDiffers_foldl (fun s (p : Parked) => performStoreAs_memorySide s p.fe p.agent p.rel p.ent) l s

theorem traceDiffers_logDiscards (s : State) (l : List Parked) : TraceDiffers s (logDiscards s l) := by
  refine List.foldlRecOn (motive := fun t => TraceDiffers s t) _ _ (.refl s) fun t ht n _ => ht.trans ?_
  dsimp only
  split
  · exact .refl t
  · exact traceDiffers_traceEv ..

theorem portLink_of_links {s t : State} (h : t.links = s.links) (port : Bool) : portLink t port = portLink s port := by
  rw [portLink, portLink, h]

theorem applyPdisc_notDue {s : State} {port : Bool} (h : (portLink s port).resyncDue = false) (pd : Bool) : applyPdisc s port pd = s :=
  if_pos (by rw [h]; rfl)

/-- A link whose host has had its first RESYNC: nothing is parked any more. -/
def HostLink.resynced (l : HostLink) : HostLink := { l with resyncDue := false, parkBuf := [] }

/-- A due RESYNC replays or discards the park buffer, and leaves it empty (R423). -/
theorem applyPdisc_due {s : State} {port : Bool} (h : (portLink s port).resyncDue = true) (pd : Bool) :
    ServiceDiffers s (applyPdisc s port pd) ∧ portLink (applyPdisc s port pd) port = (portLink s port).resynced := by
  let u : State := setPortLink s port (portLink s port).resynced
  have hu : ServiceDiffers s u := (eventDiffers_setPortLink ..).service
  have hlink : portLink u port = (portLink s port).resynced := portLink_setPortLink ..
  have happly : applyPdisc s port pd
      = if pd then logDiscards u (portLink s port).parkBuf else drainPark u (portLink s port).parkBuf := if_neg (by rw [h]; decide)
  rw [happly]
  cases pd
  · have hd : MemorySideDiffers u (drainPark u (portLink s port).parkBuf) := drainPark_memorySide ..
    exact ⟨hu.trans hd.service, (portLink_of_links hd.links port).trans hlink⟩
  · have hd : TraceDiffers u (logDiscards u (portLink s port).parkBuf) := traceDiffers_logDiscards ..
    exact ⟨hu.trans hd.event.service, (portLink_of_links (by rw [if_pos rfl, hd.eq]) port).trans hlink⟩

theorem applyPdisc_service (s : State) (port pd : Bool) : ServiceDiffers s (applyPdisc s port pd) := by
  cases h : (portLink s port).resyncDue
  · rw [applyPdisc_notDue h]
    exact .refl s
  · exact (applyPdisc_due h pd).1

/-- The state in which the request of a host or of the mailbox is answered: a host's park buffer comes first. -/
def settlePark (s : State) (b : BitVec 2) : State := if b = 2#2 then s else applyPdisc s (b == 1#2) (resyncBlk s b).pdisc

/-- The key from which the summary of a block is written. -/
def ResyncBlk.key (x : ResyncBlk) (b : BitVec 2) : Nat :=
  if b = 2#2 then (x.addr &&& ~~~63#64).toNat else hostKey (b == 1#2) (x.addr &&& ~~~63#64).toNat
/-- A block whose request has been served. -/
def ResyncBlk.served (x : ResyncBlk) (body : List Byte) : ResyncBlk := { x with busy := false, bytes := BitVec.ofNat 32 body.length }
/-- The bytes of a summary at a key, which are not poisoned. -/
def putSummary (s : State) (key : Nat) (body : List Byte) : State :=
  performPoison { s with mem := memWrites s.mem key body } (body.zipIdx.map (fun y => (key + y.2, y.1))) []

theorem serveResync_eq {b : BitVec 2} (hb : b ≠ 3#2) (s : State) (afterAct : Bool) : serveResync s b afterAct =
    if (resyncBlk s b).len.toNat < (summary s afterAct).length
    then setResync (settlePark s b) b { (resyncBlk s b).served (summary s afterAct) with short := true }
    else setResync (putSummary (settlePark s b) ((resyncBlk s b).key b) (summary s afterAct)) b
      { (resyncBlk s b).served (summary s afterAct) with done := true } :=
  if_neg hb

theorem serveResync_redfish (s : State) (afterAct : Bool) : serveResync s 3#2 afterAct
    = (setResync s 3#2 ((resyncBlk s 3#2).served (summary s afterAct))).emit (.resync (summary s afterAct)) := by
  unfold serveResync
  exact if_pos rfl

theorem serveResync_summary {b : BitVec 2} (hb : b ≠ 3#2) (s : State) (afterAct : Bool) :
    SummaryDiffers (settlePark s b) (serveResync s b afterAct) := by
  rw [serveResync_eq hb]
  split
  · exact summaryDiffers_setResync ..
  · exact (marksDiffer_performPoison ..).summary ..

theorem settlePark_service (s : State) (b : BitVec 2) : ServiceDiffers s (settlePark s b) := by
  unfold settlePark
  split
  · exact .refl s
  · exact applyPdisc_service ..

theorem serveResync_service (s : State) (b : BitVec 2) (afterAct : Bool) : ServiceDiffers s (serveResync s b afterAct) := by
  by_cases hb : b = 3#2
  · subst hb
    rw [serveResync_redfish]
    exact (summaryDiffers_setResync ..).service.trans (eventDiffers_emit ..).service
  · exact (settlePark_service s b).trans (serveResync_summary hb s afterAct).service

theorem serveWaiting_service (s : State) : ServiceDiffers s (serveWaiting s) := by
  refine List.foldlRecOn (motive := fun t => ServiceDiffers s t) _ _ (.refl s) fun t ht b _ => ht.trans ?_
  split
  · exact serveResync_service ..
  · exact .refl t

theorem resyncBlk_setResync (s : State) (b : BitVec 2) (x : ResyncBlk) : resyncBlk (setResync s b x) b = x := vget_vset_same b.isLt

theorem summary_setResync (s : State) (b : BitVec 2) (x : ResyncBlk) (afterAct : Bool) :
    summary (setResync s b x) afterAct = summary s afterAct := rfl

section Ask
variable {s : State} {b : BitVec 2}

theorem askResync_busy (h : (resyncBlk s b).busy = true) : askResync s b = s.countError := if_pos h

theorem askResync_waits (hidle : (resyncBlk s b).busy = false) (hact : s.fw.act = true) :
    askResync s b = setResync s b { resyncBlk s b with busy := true } :=
  (if_neg (by rw [hidle]; decide)).trans (if_pos hact)

theorem askResync_serves (hidle : (resyncBlk s b).busy = false) (hact : s.fw.act = false) : askResync s b = serveResync s b false :=
  (if_neg (by rw [hidle]; decide)).trans (if_neg (by rw [hact]; decide))

theorem exec_resyncGo (hb : b ≠ 3#2) : exec (.resyncGo b) s = .next (askResync s b) := congrArg Host.Outcome.next (if_neg hb)

theorem settlePark_notDue (h : b ≠ 2#2 → (portLink s (b == 1#2)).resyncDue = false) : settlePark s b = s := by
  unfold settlePark
  split
  · rfl
  next hne => exact applyPdisc_notDue (h hne) _

/-- A written summary reads back, and the block says that it is done (R427). -/
theorem putSummary_reads (key : Nat) (body : List Byte) (x : ResyncBlk) : resyncBlk (setResync (putSummary s key body) b x) b = x ∧
    ∀ j v, body[j]? = some v → memRead (setResync (putSummary s key body) b x).mem (key + j) = v := by
  refine ⟨resyncBlk_setResync .., fun j v hv => ?_⟩
  obtain ⟨hj, rfl⟩ := List.getElem?_eq_some_iff.mp hv
  rw [setResync_mem, putSummary, performPoison_mem]
  exact memRead_memWrites_at hj

/-- A host's first RESYNC after its return (R423). -/
theorem serveResync_due (hb : b ≠ 3#2) (hhost : b ≠ 2#2) (hdue : (portLink s (b == 1#2)).resyncDue = true) (afterAct : Bool) :
    portLink (serveResync s b afterAct) (b == 1#2) = (portLink s (b == 1#2)).resynced ∧ (serveResync s b afterAct).ctxs = s.ctxs := by
  have hsum := serveResync_summary hb s afterAct
  have hsettle : settlePark s b = applyPdisc s (b == 1#2) (resyncBlk s b).pdisc := if_neg hhost
  refine ⟨?_, (serveResync_service ..).ctxs⟩
  rw [portLink_of_links (by rw [hsum.eq]) (s := settlePark s b), hsettle]
  exact (applyPdisc_due hdue _).2

/-- The summary that answers a Redfish request (R427). -/
theorem exec_redfishResync (pd : Bool) (hrecov : s.fw.recov = false) (hidle : (resyncBlk s 3#2).busy = false) (hact : s.fw.act = false) :
    ∃ x, exec (.redfishResync pd) s = .next ((setResync (setResync s 3#2 { resyncBlk s 3#2 with pdisc := pd }) 3#2 x).emit
      (.resync (summary s false))) := by
  let u : State := setResync s 3#2 { resyncBlk s 3#2 with pdisc := pd }
  have hblk : resyncBlk u 3#2 = { resyncBlk s 3#2 with pdisc := pd } := resyncBlk_setResync ..
  have hask : exec (.redfishResync pd) s = .next (askResync (if (resyncBlk s 3#2).busy then s else u) 3#2) :=
    congrArg Host.Outcome.next (if_neg (by rw [hrecov]; decide))
  refine ⟨(resyncBlk u 3#2).served (summary u false), hask.trans ?_⟩
  rw [hidle, if_neg Bool.false_ne_true, askResync_serves (s := u) (by rw [hblk]; exact hidle) hact, serveResync_redfish,
    show summary u false = summary s false from summary_setResync ..]

end Ask

/-! ### Health and activation (R415 to R417) -/

theorem activationEvent_event (s : State) (code : Byte) : EventDiffers s (activationEvent s code) :=
  (traceDiffers_traceEv ..).event.trans (eventDiffers_raiseEvent ..)

/-- The window closes: the dispatcher goes on, and what waited is served (R417). -/
theorem closeWindow_closes (s : State) (f : Firmware) (code : Byte) : (closeWindow s f code).disp = { s.disp with hold := false } ∧
    (closeWindow s f code).ctxs = s.ctxs ∧ (closeWindow s f code).fw = { f with act := false } := by
  have h : ServiceDiffers _ (closeWindow s f code) := (activationEvent_event ..).service.trans (serveWaiting_service ..)
  exact ⟨h.disp, h.ctxs, h.fw⟩

/-- The firmware after its report, in one form: the count of the bank that the watchdog watches is cleared. -/
theorem Firmware.report_eq (f : Firmware) :
    f.report = { (if f.watchdog then f.setAtt f.run 0#2 else f) with healthy := true, watchdog := false } := by
  unfold Firmware.report
  split
  · rfl
  next h =>
    rw [Bool.not_eq_true] at h
    rw [← h]

theorem Firmware.report_act_run (f : Firmware) : f.report.act = f.act ∧ f.report.run = f.run := by
  unfold Firmware.report
  split <;> exact ⟨rfl, rfl⟩

section Health
variable {s : State}

/-- Without an open window the report is all that HEALTHY does. -/
theorem exec_healthyWrite (h : s.fw.act = false ∨ windowLeft s = 0) : exec .healthyWrite s = .next { s with fw := s.fw.report } := by
  refine congrArg Host.Outcome.next (if_neg ?_)
  rw [s.fw.report_act_run.1]
  rcases h with h | h <;> simp [h]

theorem exec_healthyWrite_window (hact : s.fw.act = true) (hopen : windowLeft s ≠ 0) : exec .healthyWrite s
    = .next (closeWindow s { s.fw.report with sel := !s.fw.run, run := !s.fw.run } 1#8) := by
  obtain ⟨hract, hrrun⟩ := s.fw.report_act_run
  rw [← hrrun]
  refine congrArg Host.Outcome.next (if_pos ?_)
  rw [hract, hact]
  simpa using hopen

theorem exec_activationTimeout (h : s.fw.act = false ∨ windowLeft s ≠ 0) : exec .activationTimeout s = .next s := by
  refine congrArg Host.Outcome.next (if_neg ?_)
  rcases h with h | h <;> simp [h]

theorem exec_activationTimeout_window (hact : s.fw.act = true) (hclosed : windowLeft s = 0) :
    exec .activationTimeout s = .next (closeWindow s s.fw 3#8) :=
  congrArg Host.Outcome.next (if_pos (by rw [hact, hclosed]; rfl))

end Health

/-! ### Measurements (R418, R419) -/

theorem measurementOf_eq (s : State) (blk : BitVec 8) : measurementOf s blk = .measurement blk s.fw.run (fwSvn (bankImage s.fw s.fw.run))
    (if blk = 0#8 ∨ blk = 255#8 then measured s 1#8 ++ measured s 2#8 ++ measured s 3#8 ++ measured s 4#8 ++ measured s 5#8
      else measured s blk) := by
  simp [measurementOf, List.append_assoc]

/-! ### Task actions (R421) -/

section TaskAction
variable {s : State} {win : BitVec 6} {entry : List Word}

/-- The words of a placed entry, its seal last. -/
def sealedEntry (entry : List Word) (i : Nat) : List Word := (List.range 7).map (fun k => entry.getD k 0#64) ++ [BitVec.ofNat 64 (i + 1)]

theorem sealedEntry_word {i k : Nat} (hk : k < 7) : (sealedEntry entry i)[k]? = some (entry.getD k 0#64) := by
  simp [sealedEntry, List.getElem?_append_left, hk]

theorem sealedEntry_seal {i : Nat} : (sealedEntry entry i)[7]? = some (BitVec.ofNat 64 (i + 1)) := by
  simp [sealedEntry]

/-- An accepted action: the entry stands sealed after the sealed ones, and the queue's bell rings. -/
theorem exec_redfishTaskAction (hrecov : s.fw.recov = false) (hwin : winOn s win = true) (hon : (s.cwq win 0#6).isOn = true)
    (hroom : sealedCount s win (s.cwq win 0#6) (2 ^ (s.cwq win 0#6).qszl.toNat) < 2 ^ (s.cwq win 0#6).qszl.toNat) :
    let x := s.cwq win 0#6
    let i := x.cons.toNat + sealedCount s win x (2 ^ x.qszl.toNat)
    exec (.redfishTaskAction win entry) s = .next (({ s with
      mem := memWrites s.mem (entryAddr win x i) ((sealedEntry entry i).flatMap wordBytes) }).putCwq win 0#6 { x with bell := true }) :=
  congrArg Host.Outcome.next (if_neg (by simp [hrecov, hwin, hon, hroom]))

end TaskAction

/-! ### Translation agents (R420) -/

theorem Core.mem_keepLeaves {co : Core} {keep : Leaf → Bool} {l : Leaf}
    (h : l ∈ (co.keepLeaves keep).leaves ++ (co.keepLeaves keep).gleaves ++ (co.keepLeaves keep).cleaves.map (·.2)) : keep l = true := by
  rw [List.mem_append, List.mem_append] at h
  rcases h with (h | h) | h
  · exact (List.mem_filter.mp h).2
  · exact (List.mem_filter.mp h).2
  · obtain ⟨x, hx, rfl⟩ := List.mem_map.mp h
    exact (List.mem_filter.mp hx).2

/-- No leaf of the tenant is left in a core. -/
theorem dropTenant_leaves (s : State) (tenant : BitVec 4) : ∀ p ∈ (dropTenant s tenant).cores,
    ∀ l ∈ p.2.leaves ++ p.2.gleaves ++ p.2.cleaves.map (·.2), (s.ctx l.fe).ident.tenant ≠ tenant := by
  intro p hp l hl
  obtain ⟨q, -, rfl⟩ := List.mem_map.mp hp
  simpa using Core.mem_keepLeaves hl

theorem agentWrite_same {s : State} {tenant : BitVec 4} {data : Word}
    (h : (s.agentOf tenant).extractLsb' 0 2 = data.extractLsb' 0 2) :
    agentWrite s tenant data = s.withAgent tenant (data.extractLsb' 0 3) :=
  if_pos (h.trans (by ext; simp))

theorem agentWrite_changed {s : State} {tenant : BitVec 4} {data : Word}
    (h : (s.agentOf tenant).extractLsb' 0 2 ≠ data.extractLsb' 0 2) :
    agentWrite s tenant data = (dropTenant (s.withAgent tenant (data.extractLsb' 0 3)) tenant).emit (.atsInvalidate tenant) :=
  if_neg fun e => h (e.trans (by ext; simp))

/-! ### The flight trace (R424, R425) -/

/-- The second word of a record: class, code and source, with the sequence number above them. -/
theorem natBytes_recordHead (seq : BitVec 32) (w : Word) : natBytes (seq ++ w.extractLsb' 0 32).toNat 8
    = [w.extractLsb' 0 8, w.extractLsb' 8 8] ++ natBytes (w.extractLsb' 16 16).toNat 2 ++ natBytes seq.toNat 4 := by
  have hword : (seq ++ w.extractLsb' 0 32).toNat = seq.toNat * 2 ^ 32 + w.toNat % 2 ^ 32 := by
    rw [BitVec.toNat_append, ← Nat.shiftLeft_add_eq_or_of_lt (BitVec.isLt _), Nat.shiftLeft_eq, BitVec.extractLsb'_toNat,
      Nat.shiftRight_zero]
  have hfield (i n : Nat) : (w.extractLsb' i n).toNat = w.toNat / 2 ^ i % 2 ^ n := by
    rw [BitVec.extractLsb'_toNat, Nat.shiftRight_eq_div_pow]
  rw [hword, hfield]
  simp only [natBytes, List.cons_append, List.nil_append, List.cons.injEq, and_true, ← BitVec.toNat_inj, BitVec.toNat_ofNat, hfield]
  omega

section Traced
variable {s : State} (w0 w1 : Word)

/-- The words of a trace record. -/
def traceWords (s : State) (w0 w1 : Word) : List Word :=
  [s.time, s.trace.seq ++ w0.extractLsb' 0 32, zext64 (w0.extractLsb' 32 32), w1]

theorem exec_traceEvent_written (hen : s.trace.en = true) (hfrozen : s.trace.frozen = false) : exec (.traceEvent w0 w1) s = .next { s with
    mem := memWrites s.mem (0x5F78000000 + 32 * s.trace.wptr.toNat) ((traceWords s w0 w1).flatMap wordBytes)
    trace := { s.trace with wptr := s.trace.wptr + 1#26, seq := s.trace.seq + 1#32 } } := by
  have hbytes : (traceWords s w0 w1).flatMap wordBytes = natBytes s.time.toNat 8 ++ [w0.extractLsb' 0 8, w0.extractLsb' 8 8]
      ++ natBytes (w0.extractLsb' 16 16).toNat 2 ++ natBytes s.trace.seq.toNat 4
      ++ natBytes (zext64 (w0.extractLsb' 32 32)).toNat 8 ++ natBytes w1.toNat 8 := by
    simp only [traceWords, List.flatMap_cons, List.flatMap_nil, wordBytes, natBytes_recordHead, List.append_assoc, List.append_nil]
  rw [hbytes]
  exact congrArg Host.Outcome.next ((if_neg (by rw [hen]; decide)).trans (if_neg (by rw [hfrozen]; decide)))

theorem exec_traceEvent_frozen (hen : s.trace.en = true) (hfrozen : s.trace.frozen = true) : exec (.traceEvent w0 w1) s = .next { s with
    trace := { s.trace with drops := if s.trace.drops = BitVec.allOnes 32 then s.trace.drops else s.trace.drops + 1#32 } } :=
  congrArg Host.Outcome.next ((if_neg (by rw [hen]; decide)).trans (if_pos hfrozen))

/-- The count of dropped events stops at its greatest value (R425). -/
theorem toNat_saturatedCount (d : BitVec 32) : (if d = BitVec.allOnes 32 then d else d + 1#32).toNat = min (d.toNat + 1) (2 ^ 32 - 1) := by
  split
  next h => rw [h]; rfl
  next h =>
    have hne : d.toNat ≠ 2 ^ 32 - 1 := fun e => h (BitVec.eq_of_toNat_eq (by rw [e]; rfl))
    have hlt := d.isLt
    rw [BitVec.toNat_add, Nat.mod_eq_of_lt (by simp; omega)]
    simp
    omega

end Traced

/-! ### The statement -/

/-- Settles O52: resets by `boot_runs`, the window by `closeWindow_closes`, RESYNC by what `askResync` does in each case, a task action by
the words of its entry, a changed agent by `dropTenant`, and the trace by its record's words. -/
theorem platformEventsAct : Obligations.PlatformEventsAct := by
  unfold Obligations.PlatformEventsAct
  intro s img mb win entry tenant data w0 w1 pd blk f boots all g put x n at' b body key tr
  refine ⟨⟨_, rfl, rfl, rfl, rfl, rfl, rfl, boot_runs f⟩, ?expired, ?watched, ?quiet, ?window, ?activationRefused, ?activation,
    ?measurements, ?integrity, rfl, ⟨?actionRefused, ?action⟩, ?agent, ?untraced, ?frozen, ?traced, rfl, ?resync, ?recovery, ?redfish⟩
  case expired =>
    intro hwatch htime
    refine ⟨_, congrArg Host.Outcome.next (if_pos ?_), rfl, rfl, rfl, rfl, rfl, boot_runs _⟩
    rw [show s.fw.watchdog = true from hwatch, Bool.true_and]
    exact decide_eq_true htime
  case watched =>
    intro h
    refine congrArg Host.Outcome.next (if_neg ?_)
    rcases h with h | h
    · rw [show s.fw.watchdog = false from h, Bool.false_and]
      decide
    · rw [show decide (watchdogNs ≤ s.time.toNat) = false from decide_eq_false (Nat.not_le.mpr h), Bool.and_false]
      decide
  case quiet =>
    intro hact
    rw [exec_healthyWrite (.inl hact)]
    exact ⟨fun hw => congrArg (fun f => Host.Outcome.next { s with fw := f }) (if_pos hw),
      fun hw => congrArg (fun f => Host.Outcome.next { s with fw := f }) (if_neg (by rw [hw]; decide)),
      exec_activationTimeout (.inl hact)⟩
  case window =>
    refine fun hact => ⟨fun hopen => ⟨⟨_, exec_healthyWrite_window hact hopen, ?_⟩, exec_activationTimeout (.inr hopen)⟩, fun hclosed => ?_⟩
    · obtain ⟨hdisp, hctxs, hfw⟩ := closeWindow_closes s { s.fw.report with sel := !s.fw.run, run := !s.fw.run } 1#8
      refine ⟨hdisp, hctxs, hfw.trans ?_⟩
      rw [Firmware.report_eq]
    · rw [exec_healthyWrite (.inr hclosed)]
      exact ⟨fun hw => congrArg (fun f => Host.Outcome.next { s with fw := f }) (if_neg (by rw [hw]; decide)),
        _, exec_activationTimeout_window hact hclosed, closeWindow_closes ..⟩
  case activationRefused => exact fun h => congrArg Host.Outcome.next (if_pos (by rw [Bool.or_eq_true]; exact h))
  case activation =>
    intro hact hrecov
    have hlive : exec (.liveActivation img) s = .next (if !verifies img then activationEvent { s with fw := put } 2#8
        else { s with fw := { put with act := true, actAt := s.time }, disp := { s.disp with hold := true } }) :=
      congrArg Host.Outcome.next (if_neg (by rw [show s.fw.act = false from hact, show s.fw.recov = false from hrecov]; decide))
    rw [hlive]
    refine ⟨fun hver => by rw [hver]; rfl, fun hbad => ⟨_, rfl, ?_⟩⟩
    have hev := activationEvent_event { s with fw := put } 2#8
    rw [hbad]
    exact ⟨hev.fw, hev.disp, hev.ctxs⟩
  case measurements =>
    rw [← measurementOf_eq]
    rfl
  case integrity =>
    have hall : measurementOf s 0#8 = .measurement 0#8 f.run (fwSvn (bankImage f f.run)) all := measurementOf_eq ..
    rw [← hall]
    rfl
  case actionRefused =>
    intro h
    refine congrArg Host.Outcome.next (if_pos ?_)
    change (s.fw.recov || !winOn s win || !x.isOn || decide (2 ^ x.qszl.toNat ≤ n)) = true
    simpa [or_assoc] using h
  case action =>
    intro hrecov hwin hon hroom
    refine ⟨_, exec_redfishTaskAction hrecov hwin hon hroom, by rw [cwq_putCwq, if_pos ⟨rfl, rfl⟩], fun k hk => ?_, ?_⟩
    · exact word8_memWrites_words (s := s) (sealedEntry_word hk)
    · exact word8_memWrites_words (s := s) (i := 7) sealedEntry_seal
  case agent =>
    by_cases hsame : (s.agentOf tenant).extractLsb' 0 2 = data.extractLsb' 0 2
    · refine ⟨_, congrArg Host.Outcome.next (agentWrite_same hsame), fun _ => rfl, agentOf_withAgent s tenant _,
        fun _ => ⟨rfl, rfl, rfl⟩, fun h => absurd hsame h⟩
    · exact ⟨_, congrArg Host.Outcome.next (agentWrite_changed hsame), fun _ => rfl, agentOf_withAgent s tenant _,
        fun h => absurd h hsame, fun _ => ⟨rfl, dropTenant_ctx _ tenant, dropTenant_leaves _ tenant⟩⟩
  case untraced => exact fun hen => congrArg Host.Outcome.next (traceEv_disabled hen _)
  case frozen =>
    exact fun hen hfrozen => ⟨_, exec_traceEvent_frozen w0 w1 hen hfrozen, rfl, rfl, toNat_saturatedCount _⟩
  case traced =>
    intro hen hfrozen
    refine ⟨_, exec_traceEvent_written w0 w1 hen hfrozen, rfl, ?_, ?_, ?_, ?_, fun a ha => memRead_memWrites_other ?_⟩
    · exact word8_memWrites_words (s := s) (i := 0) (ws := traceWords s w0 w1) rfl
    · exact word8_memWrites_words (s := s) (i := 1) (ws := traceWords s w0 w1) rfl
    · exact word8_memWrites_words (s := s) (i := 2) (ws := traceWords s w0 w1) rfl
    · exact word8_memWrites_words (s := s) (i := 3) (ws := traceWords s w0 w1) rfl
    · have hlen : ((traceWords s w0 w1).flatMap wordBytes).length = 32 := by simp [traceWords, length_wordBytes]
      omega
  case resync =>
    intro hb
    rw [exec_resyncGo hb]
    refine ⟨fun hbusy => by rw [askResync_busy hbusy], fun hidle hact => by rw [askResync_waits hidle hact],
      fun hidle hact hnot => ?_, fun hidle hact hhost hdue => ?_⟩ <;> rw [askResync_serves hidle hact]
    · rw [serveResync_eq hb, settlePark_notDue hnot]
      refine ⟨fun hshort => by rw [if_pos hshort]; rfl, fun hfits => ⟨_, rfl, ?_⟩⟩
      rw [if_neg (Nat.not_lt.mpr hfits)]
      exact putSummary_reads ..
    · obtain ⟨hlink, hctxs⟩ := serveResync_due hb hhost hdue false
      refine ⟨_, rfl, ?_, ?_, hctxs⟩ <;> rw [hlink] <;> rfl
  case recovery => exact fun hrecov => congrArg Host.Outcome.next (if_pos hrecov)
  case redfish =>
    intro hidle hact hrecov
    obtain ⟨y, hexec⟩ := exec_redfishResync pd hrecov hidle hact
    exact ⟨_, hexec, rfl, fun _ => rfl, rfl⟩

end Sys2Proof.Machine
end
